-- ==== Sys2Proof/Word.lean ====
section
/-!
DEFINITION. The words the block exchanges with the outside: bytes and register words, and the plain
names and records that commands carry as operands. The types here hold no behaviour.
-/

namespace Sys2Proof

/-- One byte (R7: multi-byte fields are little-endian sequences of these). -/
abbrev Byte := BitVec 8

/-- A sequence of bytes, the byte at the lowest address first (R7). -/
abbrev Bytes := List Byte

/-- One register of the management register space (chapter 17). -/
abbrev Reg := BitVec 64

/-- The two management ports (R140: equal in rights). -/
inductive MgmtPort where
  | a
  | b
  deriving DecidableEq, Repr

/-- The reference sources of Table 2.6, most preferred first. -/
inductive RefSource where
  | port0
  | port6
  | xo
  | watch
  deriving DecidableEq, Repr

/-- A port as the sender of a management-class request: a management port or PORT n. -/
inductive PortRef where
  | mgmt (p : MgmtPort)
  | port (n : Nat)
  deriving DecidableEq, Repr

/-- What a memory-mapped access reaches: the register space, or an offset in the doorbell page of a ring (Table 3.12). -/
inductive Target where
  | register (offset : Nat)
  | page (ring offset : Nat)
  deriving DecidableEq, Repr

/-- A Wilfer Link message (Table 13.3). The message type is the command that carries it; LEN is the
length of `payload`; `reserved` is the number read from the reserved fields and bits taken together
(0 when all are zero, R522). -/
structure Msg where
  flags    : Nat
  src      : Nat
  dst      : Nat
  tag      : Nat
  order    : Nat
  target   : Nat
  key      : Nat
  ctx      : Nat
  status   : Nat
  atomicOp : Nat
  view     : Nat
  reserved : Nat
  payload  : Bytes
  deriving DecidableEq, Repr

/-- What a command that reads stored blocks of a tensor finds: the bytes of a host-memory buffer that holds them, and, block by block,
why a block cannot be decoded. -/
structure BlockRead where
  buffer : Bytes
  bad    : List Nat
  deriving DecidableEq, Repr

/-- What else happens to MGMT_SEM in the always-on cycle of a write: the other port's write, and the bits that hardware sets (R13, R144). -/
structure SemRace where
  other : Option Reg
  hwSet : Reg
  deriving DecidableEq, Repr

/-- A page whose read from flash has ended, and whether all of it could be read. -/
structure PageRead where
  page : Nat
  ok   : Bool
  deriving DecidableEq, Repr

/-- What self-test can find failing (Table 16.2). -/
inductive TestFailure where
  | sett (den phys : Nat)
  | sram (unit : Nat)
  | logic (unit : Nat)
  | hbmStack (stack : Nat)
  | ddrChannel (ch : Nat)
  | lanePair (port pair : Nat)
  | nandChannel (ch : Nat)
  | nandDie (badger die : Nat)
  | analogue (unit : Nat)
  | boot (image : Nat)
  deriving DecidableEq, Repr

/-- IEEE 1149.1 instructions by the names R644 gives them. -/
inductive TapIns where
  | bypass
  | idcode
  | samplePreload
  | extest
  | extestPulse
  | extestTrain
  | internalScan
  | intest
  | memBist
  | other
  deriving DecidableEq, Repr

/-- The SPDM 1.3 requests of Table 0.2. -/
inductive SpdmReq where
  | getVersion
  | getCapabilities
  | negotiateAlgorithms
  | getDigests
  | getCertificate
  | challenge
  | getMeasurements (index : Nat)
  | keyExchange
  | mutualAuth
  deriving DecidableEq, Repr

/-- The PLDM requests of Table 0.2: Type 2 reads of a sensor, Type 2 requests that change set-up state (R146), and the
Type 5 firmware update of one image (R615); any other PLDM type is not supported. -/
inductive PldmReq where
  | monitor (sensor : Nat)
  | control (offset : Nat) (value : Reg)
  | update (image : Nat) (svn : Nat) (signed : Bool)
  | otherType
  deriving DecidableEq, Repr

/-- The blocks that hold at most one command while BUSY (R685). -/
inductive CmdBlock where
  | ten
  | ctx
  | ring
  | ext
  | wl
  deriving DecidableEq, Repr

/-- Why a stalled or abandoned access ended in a translation fault (Table 12.4). -/
inductive FaultCause where
  | notPresent
  | permission
  | owner
  | malformed
  | hostNotPresent
  deriving DecidableEq, Repr

/-- Why a ring-memory access failed (R104): a translation failure (cause 2) or any other failure (cause 3). -/
inductive RingFault where
  | translation
  | write
  deriving DecidableEq, Repr

/-- Why a block is retired (R577). -/
inductive RetireCause where
  | program
  | erase
  | corrected (bits : Nat)
  deriving DecidableEq, Repr

end Sys2Proof
end

