-- ==== Sys2Proof/Syntax.lean ====
section
/-!
DEFINITION. The commands of the block: one constructor per row of spec/opcode_table.json, in the table's order.
Each docstring gives the row's mnemonic and its governing rule. `w` is the number ADMISSION gave a piece of admitted
work; `mp` is the management port a set-up write comes from; bytes named as data are what a DMA read of the host's
memory returns (assumption 2). `fail` and `bad` name the blocks of a tensor at T3 or TH that fail, as Table 9.6's detail
gives them: bits [7:0] the kind, bits [23:8] the block's index in the range.
-/

namespace Sys2Proof

/-- A command: one whole step of the block (DESIGN CHOICE, assumption 2). -/
inductive Instr where
  /-- NOP (R131). -/
  | nop (w : Nat)
  /-- FENCE (R133). -/
  | fence (w : Nat)
  /-- SNAPSHOT_PIN (R137). -/
  | snapshotPin (w : Nat)
  /-- SNAPSHOT_RELEASE (R136). -/
  | snapshotRelease (w : Nat)
  /-- SEARCH (R207). -/
  | search (w : Nat) (query setVals : Bytes)
  /-- SEARCH_BATCH (R211). -/
  | searchBatch (w : Nat) (query setVals : Bytes)
  /-- INSERT (R251). -/
  | insert (w : Nat) (records vectors : Bytes)
  /-- DELETE (R254). -/
  | delete (w : Nat) (ids : Bytes)
  /-- UPSERT (R241). -/
  | upsert (w : Nat) (records vectors : Bytes)
  /-- BURROW_CREATE (R188). -/
  | burrowCreate (w : Nat) (codebook skeleton : Bytes)
  /-- BURROW_FREEZE (R194). -/
  | burrowFreeze (w : Nat)
  /-- BURROW_THAW (R195). -/
  | burrowThaw (w : Nat)
  /-- BURROW_DROP (R197). -/
  | burrowDrop (w : Nat)
  /-- MERGE_PARTIAL (R284). -/
  | mergePartial (w : Nat) (lists : Bytes)
  /-- TENSOR_CREATE (R380). -/
  | tensorCreate (w : Nat) (contents : Bytes)
  /-- TENSOR_RELEASE (R386). -/
  | tensorRelease (w : Nat)
  /-- TENSOR_MOVE (R377). -/
  | tensorMove (w : Nat)
  /-- TENSOR_GET (R382). -/
  | tensorGet (w : Nat) (blocks : BlockRead)
  /-- TENSOR_PUT (R382). -/
  | tensorPut (w : Nat) (contents : Bytes) (blocks : BlockRead)
  /-- TRAIL_POST (R398). -/
  | trailPost (w : Nat) (entries : Bytes)
  /-- EMB_GATHER (R351). -/
  | embGather (w : Nat) (indices offsets : Bytes)
  /-- EMB_UPDATE (R356). -/
  | embUpdate (w : Nat) (records vectors : Bytes)
  /-- EMB_STEP_END (R361). -/
  | embStepEnd (w : Nat)
  /-- TABLE_LOAD (R343). -/
  | tableLoad (w : Nat) (image : Bytes)
  /-- TABLE_SWITCH (R347). -/
  | tableSwitch (w : Nat)
  /-- KERNEL_LOAD (R316). -/
  | kernelLoad (w : Nat) (image : Bytes)
  /-- KERNEL_UNLOAD (R317). -/
  | kernelUnload (w : Nat)
  /-- KERNEL_RUN (R322). -/
  | kernelRun (w : Nat)
  /-- TOPK (R235). -/
  | topk (w : Nat) (scores indices : Bytes)
  /-- FAULT_RESUME_RETRY (R498). -/
  | faultResumeRetry (w : Nat)
  /-- FAULT_RESUME_ABORT (R498). -/
  | faultResumeAbort (w : Nat)
  /-- MIRROR_SYNC (R486). -/
  | mirrorSync (w : Nat) (records : Bytes)
  /-- SQ_TAIL_WRITE (R101). -/
  | sqTailWrite (port ring size value : Nat) (fetched : List Bytes)
  /-- CQ_HEAD_WRITE (R101). -/
  | cqHeadWrite (port ring size value : Nat)
  /-- ADMISSION (R117). -/
  | admission (ring : Nat)
  /-- DESCRIPTOR_COMPLETE (R110). -/
  | descriptorComplete (w : Nat)
  /-- HEAD_SHADOW_WRITE (R102). -/
  | headShadowWrite (ring : Nat)
  /-- RING_ERROR (R104). -/
  | ringError (ring : Nat) (why : RingFault)
  /-- RING_DRAIN_END (R97). -/
  | ringDrainEnd (ring : Nat)
  /-- CONTEXT_FREE (R92). -/
  | contextFree (ctx : Nat)
  /-- PIN_EXPIRE (R138). -/
  | pinExpire (ctx : Nat)
  /-- CTX_READ (R671). -/
  | ctxRead (mp : MgmtPort) (ctx : Nat)
  /-- CTX_CREATE (R92). -/
  | ctxCreate (mp : MgmtPort) (ctx : Nat)
  /-- CTX_MODIFY (R93). -/
  | ctxModify (mp : MgmtPort) (ctx : Nat)
  /-- CTX_DRAIN (R92). -/
  | ctxDrain (mp : MgmtPort) (ctx : Nat)
  /-- RING_READ (R671). -/
  | ringRead (mp : MgmtPort) (ring : Nat)
  /-- RING_CONFIGURE (R96). -/
  | ringConfigure (mp : MgmtPort) (ring : Nat)
  /-- RING_ENABLE (R97). -/
  | ringEnable (mp : MgmtPort) (ring : Nat)
  /-- RING_DISABLE (R97). -/
  | ringDisable (mp : MgmtPort) (ring : Nat)
  /-- MGMT_SEM_WRITE (R142). -/
  | mgmtSemWrite (mp : MgmtPort) (value : Reg) (race : SemRace)
  /-- SEM_LEASE_EXPIRE (R143). -/
  | semLeaseExpire
  /-- MGMT_LINK_DOWN (R143). -/
  | mgmtLinkDown (mp : MgmtPort)
  /-- REGISTER_WRITE (R140): an access to a register or to a doorbell page, as a port makes it: without a value a read (R10, R12, R98,
  R124), since the table has no row for reads (DESIGN CHOICE, assumption 99). -/
  | registerWrite (port : PortRef) (target : Target) (size : Nat) (value : Option Reg) (hwSet : Reg)
  /-- OBJECT_WINDOW_SELECT (R671). -/
  | objectWindowSelect (mp : MgmtPort) (offset : Nat) (value : Reg)
  /-- GLB_RESET (R664). -/
  | glbReset (mp : MgmtPort) (value : Reg)
  /-- MGMT_PORT_CLASS_WRITE (R666). -/
  | mgmtPortClassWrite (mp : MgmtPort) (value : Reg)
  /-- TIME_CTL_WRITE (R39). -/
  | timeCtlWrite (mp : MgmtPort) (value : Reg)
  /-- SLOT_COMMIT (R72). -/
  | slotCommit (mp : MgmtPort) (value : Reg)
  /-- SLOT_MAP_SWITCH (R72). -/
  | slotMapSwitch
  /-- TEN_BIND (R669). -/
  | tenBind (mp : MgmtPort) (tenancy : Nat)
  /-- TEN_MODIFY (R669). -/
  | tenModify (mp : MgmtPort) (tenancy : Nat)
  /-- TEN_TEARDOWN (R628). -/
  | tenTeardown (mp : MgmtPort) (tenancy : Nat)
  /-- TEARDOWN_KEY_DESTROY (R628). -/
  | teardownKeyDestroy (tenancy : Nat)
  /-- TENANCY_FREED (R595). -/
  | tenancyFreed (tenancy : Nat)
  /-- ZERO_FILL (R630). -/
  | zeroFill (region granule block : Nat)
  /-- EXT_READ (R671). -/
  | extRead (mp : MgmtPort) (ext : Nat)
  /-- EXT_MAP (R413). -/
  | extMap (mp : MgmtPort) (ext : Nat)
  /-- EXT_GRANT (R412). -/
  | extGrant (mp : MgmtPort) (ext host : Nat)
  /-- EXT_REVOKE (R443). -/
  | extRevoke (mp : MgmtPort) (ext host : Nat)
  /-- EXT_UNMAP (R445). -/
  | extUnmap (mp : MgmtPort) (ext : Nat)
  /-- DRAIN_END (R444). -/
  | drainEnd (ext : Nat)
  /-- DIR_HOST_WRITE (R679). -/
  | dirHostWrite (mp : MgmtPort) (host : Nat) (value : Reg)
  /-- XLT_FAULT_RING_WRITE (R686). -/
  | xltFaultRingWrite (mp : MgmtPort) (tenancy port : Nat) (value logAddr : Reg)
  /-- WL_READ_REGION (R671). -/
  | wlReadRegion (mp : MgmtPort) (id : Nat)
  /-- WL_EXPORT (R514). -/
  | wlExport (mp : MgmtPort) (id : Nat)
  /-- WL_WITHDRAW (R517). -/
  | wlWithdraw (mp : MgmtPort) (id : Nat)
  /-- WL_REKEY (R516). -/
  | wlRekey (mp : MgmtPort) (id : Nat)
  /-- WL_IMPORT (R518). -/
  | wlImport (mp : MgmtPort) (id : Nat)
  /-- WL_UNBIND (R518). -/
  | wlUnbind (mp : MgmtPort) (id : Nat)
  /-- WL_READ_WINDOW (R671). -/
  | wlReadWindow (mp : MgmtPort) (id : Nat)
  /-- WL_MIGRATE_CMD (R551). -/
  | wlMigrateCmd (mp : MgmtPort) (value : Reg)
  /-- MBR_JOIN (R549). -/
  | mbrJoin (mp : MgmtPort) (rank : Nat)
  /-- MBR_INIT (R540). -/
  | mbrInit (mp : MgmtPort)
  /-- ACTIVATE_SVN (R615). -/
  | activateSvn (mp : MgmtPort) (image : Nat)
  /-- COPY_MEASUREMENTS (R680). -/
  | copyMeasurements (mp : MgmtPort)
  /-- HLT_LB_CMD (R641). -/
  | hltLbCmd (mp : MgmtPort) (value : Reg)
  /-- HLT_REPAIR_CLR (R639). -/
  | hltRepairClr (mp : MgmtPort) (value : Reg)
  /-- ERR_HEAD_WRITE (R682). -/
  | errHeadWrite (mp : MgmtPort) (value : Reg)
  /-- NF_CFG_WRITE (R675). -/
  | nfCfgWrite (mp : MgmtPort) (badger : Nat) (value : Reg)
  /-- HBM_SPARE_WRITE (R20). -/
  | hbmSpareWrite (mp : MgmtPort) (value : Reg)
  /-- SHUTDOWN (R591). -/
  | shutdown (mp : MgmtPort)
  /-- DBG_SCAN_REQ (R644). -/
  | dbgScanReq (mp : MgmtPort) (value : Reg)
  /-- DEBUG_MEM_READ (R632). -/
  | debugMemRead (mp : MgmtPort) (word : Nat)
  /-- HELD_COMMAND_START (R685). -/
  | heldCommandStart (block : CmdBlock)
  /-- SOURCE_STABLE (R77). -/
  | sourceStable (src : RefSource)
  /-- SOURCE_ELIGIBLE (R76). -/
  | sourceEligible (src : RefSource)
  /-- SOURCE_FAIL (R79). -/
  | sourceFail (src : RefSource)
  /-- SOURCE_SWITCH_BACK (R83). -/
  | sourceSwitchBack
  /-- CLK_COAST (R84). -/
  | clkCoast
  /-- COAST_RELOCK (R84). -/
  | coastRelock
  /-- BEACON (R537). -/
  | beacon (port : Nat) (m : Msg)
  /-- RT_PPS_EDGE (R49). -/
  | rtPpsEdge
  /-- PPS_MISSING (R49). -/
  | ppsMissing
  /-- HOLDOVER_ENTRY (R50). -/
  | holdoverEntry
  /-- SLOT_BOUNDARY (R67). -/
  | slotBoundary
  /-- FRAME_BOUNDARY (R57). -/
  | frameBoundary
  /-- LEASE_READ (R420). -/
  | leaseRead (port rid dpa : Nat)
  /-- LEASE_EXPIRE (R422). -/
  | leaseExpire (ext host : Nat)
  /-- RD_S (R428). -/
  | rdS (port rid dpa : Nat)
  /-- RD_A (R428). -/
  | rdA (port rid dpa : Nat)
  /-- RD_I (R428). -/
  | rdI (port rid dpa : Nat)
  /-- WR_I (R428). -/
  | wrI (port rid dpa : Nat) (full : Bool) (data : Bytes)
  /-- WR_S (R428). -/
  | wrS (port rid dpa : Nat) (full : Bool) (data : Bytes)
  /-- EVICT (R428). -/
  | evict (port rid dpa : Nat)
  /-- MEM_SPEC_RD (R407). -/
  | memSpecRd (port rid dpa : Nat)
  /-- BIRSPI (R433). -/
  | birspi (port rid dpa : Nat)
  /-- BIRSPS (R433). -/
  | birsps (port rid dpa : Nat)
  /-- BIRSPE (R433). -/
  | birspe (port rid dpa : Nat)
  /-- PAGE_IN_DONE (R418). -/
  | pageInDone (ext : Nat) (read : PageRead)
  /-- PAGE_WRITE_OUT (R418). -/
  | pageWriteOut (ext page : Nat)
  /-- HBM_RETIRE (R446). -/
  | hbmRetire (stack : Nat)
  /-- HBM_STACK_FAIL (R446). -/
  | hbmStackFail (stack : Nat)
  /-- SPARE_TAKEOVER (R446). -/
  | spareTakeover
  /-- DDR_CHANNEL_FAIL (R448). -/
  | ddrChannelFail (ch : Nat) (failed : Bool)
  /-- TRANSLATION_COMPLETION (R479). -/
  | translationCompletion (port pasid addr size : Nat) (read write : Bool)
  /-- ATS_INVALIDATE (R502). -/
  | atsInvalidate (port pasid addr size : Nat)
  /-- INVALIDATION_COMPLETION (R503). -/
  | invalidationCompletion (port : Nat)
  /-- PRG_RESPONSE (R496). -/
  | prgResponse (port index : Nat) (success : Bool)
  /-- ATS_DISABLE (R500). -/
  | atsDisable (port : Nat)
  /-- FAULT (R489). -/
  | fault (w addr : Nat) (write : Bool) (cause : FaultCause) (level : Nat)
  /-- FAULT_RECORD_POST (R495). -/
  | faultRecordPost (tenancy port : Nat)
  /-- FAULT_TIMEOUT (R499). -/
  | faultTimeout (tenancy port id : Nat)
  /-- WALK_START (R201). -/
  | walkStart (w query : Nat)
  /-- RERANK_START (R224). -/
  | rerankStart (w query : Nat) (unreadable poisoned : List Nat)
  /-- TOPK_SELECT (R228). -/
  | topkSelect (w query : Nat)
  /-- BEAVER_MERGE_START (R259). -/
  | beaverMergeStart (burrow leaf : Nat)
  /-- TOMBSTONE_FOLD (R263). -/
  | tombstoneFold (burrow leaf : Nat)
  /-- LEAF_SWAP (R262). -/
  | leafSwap (burrow leaf : Nat)
  /-- LEAF_VERSION_FREE (R257). -/
  | leafVersionFree (burrow addr : Nat)
  /-- APPEND_RESUME (R267). -/
  | appendResume (w : Nat)
  /-- PQ_ENCODE_RUN (R255). -/
  | pqEncodeRun (w : Nat)
  /-- RUN_COMPLETE (R323). -/
  | runComplete (run : Nat) (data0 data1 : Bytes)
  /-- ITERATION_END (R322). -/
  | iterationEnd (run : Nat)
  /-- SETT_FAIL (R651). -/
  | settFail (den phys : Nat)
  /-- NOP_OP (R307). -/
  | nopOp (run sett cell : Nat)
  /-- LOOP (R307). -/
  | loop (run sett cell : Nat)
  /-- SYNC (R289). -/
  | sync (run sett cell : Nat)
  /-- HALT (R307). -/
  | halt (run sett cell : Nat)
  /-- LDM (R455). -/
  | ldm (run sett cell : Nat) (hostData : Bytes)
  /-- STM (R453). -/
  | stm (run sett cell : Nat)
  /-- LDS (R307). -/
  | lds (run sett cell : Nat)
  /-- STS (R307). -/
  | sts (run sett cell : Nat)
  /-- MCPY (R452). -/
  | mcpy (run sett cell : Nat) (hostData : Bytes)
  /-- MPUT (R452). -/
  | mput (run sett cell : Nat)
  /-- AMO (R308). -/
  | amo (run sett cell : Nat)
  /-- DOT (R298). -/
  | dot (run sett cell : Nat)
  /-- POPC (R300). -/
  | popc (run sett cell : Nat)
  /-- ACLR (R307). -/
  | aclr (run sett cell : Nat)
  /-- AMOV (R307). -/
  | amov (run sett cell : Nat)
  /-- ADD (R307). -/
  | add (run sett cell : Nat)
  /-- SUB (R307). -/
  | sub (run sett cell : Nat)
  /-- MUL (R307). -/
  | mul (run sett cell : Nat)
  /-- FMA (R307). -/
  | fma (run sett cell : Nat)
  /-- MAX (R307). -/
  | max (run sett cell : Nat)
  /-- MIN (R307). -/
  | min (run sett cell : Nat)
  /-- CVT (R295). -/
  | cvt (run sett cell : Nat)
  /-- ADDI (R307). -/
  | addi (run sett cell : Nat)
  /-- LOGIC (R307). -/
  | logic (run sett cell : Nat)
  /-- REDUCE (R303). -/
  | reduce (run sett cell : Nat)
  /-- SEND (R307). -/
  | send (run sett cell : Nat)
  /-- RECV (R307). -/
  | recv (run sett cell : Nat)
  /-- L1_WRITE_BACK (R456). -/
  | l1WriteBack (run sett line : Nat)
  /-- MOVE_START (R378). -/
  | moveStart (handle w : Nat)
  /-- MOVE_COMPLETE (R377). -/
  | moveComplete (handle w : Nat) (blocks : BlockRead)
  /-- TRAIL_MOVE_START (R399). -/
  | trailMoveStart (w entry : Nat)
  /-- TRAIL_RETURN (R401): `w` is the work of the trail that moved the tensor. -/
  | trailReturn (handle w : Nat)
  /-- EMB_PUBLISH (R361). -/
  | embPublish (table : Nat)
  /-- TABLE_SWITCH_APPLY (R347). -/
  | tableSwitchApply (table : Nat)
  /-- ROW_REPLICATE (R365). -/
  | rowReplicate (table row : Nat)
  /-- ROW_PROMOTE (R366). -/
  | rowPromote (table row : Nat)
  /-- ROW_DIRECTORY_SWITCH (R366). -/
  | rowDirectorySwitch (table row : Nat)
  /-- LOAD (R528). -/
  | load (port : Nat) (m : Msg)
  /-- LOAD_DATA (R526). -/
  | loadData (port : Nat) (m : Msg)
  /-- STORE (R530). -/
  | store (port : Nat) (m : Msg)
  /-- STORE_ACK (R528). -/
  | storeAck (port : Nat) (m : Msg)
  /-- ATOMIC (R531). -/
  | atomic (port : Nat) (m : Msg)
  /-- ATOMIC_DATA (R531). -/
  | atomicData (port : Nat) (m : Msg)
  /-- SEGMENT (R534). -/
  | segment (port : Nat) (m : Msg)
  /-- SEGMENT_DATA (R535). -/
  | segmentData (port : Nat) (m : Msg)
  /-- SEGMENT_TIMEOUT (R533). -/
  | segmentTimeout (ctx region rank : Nat)
  /-- HEARTBEAT (R546). -/
  | heartbeat (port : Nat) (m : Msg)
  /-- SUSPECT_TIMEOUT (R541). -/
  | suspectTimeout (rank : Nat)
  /-- SUSPECT (R541). -/
  | suspect (port : Nat) (m : Msg)
  /-- PROPOSE (R543). -/
  | propose (port : Nat) (m : Msg)
  /-- VOTE (R545). -/
  | vote (port : Nat) (m : Msg)
  /-- COMMIT (R545). -/
  | commit (port : Nat) (m : Msg)
  /-- PROPOSE_TIMEOUT (R544). -/
  | proposeTimeout
  /-- VIEW_INSTALL (R550). -/
  | viewInstall
  /-- NO_QUORUM_EXCLUDE (R548). -/
  | noQuorumExclude
  /-- STATE_COPY (R551). -/
  | stateCopy (port : Nat) (m : Msg)
  /-- STATE_ACK (R551). -/
  | stateAck (port : Nat) (m : Msg)
  /-- OWN (R554). -/
  | own (port : Nat) (m : Msg)
  /-- OWN_TAKEOVER (R554). -/
  | ownTakeover (rank serial : Nat)
  /-- FWD_QUERY (R274). -/
  | fwdQuery (port : Nat) (m : Msg)
  /-- PARTIAL (R277). -/
  | partialList (port : Nat) (m : Msg)
  /-- CANCEL (R522). -/
  | cancel (port : Nat) (m : Msg)
  /-- EMB_PEND (R362). -/
  | embPend (port : Nat) (m : Msg)
  /-- EMB_MARKER (R361). -/
  | embMarker (port : Nat) (m : Msg)
  /-- EMB_COPY (R365). -/
  | embCopy (port : Nat) (m : Msg)
  /-- FPORT_LINK_DOWN (R511). -/
  | fportLinkDown (port : Nat)
  /-- LANE_FAIL (R509). -/
  | laneFail (port pair : Nat)
  /-- HPORT_LANE_FAULT (R32). -/
  | hportLaneFault (port pair : Nat) (x8at128 x8at64 : Bool)
  /-- PORT_LINK_UP (R508). -/
  | portLinkUp (port : Nat) (good : List Nat) (partnerSpare at128 : Bool)
  /-- BRIDGE_CRC_FAIL (R27). -/
  | bridgeCrcFail (flit : Nat)
  /-- IDE_CHECK_FAIL (R627). -/
  | ideCheckFail (port : Nat)
  /-- IDE_KEY_PROG (R625). -/
  | ideKeyProg (port : Nat)
  /-- SPDM_REQUEST (R616). -/
  | spdmRequest (port : PortRef) (req : SpdmReq)
  /-- MCTP_MESSAGE (R141). -/
  | mctpMessage (port : PortRef) (setUp : Bool)
  /-- PLDM_REQUEST (R615). -/
  | pldmRequest (port : PortRef) (req : PldmReq)
  /-- CONFIG_ACCESS (R124). -/
  | configAccess (port offset : Nat) (write : Option Nat)
  /-- LOOPBACK_REQUEST_REMOTE (R643). -/
  | loopbackRequestRemote (port : Nat)
  /-- TAP_INSTRUCTION (R644). -/
  | tapInstruction (ins : TapIns)
  /-- GRAIN_WRITE (R566). -/
  | grainWrite (badger tenancy grain offset req : Nat) (data : Bytes)
  /-- PROGRAM_DONE (R567). -/
  | programDone (badger grain : Nat) (pass : Bool)
  /-- STRIPE_PARITY_WRITE (R570). -/
  | stripeParityWrite (badger superblock stripe : Nat)
  /-- FLASH_READ (R575). -/
  | flashRead (badger grain : Nat) (ecc : List Bool) (req : Nat)
  /-- FOLD (R573). -/
  | fold (badger grain : Nat)
  /-- GARBAGE_COLLECT (R581). -/
  | garbageCollect (badger group : Nat)
  /-- SCRUB_READ (R580). -/
  | scrubRead (badger grain : Nat) (ecc : List Bool) (correctedBits : Nat)
  /-- SCRUB_REWRITE (R576). -/
  | scrubRewrite (badger grain : Nat)
  /-- WEAR_LEVEL (R580). -/
  | wearLevel (badger superblock : Nat)
  /-- SLC_RESIZE (R571). -/
  | slcResize (badger : Nat)
  /-- BG_OP_SUSPEND (R583). -/
  | bgOpSuspend (badger die : Nat)
  /-- BG_OP_RESUME (R582). -/
  | bgOpResume (badger die : Nat)
  /-- DIE_TEMP_READ (R565). -/
  | dieTempRead (badger die : Nat) (temp : Int)
  /-- BLOCK_RETIRE (R577). -/
  | blockRetire (badger die block : Nat) (why : RetireCause)
  /-- DIE_FAIL (R578). -/
  | dieFail (badger die : Nat)
  /-- READ_ONLY_ENTER (R586). -/
  | readOnlyEnter (badger : Nat)
  /-- READ_ONLY_LEAVE (R588). -/
  | readOnlyLeave (badger : Nat)
  /-- MAP_REBUILD (R592). -/
  | mapRebuild (badger : Nat)
  /-- CHECKPOINT_LOAD (R591). -/
  | checkpointLoad (badger : Nat)
  /-- MAP_READY (R593). -/
  | mapReady (badger : Nat)
  /-- PERST_N_ASSERT (R701): the pin goes low, and, once it has been low for 1 µs, is taken as asserted (R700). -/
  | perstNAssert
  /-- PERST_N_DEASSERT (R635). -/
  | perstNDeassert (straps : Nat)
  /-- WARM_RESET (R635). -/
  | warmReset
  /-- MAIN_RAIL_FAULT (R702). -/
  | mainRailFault
  /-- MAIN_RAIL_RESTORE (R702). -/
  | mainRailRestore
  /-- AUX_POWER_LOSS (R645). -/
  | auxPowerLoss
  /-- SELF_TEST (R636). -/
  | selfTest (failures : List TestFailure) (bankB : Nat) (shadow : Bool)
  /-- DEV_READY_RISE (R636). -/
  | devReadyRise
  /-- THERM_WARN (R703). -/
  | thermWarn (maxC : Nat)
  /-- THERM_ESCALATE (R703). -/
  | thermEscalate (maxC : Nat)
  /-- THERM_TRIP (R704). -/
  | thermTrip (maxC : Nat)
  /-- THERM_CLEAR (R703). -/
  | thermClear (maxC : Nat)
  /-- ERROR_DETECTED (R646). -/
  | errorDetected (cls source code : Nat) (tenancy : Option Nat) (unit addr objKind objId info : Nat)
  /-- AUX_POWER_ON (R701). -/
  | auxPowerOn
  /-- LOOPBACK_END (R641). -/
  | loopbackEnd (compared errors : Nat)
  /-- HPORT_LINK_DOWN (R673). -/
  | hportLinkDown (port : Nat)
  deriving DecidableEq, Repr

end Sys2Proof
end

