-- ==== Sys2Proof/Decode.lean ====
section
/-!
DEFINITION. The commands that words spell by the bits of spec/opcode_table.json. The table gives no row any bits: the block
takes commands, not encoded words (assumption 7).
-/

namespace Sys2Proof

/-- No row of the table has bits, so no word of any length spells a command (DEDUCED, assumption 7). -/
def decodeTableWord (_nbits _w : Nat) : Option Instr := none

end Sys2Proof
end

