-- ==== Sys2Proof/Config.lean ====
section
/-!
DEFINITION. What one part fixes and the spec leaves open: free values, with no body, so that no proof can see
one (assumption 3), and the constants of the part.
-/

namespace Sys2Proof.Config

/-- The free value drawn n-th (assumption 3). -/
opaque free : Nat → Nat

/-- GLB_ID.STEPPING, per part (Table 17.2). -/
opaque stepping : BitVec 16

/-- GLB_SERIAL, per part (Table 17.2). -/
opaque serial : BitVec 64

/-- The data key of a tenancy of a generation: a pair of AES-256 keys, 64 bytes, drawn from a DRBG (R619). -/
opaque dataKey : (tenancy gen : Nat) → Bytes

/-- Contents of an answer whose layout a published standard gives and this spec does not (Table 0.2): SPDM, MCTP,
PLDM and configuration-space data, by request number. -/
opaque standardAnswer : Nat → Bytes

/-- Measurement 1: the digest of the boot ROM, fused at manufacture (Table 15.9). -/
opaque romDigest : Bytes

/-- Measurements 2–5: the digest of an image as loaded, by image, bank and security version number; the spec gives no image. -/
opaque imageDigest : (image bank svn : Nat) → Bytes

/-- Measurement 0x10: SHA-384 over tenancy states and modes, the allotments, the slot and background maps and the port classes; the spec
gives no order of these bytes. -/
opaque setUpDigest : (tenancies : List (Nat × Nat × Bool)) → (allotments maps : List (Nat × BitVec 64)) → (classes : Nat) → Bytes

/-- The body of a CODED block that Erord's own encoder makes of a block's bytes under an element type: R394 says that it is
deterministic and not which literals and matches it takes. -/
opaque codedBody : (elem : Nat) → Bytes → Bytes

/-- A configuration-space register of an H-port (R124): the spec gives no contents but that no CXL.cache capability is advertised (R2). -/
opaque configSpace : (port offset : Nat) → Nat

/-- Where the configuration space advertises CXL.cache: offset and bit, which CXL 3.2 gives and this spec does not. -/
opaque cacheCapable : Nat × Nat

/-- What a sensor of PLDM Type 2 shows of the temperature, the throttle level and the health causes: the spec gives no sensor list. -/
opaque sensor : (number maxC throttle causes : Nat) → Bytes

/-- The device identity key, derived from the fused secret (R618). -/
opaque identityKey : Bytes

/-- The alias key that the identity key and measurements 1–6 give (R618). -/
opaque aliasKey : (identity measurements : Bytes) → Bytes

/-- The chain of certificate slot 0, from Ohmolkan's root to the identity key and on to an alias key (R618): public parts only. -/
opaque certChain : (identity own : Bytes) → Bytes

/-- What the SPDM responder answers to a request by number, with the alias key it signs with. -/
opaque spdmAnswer : (request : Nat) → (own : Bytes) → Bytes

/-- What CVT leaves in a lane above its packed elements, by lane, operation word and source register (Table 7.5 gives no value)
(DESIGN CHOICE, assumption 60). -/
opaque cvtLane : (lane word : Nat) → (src : List Nat) → BitVec 32

/-- The shared scale with which CVT unpacks MX elements, by operation word and source register: Table 7.5 names no place of it
(DESIGN CHOICE, assumption 60). -/
opaque mxScale : (word : Nat) → (src : List Nat) → BitVec 8

/-- The way of a full L1 set that leaves it, by the line numbers of its ways and of the line that comes (R327 names no policy)
(DEDUCED, assumption 61). -/
opaque l1Victim : (ways : List Nat) → (key : Nat) → Fin 8

/-- The set of the full-vector cache that a vector falls into: hardware-private (R402) (DESIGN CHOICE, assumption 122). -/
opaque vcacheSet : (burrow slot : Nat) → Nat

/-- The set of a tenancy's den-cache sets, and of its HBM cache, that a line falls into: hardware-private (R416, R417)
(DESIGN CHOICE, assumption 12). -/
opaque denSet : (line : Nat) → Nat
/-- The set of the HBM cache that a line falls into, which is hardware-private (R417) (DESIGN CHOICE, assumption 12). -/
opaque hbmcSet : (line : Nat) → Nat

/-- The way of a full den-cache set that leaves it, by the lines of its ways and the line that comes (R416 names no policy)
(DESIGN CHOICE, assumption 12). -/
opaque denVictim : (ways : List Nat) → (line : Nat) → Nat

/-- EXACT_SCORE under COSINE for a query of norm zero: the score of a stored vector, which no rule gives (DEDUCED, assumption 57). -/
opaque zeroScore : (query vector : Bytes) → BitVec 32

/-- The 32 bytes of a trace record, whose layout the spec does not give (R633): Rack Time, event, tenancy, context, ring, tag, opcode,
status and object. -/
opaque traceBytes : List Nat → Bytes

/-- A SHA-384 digest. -/
opaque digest : Bytes → Bytes

/-- Power-on measurement of a bank's image security version number in use (R611). -/
opaque imageSvn : (image bank : Nat) → Nat

/-- A raw page of the flash array that no program has written since the part was made (R632). -/
opaque rawPage : (page offset : Nat) → Byte

end Sys2Proof.Config
end

