-- ==== Sys2Proof/Machine/State.lean ====
section
/-!
DEFINITION. The state of the block as plain data, the reasons a step can stop, and the state after reset.
INVENTORY.md, section State, lists every field with its rule and reset value.
-/

namespace Sys2Proof.Machine

/-- A finite table by number: entries in ascending key order, an absent key reading as the reader's default. -/
abbrev Tab (α : Type) := List (Nat × α)

/-- What the block sends out of its ports and pins, in the order sent. The model's own field (assumption 2): host memory,
hosts, link partners and the management plane lie outside the block. -/
inductive Output where
  /-- A DMA write to host memory, under a PASID on an H-port. -/
  | dma (port pasid addr : Nat) (data : Bytes)
  /-- An MSI-X message (R113). -/
  | msix (port vector : Nat)
  /-- The read of `n` submission entries from `index` on (R103). -/
  | fetch (ring index n : Nat)
  /-- A Wilfer Link message of a type of Table 13.4, sent on a port. -/
  | wilfer (port type : Nat) (m : Msg)
  /-- A CXL.mem response to a requester: data with or without poison, or a completion. -/
  | cxl (port rid dpa : Nat) (data : Option Bytes) (poison : Bool)
  /-- A back-invalidate to a host (R432): kind 0 BISnpInv, 1 BISnpData, 2 BISnpCur. -/
  | bisnp (port host dpa kind : Nat)
  /-- A maskable event of a flag register (R654). -/
  | event (offset bit : Nat)
  /-- A maskable event that no flag register carries (R474, R646, R714). -/
  | corrEvent (source unit : Nat)
  /-- The message of a non-maskable event to each management port (R655). -/
  | nmi (cause : Nat)
  /-- The value a register or doorbell read returns. -/
  | readData (port : PortRef) (offset : Nat) (value : Reg)
  /-- An answer to a management or configuration request: a code (0 success) and its data. -/
  | reply (port : PortRef) (code : Nat) (data : Bytes)
  /-- The response of an address or message the port does not decode (R125). -/
  | undecoded (port : PortRef)
  /-- An ATS Translation Request for a 4 KiB page (R478). -/
  | atsRequest (port pasid page : Nat) (write : Bool)
  /-- A PRI Page Request (R493). -/
  | pageRequest (port pasid addr index : Nat)
  /-- An ATS Invalidation Completion (R503). -/
  | invalCompletion (port : Nat)
  /-- Data of a flash read, to its requester (R569). -/
  | flashData (req : Nat) (status : Nat) (data : Bytes)
  /-- Acknowledgement of a flash write, with its status (R567, R585). -/
  | flashAck (req : Nat) (status : Nat)
  deriving DecidableEq, Repr

/-- Rack Time (chapter 2, R35–R60) (DESIGN CHOICE, assumption 5). -/
structure Time where
  /-- The N die's counter in ns (R35, R36), against which every boundary is handled (assumption 5). -/
  now          : Nat
  /-- The S die's counter, never more than 2 ns from the N die's (R36). -/
  nowS         : Nat
  valid        : Bool
  locked       : Bool
  ahead        : Bool
  holdover     : Bool
  master       : Bool
  stratum      : Nat
  /-- Offset of the last beacon (TIME_STATUS.OFFSET) and what is left of it to slew (R46, R48). -/
  offset       : Int
  slewLeft     : Int
  /-- Ticks modulo 2,000: at most one nanosecond of slew per 2,000 ns (±500 ppm, R46). -/
  phase        : Nat
  /-- The last frequency correction applied to TCLK, as nanoseconds gained in 2,000 (R51, R46). -/
  freq         : Int
  /-- Runs of R42: beacons within ±20 ns, and beyond. -/
  goodRun      : Nat
  badRun       : Nat
  /-- Local time of the last beacon the counter was disciplined to (R40, R50, R538). -/
  lastBeacon   : Nat
  /-- Per F-port: local time of the last beacon that met R538 (R40). -/
  portBeacon   : Tab Nat
  /-- Per F-port: TX_TIME, receive time and RESIDENCE of the last beacon received (Table 13.8). -/
  echo         : Tab (Nat × Nat × Nat)
  /-- R49: validity of RT_PPS, its runs, and the last whole second whose edge was used or found missing. -/
  ppsValid     : Bool
  ppsGoodRun   : Nat
  ppsBadRun    : Nat
  ppsSecond    : Option Nat
  /-- The frame at whose boundary a Badger window last opened (R59). -/
  windowAt     : Option Nat
  /-- The frame boundary last acted on (R57). -/
  lastFrame    : Nat
  /-- The slot boundary last acted on. -/
  lastSlot     : Nat
  deriving DecidableEq, Repr

/-- One reference source (R74–R78). -/
structure Source where
  stable   : Bool
  eligible : Bool
  failed   : Bool
  deriving DecidableEq, Repr

/-- Clock sources (chapter 2, R74–R88). -/
structure Clock where
  port0  : Source
  port6  : Source
  xo     : Source
  watch  : Source
  /-- The active source; none while coasting or before start-up. -/
  active : Option RefSource
  coast  : Bool
  deriving DecidableEq, Repr

/-- One committed set of shadow maps (R72, R670): register values, target frame, and what has taken effect. -/
structure Commit where
  maps      : Tab Reg
  target    : Nat
  /-- The modes that take effect with its slot-granular maps (R596). -/
  modes     : Tab Bool
  slotDone  : Bool
  frameDone : Bool
  deriving DecidableEq, Repr

/-- An access of a work (or of a cell of its run: 1 + 8 × image sett + cell; 0 for the work itself) to a unit with a slot map: queued, or
served in a slot of its tenancy (R64, R67). -/
structure UnitWait where
  w       : Nat
  cell    : Nat
  tenancy : Nat
  unit    : Nat
  served  : Bool
  deriving DecidableEq, Repr

/-- Slot maps and lending (R61–R73, R600–R602). Map registers are keyed by their offset in the register space. -/
structure Slots where
  shadow       : Tab Reg
  live         : Tab Reg
  pending      : Option Commit
  lastFrame    : Nat
  /-- Per map index: the last period served by one tenancy alone, and that tenancy: the owner that came first, or the
  borrower (R66–R69). -/
  lent         : Tab (Nat × Nat)
  /-- Per map index: the last borrower (R68); absent counts as tenancy 0. -/
  lastBorrower : Tab Nat
  /-- Per map index: the SHARED tenancy whose background work was served last (R601); absent counts as tenancy 0. -/
  lastServed   : Tab Nat
  /-- Accesses that wait for a unit's slot, and those that have had theirs and whose command has not yet acted. -/
  waits        : List UnitWait
  deriving DecidableEq, Repr

/-- A context entry (Table 3.1) with the P and full frame number Erord keeps of a pin (R138). -/
structure Ctx where
  state         : Nat
  port          : Nat
  tenancy       : Nat
  pasid         : Nat
  xltRoot       : Nat
  defaultBurrow : Nat
  pinFramesMax  : Nat
  pinSeq        : Nat
  pinBurrow     : Nat
  pinned        : Bool
  pinFrame      : Nat
  pinLife       : Nat
  qInflight     : Nat
  qUpdates      : Nat
  qTensorBytes  : Nat
  keySet        : List Nat
  /-- Items inserted, deleted or upserted in the frame `updFrame` (Q_UPDATES, step 10 of Table 3.9). -/
  updFrame      : Nat
  updCount      : Nat
  deriving DecidableEq, Repr

/-- The states of a ring (Table 3.3). -/
inductive RingState where
  | disabled
  | enabled
  | draining
  | error
  deriving DecidableEq, Repr

/-- A ring (R95–R104, Tables 3.4 and 17.7). -/
structure Ring where
  state      : RingState
  cause      : Nat
  configured : Bool
  sqBase     : Nat
  cqBase     : Nat
  headShadow : Nat
  pasid      : Nat
  tenancy    : Nat
  port       : Nat
  service    : Bool
  sqLog2     : Nat
  cqLog2     : Nat
  msix       : Nat
  sqTail     : Nat
  cqHead     : Nat
  sqHead     : Nat
  /-- Next completion entry to be written, and the phase of the present pass (R109). -/
  cqTail     : Nat
  phase      : Bool
  /-- Entries reserved by admitted descriptors and not yet written (R111). -/
  reserved   : Nat
  /-- Entries fetched and not yet admitted, first at SQ_HEAD (R103). -/
  fetched    : List Bytes
  /-- SQ_HEAD has changed since the head shadow was last written, and the slot of that write (R102). -/
  shadowDue  : Bool
  shadowSlot : Nat
  deriving DecidableEq, Repr

/-- What a completion carries (Table 3.8). -/
structure Result where
  status : Nat
  flags  : Nat
  count  : Nat
  snap   : Nat
  detail : Nat
  b24    : Nat
  deriving DecidableEq, Repr

/-- A walk placed on a walker: walker, context and table banks (R199–R201). -/
structure Walk where
  walker : Nat
  ctx    : Nat
  banks  : List Nat
  deriving DecidableEq, Repr

/-- A candidate of a scan: FP32 score, item id, internal slot and input position (R215, R219). -/
structure Cand where
  score : Nat
  key   : Nat
  slot  : Nat
  pos   : Nat
  deriving DecidableEq, Repr

/-- How far a query has come. -/
inductive QStage where
  | waiting
  | walking
  | scanned
  | ranked
  | done
  deriving DecidableEq, Repr

/-- One query of a SEARCH or SEARCH_BATCH (chapter 5). -/
structure Query where
  stage    : QStage
  lead     : Option Walk
  partner  : Option Walk
  vec      : List Nat
  nprobe   : Nat
  passed   : Nat
  widened  : Bool
  cands    : List Cand
  dropped  : Nat
  poisoned : Bool
  media    : Bool
  status   : Nat
  results  : List Cand
  deriving DecidableEq, Repr

/-- One item of an update that has been routed (R251): kind 0 INSERT, 1 UPSERT, 2 DELETE. -/
structure UpdItem where
  kind : Nat
  key  : Nat
  attr : Nat
  code : Bytes
  vec  : Bytes
  slot : Nat
  leaf : Nat
  deriving DecidableEq, Repr

/-- A message origin of forwarded work: port, source rank, tag, shard rank (R274). -/
structure Origin where
  port  : Nat
  src   : Nat
  tag   : Nat
  shard : Nat
  deriving DecidableEq, Repr

/-- A piece of admitted work: a descriptor between admission and completion. -/
structure Work where
  id       : Nat
  desc     : Bytes
  opcode   : Nat
  ring     : Nat
  /-- Work forwarded from another device has no ring (R274). -/
  origin   : Option Origin
  ctx      : Nat
  tenancy  : Nat
  port     : Nat
  pasid    : Nat
  xltRoot  : Nat
  /-- Credit class: 0 none, 1 QUERY, 2 UPDATE, 3 MOVE, 4 COMPUTE, 5 CONTROL; and the credits it holds (R126). -/
  cls      : Nat
  credits  : Nat
  /-- Frame and snapshot sequence (or step) fixed at admission (R207, R355). -/
  frame    : Nat
  snap     : Nat
  /-- The pin asked for depends on a SNAPSHOT_PIN or SNAPSHOT_RELEASE of the context admitted before and not yet ended (R122). -/
  snapLate : Bool
  /-- The burrow named, after USE_DEFAULT. -/
  burrow   : Nat
  /-- A state error that the object's state at admission decides (R122, R123). -/
  verdict  : Option Result
  /-- The burrow named was FREE at admission: the checks against its parameters are still to be made (R123, R205). -/
  unchecked : Bool
  /-- The group registers of the burrow or table named, as admission found them (R677). -/
  group    : Tab Reg
  queries  : List Query
  items    : List UpdItem
  /-- The items of an update have their leaves and slots (R251). -/
  routed   : Bool
  outcomes : List Nat
  firstSeq : Nat
  lastSeq  : Nat
  /-- Codes computed by PQ_ENCODE (R255); none while they are wanted and missing. -/
  codes    : Option (List Bytes)
  /-- A fault that stalls this work (R489). -/
  stalled  : Bool
  result   : Option Result
  deriving DecidableEq, Repr

/-- An item of a leaf's body (R174, Table 4.10). -/
structure BodyItem where
  key  : Nat
  attr : Nat
  code : Bytes
  slot : Nat
  tomb : Bool
  deriving DecidableEq, Repr

/-- A side-list entry (Tables 4.12 and 4.13). -/
inductive SideEntry where
  | insert (slot seq key attr : Nat) (code : Bytes)
  | tomb (target pos seq key : Nat)
  deriving DecidableEq, Repr

/-- A side-list chunk: its address and its entries in order (R177, R180). -/
structure Chunk where
  addr    : Nat
  entries : List SideEntry
  deriving DecidableEq, Repr

/-- A leaf version (R173). -/
structure Leaf where
  root     : Bool
  items    : List BodyItem
  version  : Nat
  parent   : Nat
  mergeSeq : Nat
  stack    : Nat
  keys     : Nat
  side     : List Chunk
  deriving DecidableEq, Repr

/-- An internal node (R170): children (LEAF bit, address) with their BF16 centroids and FP32 norms. -/
structure Node where
  depth    : Nat
  version  : Nat
  parent   : Nat
  children : List (Bool × Nat)
  cents    : List (List Nat)
  norms    : List Nat
  deriving DecidableEq, Repr

/-- An entry of the swap log (R256). -/
structure Swap where
  installed : Nat
  replaced  : Nat
  frame     : Nat
  deriving DecidableEq, Repr

/-- A Beaver merge between its start and its swap (R259–R262): the leaf merged, its point M, and the frame in whose background
slots it began. -/
structure Merge where
  leaf  : Nat
  point : Nat
  frame : Nat
  deriving DecidableEq, Repr

/-- A burrow (Table 4.6) and its structures (Table 4.5) (DESIGN CHOICE, assumption 14). -/
structure Burrow where
  state      : Nat
  vecFmt     : Nat
  metric     : Nat
  pqBits     : Nat
  dim        : Nat
  pqM        : Nat
  tenancy    : Nat
  levels     : Nat
  fullStore  : Nat
  maxNprobe  : Nat
  fanoutMax  : Nat
  root       : Nat
  rootLeaf   : Bool
  codebookAt : Nat
  maxItems   : Nat
  items      : Nat
  leafMax    : Nat
  sideMax    : Nat
  nextSeq    : Nat
  snapSeq    : Nat
  slotBase   : Nat
  slotCount  : Nat
  vecBase    : Nat
  created    : Nat
  homeDen    : Nat
  merged     : Bool
  codebook   : List Nat
  nodes      : Tab Node
  leaves     : Tab Leaf
  /-- Item map: item id to internal slot and the leaf version holding the live copy (R181). -/
  itemMap    : Tab (Nat × Nat)
  /-- Slots ever taken and the slots freed since (R182). -/
  slotNext   : Nat
  slotFree   : List Nat
  vectors    : Tab Bytes
  swaps      : List Swap
  /-- Replaced versions still readable: address and the frame of the swap (R257). -/
  old        : List (Nat × Nat)
  merges     : List Merge
  /-- Bytes of HBM reserved (R190), and the DDR range that holds key blocks, item map and slot table. -/
  hbmRes     : Nat
  ddrAt      : Nat
  ddrRes     : Nat
  deriving DecidableEq, Repr

/-- A partial list of one shard (R275). -/
structure Partial where
  shard   : Nat
  status  : Nat
  snap    : Nat
  passed  : Nat
  nprobe  : Nat
  dropped : Nat
  entries : List Cand
  deriving DecidableEq, Repr

/-- A group search at its coordinator (R273–R283): phase 0 fanned out, 1 collected, 2 completed. -/
structure GroupSearch where
  w        : Nat
  /-- The number its messages carry in their tags. -/
  tagNo    : Nat
  /-- The burrow, the group key and the map entries of the shards, as the coordinator had them (R270, R283). -/
  burrow   : Nat
  key      : Nat
  map      : List Nat
  phase    : Nat
  size     : Nat
  selfRank : Option Nat
  /-- Per shard rank: the device the query was last sent to; absent: not covered. -/
  sentTo   : Tab Nat
  partials : List Partial
  message  : Bytes
  deriving DecidableEq, Repr

/-- One cell: its vector and accumulator registers (16 lanes of 32 bits each; a register not listed is zero), and where it stands
in its program. -/
structure Cell where
  v      : Tab (List Nat)
  acc    : Tab (List Nat)
  pc     : Nat
  /-- Open loops, innermost first: first word, last word, passes left (LOOP, Table 7.5). -/
  loops  : List (Nat × Nat × Nat)
  halted : Bool
  /-- SYNCs reached, and whether the cell stands at the last of them. -/
  syncs  : Nat
  atSync : Bool
  deriving DecidableEq, Repr

/-- An L1 line: its address, 64 bytes, and the dirty mask per byte (R327, R456). -/
structure L1Line where
  addr  : Nat
  data  : Bytes
  dirty : List Bool
  deriving DecidableEq, Repr

/-- A loaded function image (Table 7.6) as its sections. -/
structure Image where
  tenancy : Nat
  setts   : Nat
  iterMax : Nat
  scratch : Nat
  /-- Operation words: 64 per cell, 8 cells per image sett (R310). -/
  prog    : List (BitVec 64)
  /-- Routes: source sett, source cell, destination sett, destination cell, depth (R311). -/
  routes  : List (Nat × Nat × Nat × Nat × Nat)
  consts  : Bytes
  bytes   : Nat
  /-- Where its copy stands in DDR (R316). -/
  addr    : Nat
  deriving DecidableEq, Repr

/-- A run of a function (R318–R335). -/
structure Run where
  w         : Nat
  tenancy   : Nat
  den       : Nat
  image     : Image
  resident  : Option Nat
  iters     : Nat
  iterDone  : Nat
  started   : Bool
  /-- Logical sett of each image sett while the run executes; empty otherwise. -/
  setts     : List Nat
  /-- The logical setts in which the run's state lies unsaved (R330). -/
  home      : List Nat
  lastFrame : Nat
  admitSeq  : Nat
  saveSlot  : Bool
  stalled   : Bool
  cells     : List Cell
  scratch   : List (Tab Byte)
  l1        : List (List L1Line)
  routes    : List (List (List Nat))
  count     : Nat
  ovf       : Bool
  invalid   : Bool
  range     : Bool
  frames    : Nat
  restores  : Nat
  ended     : Option (Nat × Nat)
  deriving DecidableEq, Repr

/-- One version of an embedding table: TAG and rows in stored format, the step at which the copy of a row was published, the
copies kept for readers of earlier steps: step of the replacement, row, bytes (R364); and the copies held of rows of other shards, by global
row: step and bytes (R365, R367) (DEDUCED, assumption 64). -/
structure TabVersion where
  tag     : Nat
  rows    : Tab Bytes
  rowStep : Tab Nat
  kept    : List (Nat × Nat × Bytes)
  replicas : Tab (Nat × Bytes)
  deriving DecidableEq, Repr

/-- Pending state of one row from one source device in one step (Table 8.4): mode 1 ADD, 2 SET. -/
structure PendRow where
  step : Nat
  src  : Nat
  row  : Nat
  mode : Nat
  vec  : List Nat
  deriving DecidableEq, Repr

/-- An EMB_STEP_END in its phases (Table 8.5). -/
structure StepEnd where
  w          : Nat
  step       : Nat
  phase      : Nat
  /-- The frame in which the sources' states were combined. -/
  combined   : Option Nat
  newRows    : Tab Bytes
  published  : Nat
  unchanged  : Nat
  /-- Members whose markers are not awaited (R363, R367). -/
  unawaited  : List Nat
  deriving DecidableEq, Repr

/-- An embedding table (chapter 8). -/
structure Table where
  tenancy   : Nat
  homeDen   : Nat
  fmt       : Nat
  tier      : Nat
  dim       : Nat
  rows      : Nat
  pendRows  : Nat
  cur       : TabVersion
  staged    : Option TabVersion
  /-- Replaced versions still read by earlier gathers, with the frame of the switch (R348). -/
  old       : List (TabVersion × Nat)
  /-- A TABLE_SWITCH waiting for its boundary: work, frame, late flag (R347). -/
  switch    : Option (Nat × Nat × Bool)
  doneStep  : Nat
  /-- Last step whose EMB_STEP_END has been admitted. -/
  endStep   : Nat
  pending   : List PendRow
  stepEnd   : Option StepEnd
  /-- Markers received: step, phase and rank (R361). -/
  markers   : List (Nat × Nat × Nat)
  /-- By step: the first of its EMB_UPDATEs here (R346). -/
  updFirst  : Tab Nat
  /-- Of rows homed here, the devices that hold a copy: global row and rank (R365). -/
  holders   : List (Nat × Nat)
  /-- Reads of a row in the present superframe. -/
  reads     : Tab Nat
  inHbm     : List Nat
  /-- Copies on their way to HBM, with the frame the copy began in (R366). -/
  promoting : Tab (Nat × Bytes)
  /-- The storage reserved (R345), as address and length. -/
  areas     : List (Nat × Nat)
  deriving DecidableEq, Repr

/-- A tensor record (Table 9.2). Its contents lie in device memory at T1 and T2, on the Badgers at T3, in the host's buffer at TH (R370)
(DESIGN CHOICE, assumption 19). -/
structure Tensor where
  state     : Nat
  tier      : Nat
  elem      : Nat
  homeDen   : Nat
  gen       : Nat
  bytes     : Nat
  name      : Nat
  stored    : Nat
  loc       : Nat
  thBytes   : Nat
  tenancy   : Nat
  ownerCtx  : Nat
  lastFrame : Nat
  pasid     : Nat
  /-- The H-port of the context that placed the TH buffer, and where the bound buffer lies (R381). -/
  port      : Nat
  thAddr    : Nat
  /-- Writers completed so far (R401). -/
  writers   : Nat
  deriving DecidableEq, Repr

/-- A return that HOLD_UNTIL asks for (R401): the TRAIL_POST and the handle, time, tier to return to, writers completed at the move. -/
structure TrailHold where
  w       : Nat
  handle  : Nat
  time    : Nat
  tier    : Nat
  writers : Nat
  deriving DecidableEq, Repr

/-- A piece of work in a tensor's order (R376): its descriptor, or the trail entry or the return it moves for; a CREATE stands in no order and
takes its handle at its start; the move context it holds (R378). -/
structure TensorJob where
  handle  : Nat
  w       : Nat
  tenancy : Nat
  trail   : Option (Nat × Nat)
  hold    : Option TrailHold
  create  : Bool
  writer  : Bool
  /-- It is carried by a Squirrel and so needs a move context; a RELEASE does not. -/
  moves   : Bool
  target  : Nat
  started : Bool
  move    : Option (Nat × Nat)
  /-- Where the target copy of a move in progress goes, and the room it takes there (R377). -/
  dest    : Option Nat
  room    : Nat
  /-- Works with lower numbers were admitted before it (R376). -/
  before  : Nat
  /-- Its place in the order in which pieces of work became ready to start (R378); 0 before. -/
  ready   : Nat
  /-- The record that its last step sets once flash has taken the copy written there, and the status of a write that has failed. -/
  sent    : Option Tensor
  failed  : Option Nat
  deriving DecidableEq, Repr

/-- A trail entry with its start time and outcome (R396–R401). -/
structure TrailEntry where
  handle   : Nat
  tier     : Nat
  deadline : Nat
  hold     : Nat
  start    : Nat
  source   : Nat
  outcome  : Option Nat
  deriving DecidableEq, Repr

/-- A posted trail. -/
structure Trail where
  w       : Nat
  entries : List TrailEntry
  deriving DecidableEq, Repr

/-- An extent entry (Table 10.3); LEASE and ACCESS are in the lease table. -/
structure Extent where
  state      : Nat
  mirrored   : Bool
  revert     : Bool
  paged      : Bool
  hbmCache   : Bool
  tenancy    : Nat
  primaryDie : Nat
  homeDen    : Nat
  leaseMs    : Nat
  ddrPages   : Nat
  ddrBase    : Nat
  mirrorBase : Nat
  flashBase  : Nat
  fenceFrame : Option Nat
  /-- The DDR channels in service when the extent was mapped, over which its copies are interleaved (R415); and the stripes of
  its copies that a failed channel took and that are not rebuilt, as copy (0 primary, 1 mirror) and stripe (R448). -/
  chans      : List Nat
  lost       : List (Nat × Nat)
  /-- Resident pages, most recently used first, with a dirty mark, and pages written out to flash (R418). -/
  resident   : List (Nat × Bool)
  stored     : List Nat
  /-- Dirty pages whose contents are on their way to flash and have not been written since. -/
  leaving    : List Nat
  deriving DecidableEq, Repr

/-- The states of a lease (R420). -/
inductive LeaseState where
  | noAccess
  | held
  | fenced
  | expired
  deriving DecidableEq, Repr

/-- A lease of one host on one extent. -/
structure Lease where
  state      : LeaseState
  expiry     : Nat
  fenceFrame : Nat
  deriving DecidableEq, Repr

/-- A directory entry (Table 10.6): state 0 I, 1 S, 2 E, 3 B. -/
structure DirEntry where
  state  : Nat
  coarse : Bool
  tag    : Nat
  group  : Nat
  vector : BitVec 16
  grant  : Nat
  deriving DecidableEq, Repr

/-- The classes of Table 10.2. -/
inductive ReqClass where
  | rdS
  | rdA
  | rdI
  | wrI
  | wrS
  | evict
  | devRd
  | devWr
  deriving DecidableEq, Repr

/-- A request at a home den: line = extent-space address ÷ 64; data bytes start at `offset` in the line. -/
structure LineReq where
  cls    : ReqClass
  port   : Nat
  rid    : Nat
  host   : Nat
  line   : Nat
  offset : Nat
  full   : Bool
  data   : Bytes
  /-- The work whose access it is, for a request of the den's own engines. -/
  own    : Option Nat
  deriving DecidableEq, Repr

/-- A recall record (R427, R432): the entry before the recall, the hosts still to answer, those that kept a copy,
the snoop kind, and the request that started it (none: an overflow victim, a fence walk, or a device access). -/
structure Recall where
  line     : Nat
  prior    : DirEntry
  /-- Every host the recall takes the line from. -/
  hosts    : List Nat
  awaiting : List Nat
  shared   : List Nat
  kind     : Nat
  request  : Option LineReq
  /-- The class of device access the recall serves, and the work that makes it, if any. -/
  device   : Option (ReqClass × Nat)
  /-- The recall frees the way of an overflow victim (R437). -/
  victim   : Bool
  deriving DecidableEq, Repr

/-- An ATC entry (R477): an ATS translation of (port, PASID) or a mirrored translation of an XLT_ROOT. -/
structure AtcEntry where
  tenancy : Nat
  ats     : Bool
  port    : Nat
  space   : Nat
  page    : Nat
  size    : Nat
  target  : Nat
  read    : Bool
  write   : Bool
  deriving DecidableEq, Repr

/-- An outstanding Translation Request and the work that waits for it (R478). -/
structure XltWait where
  port    : Nat
  pasid   : Nat
  page    : Nat
  w       : Nat
  write   : Bool
  /-- The completion has granted the access; kept for one use by a tenancy without ATC entries (R476). -/
  granted : Bool
  /-- The image sett and cell of a run whose access waits (R324). -/
  cell    : Option (Nat × Nat)
  /-- The address that the access names in the page. -/
  addr    : Nat
  deriving DecidableEq, Repr

/-- A translation fault (R489–R499). -/
structure FaultRec where
  tenancy : Nat
  port    : Nat
  id      : Nat
  w       : Nat
  ctx     : Nat
  addr    : Nat
  write   : Bool
  run     : Bool
  /-- The failing cell, 8 × image sett + cell (R324). -/
  cell    : Nat
  cause   : FaultCause
  level   : Nat
  time    : Nat
  frame   : Nat
  batched : Bool
  /-- Written to the ring or the log, or sent as a page request. -/
  posted  : Bool
  prg     : Option Nat
  logIdx  : Option Nat
  deriving DecidableEq, Repr

/-- A region entry (Table 13.1), with a REKEY waiting for its boundary (R516). -/
structure Region where
  state   : Nat
  perm    : Nat
  tenancy : Nat
  base    : Nat
  length  : Nat
  key     : Nat
  newKey  : Option Nat
  deriving DecidableEq, Repr

/-- An import window entry (Table 13.2). -/
structure Window where
  state   : Nat
  homeDen : Nat
  tenancy : Nat
  rank    : Nat
  region  : Nat
  offset  : Nat
  length  : Nat
  key     : Nat
  deriving DecidableEq, Repr

/-- A request outstanding to another device: what waits for it and by which port it left (R511, R526). `cell` is (image sett,
cell) for a run's access; `kind` is the message type of the request; `seg` is the segment it left in, if it was packed into one
and sent; `data` is what a load or an atomic has returned, or the empty answer of an acknowledged store; `sent` is false while the
bound of R530 holds the store back. -/
structure WlReq where
  tag    : Nat
  rank   : Nat
  port   : Nat
  ctx    : Nat
  region : Nat
  kind   : Nat
  w      : Nat
  cell   : Option (Nat × Nat)
  addr   : Nat
  len    : Nat
  offset : Nat
  flag   : Bool
  out    : Bytes
  seg    : Option Nat
  data   : Option Bytes
  key    : Nat
  sent   : Bool
  /-- The Rack Time at which the request was made (R533). -/
  born   : Nat
  deriving DecidableEq, Repr

/-- The sequences of stores applied for one pair of source device and CTX (R530): every value below `next` is applied,
and those in `above`. -/
structure StoreSeq where
  src   : Nat
  ctx   : Nat
  next  : Nat
  above : List Nat
  deriving DecidableEq, Repr

/-- A gateway stream at its source (R532–R535): its next segment sequence, the tags of the requests in the open segment in record
order, and the sequences of the segments in flight. -/
structure Stream where
  ctx      : Nat
  region   : Nat
  rank     : Nat
  seq      : Nat
  open_    : List Nat
  inFlight : List Nat
  deriving DecidableEq, Repr

/-- A request of another device that has been checked and waits for its turn: port, type, the number of leading records of a
segment that the checks of R515 let pass, message. -/
structure Held where
  port : Nat
  type : Nat
  pass : Nat
  msg  : Msg
  deriving DecidableEq, Repr

/-- A stream at its destination (R534): next segment sequence to apply, and later segments received. -/
structure StreamIn where
  src     : Nat
  ctx     : Nat
  region  : Nat
  next    : Nat
  waiting : List Held
  deriving DecidableEq, Repr

/-- A proposal this device has made or accepted (R542–R545). -/
structure Proposal where
  view     : Nat
  proposer : Nat
  members  : List Nat
  frame    : Nat
  accepted : List Nat
  round2   : List Nat
  committed : Bool
  deriving DecidableEq, Repr

/-- An ownership record of a multi-phase request (R552): kind 1 search, 2 step, 3 migration. -/
structure Owned where
  owner    : Nat
  serial   : Nat
  kind     : Nat
  phase    : Nat
  acquired : Bool
  view     : Nat
  /-- The other holder of the request, and whether its copy of the last phase is acknowledged (R551). -/
  partner  : Nat
  acked    : Bool
  /-- Frame boundaries passed without an owner at the current view (R554). -/
  orphaned : Nat
  w        : Nat
  /-- The state as the last copy received whole gives it, and the fragments of the phase now being received (R523). -/
  image     : Bytes
  fragPhase : Nat
  frags     : List (Nat × Bytes)
  deriving DecidableEq, Repr

/-- A takeover log record (Table 17.12). -/
structure Takeover where
  owner  : Nat
  serial : Nat
  kind   : Nat
  phase  : Nat
  status : Nat
  count  : Nat
  time   : Nat
  deriving DecidableEq, Repr

/-- An extent migration in progress (Table 13.10): the phases it has ended, and the bytes of the extent sent so far. -/
structure Migration where
  ext    : Nat
  rank   : Nat
  region : Nat
  key    : Nat
  phase  : Nat
  next   : Nat
  deriving DecidableEq, Repr

/-- The Wilfer Link and membership (chapter 13). -/
structure Fabric where
  regions   : Tab Region
  windows   : Tab Window
  requests  : List WlReq
  nextTag   : Nat
  storeOut  : Tab Nat
  storeIn   : List StoreSeq
  /-- Flag stores that wait for earlier stores of their pair (R530). -/
  flagWait  : List Held
  /-- Requests that wait for a recall at a home den (R466). -/
  held      : List Held
  streams   : List Stream
  streamsIn : List StreamIn
  view      : Nat
  members   : List Nat
  viewFrame : Nat
  /-- A view waiting for its frame: view, members, frame (R545, R546). -/
  install   : Option (Nat × List Nat × Nat)
  suspects  : List Nat
  heldSusp  : List Nat
  lastBeat  : Tab Nat
  proposal  : Option Proposal
  noQuorum  : Bool
  noQuorumSince : Nat
  excluded  : Bool
  /-- MBR_INIT has been written since the exclusion (R548). -/
  reinit    : Bool
  joiner    : Option Nat
  owned     : List Owned
  nextSerial : Nat
  takeovers : Tab Takeover
  takeHead  : Nat
  migrations : List Migration
  /-- Forwarded queries that wait for a QUERY credit, in order of arrival: port and message (R274). -/
  fwdWait   : List (Nat × Msg)
  deriving DecidableEq, Repr

/-- A map entry of a Badger (Table 14.2); an absent grain is UNWRITTEN. -/
structure MapEntry where
  lost  : Bool
  slc   : Bool
  ch    : Nat
  target : Nat
  block : Nat
  page  : Nat
  plane : Nat
  deriving DecidableEq, Repr

/-- A programmed grain on the media: where, its data, and its spare-area record (Table 14.3). -/
structure Programmed where
  ch        : Nat
  target    : Nat
  block     : Nat
  page      : Nat
  plane     : Nat
  data      : Bytes
  logical   : Nat
  temp      : Int
  parity    : Bool
  slc       : Bool
  tsLow     : Bool
  seq       : Nat
  writeTime : Nat
  tenancy   : Nat
  crcOk     : Bool
  deriving DecidableEq, Repr

/-- A write waiting in the write buffer (R566). -/
structure BufWrite where
  tenancy : Nat
  grain   : Nat
  offset  : Nat
  data    : Bytes
  req     : Nat
  deriving DecidableEq, Repr

/-- A superblock in use (R562): its block on each die, of which a spare may have taken the place (R577); the die positions it uses
(R578); the next grain it takes, counted stripe by stripe; the frame of the first program of the stripe in progress (R570). -/
structure SuperBlock where
  id      : Nat
  group   : Nat
  block   : Nat
  dies    : List Nat
  tenancy : Nat
  slc     : Bool
  open_   : Bool
  next    : Nat
  firstAt : Option Nat
  deriving DecidableEq, Repr

/-- A background copy in progress on a die (R582, R583): the grain copied, its source, and where the copy goes. -/
structure BgOp where
  die       : Nat
  tenancy   : Nat
  deadline  : Option Nat
  suspended : Bool
  grain     : Nat
  src       : MapEntry
  dst       : MapEntry
  deriving DecidableEq, Repr

/-- A journal record (R590): a trim of a logical grain, or a T3 tensor record (present or removed). -/
inductive JournalRec where
  | trim (grain seq : Nat)
  | tensor (index : Nat) (rec : Tensor) (seq : Nat)
  | removed (index seq : Nat)
  deriving DecidableEq, Repr

/-- Worst-case durations, in ns, of the installed NAND part's foreground read and program (R66): the part's own
(DESIGN CHOICE, assumption 106). -/
structure NandPart where
  readNs    : Nat
  programNs : Nat
  deriving DecidableEq, Repr

/-- A Badger (chapter 14); `cfg` is the NF_CFG in effect since the last reset (R675). -/
structure Badger where
  cfg        : Nat
  map        : Tab MapEntry
  media      : List Programmed
  wbuf       : List BufWrite
  supers     : List SuperBlock
  nextSuper  : Nat
  /-- Erases of each superblock's blocks, by group × 2^14 + block. -/
  erased     : Tab Nat
  seq        : Nat
  /-- Retired blocks: die, block, and the spare block that has its place (R577). -/
  retired    : List (Nat × Nat × Option Nat)
  spares     : Tab Nat
  failedDies : List Nat
  dieFails   : Tab Nat
  temps      : Tab Int
  slcTarget  : Nat
  bgOps      : List BgOp
  readOnly   : Bool
  heldTrims  : List Nat
  journal    : List JournalRec
  /-- A CLEAN anchor with its checkpoint: the map and SEQ counter (R591). -/
  clean      : Option (Tab MapEntry × Nat)
  /-- Grains the scrubber is to rewrite (R576), and grains of retired blocks and failed dies still to be copied (R577, R578). -/
  rewrite    : List Nat
  lastScrub  : Tab Nat
  /-- The map has been rebuilt or loaded since the reset (R591, R592); and the Badger has set MAP_READY (R593). -/
  loaded     : Bool
  mapReady   : Bool
  shutDone   : Bool
  cfgErr     : Bool
  disabled   : Bool
  /-- Blocks 0–7 of its die 0 hold the images and Owl's sealed store: they are none of its blocks (R612). -/
  owlBlocks  : Bool
  deriving DecidableEq, Repr

/-- An error record (Table 16.7). -/
structure ErrRec where
  time    : Nat
  cls     : Nat
  source  : Nat
  code    : Nat
  tenancy : Option Nat
  unit    : Nat
  addr    : Nat
  objKind : Nat
  objId   : Nat
  count   : Nat
  seq     : Nat
  info    : Nat
  deriving DecidableEq, Repr

/-- Error log and counts (R650, R682, R714). -/
structure ErrLog where
  recs    : Tab ErrRec
  head    : Nat
  tail    : Nat
  nextSeq : Nat
  /-- Corrected occurrences per (source, unit) in the superframe, and whether the event was raised. -/
  counts  : List (Nat × Nat × Nat × Bool)
  superframe : Nat
  deriving DecidableEq, Repr

/-- The health record in Owl's sealed store (R639). -/
structure Health where
  setts    : List (Nat × Nat)
  /-- The failed HBM stack and the stack that serves in its place. -/
  stack    : Option (Nat × Nat)
  ddrOut   : List Nat
  lanes    : List (Nat × Nat)
  dies     : List (Nat × Nat)
  clearDdr : List Nat
  deriving DecidableEq, Repr

/-- Self-test and boot (R635–R638, R613). -/
structure SelfTest where
  running : Bool
  done    : Bool
  fail    : Bool
  stage   : Nat
  unit    : Nat
  bootDone : Bool
  bootFail : Nat
  bankB   : Nat
  shadow  : Bool
  repairs : Nat
  deriving DecidableEq, Repr

/-- Owl's stores (R615, R619, R624, R644). -/
structure Owl where
  /-- Sealed records of tenancy keys: GEN and TEARDOWN mark. -/
  sealed   : Tab (Nat × Bool)
  /-- Key slots that hold a key. -/
  keys     : List Nat
  svn      : Tab Nat
  bankSvn  : Tab Nat
  otherBank : Tab Nat
  scanSeen : Bool
  zeroised : Bool
  /-- The alias key of the present boot (R618). -/
  aliasKey  : Bytes
  mboxResult : Nat
  mboxData : Bytes
  /-- NF_CFG as last written, for the next reset (R675). -/
  nfCfg    : Tab Reg
  deriving DecidableEq, Repr

/-- Power, pins and thermal state (chapter 18). -/
structure Power where
  auxOk     : Bool
  mainOk    : Bool
  perst     : Bool
  /-- How long PERST_N has been low, in ns, while that is not yet taken as its assertion (R700). -/
  perstFor  : Option Nat
  straps    : Nat
  devReady  : Bool
  fatal     : Bool
  thermTrip : Bool
  thermWarn : Bool
  /-- 0 none, 1: 3 of 4 cycles, 2: 1 of 2 cycles (Table 18.8). -/
  throttle  : Nat
  maxC      : Nat
  scanArmed : Bool
  tap       : TapIns
  /-- Level SVC_REQ_N held while PERST_N is asserted (Table 18.3). -/
  svcHeld   : Bool
  linkA     : Bool
  linkB     : Bool
  /-- A warm reset has been ordered and has not yet taken effect (R635, R664). -/
  warmOrdered : Bool
  deriving DecidableEq, Repr

/-- A port (R32, R508–R510, R625–R627). -/
structure Port where
  up        : Bool
  width     : Nat
  rate      : Nat
  /-- Physical pairs of the logical lanes, in order (R508); the spare pair in use; enabled on both link partners. -/
  lanes     : List Nat
  /-- Pairs that did not pass the last training (R32, R508). -/
  untrained : List Nat
  spareUsed : Bool
  spareOk   : Bool
  ideSecure : Bool
  ats       : Bool
  /-- Far end of a loopback the link partner asked for (R643). -/
  farEnd    : Bool
  deriving DecidableEq, Repr

/-- HBM stacks and DDR channels (R20, R446–R448). -/
structure Memories where
  spare    : Nat
  replaced : Option Nat
  /-- A stack being copied to the spare (R446). -/
  copying  : Option Nat
  /-- The frame in which the copy began. -/
  copyFrame : Nat
  hbmUp    : List Nat
  ddrUp    : List Nat
  noMargin : List Nat
  /-- Some HBM capacity has been mapped, which closes HBM_SPARE (R20). -/
  mapped   : Bool
  deriving DecidableEq, Repr

/-- A tenancy's state (R594–R596, R628). -/
structure Tenancy where
  state    : Nat
  shared   : Bool
  /-- A mode set since the last SLOT_COMMIT, which the next one carries (R596). -/
  newMode  : Option Bool
  /-- Bound from FREE or SEALED with no mode in force yet: it owns no slot and borrows none (R596). -/
  unmoded  : Bool
  gen      : Nat
  fatal    : Bool
  /-- Step of Table 15.11 in progress. -/
  step     : Nat
  deriving DecidableEq, Repr

/-- A granule pending zero-fill, by region, granule index and 4 KiB blocks not yet reached (R630, R197): freed by a tenancy's objects
within its allotment, or, with 512 added to the tenancy, returned by its teardown. -/
structure FillItem where
  region  : Nat
  granule : Nat
  blocks  : List Nat
  freedBy : Nat
  deriving DecidableEq, Repr

/-- An entry of the zero-on-first-touch table: a granule re-allotted while pending, and its blocks that no fill has reached (R630). -/
structure TouchEntry where
  region  : Nat
  granule : Nat
  blocks  : List Nat
  deriving DecidableEq, Repr

/-- The management semaphore (R140–R147); LAPSED and ERR are stored bits of MGMT_SEM. -/
structure Sem where
  holder  : Nat
  tieNext : Nat
  /-- Nanoseconds of the lease left (R143). -/
  lease   : Nat
  deriving DecidableEq, Repr

/-- A command block: its held command (R685) and the CAUSE of its last failure; CMD_ERR is a stored bit of its status
register. -/
structure CmdState where
  busy    : Bool
  /-- The command that runs while BUSY is 1: a BIND or MODIFY that waits for table entries (R630). -/
  running : Option Instr
  held    : Option Instr
  cause   : Nat
  deriving DecidableEq, Repr

/-- A loopback the operator runs (R641). -/
structure Loopback where
  iface : Nat
  index : Nat
  depth : Nat
  log2  : Nat
  deriving DecidableEq, Repr

/-- A trace record (R633); event 0 is an admission and event 1 a completion (assumption 8). -/
structure TraceRec where
  die     : Nat
  time    : Nat
  event   : Nat
  tenancy : Nat
  ctx     : Nat
  ring    : Nat
  tag     : Nat
  opcode  : Nat
  status  : Nat
  object  : Nat
  deriving DecidableEq, Repr

/-- The whole machine. -/
structure State where
  /-- Commands waiting, first in first out. -/
  pending   : List Instr
  out       : List Output
  /-- How many free values have been drawn (the model's own field, assumption 3). -/
  freeCount : Nat
  time      : Time
  clock     : Clock
  power     : Power
  sem       : Sem
  /-- Registers by offset: the stored bits of RW and W1C fields; an absent register holds its reset value. -/
  regs      : Tab Reg
  /-- Counters by offset (R656); an absent counter is 0. -/
  counters  : Tab Nat
  /-- Staged registers by tenancy × 2^26 + offset (owner maps by offset alone): shadow and live values. -/
  shadow    : Tab Reg
  live      : Tab Reg
  slots     : Slots
  tenancies : Tab Tenancy
  ctxs      : Tab Ctx
  rings     : Tab Ring
  ringErr   : Nat
  works     : List Work
  nextWork  : Nat
  /-- Per tenancy × 8 + class: the ring that last received a credit (R127). -/
  lastCredit : Tab Nat
  ports     : Tab Port
  cmdTen    : CmdState
  cmdCtx    : CmdState
  cmdRing   : CmdState
  cmdExt    : CmdState
  cmdWl     : CmdState
  /-- Device memory by region × 2^48 + offset (Table 12.2); an unlisted byte reads zero (R629). -/
  memory    : List Host.Cell
  /-- 64-byte lines (address ÷ 64) that hold poison. -/
  poison    : List Nat
  fill      : List FillItem
  /-- Zero-on-first-touch table (R630). -/
  firstTouch : List TouchEntry
  burrows   : Tab Burrow
  /-- Next place in the leaf rotation of R165. -/
  rotation  : Nat
  groups    : List GroupSearch
  images    : Tab Image
  runs      : List Run
  tables    : Tab Table
  tensors   : Tab Tensor
  /-- Generation count of every tensor-table entry ever used (handle bits [31:20]). -/
  tensorGen : Tab Nat
  jobs      : List TensorJob
  trails    : List Trail
  holds     : List TrailHold
  /-- HBM a tensor left while earlier runs of its tenancy had not completed: address, length, tenancy, runs (R378). -/
  lateFree  : List (Nat × Nat × Nat × List Nat)
  vcache    : List (Nat × Nat × Nat)
  extents   : Tab Extent
  leases    : Tab Lease
  dir       : Tab DirEntry
  recalls   : List Recall
  waiting   : List LineReq
  /-- Device accesses whose recall has ended and that have not yet been made: work and line (R466). -/
  recalled  : List (Nat × Nat)
  /-- Lines of a fenced host that the fence's walk has still to recall: line and host (R443). -/
  fencing   : List (Nat × Nat)
  denCache  : List (Nat × Bool)
  /-- What DDR still holds of a line that stands dirty in the den cache (R632). -/
  ddrUnder  : Tab Bytes
  hbmCache  : List Nat
  lastDrain : Nat
  atc       : List AtcEntry
  xltWaits  : List XltWait
  /-- H-ports with an ATS Invalidate Request not yet confirmed (R503). -/
  invalWait : List Nat
  faults    : List FaultRec
  faultNext : Tab Nat
  logNext   : Tab Nat
  logGain   : Tab Nat
  /-- Batch records that wait for a completion entry: tenancy and port, log index of the first entry, entries (R494, R495). -/
  batchWait : List (Nat × Nat × Nat)
  fabric    : Fabric
  badgers   : Tab Badger
  part      : NandPart
  mem       : Memories
  /-- Den × 16 + logical sett to physical sett (R17); absent: the same number. -/
  settMap   : Tab Nat
  failedSetts : List (Nat × Nat)
  settWait  : List (Nat × Nat)
  /-- By den × 512 + tenancy: the logical sett taken for its resident functions in the present frame (R224, R329). -/
  resident  : Tab Nat
  health    : Health
  svcPrev   : Nat
  test      : SelfTest
  owl       : Owl
  errs      : ErrLog
  loop      : Option Loopback
  lbResult  : Reg
  /-- Consecutive failed replays of one bridge flit (R28). -/
  bridgeFails : Tab Nat
  trace     : List TraceRec
  deriving DecidableEq, Repr

/-- Why a step stops with a fault. The spec lets no command stop the block, so no meaning raises one: this single
reason stands for none and is safe. -/
inductive Fault where
  /-- Raised by no meaning (safe): the block has no state in which it takes no further step. -/
  | unreachable
  deriving DecidableEq, Repr

/-- Why a command has no meaning. -/
inductive Refusal where
  /-- Raised by an arm of `exec` whose command has no meaning yet (safe: nothing follows from it). -/
  | notModelled (mnemonic : String)
  deriving DecidableEq, Repr

/-- The answer of a meaning. -/
abbrev Out := Host.Outcome State Fault Refusal

/-! ### The state after reset

Every field at the value the Reset column of chapter 17 or a rule gives; where none does, at the value assumption 6
names (DESIGN CHOICE). -/

/-- Rack Time counts from 0 with TIME_VALID 0 (R43); STRATUM reads 255 (R667). -/
def Time.reset : Time :=
  { now := 0, nowS := 0, valid := false, locked := false, ahead := false, holdover := false, master := false, stratum := 255
    offset := 0, slewLeft := 0, phase := 0, freq := 0, goodRun := 0, badRun := 0, lastBeacon := 0, portBeacon := [], echo := []
    ppsValid := false, ppsGoodRun := 0, ppsBadRun := 0, ppsSecond := none, windowAt := none, lastFrame := 0, lastSlot := 0 }

/-- A source not yet seen stable (R76, R77). -/
def Source.reset : Source := { stable := false, eligible := false, failed := false }

/-- No source chosen yet: SOURCE reads 0 (R667). -/
def Clock.reset : Clock :=
  { port0 := .reset, port6 := .reset, xo := .reset, watch := .reset, active := none, coast := false }

/-- Slot maps all unowned, no commit pending (R667). -/
def Slots.reset : Slots :=
  { shadow := [], live := [], pending := none, lastFrame := 0, lent := [], lastBorrower := [], lastServed := [], waits := [] }

/-- Both rail groups in tolerance, PERST_N deasserted, DEV_READY not yet risen (R694–R704). -/
def Power.reset : Power :=
  { auxOk := true, mainOk := true, perst := false, perstFor := none, straps := 0, devReady := false, fatal := false, thermTrip := false
    thermWarn := false, throttle := 0, maxC := 0, scanArmed := false, tap := .bypass, svcHeld := false, linkA := false
    linkB := false, warmOrdered := false }

/-- The semaphore free (R142). -/
def Sem.reset : Sem := { holder := 0, tieNext := 0, lease := 0 }

/-- A command block at rest (R685). -/
def CmdState.reset : CmdState := { busy := false, running := none, held := none, cause := 0 }

/-- The fabric with no region, window, view or request (R680). -/
def Fabric.reset : Fabric :=
  { regions := [], windows := [], requests := [], nextTag := 0, storeOut := [], storeIn := [], flagWait := [], held := []
    streams := [], streamsIn := [], view := 0, members := [], viewFrame := 0, install := none, suspects := []
    heldSusp := [], lastBeat := [], proposal := none, noQuorum := false, noQuorumSince := 0, excluded := false, reinit := false
    joiner := none, owned := [], nextSerial := 0, takeovers := [], takeHead := 0, migrations := [], fwdWait := [] }

/-- A part that reads in 40 µs and programs in 700 µs (DESIGN CHOICE, assumption 106). -/
def NandPart.reset : NandPart := { readNs := 40000, programNs := 700000 }

/-- No spare in use, HBM_SPARE 11, no memory yet brought into service by self-test (R673). -/
def Memories.reset : Memories :=
  { spare := 11, replaced := none, copying := none, copyFrame := 0, hbmUp := [], ddrUp := [], noMargin := [], mapped := false }

/-- The empty health record (R639). -/
def Health.reset : Health := { setts := [], stack := none, ddrOut := [], lanes := [], dies := [], clearDdr := [] }

/-- Self-test not yet run (R635, R681). -/
def SelfTest.reset : SelfTest :=
  { running := true, done := false, fail := false, stage := 0, unit := 0, bootDone := false, bootFail := 0, bankB := 0
    shadow := false, repairs := 0 }

/-- Owl's stores at first power-on (R624, R675). -/
def Owl.reset : Owl :=
  { sealed := [], keys := [], svn := [], bankSvn := [], otherBank := [], scanSeen := false, zeroised := false, aliasKey := []
    mboxResult := 0, mboxData := [], nfCfg := [] }

/-- The empty error log (R681). -/
def ErrLog.reset : ErrLog := { recs := [], head := 0, tail := 0, nextSeq := 0, counts := [], superframe := 0 }

/-- The machine right after reset (DESIGN CHOICE, assumption 6) (DESIGN CHOICE, assumption 96). -/
def State.reset : State :=
  { pending := [], out := [], freeCount := 0, time := .reset, clock := .reset, power := .reset, sem := .reset
    regs := [], counters := [], shadow := [], live := [], slots := .reset, tenancies := [], ctxs := [], rings := []
    ringErr := 0, works := [], nextWork := 0, lastCredit := [], ports := [], cmdTen := .reset, cmdCtx := .reset
    cmdRing := .reset, cmdExt := .reset, cmdWl := .reset, memory := [], poison := [], fill := [], firstTouch := []
    burrows := [], rotation := 0, groups := [], images := [], runs := [], tables := [], tensors := []
    tensorGen := [], jobs := [], trails := [], holds := [], lateFree := [], vcache := [], extents := [], leases := [], dir := []
    recalls := [], waiting := [], recalled := [], fencing := [], denCache := [], ddrUnder := [], hbmCache := [], lastDrain := 0, atc := [], xltWaits := []
    invalWait := [], faults := [], faultNext := [], logNext := [], logGain := [], batchWait := [], fabric := .reset
    badgers := [], part := .reset, mem := .reset, settMap := [], failedSetts := [], settWait := [], resident := [], health := .reset, svcPrev := 0
    test := .reset, owl := .reset, errs := .reset, loop := none, lbResult := 0, bridgeFails := [], trace := [] }

end Sys2Proof.Machine
end

