-- ==== Sys2Proof/Machine/Ops.lean ====
section
/-!
DEFINITION. The named operations every meaning is written over: tables by number, little-endian fields, device
memory, outputs, flags with their events, counters, the error log, free values and the semaphore check.
-/

namespace Sys2Proof.Machine

/-! ### Tables by number -/

/-- The entry of a key, if listed. -/
def tget {α : Type} : Tab α → Nat → Option α
  | [], _ => none
  | (k, v) :: t, i => if k = i then some v else tget t i

/-- The entry of a key, or the default. -/
def tgetD {α : Type} (m : Tab α) (i : Nat) (d : α) : α := (tget m i).getD d

/-- The table with one entry written, keys kept ascending. -/
def tset {α : Type} : Tab α → Nat → α → Tab α
  | [], i, x => [(i, x)]
  | (k, v) :: t, i, x =>
    if k = i then (i, x) :: t else if i < k then (i, x) :: (k, v) :: t else (k, v) :: tset t i x

/-- The table without one entry. -/
def tdel {α : Type} (m : Tab α) (i : Nat) : Tab α := m.filter (fun e => e.1 != i)

/-- The table with one entry changed, if it is listed. -/
def tmap {α : Type} (m : Tab α) (i : Nat) (f : α → α) : Tab α :=
  match tget m i with
  | some x => tset m i (f x)
  | none => m

/-! ### Numbers, bit fields and bytes -/

/-- Bits [hi:lo] of a number. -/
def bits (v hi lo : Nat) : Nat := v / 2 ^ lo % 2 ^ (hi + 1 - lo)

/-- One bit of a number. -/
def bit (v i : Nat) : Bool := v / 2 ^ i % 2 == 1

/-- 1 or 0. -/
def b2n (b : Bool) : Nat := if b then 1 else 0

/-- n rounded up to a multiple of m. -/
def roundup (n m : Nat) : Nat := (n + (m - 1)) / m * m

/-- The quotient rounded up. -/
def ceilDiv (n m : Nat) : Nat := (n + (m - 1)) / m

/-- The number a little-endian sequence of bytes stands for (R7). -/
def leNat : Bytes → Nat
  | [] => 0
  | b :: t => b.toNat + 256 * leNat t

/-- A number as `n` little-endian bytes. -/
def toLe : (n v : Nat) → Bytes
  | 0, _ => []
  | n + 1, v => BitVec.ofNat 8 v :: toLe n (v / 256)

/-- A slice of a byte sequence, zeros beyond its end. -/
def slice (b : Bytes) (off n : Nat) : Bytes :=
  let c := (b.drop off).take n
  c ++ List.replicate (n - c.length) 0

/-- A little-endian field of a byte sequence: offset and size in bytes; bytes beyond the end read as zero (DESIGN CHOICE, assumption 98). -/
def fld (b : Bytes) (off size : Nat) : Nat := leNat ((b.drop off).take size)

/-- True when every byte of a range is zero. -/
def zeroRange (b : Bytes) (off n : Nat) : Bool := ((b.drop off).take n).all (· == 0)

/-- A two's-complement reading of the low w bits. -/
def signed (w v : Nat) : Int :=
  let m := v % 2 ^ w
  if m < 2 ^ (w - 1) then (m : Int) else (m : Int) - (2 ^ w : Nat)

/-- An integer modulo 2^w. -/
def wrap (w : Nat) (v : Int) : Nat := (v % ((2 ^ w : Nat) : Int)).toNat

/-- Insertion into a list ordered by a strict comparison, after entries that are not greater. -/
def insertBy {α : Type} (lt : α → α → Bool) (x : α) : List α → List α
  | [] => [x]
  | y :: t => if lt x y then x :: y :: t else y :: insertBy lt x t

/-- Stable insertion sort under a strict comparison. -/
def sortBy {α : Type} (lt : α → α → Bool) (l : List α) : List α := l.foldl (fun acc x => insertBy lt x acc) []

/-- The first element of a list that a strict comparison puts before all others. -/
def bestBy {α : Type} (lt : α → α → Bool) : List α → Option α
  | [] => none
  | x :: t => some (t.foldl (fun b y => if lt y b then y else b) x)

/-- One list entry replaced, by position. -/
def lset {α : Type} : List α → Nat → α → List α
  | [], _, _ => []
  | _ :: t, 0, x => x :: t
  | y :: t, i + 1, x => y :: lset t i x

/-! ### Device memory -/

/-- A byte of device memory: an unlisted byte reads as zero, since every line of HBM and DDR holds zero before
DEV_READY rises (R629). -/
def memByte : List Host.Cell → Nat → Byte
  | [], _ => 0
  | (k, v) :: t, a => if k = a then v else memByte t a

/-- Insertion of one byte in address order; the byte zero removes the entry. -/
def memPut : List Host.Cell → Nat → Byte → List Host.Cell
  | [], a, b => if b = 0 then [] else [(a, b)]
  | (k, v) :: t, a, b =>
    if k = a then (if b = 0 then t else (a, b) :: t)
    else if a < k then (if b = 0 then (k, v) :: t else (a, b) :: (k, v) :: t)
    else (k, v) :: memPut t a b

/-- `n` bytes from an address on. -/
def memRead (m : List Host.Cell) (a : Nat) : Nat → Bytes
  | 0 => []
  | n + 1 => memByte m a :: memRead m (a + 1) n

/-- Bytes written from an address on. -/
def memWrite (m : List Host.Cell) (a : Nat) : Bytes → List Host.Cell
  | [] => m
  | b :: t => memWrite (memPut m a b) (a + 1) t

/-- Every byte of a range set to zero: the entries of the range go. -/
def memZero (m : List Host.Cell) (a n : Nat) : List Host.Cell :=
  m.filter (fun c => c.1 < a || a + n ≤ c.1)

/-- The canonical form: addresses strictly rising and no zero byte listed. -/
def Memory.wf (m : List Host.Cell) : Bool :=
  match m with
  | [] => true
  | (k, v) :: t => v != 0 && (match t with | [] => true | (k', _) :: _ => decide (k < k')) && Memory.wf t

/-- Regions of Table 12.2 as the upper part of a memory address. -/
def regionBase (r : Nat) : Nat := r * 2 ^ 48

/-- The form 0b11 of Table 12.1, in which Erord reports device logical addresses (R469). -/
def logical (a : Nat) : Nat := 3 * 2 ^ 62 + a

/-- A die's DDR in region 0x01 (Table 12.2). -/
def ddrBase (die : Nat) : Nat := regionBase 1 + die * 2 ^ 42

/-- The number of a 64-byte line. -/
def lineOf (a : Nat) : Nat := a / 64

/-- An address lies in a page of a paged extent that is not resident, in a line that the den cache holds no newer bytes of (R418). -/
def State.pageAbsent (s : State) (a : Nat) : Bool :=
  decide (a / 2 ^ 48 = 2) && match tget s.extents (a % 2 ^ 48 / 2 ^ 30) with
    | some x => x.paged && !x.resident.any (fun p => p.1 == a % 2 ^ 30 / 2 ^ 14) && !s.denCache.contains (a % 2 ^ 48 / 64, true)
    | none => false

/-- True when a range touches a poisoned line, or a page that its store can bring in no more (R419). -/
def State.poisonedIn (s : State) (a n : Nat) : Bool :=
  s.poison.any (fun l => decide (lineOf a ≤ l ∧ l ≤ lineOf (a + (n - 1)) ∧ 0 < n)) ||
    (decide (0 < n) && (s.pageAbsent a || s.pageAbsent (a + (n - 1))))

/-- Bytes of device memory. -/
def State.read (s : State) (a n : Nat) : Bytes := memRead s.memory a n

/-- A write of bytes to device memory. -/
def State.write (s : State) (a : Nat) (b : Bytes) : State := { s with memory := memWrite s.memory a b }

/-- A range of device memory zeroed. -/
def State.zero (s : State) (a n : Nat) : State := { s with memory := memZero s.memory a n }

/-! ### Outputs, free values and counters -/

/-- The next free value (assumption 3). -/
def State.freeVal (s : State) : Nat := Config.free s.freeCount

/-- The state after a free value has been drawn (DESIGN CHOICE, assumption 3). -/
def State.drawn (s : State) : State := { s with freeCount := s.freeCount + 1 }

/-- What passes for the filter of PERST_N in `d` ns: a pin that is low stays low (R700) (DEDUCED, assumption 125). -/
def Power.lowFor (p : Power) (d : Nat) : Power := { p with perstFor := p.perstFor.map (· + d) }

/-- The S die's counter a free distance of at most 2 ns from the N die's, and never backward (R36, R45). -/
def Time.follow (t : Time) (d : Nat) : Time := { t with nowS := max t.nowS (t.now + d % 5 - 2) }

/-- The S die's counter follows (DESIGN CHOICE, assumption 5). -/
def State.sDie (s : State) : State := { s.drawn with time := s.time.follow s.freeVal }

/-- The Rack Time counter of a die (R36) (DESIGN CHOICE, assumption 5). -/
def State.dieTime (s : State) (die : Nat) : Nat := if die = 0 then s.time.now else s.time.nowS

/-- A counter of R656 incremented by n: 64 bits, saturating. -/
def State.bump (s : State) (off n : Nat) : State :=
  { s with counters := tset s.counters off (min (tgetD s.counters off 0 + n) (2 ^ 64 - 1)) }

/-- Rack Time's frame number (R53). -/
def State.frame (s : State) : Nat := s.time.now / 2 ^ 14

/-- The slot index in the frame (R53). -/
def State.slotIx (s : State) : Nat := s.time.now / 2 ^ 8 % 64

/-- The frame index in the superframe (R53). -/
def State.frameIx (s : State) : Nat := s.frame % 64

/-- A frame number field of 32 bits extended against the current frame (R56). -/
def extendFrame (now field : Nat) : Int :=
  let d : Nat := (field + 2 ^ 32 - now % 2 ^ 32) % 2 ^ 32
  if d < 2 ^ 31 then (now : Int) + (d : Int) else (now : Int) + (d : Int) - ((2 ^ 32 : Nat) : Int)

/-! ### Flags and events -/

/-- The reset value of a register's RW bits (the Reset columns of Tables 17.2–17.15); 0 for every register not named
(DESIGN CHOICE, assumption 6). -/
def regDefault (off : Nat) : Reg :=
  if 0x0401000 ≤ off ∧ off < 0x0402000 then 0x1010101010101010
  else if 0x0800000 ≤ off ∧ off < 0x0800060 then 0x4000000
  else match off with
    | 0x0200000 => 11
    | 0x0200008 => 4096
    | 0x0300140 => 6
    | 0x0300148 => 60
    | 0x0300150 => 8
    | 0x0300158 => 0x2000000
    | 0x0300160 => 200
    | 0x0500080 => 65536
    | 0x0500100 => 1000
    | 0x0500108 => 1000
    | 0x0500110 => 100000
    | 0x0500118 => 4000
    | 0x0500120 => 32000
    | 0x0500128 => 64000
    | 0x0500130 => 8000
    | 0x0500138 => 32000
    | 0x0700400 => 65536
    | 0x0A00030 => 105
    | 0x0A00040 => 64
    | 0x0C00080 => 1
    | _ => 0

/-- Stored bits of a register: its reset value until something is stored. -/
def State.stored (s : State) (off : Nat) : Reg := tgetD s.regs off (regDefault off)

/-- True when a bit is set in the stored bits of a register. -/
def State.flag (s : State) (off i : Nat) : Bool := (s.stored off).getLsbD i

/-- CLASS[p] of MGMT_PORT_CLASS: 0 unconfigured, 1 H-port, 2 F-port (R664). -/
def State.portClass (s : State) (p : Nat) : Nat := if p < 12 then bits (s.stored 0x0010020).toNat (2 * p + 1) (2 * p) else 0

/-- A port that has never trained (DESIGN CHOICE, assumption 6). -/
def Port.fresh : Port :=
  { up := false, width := 0, rate := 0, lanes := [], untrained := [], spareUsed := false, spareOk := false, ideSecure := false, ats := true
    farEnd := false }

/-- A port's state. -/
def State.port (s : State) (p : Nat) : Port := tgetD s.ports p .fresh

/-- A port's state replaced. -/
def State.setPort (s : State) (p : Nat) (x : Port) : State := { s with ports := tset s.ports p x }

/-- What leaves by PORT0–PORT11. -/
def Output.port? : Output → Option Nat
  | .dma p _ _ _ | .msix p _ | .wilfer p _ _ | .cxl p _ _ _ _ | .bisnp p _ _ _ | .atsRequest p _ _ _ | .pageRequest p _ _ _
  | .invalCompletion p | .undecoded (.port p) => some p
  | _ => none

/-- Something sent out. A port sends nothing while DEV_READY is low, while it is unconfigured or not in link-up, or while its PORT_CTL.HOLD is
1 (R4, R648, R673)
(DEDUCED, assumption 72). -/
def State.emit (s : State) (o : Output) : State :=
  match o.port? with
  | some p => if s.power.devReady && !s.flag (0x0100000 + 0x100 * p) 0 && s.portClass p != 0 && (s.port p).up then { s with out := s.out ++ [o] } else s
  | none => { s with out := s.out ++ [o] }

/-- The enable bit of a flag, in the companion register at offset + 8 (R661). -/
def State.enabled (s : State) (off i : Nat) : Bool := s.flag (off + 8) i

/-- Hardware sets a flag with a maskable event (R654): the event is raised when the flag goes from 0 to 1
while its enable bit is 1. -/
def State.setFlag (s : State) (off i : Nat) : State :=
  let s' := { s with regs := tset s.regs off (s.stored off ||| BitVec.ofNat 64 (2 ^ i)) }
  if !s.flag off i && s.enabled off i then s'.emit (.event off i) else s'

/-- Hardware sets a flag that carries no event. -/
def State.setBit (s : State) (off i : Nat) : State :=
  { s with regs := tset s.regs off (s.stored off ||| BitVec.ofNat 64 (2 ^ i)) }

/-- HLT_NMI.CAUSE (Table 17.13). -/
def nmiOff : Nat := 0x0A00020

/-- A non-maskable event (R655): its cause bit is set and one message goes to each management port. -/
def State.raiseNmi (s : State) (cause : Nat) : State := (s.setBit nmiOff cause).emit (.nmi cause)

/-- CMD_ERR of a command block whose status register lies at an offset (R686, R709). -/
def State.cmdFail (s : State) (b : CmdBlock) (cause : Nat) : State :=
  match b with
  | .ten => { s with cmdTen := { s.cmdTen with cause } } |>.setFlag 0x0040010 0
  | .ctx => { s with cmdCtx := { s.cmdCtx with cause } } |>.setFlag 0x0040908 0
  | .ring => { s with cmdRing := { s.cmdRing with cause } } |>.setFlag 0x0080048 0
  | .ext => { s with cmdExt := { s.cmdExt with cause } } |>.setFlag 0x0601088 0
  | .wl => { s with cmdWl := { s.cmdWl with cause } } |>.setFlag 0x0809028 0

/-- The state of a command block. -/
def State.block (s : State) : CmdBlock → CmdState
  | .ten => s.cmdTen
  | .ctx => s.cmdCtx
  | .ring => s.cmdRing
  | .ext => s.cmdExt
  | .wl => s.cmdWl

/-- A command block's state replaced. -/
def State.setBlock (s : State) (b : CmdBlock) (c : CmdState) : State :=
  match b with
  | .ten => { s with cmdTen := c }
  | .ctx => { s with cmdCtx := c }
  | .ring => { s with cmdRing := c }
  | .ext => { s with cmdExt := c }
  | .wl => { s with cmdWl := c }

/-! ### The error log (R649, R650, R682, R714) -/

/-- HLT_CORR_THRESH, reset 64 (Table 17.13). -/
def State.corrThresh (s : State) : Nat := (s.stored 0x0A00040).toNat % 2 ^ 32

/-- One corrected occurrence counted for its source and unit in the superframe; the event of R714 is raised once,
when the count first exceeds HLT_CORR_THRESH. -/
def State.countCorrected (s : State) (source unit : Nat) : State :=
  let sf := s.frame / 64
  let cs := if s.errs.superframe = sf then s.errs.counts else []
  let (n, fired) := match cs.find? (fun c => c.1 == source && c.2.1 == unit) with
    | some (_, _, n, f) => (n, f)
    | none => (0, false)
  let fire := !fired && decide (s.corrThresh < n + 1)
  let cs' := (source, unit, n + 1, fired || fire) :: cs.filter (fun c => !(c.1 == source && c.2.1 == unit))
  let s' := { s with errs := { s.errs with counts := cs', superframe := sf } }
  if fire then s'.emit (.corrEvent source unit) else s'

/-- An error record written into the log, or coalesced, or discarded, as R650 gives. -/
def State.logError (s : State) (cls source code : Nat) (tenancy : Option Nat) (unit addr objKind objId info : Nat) :
    State :=
  let s := if cls = 0 then s.countCorrected source unit else s
  let e := s.errs
  let same := fun (r : ErrRec) => r.cls == 0 && r.source == source && r.code == code && r.unit == unit &&
    r.tenancy == tenancy && r.time / 2 ^ 20 == s.time.now / 2 ^ 20
  let rec' : ErrRec :=
    { time := s.time.now, cls, source, code, tenancy, unit, addr, objKind, objId, count := 1, seq := e.nextSeq, info }
  let isLive := fun (i : Nat) => decide ((i + 8192 - e.head) % 8192 < (e.tail + 8192 - e.head) % 8192)
  let live := e.recs.filter (fun r => isLive r.1)
  match (if cls = 0 then live.find? (fun r => same r.2) else none) with
  | some (i, r) => { s with errs := { e with recs := tset e.recs i { r with count := r.count + 1 } } }
  | none =>
    if (e.tail + 8192 - e.head) % 8192 < 4096 then
      { s with errs := { e with recs := tset e.recs e.tail rec', tail := (e.tail + 1) % 8192, nextSeq := e.nextSeq + 1 } }
        |>.setFlag 0x0A20010 1
    else if cls = 0 then s.bump 0x0A20020 1
    else
      match bestBy (fun a b => decide (a.2.seq < b.2.seq)) (live.filter (fun r => r.2.cls == 0)) with
      | some (i, _) =>
        { s with errs := { e with recs := tset e.recs i rec', nextSeq := e.nextSeq + 1 } } |>.setFlag 0x0A20010 1
      | none => s.setFlag 0x0A20010 0

/-! ### The semaphore and set-up writes (R140, R146) -/

/-- The id of a management port in MGMT_SEM.HOLDER (R142). -/
def mpId : MgmtPort → Nat
  | .a => 1
  | .b => 2

/-- The port holds the semaphore. -/
def State.holdsSem (s : State) (mp : MgmtPort) : Bool := s.sem.holder == mpId mp

/-- A semaphore error (R146): the port's ERR bit is set and its MGMT_SEM_ERR counter increments. -/
def State.semError (s : State) (mp : MgmtPort) : State :=
  (s.bump (0x010010 + 8 * (mpId mp - 1)) 1).setFlag 0x010000 (7 + mpId mp)

/-- A set-up write (R140): it takes effect only if its port holds the semaphore, otherwise it is a semaphore error;
while PERST_N is asserted every write has no effect (R701). -/
def State.setup (s : State) (mp : MgmtPort) (f : State → State) : State :=
  if s.power.perst then s else if s.holdsSem mp then f s else s.semError mp

/-- A command of a command block (R140, R685): run at once while the block is not BUSY, held while it is, refused with
CAUSE 7 while one is already held. -/
def State.command (s : State) (mp : MgmtPort) (b : CmdBlock) (i : Instr) (f : State → State) : State :=
  s.setup mp fun s =>
    if !(s.block b).busy then f s
    else if (s.block b).held.isSome then s.cmdFail b 7
    else s.setBlock b { s.block b with held := some i }

/-! ### Tenancies -/

/-- A tenancy that has never been bound. -/
def Tenancy.fresh : Tenancy :=
  { state := 0, shared := false, newMode := none, unmoded := false, gen := 0, fatal := false, step := 0 }

/-- Tenancy 0 is always BOUND and STRICT (R594). -/
def Tenancy.zero : Tenancy := { Tenancy.fresh with state := 2 }

/-- A tenancy's state. -/
def State.ten (s : State) (t : Nat) : Tenancy := if t = 0 then .zero else tgetD s.tenancies t .fresh

/-- BOUND (R595). -/
def State.bound (s : State) (t : Nat) : Bool := (s.ten t).state == 2

/-- A tenancy that borrows and lends: BOUND and in mode SHARED (R67, R70). -/
def State.isShared (s : State) (t : Nat) : Bool := (s.ten t).shared && (s.ten t).state == 2

/-- The current key handle of a tenancy (R619, R620); 0 if none. -/
def State.keyHandle (s : State) (t : Nat) : Nat :=
  if t = 0 then 0x10000000
  else if s.owl.keys.contains t then 2 ^ 28 + (s.ten t).gen % 2 ^ 16 * 2 ^ 12 + t else 0

/-- A live staged register of a tenancy. -/
def State.liveReg (s : State) (t off : Nat) : Nat := (tgetD s.live (t * 2 ^ 26 + off) 0).toNat

/-- Entry i of an owner map of 16-bit entries at an offset, in a set of register values: VALID and tenancy. -/
def ownerEntry (m : Tab Reg) (base i : Nat) : Nat := bits (tgetD m (base + 8 * (i / 4)) 0).toNat (16 * (i % 4) + 15) (16 * (i % 4))

/-- The tenancy an owner-map entry gives its element to, by its live value. -/
def State.ownedBy (s : State) (base i t : Nat) : Bool :=
  let e := ownerEntry s.live base i
  bit e 15 && bits e 8 0 == t

/-! ### Works -/

/-- The admitted work of a number. -/
def State.work (s : State) (w : Nat) : Option Work := s.works.find? (fun x => x.id == w)

/-- One piece of work replaced. -/
def State.setWork (s : State) (x : Work) : State :=
  { s with works := s.works.map (fun y => if y.id == x.id then x else y) }

/-- The work's result is known: only its completion is left, and it waits for no unit any more. -/
def State.finish (s : State) (w : Nat) (r : Result) : State :=
  { s with
    works := s.works.map (fun y => if y.id == w then { y with result := some r } else y)
    slots := { s.slots with waits := s.slots.waits.filter (fun v => v.w != w) } }

/-- A result with a status, detail and zeros elsewhere (R108, R114). -/
def Result.err (status detail : Nat) : Result :=
  { status, flags := 0, count := 0, snap := 0, detail, b24 := 0 }

/-- DONE with a count. -/
def Result.done (count : Nat) : Result := { status := 0, flags := 0, count, snap := 0, detail := 0, b24 := 0 }

end Sys2Proof.Machine
end

