-- ==== Sys2Proof/Machine/Aes.lean ====
section
/-!
DEFINITION. AES-256-XTS, with which DDR, flash and host-tier data are encrypted (Table 0.2, R619, R623). The cipher is that of the
published standards the spec names, FIPS 197 and IEEE 1619 (PRESUMED, assumption 116).
-/

namespace Sys2Proof.Machine

/-! ### The field of AES -/

/-- A byte times x. -/
def aesDouble (b : Byte) : Byte := if b.msb then (b <<< 1) ^^^ 0x1B else b <<< 1

/-- The product of two bytes, the second bit by bit from its lowest. -/
def aesMul (a b : Byte) : Byte :=
  ((List.range 8).foldl (fun (acc, p) i => ((if b.getLsbD i then acc ^^^ p else acc), aesDouble p)) ((0 : Byte), a)).1

/-- The multiplicative inverse, the 254th power; that of 0 is 0. -/
def aesInverse (a : Byte) : Byte :=
  let square := fun (b : Byte) => aesMul b b
  ((List.range 7).foldl (fun (acc, p) _ => (aesMul acc p, square p)) ((1 : Byte), square a)).1

/-- The S-box and its inverse. -/
def aesSub (a : Byte) : Byte :=
  let b := aesInverse a
  b ^^^ b.rotateLeft 1 ^^^ b.rotateLeft 2 ^^^ b.rotateLeft 3 ^^^ b.rotateLeft 4 ^^^ 0x63
def aesUnsub (a : Byte) : Byte := aesInverse (a.rotateLeft 1 ^^^ a.rotateLeft 3 ^^^ a.rotateLeft 6 ^^^ 0x05)

/-! ### Rounds, on 16 bytes in column order -/

def xorAll (a b : Bytes) : Bytes := List.zipWith (· ^^^ ·) a b

/-- Row r of the block is byte r of each column: rotated left by `k` r columns. -/
def aesRows (k : Nat) (b : Bytes) : Bytes := (List.range 16).map (fun i => b.getD ((i + 4 * k * (i % 4)) % 16) 0)

/-- Each column times a circulant matrix, given by its first row. -/
def aesColumns (m : List Byte) (b : Bytes) : Bytes :=
  (List.range 16).map (fun i =>
    (List.range 4).foldl (fun acc k => acc ^^^ aesMul (b.getD (i / 4 * 4 + k) 0) (m.getD ((k + 4 - i % 4) % 4) 0)) 0)

/-- The words of the expanded key from those so far, four bytes each. -/
def aesWords : (n : Nat) → (soFar : List Bytes) → List Bytes
  | 0, ws => ws
  | n + 1, ws =>
    let i := ws.length
    let last := ws.getD (i - 1) []
    let rcon := (List.range (i / 8 - 1)).foldl (fun r _ => aesDouble r) (1 : Byte)
    let t :=
      if i % 8 = 0 then xorAll ((last.drop 1 ++ last.take 1).map aesSub) [rcon, 0, 0, 0]
      else if i % 8 = 4 then last.map aesSub else last
    aesWords n (ws ++ [xorAll (ws.getD (i - 8) []) t])

/-- The 15 round keys of a 32-byte key. -/
def aesKeys (key : Bytes) : List Bytes :=
  let ws := aesWords 52 ((List.range 8).map (fun i => slice key (4 * i) 4))
  (List.range 15).map (fun r => ((List.range 4).map (fun k => ws.getD (4 * r + k) [])).flatten)

/-- AES-256 of one block, and its inverse (PRESUMED, assumption 116). -/
def aesEncrypt (key b : Bytes) : Bytes :=
  let ks := aesKeys key
  let mid := ((ks.drop 1).take 13).foldl (fun b k => xorAll (aesColumns [2, 3, 1, 1] (aesRows 1 (b.map aesSub))) k) (xorAll b (ks.getD 0 []))
  xorAll (aesRows 1 (mid.map aesSub)) (ks.getD 14 [])
/-- The inverse of AES-256 on one block (PRESUMED, assumption 116). -/
def aesDecrypt (key b : Bytes) : Bytes :=
  let ks := aesKeys key
  let back := fun (b : Bytes) => (aesRows 3 b).map aesUnsub
  let mid := ((ks.drop 1).take 13).reverse.foldl (fun b k => aesColumns [14, 11, 13, 9] (xorAll (back b) k)) (xorAll b (ks.getD 14 []))
  xorAll (back mid) (ks.getD 0 [])

/-! ### XTS -/

/-- A tweak of 16 bytes times x: a left shift of the 128-bit number. -/
def xtsNext (t : Nat) : Nat := if t < 2 ^ 127 then 2 * t else (2 * t - 2 ^ 128) ^^^ 0x87

/-- The blocks of one data unit, each between two additions of its tweak (PRESUMED, assumption 116). -/
def xtsUnit (f : Bytes → Bytes) : (n : Nat) → (tweak : Nat) → Bytes → Bytes
  | 0, _, _ => []
  | n + 1, t, b =>
    xorAll (f (xorAll (slice b 0 16) (toLe 16 t))) (toLe 16 t) ++ xtsUnit f n (xtsNext t) (b.drop 16)

/-- The tweak of a data unit: its address and the space it lies in (R623). -/
def xtsTweak (space addr : Nat) : Bytes := toLe 8 addr ++ toLe 1 space ++ toLe 7 0

/-- Data units of 64 bytes enciphered or deciphered under a key pair, the first at an address of a space (R623). -/
def xtsRun (cipher : Bytes → Bytes → Bytes) (keys : Bytes) (space addr : Nat) (b : Bytes) : Bytes :=
  (List.range (ceilDiv b.length 64)).flatMap (fun i =>
    let tweak := leNat (aesEncrypt (slice keys 32 32) (xtsTweak space (addr + 64 * i)))
    xtsUnit (cipher (slice keys 0 32)) 4 tweak (slice b (64 * i) 64))
/-- AES-256-XTS encipherment of data units from an address of a space (R623) (PRESUMED, assumption 116). -/
def xtsSeal : (keys : Bytes) → (space addr : Nat) → Bytes → Bytes := xtsRun aesEncrypt
/-- AES-256-XTS decipherment of the same (R623) (PRESUMED, assumption 116). -/
def xtsOpen : (keys : Bytes) → (space addr : Nat) → Bytes → Bytes := xtsRun aesDecrypt

/-- The spaces of R623. -/
def ddrSpace : Nat := 1
def flashTweak : Nat := 3
def hostSpace : Nat := 4

/-- Stored bytes of a tenancy under its data key, and what they decipher to (R370, R622). -/
def State.enciphered (s : State) (t space addr : Nat) (b : Bytes) : Bytes := xtsSeal (Config.dataKey t (s.ten t).gen) space addr b
def State.deciphered (s : State) (t space addr : Nat) (b : Bytes) : Bytes := xtsOpen (Config.dataKey t (s.ten t).gen) space addr b

end Sys2Proof.Machine
end

