-- ==== Sys2Proof/Machine/Float.lean ====
section
/-!
DEFINITION. The number formats: exact binary values, their encodings, the single rounding of R293, the conversions of R295 and
R296, and the canonical sums of R301, R302 and R707.
-/

namespace Sys2Proof.Machine

/-! ### Exact values -/

/-- A value: NaN, an infinity, or ±m·2^e with a signed zero. -/
inductive Fp where
  | nan
  | inf (neg : Bool)
  | fin (neg : Bool) (m : Nat) (e : Int)
  deriving DecidableEq, Repr

/-- A floating-point format: exponent bits, fraction bits, bias, and whether the top exponent holds infinity and NaN. -/
structure Fmt where
  ebits : Nat
  mbits : Nat
  bias  : Nat
  ieee  : Bool
  deriving DecidableEq, Repr

def fp32 : Fmt := { ebits := 8, mbits := 23, bias := 127, ieee := true }
def fp16 : Fmt := { ebits := 5, mbits := 10, bias := 15, ieee := true }
def bf16 : Fmt := { ebits := 8, mbits := 7, bias := 127, ieee := true }
def e5m2 : Fmt := { ebits := 5, mbits := 2, bias := 15, ieee := true }
/-- E4M3: no infinities; the one code of magnitude 0x7F is NaN (Table 4.1). -/
def e4m3 : Fmt := { ebits := 4, mbits := 3, bias := 7, ieee := false }
/-- E2M1: no infinities and no NaN. -/
def e2m1 : Fmt := { ebits := 2, mbits := 1, bias := 1, ieee := false }

/-- Bits of an encoding. -/
def Fmt.width (f : Fmt) : Nat := 1 + f.ebits + f.mbits

/-- The code of the largest finite magnitude. -/
def Fmt.maxCode (f : Fmt) : Nat :=
  if f.ieee then (2 ^ f.ebits - 1) * 2 ^ f.mbits - 1
  else if f.ebits = 4 then 2 ^ (f.ebits + f.mbits) - 2
  else 2 ^ (f.ebits + f.mbits) - 1

/-- The code of positive infinity, in a format that has one. -/
def Fmt.infCode (f : Fmt) : Nat := (2 ^ f.ebits - 1) * 2 ^ f.mbits

/-- The quiet NaN of a format, with a zero sign (R294). -/
def Fmt.nanCode (f : Fmt) : Nat :=
  if f.ieee then f.infCode + 2 ^ (f.mbits - 1) else 2 ^ (f.ebits + f.mbits) - 1

/-- The value of an encoding; subnormals are kept (R293). -/
def Fmt.decode (f : Fmt) (v : Nat) : Fp :=
  let c := v % 2 ^ (f.ebits + f.mbits)
  let neg := bit v (f.ebits + f.mbits)
  let ex := c / 2 ^ f.mbits
  let man := c % 2 ^ f.mbits
  if f.ieee && ex == 2 ^ f.ebits - 1 then (if man = 0 then .inf neg else .nan)
  else if !f.ieee && f.ebits == 4 && c == 127 then .nan
  else if ex = 0 then .fin neg man (1 - (f.bias : Int) - f.mbits)
  else .fin neg (2 ^ f.mbits + man) ((ex : Int) - f.bias - f.mbits)

/-- The quotient of m by 2^k rounded to nearest, ties to even. -/
def rne (m k : Nat) : Nat :=
  let q := m / 2 ^ k
  let r := m % 2 ^ k
  if 2 ^ k < 2 * r ∨ (2 * r = 2 ^ k ∧ q % 2 = 1) then q + 1 else q

/-- The code of m·2^e rounded to the format's precision, with no upper bound on the exponent (R295). -/
def Fmt.code (f : Fmt) (m : Nat) (e : Int) : Nat :=
  if m = 0 then 0
  else
    let emin : Int := 1 - (f.bias : Int) - f.mbits
    let ulp : Int := max (e + (Nat.log2 m : Int) - f.mbits) emin
    let q := if ulp ≤ e then m * 2 ^ (e - ulp).toNat else rne m (ulp - e).toNat
    -- a subnormal is its own code; a carry into the next exponent continues the codes
    if q < 2 ^ f.mbits then q else ((ulp - emin).toNat + 1) * 2 ^ f.mbits + (q - 2 ^ f.mbits)

/-- A value rounded to a format (R293, Table 7.3): beyond the largest finite value it becomes that value with `sat` or in a
format without infinities, and infinity otherwise. -/
def Fmt.encode (f : Fmt) (sat : Bool) (x : Fp) : Nat :=
  let sign := fun (neg : Bool) => b2n neg * 2 ^ (f.ebits + f.mbits)
  match x with
  | .nan => f.nanCode
  | .inf neg => sign neg + (if f.ieee then f.infCode else f.maxCode)
  | .fin neg m e =>
    let c := f.code m e
    sign neg + (if c ≤ f.maxCode then c else if sat || !f.ieee then f.maxCode else f.infCode)

/-- The sign. -/
def Fp.neg? : Fp → Bool
  | .nan => false
  | .inf n => n
  | .fin n _ _ => n

/-- True of NaN. -/
def Fp.isNan : Fp → Bool
  | .nan => true
  | _ => false

/-- True of a zero. -/
def Fp.isZero : Fp → Bool
  | .fin _ 0 _ => true
  | _ => false

/-- True of a value that is neither NaN nor an infinity. -/
def Fp.isFinite : Fp → Bool
  | .fin _ _ _ => true
  | _ => false

/-- The negated value. -/
def Fp.neg : Fp → Fp
  | .nan => .nan
  | .inf n => .inf (!n)
  | .fin n m e => .fin (!n) m e

/-- A signed integer multiple of a power of two as a value; zero is +0. -/
def Fp.ofInt (v : Int) (e : Int) : Fp := .fin (decide (v < 0)) v.natAbs e

/-- m as a signed integer. -/
def sgn (neg : Bool) (m : Nat) : Int := if neg then -(m : Int) else m

/-- The exact sum; a zero sum is −0 only when both are −0 (R707). -/
def Fp.add : Fp → Fp → Fp
  | .nan, _ | _, .nan => .nan
  | .inf a, .inf b => if a = b then .inf a else .nan
  | .inf a, _ | _, .inf a => .inf a
  | .fin a m e, .fin b n k =>
    let lo := min e k
    let v := sgn a (m * 2 ^ (e - lo).toNat) + sgn b (n * 2 ^ (k - lo).toNat)
    if v = 0 then .fin (a && b && m == 0 && n == 0) 0 0 else .ofInt v lo

/-- The exact product. -/
def Fp.mul : Fp → Fp → Fp
  | .nan, _ | _, .nan => .nan
  | .inf a, .inf b => .inf (a != b)
  | .inf a, .fin b n _ | .fin b n _, .inf a => if n = 0 then .nan else .inf (a != b)
  | .fin a m e, .fin b n k => .fin (a != b) (m * n) (e + k)

/-- The order of values that are not NaN; both zeros are equal. -/
def Fp.lt : Fp → Fp → Bool
  | .nan, _ | _, .nan => false
  | .inf a, .inf b => a && !b
  | .inf a, _ => a
  | _, .inf b => !b
  | .fin a m e, .fin b n k =>
    let lo := min e k
    decide (sgn a (m * 2 ^ (e - lo).toNat) < sgn b (n * 2 ^ (k - lo).toNat))

/-- The integer nearest to a finite value, ties to even. -/
def Fp.toInt : Fp → Int
  | .fin n m e => sgn n (if 0 ≤ e then m * 2 ^ e.toNat else rne m (-e).toNat)
  | _ => 0

/-! ### FP32 -/

/-- An FP32 code as a value. -/
def f32 (v : Nat) : Fp := fp32.decode v

/-- A value rounded to FP32. -/
def r32 (x : Fp) : Nat := fp32.encode false x

/-- The FP32 sum, difference and product of codes. -/
def add32 (a b : Nat) : Nat := r32 ((f32 a).add (f32 b))
def sub32 (a b : Nat) : Nat := r32 ((f32 a).add (f32 b).neg)
def mul32 (a b : Nat) : Nat := r32 ((f32 a).mul (f32 b))
def neg32 (a : Nat) : Nat := if (f32 a).isNan then a else a ^^^ 2 ^ 31

/-- An integer as FP32. -/
def int32f (v : Int) : Nat := r32 (Fp.ofInt v 0)

/-- A bit-by-bit integer square root of n below 2^(2·bits). -/
def isqrt (n : Nat) : (bits r : Nat) → Nat
  | 0, r => r
  | b + 1, r => isqrt n b (if (r + 2 ^ b) * (r + 2 ^ b) ≤ n then r + 2 ^ b else r)

/-- The FP32 square root: the exact root to more than 60 bits with a sticky bit, rounded once. -/
def sqrt32 (a : Nat) : Nat :=
  match f32 a with
  | .nan => fp32.nanCode
  | .inf true => fp32.nanCode
  | .inf false => a
  | .fin neg m e =>
    if m = 0 then a
    else if neg then fp32.nanCode
    else
      let odd := e % 2 != 0
      let m' := (if odd then 2 * m else m) * 2 ^ 80
      let e' := (if odd then e - 1 else e) / 2 - 40
      let r := isqrt m' 56 0
      r32 (.fin false (2 * r + b2n (r * r != m')) (e' - 1))

/-- The FP32 quotient: the exact quotient to more than 60 bits with a sticky bit, rounded once. -/
def div32 (a b : Nat) : Nat :=
  match f32 a, f32 b with
  | .nan, _ | _, .nan => fp32.nanCode
  | .inf _, .inf _ => fp32.nanCode
  | .inf n, .fin k _ _ => r32 (.inf (n != k))
  | .fin n _ _, .inf k => r32 (.fin (n != k) 0 0)
  | .fin n m e, .fin k p f =>
    if p = 0 then (if m = 0 then fp32.nanCode else r32 (.inf (n != k)))
    else
      let q := m * 2 ^ 80 / p
      r32 (.fin (n != k) (2 * q + b2n (m * 2 ^ 80 % p != 0)) (e - f - 81))

/-! ### Sums in the reduction order (R301, R302) -/

/-- The exact sum of a block. -/
def exactSum : List Fp → Fp
  | [] => .fin false 0 0
  | x :: t => t.foldl Fp.add x

/-- The first `fuel` blocks of B terms added to an accumulator: each block's exact sum, scaled, rounded and added (R301). -/
def sumBlocks (B : Nat) (scale : Nat → Fp) : (fuel blk acc : Nat) → List Fp → Nat
  | 0, _, acc, _ => acc
  | fuel + 1, blk, acc, ts =>
    if ts = [] then acc
    else
      let s := (exactSum (ts.take B)).mul (scale blk)
      sumBlocks B scale fuel (blk + 1) (add32 acc (r32 s)) (ts.drop B)

/-- One, the scale outside the MX formats. -/
def unit : Fp := .fin false 1 0

/-- The sum of terms in the reduction order, with blocks of 16. -/
def sum32 (ts : List Fp) : Nat := sumBlocks 16 (fun _ => unit) ts.length 0 0 ts

/-- Products of two vectors, element by element. -/
def products (a b : List Fp) : List Fp := List.zipWith Fp.mul a b

/-- The dot product in the reduction order. -/
def dot32 (a b : List Fp) : Nat := sum32 (products a b)

/-- The squared L2 distance: each difference rounded, then the sum of squares (R302). -/
def dist32 (a b : List Fp) : Nat :=
  let d := List.zipWith (fun x y => f32 (r32 (x.add y.neg))) a b
  dot32 d d

/-- The norm (R302). -/
def norm32 (a : List Fp) : Nat := sqrt32 (dot32 a a)

/-! ### Vector formats (Table 4.1) -/

/-- Bits of an element of a vector format. -/
def vecBits : Nat → Nat
  | 0 => 32
  | 1 | 2 => 16
  | 6 => 4
  | 7 => 1
  | _ => 8

/-- Bytes of a vector, and its stride in the vector space (R152). -/
def vecSize (fmt dim : Nat) : Nat := dim * vecBits fmt / 8
def vecStride (fmt dim : Nat) : Nat := roundup (vecSize fmt dim) 64

/-- Element i of packed elements of w bits. -/
def elemAt (w : Nat) (b : Bytes) (i : Nat) : Nat :=
  if w < 8 then fld b (i * w / 8) 1 / 2 ^ (i * w % 8) % 2 ^ w else fld b (i * w / 8) (w / 8)

/-- The value of an element code of a vector format. -/
def vecElem (fmt v : Nat) : Fp :=
  match fmt with
  | 0 => fp32.decode v
  | 1 => fp16.decode v
  | 2 => bf16.decode v
  | 3 => e4m3.decode v
  | 4 => e5m2.decode v
  | 5 => .ofInt (signed 8 v) 0
  | 6 => .ofInt (signed 4 v) 0
  | _ => .ofInt (v % 2) 0

/-- A vector's elements. -/
def vecElems (fmt dim : Nat) (b : Bytes) : List Fp := (List.range dim).map (fun i => vecElem fmt (elemAt (vecBits fmt) b i))

/-- A value as an element code of a floating-point vector format, rounded to nearest (R160). -/
def vecCode (fmt : Nat) (x : Fp) : Nat :=
  match fmt with
  | 0 => fp32.encode true x
  | 1 => fp16.encode true x
  | 2 => bf16.encode true x
  | 3 => e4m3.encode true x
  | _ => e5m2.encode true x

/-- Element codes of w bits packed, lowest first. -/
def packElems (w : Nat) (vs : List Nat) : Bytes :=
  toLe (ceilDiv (vs.length * w) 8) ((vs.reverse).foldl (fun acc v => acc * 2 ^ w + v % 2 ^ w) 0)

end Sys2Proof.Machine
end

