-- ==== Sys2Proof/Machine/Clocks.lean ====
section
/-!
DEFINITION. The reference sources: their order, what makes one usable, and the start on the XO (R74–R77, R708).
-/

namespace Sys2Proof.Machine

/-- CLK_STATUS (Table 17.3). -/
def clkStatus : Nat := 0x0020008

/-- One source's state. -/
def Clock.src (c : Clock) : RefSource → Source
  | .port0 => c.port0
  | .port6 => c.port6
  | .xo => c.xo
  | .watch => c.watch

/-- One source's state replaced. -/
def Clock.setSrc (c : Clock) (r : RefSource) (x : Source) : Clock :=
  match r with
  | .port0 => { c with port0 := x }
  | .port6 => { c with port6 := x }
  | .xo => { c with xo := x }
  | .watch => { c with watch := x }

/-- The order of preference of Table 2.6. -/
def sourceRank : RefSource → Nat
  | .port0 => 1
  | .port6 => 2
  | .xo => 3
  | .watch => 4

/-- CLK_CTL.XO_PRIMARY, under which sources 1 and 2 are not used (R75). -/
def State.xoPrimary (s : State) : Bool := s.flag 0x0020000 0

/-- A source that may be used: eligible, not failed, not shut out by R75. -/
def State.usable (s : State) (r : RefSource) : Bool :=
  (s.clock.src r).eligible && !(s.clock.src r).failed && !(s.xoPrimary && decide (sourceRank r ≤ 2))

/-- The most preferred usable source (R74). -/
def State.bestSource (s : State) : Option RefSource :=
  [RefSource.port0, .port6, .xo, .watch].find? s.usable

/-- In service: DEV_READY is high and no test mode is active (R79). -/
def State.inService (s : State) : Bool := s.power.devReady && s.loop.isNone && !s.power.scanArmed

/-- A clock or Rack Time event's record: class corrected, SOURCE 11, UNIT 0 (R708). -/
def State.timeRecord (s : State) (code : Nat) : State := s.logError 0 11 code none 0 0 0 0 0

/-- The active source chosen without a report: at start-up, on relock, and by a write of CLK_CTL (assumption 9). -/
def State.setActive (s : State) (r : Option RefSource) : State := { s with clock := { s.clock with active := r } }

/-- A source has become stable (R77). The XO and the watch oscillator may then be used, and at start-up the device begins on
the XO (R76); a recovered reference waits for its monitoring window (DEDUCED, assumption 26). -/
def sourceStableSt (r : RefSource) (s : State) : State :=
  let own := match r with | .xo | .watch => true | _ => false
  let x := s.clock.src r
  let s := { s with clock := s.clock.setSrc r { x with stable := true, failed := false, eligible := x.eligible || own } }
  if r = .xo && s.clock.active.isNone && !s.clock.coast then s.setActive s.bestSource else s

def execSourceStable (src : RefSource) (s : State) : Out := .next (sourceStableSt src s)

/-! ### Rates that follow the source (Tables 0.2 and 2.8) -/

/-- CCLK's period in half nanoseconds: 2.0 GHz on a 100 MHz source, 1.0 GHz on the watch oscillator, 400 MHz while coasting. -/
def State.cclkHalfNs (s : State) : Nat :=
  if s.clock.coast then 5 else if s.clock.active = some .watch then 2 else 1

/-- Per-pin rates in Mb/s, or MT/s, of HBM, DDR and NAND; the two memories stand in self-refresh, and NAND pauses, while coasting. -/
def State.memRate (s : State) (nominal : Nat) : Nat :=
  if s.clock.coast then 0 else if s.clock.active = some .watch then nominal / 2 else nominal
def State.hbmRate (s : State) : Nat := s.memRate 9600
def State.ddrRate (s : State) : Nat := s.memRate 12800
def State.nandRate (s : State) : Nat := s.memRate 3600

/-- The port links run: not on the watch oscillator and not while coasting (R82, Table 2.8). -/
def State.linksRun (s : State) : Bool := !s.clock.coast && s.clock.active != some .watch

end Sys2Proof.Machine
end

