-- ==== Sys2Proof/Machine/Regs.lean ====
section
/-!
DEFINITION. The register space: what each register without behaviour of its own stores (Tables 17.2–17.15), and the write
of one (R12, R13, R140, R653, R654, R658–R662).
-/

namespace Sys2Proof.Machine

/-- Where a register's bits are kept. -/
inductive RegKind where
  /-- By offset. -/
  | plain
  /-- Shadow value of the tenancy TEN_SEL names (R668). -/
  | staged
  /-- Shadow value of an owner map (R669). -/
  | owner
  /-- Shadow slot map (R62) and background map (R600). -/
  | slotMap
  | bgMap
  /-- Banked by BUR_GRP_SEL or EMB_GRP_SEL (R676). -/
  | burGroup
  | embGroup
  /-- BUR_MERGE_CHUNKS: bytes outside 1–64 are ignored (R676). -/
  | chunks
  deriving DecidableEq, Repr

/-- A row of the register tables: an array of registers, its RW bits and its W1C bits. -/
structure RegRow where
  base   : Nat
  count  : Nat
  stride : Nat
  kind   : RegKind
  rw     : Nat
  w1c    : Nat
  deriving DecidableEq, Repr

/-- A mask of bits [hi:lo]. -/
def mask (hi lo : Nat) : Nat := (2 ^ (hi + 1 - lo) - 1) * 2 ^ lo

/-- All 64 bits. -/
def full : Nat := 2 ^ 64 - 1

/-- Four 16-bit entries of an owner map or a slot map: bit 15 and bits [8:0]. -/
def entryMask : Nat := 0x81FF81FF81FF81FF

/-- Two 32-bit entries of a group map. -/
def groupMask : Nat := 0x8FFF0FFF8FFF0FFF

/-- Blocks 0–3: global, management, clocks, tenancies, slots and contexts. -/
def regRows1 : List RegRow :=
  [ ⟨0x0010000, 1, 8, .plain, 0, 0x310⟩, ⟨0x0010028, 1, 8, .plain, 0, 1⟩,
    ⟨0x0020000, 1, 8, .plain, 1, 0⟩, ⟨clkStatus, 1, 8, .plain, 0, 0xB0⟩,
    ⟨0x0020108, 1, 8, .plain, full, 0⟩, ⟨0x0020118, 1, 8, .plain, 0, 0x300⟩,
    ⟨0x0040000, 1, 8, .plain, 2 ^ 63 + mask 8 0, 0⟩, ⟨0x0040010, 1, 8, .plain, 0, 0x501⟩,
    ⟨0x0040100, 1, 8, .staged, 1, 0⟩, ⟨0x0040108, 1, 8, .staged, mask 59 0, 0⟩, ⟨0x0040110, 1, 8, .staged, full, 0⟩,
    ⟨0x0040120, 4, 8, .staged, full, 0⟩, ⟨0x0040140, 8, 16, .staged, mask 14 8 + mask 5 0, 0⟩,
    ⟨0x0040148, 8, 16, .staged, full, 0⟩, ⟨0x00401C0, 32, 8, .staged, mask 31 0, 0⟩,
    ⟨0x00402C0, 8, 8, .staged, mask 14 0, 0⟩, ⟨0x0040300, 1, 8, .staged, mask 63 32 + mask 19 0, 0⟩,
    ⟨0x0040308, 1, 8, .staged, mask 34 0, 0⟩, ⟨0x0040310, 1, 8, .staged, mask 24 0, 0⟩,
    ⟨0x0040320, 2, 8, .staged, mask 31 0, 0⟩, ⟨0x0040408, 1, 8, .plain, 0, 6⟩,
    ⟨0x0040800, 32, 8, .plain, full, 0⟩, ⟨0x0040908, 1, 8, .plain, 0, 1⟩,
    ⟨0x0048000, 3072, 8, .owner, entryMask, 0⟩, ⟨0x0050000, 12096, 8, .slotMap, entryMask, 0⟩,
    ⟨0x0068000, 12096, 8, .bgMap, entryMask, 0⟩ ]

/-- Blocks 4–8: rings, ports, HBM, DDR and flash. -/
def regRows2 : List RegRow :=
  [ ⟨0x0080000, 8, 8, .plain, full, 0⟩, ⟨0x0080048, 1, 8, .plain, 0, 0x101⟩,
    ⟨0x0100000, 12, 0x100, .plain, 1, 0⟩, ⟨0x0100008, 12, 0x100, .plain, 1, 0⟩, ⟨0x0100010, 12, 0x100, .plain, 1, 0⟩,
    ⟨0x0100020, 12, 0x100, .plain, 0, 0x600⟩, ⟨0x0200008, 1, 8, .plain, mask 31 0, 0⟩,
    ⟨0x0300040, 8, 16, .plain, 0, 0x100⟩, ⟨0x0300140, 1, 8, .plain, mask 3 0, 0⟩, ⟨0x0300148, 1, 8, .plain, mask 15 0, 0⟩,
    ⟨0x0300150, 1, 8, .plain, mask 7 0, 0⟩, ⟨0x0300158, 1, 8, .plain, mask 31 0, 0⟩,
    ⟨0x0300160, 1, 8, .plain, mask 15 0, 0⟩, ⟨0x0310000, 112, 16, .plain, full, 0⟩,
    ⟨0x0310008, 112, 16, .plain, mask 55 0, 0⟩ ]

/-- Blocks 9–13: search, embeddings, Squirrels, hosted memory, translation, fabric. -/
def regRows3 : List RegRow :=
  [ ⟨0x0401000, 512, 8, .chunks, full, 0⟩, ⟨0x0402000, 1, 8, .plain, mask 11 0, 0⟩,
    ⟨0x0402008, 1, 8, .burGroup, mask 24 16 + mask 8 0, 0⟩, ⟨0x0402010, 1, 8, .burGroup, full, 0⟩,
    ⟨0x0402400, 128, 8, .burGroup, groupMask, 0⟩, ⟨0x0403000, 1, 8, .plain, mask 11 0, 0⟩,
    ⟨0x0403008, 1, 8, .embGroup, mask 63 32 + mask 23 16 + mask 8 0, 0⟩, ⟨0x0403010, 1, 8, .embGroup, full, 0⟩,
    ⟨0x0403400, 128, 8, .embGroup, groupMask, 0⟩, ⟨0x0403800, 1, 8, .embGroup, full, 0⟩,
    ⟨0x0440000, 1536, 8, .owner, entryMask, 0⟩, ⟨0x0444000, 192, 8, .owner, entryMask, 0⟩,
    ⟨0x0500080, 1, 8, .plain, mask 31 0, 0⟩, ⟨0x0500100, 8, 8, .plain, mask 31 0, 0⟩,
    ⟨0x0500200, 1, 8, .staged, mask 31 0, 0⟩, ⟨0x0500300, 64, 8, .owner, entryMask, 0⟩,
    ⟨0x0600800, 8, 8, .staged, mask 25 16 + mask 9 0, 0⟩, ⟨0x0601000, 16, 8, .plain, full, 0⟩,
    ⟨0x0601088, 1, 8, .plain, 0, 0x701⟩, ⟨0x0700000, 1, 8, .staged, mask 8 0, 0⟩, ⟨0x0700008, 1, 8, .staged, full, 0⟩,
    ⟨0x0700200, 12, 8, .staged, mask 8 0, 0⟩, ⟨0x0700400, 1, 8, .plain, mask 31 0, 0⟩,
    ⟨0x0700410, 1, 8, .plain, 0, 1⟩, ⟨0x0800000, 12, 8, .plain, mask 31 16 + 1, 0⟩,
    ⟨0x0801000, 4096, 8, .plain, 2 ^ 15 + mask 11 8 + mask 3 0, 0⟩, ⟨0x0809000, 4, 8, .plain, full, 0⟩,
    ⟨0x0809028, 1, 8, .plain, 0, 1⟩, ⟨0x080C000, 1, 8, .plain, mask 11 0, 0⟩, ⟨0x080C008, 1, 8, .plain, full, 0⟩,
    ⟨0x080C010, 1, 8, .plain, mask 11 0, 0⟩, ⟨0x080C018, 1, 8, .plain, mask 31 0, 0⟩,
    ⟨0x080C030, 1, 8, .plain, 0, 0xF00⟩, ⟨0x080C100, 64, 8, .plain, full, 0⟩ ]

/-- Blocks 14–17: Owl, health, errors, debug. -/
def regRows4 : List RegRow :=
  [ ⟨0x0900008, 1, 8, .plain, 0, 2⟩, ⟨0x0A00010, 1, 8, .plain, 0, mask 20 16⟩, ⟨nmiOff, 1, 8, .plain, 0, 7⟩,
    ⟨0x0A00030, 1, 8, .plain, mask 7 0, 0x200⟩, ⟨0x0A00040, 1, 8, .plain, mask 31 0, 0⟩,
    ⟨0x0A00060, 1, 8, .plain, 0, 1⟩, ⟨0x0A20010, 1, 8, .plain, 0, 3⟩, ⟨0x0C00000, 1, 8, .plain, mask 17 0, 0⟩,
    ⟨0x0C00008, 1, 8, .plain, 0, 1⟩, ⟨0x0C00020, 1, 8, .plain, full, 0⟩,
    ⟨0x0C00028, 1, 8, .plain, 2 ^ 63 + mask 50 16 + 3, 0⟩, ⟨0x0C00068, 1, 8, .plain, 0, 1⟩,
    ⟨0x0C00080, 1, 8, .plain, 1, 0⟩, ⟨0x0C00098, 1, 8, .plain, mask 21 0, 0⟩ ]

/-- The registers that have no command of their own. -/
def regRows : List RegRow := regRows1 ++ (regRows2 ++ (regRows3 ++ regRows4))

/-- An offset is an element of a row. -/
def RegRow.covers (r : RegRow) (off : Nat) : Bool :=
  decide (r.base ≤ off ∧ (off - r.base) % r.stride = 0 ∧ (off - r.base) / r.stride < r.count)

/-- What a write of a register changes; none for an offset that names no such register (R659). A register with W1C flags has
the companion NAME_EN at its offset + 8, with the same bit positions (R661) (DEDUCED, assumption 28). -/
def regRow (off : Nat) : Option RegRow :=
  match regRows.find? (fun r => r.covers off) with
  | some r => some r
  | none =>
    match regRows.find? (fun r => r.covers (off - 8) && r.w1c != 0 && decide (8 ≤ off)) with
    | some r => some { r with base := off, count := 1, rw := r.w1c, w1c := 0 }
    | none => none

/-- A flag whose event is non-maskable: CLK_SRC_FAIL and HLT_NMI.CAUSE (R80, R655); it ignores its enable bit (R661). -/
def nonMaskable (off : Nat) : Nat :=
  if off = clkStatus then 0x10 else if off = nmiOff then 7 else 0

/-- The base of the block an offset lies in (Table 17.1). -/
def blockBase (off : Nat) : Nat :=
  if off < 0x10000 then 0 else if off < 0x20000 then 0x10000 else if off < 0x40000 then 0x20000
  else if off < 0x80000 then 0x40000 else if off < 0x100000 then 0x80000 else if off < 0x200000 then 0x100000
  else if off < 0x280000 then 0x200000 else if off < 0x300000 then 0x280000 else if off < 0xC00000 then off / 0x100000 * 0x100000
  else 0xC00000

/-- The FLAG_RACE counter of an offset's block (R662) (DESIGN CHOICE, assumption 97). -/
def flagRace (off : Nat) : Nat := blockBase off + 0xFFF8

/-- The aligned offset, the bits written and their values, of a write of a size (R658); none for any other size or
alignment. -/
def writeLanes (offset size : Nat) (value : Reg) : Option (Nat × Reg × Reg) :=
  if size = 8 ∧ offset % 8 = 0 then some (offset, BitVec.ofNat 64 full, value)
  else if size = 4 ∧ offset % 8 = 0 then some (offset, 0xFFFFFFFF, value &&& 0xFFFFFFFF)
  else if size = 4 ∧ offset % 8 = 4 then some (offset - 4, 0xFFFFFFFF00000000, (value &&& 0xFFFFFFFF) <<< 32)
  else none

/-- The written bits of a mask replaced. -/
def merge (old m v : Reg) : Reg := (old &&& ~~~m) ||| (v &&& m)

/-- TEN_SEL.TENANCY. -/
def State.tenSel (s : State) : Nat := (s.stored 0x0040000).toNat % 512

/-- The key of a banked group register: its selector's bank and its offset. -/
def groupKey (sel off : Nat) : Nat := (sel + 1) * 2 ^ 26 + off

/-- BUR_MERGE_CHUNKS: each written byte in 1–64 is stored, any other ignored. -/
def mergeChunks : (n : Nat) → (old m v : Nat) → Nat
  | 0, _, _, _ => 0
  | n + 1, old, m, v =>
    let b := v % 256
    (if m % 256 = 255 ∧ 1 ≤ b ∧ b ≤ 64 then b else old % 256) + 256 * mergeChunks n (old / 256) (m / 256) (v / 256)

/-- The bit positions of a number below 64. -/
def onBits (v : Nat) : List Nat := (List.range 64).filter (bit v)

/-- Events that a write to an enable register raises at once: bits going from 0 to 1 while their flag is 1 (R654). -/
def State.enableEvents (s : State) (off : Nat) (old new : Reg) : State :=
  (onBits ((new &&& ~~~old) &&& s.stored (off - 8)).toNat).foldl (fun s i => s.emit (.event (off - 8) i)) s

/-- The W1C bits of a flag register under a write, with the bits that hardware sets in the same cycle (R13, R654): each 1
clears its bit unless hardware sets it; then the bit stays set, FLAG_RACE increments, and the event is raised. -/
def State.w1c (s : State) (off : Nat) (w1c written hwSet : Nat) : State :=
  (onBits w1c).foldl (fun s i =>
    let clr := bit written i
    let set := bit hwSet i
    if set then
      let race := clr
      let s' := if bit (nonMaskable off) i then s.setBit off i else s.setFlag off i
      if race then
        let s'' := s'.bump (flagRace off) 1
        if s.flag off i && s.enabled off i && !bit (nonMaskable off) i then s''.emit (.event off i) else s''
      else s'
    else if clr then { s with regs := tset s.regs off (s.stored off &&& ~~~(BitVec.ofNat 64 (2 ^ i))) } else s) s

/-- The write of a register kept by offset: RW bits stored, the events of enable bits, W1C bits. -/
def State.writePlain (s : State) (off : Nat) (r : RegRow) (m v hwSet : Reg) : State :=
  let old := s.stored off
  let new := merge old (BitVec.ofNat 64 r.rw &&& m) v
  let s1 : State := { s with regs := tset s.regs off new }
  let s2 : State := if (regRows.find? (fun r => r.covers off)).isNone then s1.enableEvents off old new else s1
  if r.w1c = 0 then s2 else s2.w1c off r.w1c (v &&& m).toNat hwSet.toNat

/-- A shadow slot-map register written. -/
def State.writeSlotReg (s : State) (off : Nat) (rw v : Reg) : State :=
  { s with slots := { s.slots with shadow := tset s.slots.shadow off (merge (tgetD s.slots.shadow off 0) rw v) } }

/-- A banked register written. -/
def State.writeBank (s : State) (k : Nat) (rw v : Reg) : State :=
  { s with regs := tset s.regs k (merge (tgetD s.regs k 0) rw v) }

/-- A shadow value of a staged register written. -/
def State.writeShadow (s : State) (k : Nat) (rw v : Reg) : State :=
  { s with shadow := tset s.shadow k (merge (tgetD s.shadow k 0) rw v) }

/-- The write of a register (R12): reserved and read-only bits are ignored (R10). -/
def State.writeReg (s : State) (off : Nat) (m v hwSet : Reg) : State :=
  match regRow off with
  | none => s
  | some r =>
    let rw := BitVec.ofNat 64 r.rw &&& m
    match r.kind with
    | .plain => s.writePlain off r m v hwSet
    | .staged => s.writeShadow (s.tenSel * 2 ^ 26 + off) rw v
    | .owner => s.writeShadow off rw v
    | .slotMap => if (off - 0x0050000) / 8 % 16 = 15 then s else s.writeSlotReg off rw v
    | .bgMap => s.writeSlotReg off rw v
    | .burGroup => s.writeBank (groupKey ((s.stored 0x0402000).toNat % 4096) off) rw v
    | .embGroup => s.writeBank (groupKey ((s.stored 0x0403000).toNat % 4096) off) rw v
    | .chunks =>
      { s with regs := tset s.regs off (BitVec.ofNat 64 (mergeChunks 8 (s.stored off).toNat m.toNat v.toNat)) }

/-! ### Register windows -/

/-- The bytes of an image window of 8·n bytes. -/
def State.image (s : State) (off : Nat) : (n : Nat) → Bytes
  | 0 => []
  | n + 1 => toLe 8 (s.stored off).toNat ++ State.image s (off + 8) n

/-- A window loaded with bytes (R671). -/
def State.loadImage (s : State) (off : Nat) (b : Bytes) : (n : Nat) → State
  | 0 => s
  | n + 1 =>
    let s' := { s with regs := tset s.regs off (BitVec.ofNat 64 (fld b 0 8)) }
    State.loadImage s' (off + 8) (b.drop 8) n

end Sys2Proof.Machine
end

