-- ==== Sys2Proof/Machine/Ports.lean ====
section
/-!
DEFINITION. What every port asks of a request before it is served: the port's class, its hold, its IDE stream, and the
drops of R125.
-/

namespace Sys2Proof.Machine

/-- Port p's registers (R673). -/
def portBase (p : Nat) : Nat := 0x0100000 + 0x100 * p

/-- PORT_CTL.HOLD. -/
def State.held (s : State) (p : Nat) : Bool := s.flag (portBase p) 0

/-- The device carries traffic: DEV_READY is high (assumption 10), and the port is configured, in link-up, not held, and not
the far end of a loopback (R4, R643, R673). -/
def State.carries (s : State) (p : Nat) : Bool :=
  s.power.devReady && decide (p < 12) && s.portClass p != 0 && !s.held p && (s.port p).up && !(s.port p).farEnd

/-- A request on a port class that Table 3.12 does not allow (R125): dropped, counted, reported, and answered as an address
the port does not decode (DEDUCED, assumption 70). -/
def State.classDrop (s : State) (p : Nat) : State :=
  ((s.bump (portBase p + 0x30) 1).setFlag (portBase p + 0x20) 9).emit (.undecoded (.port p))

/-- The answer to an address or message a port does not decode. -/
def State.undecoded (s : State) (p : Nat) : State := s.emit (.undecoded (.port p))

/-- PORT_IDE_REQ of an H-port whose stream is not established (R626). -/
def State.ideBlocked (s : State) (p : Nat) : Bool := s.flag (portBase p + 0x10) 0 && !(s.port p).ideSecure

/-- A request of a class of traffic arriving on a port: no effect where the port carries no traffic, a drop where the class
is wrong (R124, R125) (DEDUCED, assumption 10). -/
def State.arrive (s : State) (p cls : Nat) (f : State → State) : State :=
  if !s.carries p then s else if s.portClass p ≠ cls then s.classDrop p else f s

/-- The die of a port (Table 1.2). -/
def portDie (p : Nat) : Nat := p / 6

end Sys2Proof.Machine
end

