-- ==== Sys2Proof/Machine/Semaphore.lean ====
section
/-!
DEFINITION. The management semaphore (R140–R146, R665).
-/

namespace Sys2Proof.Machine

/-- MGMT_SEM (Table 17.2). -/
def semOff : Nat := 0x0010000

/-- The lease: 1,000,000,000 ns (R143) (DEDUCED, assumption 27). -/
def semLease : Nat := 1000000000

/-- HOLDER's effect of a write (Table 3.15). -/
def State.semHolder (s : State) (mp : MgmtPort) (v : Nat) : State :=
  let me := mpId mp
  if v = me then
    if s.sem.holder = 0 ∨ s.sem.holder = me then { s with sem := { s.sem with holder := me, lease := semLease } }
    else s.semError mp
  else if v = 0 then
    if s.sem.holder = 0 then s
    else if s.sem.holder = me then { s with sem := { s.sem with holder := 0, lease := 0 } }
    else s.semError mp
  else s.semError mp

/-- LAPSED and ERR bits that a write carries are cleared only if the writer holds the semaphore after the HOLDER effect;
otherwise the write is a semaphore error (R665). A bit that hardware sets in the same cycle stays set, and counts in FLAG_RACE (R13). -/
def State.semClear (s : State) (mp : MgmtPort) (v hwSet : Nat) : State :=
  let ones := v &&& 0x310
  if ones = 0 then s
  else if s.holdsSem mp then s.w1c semOff 0x310 ones (hwSet &&& ones)
  else s.semError mp

/-- One write to MGMT_SEM; a write that fails twice over is one semaphore error. -/
def State.semWrite (s : State) (mp : MgmtPort) (v hwSet : Nat) : State :=
  let failed := mpId mp ≠ bits v 1 0 ∧ ¬ (bits v 1 0 = 0 ∧ (s.sem.holder = 0 ∨ s.sem.holder = mpId mp)) ∨
    mpId mp = bits v 1 0 ∧ s.sem.holder ≠ 0 ∧ s.sem.holder ≠ mpId mp
  if failed then s.semError mp else (s.semHolder mp (bits v 1 0)).semClear mp v hwSet

/-- The other management port. -/
def otherMp : MgmtPort → MgmtPort
  | .a => .b
  | .b => .a

/-- A write to MGMT_SEM (R142). `other` is the other port's write in the same always-on cycle: two takes of a free semaphore are
a tie, which the port in TIE_NEXT wins (R144). -/
def mgmtSemWriteSt (mp : MgmtPort) (value : Reg) (other : Option Reg) (hwSet : Reg) (s : State) : State :=
  if s.power.perst then s
  else match other with
    | none => s.semWrite mp value.toNat hwSet.toNat
    | some w =>
      if bits value.toNat 1 0 = mpId mp ∧ bits w.toNat 1 0 = mpId (otherMp mp) ∧ s.sem.holder = 0 then
        let win : MgmtPort := if s.sem.tieNext = 0 then .a else .b
        let (v, l) := if win = mp then (value, w) else (w, value)
        let s := s.semWrite win v.toNat hwSet.toNat
        let s := { s with sem := { s.sem with tieNext := 2 - mpId win } }
        s.semWrite (otherMp win) l.toNat hwSet.toNat
      else (s.semWrite mp value.toNat hwSet.toNat).semWrite (otherMp mp) w.toNat hwSet.toNat

def execMgmtSemWrite (mp : MgmtPort) (value : Reg) (race : SemRace) (s : State) : Out :=
  .next (mgmtSemWriteSt mp value race.other race.hwSet s)

/-- A lapse (R143): the semaphore is free, LAPSED is set, and both ports hear of it as a maskable event. -/
def State.semLapse (s : State) : State :=
  { s with sem := { s.sem with holder := 0, lease := 0 } } |>.setFlag semOff 4

/-- The lease has run out (R143); a renewal in the same cycle has restarted it first (R145) (DEDUCED, assumption 27). -/
def semLeaseExpireSt (s : State) : State := if s.sem.holder ≠ 0 ∧ s.sem.lease = 0 then s.semLapse else s

def execSemLeaseExpire (s : State) : Out := .next (semLeaseExpireSt s)

/-- A management port leaves the data-link-up state; the semaphore lapses if it is the holder's (R143). -/
def mgmtLinkDownSt (mp : MgmtPort) (s : State) : State :=
  let s : State := match mp with
    | .a => { s with power := { s.power with linkA := false } }
    | .b => { s with power := { s.power with linkB := false } }
  if s.holdsSem mp then s.semLapse else s

def execMgmtLinkDown (mp : MgmtPort) (s : State) : Out := .next (mgmtLinkDownSt mp s)

end Sys2Proof.Machine
end

