-- ==== Sys2Proof/Machine/Rings.lean ====
section
/-!
DEFINITION. Rings, doorbells, completions and contexts (R89–R113), without the admission checks.
-/

namespace Sys2Proof.Machine

/-! ### Rings -/

/-- A ring that has received no CONFIGURE since reset (DESIGN CHOICE, assumption 6). -/
def Ring.fresh : Ring :=
  { state := .disabled, cause := 0, configured := false, sqBase := 0, cqBase := 0, headShadow := 0, pasid := 0, tenancy := 0
    port := 0, service := false, sqLog2 := 0, cqLog2 := 0, msix := 0, sqTail := 0, cqHead := 0, sqHead := 0, cqTail := 0
    phase := true, reserved := 0, fetched := [], shadowDue := false, shadowSlot := 0 }

/-- A ring. -/
def State.ring (s : State) (r : Nat) : Ring := tgetD s.rings r .fresh

/-- A ring replaced. -/
def State.setRing (s : State) (r : Nat) (x : Ring) : State := { s with rings := tset s.rings r x }

/-- RING_STATUS's code of a state (Table 3.4). -/
def RingState.code : RingState → Nat
  | .disabled => 0
  | .enabled => 1
  | .draining => 2
  | .error => 3

/-- The ring image at 0x008_0000 (Table 17.7). -/
def ringImage (r : Ring) : Bytes :=
  toLe 8 r.sqBase ++ toLe 8 r.cqBase ++ toLe 8 r.headShadow ++ toLe 4 r.pasid ++ toLe 2 r.tenancy ++ toLe 1 r.port ++
    toLe 1 (b2n r.service) ++ toLe 1 r.sqLog2 ++ toLe 1 r.cqLog2 ++ toLe 2 r.msix ++ toLe 1 r.state.code ++ toLe 27 0

/-- RING_CMD READ (R671). -/
def ringReadSt (mp : MgmtPort) (ring : Nat) (s : State) : State :=
  s.command mp .ring (.ringRead mp ring) fun s => s.loadImage 0x0080000 (ringImage (s.ring ring)) 8

def execRingRead (mp : MgmtPort) (ring : Nat) (s : State) : Out := .next (ringReadSt mp ring s)

/-- The image prerequisites of CONFIGURE (Table 17.16). -/
def ringImageOk (b : Bytes) : Bool :=
  fld b 0 8 % 64 == 0 && fld b 8 8 % 64 == 0 && fld b 0x10 8 % 4 == 0 &&
    decide (6 ≤ fld b 0x20 1 ∧ fld b 0x20 1 ≤ 16 ∧ 6 ≤ fld b 0x21 1 ∧ fld b 0x21 1 ≤ 16) &&
    fld b 0x18 4 / 2 ^ 20 == 0 && fld b 0x1C 2 / 2 ^ 9 == 0 && fld b 0x1F 1 / 2 == 0 && zeroRange b 0x25 27

/-- RING_CMD CONFIGURE (R96, Table 17.16). No ring is bound to tenancy 0 (R594) (DEDUCED, assumption 94). -/
def ringConfigureSt (mp : MgmtPort) (ring : Nat) (s : State) : State :=
  s.command mp .ring (.ringConfigure mp ring) fun s =>
    let b := s.image 0x0080000 8
    let t := fld b 0x1C 2
    if 65536 ≤ ring then s
    else if (s.ring ring).state ≠ .disabled then s.cmdFail .ring 1
    else if t = 0 ∨ s.bound t = false ∨ s.portClass (fld b 0x1E 1) ≠ 1 ∨ ringImageOk b = false then s.cmdFail .ring 4
    else s.setRing ring { s.ring ring with
      configured := true, sqBase := fld b 0 8, cqBase := fld b 8 8, headShadow := fld b 0x10 8, pasid := fld b 0x18 4
      tenancy := t, port := fld b 0x1E 1, service := bit (fld b 0x1F 1) 0, sqLog2 := fld b 0x20 1
      cqLog2 := fld b 0x21 1, msix := fld b 0x22 2 }

def execRingConfigure (mp : MgmtPort) (ring : Nat) (s : State) : Out := .next (ringConfigureSt mp ring s)

/-- RING_CMD ENABLE (R97, Table 17.16): the indices start at 0, the phase at 1 (R109). -/
def ringEnableSt (mp : MgmtPort) (ring : Nat) (s : State) : State :=
  s.command mp .ring (.ringEnable mp ring) fun s =>
    let r := s.ring ring
    if r.state ≠ .disabled then s.cmdFail .ring 1
    else if r.sqBase = 0 ∨ r.cqBase = 0 then s.cmdFail .ring 4
    else s.setRing ring { r with
      state := .enabled, cause := 0, sqTail := 0, cqHead := 0, sqHead := 0, cqTail := 0, phase := true, reserved := 0
      fetched := [], shadowDue := false, shadowSlot := 0 }

def execRingEnable (mp : MgmtPort) (ring : Nat) (s : State) : Out := .next (ringEnableSt mp ring s)

/-- Admitted work of a ring is still running. -/
def State.ringBusy (s : State) (ring : Nat) : Bool := s.works.any (fun w => w.origin.isNone && w.ring == ring)

/-- The ring becomes DRAINING, or DISABLED at once when no admitted descriptor is left: Table 3.3 gives DRAINING and its end, and does not
say this of a ring without admitted work (DESIGN CHOICE, assumption 100). -/
def State.drainRing (s : State) (ring : Nat) : State :=
  s.setRing ring { s.ring ring with
    state := if s.ringBusy ring then .draining else .disabled, cause := 0, fetched := [] }

/-- RING_CMD DISABLE (R97). -/
def ringDisableSt (mp : MgmtPort) (ring : Nat) (s : State) : State :=
  s.command mp .ring (.ringDisable mp ring) fun s =>
    match (s.ring ring).state with
    | .enabled | .error => s.drainRing ring
    | _ => s.cmdFail .ring 1

def execRingDisable (mp : MgmtPort) (ring : Nat) (s : State) : Out := .next (ringDisableSt mp ring s)

/-- The last admitted descriptor of a DRAINING ring has completed: the ring is DISABLED (Table 3.3). -/
def ringDrainEndSt (ring : Nat) (s : State) : State :=
  if (s.ring ring).state = .draining ∧ s.ringBusy ring = false then
    s.setRing ring { s.ring ring with state := .disabled }
  else s

def execRingDrainEnd (ring : Nat) (s : State) : Out := .next (ringDrainEndSt ring s)

/-- A ring error (R104): an ENABLED or DRAINING ring enters ERROR with the cause and is ERR_RING; a ring already in ERROR keeps
state and cause; each is reported as a maskable event. -/
def State.ringFail (s : State) (ring cause : Nat) : State :=
  let r := s.ring ring
  match r.state with
  | .disabled => s
  | .error => s.setFlag 0x0080048 8
  | _ => { s.setRing ring { r with state := .error, cause, fetched := [] } with ringErr := ring }.setFlag 0x0080048 8

/-- A ring-memory access fails: cause 2 for a translation failure (R480), 3 for any other (R104) (DEDUCED, assumption 34). -/
def ringErrorSt (ring : Nat) (why : RingFault) (s : State) : State :=
  s.ringFail ring (match why with | .translation => 2 | .write => 3)

def execRingError (ring : Nat) (why : RingFault) (s : State) : Out := .next (ringErrorSt ring why s)

/-! ### Doorbells -/

/-- A doorbell write reaching the ring's page (R98–R100, R124–R126): the port serves it only while its IDE stream is as
PORT_IDE_REQ asks, only on the ring's own port, and only as an aligned 4-byte write. -/
def State.doorbell (s : State) (port ring size : Nat) (f : Ring → State → State) : State :=
  s.arrive port 1 fun s =>
    let r := s.ring ring
    if s.ideBlocked port then s
    else if !r.configured || r.port != port || size != 4 then s.undecoded port
    else if r.state = .disabled then s
    else f r s

/-- The requests by which `n` submission entries from an index on are read, up to 8 to a request (R103); one that goes on at the start of
the queue counts as one request, which the spec does not say (DESIGN CHOICE, assumption 101) (DEDUCED, assumption 33). -/
def fetchRequests (ring size : Nat) : (fuel i n : Nat) → List Output
  | 0, _, _ => []
  | fuel + 1, i, n =>
    if n = 0 then [] else .fetch ring (i % size) (min n 8) :: fetchRequests ring size fuel (i + min n 8) (n - min n 8)

/-- The write of SQ_TAIL (R101). The entries it newly covers are read in requests of up to 8 (R103); `fetched` is what
the reads return (assumption 2) (DEDUCED, assumption 33; DEDUCED, assumption 34). -/
def sqTailWriteSt (port ring size value : Nat) (fetched : List Bytes) (s : State) : State :=
  s.doorbell port ring size fun r s =>
    let v := value % 2 ^ 32
    if v = r.sqTail then s
    else if 2 ^ r.sqLog2 ≤ v then
      if r.state = .error then s.ringFail ring 1 else (s.setRing ring { r with sqTail := v }).ringFail ring 1
    else if r.state = .enabled then
      let n := (v + 2 ^ r.sqLog2 - r.sqTail) % 2 ^ r.sqLog2
      let new := (List.range n).map (fun i => slice (fetched.getD i []) 0 64)
      let s := (fetchRequests ring (2 ^ r.sqLog2) n r.sqTail n).foldl State.emit s
      s.setRing ring { r with sqTail := v, fetched := r.fetched ++ new }
    else s.setRing ring { r with sqTail := v }

def execSqTailWrite (port ring size value : Nat) (fetched : List Bytes) (s : State) : Out :=
  .next (sqTailWriteSt port ring size value fetched s)

/-- The write of CQ_HEAD (R101) (DEDUCED, assumption 34). -/
def cqHeadWriteSt (port ring size value : Nat) (s : State) : State :=
  s.doorbell port ring size fun r s =>
    let v := value % 2 ^ 32
    if v = r.cqHead then s
    else if 2 ^ r.cqLog2 ≤ v then
      if r.state = .error then s.ringFail ring 1 else (s.setRing ring { r with cqHead := v }).ringFail ring 1
    else s.setRing ring { r with cqHead := v }

def execCqHeadWrite (port ring size value : Nat) (s : State) : Out := .next (cqHeadWriteSt port ring size value s)

/-- Erord writes SQ_HEAD to the ring's head shadow, at most once per slot (R102). -/
def headShadowWriteSt (ring : Nat) (s : State) : State :=
  let r := s.ring ring
  if r.shadowDue && r.headShadow != 0 && (r.shadowSlot != s.time.now / 256 + 1) then
    (s.setRing ring { r with shadowDue := false, shadowSlot := s.time.now / 256 + 1 }).emit
      (.dma r.port r.pasid r.headShadow (toLe 4 r.sqHead))
  else s

def execHeadShadowWrite (ring : Nat) (s : State) : Out := .next (headShadowWriteSt ring s)

/-! ### Completions -/

/-- Completion entries of a ring that nothing occupies or has reserved, counted from CQ_HEAD (R111). -/
def Ring.cqFree (r : Ring) : Nat :=
  2 ^ r.cqLog2 - 1 - ((r.cqTail + 2 ^ r.cqLog2 - r.cqHead) % 2 ^ r.cqLog2 + r.reserved)

/-- The 32 bytes of a completion (Table 3.8). -/
def completion (desc : Bytes) (r : Result) (phase : Bool) (now : Nat) : Bytes :=
  slice desc 2 2 ++ toLe 1 r.status ++ toLe 1 (r.flags / 2 * 2 + b2n phase) ++ toLe 4 r.count ++ toLe 8 r.snap ++
    toLe 5 now ++ toLe 3 r.detail ++ toLe 8 r.b24

/-- An entry of the completion queue written as one 32-byte write; the phase inverts on each later pass (R109, R110). -/
def State.postEntry (s : State) (ring : Nat) (b : Bool → Bytes) : State :=
  let r := s.ring ring
  let next := (r.cqTail + 1) % 2 ^ r.cqLog2
  (s.setRing ring { r with cqTail := next, phase := if next = 0 then !r.phase else r.phase }).emit
    (.dma r.port r.pasid (r.cqBase + 32 * r.cqTail) (b r.phase))

/-- A completion is posted, and the ring's MSI-X message after it if IRQ is set (R110, R113). -/
def State.postCompletion (s : State) (ring : Nat) (desc : Bytes) (r : Result) : State :=
  let s' := s.postEntry ring (fun ph => completion desc r ph s.time.now)
  if bit (fld desc 1 1) 0 then s'.emit (.msix (s.ring ring).port (s.ring ring).msix) else s'

/-! ### Contexts -/

/-- A FREE context: the whole entry zero (Table 3.2) (DESIGN CHOICE, assumption 6). -/
def Ctx.free : Ctx :=
  { state := 0, port := 0, tenancy := 0, pasid := 0, xltRoot := 0, defaultBurrow := 0, pinFramesMax := 0, pinSeq := 0
    pinBurrow := 0, pinned := false, pinFrame := 0, pinLife := 0, qInflight := 0, qUpdates := 0, qTensorBytes := 0
    keySet := [], updFrame := 0, updCount := 0 }

/-- A context. -/
def State.ctx (s : State) (c : Nat) : Ctx := tgetD s.ctxs c .free

/-- A context replaced; a FREE one is not listed. -/
def State.setCtx (s : State) (c : Nat) (x : Ctx) : State := { s with ctxs := tset s.ctxs c x }

/-- The entry as the management window shows it (Table 3.1). -/
def ctxImage (c : Ctx) : Bytes :=
  toLe 1 c.state ++ toLe 1 c.port ++ toLe 2 c.tenancy ++ toLe 4 c.pasid ++ toLe 8 c.xltRoot ++ toLe 2 c.defaultBurrow ++
    toLe 2 0 ++ toLe 4 c.pinFramesMax ++ toLe 8 c.pinSeq ++ toLe 2 (c.pinBurrow + 2 ^ 15 * b2n c.pinned) ++ toLe 2 0 ++
    toLe 4 c.pinFrame ++ toLe 2 c.qInflight ++ toLe 2 0 ++ toLe 4 c.qUpdates ++ toLe 8 c.qTensorBytes ++ toLe 8 0 ++
    ((List.range 8).map (fun i => toLe 4 (c.keySet.getD i 0))).flatten ++ toLe 160 0

/-- The fields of an image that MODIFY replaces (Table 3.2). -/
def Ctx.load (c : Ctx) (b : Bytes) : Ctx :=
  { c with
    pasid := fld b 4 4 % 2 ^ 20, xltRoot := fld b 8 8, defaultBurrow := fld b 0x10 2 &&& 0x8FFF
    pinFramesMax := fld b 0x14 4, qInflight := fld b 0x28 2, qUpdates := fld b 0x2C 4, qTensorBytes := fld b 0x30 8
    keySet := (List.range 8).map (fun i => fld b (0x40 + 4 * i) 4) }

/-- CTX_CMD READ (R671). -/
def ctxReadSt (mp : MgmtPort) (ctx : Nat) (s : State) : State :=
  s.command mp .ctx (.ctxRead mp ctx) fun s => s.loadImage 0x0040800 (ctxImage (s.ctx ctx)) 32

def execCtxRead (mp : MgmtPort) (ctx : Nat) (s : State) : Out := .next (ctxReadSt mp ctx s)

/-- CTX_CMD CREATE (R92, Table 17.16). No context is bound to tenancy 0 (R594) (DEDUCED, assumption 94). -/
def ctxCreateSt (mp : MgmtPort) (ctx : Nat) (s : State) : State :=
  s.command mp .ctx (.ctxCreate mp ctx) fun s =>
    let b := s.image 0x0040800 32
    let t := fld b 2 2 % 512
    if 262144 ≤ ctx then s
    else if (s.ctx ctx).state ≠ 0 then s.cmdFail .ctx 1
    else if t = 0 ∨ s.bound t = false ∨ s.portClass (fld b 1 1) ≠ 1 then s.cmdFail .ctx 4
    else s.setCtx ctx { Ctx.load .free b with state := 1, port := fld b 1 1, tenancy := t }

def execCtxCreate (mp : MgmtPort) (ctx : Nat) (s : State) : Out := .next (ctxCreateSt mp ctx s)

/-- A stalled access is abandoned with a status (R501): its work has that result once its other work has ended; a run ends with it, the
failing cell as detail, and completes when it has been written back (R323, R324). -/
def State.abandon (s : State) (f : FaultRec) (status : Nat) : State :=
  let run := f.run && s.runs.any (fun r => r.w == f.w)
  { s with
    faults := s.faults.filter (fun g => !(g.tenancy == f.tenancy && g.port == f.port && g.id == f.id))
    works := s.works.map (fun w =>
      if w.id == f.w then { w with stalled := false, result := if run then w.result else some (Result.err status 0) } else w)
    runs := s.runs.map (fun r =>
      if r.w == f.w then { r with stalled := false, ended := if run && r.ended.isNone then some (status, f.cell) else r.ended } else r)
    slots := { s.slots with waits := s.slots.waits.filter (fun v => run || v.w != f.w) }
    xltWaits := s.xltWaits.filter (fun x => x.w != f.w) }

/-- Every stalled access of a context is abandoned with TRANSLATION_ABORTED (R500). -/
def State.abortCtx (s : State) (c : Nat) : State :=
  (s.faults.filter (fun f => f.ctx == c)).foldl (fun s f => s.abandon f 0x41) s

/-- CTX_CMD MODIFY (R93, R500) (DEDUCED, assumption 94). -/
def ctxModifySt (mp : MgmtPort) (ctx : Nat) (s : State) : State :=
  s.command mp .ctx (.ctxModify mp ctx) fun s =>
    let c := s.ctx ctx
    if c.state ≠ 1 then s.cmdFail .ctx 1
    else
      let c' := c.load (s.image 0x0040800 32)
      let s' := s.setCtx ctx c'
      if c'.pasid ≠ c.pasid ∨ c'.xltRoot ≠ c.xltRoot then s'.abortCtx ctx else s'

def execCtxModify (mp : MgmtPort) (ctx : Nat) (s : State) : Out := .next (ctxModifySt mp ctx s)

/-- A context has admitted descriptors. -/
def State.ctxBusy (s : State) (c : Nat) : Bool := s.works.any (fun w => w.origin.isNone && w.ctx == c)

/-- The number that stands for no context: a tensor of a context that is FREE counts against none (R373). -/
def noCtx : Nat := 0xFFFFFFFF

/-- A context becomes FREE: its pin is released, its entry zeroed, its tensors count against no context (R92, R373). -/
def State.freeCtx (s : State) (c : Nat) : State :=
  { s with
    ctxs := tdel s.ctxs c
    tensors := s.tensors.map (fun e => (e.1, if e.2.ownerCtx = c then { e.2 with ownerCtx := noCtx } else e.2)) }

/-- A context becomes DRAINING, or FREE at once when it has no admitted descriptor (Table 3.2). -/
def State.drainCtx (s : State) (c : Nat) : State :=
  if s.ctxBusy c then s.setCtx c { s.ctx c with state := 2 } else s.freeCtx c

/-- CTX_CMD DRAIN (R92). -/
def ctxDrainSt (mp : MgmtPort) (ctx : Nat) (s : State) : State :=
  s.command mp .ctx (.ctxDrain mp ctx) fun s =>
    if (s.ctx ctx).state ≠ 1 then s.cmdFail .ctx 1 else s.drainCtx ctx

def execCtxDrain (mp : MgmtPort) (ctx : Nat) (s : State) : Out := .next (ctxDrainSt mp ctx s)

/-- The last admitted descriptor of a DRAINING context has completed (Table 3.2). -/
def contextFreeSt (ctx : Nat) (s : State) : State :=
  if (s.ctx ctx).state = 2 ∧ s.ctxBusy ctx = false then s.freeCtx ctx else s

def execContextFree (ctx : Nat) (s : State) : Out := .next (contextFreeSt ctx s)

/-- A pin whose bound has been reached at a frame boundary is released (R138) (DESIGN CHOICE, assumption 1). -/
def pinExpireSt (ctx : Nat) (s : State) : State :=
  let c := s.ctx ctx
  if c.pinned ∧ c.pinFrame + c.pinLife ≤ s.frame then
    s.setCtx ctx { c with pinned := false, pinSeq := 0, pinBurrow := 0, pinFrame := 0, pinLife := 0 }
  else s

def execPinExpire (ctx : Nat) (s : State) : Out := .next (pinExpireSt ctx s)

end Sys2Proof.Machine
end

