-- ==== Sys2Proof/Machine/Storage.lean ====
section
/-!
DEFINITION. Allotments of HBM and DDR, what objects hold of them, and the addresses Erord chooses (R475, R597, R713).
-/

namespace Sys2Proof.Machine

/-- 2 MiB (Table 15.2). -/
def granule : Nat := 2 ^ 21

/-- A tenancy's HBM allotment on a die, as address and length in region 0x00 (TEN_HBM_ALLOT). -/
def State.hbmAllot (s : State) (t die : Nat) : Nat × Nat :=
  let v := s.liveReg t (0x0040120 + 8 * die)
  (regionBase 0 + bits v 31 0 * granule, bits v 63 32 * granule)

/-- A tenancy's DDR allotment on a die, as address and length in region 0x01 (TEN_DDR_ALLOT). -/
def State.ddrAllot (s : State) (t die : Nat) : Nat × Nat :=
  let v := s.liveReg t (0x0040130 + 8 * die)
  (ddrBase die + bits v 31 0 * granule, bits v 63 32 * granule)

/-- Bytes of the HBM allotment on a die that serve as HBM cache (TEN_HBMC_ALLOT) (DESIGN CHOICE, assumption 11). -/
def State.hbmcBytes (s : State) (t die : Nat) : Nat := bits (s.liveReg t (0x0040320 + 8 * die)) 31 0 * granule

/-- Bytes of the HBM allotment on a die that the tenancy's save slots occupy: 33 MiB for each slot of a den of the die (R331)
(DESIGN CHOICE, assumption 11). -/
def State.saveBytes (s : State) (t die : Nat) : Nat :=
  let v := s.liveReg t 0x0040110
  ((List.range 4).map (fun i => bits v (8 * (4 * die + i) + 7) (8 * (4 * die + i)))).sum * (33 * 2 ^ 20)

/-- The HBM that objects may use: the allotment less the save slots and the HBM-cache granules, taken as its last bytes
(DESIGN CHOICE, assumption 11). -/
def State.hbmUse (s : State) (t die : Nat) : Nat × Nat :=
  let r := s.hbmAllot t die
  (r.1, r.2 - s.hbmcBytes t die - s.saveBytes t die)

/-- The mirror pool (XLT_TEN_POOL), as address and length in region 0x01. -/
def State.mirrorPool (s : State) (t : Nat) : Nat × Nat :=
  let v := s.liveReg t 0x0700008
  (regionBase 1 + bits v 31 0 * granule, bits v 63 32 * granule)

/-- A range lies in another. -/
def inRange (a n : Nat) (r : Nat × Nat) : Bool := decide (r.1 ≤ a ∧ a + n ≤ r.1 + r.2)

/-- The tenancy of a context owns a range of HBM or DDR: it lies in one of its allotments (R475). -/
def State.ownsRange (s : State) (t a n : Nat) : Bool :=
  decide (t ≠ 0) && [s.hbmAllot t 0, s.hbmAllot t 1, s.ddrAllot t 0, s.ddrAllot t 1].any (inRange a n)

/-- Bytes of DDR an extent holds per copy (R413). -/
def Extent.ddrBytes (e : Extent) : Nat := if e.paged then e.ddrPages * 2 ^ 14 else 2 ^ 30

/-- Bytes of a code (Table 4.2). -/
def Burrow.codeBytes (b : Burrow) : Nat := ceilDiv (b.pqM * b.pqBits) 8

/-- Bytes of a centroid in a node, and of the codebook, of which HAMMING has none (R157, R156, Table 4.7). -/
def Burrow.centBytes (b : Burrow) : Nat := roundup (2 * b.dim) 64
def Burrow.bookBytes (b : Burrow) : Nat := if b.metric = 3 then 0 else 2 ^ b.pqBits * b.dim * 2

/-- Bytes of a node of n children (R170) and of a leaf version of n merged items (R173). -/
def Burrow.nodeBytes (b : Burrow) (n : Nat) : Nat := 64 + n * b.centBytes + roundup (4 * n) 64 + roundup (8 * n) 64
def Burrow.leafBytes (b : Burrow) (n : Nat) : Nat := 128 + roundup (8 * n) 64 + roundup (n * b.codeBytes) 64 + 1024

/-- Bytes of the vector space (R182). -/
def Burrow.spaceBytes (b : Burrow) : Nat := if b.fullStore = 0 then 0 else b.slotCount * vecStride b.vecFmt b.dim

/-- Storage ranges that live objects occupy, by address: extents, tensors, tables, burrows' codebooks, vector spaces and tree
structures, embedding tables, function images, and mirror pools. -/
def State.liveRanges (s : State) : List (Nat × Nat) :=
  (s.extents.flatMap fun e =>
    if e.2.state = 0 then []
    else (e.2.ddrBase, e.2.ddrBytes) :: (if e.2.mirrored then [(e.2.mirrorBase, e.2.ddrBytes)] else []) ++
      (if e.2.paged then [(e.2.flashBase, 2 ^ 30)] else [])) ++
  (s.tensors.flatMap fun e =>
    if e.2.state = 0 ∨ e.2.tier = 4 then [] else [(e.2.loc, if e.2.tier = 2 then roundup e.2.stored 4096 else e.2.stored)]) ++
  (s.jobs.filterMap fun j => j.dest.map (fun a => (a, j.room))) ++ (s.lateFree.map fun f => (f.1, f.2.1)) ++
  (s.burrows.flatMap fun e =>
    let b := e.2
    if b.state = 0 ∨ b.state = 3 then []
    else (b.codebookAt, b.bookBytes) :: (b.vecBase, b.spaceBytes) :: (b.ddrAt, b.ddrRes) ::
      (b.nodes.map (fun n => (n.1, b.nodeBytes n.2.children.length))) ++
      b.leaves.flatMap (fun l => (l.1, b.leafBytes l.2.items.length) :: l.2.side.map (fun c => (c.addr, 4096)))) ++
  (s.tables.flatMap (fun e => e.2.areas)) ++ (s.images.map (fun e => (e.2.addr, e.2.bytes))) ++ (s.tenancies.map (fun e => s.mirrorPool e.1))

/-- The 4 KiB blocks of a fill-list entry. -/
def FillItem.ranges (f : FillItem) : List (Nat × Nat) :=
  f.blocks.map (fun k => (regionBase f.region + f.granule * Sys2Proof.Machine.granule + k * 4096, 4096))

/-- Ranges no new object may take: live objects, and storage freed within a bound tenancy's allotment that zero-fill has not
reached (R197, R445, R601). -/
def State.usedRanges (s : State) : List (Nat × Nat) :=
  s.liveRanges ++ s.fill.flatMap (fun f => if f.freedBy < 512 then f.ranges.filter (fun r => s.ownsRange f.freedBy r.1 r.2) else [])

/-- The free parts of a range: what lies between the occupied ranges, given in ascending order. -/
def sweep (lo hi : Nat) : List (Nat × Nat) → List (Nat × Nat)
  | [] => if lo < hi then [(lo, hi - lo)] else []
  | (b, n) :: t =>
    if b + n ≤ lo then sweep lo hi t
    else if hi ≤ b then (if lo < hi then [(lo, hi - lo)] else [])
    else if lo < b then (lo, b - lo) :: sweep (max lo (b + n)) hi t
    else sweep (max lo (b + n)) hi t

/-- The free parts of a range of storage. -/
def State.gaps (s : State) (r : Nat × Nat) : List (Nat × Nat) :=
  sweep r.1 (r.1 + r.2) (sortBy (fun a b => decide (a.1 < b.1)) s.usedRanges)

/-- How many aligned places of n bytes a gap has. -/
def places (n al : Nat) (g : Nat × Nat) : Nat :=
  let a := roundup g.1 al
  if a + n ≤ g.1 + g.2 then (g.1 + g.2 - n - a) / al + 1 else 0

/-- The k-th aligned place of n bytes over gaps. -/
def nthPlace (n al : Nat) : List (Nat × Nat) → Nat → Option Nat
  | [], _ => none
  | g :: t, k => if k < places n al g then some (roundup g.1 al + k * al) else nthPlace n al t (k - places n al g)

/-- An address Erord chooses for n bytes in a range: aligned, overlapping no object, otherwise a free value (R713). -/
def State.pick (s : State) (r : Nat × Nat) (n al : Nat) : Option Nat :=
  let gs := s.gaps r
  let total := (gs.map (places n al)).sum
  if total = 0 then none else nthPlace n al gs (s.freeVal % total)

/-- Bytes of a range not occupied. -/
def State.freeBytes (s : State) (r : Nat × Nat) : Nat := ((s.gaps r).map (·.2)).sum

/-- A die's logical flash space (R559). -/
def flashSpace (die : Nat) : Nat × Nat := (regionBase 3 + die * 2 ^ 47, 2 ^ 47)

/-- Two ranges have a byte in common. -/
def overlap (a b : Nat × Nat) : Bool := decide (a.1 < b.1 + b.2 ∧ b.1 < a.1 + a.2)

/-- Fill-list entries for the 4 KiB blocks a range touches (R197, R445, R630). -/
def fillItems (a n freedBy : Nat) : List FillItem :=
  if n = 0 then []
  else (List.range (ceilDiv (a % granule + n) granule)).map (fun i =>
    let g := a % 2 ^ 48 / granule + i
    { region := a / 2 ^ 48, granule := g, freedBy
      blocks := (List.range 512).filter (fun k => overlap (a, n) (regionBase (a / 2 ^ 48) + g * granule + k * 4096, 4096)) })

/-- Storage freed within a bound tenancy's allotment (R601). -/
def State.freeStorage (s : State) (a n t : Nat) : State := { s with fill := s.fill ++ fillItems a n t }

/-- Zero-fill of a range freed by a tenancy is still to come. -/
def State.filling (s : State) (t : Nat) (r : Nat × Nat) : Bool :=
  s.fill.any (fun f => f.freedBy == t && f.ranges.any (overlap r))

/-- A 4 KiB block that the zero-on-first-touch table marks (R630). -/
def State.firstTouchMarked (s : State) (a : Nat) : Bool :=
  s.firstTouch.any (fun e => e.region == a / 2 ^ 48 && e.granule == a % 2 ^ 48 / granule && e.blocks.contains (a % granule / 4096))

/-- A block that has been zeroed leaves the fill list and the table; empty entries go. -/
def State.clearBlock (s : State) (region g block : Nat) : State :=
  { s with
    fill := (s.fill.map (fun f =>
      if f.region = region ∧ f.granule = g then { f with blocks := f.blocks.filter (· != block) } else f)).filter (fun f => f.blocks != [])
    firstTouch := (s.firstTouch.map (fun e =>
      if e.region = region ∧ e.granule = g then { e with blocks := e.blocks.filter (· != block) } else e)).filter (fun e => e.blocks != []) }

/-- A write of bytes into one 4 KiB block, which a marked block first zeroes (R630). -/
def State.writeBlock (s : State) (a : Nat) (b : Bytes) : State :=
  if s.firstTouchMarked a then
    ((s.zero (a / 4096 * 4096) 4096).clearBlock (a / 2 ^ 48) (a % 2 ^ 48 / granule) (a % granule / 4096)).write a b
  else s.write a b

/-- A write of bytes within one 64-byte line (R441, R451): a full line clears poison, and a partial write to a poisoned line is
discarded, as is a write to a page that its store can bring in no more (R419). -/
def State.writeLine (s : State) (a : Nat) (b : Bytes) : State :=
  if s.pageAbsent a then s
  else if s.poison.contains (lineOf a) then
    if b.length = 64 then { s with poison := s.poison.filter (· != lineOf a) }.writeBlock a b else s
  else s.writeBlock a b

/-- A write of bytes, applied line by line (R451). -/
def State.writeDev (s : State) (a : Nat) (b : Bytes) : (fuel : Nat) → State
  | 0 => s
  | fuel + 1 =>
    if b = [] then s
    else
      let n := min b.length (64 - a % 64)
      State.writeDev (s.writeLine a (b.take n)) (a + n) (b.drop n) fuel

/-- A read of bytes: a marked block reads as zeros (R630). -/
def State.readDev (s : State) (a : Nat) : (n : Nat) → Bytes
  | 0 => []
  | n + 1 => (if s.firstTouchMarked a then 0 else memByte s.memory a) :: s.readDev (a + 1) n

/-- Device memory written: at most one block more than its length. -/
def State.put (s : State) (a : Nat) (b : Bytes) : State := s.writeDev a b (b.length + 1)

end Sys2Proof.Machine
end

