-- ==== Sys2Proof/Machine/Media.lean ====
section
/-!
DEFINITION. Logical flash space: which Badger a grain belongs to, which grains are in use, and the writes that exhausted media refuse
(R557–R561, R572, R585–R587, R603).
-/

namespace Sys2Proof.Machine

/-- A Badger as the machine starts: not enabled (DESIGN CHOICE, assumption 6). -/
def Badger.fresh : Badger :=
  { cfg := 0, map := [], media := [], wbuf := [], supers := [], nextSuper := 0, erased := [], seq := 0, retired := [], spares := [], failedDies := []
    dieFails := [], temps := [], slcTarget := 0, bgOps := [], readOnly := false, heldTrims := [], journal := [], clean := none
    rewrite := [], lastScrub := [], loaded := false, mapReady := false, shutDone := false, cfgErr := false, disabled := true, owlBlocks := false }

/-- A Badger, and the state with one replaced. -/
def State.badger (s : State) (b : Nat) : Badger := tgetD s.badgers b .fresh
def State.setBadger (s : State) (b : Nat) (x : Badger) : State := { s with badgers := tset s.badgers b x }

/-! ### Geometry (Table 14.1, NF_CFG) -/

def Badger.diesPerChannel (b : Badger) : Nat := 4 * (bits b.cfg 1 0 + 1)
def Badger.planes (b : Badger) : Nat := 2 ^ bits b.cfg 3 2
def Badger.blocks (b : Badger) : Nat := bits b.cfg 31 16
def Badger.pages (b : Badger) : Nat := bits b.cfg 44 32
def Badger.groups (b : Badger) : Nat := b.diesPerChannel / 4

/-- Raw grains, and NF_USER_GRAINS (R572). -/
def Badger.rawGrains (b : Badger) : Nat := 4 * b.diesPerChannel * b.planes * b.blocks * b.pages
def Badger.userGrains (b : Badger) : Nat := 13 * b.rawGrains / 16

/-- A population that breaks Table 14.1 (R557). -/
def cfgBad (v : Nat) : Bool :=
  bits v 3 2 == 3 || bits v 31 16 == 0 || decide (16384 < bits v 31 16) || bits v 44 32 == 0 || decide (4096 < bits v 44 32)

/-! ### Grains (R559) -/

/-- The Badger and own grain of a flash address (its part below 2^48). -/
def grainAt (a : Nat) : Nat × Nat :=
  let n := a % 2 ^ 47 / 2 ^ 14
  (4 * (a % 2 ^ 48 / 2 ^ 47) + n % 4, n / 4)

/-- The grains of a flash range. -/
def grainsOf (a n : Nat) : List (Nat × Nat) :=
  if n = 0 then [] else (List.range ((a + n - 1) / 2 ^ 14 - a / 2 ^ 14 + 1)).map (fun i => grainAt (a + i * 2 ^ 14))

/-- The programmed grain lies where a map entry points. -/
def Programmed.at_ (p : Programmed) (m : MapEntry) : Bool :=
  p.ch == m.ch && p.target == m.target && p.block == m.block && p.page == m.page && p.plane == m.plane

/-- The programmed grain of a map entry. -/
def Badger.programmed (x : Badger) (m : MapEntry) : Option Programmed := x.media.find? (fun p => p.at_ m)

/-- A grain of zeros. -/
def zeroGrain : Bytes := List.replicate 16384 0

/-- What a read of a grain gives: zeros of an UNWRITTEN one, nothing of a LOST one (R561). -/
def Badger.grainData (x : Badger) (g : Nat) : Option Bytes :=
  match tget x.map g with
  | none => some zeroGrain
  | some m => if m.lost then none else (x.programmed m).map (·.data)

/-- The tenancy of a programmed grain that the map points to. -/
def Badger.tenancyAt (x : Badger) (m : MapEntry) : Nat := ((x.programmed m).map (·.tenancy)).getD 0

/-- The MAPPED grains of a Badger with their tenancies, and those that waiting writes will map. -/
def State.mappedGrains (s : State) (b : Nat) : List (Nat × Nat) :=
  ((((s.badger b).map.filter (fun e => !e.2.lost)).map (fun e => (e.1, (s.badger b).tenancyAt e.2))) ++
    ((s.badger b).wbuf.map (fun w => (w.grain, w.tenancy)))).eraseDups

/-- The grains TEN_FLASH_ALLOT gives a tenancy in the die groups of a Badger (R603). -/
def State.flashAllot (s : State) (t b : Nat) : Nat :=
  ((List.range (s.badger b).groups).map (fun g => bits (s.liveReg t (0x00401C0 + 8 * (4 * b + g))) 31 0)).sum

/-- A write of grains of one Badger is refused with MEDIA_EXHAUSTED (R585, R586, R603); a Badger that is not enabled has no
media. -/
def State.refusesGrains (s : State) (t b : Nat) (gs : List Nat) : Bool :=
  let x := s.badger b
  let held := s.mappedGrains b
  let new := (gs.eraseDups.filter (fun g => !held.any (fun h => h.1 == g))).length
  x.disabled || x.readOnly || (decide (0 < new) &&
    (decide (x.userGrains < held.length + new) || decide (s.flashAllot t b < (held.filter (fun h => h.2 == t)).length + new)))

/-- A write of a flash range is refused, checked on every Badger it touches (R587). -/
def State.refusesWrite (s : State) (t : Nat) (ranges : List (Nat × Nat)) : Bool :=
  let gs := ranges.flatMap (fun r => grainsOf r.1 r.2)
  ((gs.map (·.1)).eraseDups).any (fun b => s.refusesGrains t b ((gs.filter (fun g => g.1 == b)).map (·.2)))

/-- The die groups that a tenancy may write: those of its TEN_FLASH_ALLOT (R603); the Badger's own blocks go anywhere. -/
def State.flashGroups (s : State) (b t : Nat) : List Nat :=
  (List.range (s.badger b).groups).filter (fun g => t == 0 || bits (s.liveReg t (0x00401C0 + 8 * (4 * b + g))) 31 0 != 0)

/-! ### What objects write (R251, R559, R566) -/

/-- The numbers under which objects write: vectors of an update, a tensor's stream, a page of an extent. The requests of GRAIN_WRITE lie
below 2^64. -/
def vectorReq (w : Nat) : Nat := 2 ^ 64 + w
def tensorReq (w handle : Nat) : Nat := 2 ^ 65 + w * 2 ^ 32 + handle % 2 ^ 32
def pageReq (ext page : Nat) : Nat := 2 ^ 200 + ext * 2 ^ 16 + page

/-- Bytes of a tenancy on flash, under its key, and what stored bytes decipher to (R622, R623). -/
def State.sealFlash (s : State) (t a : Nat) (b : Bytes) : Bytes := s.enciphered t flashTweak (logical a) b

/-- A flash range as its grains are stored, what cannot be read as zeros; its contents deciphered; and whether some of it cannot be read. -/
def State.flashStored (s : State) (a n : Nat) : Bytes :=
  slice ((grainsOf a n).flatMap (fun g => ((s.badger g.1).grainData g.2).getD zeroGrain)) (a % 2 ^ 14) n
def State.flashRead (s : State) (t a n : Nat) : Bytes := s.deciphered t flashTweak (logical a) (s.flashStored a n)
def State.flashLost (s : State) (a n : Nat) : Bool := (grainsOf a n).any (fun g => ((s.badger g.1).grainData g.2).isNone)

/-- A flash range written by an object: pieces of grains that join the write buffers of their Badgers (DESIGN CHOICE, assumption 19). -/
def State.flashWrite (s : State) (t a : Nat) (data : Bytes) (req : Nat) : State :=
  (List.range (if data = [] then 0 else (a + data.length - 1) / 2 ^ 14 - a / 2 ^ 14 + 1)).foldl (fun s i =>
    let g := (a / 2 ^ 14 + i) * 2 ^ 14
    let lo := max a g
    let x := s.badger (grainAt g).1
    s.setBadger (grainAt g).1 { x with wbuf := x.wbuf ++
      [{ tenancy := t, grain := (grainAt g).2, offset := lo - g, data := slice data (lo - a) (min (a + data.length) (g + 2 ^ 14) - lo), req }] }) s

/-- Writes of a request wait in some write buffer: it is not acknowledged yet (R567). -/
def State.flashBusy (s : State) (req : Nat) : Bool := s.badgers.any (fun e => e.2.wbuf.any (fun w => w.req == req))

/-! ### Trims and the journal (R561, R588, R589) -/

/-- A grain trimmed: UNWRITTEN in the map at once, its trim journalled, or held in READ_ONLY. -/
def Badger.trim (x : Badger) (g : Nat) : Badger :=
  if (tget x.map g).isNone then x
  else if x.readOnly then { x with map := tdel x.map g, heldTrims := x.heldTrims ++ [g] }
  else { x with map := tdel x.map g, journal := x.journal ++ [.trim g x.seq] }

/-- The flash address of a Badger's own grain (R559). -/
def grainAddr (b g : Nat) : Nat := regionBase 3 + b / 4 * 2 ^ 47 + (4 * g + b % 4) * 2 ^ 14

/-- The grains of a flash range trimmed: those of the map. -/
def State.trim (s : State) (a n : Nat) : State :=
  { s with badgers := s.badgers.map (fun e =>
      (e.1, ((e.2.map.map (·.1)).filter (fun g => decide (a ≤ grainAddr e.1 g ∧ grainAddr e.1 g < a + n))).foldl Badger.trim e.2)) }

/-- The record of a T3 tensor, or its removal, journalled by the Badger of its first grain (R589)
(DESIGN CHOICE, assumption 19). -/
def State.journalTensor (s : State) (index : Nat) (x : Tensor) (present : Bool) : State :=
  let b := (grainAt x.loc).1
  let y := s.badger b
  if (tget s.badgers b).isNone then s
  else s.setBadger b { y with journal := y.journal ++ [if present then .tensor index x y.seq else .removed index y.seq] }

end Sys2Proof.Machine
end

