-- ==== Sys2Proof/Machine/Errors.lean ====
section
/-!
DEFINITION. What errors do to the whole device or to one tenancy (R647, R648), and the replace-me conditions (R31, R652).
-/

namespace Sys2Proof.Machine

/-- A device-fatal error (R648): the non-maskable event, DEV_READY falls, no port carries traffic any more
(DEDUCED, assumption 34). -/
def State.deviceFatal (s : State) : State :=
  let s := s.raiseNmi 1
  { s with power := { s.power with devReady := false, fatal := true } }

/-- An error fatal to one tenancy (R647): its rings enter ERROR with cause 4, TEN_STATUS.FATAL is set. -/
def State.tenancyFatal (s : State) (t : Nat) : State :=
  if t = 0 then s
  else
    let s := ((s.rings.filter (fun r => r.2.tenancy == t)).map (·.1)).foldl (fun s r => s.ringFail r 4) s
    { s with tenancies := tset s.tenancies t { s.ten t with fatal := true } }.setFlag 0x0040010 10

/-- A line made poison (R441). -/
def State.addPoison (s : State) (line : Nat) : State :=
  if s.poison.contains line then s else { s with poison := insertBy (fun a b => decide (a < b)) line s.poison }

/-- An owner mismatch of an access without a context (R474) (DEDUCED, assumption 76). -/
def State.ownerMismatch (s : State) (t a : Nat) : State := (s.logError 3 9 2 (some t) 0 (logical a) 0 0 0).deviceFatal

/-! ### Replace-me conditions (Table 1.4, R652) -/

/-- Failed physical setts of a den, and the spares it has left. -/
def State.failedIn (s : State) (den : Nat) : List Nat := (s.failedSetts.filter (fun f => f.1 == den)).map (·.2)
def State.sparesLeft (s : State) (den : Nat) : Nat := 2 - (s.failedIn den).length

/-- Spare blocks of a die: one in 16 of its blocks (R577) (DEDUCED, assumption 84). -/
def Badger.spareBlocks (b : Badger) : Nat := b.blocks / 16

/-- The die at a position of a group, numbered 16 × channel + target (Table 14.1). -/
def groupDie (g pos : Nat) : Nat := 16 * (pos / 4) + 4 * g + pos % 4

/-- The group and the position of a die. -/
def dieGroup (die : Nat) : Nat := die % 16 / 4
def diePos (die : Nat) : Nat := 4 * (die / 16) + die % 4

/-- Spare blocks left in a die group below 2 % of its blocks, or a FAILED die in it (R578). -/
def Badger.groupWorn (b : Badger) (g : Nat) : Bool :=
  let dies := (List.range 16).map (groupDie g)
  let left := (dies.map (fun d => b.spareBlocks - tgetD b.spares d 0)).sum
  dies.any b.failedDies.contains || decide (left * 100 < 2 * (16 * b.blocks))

/-- The replace-me conditions that hold, as bits SETT, HBM, DDR, NAND, LANE. A failed DDR channel raises DDR (R448), a stack that
is being retired HBM (R446), READ_ONLY NAND (R586) (DEDUCED, assumption 86). -/
def State.svcCauses (s : State) : Nat :=
  let nand := s.badgers.any (fun e => !e.2.disabled && (e.2.readOnly || (List.range e.2.groups).any e.2.groupWorn))
  b2n (!s.failedSetts.isEmpty) + 2 * b2n (s.mem.replaced.isSome || s.mem.copying.isSome) + 4 * b2n (!s.mem.noMargin.isEmpty || !s.health.ddrOut.isEmpty) + 8 * b2n nand +
    16 * b2n (s.ports.any (fun p => p.2.spareUsed))

/-- HLT_SVC follows the conditions; each cause that becomes 1 raises its event (R652). -/
def State.reviewSvc (s : State) : State :=
  let now := s.svcCauses
  let new := (List.range 5).filter (fun i => bit now i && !bit s.svcPrev i)
  new.foldl (fun s i => s.setFlag 0x0A00010 (16 + i)) { s with svcPrev := now }

end Sys2Proof.Machine
end

