-- ==== Sys2Proof/Machine/Slots.lean ====
section
/-!
DEFINITION. Slot maps: who may use a unit in a period, lending, and commits (R61–R73, R594–R601, R669–R670).
-/

namespace Sys2Proof.Machine

/-! ### Maps (Tables 2.4 and 17.4) -/

/-- Map indices of the units (Table 17.4) (DEDUCED, assumption 48). -/
def hbmMap (stack : Nat) : Nat := stack
def denMap (den : Nat) : Nat := 12 + den
def foxMap (walker : Nat) : Nat := 20 + walker
def settMapIx (den sett : Nat) : Nat := 116 + 16 * den + sett
def dieMap (badger die : Nat) : Nat := 244 + 64 * badger + die

/-- The stacks in service at set-up, by physical number, in ascending order: all but the designated spare (R165). Their places
in the list are the logical stacks (TEN_HBM_ALLOT). -/
def State.setupStacks (s : State) : List Nat := (List.range 12).filter (· != s.mem.spare)

/-- The slot-map index of a logical stack: that of the stack whose data it is, also while the spare holds them (Table 17.4)
(DEDUCED, assumption 48). -/
def State.stackMap (s : State) (l : Nat) : Nat := hbmMap (s.setupStacks.getD l 0)

/-- The die on which a logical stack's data lies (R17): stacks 0-5 are on die 0, 6-11 on die 1. -/
def State.physDie (s : State) (l : Nat) : Nat := s.setupStacks.getD l 0 / 6

/-- The logical stack an address of HBM lies on. -/
def stackOf (a : Nat) : Nat := a % 2 ^ 48 / (49152 * granule)

/-- The offset of a slot map and of its background map. -/
def slotMapOff (m : Nat) : Nat := 0x0050000 + 0x80 * m
def bgMapOff (m : Nat) : Nat := 0x0068000 + 0x80 * m

/-- Entry i of a map in a set of register values. -/
def mapEntry (tab : Tab Reg) (base i : Nat) : Nat :=
  bits (tgetD tab (base + 8 * (i / 4)) 0).toNat (16 * (i % 4) + 15) (16 * (i % 4))

/-- A unit of a frame-granular class. -/
def frameGranular (m : Nat) : Bool := decide (116 ≤ m)

/-- The number of a unit's present period, and its index in the map. -/
def State.period (s : State) (m : Nat) : Nat := if frameGranular m then s.frame else s.time.now / 256
def State.mapIndex (s : State) (m : Nat) : Nat := s.period m % 64

/-- The owner a live map names for an entry: none for an unowned one. -/
def State.mapOwner (s : State) (m i : Nat) : Option Nat :=
  let e := mapEntry s.slots.live (slotMapOff m) i
  if bit e 15 then some (bits e 8 0) else none

/-- The tenancy that has the present period to itself already. -/
def State.lentTo (s : State) (m : Nat) : Option Nat :=
  match tget s.slots.lent m with
  | some (p, t) => if s.period m ≤ p then some t else none
  | none => none

/-- The sett of a map index is there: a den with no spare left presents fewer logical setts, and the number 18 stands for an
absent one (R638, R651). -/
def State.unitPresent (s : State) (m : Nat) : Bool :=
  !(decide (116 ≤ m ∧ m < 244) && tgetD s.settMap (m - 116) 0 == 18)

/-- The issue cutoff of a unit's class in ns (Table 2.4): 64, 8 or 4 cycles of CCLK. -/
def State.cutoffNs (s : State) (m : Nat) : Nat :=
  (if m < 12 then 64 else if m < 20 then 8 else if m < 116 then 4 else 0) * s.cclkHalfNs / 2

/-- A unit issues a new operation: not in the last part of a slot (R65). -/
def State.issues (s : State) (m : Nat) : Bool := frameGranular m || decide (s.time.now % 256 + s.cutoffNs m < 256)

/-- A unit may serve foreground work of a tenancy now: never in a background period (R63) nor after the issue cutoff (R65); to whoever has the period already
(R69); to its owner (R64); otherwise to a SHARED tenancy where the entry is unowned or its owner is SHARED (R67, R70). -/
def State.serves (s : State) (m t : Nat) : Bool :=
  decide (s.mapIndex m < 60) && s.unitPresent m && s.issues m &&
    match s.lentTo m with
    | some b => b == t
    | none =>
      match s.mapOwner m (s.mapIndex m) with
      | some o => if o = t then s.bound t && t != 0 && !(s.ten t).unmoded else s.isShared o && s.isShared t
      | none => s.isShared t

/-- A unit serves a tenancy: the period is its own from now on, and a borrower becomes the unit's last borrower, which its
counter BORROWED counts (R67–R69, R684) (DEDUCED, assumption 47). -/
def State.claim (s : State) (m t : Nat) : State :=
  if (s.lentTo m).isSome then s
  else
    let owner := s.mapOwner m (s.mapIndex m)
    let s' : State := { s with slots := { s.slots with
        lent := tset s.slots.lent m (s.period m, t)
        lastBorrower := if owner = some t then s.slots.lastBorrower else tset s.slots.lastBorrower m t } }
    if owner = some t then s' else s'.bump (0x0B00028 + 0x100 * t) 1

/-- A tenancy owns a slot of a unit, or may borrow one (R71). -/
def State.mayUse (s : State) (m t : Nat) : Bool :=
  s.unitPresent m && (List.range 60).any fun i =>
    match s.mapOwner m i with
    | some o => (o == t && !(s.ten t).unmoded) || (s.isShared o && s.isShared t)
    | none => s.isShared t

/-- The SHARED tenancies with queued work on a unit, next after the last borrower in circular order (R68). -/
def State.nextBorrower (s : State) (m : Nat) (queued : List Nat) : Option Nat :=
  let last := tgetD s.slots.lastBorrower m 0
  bestBy (fun a b => decide ((a + 512 - last - 1) % 512 < (b + 512 - last - 1) % 512)) (queued.filter s.isShared)

/-- The start of a period on a unit (R67): with work queued, a SHARED owner keeps the period, and otherwise the next borrower
takes it; with none queued it stays open. -/
def State.startPeriod (s : State) (m : Nat) (queued : List Nat) : State :=
  if 60 ≤ s.mapIndex m ∨ (s.lentTo m).isSome then s
  else
    match s.mapOwner m (s.mapIndex m) with
    | some o =>
      if s.isShared o = false then s
      else if queued.contains o then s.claim m o
      else match s.nextBorrower m queued with
        | some b => s.claim m b
        | none => s
    | none => match s.nextBorrower m queued with
      | some b => s.claim m b
      | none => s

/-! ### Accesses to units -/

/-- What stands between a work and its accesses: nothing, with the caches as used; or a state in which it waits. -/
inductive Gate where
  | go (s : State)
  | hold (s : State)
  deriving DecidableEq

/-- Work of the same tenancy and class that was admitted earlier is queued on one of some units: it starts there first (R128)
(DESIGN CHOICE, assumption 41). -/
def State.queuedBefore (s : State) (w t : Nat) (ms : List Nat) : Bool :=
  match s.work w with
  | none => false
  | some x =>
    s.slots.waits.any (fun v => !v.served && v.tenancy == t && decide (v.w < w) && ms.contains v.unit &&
      (match s.work v.w with | some y => y.cls == x.cls && y.cls != 0 && !y.stalled && y.result.isNone | none => false))

/-- An access that one of some units is to serve: it has been served, or one of them serves it now, or it is queued on the first that its
tenancy may use. Accesses of one command to several units are served each in its own slot, and the command acts once all have been
(DESIGN CHOICE, assumption 105). -/
def State.passUnit (s : State) (w cell t : Nat) (ms : List Nat) : Gate :=
  if s.slots.waits.any (fun v => v.w == w && v.cell == cell && v.served && ms.contains v.unit) then .go s
  else
    let rest := s.slots.waits.filter (fun v => !(v.w == w && v.cell == cell && ms.contains v.unit))
    let put := fun (s : State) (m : Nat) (served : Bool) =>
      ({ s with slots := { s.slots with waits := rest ++ [{ w, cell, tenancy := t, unit := m, served }] } } : State)
    match (if s.queuedBefore w t ms then none else ms.find? (fun m => s.serves m t)) with
    | some m => .go (put (s.claim m t) m true)
    | none => .hold (put s (((ms.find? (fun m => s.mayUse m t)).orElse (fun _ => ms.head?)).getD 0) false)

/-- Accesses to several units, all queued at once: the command goes on when each has been served (DESIGN CHOICE, assumption 105). -/
def State.passAll (s : State) (w cell t : Nat) : List (List Nat) → Gate
  | [] => .go s
  | ms :: rest =>
    match s.passUnit w cell t ms with
    | .go s => State.passAll s w cell t rest
    | .hold s => match State.passAll s w cell t rest with | .go s => .hold s | .hold s => .hold s

/-- The marks of accesses whose command has acted go. -/
def State.leaveUnits (s : State) (w cell : Nat) : State :=
  { s with slots := { s.slots with waits := s.slots.waits.filter (fun v => !(v.w == w && v.cell == cell)) } }

/-- Every mark of a work goes. -/
def State.leaveAll (s : State) (w : Nat) : State :=
  { s with slots := { s.slots with waits := s.slots.waits.filter (fun v => v.w != w) } }

/-- An act of a work that several units serve. -/
def State.onUnits (s : State) (w cell t : Nat) (ms : List (List Nat)) (f : State → State) : State :=
  match s.passAll w cell t ms with
  | .go s => (f s).leaveUnits w cell
  | .hold s => s

/-! ### Foreground operations on NAND dies (R66, R712) -/

/-- Frames from now on, without a break, in which an operation of a tenancy may stand on a die: its own from a frame it owns; from a lent
one, frames it owns, unowned ones and those of SHARED tenancies (R66). -/
def State.runFrames (s : State) (m t : Nat) : Nat :=
  let own := s.mapOwner m (s.mapIndex m) == some t
  ((List.range 60).takeWhile (fun k =>
    let i := s.mapIndex m + k
    decide (i < 60) && (match s.mapOwner m i with
      | some o => o == t || (!own && s.isShared o)
      | none => !own))).length

/-- An operation that takes `ns` at worst ends within the run (R66). -/
def State.nandFits (s : State) (m t ns : Nat) : Bool :=
  s.serves m t && decide (s.time.now + ns ≤ (s.frame + s.runFrames m t) * 2 ^ 14)

/-- The frames that an operation reaches stay with its tenancy (R66, R69). -/
def State.claimRun (s : State) (m t ns : Nat) : State :=
  let s := s.claim m t
  let last := (s.time.now + ns - 1) / 2 ^ 14
  { s with slots := { s.slots with lent := tset s.slots.lent m (max s.frame last, t) } }

/-- The numbers under which flash operations wait: reads by request, programs by Badger and grain. No work has such a number. -/
def readOp (req : Nat) : Nat := 2 ^ 72 + 2 * req
def programOp (badger grain : Nat) : Nat := 2 ^ 72 + 2 * (2 ^ 31 * badger + grain) + 1

/-- An access to a die waits behind its tenancy's earlier ones there (R712). -/
def State.queueDie (s : State) (w cell t m : Nat) : State :=
  if s.slots.waits.any (fun v => v.w == w && v.cell == cell && v.unit == m) then s
  else { s with slots := { s.slots with waits := s.slots.waits ++ [{ w, cell, tenancy := t, unit := m, served := false }] } }

/-- No earlier one waits. -/
def State.firstOnDie (s : State) (w cell t m : Nat) : Bool :=
  match s.slots.waits.find? (fun v => v.unit == m && v.tenancy == t && !v.served) with
  | some v => v.w == w && v.cell == cell
  | none => true

/-- A foreground operation on a die that takes `ns` at worst: it has been issued, or it is issued now, in its turn, within a run, on a die that
no background work holds; otherwise it waits (R66, R712). -/
def State.passDie (s : State) (w cell t m ns : Nat) (busy : Bool) : Gate :=
  if s.slots.waits.any (fun v => v.w == w && v.cell == cell && v.unit == m && v.served) then .go s
  else
    let s := s.queueDie w cell t m
    if s.firstOnDie w cell t m && s.nandFits m t ns && !busy then
      let s := s.claimRun m t ns
      .go { s with slots := { s.slots with
        waits := s.slots.waits.map (fun v => if v.w == w && v.cell == cell && v.unit == m then { v with served := true } else v) } }
    else .hold s

/-- The NAND dies that a read of grains uses, each with whether background work holds it: a FAILED die is read by reconstruction, and a grain
that is UNWRITTEN, LOST or still in the write buffer makes no media access (R561, R569, R578). -/
def State.readDies (s : State) (gs : List (Nat × Nat)) : List (Nat × Bool) :=
  (gs.filterMap (fun g =>
    let x := s.badger g.1
    match tget x.map g.2 with
    | some m =>
      let die := 16 * m.ch + m.target
      if m.lost || x.failedDies.contains die || x.wbuf.any (fun w => w.grain == g.2) then none
      else some (dieMap g.1 die, x.bgOps.any (fun o => o.die == die && !o.suspended))
    | none => none)).eraseDups

/-- Reads of several dies, all queued at once: the command goes on when each has been issued. -/
def State.passDies (s : State) (w cell t : Nat) : List (Nat × Bool) → Gate
  | [] => .go s
  | (m, busy) :: rest =>
    match s.passDie w cell t m s.part.readNs busy with
    | .go s => State.passDies s w cell t rest
    | .hold s => match State.passDies s w cell t rest with | .go s => .hold s | .hold s => .hold s

/-- An act of a work that NAND dies and slot-granular units serve, all queued at once. -/
def State.onMedia (s : State) (w cell t : Nat) (dies : List (Nat × Bool)) (ms : List (List Nat)) (f : State → State) : State :=
  match s.passDies w cell t dies with
  | .go s => s.onUnits w cell t ms f
  | .hold s => match s.passAll w cell t ms with | .go s => s | .hold s => s

/-- A MAPPED grain that neither its reads nor its stripe can give: LOST, with its error record (R575). -/
def State.loseGrain (s : State) (g : Nat × Nat) : State :=
  let x := s.badger g.1
  match tget x.map g.2 with
  | some m =>
    if m.lost then s
    else (s.setBadger g.1 { x with map := tset x.map g.2 { m with lost := true } }).logError 1 4 3 (some (x.tenancyAt m)) g.1
      (logical (grainAddr g.1 g.2)) 0 0 0
  | none => s

/-! ### Background periods (R600, R601) -/

/-- The tenancy a background map names for the present background period; an entry that names a FREE tenancy counts as
VALID = 0 (R599, R600). -/
def State.bgOwner (s : State) (m : Nat) : Option Nat :=
  let i := if frameGranular m then s.frame / 64 % 64 else s.frame % 64
  let e := mapEntry s.slots.live (bgMapOff m) i
  let t := bits e 8 0
  if bit e 15 && (t == 0 || (s.ten t).state != 0) then some t else none

/-- The unit whose background periods zero-fill of a granule uses: the HBM stack, or for DDR the turns of the dens of its die (R600). -/
def State.fillsOn (s : State) (region g m : Nat) : Bool :=
  if region = 0 then s.stackMap (g / 49152) == m else (List.range 4).any (fun d => denMap (d + 4 * (g / 2 ^ 21)) == m)

/-- Tenancy 0 has its own work queued on a unit: zero-fill of granules that a teardown returned (R601). -/
def State.ownWork (s : State) (m : Nat) : Bool := s.fill.any (fun f => decide (512 ≤ f.freedBy) && s.fillsOn f.region f.granule m)

/-- Bound tenancies whose freed storage waits for zero-fill on a unit. -/
def State.fillQueued (s : State) (m : Nat) : List Nat :=
  (s.fill.filter (fun f => decide (f.freedBy < 512) && s.fillsOn f.region f.granule m)).map (·.freedBy)

/-- A unit may do background work for a tenancy's objects now: in a background period that names it, or, in one that names none, for
tenancy 0, and for SHARED tenancies once tenancy 0 has none of its own queued there (R601) (DEDUCED, assumption 46). -/
def State.bgServes (s : State) (m t : Nat) : Bool :=
  decide (60 ≤ s.mapIndex m) && s.issues m &&
    match s.bgOwner m with
    | some o => o == t
    | none => t == 0 || (s.isShared t && !s.ownWork m)

/-- Background work of a tenancy comes next on a unit among that of the tenancies queued there: in a period that names none, SHARED tenancies
are served in ascending circular order after the last one served (R601) (DEDUCED, assumption 46). -/
def State.bgTurn (s : State) (m t : Nat) (queued : List Nat) : Bool :=
  s.bgServes m t &&
    (t == 0 || (s.bgOwner m).isSome ||
      (let last := tgetD s.slots.lastServed m 0
       bestBy (fun a b => decide ((a + 512 - last - 1) % 512 < (b + 512 - last - 1) % 512)) (t :: queued.filter s.isShared) == some t))

/-- A SHARED tenancy's background work is served in a period that names none. -/
def State.bgServed (s : State) (m t : Nat) : State :=
  if t = 0 ∨ (s.bgOwner m).isSome then s else { s with slots := { s.slots with lastServed := tset s.slots.lastServed m t } }

/-! ### Commits -/

/-- SLOT_STATUS. -/
def slotStatus : Nat := 0x0040408

/-- The tenancies that shadow maps name: OWNED entries of slot maps and VALID entries of background maps (R599). -/
def namedTenancies (shadow : Tab Reg) : List Nat :=
  shadow.flatMap (fun r => (List.range 4).filterMap (fun i =>
    let e := bits r.2.toNat (16 * i + 15) (16 * i)
    if bit e 15 then some (bits e 8 0) else none))

/-- The modes a commit written now carries: those that waited for a pending one, and those set since (R596, R670)
(DEDUCED, assumption 20). -/
def State.modesOf (s : State) : Tab Bool :=
  let old := match s.slots.pending with
    | some c => if c.slotDone then [] else c.modes
    | none => []
  s.tenancies.foldl (fun m e => match e.2.newMode with | some b => tset m e.1 b | none => m) old

/-- The write of SLOT_COMMIT (R72, R73, R599, R670). A target that has passed counts as the next frame
(DEDUCED, assumption 47). -/
def slotCommitSt (mp : MgmtPort) (value : Reg) (s : State) : State :=
  s.setup mp fun s =>
    let bad := (namedTenancies s.slots.shadow).any (fun t => t != 0 && (s.ten t).state != 2 && (s.ten t).state != 3)
    if bad then s.setFlag slotStatus 2
    else
      let F := extendFrame s.frame (value.toNat % 2 ^ 32)
      let late := decide (F ≤ (s.frame : Int))
      let s := if late then s.setFlag slotStatus 1 else s
      let c : Commit :=
        { maps := s.slots.shadow, target := if late then s.frame + 1 else F.toNat, modes := s.modesOf
          slotDone := false, frameDone := false }
      { s with
        slots := { s.slots with pending := some c }
        tenancies := s.tenancies.map (fun e => (e.1, { e.2 with newMode := none })) }

def execSlotCommit (mp : MgmtPort) (value : Reg) (s : State) : Out := .next (slotCommitSt mp value s)

/-- A register of a slot map or background map belongs to a frame-granular unit. -/
def mapRegFrameGranular (off : Nat) : Bool :=
  frameGranular (if off < 0x0068000 then (off - 0x0050000) / 0x80 else (off - 0x0068000) / 0x80)

/-- The live maps of one class replaced by those of a commit. -/
def takeMaps (live new : Tab Reg) (frameClass : Bool) : Tab Reg :=
  (new.filter (fun r => mapRegFrameGranular r.1 == frameClass)).foldl (fun m r => tset m r.1 r.2)
    (live.filter (fun r => mapRegFrameGranular r.1 != frameClass))

/-- The modes a commit carries take effect (R596) (DEDUCED, assumption 20). -/
def State.applyModes (s : State) (modes : Tab Bool) : State :=
  { s with tenancies := s.tenancies.map (fun e =>
      (e.1, match tget modes e.1 with
        | some m => if e.2.state = 2 then { e.2 with shared := m, unmoded := false } else e.2
        | none => e.2)) }

/-- The maps of a pending commit switch at the boundary that begins frame f (R57 step 1, R72): the slot-granular ones once f is
at or after the target, with the waiting modes; the frame-granular ones at a superframe boundary. -/
def State.switchMaps (s : State) (f : Nat) : State :=
  match s.slots.pending with
  | none => s
  | some c =>
    let slotNow := !c.slotDone && decide (c.target ≤ f)
    let s := if slotNow then
        { s with slots := { s.slots with live := takeMaps s.slots.live c.maps false } }.applyModes c.modes else s
    let frameNow := !c.frameDone && decide (c.target ≤ f) && f % 64 == 0
    let s := if frameNow then { s with slots := { s.slots with live := takeMaps s.slots.live c.maps true } } else s
    let c := { c with slotDone := c.slotDone || slotNow, frameDone := c.frameDone || frameNow }
    if c.slotDone && c.frameDone then { s with slots := { s.slots with pending := none, lastFrame := f % 2 ^ 32 } }
    else { s with slots := { s.slots with pending := some c } }

/-- SLOT_MAP_SWITCH: the switch that the present frame's boundary asks for. -/
def slotMapSwitchSt (s : State) : State := s.switchMaps s.frame

def execSlotMapSwitch (s : State) : Out := .next (slotMapSwitchSt s)

end Sys2Proof.Machine
end

