-- ==== Sys2Proof/Machine/Flash.lean ====
section
/-!
DEFINITION. Badgers: superblocks, stripes and parity, reads and writes of grains, background copies, retirement and die loss
(chapter 14).
-/

namespace Sys2Proof.Machine

/-! ### Superblocks and stripes (R557, R558, R562, R577, R578) -/

/-- The blocks that have stood in a superblock's place on a die, newest first; none when the last was retired without a spare. -/
def chainFrom (retired : List (Nat × Nat × Option Nat)) (die block : Nat) : (fuel : Nat) → List (Option Nat)
  | 0 => [some block]
  | n + 1 =>
    match retired.find? (fun r => r.1 == die && r.2.1 == block) with
    | none => [some block]
    | some (_, _, none) => [none, some block]
    | some (_, _, some sub) => chainFrom retired die sub n ++ [some block]

def Badger.chain (x : Badger) (die block : Nat) : List (Option Nat) := chainFrom x.retired die block x.retired.length

/-- The block that serves a superblock on a die now. -/
def Badger.blockOn (x : Badger) (die block : Nat) : Option Nat := (x.chain die block).head?.join

/-- The dies of a group that are not FAILED (R578). -/
def Badger.groupDies (x : Badger) (g : Nat) : List Nat :=
  ((List.range 16).map (groupDie g)).filter (fun d => !x.failedDies.contains d)

/-- A block of a die that is Owl's: blocks 0–7 of target 0 of NF00 and NF16, which lie outside every Badger's blocks (R612). -/
def Badger.owlBlock (x : Badger) (die block : Nat) : Bool := x.owlBlocks && die == 0 && decide (block < 8)

/-- The free superblocks of a die group: no superblock in use has the block, and every die still has a block for it. The last
sixteenth of each die's blocks are its spares (R577). -/
def Badger.freeBlocks (x : Badger) (g : Nat) : List Nat :=
  (List.range (x.blocks - x.spareBlocks)).filter (fun k =>
    !x.supers.any (fun b => b.group == g && b.block == k) &&
      (x.groupDies g).all (fun d => (x.blockOn d k).isSome && !x.owlBlock d k))

/-- The lowest of them, and how many there are. -/
def Badger.freeBlock (x : Badger) (g : Nat) : Option Nat := (x.freeBlocks g).head?
def Badger.freeCount (x : Badger) (g : Nat) : Nat := (x.freeBlocks g).length

/-- Stripes of a superblock that hold data: its last ones hold the summary, 512 records to a grain. -/
def Badger.stripes (x : Badger) : Nat :=
  let total := x.pages * x.planes
  total - ceilDiv total 513

/-- The position that holds parity in a stripe (R558; with 15 dies, one die in 15, R578). -/
def parityPos (w stripe : Nat) : Nat := stripe % w

/-- The next slot of a superblock of w dies that is not a parity slot. -/
def skipParity (w n : Nat) : Nat :=
  let step := fun n => if n % w = parityPos w (n / w) then n + 1 else n
  step (step n)

/-- The next slot of a superblock, if it has one left. -/
def Badger.nextSlot (x : Badger) (b : SuperBlock) : Option Nat :=
  let n := skipParity b.dies.length b.next
  if b.open_ && decide (n / b.dies.length < x.stripes) then some n else none

/-- The place of a slot of a superblock. -/
def Badger.slotEntry (x : Badger) (b : SuperBlock) (n : Nat) : MapEntry :=
  let w := b.dies.length
  let die := b.dies.getD (n % w) 0
  let stripe := n / w
  { lost := false, slc := b.slc, ch := die / 16, target := die % 16, block := (x.blockOn die b.block).getD b.block
    page := stripe / x.planes, plane := stripe % x.planes }

/-- The die of a map entry, and of a programmed grain. -/
def MapEntry.die (m : MapEntry) : Nat := 16 * m.ch + m.target
def Programmed.die (p : Programmed) : Nat := 16 * p.ch + p.target

/-- The programmed grain is the grain's valid copy. -/
def Badger.isValid (x : Badger) (p : Programmed) : Bool :=
  !p.parity && match tget x.map p.logical with
    | some m => !m.lost && p.at_ m
    | none => false

/-- The programmed grains of a superblock. -/
def Badger.inSuper (x : Badger) (b : SuperBlock) (p : Programmed) : Bool :=
  b.dies.contains p.die && (x.chain p.die b.block).contains (some p.block)
def Badger.validIn (x : Badger) (b : SuperBlock) : List Programmed :=
  x.media.filter (fun p => x.inSuper b p && x.isValid p)

/-- The superblock of a place. -/
def Badger.superOf (x : Badger) (m : MapEntry) : Option SuperBlock :=
  x.supers.find? (fun b => b.dies.contains m.die && (x.chain m.die b.block).contains (some m.block))

/-- A superblock replaced. -/
def Badger.setSuper (x : Badger) (b : SuperBlock) : Badger :=
  { x with supers := x.supers.map (fun c => if c.id = b.id then b else c) }

/-- Superblocks of the SLC buffer (R571). -/
def Badger.slcCount (x : Badger) : Nat := (x.supers.filter (·.slc)).length

/-- The superblock a tenancy's next grain goes to in a group: the open one of the mode, or a free one (R562, R567, R571). -/
def Badger.superFor (x : Badger) (g t : Nat) (slc : Bool) : Option (Badger × SuperBlock) :=
  match x.supers.find? (fun b => b.group == g && b.tenancy == t && b.slc == slc && (x.nextSlot b).isSome) with
  | some b => some (x, b)
  | none =>
    if slc && decide (x.slcTarget ≤ x.slcCount) then none
    else match x.freeBlock g with
      | none => none
      | some k =>
        let b : SuperBlock := { id := x.nextSuper, group := g, block := k, dies := x.groupDies g, tenancy := t, slc, open_ := true
                                next := 0, firstAt := none }
        if (x.nextSlot b).isNone then none
        else some ({ x with
          supers := x.supers.map (fun c => if c.group = g ∧ c.tenancy = t ∧ c.slc = slc then { c with open_ := false } else c) ++ [b]
          nextSuper := x.nextSuper + 1 }, b)

/-- The place the next grain of a tenancy takes, on a die that passes a test, with the superblock's slot taken (R567, R573). -/
def State.takePlace (s : State) (b t : Nat) (slc : Bool) (okDie : Nat → Bool) : Option (Badger × MapEntry) :=
  let x := s.badger b
  (s.flashGroups b t).findSome? (fun g =>
    match x.superFor g t slc with
    | none => none
    | some (y, sb) =>
      match y.nextSlot sb with
      | none => none
      | some n =>
        let m := y.slotEntry sb n
        if !okDie m.die then none
        else
          let first := n / sb.dies.length != (sb.next - 1) / sb.dies.length || sb.firstAt.isNone
          some (y.setSuper { sb with next := n + 1, firstAt := if first then some s.frame else sb.firstAt }, m))

/-! ### Programs and records (R563–R565) -/

/-- A grain programmed while TIME_VALID is 0 or the reference is the watch oscillator (R565). -/
def State.tsLow (s : State) : Bool := !s.time.valid || s.clock.active == some .watch

/-- A grain put on the media with its record. -/
def State.programAt (s : State) (x : Badger) (m : MapEntry) (data : Bytes) (logical seq t : Nat) (parity good : Bool) : Badger :=
  { x with media := x.media.filter (fun p => !p.at_ m) ++
      [{ ch := m.ch, target := m.target, block := m.block, page := m.page, plane := m.plane, data, logical
         temp := tgetD x.temps m.die 0, parity, slc := m.slc, tsLow := s.tsLow, seq, writeTime := s.time.now, tenancy := t
         crcOk := good }] }

/-! ### Retirement and die loss (R577, R578) -/

/-- The valid grains of a block or die queued for copying out. -/
def Badger.queueRewrite (x : Badger) (sel : Programmed → Bool) : Badger :=
  let gs := (x.media.filter (fun p => sel p && x.isValid p)).map (·.logical)
  { x with rewrite := x.rewrite ++ gs.filter (fun g => !x.rewrite.contains g) }

/-- A block retired: a spare of the die takes its place; without one its superblock takes no more grains. -/
def Badger.retire (x : Badger) (die block : Nat) : Badger :=
  let used := tgetD x.spares die 0
  let sub := if used < x.spareBlocks then some (x.blocks - x.spareBlocks + used) else none
  let owner := x.supers.find? (fun b => b.dies.contains die && x.blockOn die b.block == some block)
  let y := { x.queueRewrite (fun p => p.die == die && p.block == block) with
    retired := x.retired ++ [(die, block, sub)], spares := if sub.isSome then tset x.spares die (used + 1) else x.spares }
  match owner, sub with
  | some b, none => y.setSuper { b with open_ := false }
  | _, _ => y

/-- A block retired, with its record (R577, R651). -/
def State.retireBlock (s : State) (b die block : Nat) : State :=
  let x := s.badger b
  if block ≥ x.blocks ∨ x.owlBlock die block = true ∨ x.retired.any (fun r => r.1 == die && r.2.1 == block) then s
  else ((s.setBadger b (x.retire die block)).logError 0 4 4 none b 0 0 0 (die * 2 ^ 16 + block)).reviewSvc

/-- A die marked FAILED (R578): its record, the health record (R639), and its grains to be copied. -/
def State.failDie (s : State) (b die : Nat) : State :=
  let x := s.badger b
  if x.failedDies.contains die then s
  else
    let y := x.queueRewrite (fun p => p.die == die)
    let y := { y with failedDies := y.failedDies ++ [die], bgOps := y.bgOps.filter (fun o => o.die != die)
                      supers := y.supers.map (fun c => if c.dies.contains die then { c with open_ := false } else c) }
    let s := (s.setBadger b y).logError 0 4 5 none b 0 0 0 die
    ({ s with health := { s.health with dies := s.health.dies ++ [(b, die)] } }).reviewSvc

/-- An operation of a die ends: NF_DIE_FAIL_MAX consecutive failures mark it FAILED (R578). -/
def State.dieResult (s : State) (b die : Nat) (pass : Bool) : State :=
  let x := s.badger b
  if pass then s.setBadger b { x with dieFails := tdel x.dieFails die }
  else
    let n := tgetD x.dieFails die 0 + 1
    let s := s.setBadger b { x with dieFails := tset x.dieFails die n }
    if (s.stored 0x0300150).toNat % 256 ≤ n then s.failDie b die else s

/-- DIE_FAIL. -/
def dieFailSt (badger die : Nat) (s : State) : State :=
  if (s.badger badger).disabled ∨ 64 ≤ die ∨ (s.badger badger).diesPerChannel ≤ die % 16 then s else s.failDie badger die

def execDieFail (badger die : Nat) (s : State) : Out := .next (dieFailSt badger die s)

/-- BLOCK_RETIRE: the cause is for the caller to know. -/
def blockRetireSt (badger die block : Nat) (_why : RetireCause) (s : State) : State :=
  if (s.badger badger).disabled ∨ 64 ≤ die ∨ (s.badger badger).diesPerChannel ≤ die % 16 then s
  else s.retireBlock badger die block

def execBlockRetire (badger die block : Nat) (why : RetireCause) (s : State) : Out :=
  .next (blockRetireSt badger die block why s)

/-- DIE_TEMP_READ (R565). -/
def dieTempReadSt (badger die : Nat) (temp : Int) (s : State) : State :=
  let x := s.badger badger
  if x.disabled ∨ 64 ≤ die ∨ x.diesPerChannel ≤ die % 16 then s else s.setBadger badger { x with temps := tset x.temps die temp }

def execDieTempRead (badger die : Nat) (temp : Int) (s : State) : Out := .next (dieTempReadSt badger die temp s)

/-! ### Reads (R561, R569, R574, R575) -/

/-- The age bucket of Table 14.4. -/
def ageBucket (age : Nat) : Nat := ([42, 46, 49, 51, 53, 55, 57].filter (fun e => decide (2 ^ e ≤ age))).length

/-- The ΔT bucket of Table 14.4. -/
def tempBucket (d : Int) : Nat := ([-40, -20, -5, 6, 21, 41].filter (fun e => decide ((e : Int) ≤ d))).length

/-- Neighbouring buckets of one of 8: the next older, the next younger, alternating outward. -/
def neighbours (a : Nat) : List Nat :=
  (List.range 7).flatMap (fun i =>
    (if a + i + 1 < 8 then [a + i + 1] else []) ++ (if i + 1 ≤ a then [a - (i + 1)] else []))

/-- The NF_VTH entries a read of a grain tries, in order: its own; for a TS_LOW grain every age bucket of its column, youngest
first; then the neighbours (R574, R575). -/
def State.thresholds (s : State) (x : Badger) (p : Programmed) : List Nat :=
  let mode := b2n p.slc
  let col := tempBucket (tgetD x.temps p.die 0 - p.temp)
  let age := ageBucket (s.time.now - p.writeTime)
  let entry := fun a => 56 * mode + 7 * a + col
  (age :: (if p.tsLow then List.range 8 else []) ++ (neighbours age).take ((s.stored 0x0300140).toNat % 16)).map entry

/-- The other grains of a stripe, if every one can be read (R575, R579). -/
def Badger.others (x : Badger) (m : MapEntry) : Option (List Programmed) :=
  match x.superOf m with
  | none => none
  | some b =>
    (b.dies.filter (· != m.die)).mapM (fun d =>
      if x.failedDies.contains d then none
      else x.media.find? (fun p => p.die == d && p.page == m.page && p.plane == m.plane && p.crcOk &&
        (x.chain d b.block).contains (some p.block)))

/-- The contents rebuilt from the rest of the stripe. -/
def Badger.rebuilt (x : Badger) (m : MapEntry) : Option Bytes :=
  (x.others m).map (fun ps => ps.foldl (fun acc p => xorAll acc p.data) zeroGrain)

/-- A grain to be rewritten by the scrubber (R576). -/
def Badger.wantRewrite (x : Badger) (g : Nat) : Badger :=
  if x.rewrite.contains g then x else { x with rewrite := x.rewrite ++ [g] }

/-- A grain read off its media: `ecc` tells which of the reads tried passes (a missing outcome passes), and its element after the
last of them whether the reads of a reconstruction do. The contents, if any, and the state with its records (R575, R576). -/
def State.readGrain (s : State) (b grain : Nat) (m : MapEntry) (p : Programmed) (ecc : List Bool) : Option Bytes × State :=
  let x := s.badger b
  let tries := if x.failedDies.contains m.die then 0 else (s.thresholds x p).length
  let hit := (List.range tries).find? (fun i => ecc.getD i true)
  let addr := logical (grainAddr b grain)
  match hit with
  | some 0 => (some p.data, if p.tsLow then s.setBadger b (x.wantRewrite grain) else s)
  | some _ => (some p.data, (s.setBadger b (x.wantRewrite grain)).logError 0 4 1 (some p.tenancy) b addr 0 0 0)
  | none =>
    match (if ecc.getD tries true then x.rebuilt m else none) with
    | some d => (some d, (s.setBadger b (x.wantRewrite grain)).logError 0 4 2 (some p.tenancy) b addr 0 0 0)
    | none =>
      (none, (s.setBadger b { x with map := tset x.map grain { m with lost := true } }).logError 1 4 3 (some p.tenancy) b addr 0 0 0)

/-- The number of a wait is a program's (R584). -/
def isProgram (w : Nat) : Bool := decide (2 ^ 72 ≤ w ∧ w < 2 ^ 73) && w % 2 == 1

/-- A background operation holds a die. -/
def Badger.dieBusy (x : Badger) (die : Nat) : Bool := x.bgOps.any (fun o => o.die == die && !o.suspended)

/-- FLASH_READ (R561, R569, R575, R583). A read waits while background work holds the die, behind its tenancy's earlier operations there, and
until a run of its tenancy's frames is long enough for it (R66, R712); the command is then given again. -/
def flashReadSt (badger grain : Nat) (ecc : List Bool) (req : Nat) (s : State) : State :=
  let x := s.badger badger
  if x.disabled ∨ !x.mapReady then s
  else match tget x.map grain with
    | none => s.emit (.flashData req 0 zeroGrain)
    | some m =>
      if m.lost then s.emit (.flashData req 0x31 [])
      else match x.programmed m with
        | none => s.emit (.flashData req 0x31 [])
        | some p =>
          let die := dieMap badger m.die
          let gone := x.failedDies.contains m.die
          match (if gone then Gate.go s else s.passDie (readOp req) 0 p.tenancy die s.part.readNs (x.dieBusy m.die)) with
          | .hold s => s
          | .go s =>
            match (s.leaveAll (readOp req)).readGrain badger grain m p ecc with
            | (some d, s) => s.emit (.flashData req 0 d)
            | (none, s) => s.emit (.flashData req 0x31 [])

def execFlashRead (badger grain : Nat) (ecc : List Bool) (req : Nat) (s : State) : Out :=
  .next (flashReadSt badger grain ecc req s)

/-! ### Writes (R566–R570, R585–R587) -/

/-- A write's parts on every Badger are dropped: nothing of it is written (R586, R587), and programs with nothing left to write wait no
more. -/
def State.dropWrite (s : State) (req : Nat) : State :=
  let left := s.badgers.map (fun e => (e.1, { e.2 with wbuf := e.2.wbuf.filter (fun w => w.req != req) }))
  let programs := left.flatMap (fun e => e.2.wbuf.map (fun w => programOp e.1 w.grain))
  { s with
    badgers := left
    slots := { s.slots with waits := s.slots.waits.filter (fun v => !isProgram v.w || programs.contains v.w) } }

/-- The dies on which waiting writes of a tenancy are to be programmed next. -/
def State.programDie (s : State) (b t : Nat) : Option Nat := (s.takePlace b t true (fun _ => true)).map (fun p => p.2.die)

/-- A vector write of an update has failed: every slot it took is returned, and the update ends with no side effects (R251). -/
def State.failVectors (s : State) (w status : Nat) : State :=
  match s.work w with
  | none => s
  | some x =>
    let slots := (x.items.filter (fun i => i.kind != 2)).map (·.slot)
    let undo := fun (b : Burrow) =>
      { b with slotFree := b.slotFree ++ slots, vectors := b.vectors.filter (fun v => !slots.contains v.1) }
    let s : State := { s with
      burrows := s.burrows.map (fun e => (e.1, if e.1 = x.burrow then undo e.2 else e.2))
      vcache := s.vcache.filter (fun v => !(v.1 == x.burrow && slots.contains v.2.1)) }
    s.finish w (Result.err status 0)

/-- A write ends with a status other than DONE: nothing of it is written (R586, R587). What becomes of the object whose write it is, its own
step says. -/
def State.failWrite (s : State) (req status : Nat) : State :=
  let s := s.dropWrite req
  if req < 2 ^ 64 then s.emit (.flashAck req status)
  else if req < 2 ^ 65 then s.failVectors (req - 2 ^ 64) status
  else { s with
    jobs := s.jobs.map (fun j => if j.sent.isSome ∧ tensorReq j.w j.handle = req then { j with failed := some status } else j)
    extents := s.extents.map (fun e => (e.1, { e.2 with leaving := e.2.leaving.filter (fun p => pageReq e.1 p != req) })) }

/-- A write completes with MEDIA_EXHAUSTED. -/
def State.exhaustWrite (s : State) (req : Nat) : State := s.failWrite req 0x30

/-- A write is acknowledged: an object's own goes on by itself. -/
def State.ackWrite (s : State) (req : Nat) : State := if req < 2 ^ 64 then s.emit (.flashAck req 0) else s

/-- GRAIN_WRITE (R566, R585–R587, R591): 64-byte pieces of one grain join the write buffer. Grains of waiting writes count with the
MAPPED ones. -/
def grainWriteSt (badger tenancy grain offset req : Nat) (data : Bytes) (s : State) : State :=
  let x := s.badger badger
  let fits := decide (data ≠ [] ∧ data.length % 64 = 0 ∧ offset % 64 = 0 ∧ offset + data.length ≤ 16384 ∧ grain < 2 ^ 31)
  if x.disabled ∨ !x.mapReady ∨ !fits then s
  else if !x.shutDone && s.refusesGrains tenancy badger [grain] then s.exhaustWrite req
  else s.setBadger badger { x with wbuf := x.wbuf ++ [{ tenancy, grain, offset, data, req }] }

def execGrainWrite (badger tenancy grain offset req : Nat) (data : Bytes) (s : State) : Out :=
  .next (grainWriteSt badger tenancy grain offset req data s)

/-- The grains of a tenancy that stand in the write buffer: its first TEN_NF_WBUF (R566, R603). -/
def State.buffered (s : State) (b t : Nat) : List Nat :=
  (((s.badger b).wbuf.filter (fun w => w.tenancy == t)).map (·.grain)).eraseDups.take
    (bits (s.liveReg t (0x00402C0 + 8 * b)) 14 0)

/-- A write laid over a grain. -/
def overlay (cur : Bytes) (w : BufWrite) : Bytes := cur.take w.offset ++ w.data ++ cur.drop (w.offset + w.data.length)

/-- What a write is merged with: the grain's contents, zeros for an UNWRITTEN grain (R566). The contents of a LOST grain cannot be read
(R561): only writes that cover it whole need none (DEDUCED, assumption 84). -/
def Badger.mergeBase (x : Badger) (grain : Nat) : Option Bytes :=
  match tget x.map grain with
  | none => some zeroGrain
  | some m =>
    if m.lost then
      (if (List.range 256).all (fun k => x.wbuf.any (fun w =>
          w.grain == grain && decide (w.offset ≤ 64 * k ∧ 64 * k + 64 ≤ w.offset + w.data.length))) then some zeroGrain else none)
    else (x.programmed m).map (·.data)

/-- PROGRAM_DONE (R566–R568): the waiting writes of a grain go to its tenancy's open SLC superblock, on a die that has a run for the
program (R66, R712), where no earlier operation of the tenancy waits and no background work holds (R584) (DEDUCED, assumption 84; DEDUCED, assumption 85). -/
def programDoneSt (badger grain : Nat) (pass : Bool) (s : State) : State :=
  let x := s.badger badger
  match x.wbuf.find? (fun w => w.grain == grain) with
  | none => s
  | some w0 =>
    let t := w0.tenancy
    let op := programOp badger grain
    let may := fun d => s.firstOnDie op 0 t (dieMap badger d) && s.nandFits (dieMap badger d) t s.part.programNs && !x.dieBusy d
    let mine := x.wbuf.filter (fun w => w.grain == grain)
    if x.shutDone ∨ x.readOnly ∨ !(s.buffered badger t).contains grain then s
    else match x.mergeBase grain with
    | none => ((mine.map (·.req)).eraseDups).foldl (fun s r => s.failWrite r 0x31) s
    | some base =>
      match s.takePlace badger t true may with
      | none =>
        match s.takePlace badger t true (fun _ => true) with
        | some (_, m) => (if s.slots.waits.any (fun v => v.w == op && v.unit == dieMap badger m.die) then s else s.leaveAll op).queueDie op 0 t (dieMap badger m.die)
        | none => s
      | some (y, m) =>
        let data := mine.foldl overlay base
        let s := (s.leaveAll op).claimRun (dieMap badger m.die) t s.part.programNs
        if pass then
          let y := s.programAt y m data grain y.seq t false true
          let y := { y with seq := y.seq + 1, map := tset y.map grain m, wbuf := y.wbuf.filter (fun w => w.grain != grain)
                            rewrite := y.rewrite.filter (· != grain) }
          let s := (s.setBadger badger y).dieResult badger m.die true
          let left := s.badgers.flatMap (fun e => e.2.wbuf.map (·.req))
          ((mine.map (·.req)).eraseDups.filter (fun r => !left.contains r)).foldl State.ackWrite s
        else
          ((s.setBadger badger (s.programAt y m data grain 0 t false false)).retireBlock badger m.die m.block).dieResult badger m.die false

def execProgramDone (badger grain : Nat) (pass : Bool) (s : State) : Out := .next (programDoneSt badger grain pass s)

/-- The parity of a stripe written: missing data grains become padding, and parity is the exclusive or of the others (R558,
R570). -/
def State.writeParity (s : State) (x : Badger) (b : SuperBlock) (stripe : Nat) : Badger :=
  let w := b.dies.length
  let slot := fun k => x.slotEntry b (stripe * w + k)
  let programmedAt := fun (y : Badger) (k : Nat) =>
    y.media.find? (fun p => p.die == b.dies.getD k 0 && p.page == (slot k).page && p.plane == (slot k).plane && y.inSuper b p)
  let pos := (List.range w).filter (· != parityPos w stripe)
  let y := pos.foldl (fun y k => if (programmedAt y k).isSome then y else s.programAt y (slot k) zeroGrain 0 0 0 false true) x
  let sum := pos.foldl (fun acc k => match programmedAt y k with | some p => xorAll acc p.data | none => acc) zeroGrain
  let y := s.programAt y (slot (parityPos w stripe)) sum 0 0 0 true true
  if b.next / w ≤ stripe then y.setSuper { b with next := (stripe + 1) * w, firstAt := none }
  else if (b.next - 1) / w = stripe then y.setSuper { b with firstAt := none } else y

/-- The stripe has data and no parity yet. -/
def Badger.wantsParity (x : Badger) (b : SuperBlock) (stripe : Nat) : Bool :=
  let on := x.media.filter (fun p => x.inSuper b p && p.page * x.planes + p.plane == stripe)
  on.any (fun p => !p.parity) && !on.any (·.parity)

/-- The parity that a frame boundary makes due: of every stripe whose first program was issued in an earlier frame (R570). -/
def State.parityDue (s : State) : State :=
  { s with badgers := s.badgers.map (fun e =>
      if e.2.disabled || e.2.shutDone then e
      else (e.1, e.2.supers.foldl (fun x b =>
        let old := x.media.filter (fun p => x.inSuper b p && !p.parity && decide (p.writeTime / 2 ^ 14 < s.frame))
        (((old.map (fun p => p.page * x.planes + p.plane)).eraseDups).filter (x.wantsParity b)).foldl (fun x st =>
          s.writeParity x ((x.supers.find? (fun c => c.id == b.id)).getD b) st) x) e.2)) }

/-- STRIPE_PARITY_WRITE (R570) (DEDUCED, assumption 85). -/
def stripeParityWriteSt (badger superblock stripe : Nat) (s : State) : State :=
  let x := s.badger badger
  match x.supers.find? (fun b => b.id == superblock) with
  | none => s
  | some b => if x.wantsParity b stripe then s.setBadger badger (s.writeParity x b stripe) else s

def execStripeParityWrite (badger superblock stripe : Nat) (s : State) : Out :=
  .next (stripeParityWriteSt badger superblock stripe s)

/-! ### Background copies (R573, R576, R580–R584) -/

/-- Frames of a superframe in which background work starts (R63). -/
def State.bgFrames (s : State) : Bool := decide (60 ≤ s.frame % 64)

/-- The opening of a Badger window, at which the heavier tasks start (R59): the frame at whose boundary it opened
(DEDUCED, assumption 107). -/
def State.badgerWindow (s : State) : Bool := s.time.windowAt == some s.frame && decide (1020 ≤ s.frame % 1024)

/-- A background operation on a tenancy's block may continue into the present frame of its die (R582). -/
def State.mayContinue (s : State) (b : Nat) (o : BgOp) : Bool :=
  let m := dieMap b o.die
  s.bgFrames || match s.mapOwner m (s.mapIndex m) with
    | none => true
    | some owner => s.isShared owner || (owner == o.tenancy && o.tenancy != 0)

/-- A copy begun: the grain's contents are programmed at its place, and its record holds until the program ends only as a bad one
(R564, R573). -/
def State.beginCopy (s : State) (b grain : Nat) (m : MapEntry) (p : Programmed) (data : Bytes) (deadline : Option Nat) : State :=
  match s.takePlace b p.tenancy false (fun d => s.bgServes (dieMap b d) p.tenancy && !(s.badger b).bgOps.any (fun o => o.die == d)) with
  | none => s
  | some (y, dst) =>
    let y := s.programAt y dst data grain p.seq p.tenancy false false
    s.setBadger b { y with bgOps := y.bgOps ++
      [{ die := dst.die, tenancy := p.tenancy, deadline, suspended := false, grain, src := m, dst }] }

/-- A copy ended: the map moves only if it still points to the source (R573). -/
def Badger.endCopy (x : Badger) (o : BgOp) : Badger :=
  let y := { x with bgOps := x.bgOps.filter (· != o)
                    media := x.media.map (fun p => if p.at_ o.dst then { p with crcOk := true } else p) }
  if tget y.map o.grain = some o.src then
    { y with map := tset y.map o.grain o.dst, rewrite := y.rewrite.filter (· != o.grain) }
  else y

/-- The copy of a grain in progress from its present place. -/
def Badger.copyOf (x : Badger) (grain : Nat) : Option BgOp := x.bgOps.find? (fun o => o.grain == grain)

/-- The deadline of a fold: when the room of the tenancy's open SLC superblocks is used up at the inflow of the last superframe
(Table 14.5). -/
def State.foldDeadline (s : State) (b t : Nat) : Option Nat :=
  let x := s.badger b
  let since := (s.frame / 64 - 1) * 2 ^ 20
  let inflow := (x.media.filter (fun p => p.slc && p.tenancy == t && !p.parity && p.seq != 0 &&
    decide (since ≤ p.writeTime ∧ p.writeTime < since + 2 ^ 20))).length
  let room := ((x.supers.filter (fun c => c.slc && c.open_ && c.tenancy == t)).map (fun c =>
    (x.stripes * c.dies.length - c.next) * (c.dies.length - 1) / max 1 c.dies.length)).sum
  if inflow = 0 then none else some (s.time.now + room * 2 ^ 20 / inflow)

/-- FOLD (R573, R580): the first command starts the program, the next one for the grain ends it (DEDUCED, assumption 84). -/
def foldSt (badger grain : Nat) (s : State) : State :=
  let x := s.badger badger
  if x.disabled ∨ !x.mapReady ∨ x.readOnly then s
  else match x.copyOf grain with
    | some o => if o.suspended then s else s.setBadger badger (x.endCopy o)
    | none =>
      match tget x.map grain with
      | none => s
      | some m =>
        if m.lost || !m.slc || !s.bgFrames then s
        else match x.programmed m with
          | none => s
          | some p =>
            match s.readGrain badger grain m p [] with
            | (some d, s) => s.beginCopy badger grain m p d (s.foldDeadline badger p.tenancy)
            | (none, s) => s

def execFold (badger grain : Nat) (s : State) : Out := .next (foldSt badger grain s)

/-- SCRUB_READ (R575–R577, R580). -/
def scrubReadSt (badger grain : Nat) (ecc : List Bool) (correctedBits : Nat) (s : State) : State :=
  let x := s.badger badger
  match tget x.map grain with
  | none => s
  | some m =>
    match (if m.lost then none else x.programmed m) with
    | none => s
    | some p =>
      if x.disabled ∨ !x.mapReady ∨ !s.bgServes (dieMap badger m.die) p.tenancy ∨ x.dieBusy m.die then s
      else
        let s := s.setBadger badger { x with lastScrub := tset x.lastScrub grain s.time.now }
        let s := (s.readGrain badger grain m p ecc).2
        if (s.stored 0x0300148).toNat % 2 ^ 16 < correctedBits then s.retireBlock badger m.die m.block else s

def execScrubRead (badger grain : Nat) (ecc : List Bool) (correctedBits : Nat) (s : State) : Out :=
  .next (scrubReadSt badger grain ecc correctedBits s)

/-- SCRUB_REWRITE (R576–R578, R580): in two commands, as FOLD. A grain of a retired block or a FAILED die is copied whatever the
reference; one recovered by retry needs TIME_VALID and a 100 MHz source (DEDUCED, assumption 84). -/
def scrubRewriteSt (badger grain : Nat) (s : State) : State :=
  let x := s.badger badger
  let timed := s.time.valid && (match s.clock.active with | some .watch => false | some _ => true | none => false)
  if x.disabled ∨ !x.mapReady ∨ x.readOnly then s
  else match x.copyOf grain with
    | some o => if o.suspended then s else s.setBadger badger (x.endCopy o)
    | none =>
      match tget x.map grain with
      | none => s
      | some m =>
        let moved := x.failedDies.contains m.die || x.retired.any (fun r => r.1 == m.die && r.2.1 == m.block)
        if m.lost || !x.rewrite.contains grain || !s.badgerWindow || !(timed || moved) then s
        else match x.programmed m with
          | none => s
          | some p =>
            match s.readGrain badger grain m p [] with
            | (some d, s) => s.beginCopy badger grain m p d none
            | (none, s) => s

def execScrubRewrite (badger grain : Nat) (s : State) : Out := .next (scrubRewriteSt badger grain s)

/-- A foreground read of a tenancy that the die serves now waits for it (R583): a program does not suspend background work (R584). -/
def State.readWaits (s : State) (b die : Nat) : Bool :=
  s.slots.waits.any (fun v => v.unit == dieMap b die && !v.served && !isProgram v.w && s.serves v.unit v.tenancy)

/-- BG_OP_SUSPEND (R582, R583): an operation that may not continue here; and one for which a foreground read waits, unless its deadline falls
before the end of the next frame. -/
def bgOpSuspendSt (badger die : Nat) (s : State) : State :=
  let x := s.badger badger
  let soon := fun (o : BgOp) => match o.deadline with | some d => decide (d < (s.frame + 2) * 2 ^ 14) | none => false
  let stops := fun (o : BgOp) => !s.mayContinue badger o || (s.readWaits badger die && !soon o)
  s.setBadger badger { x with bgOps := x.bgOps.map (fun o => if o.die = die ∧ stops o then { o with suspended := true } else o) }

def execBgOpSuspend (badger die : Nat) (s : State) : Out := .next (bgOpSuspendSt badger die s)

/-- BG_OP_RESUME (R582, R583): in a frame into which the operation may continue, once the read has been issued. -/
def bgOpResumeSt (badger die : Nat) (s : State) : State :=
  let x := s.badger badger
  s.setBadger badger { x with bgOps := x.bgOps.map (fun o =>
    if o.die = die ∧ s.mayContinue badger o ∧ s.readWaits badger die = false then { o with suspended := false } else o) }

def execBgOpResume (badger die : Nat) (s : State) : Out := .next (bgOpResumeSt badger die s)

/-- Background operations at a frame boundary (R582). -/
def State.bgBoundary (s : State) : State :=
  { s with badgers := s.badgers.map (fun e =>
      (e.1, { e.2 with bgOps := e.2.bgOps.map (fun o => { o with suspended := !s.mayContinue e.1 o }) })) }

/-! ### Garbage collection, wear and the SLC buffer (R571, R572, R580, R581) -/

/-- When a Badger's free superblocks would fall below 2 per die group at the inflow of the last superframe (Table 14.5)
(DEDUCED, assumption 84). -/
def State.gcDeadline (s : State) (b : Nat) : Option Nat :=
  let x := s.badger b
  let since := (s.frame / 64 - 1) * 2 ^ 20
  let inflow := (x.media.filter (fun p => p.slc && !p.parity && p.seq != 0 && decide (since ≤ p.writeTime ∧ p.writeTime < since + 2 ^ 20))).length
  let room := ((List.range x.groups).map (fun g => (x.freeCount g - 2) * x.stripes * ((x.groupDies g).length - 1))).sum
  if inflow = 0 then none else some (s.time.now + room * 2 ^ 20 / inflow)

/-- The valid grains of a superblock copied into their tenancies' open QLC superblocks, in commands as FOLD is: copies of it that have not been
suspended end, and further ones begin where a die is free for one (R573, R580). -/
def State.copyOut (s : State) (b : Nat) (sb : SuperBlock) (begins : Bool) (deadline : Option Nat) : State :=
  let x := s.badger b
  let ready := x.bgOps.filter (fun o => !o.suspended && x.superOf o.src == some sb)
  let s := s.setBadger b (ready.foldl Badger.endCopy x)
  if !begins then s
  else ((s.badger b).validIn sb).foldl (fun s p =>
    match tget (s.badger b).map p.logical with
    | some m =>
      if ((s.badger b).copyOf p.logical).isSome then s
      else match s.readGrain b p.logical m p [] with
        | (some d, s) => s.beginCopy b p.logical m p d deadline
        | (none, s) => s
    | none => s) s

/-- A superblock erased, its erase counted; it is free again while every die has a block for it (R577, R581). -/
def Badger.erase (x : Badger) (b : SuperBlock) : Badger :=
  let k := b.group * 2 ^ 14 + b.block
  { x with media := x.media.filter (fun p => !x.inSuper b p), supers := x.supers.filter (fun c => c.id != b.id)
           erased := tset x.erased k (tgetD x.erased k 0 + 1) }

/-- The closed superblocks of a group that hold no valid grain and no copy in progress erased (DEDUCED, assumption 85). -/
def Badger.eraseEmpty (x : Badger) (g : Nat) : Badger :=
  (x.supers.filter (fun b => b.group == g && (x.nextSlot b).isNone && (x.validIn b).isEmpty &&
    !x.bgOps.any (fun o => x.superOf o.dst == some b || x.superOf o.src == some b))).foldl Badger.erase x

/-- GARBAGE_COLLECT (R573, R580, R581): the valid grains of the closed QLC superblock with the fewest are copied, copies beginning in background
frames; in the Badger window superblocks without a valid grain are erased (DEDUCED, assumption 85). -/
def garbageCollectSt (badger group : Nat) (s : State) : State :=
  let x := s.badger badger
  if x.disabled ∨ !x.mapReady ∨ x.readOnly ∨ x.groups ≤ group then s
  else
    let closed := x.supers.filter (fun b => b.group == group && !b.slc && (x.nextSlot b).isNone)
    let s := match bestBy (fun a b => decide ((x.validIn a).length < (x.validIn b).length)) closed with
      | some b => s.copyOut badger b s.bgFrames (s.gcDeadline badger)
      | none => s
    if s.badgerWindow then s.setBadger badger ((s.badger badger).eraseEmpty group) else s

def execGarbageCollect (badger group : Nat) (s : State) : Out := .next (garbageCollectSt badger group s)

/-- Erases of a superblock's blocks. -/
def Badger.erases (x : Badger) (g k : Nat) : Nat := tgetD x.erased (g * 2 ^ 14 + k) 0

/-- WEAR_LEVEL (Table 14.5): from the opening of a Badger window on, a closed superblock erased more than NF_WL_SPREAD times fewer than another of its
group moves. -/
def wearLevelSt (badger superblock : Nat) (s : State) : State :=
  let x := s.badger badger
  match x.supers.find? (fun b => b.id == superblock) with
  | none => s
  | some b =>
    let most := ((List.range x.blocks).map (x.erases b.group)).foldl max 0
    if x.disabled ∨ !x.mapReady ∨ x.readOnly ∨ (x.nextSlot b).isSome ∨
        most ≤ x.erases b.group b.block + (s.stored 0x0300160).toNat % 2 ^ 16 then s
    else
      let s := s.copyOut badger b s.badgerWindow none
      if s.badgerWindow then s.setBadger badger ((s.badger badger).eraseEmpty b.group) else s

def execWearLevel (badger superblock : Nat) (s : State) : Out := .next (wearLevelSt badger superblock s)

/-- The target of R571 in superblocks, rounded up: of N superblocks, m grains MAPPED and u user grains. -/
def slcTargetOf (N m u : Nat) : Nat :=
  if 10 * m < 9 * u then ceilDiv (N * (108 * u - 110 * m)) (900 * u) else ceilDiv N 100

/-- The target of a Badger. -/
def State.slcTarget (s : State) (b : Nat) : Nat :=
  let x := s.badger b
  slcTargetOf (x.groups * x.blocks) (x.map.filter (fun e => !e.2.lost)).length x.userGrains

/-- SLC_RESIZE (R571) (DEDUCED, assumption 84). -/
def slcResizeSt (badger : Nat) (s : State) : State :=
  let x := s.badger badger
  if x.disabled ∨ !x.mapReady ∨ !s.badgerWindow then s else s.setBadger badger { x with slcTarget := s.slcTarget badger }

def execSlcResize (badger : Nat) (s : State) : Out := .next (slcResizeSt badger s)

/-! ### Exhausted media (R586, R588) -/

/-- Superblocks that garbage collection could free in a group: whole ones' worth of grains no longer valid in closed superblocks. -/
def Badger.reclaimable (x : Badger) (g : Nat) : Nat :=
  let per := x.stripes * ((x.groupDies g).length - 1)
  let closed := x.supers.filter (fun b => b.group == g && (x.nextSlot b).isNone)
  (closed.map (fun b => per - (x.validIn b).length)).sum / max 1 per

/-- A tenancy of a waiting write needs a superblock, and no group it may write has one free or can free one (R586)
(DEDUCED, assumption 85). -/
def State.mediaExhausted (s : State) (b : Nat) : Bool :=
  let x := s.badger b
  x.wbuf.any (fun w => (s.flashGroups b w.tenancy).all (fun g =>
    (x.superFor g w.tenancy true).isNone && (x.freeBlock g).isNone && decide (x.reclaimable g = 0)))

/-- READ_ONLY_ENTER (R586). -/
def readOnlyEnterSt (badger : Nat) (s : State) : State :=
  let x := s.badger badger
  if x.disabled ∨ x.readOnly ∨ !s.mediaExhausted badger then s
  else
    let reqs := (x.wbuf.map (·.req)).eraseDups
    let s := reqs.foldl (fun s r => s.exhaustWrite r) s
    let s := s.setBadger badger { s.badger badger with readOnly := true, bgOps := [] }
    ((s.logError 1 4 6 none badger 0 0 0 0).setFlag (0x0300040 + 16 * badger) 8).reviewSvc

def execReadOnlyEnter (badger : Nat) (s : State) : Out := .next (readOnlyEnterSt badger s)

/-- READ_ONLY_LEAVE (R588). -/
def readOnlyLeaveSt (badger : Nat) (s : State) : State :=
  let x := s.badger badger
  let work := (List.range x.groups).filter (fun g => x.supers.any (fun b => b.group == g && b.open_))
  if x.readOnly && work.all (fun g => decide (2 ≤ x.freeCount g + x.reclaimable g)) then
    (s.setBadger badger { x with
      readOnly := false, journal := x.journal ++ x.heldTrims.map (fun g => JournalRec.trim g x.seq), heldTrims := [] }).reviewSvc
  else s

def execReadOnlyLeave (badger : Nat) (s : State) : Out := .next (readOnlyLeaveSt badger s)

/-! ### Shutdown, rebuild and start (R557, R589–R593, R675) -/

/-- NF_CFG_WRITE (R675): kept in the sealed store for the next reset. -/
def nfCfgWriteSt (mp : MgmtPort) (badger : Nat) (value : Reg) (s : State) : State :=
  s.setup mp fun s => if 8 ≤ badger then s else { s with owl := { s.owl with nfCfg := tset s.owl.nfCfg badger value } }

def execNfCfgWrite (mp : MgmtPort) (badger : Nat) (value : Reg) (s : State) : Out := .next (nfCfgWriteSt mp badger value s)

/-- A Badger stops writes, ends what is in flight, writes its checkpoint and CLEAN anchor (R591). -/
def Badger.shut (x : Badger) : Badger :=
  if x.disabled ∨ !x.mapReady ∨ x.shutDone then x
  else
    let y := x.bgOps.foldl Badger.endCopy x
    { y with clean := some (y.map, y.seq), shutDone := true }

/-- SHUTDOWN (R591) (DEDUCED, assumption 85). -/
def shutdownSt (mp : MgmtPort) (s : State) : State :=
  s.setup mp fun s =>
    { s.setBit 0x03000C0 0 with badgers := s.badgers.map (fun e => (e.1, e.2.shut)) }

def execShutdown (mp : MgmtPort) (s : State) : Out := .next (shutdownSt mp s)

/-- A record takes the place of the grain's best one so far (R592). -/
def betterCopy (r cur : Programmed) : Bool :=
  decide (cur.seq < r.seq) ||
    (r.seq == cur.seq && ((!r.slc && cur.slc) || (r.slc == cur.slc && decide (cur.writeTime < r.writeTime))))

/-- The map that the records of the media give (R592). -/
def rebuiltMap (media : List Programmed) : Tab Programmed :=
  (media.filter (fun p => p.crcOk && !p.parity && p.seq != 0)).foldl (fun m p =>
    match tget m p.logical with
    | some cur => if betterCopy p cur then tset m p.logical p else m
    | none => tset m p.logical p) []

/-- The place of a programmed grain. -/
def Programmed.entry (p : Programmed) : MapEntry :=
  { lost := false, slc := p.slc, ch := p.ch, target := p.target, block := p.block, page := p.page, plane := p.plane }

/-- The trims of the journal replayed (R592). -/
def replayTrims (best : Tab Programmed) (j : List JournalRec) : Tab Programmed :=
  best.filter (fun e => !j.any (fun r => match r with
    | .trim g q => g == e.1 && decide (e.2.seq < q)
    | _ => false))

/-- MAP_REBUILD (R592): of a Badger without a valid CLEAN anchor. -/
def mapRebuildSt (badger : Nat) (s : State) : State :=
  let x := s.badger badger
  if x.disabled ∨ x.loaded ∨ x.clean.isSome then s
  else
    let best : Tab Programmed := replayTrims (rebuiltMap x.media) x.journal
    let seqs := (x.media.filter (·.crcOk)).map (·.seq) ++ x.journal.map (fun r => match r with
      | .trim _ q => q | .tensor _ _ q => q | .removed _ q => q)
    let y : Badger := { x with map := best.map (fun e => (e.1, e.2.entry)), seq := seqs.foldl max 0 + 1, loaded := true }
    let y := y.supers.foldl (fun y b =>
      ((List.range y.stripes).filter (y.wantsParity b)).foldl (fun y st =>
        s.writeParity y ((y.supers.find? (fun c => c.id == b.id)).getD b) st) y) y
    let s := s.setBadger badger y
    s.setBadger badger { y with slcTarget := s.slcTarget badger }

def execMapRebuild (badger : Nat) (s : State) : Out := .next (mapRebuildSt badger s)

/-- CHECKPOINT_LOAD (R591): the map and SEQ of the checkpoint; the anchor is invalid from then on. -/
def checkpointLoadSt (badger : Nat) (s : State) : State :=
  let x := s.badger badger
  if x.disabled ∨ x.loaded then s
  else match x.clean with
    | none => s
    | some (map, seq) =>
      let s := s.setBadger badger { x with map, seq, clean := none, loaded := true }
      s.setBadger badger { s.badger badger with slcTarget := s.slcTarget badger }

def execCheckpointLoad (badger : Nat) (s : State) : Out := .next (checkpointLoadSt badger s)

/-- The tensor records a journal leaves: the last of each index, unless removed (R589). -/
def lastTensors (j : List JournalRec) : Tab Tensor :=
  j.foldl (fun m r => match r with
    | .trim _ _ => m
    | .tensor i t _ => tset m i t
    | .removed i _ => tdel m i) []

/-- MAP_READY (R589, R593): the tensors of SEALED tenancies are LIVE again without an owner context, every other grain is trimmed,
and NF_STATUS.MAP_READY is set. -/
def mapReadySt (badger : Nat) (s : State) : State :=
  let x := s.badger badger
  if x.disabled ∨ !x.loaded ∨ x.mapReady then s
  else
    let back := (lastTensors x.journal).filter (fun e => (s.ten e.2.tenancy).state == 1)
    let s := back.foldl (fun s e =>
      { s with tensors := tset s.tensors e.1 { e.2 with state := 1, ownerCtx := noCtx }, tensorGen := tset s.tensorGen e.1 e.2.gen }) s
    let keep := s.tensors.flatMap (fun e =>
      if e.2.state ≠ 0 ∧ e.2.tier = 3 then
        ((grainsOf e.2.loc e.2.stored).filter (fun g => g.1 == badger)).map (·.2)
      else [])
    let y := ((x.map.map (·.1)).filter (fun g => !keep.contains g)).foldl Badger.trim x
    s.setBadger badger { y with mapReady := true }

def execMapReady (badger : Nat) (s : State) : Out := .next (mapReadySt badger s)

end Sys2Proof.Machine
end

