-- ==== Sys2Proof/Machine/Hosted.lean ====
section
/-!
DEFINITION. Hosted memory: extents, leases, the directory and its recalls (R405–R445, R679). Contents of an extent are held
at its extent-space address (assumption 12).
-/

namespace Sys2Proof.Machine

/-- EXT_STATUS (Table 17.11). -/
def extStatus : Nat := 0x0601088

/-! ### Entries -/

/-- A FREE extent. -/
def Extent.free : Extent :=
  { state := 0, mirrored := false, revert := false, paged := false, hbmCache := false, tenancy := 0, primaryDie := 0
    homeDen := 0, leaseMs := 0, ddrPages := 0, ddrBase := 0, mirrorBase := 0, flashBase := 0, fenceFrame := none
    chans := [], lost := [], resident := [], stored := [], leaving := [] }

/-- An extent. -/
def State.extent (s : State) (e : Nat) : Extent := tgetD s.extents e .free

/-- An extent replaced. -/
def State.setExtent (s : State) (e : Nat) (x : Extent) : State := { s with extents := tset s.extents e x }

/-- A lease nobody has been granted. -/
def Lease.none : Lease := { state := .noAccess, expiry := 0, fenceFrame := 0 }

/-- The lease of a host on an extent. -/
def State.lease (s : State) (e h : Nat) : Lease := tgetD s.leases (e * 256 + h) .none

/-- A lease replaced. -/
def State.setLease (s : State) (e h : Nat) (l : Lease) : State := { s with leases := tset s.leases (e * 256 + h) l }

/-- A host's DIR_HOST entry (R409). -/
def State.dirHost (s : State) (h : Nat) : Nat := (s.stored (0x0600000 + 8 * h)).toNat

/-- The H-port of a host. -/
def State.hostPort (s : State) (h : Nat) : Nat := bits (s.dirHost h) 19 16

/-- The host whose valid entry a request's port and requester identifier match (R409). -/
def State.hostOf (s : State) (port rid : Nat) : Option Nat :=
  (List.range 256).find? fun h =>
    bit (s.dirHost h) 31 && s.hostPort h == port && bits (s.dirHost h) 15 0 == rid

/-- Set range of a tenancy in a slice: first set and number of sets (R423). -/
def State.dirSets (s : State) (t den : Nat) : Nat × Nat :=
  let v := s.liveReg t (0x0600800 + 8 * den)
  (bits v 9 0 * 256, bits v 25 16 * 256)

/-- The set and tag of line L of a tenancy's extent in its home slice (R424). -/
def State.dirPlace (s : State) (t den line : Nat) : Nat × Nat :=
  let r := s.dirSets t den
  (r.1 + line % (max r.2 1), line / (max r.2 1))

/-- The key of a way. -/
def wayKey (den set way : Nat) : Nat := (den * 131072 + set) * 16 + way

/-- The line an entry of a tenancy tracks. -/
def State.entryLine (s : State) (t key : Nat) (e : DirEntry) : Nat :=
  let set := key / 16 % 131072
  let r := s.dirSets t (key / 16 / 131072)
  e.tag * r.2 + (set - r.1)

/-- The extent of a line number (R424). -/
def lineExt (line : Nat) : Nat := line / 2 ^ 24

/-- The device-memory address of a line of extent space (DESIGN CHOICE, assumption 12). -/
def lineAddr (line : Nat) : Nat := regionBase 2 + line * 64

/-- The key of the way that holds a line, if it has one. -/
def State.findWay (s : State) (line : Nat) : Option Nat :=
  let x := s.extent (lineExt line)
  let p := s.dirPlace x.tenancy x.homeDen line
  (List.range 16).findSome? fun w =>
    match tget s.dir (wayKey x.homeDen p.1 w) with
    | some e => if e.state ≠ 0 ∧ e.tag = p.2 then some (wayKey x.homeDen p.1 w) else none
    | none => none

/-- An entry in state I. -/
def DirEntry.invalid : DirEntry := { state := 0, coarse := false, tag := 0, group := 0, vector := 0, grant := 0 }

/-- The entry of a line; state I when no way holds it. -/
def State.entry (s : State) (line : Nat) : DirEntry :=
  match s.findWay line with
  | some k => tgetD s.dir k .invalid
  | none => .invalid

/-- A free way of a line's set. -/
def State.freeWay (s : State) (line : Nat) : Option Nat :=
  let x := s.extent (lineExt line)
  let p := s.dirPlace x.tenancy x.homeDen line
  (List.range 16).findSome? fun w =>
    if (tgetD s.dir (wayKey x.homeDen p.1 w) .invalid).state = 0 then some (wayKey x.homeDen p.1 w) else none

/-- Rack Time bits [33:23] (R430). -/
def State.grantTime (s : State) : Nat := bits s.time.now 33 23

/-- The victim of an overflow: the oldest way in state S or E, the lower way on a tie (R437). -/
def State.victim (s : State) (line : Nat) : Option Nat :=
  let x := s.extent (lineExt line)
  let p := s.dirPlace x.tenancy x.homeDen line
  let age := fun k => (s.grantTime + 2048 - (tgetD s.dir k .invalid).grant % 2048) % 2048
  let ks := ((List.range 16).map (wayKey x.homeDen p.1)).filter (fun k =>
    let e := tgetD s.dir k .invalid
    e.state == 1 || e.state == 2)
  bestBy (fun a b => decide (age b < age a)) ks

/-- Hosts that an entry marks: the owner in E, the sharers in exact S, and in coarse S every host of a marked group whose
lease on the extent is HELD or FENCED (R432). -/
def State.marked (s : State) (line : Nat) (e : DirEntry) : List Nat :=
  let v := e.vector.toNat
  if e.state = 2 then [v % 256]
  else if e.state ≠ 1 then []
  else if !e.coarse then ((List.range 16).filter (bit v)).map (fun i => 16 * e.group + i)
  else (List.range 256).filter fun h =>
    bit v (h / 16) && (match (s.lease (lineExt line) h).state with | .held | .fenced => true | _ => false)

/-- An S entry of one host or an E entry of an owner. -/
def State.newEntry (s : State) (line st h : Nat) : DirEntry :=
  let x := s.extent (lineExt line)
  { state := st, coarse := false, tag := (s.dirPlace x.tenancy x.homeDen line).2, group := if st = 1 then h / 16 else 0
    vector := if st = 1 then BitVec.ofNat 16 (2 ^ (h % 16)) else BitVec.ofNat 16 h, grant := s.grantTime }

/-- A sharer added: the entry turns COARSE when the sharer lies outside GROUP (R426). -/
def State.addSharer (s : State) (e : DirEntry) (h : Nat) : DirEntry :=
  if e.coarse then { e with vector := e.vector ||| BitVec.ofNat 16 (2 ^ (h / 16)), grant := s.grantTime }
  else if e.group = h / 16 then { e with vector := e.vector ||| BitVec.ofNat 16 (2 ^ (h % 16)), grant := s.grantTime }
  else { e with coarse := true, vector := BitVec.ofNat 16 (2 ^ e.group + 2 ^ (h / 16)), group := 0, grant := s.grantTime }

/-- A sharer removed from an exact entry; I when none is left; a coarse entry is unchanged (Table 10.7, EVICT). -/
def dropSharer (e : DirEntry) (h : Nat) : DirEntry :=
  if e.coarse then e
  else if e.group = h / 16 then
    let v := e.vector &&& ~~~(BitVec.ofNat 16 (2 ^ (h % 16)))
    if v = 0 then .invalid else { e with vector := v }
  else e

/-- The entry of a line replaced; state I frees its way. -/
def State.setEntry (s : State) (line : Nat) (e : DirEntry) : State :=
  match s.findWay line with
  | some k => if e.state = 0 then { s with dir := tdel s.dir k } else { s with dir := tset s.dir k e }
  | none =>
    if e.state = 0 then s
    else match s.freeWay line with
      | some k => { s with dir := tset s.dir k e }
      | none => s

/-! ### Data, poison and caches -/

/-- POISON_LINES of an extent. -/
def State.poisonLines (s : State) (e : Nat) : Nat :=
  (s.poison.filter (fun l => decide (lineOf (regionBase 2) + e * 2 ^ 24 ≤ l ∧ l < lineOf (regionBase 2) + (e + 1) * 2 ^ 24))).length

/-- A line poisoned with its error record (R441, R442): code 1 at expiry, 2 at a drain; INFO is the host. -/
def State.poisonLine (s : State) (line code host : Nat) : State :=
  let x := s.extent (lineExt line)
  let l := lineOf (lineAddr line)
  let s' := if s.poison.contains l then s else { s with poison := insertBy (fun a b => decide (a < b)) l s.poison }
  s'.logError 1 8 code (some x.tenancy) x.homeDen (logical (lineAddr line)) 1 (lineExt line) host

/-- The part of a den-cache slice that a tenancy holds (TEN_DC_ALLOT): its sets, and its ways in each. -/
def State.denPart (s : State) (t den : Nat) : Nat × Nat :=
  (bits (s.liveReg t (0x0040140 + 16 * den)) 14 8 * 256, (onBits (s.liveReg t (0x0040148 + 16 * den))).length)

/-- Bytes of line data in a tenancy's HBM cache on a die, which is 8-way set-associative (R417): its sets. -/
def State.hbmcSets (s : State) (t die : Nat) : Nat := s.hbmcBytes t die * 15 / 16 / 64 / 8

/-- The set of an extent's HBM cache that a line falls into; an extent without FLAGS.HBM_CACHE, or without a cache, has none (R417). -/
def State.hbmcSet (s : State) (x : Extent) (line : Nat) : Option Nat :=
  let n := s.hbmcSets x.tenancy x.primaryDie
  if x.hbmCache ∧ n ≠ 0 then some (Config.hbmcSet line % n) else none

/-- The stack on which a set of an HBM cache lies: consecutive sets go round its granules in ascending order (R417), which are the last of the
allotment (DESIGN CHOICE, assumption 11). -/
def State.hbmcStack (s : State) (t die set : Nat) : Nat :=
  let r := s.hbmAllot t die
  stackOf (r.1 + r.2 - s.hbmcBytes t die + set % (s.hbmcBytes t die / granule) * granule)

/-- The stack whose HBM serves a line: it misses in the den cache and hits in the HBM cache (R416). -/
def State.hbmServed (s : State) (line : Nat) : Option Nat :=
  let x := s.extent (lineExt line)
  if s.denCache.any (fun c => c.1 == line) || !s.hbmCache.contains line then none
  else (s.hbmcSet x line).map (s.hbmcStack x.tenancy x.primaryDie)

/-- A line used in the HBM cache of its extent, most recent first: the least recently used of 8 ways leaves a full set (R417). -/
def State.useHbmc (s : State) (line : Nat) : State :=
  let x := s.extent (lineExt line)
  match s.hbmcSet x line with
  | none => s
  | some k =>
    let rest := s.hbmCache.filter (· != line)
    let mates := rest.filter (fun l =>
      let y := s.extent (lineExt l)
      y.tenancy == x.tenancy && y.primaryDie == x.primaryDie && s.hbmcSet y l == some k)
    { s with hbmCache := line :: rest.filter (fun l => !(mates.drop 7).contains l) }

/-- A line about to be written: what DDR holds of it while it stands dirty in the den cache (R632). -/
def State.keepUnder (s : State) (line : Nat) : State :=
  if s.denCache.contains (line, true) then s
  else { s with ddrUnder := tset (s.ddrUnder.filter (fun u => s.denCache.contains (u.1, true))) line (s.read (lineAddr line) 64) }

/-- A line brought into the den cache, in the sets and ways of its tenancy (R416), as dirty by a write, and used in the HBM cache on a miss.
Which way leaves a full set is hardware-private (assumption 12). -/
def State.touchLine (s : State) (line : Nat) (dirty : Bool) : State :=
  let x := s.extent (lineExt line)
  let was := s.denCache.any (fun c => c.1 == line)
  let keepDirty := dirty || s.denCache.any (fun c => c.1 == line && c.2)
  let mine := fun (c : Nat × Bool) => (s.extent (lineExt c.1)).tenancy == x.tenancy && (s.extent (lineExt c.1)).homeDen == x.homeDen
  let rest := s.denCache.filter (fun c => c.1 != line)
  let (sets, ways) := s.denPart x.tenancy x.homeDen
  let mates := (rest.filter (fun c => mine c && Config.denSet c.1 % sets == Config.denSet line % sets)).map (·.1)
  let gone := if mates.length < ways then none else mates[Config.denVictim mates line % mates.length]?
  let den := if sets * ways = 0 then rest else (line, keepDirty) :: rest.filter (fun c => some c.1 != gone)
  if was then { s with denCache := den } else { s with denCache := den }.useHbmc line

/-! ### Paged extents (R418, R419) -/

/-- The flash of a page takes no write (R585, R586, R603). -/
def State.pageReadOnly (s : State) (x : Extent) (page : Nat) : Bool :=
  s.refusesWrite x.tenancy [(x.flashBase + page * 2 ^ 14, 2 ^ 14)]

/-- A page becomes resident as the most recently used one; the least recently used clean page leaves if DDR_PAGES pages are
resident. None when every resident page is dirty (DEDUCED, assumption 71). -/
def Extent.admitPage (x : Extent) (page : Nat) : Option Extent :=
  if x.resident.length < x.ddrPages then some { x with resident := (page, false) :: x.resident }
  else match x.resident.reverse.find? (fun p => !p.2) with
    | some v => some { x with resident := (page, false) :: x.resident.filter (fun p => p.1 != v.1) }
    | none => none

/-- A resident page used, and marked dirty by a write (DEDUCED, assumption 71). -/
def Extent.usePage (x : Extent) (page : Nat) (dirty : Bool) : Extent :=
  match x.resident.find? (fun p => p.1 == page) with
  | some p => { x with
      resident := (page, p.2 || dirty) :: x.resident.filter (fun q => q.1 != page)
      leaving := if dirty then x.leaving.filter (· != page) else x.leaving }
  | none => x

/-! ### Requests and answers -/

/-- A read. -/
def ReqClass.reads : ReqClass → Bool
  | .rdS | .rdA | .rdI | .devRd => true
  | _ => false

/-- A request of the den's own engines for a work. -/
def ownReq (cls : ReqClass) (w line : Nat) : LineReq :=
  { cls, port := 0, rid := 0, host := 256, line, offset := 0, full := false, data := [], own := some w }

/-- A request under R408: a read returns poison, a write is discarded; counted and reported. -/
def State.deny (s : State) (port rid dpa : Nat) (read : Bool) : State :=
  ((s.bump (0x0601100 + 8 * port) 1).setFlag extStatus 10).emit (.cxl port rid dpa none read)

/-- The answer to a request of a host: data of the line, with its poison, or a completion. -/
def State.answer (s : State) (q : LineReq) : State :=
  if q.cls.reads then
    let l := lineOf (lineAddr q.line)
    if s.poison.contains l then s.emit (.cxl q.port q.rid (q.line * 64) none true)
    else s.emit (.cxl q.port q.rid (q.line * 64) (some (s.readDev (lineAddr q.line) 64)) false)
  else s.emit (.cxl q.port q.rid (q.line * 64) none false)

/-- The bytes a write carries. -/
def State.applyWrite (s : State) (q : LineReq) : State :=
  if q.full then s.writeLine (lineAddr q.line) (slice q.data 0 64)
  else s.writeLine (lineAddr q.line + q.offset % 64) (q.data.take (64 - q.offset % 64))

/-- The entry a request leaves, from the entry it found and, for E, whether the former owner kept a copy (Table 10.7). -/
def State.nextEntry (s : State) (q : LineReq) (e : DirEntry) (kept : Bool) : DirEntry :=
  let h := q.host
  match e.state, q.cls with
  | 0, .rdS => s.newEntry q.line 1 h
  | 0, .rdA => s.newEntry q.line 2 h
  | 0, .wrS => s.newEntry q.line 1 h
  | 0, _ => .invalid
  | 1, .rdS => s.addSharer e h
  | 1, .rdA => s.newEntry q.line 2 h
  | 1, .wrI => .invalid
  | 1, .wrS => s.newEntry q.line 1 h
  | 1, .evict => dropSharer e h
  | 1, .devWr => .invalid
  | 1, _ => e
  | 2, .rdS =>
    let o := e.vector.toNat % 256
    if h = o then s.newEntry q.line 1 o
    else if kept then s.addSharer (s.newEntry q.line 1 o) h else s.newEntry q.line 1 h
  | 2, .rdA => s.newEntry q.line 2 h
  | 2, .wrI => .invalid
  | 2, .wrS => s.newEntry q.line 1 h
  | 2, .evict => if h = e.vector.toNat % 256 then .invalid else e
  | 2, .devWr => .invalid
  | _, _ => e

/-- The back-invalidate Table 10.7 asks for: its kind (0 BISnpInv, 1 BISnpData, 2 BISnpCur) and the hosts; none where the table
has a dash. -/
def State.needsRecall (s : State) (q : LineReq) (e : DirEntry) : Option (Nat × List Nat) :=
  let V := s.marked q.line e
  let others := V.filter (· != q.host)
  match e.state, q.cls with
  | 1, .rdA | 1, .wrI | 1, .wrS => if others = [] then none else some (0, others)
  | 1, .devWr => if V = [] then none else some (0, V)
  | 2, .rdS => if others = [] then none else some (1, others)
  | 2, .rdA | 2, .wrI | 2, .wrS => if others = [] then none else some (0, others)
  | 2, .rdI => if others = [] then none else some (2, others)
  | 2, .devRd => if V = [] then none else some (2, V)
  | 2, .devWr => if V = [] then none else some (0, V)
  | _, _ => none

/-- The effect of a request that no recall is left to wait for (Table 10.7, R431): its write, its entry, its answer. -/
def State.complete (s : State) (q : LineReq) (e : DirEntry) (kept : Bool) : State :=
  let s := if q.cls = .wrI ∨ q.cls = .wrS ∨ q.cls = .devWr then (s.keepUnder q.line).applyWrite q else s
  let s := (s.setEntry q.line (s.nextEntry q e kept)).touchLine q.line (!q.cls.reads && q.cls != .evict)
  match q.cls with
  | .devRd | .devWr => s
  | _ => s.answer q

/-- Recall records of a tenancy in use in a den, and how many it has (R427). -/
def State.recordsUsed (s : State) (t den : Nat) : Nat :=
  (s.recalls.filter (fun r =>
    (s.extent (lineExt r.line)).tenancy == t && (s.extent (lineExt r.line)).homeDen == den)).length

def State.recordsHeld (s : State) (t den : Nat) : Nat := (s.dirSets t den).2 / 256 * 2

/-- A free recall record of the tenancy of a line, in its den (R427). -/
def State.recordFree (s : State) (line : Nat) : Bool :=
  let x := s.extent (lineExt line)
  decide (s.recordsUsed x.tenancy x.homeDen < s.recordsHeld x.tenancy x.homeDen)

/-- A recall starts (R432): the entry enters state B, every back-invalidate is sent, none to a host whose lease is NO_ACCESS or
EXPIRED (R434). -/
def State.startRecall (s : State) (line : Nat) (e : DirEntry) (hosts : List Nat) (kind : Nat) (q : Option LineReq)
    (device : Option (ReqClass × Nat)) (victim : Bool) : State :=
  let ext := lineExt line
  let live := hosts.filter fun h => match (s.lease ext h).state with | .held | .fenced => true | _ => false
  let s := s.setEntry line { e with state := 3 }
  let s := { s with recalls := s.recalls ++
    [{ line, prior := e, hosts, awaiting := live, shared := [], kind, request := q, device, victim }] }
  live.foldl (fun s h => s.emit (.bisnp (s.hostPort h) h (line * 64) kind)) s

/-- The line's recall. -/
def State.recallOf (s : State) (line : Nat) : Option Recall := s.recalls.find? (fun r => r.line == line)

/-- A request that finds its line free of recalls and its page resident is served, or starts the recall or the overflow recall it
needs and waits (R428, R429, R435, R437). -/
def State.serveDir (s : State) (q : LineReq) : State :=
  let x := s.extent (lineExt q.line)
  let e := s.entry q.line
  let wait : State := { s with waiting := s.waiting ++ [q] }
  let room := s.recordFree q.line
  match s.needsRecall q e with
  | some (kind, hs) =>
    if room then
      (match q.own with
       | some w => s.startRecall q.line e hs kind none (some (q.cls, w)) false
       | none => s.startRecall q.line e hs kind (some q) none false)
    else wait
  | none =>
    if let some w := q.own then { s with recalled := (w, q.line) :: s.recalled }
    else if e.state = 0 ∧ (q.cls = .rdS ∨ q.cls = .rdA ∨ q.cls = .wrS) ∧ (s.freeWay q.line).isNone then
      match s.victim q.line with
      | some k =>
        if room then
          let v := tgetD s.dir k .invalid
          let l := s.entryLine x.tenancy k v
          { s.startRecall l v (s.marked l v) 0 none none true with waiting := s.waiting ++ [q] }
            |>.bump (0x0B00000 + 0x100 * x.tenancy + 32) 1
        else wait
      | none => wait
    else s.complete q e false

/-- A device access has taken its place in the order of its line and is still to be made: its work is not stalled (R24). -/
def State.granted (s : State) (line : Nat) : Bool :=
  s.recalled.any (fun r => r.2 == line && (decide (2 ^ 71 ≤ r.1) || s.works.any (fun x => x.id == r.1 && !x.stalled)))

/-- A request takes its turn at the directory: a device access granted to a stalled work asks again later. -/
def State.takeTurn (s : State) (line : Nat) : State := { s with recalled := s.recalled.filter (fun r => r.2 != line) }

/-- The units that serve a request: for a host's, the den-cache slice; the stack that holds the line in the HBM cache, if it is read
there (R416). A device access has passed the slice already. -/
def State.lineUnits (s : State) (q : LineReq) : List Nat :=
  (if q.own.isSome then [] else [denMap (s.extent (lineExt q.line)).homeDen]) ++ (s.hbmServed q.line).toList.map s.stackMap

/-- They serve it in a slot of the extent's tenancy (R63, R64, R67). -/
def State.denServes (s : State) (q : LineReq) : Bool := (s.lineUnits q).all (fun m => s.serves m (s.extent (lineExt q.line)).tenancy)

/-- A request at the home den (R24, R435): behind a recall, an access granted or an earlier waiting request of its line it waits, and so it
does outside its tenancy's slots; on a page that is not resident it waits for the page, except a page never written, which becomes resident
as zeros, and the case of R419. -/
def State.serve (s : State) (q : LineReq) : State :=
  let ext := lineExt q.line
  let x := s.extent ext
  let page := q.line % 2 ^ 24 / 256
  let wait : State := { s with waiting := s.waiting ++ [q] }
  if (s.recallOf q.line).isSome || s.waiting.any (fun r => r.line == q.line) || s.granted q.line || !s.denServes q then wait
  else
    let s := ((s.lineUnits q).foldl (fun s m => s.claim m x.tenancy) s).takeTurn q.line
    if !x.paged then s.serveDir q
    else
      let dirty := q.cls == .devWr || (!q.cls.reads && q.cls != .evict)
      if x.resident.any (fun p => p.1 == page) then (s.setExtent ext (x.usePage page dirty)).serveDir q
      else match x.admitPage page with
        | some x' => if x.stored.contains page then { s with waiting := s.waiting ++ [q] } else (s.setExtent ext (x'.usePage page dirty)).serveDir q
        | none =>
          if s.pageReadOnly x page then
            (match q.own with
              | some w => { s with recalled := (w, q.line) :: s.recalled }
              | none => s.emit (.cxl q.port q.rid (q.line * 64) none q.cls.reads)).logError 1 4 7 (some x.tenancy)
                (4 * x.primaryDie) (logical (lineAddr q.line)) 1 ext 0x30
          else { s with waiting := s.waiting ++ [q] }

/-- The waiting requests are tried again in their order. -/
def State.serveWaiting (s : State) : State :=
  s.waiting.foldl (fun s q => s.serve q) { s with waiting := [] }

/-- A recall in which nobody is awaited any more ends (R435): the request that started it completes under Table 10.7; a
device access may now be made; a victim's or a fenced host's copies are gone. -/
def State.endRecall (s : State) (r : Recall) : State :=
  let s := { s with recalls := s.recalls.filter (fun x => x.line != r.line) }
  let kept := !r.shared.isEmpty
  match r.request, r.device with
  | some q, _ => s.complete q r.prior kept
  | none, some (cls, w) =>
    let q := ownReq cls w r.line
    { s.setEntry r.line (s.nextEntry q r.prior kept) with recalled := (w, r.line) :: s.recalled }
  | none, none =>
    s.setEntry r.line (if r.victim = true ∨ r.prior.state = 2 then DirEntry.invalid else r.hosts.foldl dropSharer r.prior)

/-- The walk of a fence at one line: behind the line's recall and the host's own requests that reached the den before the fence it waits; what the
host then holds is recalled, once a recall record is free (R427, R443). -/
def State.fenceLine (s : State) (f : Nat × Nat) : State :=
  let e := s.entry f.1
  if (s.recallOf f.1).isSome || s.waiting.any (fun q => q.line == f.1 && q.own.isNone && q.host == f.2) then s
  else if (s.marked f.1 e).contains f.2 = false then { s with fencing := s.fencing.erase f }
  else if s.recordFree f.1 then { s with fencing := s.fencing.erase f }.startRecall f.1 e [f.2] 0 none none false
  else s

/-- The walks of fences go on. -/
def State.fenceWalk (s : State) : State := s.fencing.foldl State.fenceLine s

/-- Ended recalls end and what waits follows, until no recall is left that awaits nobody. -/
def State.settleN (s : State) : (fuel : Nat) → State
  | 0 => s
  | fuel + 1 =>
    let done := s.recalls.filter (fun r => r.awaiting.isEmpty)
    if done.isEmpty then s else State.settleN ((done.foldl State.endRecall s).serveWaiting.fenceWalk) fuel

/-- Each round ends at least one recall, serves a waiting request or starts a recall of a fence, so twice their number of rounds is
enough. -/
def State.settle (s : State) : State :=
  let s := s.fenceWalk
  s.settleN (2 * (s.recalls.length + s.waiting.length + s.fencing.length) + 2)

/-- What waits is tried again, and what follows: at the start of a slot, and when a granted access has been made. -/
def State.resume (s : State) : State := s.serveWaiting.settle

/-- A request at the home den, with what follows it. -/
def State.homeReq (s : State) (q : LineReq) : State := (s.serve q).settle

/-- A host's CXL.mem request on a port (R406–R409, R626): its host, its line, its lease. `f` serves a request of a host with a
HELD lease; a request of a fenced host is served under R408 (R443). -/
def State.hostReq (s : State) (port rid dpa : Nat) (read : Bool) (f : Nat → State → State) : State :=
  s.arrive port 1 fun s =>
    if s.ideBlocked port then s.deny port rid dpa read
    else match s.hostOf port rid with
      | none => s.deny port rid dpa read
      | some h =>
        if 2 ^ 43 ≤ dpa then s.deny port rid dpa read
        else if (s.extent (dpa / 2 ^ 30)).state = 1 ∧ (s.lease (dpa / 2 ^ 30) h).state = .held ∧
            (s.ten (s.extent (dpa / 2 ^ 30)).tenancy).fatal = false then f h s
        else s.deny port rid dpa read

/-- The lease line of a DPA (Table 10.1). -/
def leaseExt (dpa : Nat) : Option Nat :=
  if 2 ^ 43 ≤ dpa ∧ dpa < 2 ^ 43 + 64 * 8192 then some ((dpa - 2 ^ 43) / 64) else none

/-- The 64-byte lease record (Table 10.5). -/
def State.leaseRecord (s : State) (ext h : Nat) : Bytes :=
  let l := s.lease ext h
  let x := s.extent ext
  toLe 1 (match l.state with | .noAccess => 0 | .held => 1 | .fenced => 2 | .expired => 3) ++ toLe 1 (b2n x.revert) ++
    toLe 1 (b2n x.mirrored) ++ toLe 1 h ++ toLe 2 ext ++ toLe 2 0 ++
    toLe 8 (if l.state = .held then l.expiry else 0) ++ toLe 8 s.time.now ++ toLe 4 (s.poisonLines ext) ++ toLe 36 0

/-- The lease length in ns: LEASE_MS, 0 selecting 4,000 ms (Table 10.3). -/
def Extent.leaseNs (x : Extent) : Nat := (if x.leaseMs = 0 then 4000 else x.leaseMs) * 1000000

/-- A read of any class of a lease line (R420): it renews a HELD lease and returns the record. -/
def State.leaseLine (s : State) (port rid dpa ext : Nat) : State :=
  s.arrive port 1 fun s =>
    if s.ideBlocked port then s.deny port rid dpa true
    else match s.hostOf port rid with
      | none => s.deny port rid dpa true
      | some h =>
        let l := s.lease ext h
        let s := if l.state = .held then
            s.setLease ext h { l with expiry := s.time.now + (s.extent ext).leaseNs } else s
        s.emit (.cxl port rid dpa (some (s.leaseRecord ext h)) false)

def leaseReadSt (port rid dpa : Nat) (s : State) : State :=
  match leaseExt dpa with
  | some e => s.leaseLine port rid dpa e
  | none => s

def execLeaseRead (port rid dpa : Nat) (s : State) : Out := .next (leaseReadSt port rid dpa s)

/-- A MemRd of a class: a lease line has its own answer, any other line is served at its home den. -/
def State.memRd (s : State) (cls : ReqClass) (port rid dpa : Nat) : State :=
  match leaseExt dpa with
  | some e => s.leaseLine port rid dpa e
  | none => s.hostReq port rid dpa true fun h s =>
      s.homeReq { cls, port, rid, host := h, line := dpa / 64, offset := 0, full := true, data := [], own := none }

def execRdS (port rid dpa : Nat) (s : State) : Out := .next (s.memRd .rdS port rid dpa)
def execRdA (port rid dpa : Nat) (s : State) : Out := .next (s.memRd .rdA port rid dpa)
def execRdI (port rid dpa : Nat) (s : State) : Out := .next (s.memRd .rdI port rid dpa)

/-- A writeback of a host whose answer a recall of the line still awaits, whatever its lease (R433, R436). -/
def State.recallWriteback (s : State) (port rid dpa : Nat) : Option Nat :=
  match s.hostOf port rid with
  | some h =>
    match s.recallOf (dpa / 64) with
    | some r => if r.awaiting.contains h then some h else none
    | none => none
  | none => none

/-- A MemWr or MemWrPtl of a class. A write of a lease line is discarded (R420). -/
def State.memWr (s : State) (cls : ReqClass) (port rid dpa : Nat) (full : Bool) (data : Bytes) : State :=
  match (if s.carries port && s.portClass port == 1 then s.recallWriteback port rid dpa else none) with
  | some h =>
    let q : LineReq := { cls, port, rid, host := h, line := dpa / 64, offset := dpa % 64, full, data, own := none }
    (((s.keepUnder q.line).touchLine q.line true).applyWrite q).emit (.cxl port rid (q.line * 64) none false)
  | none =>
    match leaseExt dpa with
    | some _ => s.arrive port 1 fun s =>
        if s.ideBlocked port || (s.hostOf port rid).isNone then s.deny port rid dpa false else s.emit (.cxl port rid dpa none false)
    | none => s.hostReq port rid dpa false fun h s =>
        s.homeReq { cls, port, rid, host := h, line := dpa / 64, offset := dpa % 64, full, data, own := none }

def execWrI (port rid dpa : Nat) (full : Bool) (data : Bytes) (s : State) : Out :=
  .next (s.memWr .wrI port rid dpa full data)
def execWrS (port rid dpa : Nat) (full : Bool) (data : Bytes) (s : State) : Out :=
  .next (s.memWr .wrS port rid dpa full data)

/-- A MemClnEvct. No cached state of a lease line is ever granted, so that one has no effect (R420). -/
def evictSt (port rid dpa : Nat) (s : State) : State :=
  if (leaseExt dpa).isSome then s.arrive port 1 fun s =>
    if s.ideBlocked port || (s.hostOf port rid).isNone then s.deny port rid dpa false else s.emit (.cxl port rid dpa none false)
  else s.hostReq port rid dpa false fun h s =>
    s.homeReq { cls := .evict, port, rid, host := h, line := dpa / 64, offset := 0, full := true, data := [], own := none }

def execEvict (port rid dpa : Nat) (s : State) : Out := .next (evictSt port rid dpa s)

/-- MemSpecRd is accepted and has no effect (R407). -/
def execMemSpecRd (port _rid _dpa : Nat) (s : State) : Out := .next (s.arrive port 1 id)

/-- A host's answer to a back-invalidate (R433): it is awaited no longer; BIRspS and BIRspE say that it kept a copy. -/
def State.biRsp (s : State) (port rid dpa : Nat) (kept : Bool) : State :=
  s.arrive port 1 fun s =>
    match s.hostOf port rid, s.recallOf (dpa / 64) with
    | some h, some r =>
      if r.awaiting.contains h then
        let r' := { r with awaiting := r.awaiting.filter (· != h), shared := if kept then h :: r.shared else r.shared }
        State.settle { s with recalls := s.recalls.map (fun (x : Recall) => if x.line = r.line then r' else x) }
      else s
    | _, _ => s

def execBirspi (port rid dpa : Nat) (s : State) : Out := .next (s.biRsp port rid dpa false)
def execBirsps (port rid dpa : Nat) (s : State) : Out := .next (s.biRsp port rid dpa true)

/-- BIRspE: the host keeps the line exclusive. -/
def birspeSt (port rid dpa : Nat) (s : State) : State := s.biRsp port rid dpa true

def execBirspe (port rid dpa : Nat) (s : State) : Out := .next (birspeSt port rid dpa s)

/-! ### Device accesses to extent space (R449, R466, R471) -/

/-- What a device access to a line of extent space meets. -/
inductive DevLine where
  | ready (s : State)
  | blocked (s : State)

/-- A line's page cannot be brought in: its store is read-only and no resident page is clean (R419). -/
def State.pageDead (s : State) (line : Nat) : Bool :=
  let x := s.extent (lineExt line)
  s.pageReadOnly x (line % 2 ^ 24 / 256) && (x.admitPage (line % 2 ^ 24 / 256)).isNone

/-- The caches as a device access of a class uses them (R416). -/
def State.devTouch (s : State) (cls : ReqClass) (line : Nat) : State :=
  (if cls = .devWr then s.keepUnder line else s).touchLine line (cls == .devWr)

/-- A device access of a class by a work takes its place among the requests of its line (R24): it is ready when it has been granted, or
when nothing is before it and Table 10.7 asks for no back-invalidate; else it waits for its turn, its recall or its page. The caches are used as
by a host's (R416) (DEDUCED, assumption 69). -/
def State.devLine (s : State) (cls : ReqClass) (w line : Nat) : DevLine :=
  if s.recalled.contains (w, line) && (!s.pageAbsent (lineAddr line) || s.pageDead line) then
    .ready (s.devTouch cls line)
  else if s.waiting.any (fun q => q.own == some w && q.line == line) then .blocked s
  else
    let s' := (s.serve (ownReq cls w line)).settle
    if s'.recalled.contains (w, line) then .ready (s'.devTouch cls line) else .blocked s'

/-- A work's marks on lines granted to it, used up, and what has waited behind them (DEDUCED, assumption 69). -/
def State.useRecalled (s : State) (w : Nat) : State :=
  let s' : State := { s with recalled := s.recalled.filter (fun r => r.1 != w), waiting := s.waiting.filter (fun q => q.own != some w) }
  if s.recalled.any (fun r => r.1 == w) then s'.resume else s'

/-! ### Extent commands (Table 10.4) -/

/-- The extent image at 0x060_1000 (Table 10.3). -/
def State.extImage (s : State) (e : Nat) : Bytes :=
  let x := s.extent e
  let access := (List.range 256).foldl (fun n h =>
    match (s.lease e h).state with | .held | .fenced => n + 2 ^ h | _ => n) 0
  toLe 1 x.state ++ toLe 1 (b2n x.mirrored) ++ toLe 1 (b2n x.revert) ++ toLe 1 (b2n x.paged + 2 * b2n x.hbmCache) ++
    toLe 2 x.tenancy ++ toLe 1 x.primaryDie ++ toLe 1 x.homeDen ++ toLe 4 x.leaseMs ++ toLe 4 x.ddrPages ++
    toLe 8 (if x.state = 0 then 0 else logical x.ddrBase) ++ toLe 8 (if x.mirrored then logical x.mirrorBase else 0) ++
    toLe 8 (if x.paged then logical x.flashBase else 0) ++ toLe 4 (s.poisonLines e) ++ toLe 20 0 ++ toLe 32 access ++ toLe 32 0

/-- EXT_CMD READ (R671). -/
def extReadSt (mp : MgmtPort) (ext : Nat) (s : State) : State :=
  s.command mp .ext (.extRead mp ext) fun s => s.loadImage 0x0601000 (s.extImage ext) 16

def execExtRead (mp : MgmtPort) (ext : Nat) (s : State) : Out := .next (extReadSt mp ext s)

/-- The home den of R414: of the die's dens with directory sets of the tenancy, the one home to the fewest extents, the lowest
on a tie; none without sets. -/
def State.pickDen (s : State) (t die : Nat) : Option Nat :=
  let homes := fun d => (s.extents.filter (fun e => e.2.state != 0 && e.2.homeDen == d)).length
  let dens := ([0, 1, 2, 3].map (· + 4 * die)).filter (fun d => (s.dirSets t d).2 != 0)
  bestBy (fun a b => decide (homes a < homes b)) dens

/-- The fields of a MAP image are legal (Table 10.3) (DEDUCED, assumption 13). -/
def mapImageOk (b : Bytes) : Bool :=
  let paged := bit (fld b 3 1) 0
  decide (fld b 1 1 ≤ 1 ∧ fld b 2 1 ≤ 1 ∧ fld b 3 1 < 4 ∧ fld b 4 2 < 512 ∧ fld b 6 1 ≤ 1) &&
    (fld b 8 4 == 0 || decide (1000 ≤ fld b 8 4 ∧ fld b 8 4 ≤ 60000)) &&
    (if paged then decide (1024 ≤ fld b 12 4 ∧ fld b 12 4 ≤ 65536) else fld b 12 4 == 0)

/-- The storage MAP reserves: primary copy, mirror copy, page store; none if one does not fit (R413). -/
def State.mapStorage (s : State) (x : Extent) : Option (State × Nat × Nat × Nat) :=
  match s.pick (s.ddrAllot x.tenancy x.primaryDie) x.ddrBytes granule with
  | none => none
  | some a =>
    let s := s.drawn
    match (if x.mirrored then s.pick (s.ddrAllot x.tenancy (1 - x.primaryDie)) x.ddrBytes granule else some 0) with
    | none => none
    | some m =>
      let s := s.drawn
      match (if x.paged then s.pick (flashSpace x.primaryDie) (2 ^ 30) (2 ^ 30) else some 0) with
      | none => none
      | some f => some (s.drawn, a, m, f)

/-- EXT_CMD MAP (R412–R415): CAUSE 3 for the state, 1 for a reservation that does not fit; an illegal image or a tenancy not BOUND
reserves nothing and is reported with CAUSE 1 (assumption 13). -/
def extMapSt (mp : MgmtPort) (ext : Nat) (s : State) : State :=
  s.command mp .ext (.extMap mp ext) fun s =>
    let b := s.image 0x0601000 16
    let x : Extent := { Extent.free with
      state := 1, mirrored := fld b 1 1 == 1, revert := fld b 2 1 == 1, paged := bit (fld b 3 1) 0
      hbmCache := bit (fld b 3 1) 1, tenancy := fld b 4 2, primaryDie := fld b 6 1, leaseMs := fld b 8 4
      ddrPages := fld b 12 4, chans := s.mem.ddrUp }
    if 8192 ≤ ext then s
    else if (s.extent ext).state ≠ 0 then s.cmdFail .ext 3
    else if mapImageOk b = false ∨ x.tenancy = 0 ∨ s.bound x.tenancy = false then s.cmdFail .ext 1
    else match s.pickDen x.tenancy x.primaryDie, s.mapStorage x with
      | some den, some (s', a, m, f) =>
        (s'.setExtent ext { x with homeDen := den, ddrBase := a, mirrorBase := m, flashBase := f }).zero
          (regionBase 2 + ext * 2 ^ 30) (2 ^ 30)
      | _, _ => s.cmdFail .ext 1

def execExtMap (mp : MgmtPort) (ext : Nat) (s : State) : Out := .next (extMapSt mp ext s)

/-- EXT_CMD GRANT. -/
def extGrantSt (mp : MgmtPort) (ext host : Nat) (s : State) : State :=
  s.command mp .ext (.extGrant mp ext host) fun s =>
    if (s.extent ext).state = 1 ∧ ((s.lease ext host).state = .noAccess ∨ (s.lease ext host).state = .expired) ∧ host < 256 then
      s.setLease ext host { state := .held, expiry := s.time.now + (s.extent ext).leaseNs, fenceFrame := 0 }
    else s.cmdFail .ext 3

def execExtGrant (mp : MgmtPort) (ext host : Nat) (s : State) : Out := .next (extGrantSt mp ext host s)

/-- Directory entries of an extent, by line. -/
def State.extLines (s : State) (ext : Nat) : List (Nat × DirEntry) :=
  let x := s.extent ext
  let r := s.dirSets x.tenancy x.homeDen
  (s.dir.filter (fun k => k.1 / 16 / 131072 == x.homeDen && decide (r.1 ≤ k.1 / 16 % 131072 ∧ k.1 / 16 % 131072 < r.1 + r.2))).filterMap
    fun k =>
      let l := s.entryLine x.tenancy k.1 k.2
      if lineExt l = ext ∧ k.2.state ≠ 0 then some (l, k.2) else none

/-- A host is fenced (R443): its lease is FENCED, and every line that it holds in the extent, or comes to hold by a request that reached the den
before, is recalled with BISnpInv. -/
def State.fence (s : State) (ext host : Nat) : State :=
  let s := s.setLease ext host { state := .fenced, expiry := 0, fenceFrame := s.frame }
  let lines := ((s.extLines ext).map (·.1) ++ ((s.waiting.filter (fun q => q.own.isNone && q.host == host && lineExt q.line == ext)).map
    (·.line))).eraseDups
  State.settle { s with fencing := s.fencing ++ lines.map (fun l => (l, host)) }

/-- EXT_CMD REVOKE. -/
def extRevokeSt (mp : MgmtPort) (ext host : Nat) (s : State) : State :=
  s.command mp .ext (.extRevoke mp ext host) fun s =>
    if (s.extent ext).state = 1 ∧ host < 256 then
      match (s.lease ext host).state with
      | .held => s.fence ext host
      | .expired => { s with leases := tdel s.leases (ext * 256 + host) }
      | _ => s.cmdFail .ext 3
    else s.cmdFail .ext 3

def execExtRevoke (mp : MgmtPort) (ext host : Nat) (s : State) : Out := .next (extRevokeSt mp ext host s)

/-- The extent is UNMAPPING and every HELD lease fenced (R443, R445). -/
def State.unmap (s : State) (ext : Nat) : State :=
  let held := (List.range 256).filter (fun h => (s.lease ext h).state = .held)
  let s := s.setExtent ext { s.extent ext with state := 2, fenceFrame := some s.frame }
  held.foldl (fun s h => s.fence ext h) s

/-- EXT_CMD UNMAP. -/
def extUnmapSt (mp : MgmtPort) (ext : Nat) (s : State) : State :=
  s.command mp .ext (.extUnmap mp ext) fun s => if (s.extent ext).state = 1 then s.unmap ext else s.cmdFail .ext 3

def execExtUnmap (mp : MgmtPort) (ext : Nat) (s : State) : Out := .next (extUnmapSt mp ext s)

/-! ### Expiry and drains (R422, R440–R445) -/

/-- Every recall of the extent that awaits a host counts it as answered BIRspI; a line it held in E is resolved under the
extent's POLICY (Table 10.9, R444). -/
def State.giveUp (s : State) (ext host code : Nat) : State :=
  let hit := s.recalls.filter (fun r => lineExt r.line == ext && r.awaiting.contains host)
  let s := hit.foldl (fun s r =>
    if r.prior.state = 2 ∧ (s.extent ext).revert = false then s.poisonLine r.line code host else s) s
  State.settle { s with recalls := s.recalls.map (fun (r : Recall) =>
      if lineExt r.line = ext then { r with awaiting := r.awaiting.filter (· != host) } else r) }

/-- The lines of a gone host (Table 10.9): E of the host is poisoned under POISON and becomes I, an exact sharer is removed, a
coarse entry stays. -/
def State.resolveHost (s : State) (ext host code : Nat) : State :=
  let s := (s.extLines ext).foldl (fun s le =>
    let e := le.2
    if e.state = 2 ∧ e.vector.toNat % 256 = host then
      (if (s.extent ext).revert then s else s.poisonLine le.1 code host).setEntry le.1 .invalid
    else if e.state = 1 ∧ e.coarse = false then s.setEntry le.1 (dropSharer e host)
    else s) { s with fencing := s.fencing.filter (fun f => !(lineExt f.1 == ext && f.2 == host)) }
  (s.giveUp ext host code).serveWaiting

/-- The lease has reached its expiry at a frame boundary that has passed (R55, R422). -/
def State.leaseDue (s : State) (ext host : Nat) : Bool :=
  (s.lease ext host).state == .held && decide ((s.lease ext host).expiry ≤ s.frame * 2 ^ 14)

/-- A lease expires (R422) (DEDUCED, assumption 70). -/
def leaseExpireSt (ext host : Nat) (s : State) : State :=
  if s.leaseDue ext host then
    ((s.setLease ext host { state := .expired, expiry := 0, fenceFrame := 0 }).resolveHost ext host 1).setFlag extStatus 9
  else s

def execLeaseExpire (ext host : Nat) (s : State) : Out := .next (leaseExpireSt ext host s)

/-- Fenced hosts whose drain bound, the second frame boundary after the fence, has passed (R444). -/
def State.drained (s : State) (ext : Nat) : List Nat :=
  (List.range 256).filter fun h => (s.lease ext h).state == .fenced && decide ((s.lease ext h).fenceFrame + 2 ≤ s.frame)

/-- An UNMAPPING extent at the end of its drain: lines dropped from directory and caches, reservations released to zero-fill,
flash pages trimmed, STATE FREE (R445). -/
def State.releaseExtent (s : State) (ext : Nat) : State :=
  let x := s.extent ext
  let lo := lineOf (regionBase 2) + ext * 2 ^ 24
  let s := (s.extLines ext).foldl (fun s le => s.setEntry le.1 .invalid) s
  let s := (s.freeStorage x.ddrBase x.ddrBytes x.tenancy).freeStorage x.mirrorBase (if x.mirrored then x.ddrBytes else 0) x.tenancy
  let s := if x.paged then (x.leaving.foldl (fun s p => s.dropWrite (pageReq ext p)) s).trim x.flashBase (2 ^ 30) else s
  { s with
    extents := tdel s.extents ext
    leases := s.leases.filter (fun l => l.1 / 256 != ext)
    recalls := s.recalls.filter (fun r => lineExt r.line != ext)
    waiting := s.waiting.filter (fun q => lineExt q.line != ext)
    fencing := s.fencing.filter (fun f => lineExt f.1 != ext)
    denCache := s.denCache.filter (fun c => lineExt c.1 != ext)
    hbmCache := s.hbmCache.filter (fun c => lineExt c != ext)
    poison := s.poison.filter (fun l => !decide (lo ≤ l ∧ l < lo + 2 ^ 24)) }

/-- A drain ends at its frame boundary (R444, R445) (DESIGN CHOICE, assumption 1; DEDUCED, assumption 75). -/
def drainEndSt (ext : Nat) (s : State) : State :=
  let hs := s.drained ext
  let un := (s.extent ext).state == 2 &&
    (match (s.extent ext).fenceFrame with | some f => decide (f + 2 ≤ s.frame) | none => false)
  if hs = [] ∧ un = false then s
  else
    let s := hs.foldl (fun s h =>
      let s := (s.resolveHost ext h 2)
      { s with leases := tdel s.leases (ext * 256 + h) }) s
    let s := { s with lastDrain := ext }.setFlag extStatus 8
    if un then s.releaseExtent ext else s

def execDrainEnd (ext : Nat) (s : State) : Out := .next (drainEndSt ext s)

/-! ### The host table (R409, R679) -/

/-- DIR_HOST of a host that holds a lease HELD or FENCED on any extent is not changed: CMD_ERR with CAUSE 2. -/
def dirHostWriteSt (mp : MgmtPort) (host : Nat) (value : Reg) (s : State) : State :=
  s.setup mp fun s =>
    if 256 ≤ host then s
    else if s.leases.any (fun l => l.1 % 256 == host && (match l.2.state with | .held | .fenced => true | _ => false)) then
      s.cmdFail .ext 2
    else { s with regs := tset s.regs (0x0600000 + 8 * host) (value &&& 0x800FFFFF) }

def execDirHostWrite (mp : MgmtPort) (host : Nat) (value : Reg) (s : State) : Out := .next (dirHostWriteSt mp host value s)

/-! ### Paging (R418) -/

/-- A page of an extent: where its contents stand in the extent and on flash. -/
def pageAt (ext page : Nat) : Nat := regionBase 2 + ext * 2 ^ 30 + page * 2 ^ 14
def Extent.pageStore (x : Extent) (page : Nat) : Nat := x.flashBase + page * 2 ^ 14

/-- A page's contents come from flash (R418, R622); what cannot be read is poison (DESIGN CHOICE, assumption 117). -/
def State.fillPage (s : State) (x : Extent) (ext page : Nat) : State :=
  if s.flashLost (x.pageStore page) (2 ^ 14) then (List.range 256).foldl (fun s i => s.addPoison (lineOf (pageAt ext page) + i)) s
  else
    let b := s.flashRead x.tenancy (x.pageStore page) (2 ^ 14)
    (List.range 256).foldl (fun s i =>
      let a := pageAt ext page + 64 * i
      if s.denCache.contains (a % 2 ^ 48 / 64, true) then s else s.put a (slice b (64 * i) 64)) s

/-- The home die's Badgers have read a page in for a request that waits for it, in a frame of its tenancy on the die (R66); `ok` is false where neither
the reads of its grain nor its stripe gave it (R575). -/
def pageInDoneSt (ext page : Nat) (ok : Bool) (s : State) : State :=
  let x := s.extent ext
  let g := grainAt (x.pageStore page)
  if x.paged && !x.resident.any (fun p => p.1 == page) &&
      s.waiting.any (fun q => lineExt q.line == ext && q.line % 2 ^ 24 / 256 == page) then
    match x.admitPage page with
    | some x' =>
      match s.passDies (pageReq ext page) 0 x.tenancy (s.readDies [g]) with
      | .hold s => s
      | .go s =>
        let s := s.leaveAll (pageReq ext page)
        let s := if ok then s else s.loseGrain g
        ((s.setExtent ext x').fillPage x ext page).serveWaiting.settle
    | none => s
  else s

def execPageInDone (ext : Nat) (read : PageRead) (s : State) : Out := .next (pageInDoneSt ext read.page read.ok s)

/-- The least recently used dirty page of a resident list is the page. -/
def lruDirty (r : List (Nat × Bool)) (page : Nat) : Bool :=
  match r.reverse.find? (·.2) with
  | some p => p.1 == page
  | none => false

/-- The page to be written out next: dirty and the least recently used one; a read-only store takes none (R586). -/
def State.pageDue (s : State) (x : Extent) (page : Nat) : Bool :=
  lruDirty (x.resident.filter (fun p => !x.leaving.contains p.1)) page && !s.pageReadOnly x page

/-- Tenancies with dirty pages to be written out in the background slots of a home den. -/
def State.pageQueued (s : State) (m : Nat) : List Nat :=
  (s.extents.filter (fun e => e.2.paged && denMap e.2.homeDen == m && e.2.resident.any (fun p => s.pageDue e.2 p.1))).map (·.2.tenancy)

/-- PAGE_WRITE_OUT: a dirty page, the least recently used one, is written out to the page store in background slots of its home den (R418), as
ciphertext through the Badger's write buffer; once it is programmed, the next command makes it clean, unless it has been written meanwhile. -/
def pageWriteOutSt (ext page : Nat) (s : State) : State :=
  let x := s.extent ext
  if !x.paged then s
  else if x.leaving.contains page then
    if s.flashBusy (pageReq ext page) then s
    else
      (s.setExtent ext { x with
        resident := x.resident.map (fun p => if p.1 = page then (page, false) else p), leaving := x.leaving.filter (· != page)
        stored := if x.stored.contains page then x.stored else page :: x.stored }).serveWaiting.settle
  else if s.pageDue x page && s.bgTurn (denMap x.homeDen) x.tenancy (s.fillQueued (denMap x.homeDen) ++ s.pageQueued (denMap x.homeDen)) then
    ((s.bgServed (denMap x.homeDen) x.tenancy).flashWrite x.tenancy (x.pageStore page) (s.sealFlash x.tenancy (x.pageStore page) (s.read (pageAt ext page) (2 ^ 14)))
      (pageReq ext page)).setExtent ext { x with leaving := page :: x.leaving }
  else s

def execPageWriteOut (ext page : Nat) (s : State) : Out := .next (pageWriteOutSt ext page s)

end Sys2Proof.Machine
end

