-- ==== Sys2Proof/Machine/Wire.lean ====
section
/-!
DEFINITION. Sending on the Wilfer Link: routes, messages, and the accesses to import windows as LOAD and STORE messages or
gateway segments (R512, R518–R535).
-/

namespace Sys2Proof.Machine

/-- MBR_RANK (R540). -/
def State.myRank (s : State) : Nat := (s.stored 0x080C000).toNat % 4096

/-- WL_ROUTE of a rank (R512). -/
def State.route (s : State) (rank : Nat) : Nat := (s.stored (0x0801000 + 8 * rank)).toNat

/-- The F-port a rank is reached by: a valid route whose port is up. -/
def State.routePort (s : State) (rank : Nat) : Option Nat :=
  let r := s.route rank
  let p := bits r 3 0
  if bit r 15 && s.power.devReady && (s.port p).up && s.portClass p == 2 && !s.held p then some p else none

/-- HOPS of a rank's route. -/
def State.hops (s : State) (rank : Nat) : Nat := bits (s.route rank) 11 8

/-- A message from this device (Table 13.3). -/
def State.mkMsg (s : State) (dst flags tag order target key ctx : Nat) (payload : Bytes) : Msg :=
  { flags, src := s.myRank, dst, tag, order, target, key, ctx, status := 0, atomicOp := 0, view := s.fabric.view
    reserved := 0, payload }

/-- The classes of Table 13.4 that an excluded device sends nothing on (R548): request and response. -/
def classSilenced (type : Nat) : Bool := decide (type < 0x10) || (decide (0x20 ≤ type) && type != 0x29)

/-- A message sent on a port. -/
def State.sendOn (s : State) (port type : Nat) (m : Msg) : State :=
  if s.fabric.excluded && classSilenced type then s else s.emit (.wilfer port type m)

/-- A message sent to a rank on its route; nothing is sent where the route fails. -/
def State.sendTo (s : State) (rank type : Nat) (m : Msg) : State :=
  match s.routePort rank with
  | some p => s.sendOn p type m
  | none => s

/-- The domain key (R525). -/
def State.domainKey (s : State) : Nat := (s.stored 0x080C008).toNat

/-- A FREE window. -/
def Window.free : Window :=
  { state := 0, homeDen := 0, tenancy := 0, rank := 0, region := 0, offset := 0, length := 0, key := 0 }

/-- A window. -/
def State.window (s : State) (w : Nat) : Window := tgetD s.fabric.windows w .free

/-- The window, flag alias and offset that an address of extent space names, if it names one (R518). -/
def windowOf (a : Nat) : Option (Nat × Bool × Nat) :=
  let e := a % 2 ^ 48 / 2 ^ 30
  if a / 2 ^ 48 = 2 ∧ 8192 ≤ e ∧ e < 16384 then some ((e - 8192) % 4096, decide (12288 ≤ e), a % 2 ^ 30) else none

/-- The fabric with its list of outstanding requests changed. -/
def State.setRequests (s : State) (rs : List WlReq) : State := { s with fabric := { s.fabric with requests := rs } }

/-- Segment padding: a store's data padded to a multiple of 16 bytes. -/
def pad16 (b : Bytes) : Bytes := b ++ List.replicate (roundup b.length 16 - b.length) 0

/-- The record of a request in a segment (Table 13.7). -/
def WlReq.record (r : WlReq) : Bytes :=
  toLe 1 (if r.kind = 1 then 1 else if r.flag then 3 else 2) ++ toLe 1 0 ++ toLe 2 r.len ++ toLe 4 0 ++ toLe 8 r.offset ++
    (if r.kind = 1 then [] else pad16 r.out)

/-- A stream of this device. -/
def State.stream (s : State) (ctx region rank : Nat) : Stream :=
  match s.fabric.streams.find? (fun x => x.ctx == ctx && x.region == region && x.rank == rank) with
  | some x => x
  | none => { ctx, region, rank, seq := 0, open_ := [], inFlight := [] }

/-- A stream replaced. -/
def State.setStream (s : State) (x : Stream) : State :=
  { s with fabric := { s.fabric with
      streams := x :: s.fabric.streams.filter (fun y => !(y.ctx == x.ctx && y.region == x.region && y.rank == x.rank)) } }

/-- The requests of the open segment, in record order. -/
def State.openReqs (s : State) (x : Stream) : List WlReq :=
  x.open_.filterMap (fun t => s.fabric.requests.find? (fun r => r.tag == t))

/-- The outcome a response status gives a descriptor, and a run (Table 13.5). -/
def wlOutcome (status : Nat) (run : Bool) : Nat :=
  match status with
  | 1 => if run then 0x32 else 0x22
  | 2 => 0x32
  | 3 => 0x31
  | _ => if run then 0x32 else 0x23

/-- The failing cell as R324 counts it. -/
def cellNo (who : Option (Nat × Nat)) : Nat := (who.map (fun c => 8 * c.1 + c.2)).getD 0

/-- A work makes its accesses as a run that has not ended. -/
def State.isRun (s : State) (w : Nat) : Bool := s.runs.any (fun r => r.w == w && r.ended.isNone)

/-- An access to another device that fails for good: it ends the run that made it (R324), or its work, whose earlier failure
stands. -/
def State.accessFails (s : State) (w : Nat) (who : Option (Nat × Nat)) (status : Nat) : State :=
  if s.isRun w then
    { s with runs := s.runs.map (fun r => if r.w == w && r.ended.isNone then { r with ended := some (status, cellNo who) } else r) }
  else
    { s with
      works := s.works.map (fun x =>
        if x.id == w && (match x.result with | some r => decide (r.status < 0x10) | none => true) then
          { x with result := some (Result.err status 0) }
        else x)
      slots := { s.slots with waits := s.slots.waits.filter (fun v => v.w != w) } }

/-- Stores of a pair of CTX and destination that have left and are not yet acknowledged (R530, R535). -/
def State.unacked (s : State) (ctx rank : Nat) : Nat :=
  (s.fabric.requests.filter (fun r => r.kind == 3 && r.ctx == ctx && r.rank == rank && r.sent && r.data.isNone)).length

/-- The next segment of an open list: records up to 4,096 bytes, ended early by a flag store or by a load, which its work waits
for (R533); with the bytes already taken (DEDUCED, assumption 74). -/
def segCut : (used : Nat) → List WlReq → List WlReq
  | _, [] => []
  | used, r :: t =>
    if 4096 < used + r.record.length then []
    else if r.kind = 1 ∨ r.flag = true then [r]
    else r :: segCut (used + r.record.length) t

/-- A stream's next segment closed and sent (R533), unless 8 are in flight already (R535) or the pair has too many stores
unacknowledged. -/
def State.closeSegment (s : State) (ctx region rank : Nat) : State :=
  let x := s.stream ctx region rank
  let cut := segCut 0 (s.openReqs x)
  let stores := (cut.filter (fun r => r.kind == 3)).length
  match cut with
  | [] => s
  | r :: _ =>
    if 8 ≤ x.inFlight.length ∨ 4096 < s.unacked ctx rank + stores then s
    else
      let tags := cut.map (·.tag)
      let m := s.mkMsg rank 0 r.tag x.seq (region * 2 ^ 52) r.key ctx (cut.map WlReq.record).flatten
      let s := s.setRequests (s.fabric.requests.map (fun q =>
        if tags.contains q.tag then { q with seg := some x.seq, sent := true } else q))
      (s.setStream { x with
        seq := (x.seq + 1) % 2 ^ 32, open_ := x.open_.filter (fun t => !tags.contains t)
        inFlight := x.inFlight ++ [x.seq] }).sendTo rank 8 m

/-- A segment of a stream is closed and has not left: a record does not fit it, or it ends in a flag store or a load. -/
def State.segDue (s : State) (ctx region rank : Nat) : Bool :=
  let reqs := s.openReqs (s.stream ctx region rank)
  let cut := segCut 0 reqs
  decide (cut.length < reqs.length) || (match cut.getLast? with | some r => r.kind == 1 || r.flag | none => false)

/-- The closed segments of a stream sent as far as R535 allows. -/
def State.pumpStream (s : State) (ctx region rank : Nat) : State :=
  (s.stream ctx region rank).open_.foldl (fun s _ => if s.segDue ctx region rank then s.closeSegment ctx region rank else s) s

/-- The number of a pair of CTX and destination. -/
def storeKey (ctx rank : Nat) : Nat := ctx * 4096 + rank

/-- A request marked as sent. -/
def State.markSent (s : State) (tag : Nat) : State :=
  s.setRequests (s.fabric.requests.map (fun q => if q.tag == tag then { q with sent := true } else q))

/-- A STORE message with the next value of its pair's sequence (R530). -/
def State.sendStore (s : State) (r : WlReq) : State :=
  let k := storeKey r.ctx r.rank
  let n := tgetD s.fabric.storeOut k 0
  let s : State := { s with fabric := { s.fabric with storeOut := tset s.fabric.storeOut k ((n + 1) % 2 ^ 32) } }
  (s.markSent r.tag).sendTo r.rank 3 (s.mkMsg r.rank (b2n r.flag) r.tag n (r.region * 2 ^ 52 + r.offset) r.key r.ctx r.out)

/-- The stores of a pair that wait to be sent, in order, as far as R530 allows. -/
def State.sendStores (s : State) (ctx rank : Nat) : State :=
  let packed := s.fabric.streams.flatMap (·.open_)
  (s.fabric.requests.filter (fun r => r.kind == 3 && r.ctx == ctx && r.rank == rank && !r.sent && !packed.contains r.tag)).foldl
    (fun s r => if s.unacked ctx rank < 4096 then s.sendStore r else s) s

/-- The next request number. -/
def State.addRequest (s : State) (r : WlReq) : State :=
  { s with fabric := { s.fabric with
      requests := s.fabric.requests ++ [{ r with tag := s.fabric.nextTag, born := s.time.now }], nextTag := (s.fabric.nextTag + 1) % 2 ^ 32 } }

/-- A request put into its stream's open segment (R533): it closes the other open segments of its context. -/
def State.packRequest (s : State) (r : WlReq) : State :=
  let others := s.fabric.streams.filter (fun x => x.ctx == r.ctx && !(x.region == r.region && x.rank == r.rank))
  let s := others.foldl (fun s x => s.closeSegment x.ctx x.region x.rank) s
  let x := s.stream r.ctx r.region r.rank
  (s.setStream { x with open_ := x.open_ ++ [r.tag] }).pumpStream r.ctx r.region r.rank

/-- A load or store of a region of another device: a message, or a record of the stream's segment (R527); recorded until its
answer. Where no route leads there it ends at once (R512). -/
def State.sendRemote (s : State) (r : WlReq) : State :=
  if (s.routePort r.rank).isNone then s.accessFails r.w r.cell 0x50
  else
    let r := { r with tag := s.fabric.nextTag, port := bits (s.route r.rank) 3 0 }
    let s := s.addRequest r
    if 2 ≤ s.hops r.rank then s.packRequest r
    else if r.kind = 1 then
      (s.markSent r.tag).sendTo r.rank 1 (s.mkMsg r.rank 0 r.tag r.len (r.region * 2 ^ 52 + r.offset) r.key r.ctx [])
    else s.sendStores r.ctx r.rank

/-- An access to a window sent to its home device: a LOAD of `len` bytes (kind 1) or a STORE of bytes (kind 3)
(DEDUCED, assumption 83). -/
def State.sendWindow (s : State) (w : Nat) (cell : Option (Nat × Nat)) (ctx kind addr len : Nat) (out : Bytes) : State :=
  match windowOf addr with
  | none => s
  | some (wi, flag, off) =>
    let win := s.window wi
    s.sendRemote
      { tag := 0, rank := win.rank, port := 0, ctx, region := win.region, kind, w, cell, addr, len, offset := win.offset + off
        flag := flag && kind == 3, out, seg := none, data := none, key := win.key, sent := false, born := 0 }

end Sys2Proof.Machine
end

