-- ==== Sys2Proof/Machine/Operands.lean ====
section
/-!
DEFINITION. The operand forms of a descriptor: its fields, the classes of address it names, their translation and check at the
memory, the faults they raise, and the reading and writing of the bytes they reach (R105, R468–R495).
-/

namespace Sys2Proof.Machine

/-! ### Descriptor fields (Table 3.6) -/

def descOpcode (d : Bytes) : Nat := fld d 0 1
def descFlags (d : Bytes) : Nat := fld d 1 1
def descCtx (d : Bytes) : Nat := fld d 4 4 % 2 ^ 18
def descOp0 (d : Bytes) : Nat := fld d 8 8
def descOp1 (d : Bytes) : Nat := fld d 16 8
def descRes (d : Bytes) : Nat := fld d 24 8

/-! ### Address classes (R468–R470) -/

/-- The class of an address by bits [63:62]: 0 host, 1 reserved, 2 device virtual, 3 device logical (Table 12.1). -/
def addrClass (a : Nat) : Nat := bits a 63 62

/-- The address breaks no rule of R470. -/
def addrLegal (a : Nat) : Bool :=
  match addrClass a with
  | 0 => true
  | 1 => false
  | 2 => bits a 61 48 == 0
  | _ => bits a 61 56 == 0 && decide (bits a 55 48 ≤ 2)

/-- Where an access ends: at device memory, in an import window, at an extent being unmapped, or in a fault. -/
inductive Place where
  | mem (a : Nat)
  | window (a : Nat)
  | revoked
  | fault (cause : FaultCause) (level : Nat)
  deriving DecidableEq, Repr

/-- The check at the memory of an access by a tenancy (R473, R475, R519): the owner of Table 12.2, over the 1 to 64 bytes of one
line. -/
def State.checkMem (s : State) (t a n : Nat) : Place :=
  let region := a / 2 ^ 48
  if region = 2 then
    match windowOf a with
    | some (w, _, off) =>
      let x := s.window w
      if x.state = 1 ∧ x.tenancy = t ∧ off + n ≤ x.length then .window a else .fault .owner 0
    | none =>
      let x := s.extent (a % 2 ^ 48 / 2 ^ 30)
      if x.tenancy = t ∧ t ≠ 0 ∧ x.state = 1 then .mem a
      else if x.tenancy = t ∧ t ≠ 0 ∧ x.state = 2 then .revoked
      else .fault .owner 0
  else if region ≤ 1 then (if s.ownsRange t a n then .mem a else .fault .owner 0)
  else .fault .malformed 0

/-- What a walk of the mirrored table gives: a page's address and size, or a fault. -/
inductive WalkResult where
  | page (a size : Nat) (read write : Bool)
  | fault (cause : FaultCause) (level : Nat)
  deriving DecidableEq, Repr

/-- Reserved bits of a mirrored-table entry (Table 12.3). -/
def entryReserved (e : Nat) : Bool := bits e 63 56 != 0 || bits e 11 4 != 0

/-- The walk of R483 from a node at a level on. -/
def State.walk (s : State) (t va : Nat) (write : Bool) (node : Nat) : (fuel level : Nat) → WalkResult
  | 0, level => .fault .malformed level
  | fuel + 1, level =>
    let at' := node + 8 * bits va (47 - 9 * level) (39 - 9 * level)
    if s.ownsRange t at' 8 = false then .fault .owner level
    else
      let e := leNat (s.readDev at' 8)
      let addr := bits e 55 12 * 2 ^ 12
      let leaf := bit e 1
      let size := 2 ^ (39 - 9 * level)
      if bit e 0 = false then .fault .notPresent level
      else if entryReserved e then .fault .malformed level
      else if (level = 0 ∧ leaf = true) ∨ (level = 3 ∧ leaf = false) then .fault .malformed level
      else if leaf then
        if addr % size ≠ 0 then .fault .malformed level
        else if (write = false ∧ bit e 2 = false) ∨ (write = true ∧ bit e 3 = false) then .fault .permission level
        else .page addr size (bit e 2) (bit e 3)
      else if inRange addr 4096 (s.mirrorPool t) = false then .fault .malformed level
      else State.walk s t va write addr fuel (level + 1)

/-- An entry of the ATC that translates an access (R477). -/
def AtcEntry.hits (e : AtcEntry) (t : Nat) (ats : Bool) (port space a : Nat) (write : Bool) : Bool :=
  e.tenancy == t && e.ats == ats && (!ats || e.port == port) && e.space == space &&
    decide (e.page ≤ a ∧ a < e.page + e.size) && (if write then e.write else e.read)

/-- Entries of a tenancy's part of the ATC (XLT_TEN_ATC, R476). -/
def State.atcCap (s : State) (t : Nat) : Nat := bits (s.liveReg t 0x0700000) 8 0 * 256

/-- An entry becomes the most recently used of its tenancy's part; the least recently used one leaves a full part; a tenancy
without entries keeps none (R476). -/
def State.atcUse (s : State) (e : AtcEntry) : State :=
  let rest := s.atc.filter (· != e)
  let mine := (e :: rest.filter (fun x => x.tenancy == e.tenancy)).take (s.atcCap e.tenancy)
  { s with atc := mine ++ rest.filter (fun x => x.tenancy != e.tenancy) }

/-- A device address translated, with the state in which the translation used is cached (R477, R481, R483). -/
def State.locate (s : State) (t xltRoot a n : Nat) (write : Bool) : Place × State :=
  if !addrLegal a then (.fault .malformed 0, s)
  else if addrClass a = 3 then (s.checkMem t (a % 2 ^ 56) n, s)
  else
    let va := a % 2 ^ 48
    match s.atc.find? (fun e => e.hits t false 0 xltRoot va write) with
    | some e => (s.checkMem t (e.target + (va - e.page)) n, s.atcUse e)
    | none =>
      if xltRoot = 0 then (.fault .notPresent 0, s)
      else match s.walk t va write (xltRoot % 2 ^ 56) 4 0 with
        | .fault c l => (.fault c l, s)
        | .page p size rd wr =>
          let e : AtcEntry :=
            { tenancy := t, ats := false, port := 0, space := xltRoot, page := va / size * size, size, target := p
              read := rd, write := wr }
          (s.checkMem t (p + va % size) n, s.atcUse e)

/-! ### Faults (R488–R495) -/

/-- The code of a cause (Table 12.4). -/
def causeCode : FaultCause → Nat
  | .notPresent => 1
  | .permission => 2
  | .owner => 3
  | .malformed => 4
  | .hostNotPresent => 5

/-- XLT_FAULT_RING of a tenancy and port, and its LOG_ADDR (Table 17.11). -/
def faultRingOff (t p : Nat) : Nat := 0x0710000 + 0x100 * t + 16 * p

/-- VALID, LOG_N and RING; none while VALID is 0. -/
def State.faultRing (s : State) (t p : Nat) : Option (Nat × Nat) :=
  let v := (s.stored (faultRingOff t p)).toNat
  if bit v 31 then some (bits v 15 0, bits v 28 24) else none

/-- A fault record (Table 12.5): `log` for a log entry. -/
def State.faultRecord (s : State) (f : FaultRec) (log phase : Bool) : Bytes :=
  let (tag, ring) := match s.work f.w with
    | some w => (fld w.desc 2 2, w.ring)
    | none => (0, 0)
  toLe 2 f.id ++ toLe 1 0 ++ toLe 1 (128 + 2 * b2n log + b2n phase) ++ toLe 4 f.ctx ++ toLe 8 f.addr ++ toLe 5 f.time ++
    toLe 1 (causeCode f.cause) ++ toLe 1 (b2n f.write + 2 * b2n f.run) ++ toLe 1 f.level ++ toLe 2 tag ++ toLe 2 ring ++ toLe 4 0

/-- A fault replaced. -/
def State.setFault (s : State) (f : FaultRec) : State :=
  { s with faults := s.faults.map (fun g => if g.tenancy = f.tenancy ∧ g.port = f.port ∧ g.id = f.id then f else g) }

/-- Key of a tenancy and port. -/
def tpKey (t p : Nat) : Nat := t * 16 + p

/-- The lowest PRG Index not outstanding on a port (R493). -/
def State.freePrg (s : State) (p : Nat) : Nat :=
  ((List.range 512).find? (fun i => !s.faults.any (fun f => f.port == p && f.prg == some i))).getD 0

/-- A fault is posted, if it can be: a page request under the PASID the work was admitted with (R93), a record in a free completion entry of the fault ring, or the next entry of
the fault log (R493–R495). -/
def State.postFault (s : State) (f : FaultRec) : State :=
  if f.posted then s
  else if f.batched then
    match s.faultRing f.tenancy f.port with
    | some (ring, n) =>
      let k := tpKey f.tenancy f.port
      let i := tgetD s.logNext k 0 % 2 ^ n
      if s.faults.any (fun g => g.tenancy == f.tenancy && g.port == f.port && g.logIdx == some i) then s
      else
        let base := (s.stored (faultRingOff f.tenancy f.port + 8)).toNat
        let s := s.setFault { f with posted := true, logIdx := some i }
        { s with logNext := tset s.logNext k ((i + 1) % 2 ^ n), logGain := tset s.logGain k (tgetD s.logGain k 0 + 1) }.emit
          (.dma f.port (s.ring ring).pasid (base + 32 * i) (s.faultRecord f true false))
    | none => s
  else if f.cause = .hostNotPresent then
    let i := s.freePrg f.port
    let pasid := ((s.work f.w).map (·.pasid)).getD (s.ctx f.ctx).pasid
    (s.setFault { f with posted := true, prg := some i }).emit (.pageRequest f.port pasid (f.addr / 4096 * 4096) i)
  else
    match s.faultRing f.tenancy f.port with
    | some (ring, _) =>
      if (s.ring ring).cqFree = 0 then s
      else
        ((s.setFault { f with posted := true }).postEntry ring (fun ph => s.faultRecord f false ph)).emit
          (.msix (s.ring ring).port (s.ring ring).msix)
    | none => s

/-- A fault of a work item's access (R489–R493): the item stalls, the fault gets its id, is batched when the tenancy's unbatched
outstanding faults on the port equal its share, and is posted if it can be. An owner mismatch also counts and is reported
(R474) (DEDUCED, assumption 68). -/
def State.raiseFault (s : State) (x : Work) (addr : Nat) (write run : Bool) (cell : Nat) (cause : FaultCause) (level : Nat) :
    State :=
  let k := tpKey x.tenancy x.port
  let id := tgetD s.faultNext k 0
  let share := bits (s.liveReg x.tenancy (0x0700200 + 8 * x.port)) 8 0
  let open' := (s.faults.filter (fun g => g.tenancy == x.tenancy && g.port == x.port && !g.batched)).length
  let f : FaultRec :=
    { tenancy := x.tenancy, port := x.port, id, w := x.id, ctx := x.ctx, addr, write, run, cell, cause, level
      time := s.time.now, frame := s.frame, batched := decide (share ≤ open'), posted := false, prg := none, logIdx := none }
  let s : State := { s with
    faults := s.faults ++ [f], faultNext := tset s.faultNext k ((id + 1) % 65536)
    works := s.works.map (fun y => if y.id == x.id then { y with stalled := true } else y)
    runs := s.runs.map (fun r => if r.w == x.id then { r with stalled := true } else r) }
  let s := if cause = .owner then (s.bump (0x0701000 + 8 * x.tenancy) 1).emit (.corrEvent 9 x.tenancy) else s
  s.postFault f

/-! ### What an access waits for -/

/-- The pages of 4 KiB a range touches. -/
def pagesOf (a n : Nat) : List Nat := if n = 0 then [] else (List.range ((a + n - 1) / 4096 - a / 4096 + 1)).map (· + a / 4096)

/-- A host page is translated for a work: by the ATC, or by a grant kept for its one use (R476, R478). -/
def State.pageGranted (s : State) (x : Work) (page : Nat) (write : Bool) : Bool :=
  s.atc.any (fun e => e.hits x.tenancy true x.port x.pasid (page * 4096) write) ||
    s.xltWaits.any (fun v => v.w == x.id && v.page == page && v.granted && v.write == write)

/-- A miss (R478): one Translation Request for the page, asking for the access that the transfer at an address of it needs, unless one is outstanding already; the work, or the cell of its run, waits for it. -/
def State.requestPage (s : State) (x : Work) (who : Option (Nat × Nat)) (page addr : Nat) (write : Bool) : State :=
  let same := fun (v : XltWait) => v.port == x.port && v.pasid == x.pasid && v.page == page && !v.granted
  if s.xltWaits.any (fun v => same v && v.w == x.id && v.write == write && v.cell == who) then s
  else
    let s' : State := { s with xltWaits := s.xltWaits ++
      [{ port := x.port, pasid := x.pasid, page, w := x.id, write, granted := false, cell := who, addr }] }
    if s.xltWaits.any same then s' else s'.emit (.atsRequest x.port x.pasid page write)

/-- The pieces of a range within 64-byte lines: address and length. -/
def linesOf (a : Nat) : (fuel n : Nat) → List (Nat × Nat)
  | 0, _ => []
  | fuel + 1, n =>
    if n = 0 then [] else
      let k := min n (64 - a % 64)
      (a, k) :: linesOf (a + k) fuel (n - k)

/-- The pieces of a range (DEDUCED, assumption 83). -/
def pieces (a n : Nat) : List (Nat × Nat) := linesOf a (n / 64 + 2) n

/-- The bytes a window load of a work, or of a cell of its run, has returned for an address. -/
def State.loaded (s : State) (w : Nat) (who : Option (Nat × Nat)) (a n : Nat) : Option Bytes :=
  match s.fabric.requests.find? (fun r => r.w == w && r.kind == 1 && r.addr == a && r.len == n && r.cell == who) with
  | some r => r.data
  | none => none

/-- An access that fails for good: it ends its work, or the run whose cell made it (R324), the cell as detail where Table 3.11 gives one. -/
def State.endAccess (s : State) (x : Work) (who : Option (Nat × Nat)) (status : Nat) : State :=
  if who.isNone then s.finish x.id (Result.err status 0)
  else
    let detail := if status = 0x50 then 0 else cellNo who
    { s with runs := s.runs.map (fun r => if r.w == x.id && r.ended.isNone then { r with ended := some (status, detail) } else r) }

/-- The number of a cell's access among its run's: 0 for the work's own. -/
def accessCell (who : Option (Nat × Nat)) : Nat := match who with | some _ => 1 + cellNo who | none => 0

/-- The units one of which serves an access to device memory: the stack that holds the address; the den-cache slices of the DDR's die,
whose dens have the turns of its channels (Table 15.3); the slice of an extent's home den (R61, R64) (DESIGN CHOICE, assumption 105). -/
def State.unitsOf (s : State) (a : Nat) : List Nat :=
  match a / 2 ^ 48 with
  | 0 => [s.stackMap (stackOf a)]
  | 1 => (List.range 4).map (fun d => denMap (4 * (a % 2 ^ 48 / 2 ^ 42) + d))
  | _ => [denMap (s.extent (a % 2 ^ 48 / 2 ^ 30)).homeDen]

/-- One piece of a device access of a work, or of a cell of its run: translated and checked; extent lines wait for recalls, window
reads, in a slot of their window's den (R520), for their LOAD_DATA, which are sent once the work's own stores to those bytes are acknowledged (R288, R466, R471, R520). An extent being unmapped ends a descriptor with EXTENT_REVOKED and a run with
POISONED (Table 13.5). -/
def State.gatePiece (s : State) (x : Work) (who : Option (Nat × Nat)) (write : Bool) (p : Nat × Nat) : Gate :=
  match s.locate x.tenancy x.xltRoot p.1 p.2 write with
  | (.fault c l, s) => .hold (s.raiseFault x p.1 write who.isSome (cellNo who) c l)
  | (.revoked, s) => .hold (s.endAccess x who (if who.isNone then 0x23 else 0x32))
  | (.mem a, s) =>
    match s.passUnit x.id (accessCell who) x.tenancy (s.unitsOf a) with
    | .hold s => .hold s
    | .go s =>
      if a / 2 ^ 48 = 2 then
        match s.devLine (if write then .devWr else .devRd) x.id (a % 2 ^ 48 / 64) with
        | .ready s => .go s
        | .blocked s' => .hold s'
      else .go s
  | (.window a, s) =>
    match windowOf a with
    | some (w, _, _) =>
      match s.passUnit x.id (accessCell who) x.tenancy [denMap (s.window w).homeDen] with
      | .hold s => .hold s
      | .go s =>
        if (s.routePort (s.window w).rank).isNone then .hold (s.endAccess x who 0x50)
        else if write then .go s
        else match s.loaded x.id who a p.2 with
          | some _ => .go s
          | none =>
            if s.fabric.requests.any (fun r => r.w == x.id && ((r.kind == 1 && r.addr == a && r.len == p.2 && r.cell == who) ||
                (r.kind == 3 && r.data.isNone && decide (r.addr < a + p.2 ∧ a < r.addr + r.len)))) then .hold s
            else .hold (s.sendWindow x.id who x.ctx 1 a p.2 [])
    | none => .go s

/-- The pieces of device ranges in order; the first that waits holds the work. -/
def State.gatePieces (s : State) (x : Work) (who : Option (Nat × Nat)) : List (Bool × Nat × Nat) → Gate
  | [] => .go s
  | (wr, p) :: t =>
    match s.gatePiece x who wr p with
    | .go s' => State.gatePieces s' x who t
    | .hold s' => .hold s'

/-- Every access of a work or of a cell of its run, as address, length and write: its host pages translated, its device lines
reachable (DEDUCED, assumption 42). -/
def State.gateBy (s : State) (x : Work) (who : Option (Nat × Nat)) (accs : List (Nat × Nat × Bool)) : Gate :=
  if x.stalled then .hold s
  else
    let host := (accs.filter (fun a => addrClass a.1 == 0)).flatMap (fun a => (pagesOf a.1 a.2.1).map (fun p => (p, max a.1 (p * 4096), a.2.2)))
    let missing := host.filter (fun p => !s.pageGranted x p.1 p.2.2)
    if missing ≠ [] then .hold (missing.foldl (fun s p => s.requestPage x who p.1 p.2.1 p.2.2) s)
    else
      let dev := (accs.filter (fun a => addrClass a.1 != 0)).flatMap (fun a => (pieces a.1 a.2.1).map (fun p => (a.2.2, p)))
      s.gatePieces x who dev

/-- Every access of a work itself. -/
def State.gate (s : State) (x : Work) (accs : List (Nat × Nat × Bool)) : Gate := s.gateBy x none accs

/-! ### Bytes at an address -/

/-- A piece read, zero where it is not at memory: the gate has let the access pass. -/
def State.readPiece (s : State) (x : Work) (who : Option (Nat × Nat)) (p : Nat × Nat) : Bytes :=
  match (s.locate x.tenancy x.xltRoot p.1 p.2 false).1 with
  | .mem a => s.readDev a p.2
  | .window a => slice ((s.loaded x.id who a p.2).getD []) 0 p.2
  | _ => List.replicate p.2 0

/-- `n` bytes from an address on: what a host returned, or device memory, all lines at once (DESIGN CHOICE, assumption 123). -/
def State.readBy (s : State) (x : Work) (who : Option (Nat × Nat)) (a n : Nat) (host : Bytes) : Bytes :=
  if addrClass a = 0 then slice host 0 n else ((pieces a n).map (s.readPiece x who)).flatten

/-- Bytes at a device logical address, read by a work without a cell; in host memory, the bytes the host returns (DESIGN CHOICE, assumption 2). -/
def State.readAt (s : State) (x : Work) (a n : Nat) (host : Bytes) : Bytes := s.readBy x none a n host

/-- A device range touches a poisoned line. -/
def State.poisonedAt (s : State) (x : Work) (a n : Nat) : Bool :=
  addrClass a != 0 && (pieces a n).any (fun p =>
    match (s.locate x.tenancy x.xltRoot p.1 p.2 false).1 with
    | .mem b => s.poisonedIn b p.2
    | _ => false)

/-- Bytes written from an address on: a DMA write, device memory line by line, or STORE messages (DESIGN CHOICE, assumption 123). -/
def State.writeBy (s : State) (x : Work) (who : Option (Nat × Nat)) (a : Nat) (b : Bytes) : State :=
  if b = [] then s
  else if addrClass a = 0 then s.emit (.dma x.port x.pasid a b)
  else
    (pieces a b.length).foldl (fun s p =>
      let d := slice b (p.1 - a) p.2
      match (s.locate x.tenancy x.xltRoot p.1 p.2 true).1 with
      | .mem m => s.put m d
      | .window m => s.sendWindow x.id who x.ctx 3 m p.2 d
      | _ => s) s

/-- A write at a device logical address by a work without a cell; into host memory it goes out as a message (DESIGN CHOICE, assumption 2). -/
def State.writeAt (s : State) (x : Work) (a : Nat) (b : Bytes) : State := s.writeBy x none a b

/-- What is used up when accesses of a work, or of a cell of its run, have been made: grants kept for one use, ended recalls, loads
answered. -/
def State.usedBy (s : State) (w : Nat) (who : Option (Nat × Nat)) : State :=
  let s := (s.useRecalled w).leaveUnits w (accessCell who)
  { s with
    xltWaits := s.xltWaits.filter (fun v => !(v.w == w && v.granted))
    fabric := { s.fabric with requests := s.fabric.requests.filter (fun r => !(r.w == w && r.data.isSome && r.cell == who)) } }

/-- Answers to the remote reads of a work without a cell are dropped once it has used them (DEDUCED, assumption 42). -/
def State.used (s : State) (w : Nat) : State := s.usedBy w none

/-! ### Field checks -/

/-- A field check that fails with an offset and a status. -/
def badIf (off st : Nat) (b : Bool) : List (Nat × Nat) := if b then [(off, st)] else []

/-- The check with the lowest offset, and among those of one field the first (R710). -/
def lowestCheck (l : List (Nat × Nat)) : Option Result :=
  (bestBy (fun a b => decide (a.1 < b.1)) l).map (fun c => Result.err c.2 c.1)

/-! ### The order of works -/

/-- The FENCE `f` has the work `x` in its scope: its ring, or with SCOPE 1 its context (Table 3.13). -/
def fenceCovers (f x : Work) : Bool :=
  x.origin.isNone && (if fld f.desc 32 1 == 1 then x.ctx == f.ctx || x.ring == f.ring else x.ring == f.ring)

/-- The descriptors a FENCE waits for: of its ring, or with SCOPE 1 of its context (R133). -/
def fenceWaits (f x : Work) : Bool :=
  x.origin.isNone && (if fld f.desc 32 1 == 1 then x.ctx == f.ctx else x.ring == f.ring)

/-- The objects a work names, as kind (1 burrow, 2 table, 3 image, 4 context) and id. A search names its context's pin only
while the pin it asks for is still to be settled. -/
def Work.objects (x : Work) : List (Nat × Nat) :=
  match x.opcode with
  | 0x03 => [(4, x.ctx), (1, x.burrow)]
  | 0x04 => [(4, x.ctx)]
  | 0x10 | 0x11 => (1, x.burrow) :: (if x.snapLate then [(4, x.ctx)] else [])
  | 0x12 | 0x13 | 0x14 | 0x15 | 0x16 | 0x17 | 0x18 => [(1, x.burrow)]
  | 0x30 | 0x31 | 0x32 | 0x33 | 0x34 => [(2, fld x.desc 32 2)]
  | 0x40 | 0x41 => [(3, fld x.desc 32 2)]
  | _ => []

/-- The kind of object whose state a descriptor changes (R122). -/
def Work.changes (x : Work) : Nat :=
  match x.opcode with
  | 0x15 | 0x16 | 0x17 | 0x18 => 1
  | 0x33 | 0x34 => 2
  | 0x40 => 3
  | 0x03 | 0x04 => 4
  | _ => 0

/-- Two works name one object, and one of them changes its state. A TABLE_SWITCH, whose change comes at its frame, stands in this
order with TABLE_LOAD and TABLE_SWITCH only; a BURROW_THAW, which completes at admission (R195), waits for nothing but earlier changes. -/
def conflict (y x : Work) : Bool :=
  y.objects.any (fun o => x.objects.contains o && (y.changes == o.1 || (x.changes == o.1 && x.opcode != 0x17))) &&
    (y.opcode != 0x34 || x.changes == 2) && (x.opcode != 0x34 || y.changes == 2)

/-- Earlier admitted work that a work must let end first: a FENCE over it (R133); for a FENCE, everything in its scope; on
the same object, a state-changing descriptor, or for one of those anything at all (R122); MIRROR_SYNC before a
FAULT_RESUME of the ring (R487). -/
def holdsBack (y x : Work) : Bool :=
  (y.opcode == 0x02 && y.origin.isNone && fenceCovers y x) || (x.opcode == 0x02 && fenceWaits x y) ||
    conflict y x || (x.opcode == 0x60 && y.opcode == 0x61 && y.ring == x.ring && y.origin.isNone)

/-- A work may start: no work admitted before it and not yet completed holds it back (DESIGN CHOICE, assumption 41). -/
def State.mayStart (s : State) (x : Work) : Bool :=
  (s.works.takeWhile (fun y => y.id != x.id)).all (fun y => !holdsBack y x)

/-- It is a work's turn on a unit (R128): no work of its tenancy and class admitted before it, that could start, is still to start there
(DESIGN CHOICE, assumption 41). -/
def State.turnOf (s : State) (x : Work) (still : Work → Bool) : Bool :=
  (s.works.takeWhile (fun y => y.id != x.id)).all (fun y =>
    !(y.tenancy == x.tenancy && y.cls == x.cls && y.cls != 0 && y.result.isNone && y.verdict.isNone && !y.stalled && still y && s.mayStart y))

/-- The step of an admitted descriptor of an opcode: only while it has no result and may start; a verdict of its object's
state at admission (R123) is its result at once; otherwise `f`. -/
def State.withWork (s : State) (w : Nat) (op : Nat → Bool) (f : Work → State → State) : State :=
  match s.work w with
  | some x =>
    if op x.opcode && x.result.isNone && s.mayStart x then
      match x.verdict with
      | some r => s.finish w r
      | none => if x.stalled then s else f x s
    else s
  | none => s

/-- The same with the work's accesses let through first (DEDUCED, assumption 42). -/
def State.withAccess (s : State) (x : Work) (accs : List (Nat × Nat × Bool)) (f : State → State) : State :=
  match s.gate x accs with
  | .hold s' => s'
  | .go s' => (f s').used x.id

/-- A work that reads ranges and then acts: its accesses let through first; poison in what it reads ends it with POISONED,
without side effects (R441). -/
def State.withReads (s : State) (x : Work) (reads : List (Nat × Nat)) (f : State → State) : State :=
  s.withAccess x (reads.map (fun r => (r.1, r.2, false))) fun s =>
    if reads.any (fun r => s.poisonedAt x r.1 r.2) then s.finish x.id (Result.err 0x32 0) else f s

end Sys2Proof.Machine
end

