-- ==== Sys2Proof/Machine/Burrow.lean ====
section
/-!
DEFINITION. Burrows: their layouts, their placement, and the descriptors of their life cycle (R148–R197, R713). The structures
are held as records; their bytes stand in device memory as well, written at each change (assumption 14).
-/

namespace Sys2Proof.Machine

/-! ### The table -/

/-- A FREE burrow id. -/
def Burrow.free : Burrow :=
  { state := 0, vecFmt := 0, metric := 0, pqBits := 0, dim := 0, pqM := 0, tenancy := 0, levels := 0, fullStore := 0
    maxNprobe := 0, fanoutMax := 0, root := 0, rootLeaf := false, codebookAt := 0, maxItems := 0, items := 0, leafMax := 0
    sideMax := 0, nextSeq := 0, snapSeq := 0, slotBase := 0, slotCount := 0, vecBase := 0, created := 0, homeDen := 0
    merged := false, codebook := [], nodes := [], leaves := [], itemMap := [], slotNext := 0, slotFree := [], vectors := []
    swaps := [], old := [], merges := [], hbmRes := 0, ddrAt := 0, ddrRes := 0 }

/-- A burrow. -/
def State.burrow (s : State) (b : Nat) : Burrow := tgetD s.burrows b .free

/-- A burrow replaced. -/
def State.setBurrow (s : State) (i : Nat) (b : Burrow) : State := { s with burrows := tset s.burrows i b }

/-- A leaf or a node of a burrow by its address; the empty one when there is none. -/
def Leaf.empty : Leaf :=
  { root := false, items := [], version := 0, parent := 0, mergeSeq := 0, stack := 0, keys := 0, side := [] }
def Node.empty : Node := { depth := 0, version := 0, parent := 0, children := [], cents := [], norms := [] }
def Burrow.leaf (b : Burrow) (a : Nat) : Leaf := tgetD b.leaves a .empty
def Burrow.node (b : Burrow) (a : Nat) : Node := tgetD b.nodes a .empty

/-- Addresses of the current leaves, in tree order: the leaves reached from the root. -/
def Burrow.reach (b : Burrow) : (fuel : Nat) → List (Bool × Nat) → List Nat
  | 0, l => (l.filter (·.1)).map (·.2)
  | fuel + 1, l => Burrow.reach b fuel (l.flatMap (fun c => if c.1 then [c] else (b.node c.2).children))

def Burrow.current (b : Burrow) : List Nat := b.reach 7 [(b.rootLeaf, b.root)]

/-- Addresses of the installed nodes. -/
def Burrow.inner (b : Burrow) : (fuel : Nat) → List (Bool × Nat) → List Nat
  | 0, _ => []
  | fuel + 1, l =>
    let ns := (l.filter (!·.1)).map (·.2)
    ns ++ Burrow.inner b fuel (ns.flatMap (fun a => (b.node a).children))

def Burrow.installed (b : Burrow) : List Nat := b.inner 7 [(b.rootLeaf, b.root)]

/-- The installed node that has an address among its children. -/
def Burrow.parentOf (b : Burrow) (a : Nat) : Option Nat := b.installed.find? (fun n => (b.node n).children.any (·.2 == a))

/-- Side-list chunks held by the current leaves (SIDE_CHUNKS_USED). -/
def Burrow.chunksUsed (b : Burrow) : Nat := (b.current.map (fun a => (b.leaf a).side.length)).sum

/-! ### Layouts (Tables 4.6 to 4.13) -/

/-- The burrow header (Table 4.6). Addresses are reported as device logical addresses (R469); VEC_BASE is 0 without full vectors, and every
address of a FREE id is 0 (DESIGN CHOICE, assumption 111). -/
def burrowHeader (b : Burrow) : Bytes :=
  let addr := fun a => if b.state = 0 then 0 else logical a
  toLe 1 b.state ++ toLe 1 b.vecFmt ++ toLe 1 b.metric ++ toLe 1 b.pqBits ++ toLe 2 b.dim ++ toLe 2 b.pqM ++ toLe 2 b.tenancy ++
    toLe 1 b.levels ++ toLe 1 b.fullStore ++ toLe 2 b.maxNprobe ++ toLe 2 b.fanoutMax ++ toLe 8 (addr b.root) ++
    toLe 8 (if b.metric = 3 then 0 else addr b.codebookAt) ++ toLe 8 b.maxItems ++ toLe 8 b.items ++
    toLe 4 (if b.state = 0 then 0 else b.current.length) ++ toLe 4 b.leafMax ++ toLe 4 b.sideMax ++ toLe 4 b.chunksUsed ++
    toLe 8 b.nextSeq ++ toLe 8 b.snapSeq ++ toLe 8 b.slotBase ++ toLe 8 b.slotCount ++
    toLe 8 (if b.fullStore = 0 then 0 else addr b.vecBase) ++ toLe 8 b.created ++ toLe 1 b.homeDen ++ toLe 1 (b2n b.merged) ++
    toLe 14 0

/-- A child entry (Table 4.8). -/
def childEntry (c : Bool × Nat) : Nat := b2n c.1 * 2 ^ 63 + c.2 % 2 ^ 41 / 64 * 64

/-- Bytes padded with zeros to a multiple of n. -/
def padTo (n : Nat) (b : Bytes) : Bytes := b ++ List.replicate (roundup b.length n - b.length) 0

/-- An internal node (Table 4.7, R170, R171). Addresses inside nodes, leaves and chunks are written without the class bits of a device
logical address (DESIGN CHOICE, assumption 110). -/
def nodeImage (b : Burrow) (n : Node) : Bytes :=
  toLe 1 1 ++ toLe 1 n.depth ++ toLe 2 n.children.length ++ toLe 2 b.centBytes ++ toLe 2 0 ++ toLe 4 n.version ++ toLe 4 0 ++
    toLe 8 n.parent ++ toLe 40 0 ++ (n.cents.map (fun c => padTo 64 (c.map (toLe 2)).flatten)).flatten ++
    padTo 64 (n.norms.map (toLe 4)).flatten ++ padTo 64 (n.children.map (fun c => toLe 8 (childEntry c))).flatten

/-- A side-list entry (Tables 4.12 and 4.13), its length and its sequence. -/
def SideEntry.image : SideEntry → Bytes
  | .insert slot seq key attr code => toLe 1 1 ++ toLe 2 0 ++ toLe 5 slot ++ toLe 8 seq ++ toLe 8 key ++ toLe 8 attr ++ padTo 16 code
  | .tomb target pos seq key => toLe 1 2 ++ toLe 1 target ++ toLe 2 pos ++ toLe 4 0 ++ toLe 8 seq ++ toLe 8 key ++ toLe 8 0

def SideEntry.seq : SideEntry → Nat
  | .insert _ q _ _ _ => q
  | .tomb _ _ q _ => q

def SideEntry.isTomb : SideEntry → Bool
  | .tomb _ _ _ _ => true
  | _ => false

def SideEntry.bytes : SideEntry → Nat
  | .insert _ _ _ _ code => 32 + roundup code.length 16
  | .tomb _ _ _ _ => 32

/-- Bytes of entries in a chunk. -/
def Chunk.used (c : Chunk) : Nat := (c.entries.map SideEntry.bytes).sum

/-- A side-list chunk (Table 4.11, R180) (DESIGN CHOICE, assumption 110). -/
def chunkImage (leaf next ord : Nat) (c : Chunk) : Bytes :=
  let first := (c.entries.head?.map SideEntry.seq).getD 0
  let last := (c.entries.getLast?.map SideEntry.seq).getD 0
  slice (toLe 8 leaf ++ toLe 8 next ++ toLe 1 ord ++ toLe 1 0 ++ toLe 2 c.used ++ toLe 2 c.entries.length ++
    toLe 2 (c.entries.filter SideEntry.isTomb).length ++ toLe 8 first ++ toLe 8 last ++ toLe 24 0 ++
    (c.entries.map SideEntry.image).flatten) 0 4096

/-- The tombstone bitmap of a leaf (R174). -/
def tombBitmap (items : List BodyItem) : Bytes :=
  toLe 1024 ((items.reverse).foldl (fun acc i => 2 * acc + b2n i.tomb) 0)

/-- A leaf version (Table 4.9, R173, R174) (DESIGN CHOICE, assumption 110). -/
def leafImage (b : Burrow) (l : Leaf) : Bytes :=
  let first := (l.side.head?.map (·.addr)).getD 0
  let last := (l.side.getLast?.map (·.addr)).getD 0
  toLe 1 2 ++ toLe 1 (b2n l.root) ++ toLe 2 l.items.length ++ toLe 2 b.codeBytes ++ toLe 2 0 ++ toLe 4 l.version ++
    toLe 2 (l.items.filter (·.tomb)).length ++ toLe 2 0 ++ toLe 8 l.parent ++ toLe 8 l.mergeSeq ++ toLe 8 l.keys ++
    toLe 8 first ++ toLe 8 last ++ toLe 1 l.side.length ++ toLe 3 0 ++
    toLe 4 (l.side.map (·.entries.length)).sum ++ toLe 64 0 ++
    padTo 64 (l.items.map (fun i => toLe 8 i.attr)).flatten ++ padTo 64 (l.items.map (fun i => slice i.code 0 b.codeBytes)).flatten ++
    tombBitmap l.items

/-- A leaf's key block (Table 4.10). -/
def keyImage (l : Leaf) : Bytes := (l.items.map (fun i => toLe 8 i.key ++ toLe 5 i.slot ++ toLe 3 0)).flatten

/-- The chunks of a chain with the address of the next and the ordinal. -/
def chainImages (leaf : Nat) : (ord : Nat) → List Chunk → List (Nat × Bytes)
  | _, [] => []
  | ord, c :: t => (c.addr, chunkImage leaf ((t.head?.map (·.addr)).getD 0) ord c) :: chainImages leaf (ord + 1) t

/-- A leaf stored: its record, and its bytes and those of its chunks and key block in memory (DESIGN CHOICE, assumption 14). -/
def State.putLeaf (s : State) (bi a : Nat) (l : Leaf) : State :=
  let b := s.burrow bi
  let s := s.setBurrow bi { b with leaves := tset b.leaves a l }
  let s := (s.put a (leafImage b l)).put l.keys (keyImage l)
  (chainImages a 0 l.side).foldl (fun s c => s.put c.1 c.2) s

/-- A node stored (DESIGN CHOICE, assumption 14). -/
def State.putNode (s : State) (bi a : Nat) (n : Node) : State :=
  let b := s.burrow bi
  (s.setBurrow bi { b with nodes := tset b.nodes a n }).put a (nodeImage b n)

/-! ### Placement (R163–R166, R190) -/

/-- The two lists taken in turn; the rest of the longer one comes last. -/
def interleave : List Nat → List Nat → List Nat
  | a :: s, b :: t => a :: b :: interleave s t
  | s, [] => s
  | [], t => t

/-- The rotation of R165, as logical stacks. -/
def State.stackOrder (s : State) : List Nat :=
  let l := s.setupStacks
  (interleave (l.filter (fun p => decide (p < 6))) (l.filter (fun p => decide (6 ≤ p)))).map (fun p => l.findIdx (· == p))

/-- A logical stack's HBM range: 49,152 granules (Table 17.4). -/
def stackRange (l : Nat) : Nat × Nat := (regionBase 0 + l * 49152 * granule, 49152 * granule)

/-- The common part of two ranges. -/
def meet (a b : Nat × Nat) : Nat × Nat :=
  let lo := max a.1 b.1
  (lo, min (a.1 + a.2) (b.1 + b.2) - lo)

/-- An address for n bytes in a tenancy's HBM on a logical stack. -/
def State.pickStack (s : State) (t l n : Nat) : Option Nat :=
  [0, 1].findSome? (fun die => s.pick (meet (s.hbmUse t die) (stackRange l)) n 64)

/-- The first stack of a rotation that has room, with how many were passed over. -/
def State.rotate (s : State) (t n : Nat) : (skipped : Nat) → List Nat → Option (Nat × Nat × Nat)
  | _, [] => none
  | k, l :: rest =>
    match s.pickStack t l n with
    | some a => some (k, l, a)
    | none => State.rotate s t n (k + 1) rest

/-- A leaf version placed (R165): its stack and address, with the rotation continued after that stack. -/
def State.placeLeaf (s : State) (t n : Nat) : Option (Nat × Nat × State) :=
  let o := s.stackOrder
  let start := s.rotation % max o.length 1
  match s.rotate t n 0 (o.drop start ++ o.take start) with
  | some (k, l, a) => some (l, a, { s.drawn with rotation := (s.rotation + k + 1) % max o.length 1 })
  | none => none

/-- An address for n bytes in a range, with the free value used (DEDUCED, assumption 15). -/
def State.place (s : State) (r : Nat × Nat) (n al : Nat) : Option (Nat × State) :=
  (s.pick r n al).map (fun a => (a, s.drawn))

/-- The die and den of fewest home dens, lower first on a tie (R164), counted over burrows and tables (R345). -/
def leastLoaded (count : Nat → Nat) : Nat :=
  let d := fun die => ((List.range 4).map (fun i => count (4 * die + i))).sum
  let die := if d 1 < d 0 then 1 else 0
  (bestBy (fun a b => decide (count a < count b)) ((List.range 4).map (· + 4 * die))).getD (4 * die)

/-- The home den of a new burrow (R164). -/
def State.newBurrowDen (s : State) : Nat :=
  leastLoaded (fun den => (s.burrows.filter (fun b => b.2.state != 0 && b.2.homeDen == den)).length)

/-- A tenancy's burrows whose reservations stand: those not being dropped (R197). -/
def State.burrowsOf (s : State) (t : Nat) : List Burrow :=
  (s.burrows.filter (fun b => (b.2.state == 1 || b.2.state == 2) && b.2.tenancy == t)).map (·.2)

/-- HBM ranges of a tenancy that objects other than burrows hold: tensors, copies of moves in progress, what runs keep of moved tensors,
embedding tables. -/
def State.hbmRanges (s : State) (t : Nat) : List (Nat × Nat) :=
  ((s.tensors.filterMap (fun e => if e.2.state ≠ 0 ∧ e.2.tenancy = t ∧ e.2.tier = 1 then some (e.2.loc, e.2.stored) else none)) ++
    (s.jobs.filterMap (fun j => if j.tenancy = t then j.dest.map (fun a => (a, j.room)) else none)) ++
    (s.lateFree.filterMap (fun f => if f.2.2.1 = t then some (f.1, f.2.1) else none)) ++
    (s.tables.filter (fun e => e.2.tenancy == t)).flatMap (fun e => e.2.areas)).filter (fun r => r.1 / 2 ^ 48 == 0)

/-- HBM of a tenancy that its objects hold or reserve (R190). -/
def State.hbmHeld (s : State) (t : Nat) : Nat := ((s.burrowsOf t).map (·.hbmRes)).sum + ((s.hbmRanges t).map (·.2)).sum

/-- HBM of a tenancy still free on both dies together (R190). -/
def State.hbmFree (s : State) (t : Nat) : Nat := (s.hbmUse t 0).2 + (s.hbmUse t 1).2 - s.hbmHeld t

/-- The HBM a burrow reserves (R190), and the share of it that internal nodes and the codebook take. -/
def Burrow.hbmNeed (b : Burrow) : Nat :=
  b.maxItems * (b.codeBytes + 8) + b.leafMax * (1472 + 2 * (b.centBytes + 12)) + 2 ^ b.pqBits * b.dim * 2
def Burrow.homeNeed (b : Burrow) : Nat := b.leafMax * (192 + 2 * (b.centBytes + 12)) + 2 ^ b.pqBits * b.dim * 2

/-- HBM of a tenancy on a die that is left for codebooks and internal nodes: less what other objects hold there and what burrows homed
there reserve for theirs (DESIGN CHOICE, assumption 109). -/
def State.homeFree (s : State) (t die : Nat) : Nat :=
  let r := s.hbmUse t die
  r.2 - (((s.burrowsOf t).filter (fun b => b.homeDen / 4 == die)).map Burrow.homeNeed).sum -
    (((s.hbmRanges t).filter (overlap r)).map (·.2)).sum

/-! ### BURROW_CREATE (R153, R185–R191) -/

/-- The limits of Table 4.2 a descriptor breaks, as offset and status, in the table's order. -/
def createChecks (d : Bytes) : List (Nat × Nat) :=
  let dim := fld d 34 2
  let fmt := fld d 36 1
  let metric := fld d 37 1
  let m := fld d 38 2
  let pb := fld d 40 1
  let code := m * pb / 8
  let bad := fun (off : Nat) (b : Bool) => if b then [((off, 0x12) : Nat × Nat)] else []
  bad 8 (if metric = 3 then descOp0 d != 0 else descOp0 d == 0) ++
  bad 24 (descRes d != 0) ++
  bad 34 (dim == 0 || decide (2048 < dim) || (fmt == 6 && dim % 2 != 0) || (fmt == 7 && dim % 8 != 0) ||
    (metric != 3 && dim % m != 0)) ++
  bad 36 (decide (7 < fmt)) ++
  bad 37 (decide (3 < metric) || (metric == 2 && decide (4 < fmt)) || ((metric == 3) != (fmt == 7))) ++
  bad 38 (decide (m < 8 ∨ 256 < m) || (pb == 4 && m % 2 != 0)) ++
  bad 38 (decide (code < 4 ∨ 256 < code) || (metric == 3 && decide (dim / 8 < code))) ++
  bad 40 (pb != 4 && pb != 8) ++
  bad 41 (decide (2 < fld d 41 1)) ++
  bad 42 (fld d 42 2 == 0 || decide (1024 < fld d 42 2)) ++
  bad 44 (decide (fld d 44 2 < 2 ∨ 1024 < fld d 44 2)) ++
  bad 48 (fld d 48 8 == 0 || decide (2 ^ 34 < fld d 48 8)) ++
  bad 56 (decide (fld d 56 4 < 64 ∨ 16777216 < fld d 56 4))

/-- A node of a skeleton image: depth, child indices with their LEAF bits, centroids (R186). -/
structure SkelNode where
  ok       : Bool
  depth    : Nat
  children : List (Bool × Nat)
  cents    : List (List Nat)
  deriving DecidableEq, Repr

/-- The size of a node of n children with centroids of c bytes. -/
def nodeSize (n c : Nat) : Nat := 64 + n * c + roundup (4 * n) 64 + roundup (8 * n) 64

/-- A node at the start of an image (R186, R187): `ok` when its header and entries keep the rules on one node. -/
def skelNode (dim fanout : Nat) (b : Bytes) : SkelNode :=
  let c := roundup (2 * dim) 64
  let n := fld b 2 2
  let at' := 64 + n * c + roundup (4 * n) 64
  let entries := (List.range n).map (fun i => fld b (at' + 8 * i) 8)
  { ok := fld b 0 1 == 1 && decide (1 ≤ n ∧ n ≤ fanout) && fld b 4 2 == c && zeroRange b 6 2 && zeroRange b 12 4 &&
      zeroRange b 24 40 && entries.all (fun e => bits e 62 41 == 0)
    depth := fld b 1 1
    children := entries.map (fun e => (bit e 63, bits e 40 0))
    cents := (List.range n).map (fun i => (List.range dim).map (fun k => fld b (64 + i * c + 2 * k) 2)) }

/-- The nodes of an image in order, stopping after the first that breaks a rule on one node. -/
def skelNodes (dim fanout : Nat) : (fuel : Nat) → Bytes → List SkelNode
  | 0, _ => []
  | fuel + 1, b =>
    let n := skelNode dim fanout b
    if n.ok then n :: skelNodes dim fanout fuel (b.drop (nodeSize n.children.length (roundup (2 * dim) 64))) else [n]

/-- A skeleton's levels, leaves and nodes. -/
structure Skeleton where
  levels : Nat
  leaves : Nat
  nodes  : List SkelNode
  deriving DecidableEq, Repr

/-- The depth of each node from the links of its ancestors, which stand before it in breadth-first order. -/
def linkDepth (ns : List SkelNode) (i : Nat) : (fuel : Nat) → Option Nat
  | 0 => none
  | fuel + 1 =>
    if i = 0 then some 0
    else match ns.findIdx? (fun n => n.children.contains (false, i)) with
      | some p => (linkDepth ns p fuel).map (· + 1)
      | none => none

/-- A skeleton image read and checked (R187). -/
def skeleton (dim fanout : Nat) (b : Bytes) : Option Skeleton :=
  let levels := fld b 4 1
  let count := fld b 8 4
  let leaves := fld b 12 4
  let header := fld b 0 4 == 1 && decide (1 ≤ levels ∧ levels ≤ 6) && zeroRange b 5 3 && decide (1 ≤ count) &&
    decide (1 ≤ leaves ∧ leaves ≤ 2 ^ 24) && fld b 16 2 == dim && zeroRange b 18 46
  if !header then none
  else
    let ns := skelNodes dim fanout count (b.drop 64)
    let links := ns.flatMap (·.children)
    let inner := (links.filter (!·.1)).map (·.2)
    let outer := (links.filter (·.1)).map (·.2)
    let depths := ((List.range ns.length).zip ns).all (fun p => linkDepth ns p.1 8 == some p.2.depth)
    let good := ns.length == count && ns.all (·.ok) && depths && !inner.contains 0 &&
      sortBy (fun a b => decide (a < b)) inner == (List.range count).drop 1 &&
      sortBy (fun a b => decide (a < b)) outer == List.range leaves &&
      ns.all (fun n => n.children.all (fun c => c.1 == (n.depth + 1 == levels)))
    if good then some { levels, leaves, nodes := ns } else none

/-- The burrow a descriptor asks for, without its structures. -/
def newBurrow (d : Bytes) (t leaves levels frame den : Nat) : Burrow :=
  { Burrow.free with
    state := 1, vecFmt := fld d 36 1, metric := fld d 37 1, pqBits := fld d 40 1, dim := fld d 34 2, pqM := fld d 38 2
    tenancy := t, levels, fullStore := fld d 41 1, maxNprobe := fld d 42 2, fanoutMax := fld d 44 2, rootLeaf := decide (levels = 0)
    maxItems := fld d 48 8, leafMax := max leaves (ceilDiv (fld d 48 8) 1024), sideMax := fld d 56 4, nextSeq := 1, snapSeq := 0
    slotCount := roundup (2 * fld d 48 8) (2 ^ 20), created := frame, homeDen := den }

/-- The places of a new burrow that do not change: codebook, the DDR of its key blocks and maps, its vector space and its slot
range (R182, R183, R190, R713). -/
def State.placeBurrow (s : State) (bi : Nat) (b : Burrow) : Option State := do
  let die := b.homeDen / 4
  let (cb, s) ← s.place (s.hbmUse b.tenancy die) (max b.bookBytes 1) 64
  let s := s.setBurrow bi { b with codebookAt := cb }
  let (dd, s) ← s.place (s.ddrAllot b.tenancy die) (48 * b.maxItems) 64
  let s := s.setBurrow bi { s.burrow bi with ddrAt := dd, ddrRes := 48 * b.maxItems }
  let (vs, s) ← if b.fullStore = 0 then some (0, s)
    else s.place (if b.fullStore = 1 then flashSpace die else s.ddrAllot b.tenancy die) b.spaceBytes 64
  let taken := sortBy (fun x y => decide (x.1 < y.1))
    ((s.burrows.filter (fun e => e.1 != bi && e.2.state != 0)).map (fun e => (e.2.slotBase, e.2.slotCount)))
  let gs := sweep 0 (2 ^ 36) taken
  let total := (gs.map (places b.slotCount (2 ^ 20))).sum
  let sb ← if total = 0 then none else nthPlace b.slotCount (2 ^ 20) gs (s.freeVal % total)
  some (s.drawn.setBurrow bi { s.burrow bi with vecBase := vs, slotBase := sb })

/-- n empty leaves placed, with their addresses in order; VERSION begins at 1 (DESIGN CHOICE, assumption 112). -/
def State.newLeaves (s : State) (bi : Nat) : (n : Nat) → Option (List Nat × State)
  | 0 => some ([], s)
  | n + 1 => do
    let b := s.burrow bi
    let (l, a, s) ← s.placeLeaf b.tenancy (b.leafBytes 0)
    let s := s.putLeaf bi a { Leaf.empty with root := b.rootLeaf, version := 1, stack := l, keys := b.ddrAt }
    let (rest, s) ← State.newLeaves s bi n
    some (a :: rest, s)

/-- Nodes placed on the home den's die, with their addresses in order. -/
def State.newNodes (s : State) (bi : Nat) : List SkelNode → Option (List Nat × State)
  | [] => some ([], s)
  | n :: t => do
    let b := s.burrow bi
    let (a, s) ← s.place (s.hbmUse b.tenancy (b.homeDen / 4)) (b.nodeBytes n.children.length) 64
    let s := s.setBurrow bi { b with nodes := tset b.nodes a { Node.empty with children := n.children } }
    let (rest, s) ← State.newNodes s bi t
    some (a :: rest, s)

/-- The squared norm of a centroid (R171). -/
def centNorm (c : List Nat) : Nat := dot32 (c.map bf16.decode) (c.map bf16.decode)

/-- The tree of a new burrow: every leaf empty, the nodes linked by address with PARENT, VERSION and norms filled in (R186, R188);
VERSION begins at 1 (DESIGN CHOICE, assumption 112). -/
def State.plantTree (s : State) (bi : Nat) (sk : Option Skeleton) : Option State :=
  match sk with
  | none => do
    let (as, s) ← s.newLeaves bi 1
    some (s.setBurrow bi { s.burrow bi with root := as.headD 0 })
  | some k => do
    let (ls, s) ← s.newLeaves bi k.leaves
    let (ns, s) ← s.newNodes bi k.nodes
    let s := s.setBurrow bi { s.burrow bi with root := ns.headD 0 }
    let parentOf := fun (c : Bool × Nat) => ((ns.zip k.nodes).find? (fun p => p.2.children.contains c)).map (·.1)
    let s := ((List.range ns.length).zip (ns.zip k.nodes)).foldl (fun s p =>
      s.putNode bi p.2.1
        { depth := p.2.2.depth, version := 1, parent := (parentOf (false, p.1)).getD 0
          children := p.2.2.children.map (fun c => (c.1, if c.1 then ls.getD c.2 0 else ns.getD c.2 0))
          cents := p.2.2.cents, norms := p.2.2.cents.map centNorm }) s
    some (((List.range ls.length).zip ls).foldl (fun s p =>
      s.putLeaf bi p.2 { (s.burrow bi).leaf p.2 with parent := (parentOf (true, p.1)).getD 0 }) s)

/-- The leaves of a skeleton; one without a skeleton. -/
def skelLeaves (sk : Option Skeleton) : Nat := (sk.map (·.leaves)).getD 1

/-- The burrow a work creates over a skeleton. -/
def State.burrowFor (s : State) (x : Work) (sk : Option Skeleton) : Burrow :=
  newBurrow x.desc x.tenancy (skelLeaves sk) ((sk.map (·.levels)).getD 0) s.frame s.newBurrowDen

/-- What the operands and the allotments decide (R187, R191), lowest offset first (DEDUCED, assumption 15)
(DESIGN CHOICE, assumption 109). -/
def State.createFails (s : State) (x : Work) (sk : Option Skeleton) : Option Nat :=
  let d := x.desc
  let t := x.tenancy
  if descOp1 d != 0 && sk.isNone then some 16
  else
    let b := s.burrowFor x sk
    let die := b.homeDen / 4
    let others := s.burrowsOf t
    let items := (others.map (·.maxItems)).sum + b.maxItems
    let ddr := 48 * b.maxItems + (if b.fullStore = 2 then b.spaceBytes else 0)
    if s.hbmFree t < b.hbmNeed ∨ s.homeFree t die < b.homeNeed ∨ s.freeBytes (s.ddrAllot t die) < ddr ∨
        s.liveReg t 0x0040308 < items then some 48
    else if bits (s.liveReg t 0x0040310) 24 0 < (others.map (·.sideMax)).sum + b.sideMax then some 56
    else none

/-- Bytes of the codebook at operand address 0: none for HAMMING (R185). -/
def bookLength (d : Bytes) : Nat := if fld d 37 1 = 3 then 0 else 2 ^ fld d 40 1 * fld d 34 2 * 2

/-- Where the nodes of an image end, from a node at `pos` on: after the first header that breaks R187, or the last node. -/
def State.skelEnd (s : State) (x : Work) (skel : Bytes) : (nodes pos : Nat) → Nat
  | 0, pos => pos
  | k + 1, pos =>
    let h := s.readAt x (descOp1 x.desc + pos) 64 (skel.drop pos)
    let n := fld h 2 2
    if 1 ≤ n ∧ n ≤ fld x.desc 44 2 then State.skelEnd s x skel k (pos + nodeSize n (roundup (2 * fld x.desc 34 2) 64)) else pos + 64

/-- Bytes of the skeleton image at operand address 1, as its own headers give them; none without one. -/
def State.skelLength (s : State) (x : Work) (skel : Bytes) : Nat :=
  if descOp1 x.desc = 0 then 0 else s.skelEnd x skel (fld (s.readAt x (descOp1 x.desc) 64 skel) 8 4) 64

/-- What BURROW_CREATE reads. -/
def State.createReads (s : State) (x : Work) (skel : Bytes) : List (Nat × Nat) :=
  (if bookLength x.desc = 0 then [] else [(descOp0 x.desc, bookLength x.desc)]) ++
    (if s.skelLength x skel = 0 then [] else [(descOp1 x.desc, s.skelLength x skel)])

/-- The skeleton read; none without an image or from one that R187 refuses. -/
def State.readSkeleton (s : State) (x : Work) (skel : Bytes) : Option Skeleton :=
  if s.skelLength x skel = 0 then none
  else skeleton (fld x.desc 34 2) (fld x.desc 44 2) (s.readAt x (descOp1 x.desc) (s.skelLength x skel) skel)

/-- The new burrow with its codebook and tree in place; none where something finds no place. -/
def State.buildBurrow (s : State) (x : Work) (sk : Option Skeleton) (book : Bytes) : Option State :=
  let b := s.burrowFor x sk
  ((s.placeBurrow x.burrow b).bind (fun s => s.plantTree x.burrow sk)).map fun s =>
    let words := (List.range (bookLength x.desc / 2)).map (fun i => fld book (2 * i) 2)
    let s := s.setBurrow x.burrow { s.burrow x.burrow with codebook := words, hbmRes := b.hbmNeed }
    s.put (s.burrow x.burrow).codebookAt book

/-- BURROW_CREATE (R150, R185–R191). It fails without side effects; storage that fits by its bytes but finds no place in one
piece also fails with detail 48 (assumption 15). -/
def burrowCreateSt (w : Nat) (codebook skel : Bytes) (s : State) : State :=
  s.withWork w (· == 0x15) fun x s =>
    if (s.burrow x.burrow).state ≠ 0 then s.finish w (Result.err 0x10 32)
    else
      s.withReads x (s.createReads x skel) fun s =>
        let sk := s.readSkeleton x skel
        match s.createFails x sk with
        | some off => s.finish w (Result.err 0x12 off)
        | none =>
          match s.buildBurrow x sk (s.readAt x (descOp0 x.desc) (bookLength x.desc) codebook) with
          | some s' => s'.finish w (Result.done (skelLeaves sk))
          | none => s.finish w (Result.err 0x12 48)

def execBurrowCreate (w : Nat) (codebook skeleton : Bytes) (s : State) : Out :=
  .next (burrowCreateSt w codebook skeleton s)

/-! ### BURROW_FREEZE, BURROW_THAW, BURROW_DROP (R193–R197) -/

/-- A result with a snapshot sequence. -/
def Result.atSnap (count snap : Nat) : Result := { Result.done count with snap }

/-- BURROW_FREEZE (R194). Earlier updates on the burrow have ended, since a state-changing descriptor starts after every work
on its object admitted before it. -/
def burrowFreezeSt (w : Nat) (s : State) : State :=
  s.withWork w (· == 0x16) fun x s =>
    let b := s.burrow x.burrow
    if b.state ≠ 1 then s.finish w (Result.err 0x10 32)
    else (s.setBurrow x.burrow { b with state := 2, merged := b.chunksUsed == 0 }).finish w (Result.atSnap 0 b.snapSeq)

def execBurrowFreeze (w : Nat) (s : State) : Out := .next (burrowFreezeSt w s)

/-- BURROW_THAW (R195). -/
def burrowThawSt (w : Nat) (s : State) : State :=
  s.withWork w (· == 0x17) fun x s =>
    let b := s.burrow x.burrow
    if b.state ≠ 2 then s.finish w (Result.err 0x10 32)
    else (s.setBurrow x.burrow { b with state := 1, merged := false }).finish w (Result.done 0)

def execBurrowThaw (w : Nat) (s : State) : Out := .next (burrowThawSt w s)

/-- The pins of a burrow are cleared (R196). -/
def State.clearPins (s : State) (burrow : Nat) : State :=
  { s with ctxs := s.ctxs.map (fun e =>
      (e.1, if e.2.pinned && e.2.pinBurrow == burrow then
        { e.2 with pinned := false, pinSeq := 0, pinBurrow := 0, pinFrame := 0, pinLife := 0 } else e.2)) }

/-- Storage of a burrow in HBM and DDR. -/
def Burrow.ranges (b : Burrow) : List (Nat × Nat) :=
  (b.codebookAt, b.bookBytes) :: (b.ddrAt, b.ddrRes) :: (if b.fullStore = 2 then [(b.vecBase, b.spaceBytes)] else []) ++
    b.nodes.map (fun n => (n.1, b.nodeBytes n.2.children.length)) ++
    b.leaves.flatMap (fun l => (l.1, b.leafBytes l.2.items.length) :: l.2.side.map (fun c => (c.addr, 4096)))

/-- Every freeze, thaw and drop after w on the same burrow is decided by DROPPING (Table 4.14, R123); the others meet the burrow's state in
their own checks (R710). -/
def State.denyAfter (s : State) (w burrow : Nat) : State :=
  { s with works := s.works.map (fun y =>
      if decide (w < y.id) && decide (0x16 ≤ y.opcode ∧ y.opcode ≤ 0x18) && y.burrow == burrow && y.result.isNone && y.verdict.isNone then
        { y with verdict := some (Result.err 0x10 32) } else y) }

/-- BURROW_DROP (R196, R197). Its first step makes the burrow DROPPING, ends its merges, releases its reservations and vector space and puts its
HBM and DDR on the zero-fill list; when the fill has ended, the burrow is FREE and the work has its result
(DEDUCED, assumption 38). -/
def burrowDropSt (w : Nat) (s : State) : State :=
  s.withWork w (· == 0x18) fun x s =>
    let b := s.burrow x.burrow
    if b.state = 1 ∨ b.state = 2 then
      let s := (s.clearPins x.burrow).denyAfter w x.burrow
      let s := if b.fullStore = 1 then s.trim b.vecBase b.spaceBytes else s
      { s.setBurrow x.burrow { b with state := 3, merges := [], hbmRes := 0 } with
        fill := s.fill ++ b.ranges.flatMap (fun r => fillItems r.1 r.2 b.tenancy)
        vcache := s.vcache.filter (fun v => v.1 != x.burrow) }
    else if b.state = 3 then
      if b.ranges.any (s.filling b.tenancy) then s
      else { s with burrows := tdel s.burrows x.burrow }.finish w (Result.done 0)
    else s.finish w (Result.err 0x10 32)

def execBurrowDrop (w : Nat) (s : State) : Out := .next (burrowDropSt w s)

end Sys2Proof.Machine
end

