-- ==== Sys2Proof/Machine/L1.lean ====
section
/-!
DEFINITION. The L1 of a run's setts and its write-back, and the setts that resident functions take for a frame (R224, R327, R329, R330, R332,
R456).
-/

namespace Sys2Proof.Machine

/-! ### Runs and their L1 -/

/-- A run by the number of its work. -/
def State.run (s : State) (w : Nat) : Option Run := s.runs.find? (fun r => r.w == w)

/-- A run replaced. -/
def State.setRun (s : State) (r : Run) : State := { s with runs := s.runs.map (fun q => if q.w = r.w then r else q) }

/-- A cell at rest at word 0. -/
def Cell.start : Cell := { v := [], acc := [], pc := 0, loops := [], halted := false, syncs := 0, atSync := false }

/-- A cell of a run. -/
def Run.cell (r : Run) (sett c : Nat) : Cell := r.cells.getD (8 * sett + c) Cell.start

/-- The word at a place of a cell's program (R310). -/
def Image.word (i : Image) (sett c pc : Nat) : Nat := (i.prog.getD ((8 * sett + c) * 64 + pc) 0).toNat

/-- The operation code of a word (Table 7.4). -/
def wOp (w : Nat) : Nat := bits w 63 58

/-- The L1 of an image sett, and the run with it replaced. -/
def Run.l1Of (r : Run) (sett : Nat) : List L1Line := r.l1.getD sett []
def Run.setL1 (r : Run) (sett : Nat) (ls : List L1Line) : Run := { r with l1 := lset r.l1 sett ls }

/-- The runs of dirty bytes of a line, as offset and bytes. -/
def dirtyRuns : (i : Nat) → List (Byte × Bool) → List (Nat × Bytes)
  | _, [] => []
  | i, (b, d) :: t =>
    if !d then dirtyRuns (i + 1) t
    else match dirtyRuns (i + 1) t with
      | (j, bs) :: rest => if j = i + 1 then (i, b :: bs) :: rest else (i, [b]) :: (j, bs) :: rest
      | [] => [(i, [b])]

/-- A line's dirty bytes written at its home (R456): done, or waiting for a recall. -/
def State.flushLine (s : State) (x : Work) (l : L1Line) : Bool × State :=
  let rs := dirtyRuns 0 (l.data.zip l.dirty)
  if rs = [] then (true, s)
  else if 2 ^ 60 ≤ l.addr then (true, rs.foldl (fun s r => s.emit (.dma x.port x.pasid (l.addr - 2 ^ 60 + r.1) r.2)) s)
  else if (windowOf l.addr).isSome then (true, rs.foldl (fun s r => s.sendWindow x.id none x.ctx 3 (l.addr + r.1) r.2.length r.2) s)
  else
    let put := fun (s : State) => rs.foldl (fun s r => s.put (l.addr + r.1) r.2) s
    if l.addr / 2 ^ 48 = 2 then
      match s.devLine .devWr x.id (l.addr % 2 ^ 48 / 64) with
      | .ready s => (true, (put s).useRecalled x.id)
      | .blocked s' => (false, s')
    else (true, put s)

/-- Lines of an image sett's L1 that a test picks written back and invalidated; those that wait for a recall stay. -/
def State.flushL1 (s : State) (x : Work) (run sett : Nat) (pick : L1Line → Bool) : State :=
  match s.run run with
  | none => s
  | some r =>
    (r.l1Of sett).foldl (fun s l =>
      if !pick l then s
      else
        let (done, s) := s.flushLine x l
        if done then
          match s.run run with
          | some r => s.setRun (r.setL1 sett ((r.l1Of sett).filter (fun m => m.addr != l.addr)))
          | none => s
        else s) s

/-- The lines of a run's L1 written back (R327, R332); those that wait for a recall stay until L1_WRITE_BACK. -/
def State.flushRun (s : State) (w : Nat) : State :=
  match s.run w, s.work w with
  | some r, some x => (List.range r.image.setts).foldl (fun s k => s.flushL1 x w k (fun _ => true)) s
  | _, _ => s

/-- The MCPY and MPUT that a run's cells have issued and not retired are recorded as not issued (R460): what they sent to other devices is the work's
own from here on, and what came back is dropped. -/
def State.unissue (s : State) (w : Nat) : State :=
  match s.run w with
  | none => s
  | some r =>
    let redo := fun (q : WlReq) => q.w == w && match q.cell with
      | some (k, c) => [0x08, 0x09].contains (wOp (r.image.word k c (r.cell k c).pc))
      | none => false
    { s with fabric := { s.fabric with
        requests := (s.fabric.requests.filter (fun q => !redo q || q.data.isNone)).map (fun q => if redo q then { q with cell := none } else q) } }

/-- A run saved: its state leaves the setts in which it lay, once every dirty line is written back (R327, R330, R332). -/
def State.saveRun (s : State) (w : Nat) : State :=
  let s := (s.unissue w).flushRun w
  { s with runs := s.runs.map (fun r => if r.w = w ∧ r.l1.all (· == []) then { r with home := [] } else r) }

/-- The runs whose state lies on some setts of a den are saved. -/
def State.saveThere (s : State) (den w : Nat) (ks : List Nat) : State :=
  (s.runs.filter (fun q => q.w != w && q.den == den && q.home.any ks.contains)).foldl (fun s q => s.saveRun q.w) s

/-- Another run's state lies on one of some setts of a den. -/
def State.stateThere (s : State) (den w : Nat) (ks : List Nat) : Bool :=
  s.runs.any (fun q => q.w != w && q.den == den && q.home.any ks.contains)

/-! ### Setts of resident functions (R224, R329, R353) -/

/-- A tenancy owns the present period of a unit, or has borrowed it. -/
def State.holdsUnit (s : State) (m t : Nat) : Bool :=
  s.serves m t && (s.lentTo m == some t || s.mapOwner m (s.mapIndex m) == some t)

/-- A run executes on a logical sett of a den in the present frame. -/
def State.executing (s : State) (den k : Nat) : Bool := s.runs.any (fun r => r.den == den && r.setts.contains k)

/-- The number of a tenancy's place in a den. -/
def denKey (den t : Nat) : Nat := 512 * den + t

/-- The logical sett of a den on which a tenancy's re-rank runs in the current frame: the one taken for it already; or, of those on which no
run executes, the lowest-numbered one that it owns or has borrowed (R224), and with none, the lowest that its work borrows by arriving (R67)
(DEDUCED, assumption 118). -/
def State.rerankSett (s : State) (den t : Nat) : Option Nat :=
  let open_ := fun k => !s.executing den k
  match tget s.resident (denKey den t) with
  | some k => if s.serves (settMapIx den k) t then some k else none
  | none =>
    ((List.range 16).find? (fun k => s.holdsUnit (settMapIx den k) t && open_ k)).orElse fun _ =>
      (List.range 16).find? (fun k => s.serves (settMapIx den k) t && open_ k)

/-- The number under which a work that runs a resident function waits for its sett. -/
def settCell : Nat := 2 ^ 23

/-- A work waits for a sett of a den that its resident function may take at a frame boundary (R224, R329). -/
def State.awaitSett (s : State) (w den t : Nat) : State :=
  if s.slots.waits.any (fun v => v.w == w && v.cell == settCell) then s
  else { s with slots := { s.slots with waits := s.slots.waits ++ [{ w, cell := settCell, tenancy := t, unit := settMapIx den 0, served := false }] } }

/-- A tenancy's resident functions take a sett of a den for the rest of the frame; runs whose state lies there are saved first (R329, R330)
(DEDUCED, assumption 118). -/
def State.takeResident (s : State) (den t k : Nat) : Gate :=
  if tget s.resident (denKey den t) = some k then .go s
  else
    let s := s.saveThere den (2 ^ 72) [k]
    if s.stateThere den (2 ^ 72) [k] then .hold s
    else
      let s := s.claim (settMapIx den k) t
      .go { s with resident := tset s.resident (denKey den t) k }

/-- An act of a work that a resident function makes on a sett of a den: on the sett taken, or once one can be (R224, R353). -/
def State.onSett (s : State) (w den t : Nat) (f : State → State) : State :=
  match s.rerankSett den t with
  | some k => match s.takeResident den t k with
    | .go s => f (s.leaveUnits w settCell)
    | .hold s => s.awaitSett w den t
  | none => s.awaitSett w den t

end Sys2Proof.Machine
end

