-- ==== Sys2Proof/Machine/Search.lean ====
section
/-!
DEFINITION. Searching with Fox walkers on one device: walks and their contexts, the walk and the scan, filters, re-rank and the
top-k unit (R158–R161, R198–R239, R244–R245, R256).
-/

namespace Sys2Proof.Machine

/-! ### Parameters of a query (Tables 5.2, 5.3 and 5.6) -/

def schK (d : Bytes) : Nat := fld d 34 2
def schNprobe (d : Bytes) : Nat := fld d 36 2
def schRerank (d : Bytes) : Nat := fld d 38 2
def schMode (d : Bytes) : Nat := fld d 40 1
def schSets (d : Bytes) : Nat := fld d 41 1
def schMask (d : Bytes) : Nat := fld d 48 8
def schValue (d : Bytes) : Nat := fld d 56 8
def schWiden (d : Bytes) : Bool := bit (descFlags d) 1
def schScores (d : Bytes) : Bool := bit (descFlags d) 2
def schPin (d : Bytes) : Bool := bit (descFlags d) 3
def schFp32 (d : Bytes) : Bool := bit (descFlags d) 4
def schGroup (d : Bytes) : Bool := bit (descFlags d) 5

/-- Queries of a descriptor (R211). -/
def schCount (d : Bytes) : Nat := if descOpcode d = 0x11 then fld d 42 2 else 1

/-- Bytes of one query vector, and from one query to the next (R211). -/
def Burrow.queryBytes (b : Burrow) (d : Bytes) : Nat := if schFp32 d then 4 * b.dim else vecSize b.vecFmt b.dim
def Burrow.queryStep (b : Burrow) (d : Bytes) : Nat := roundup (b.queryBytes d) 64

/-- The checks in the order of Table 5.4. Those on the burrow's parameters are left out while the id is FREE
(DEDUCED, assumption 37). -/
def searchChecks (b : Burrow) (d : Bytes) : List (Nat × Nat) :=
  let live := b.state != 0
  let k := schK d
  let sets := schMode d == 3 || schMode d == 4
  badIf 1 0x12 ((schFp32 d && live && b.metric == 3) || (schGroup d && (schPin d || descOpcode d == 0x11))) ++
  badIf 8 0x12 (descOp0 d == 0 || descOp0 d % 64 != 0) ++
  badIf 16 0x12 ((descOp1 d != 0) != sets || descOp1 d % 8 != 0) ++
  badIf 24 0x12 (descRes d == 0 || descRes d % 64 != 0) ++
  badIf 34 0x12 (k == 0 || decide (1024 < k)) ++
  badIf 36 0x12 (schNprobe d == 0 || (live && decide (b.maxNprobe < schNprobe d))) ++
  badIf 38 0x12 (schRerank d != 0 && (decide (schRerank d < k ∨ 1024 < schRerank d) || (live && b.fullStore == 0))) ++
  badIf 40 0x12 (decide (4 < schMode d)) ++
  badIf 41 0x12 (if sets then schSets d == 0 || decide (16 < schSets d) else schSets d != 0) ++
  badIf 42 0x12 (descOpcode d == 0x11 && (fld d 42 2 == 0 || decide (16 < fld d 42 2))) ++
  badIf 56 0x12 (decide (schValue d &&& schMask d ≠ schValue d) || (schMode d != 1 && schMode d != 2 && schValue d != 0))

/-- A query that has not begun. -/
def Query.fresh (nprobe : Nat) : Query :=
  { stage := .waiting, lead := none, partner := none, vec := [], nprobe, passed := 0, widened := false, cands := []
    dropped := 0, poisoned := false, media := false, status := 0, results := [] }

/-- The filter of Table 5.6. -/
def passes (d : Bytes) (sets : List Nat) (attr : Nat) : Bool :=
  let a := attr &&& schMask d
  match schMode d with
  | 1 => a == schValue d
  | 2 => a != schValue d
  | 3 => sets.contains a
  | 4 => !sets.contains a
  | _ => true

/-- The set values at operand address 1. -/
def setValues (d b : Bytes) : List Nat := (List.range (schSets d)).map (fun i => fld b (8 * i) 8)

/-! ### Query and item vectors (R160, R161, R208) -/

/-- A vector normalised in FP32: each element divided by the norm (R160) (DEDUCED, assumption 49). -/
def normalise (v : List Fp) : List Nat := v.map (fun x => div32 (r32 x) (norm32 v))

/-- The norm of a vector is zero. -/
def zeroNorm (v : List Fp) : Bool := (f32 (norm32 v)).isZero

/-- A query converted to FP32, normalised in a COSINE burrow; none if R161 refuses it. -/
def Burrow.query (b : Burrow) (fp32Query : Bool) (bytes : Bytes) : Option (List Nat) :=
  let v := vecElems (if fp32Query then 0 else b.vecFmt) b.dim bytes
  if b.metric = 2 then (if zeroNorm v then none else some (normalise v)) else some (v.map r32)

/-! ### Scores (Table 4.3, R302) -/

/-- The node score of a child. -/
def Burrow.nodeScore (b : Burrow) (q : List Fp) (cent : List Nat) (norm : Nat) : Nat :=
  let p := dot32 q (cent.map bf16.decode)
  if b.metric = 0 ∨ b.metric = 3 then r32 (((f32 p).mul (.fin false 2 0)).add (f32 norm).neg) else p

/-- The codeword index of subquantiser j in a code (R155). -/
def Burrow.codeAt (b : Burrow) (code : Bytes) (j : Nat) : Nat := elemAt b.pqBits code j

/-- The codeword of subquantiser j and index c (R157). -/
def Burrow.codeword (b : Burrow) (j c : Nat) : List Fp :=
  let n := b.dim / b.pqM
  (List.range n).map (fun e => bf16.decode (b.codebook.getD ((j * 2 ^ b.pqBits + c) * n + e) 0))

/-- Subvector j of a vector. -/
def Burrow.subvector (b : Burrow) (q : List Fp) (j : Nat) : List Fp := (q.drop (j * (b.dim / b.pqM))).take (b.dim / b.pqM)

/-- Bits in which two equally long byte sequences differ. -/
def differ (a b : Bytes) : Nat :=
  (List.zipWith (fun x y => ((List.range 8).filter (fun i => (x ^^^ y).getLsbD i)).length) a b).sum

/-- Binary elements packed as bytes. -/
def packBits (q : List Fp) : Bytes := packElems 1 (q.map (fun x => b2n (!x.isZero)))

/-- The code score of an item (R217): the sum of the lookup-table entries its code selects (DEDUCED, assumption 51). -/
def Burrow.codeScore (b : Burrow) (q : List Fp) (code : Bytes) : Nat :=
  if b.metric = 3 then int32f (-((differ ((packBits q).take b.codeBytes) (code.take b.codeBytes) : Nat) : Int))
  else
    sum32 ((List.range b.pqM).map (fun j =>
      let cw := b.codeword j (b.codeAt code j)
      f32 (if b.metric = 0 then neg32 (dist32 (b.subvector q j) cw) else dot32 (b.subvector q j) cw)))

/-- The exact score of an item's full vector (DEDUCED, assumption 51). -/
def Burrow.exactScore (b : Burrow) (q : List Fp) (vec : Bytes) : Nat :=
  let x := vecElems b.vecFmt b.dim vec
  if b.metric = 0 then neg32 (dist32 q x)
  else if b.metric = 3 then int32f (-((differ (packBits q) (packBits x) : Nat) : Int))
  else dot32 q x

/-! ### The walk (R214, R256) -/

/-- The address that stood where `a` stands at the boundary that began a frame: the swap log followed back (R256). -/
def Burrow.resolve (b : Burrow) (frame : Nat) : (fuel a : Nat) → Nat
  | 0, a => a
  | fuel + 1, a =>
    match b.swaps.find? (fun w => w.installed == a && decide (frame < w.frame)) with
    | some w => Burrow.resolve b frame fuel w.replaced
    | none => a

def Burrow.asOf (b : Burrow) (frame a : Nat) : Nat := b.resolve frame b.swaps.length a

/-- Strictly better by score, descending; zeros of both signs are equal (R230). -/
def scoreBefore (a b : Nat) : Bool := (f32 b).lt (f32 a)

/-- One level of the walk: the best children of a beam, in the order of R214. -/
def Burrow.level (b : Burrow) (q : List Fp) (frame nprobe : Nat) (beam : List Nat) : List Nat :=
  let cand := beam.flatMap (fun a =>
    let n := b.node a
    ((List.range n.children.length).map (fun i =>
      (b.nodeScore q (n.cents.getD i []) (n.norms.getD i 0), (n.children.getD i (true, 0)).2))).filter (fun c => !(f32 c.1).isNan))
  ((sortBy (fun x y => scoreBefore x.1 y.1) cand).take nprobe).map (fun c => b.asOf frame c.2)

/-- The walk from a beam down to the leaves. -/
def Burrow.descend (b : Burrow) (q : List Fp) (frame nprobe : Nat) : (fuel : Nat) → List Nat → List Nat
  | 0, beam => beam
  | fuel + 1, beam =>
    if beam.all (fun a => (tget b.leaves a).isSome) then beam
    else Burrow.descend b q frame nprobe fuel (b.level q frame nprobe beam)

/-- The nodes a walk reads on its way down. -/
def Burrow.passed (b : Burrow) (q : List Fp) (frame nprobe : Nat) : (fuel : Nat) → List Nat → List Nat
  | 0, _ => []
  | fuel + 1, beam =>
    if beam.all (fun a => (tget b.leaves a).isSome) then []
    else beam ++ Burrow.passed b q frame nprobe fuel (b.level q frame nprobe beam)

/-- The leaves a query scans, in rank order. -/
def Burrow.walkLeaves (b : Burrow) (q : List Fp) (frame nprobe : Nat) : List Nat := b.descend q frame nprobe 8 [b.asOf frame b.root]

/-! ### The scan (R215, R216, R245) -/

/-- An item a scan considers: its local index, key, attributes, code and slot. -/
structure Item where
  j    : Nat
  key  : Nat
  attr : Nat
  code : Bytes
  slot : Nat
  deriving DecidableEq, Repr

/-- Side-list entries in chain order with the POS that names each: ordinal × 256 + index in the chunk (R179). -/
def Leaf.flat (l : Leaf) : List (Nat × SideEntry) :=
  ((List.range l.side.length).zip l.side).flatMap (fun c =>
    ((List.range c.2.entries.length).zip c.2.entries).map (fun e => (c.1 * 256 + e.1, e.2)))

/-- Side-list inserts with their POS and local index. -/
def numberInserts : (n : Nat) → List (Nat × SideEntry) → List (Nat × Item)
  | _, [] => []
  | n, (p, .insert slot _ key attr code) :: t => (p, { j := 8192 + n, key, attr, code, slot }) :: numberInserts (n + 1) t
  | n, _ :: t => numberInserts n t

/-- The items of a leaf visible at S (R245), body first; a burrow with MERGED set has no side list to scan (R194). -/
def Leaf.visible (l : Leaf) (merged : Bool) (S : Nat) : List Item :=
  let side := if merged then [] else l.flat.takeWhile (fun e => decide (e.2.seq ≤ S))
  let hides := fun target => side.filterMap (fun e => match e.2 with | .tomb t p _ _ => if t = target then some p else none | _ => none)
  let hideBody := hides 0
  let hideSide := hides 1
  let body := ((List.range l.items.length).zip l.items).filter (fun p => !p.2.tomb && !hideBody.contains p.1)
  body.map (fun p => { j := p.1, key := p.2.key, attr := p.2.attr, code := p.2.code, slot := p.2.slot }) ++
    ((numberInserts 0 side).filter (fun p => !hideSide.contains p.1)).map (·.2)

/-- The order of candidates: score descending, then input position ascending (R219, R229). -/
def candBefore (a b : Cand) : Bool := scoreBefore a.score b.score || (!scoreBefore b.score a.score && decide (a.pos < b.pos))

/-- What scanning leaves, each with its rank, yields: every accepted item (R216), in no order. -/
def Burrow.scan (b : Burrow) (d : Bytes) (sets : List Nat) (q : List Fp) (S : Nat) (leaves : List (Nat × Nat)) : List Cand :=
  leaves.flatMap (fun p =>
    (((b.leaf p.2).visible b.merged S).filter (fun i => passes d sets i.attr)).filterMap (fun i =>
      let sc := b.codeScore q i.code
      if (f32 sc).isNan then none else some { score := sc, key := i.key, slot := i.slot, pos := p.1 * 65536 + i.j }))

/-- The parts of a leaf a scan reads: header, codes and bitmap; attributes only with a filter (R221); chunks only while the burrow's lists are
not merged (R194). -/
def Burrow.scanReads (b : Burrow) (d : Bytes) (a : Nat) : List (Nat × Nat) :=
  let l := b.leaf a
  let n := l.items.length
  let codes := 128 + roundup (8 * n) 64
  (a, 128) :: (a + codes, b.leafBytes n - codes) :: ((if schMode d = 0 then [] else [(a + 128, roundup (8 * n) 64)]) ++
    (if b.merged then [] else l.side.map (fun c => (c.addr, 4096))))

/-- One walk and scan of a query at an nprobe: PASSED, the candidates kept (R219), and whether it read poison (R447). -/
def State.walkScan (s : State) (b : Burrow) (x : Work) (sets : List Nat) (q : List Fp) (nprobe : Nat) : Nat × List Cand × Bool :=
  let d := x.desc
  let ls := b.walkLeaves q x.frame nprobe
  let poisoned := fun a => (b.scanReads d a).any (fun r => s.poisonedIn r.1 r.2)
  let found := b.scan d sets q x.snap (((List.range ls.length).zip ls).filter (fun p => !poisoned p.2))
  let keep := if schRerank d = 0 then schK d else schRerank d
  (found.length, (sortBy candBefore found).take keep, ls.any poisoned ||
    (b.passed q x.frame nprobe 8 [b.asOf x.frame b.root]).any (fun a => s.poisonedIn a (b.nodeBytes (b.node a).children.length)))

/-- The addresses a walk reads: nodes, leaves and side-list chunks. -/
def Burrow.walkReads (b : Burrow) (q : List Fp) (frame nprobe : Nat) : List Nat :=
  b.passed q frame nprobe 8 [b.asOf frame b.root] ++
    (b.walkLeaves q frame nprobe).flatMap (fun a => a :: (if b.merged then [] else (b.leaf a).side.map (·.addr)))

/-- A query scanned, with the one widened re-walk of R222. -/
def State.scanQuery (s : State) (b : Burrow) (x : Work) (sets : List Nat) (vec : List Nat) (qy : Query) : Query :=
  let d := x.desc
  let q := vec.map f32
  let r := s.walkScan b x sets q (schNprobe d)
  let widen := schWiden d && decide (r.1 < schK d) && decide (schNprobe d < b.maxNprobe)
  let np := if widen then min (2 * schNprobe d) b.maxNprobe else schNprobe d
  let r := if widen then s.walkScan b x sets q np else r
  { qy with
    stage := .scanned, lead := none, partner := none, vec, nprobe := np, passed := min r.1 (2 ^ 32 - 1), widened := widen
    cands := r.2.1, poisoned := r.2.2 }

/-! ### Walk contexts and banks (R199–R203) -/

/-- Walk contexts and banks of a walker that a tenancy holds. -/
def State.ownCtxs (s : State) (t walker : Nat) : List Nat := (List.range 64).filter (fun c => s.ownedBy 0x0440000 (64 * walker + c) t)
def State.ownBanks (s : State) (t walker : Nat) : List Nat := (List.range 8).filter (fun k => s.ownedBy 0x0444000 (8 * walker + k) t)

/-- The walks in progress. -/
def State.walks (s : State) : List Walk :=
  (s.works.flatMap (·.queries)).flatMap (fun q => q.lead.toList ++ q.partner.toList)

/-- Those that are free. -/
def State.freeCtxs (s : State) (t walker : Nat) : List Nat :=
  (s.ownCtxs t walker).filter (fun c => !s.walks.any (fun w => w.walker == walker && w.ctx == c))
def State.freeBanks (s : State) (t walker : Nat) : List Nat :=
  (s.ownBanks t walker).filter (fun k => !s.walks.any (fun w => w.walker == walker && w.banks.contains k))

/-- Banks a walk needs (R200). -/
def Burrow.banks (b : Burrow) : Nat := if b.metric = 3 then 0 else ceilDiv (b.pqM * 2 ^ b.pqBits * 4) 32768

/-- The walker a walk of a tenancy gets on a die (R201) (DESIGN CHOICE, assumption 41). -/
def State.pickWalk (s : State) (t die banks : Nat) : Option Walk :=
  let ws := ((List.range 48).map (· + 48 * die)).filter (fun w =>
    s.freeCtxs t w != [] && decide (banks ≤ (s.freeBanks t w).length) && s.mayUse (foxMap w) t)
  (bestBy (fun a b => decide ((s.freeCtxs t b).length < (s.freeCtxs t a).length)) ws).map (fun w =>
    { walker := w, ctx := (s.freeCtxs t w).headD 0, banks := (s.freeBanks t w).take banks })

/-- A sett of a den is the tenancy's to use in some frame. -/
def State.anySett (s : State) (t den : Nat) : Bool := (List.range 16).any (fun k => s.mayUse (settMapIx den k) t)

/-- What R203 asks at admission, and R71 of the walkers: on each die, a context on some walker, enough banks on some walker, and slots to
use on some walker with a context. -/
def State.canWalk (s : State) (t banks : Nat) : Bool :=
  [0, 1].all (fun die =>
    let ws := (List.range 48).map (· + 48 * die)
    ws.any (fun w => s.ownCtxs t w != []) && ws.any (fun w => decide (banks ≤ (s.ownBanks t w).length)) &&
      ws.any (fun w => s.ownCtxs t w != [] && s.mayUse (foxMap w) t))

/-- A SEARCH or SEARCH_BATCH. -/
def isSearch (op : Nat) : Bool := op == 0x10 || op == 0x11

/-- A query that is to be searched on this device waits for its walks. -/
def Work.waits (x : Work) : Bool := isSearch x.opcode && x.result.isNone && x.queries.any (fun q => q.stage == .waiting)

/-- WALK_START (R201, R202): the first waiting query of a tenancy gets its lead walk on the home den's die and its partner walk
on the other, both at the same moment. -/
def walkStartSt (w query : Nat) (s : State) : State :=
  s.withWork w isSearch fun x s =>
    let b := s.burrow x.burrow
    let first := (s.works.takeWhile (fun y => y.id != w)).all (fun y => !(y.tenancy == x.tenancy && y.waits && s.mayStart y && y.verdict.isNone)) &&
      (x.queries.take query).all (fun q => q.stage != .waiting)
    match x.queries[query]? with
    | some q =>
      if first && q.stage == .waiting && (b.state == 1 || b.state == 2 || b.state == 3) then
        match s.pickWalk x.tenancy (b.homeDen / 4) b.banks, s.pickWalk x.tenancy (1 - b.homeDen / 4) b.banks with
        | some l, some p =>
          s.setWork { x with queries := lset x.queries query { q with stage := .walking, lead := some l, partner := some p } }
        | _, _ => s
      else s
    | none => s

def execWalkStart (w query : Nat) (s : State) : Out := .next (walkStartSt w query s)

/-! ### SEARCH and SEARCH_BATCH on this device (R206, R211) -/

/-- What a search reads: its queries and its set values. -/
def Burrow.searchReads (b : Burrow) (d : Bytes) : List (Nat × Nat) :=
  (if b.dim = 0 then [] else (List.range (schCount d)).map (fun i => (descOp0 d + i * b.queryStep d, b.queryBytes d))) ++
    (if schMode d = 3 ∨ schMode d = 4 then [(descOp1 d, 8 * schSets d)] else [])

/-- The queries converted (R208); none where one breaks R161. -/
def State.searchVecs (s : State) (b : Burrow) (x : Work) (query : Bytes) : Option (List (List Nat)) :=
  (List.range (schCount x.desc)).mapM (fun i =>
    let off := i * b.queryStep x.desc
    b.query (schFp32 x.desc) (s.readAt x (descOp0 x.desc + off) (b.queryBytes x.desc) (query.drop off)))

/-- The pin a work asks for is missing: no pin, or one of another burrow (R139, R206). -/
def State.pinMissing (s : State) (x : Work) : Bool :=
  schPin x.desc && x.snapLate && !((s.ctx x.ctx).pinned && (s.ctx x.ctx).pinBurrow == x.burrow)

/-- What R206 finds once the operands have been read: the lowest detail decides. -/
def State.searchFails (s : State) (b : Burrow) (x : Work) (vecs : Option (List (List Nat))) (sets : List Nat) : Option Result :=
  if b.dim != 0 && vecs.isNone then some (Result.err 0x12 8)
  else if (schMode x.desc == 3 || schMode x.desc == 4) && sets.any (fun v => v &&& schMask x.desc != v) then some (Result.err 0x12 16)
  else if b.state = 0 ∨ s.pinMissing x then some (Result.err 0x10 32)
  else none

/-- The units that serve a query's walks (R61, R64, R165): the lead walker; the partner walker, if a leaf lies on its die; the stacks whose
nodes, leaves and chunks the walks read. -/
def State.queryUnits (s : State) (b : Burrow) (x : Work) (qy : Query) (vec : List Nat) : List (List Nat) :=
  let q := vec.map f32
  let np := if schWiden x.desc then min (2 * schNprobe x.desc) b.maxNprobe else schNprobe x.desc
  let away := (b.walkLeaves q x.frame np).any (fun a => s.physDie (b.leaf a).stack != b.homeDen / 4)
  let lead := qy.lead.toList.map (fun l => [foxMap l.walker])
  let partner := if away then qy.partner.toList.map (fun l => [foxMap l.walker]) else []
  lead ++ partner ++ ((b.walkReads q x.frame np).map (fun a => s.unitsOf a)).eraseDups

/-- The number under which a query's accesses wait. -/
def queryCell (i : Nat) : Nat := 2 ^ 20 + i

/-- The queries of a work that have their walks are walked and scanned, each once its units have served it. -/
def State.scanWork (s : State) (x : Work) (vecs : List (List Nat)) (sets : List Nat) : State :=
  let b := s.burrow x.burrow
  let snap := if schPin x.desc && x.snapLate then (s.ctx x.ctx).pinSeq else x.snap
  let x := { x with snap, snapLate := false }
  ((List.range x.queries.length).zip vecs).foldl (fun s p =>
    match s.work x.id with
    | none => s
    | some y =>
      match y.queries[p.1]? with
      | some q =>
        if q.stage == .walking then
          s.onUnits x.id (queryCell p.1) x.tenancy (s.queryUnits b x q p.2) fun s =>
            s.setWork { y with queries := lset y.queries p.1 (s.scanQuery b x sets p.2 q) }
        else s
      | none => s) (s.setWork x)

/-- The checks of steps 7 and 9 against the parameters of a burrow that was FREE at admission (R205, R203, R224). -/
def State.searchLate (s : State) (b : Burrow) (x : Work) : Option Result :=
  if x.unchecked = false ∨ b.state = 0 then none
  else match lowestCheck (searchChecks b x.desc) with
    | some r => some r
    | none => if s.canWalk x.tenancy b.banks && (schRerank x.desc == 0 || s.anySett x.tenancy b.homeDen) then none else some (Result.err 0x60 1)

/-- The step of SEARCH and SEARCH_BATCH on this device: operands read and checked, then the walks in progress run. -/
def State.searchLocal (s : State) (x : Work) (query setVals : Bytes) : State :=
  let b := s.burrow x.burrow
  match s.searchLate b x with
  | some r => s.finish x.id r
  | none =>
  s.withReads x (b.searchReads x.desc) fun s =>
    let vecs := s.searchVecs b x query
    let sets := setValues x.desc (s.readAt x (descOp1 x.desc) (8 * schSets x.desc) setVals)
    match s.searchFails b x vecs sets with
    | some r => s.finish x.id r
    | none => s.scanWork x (vecs.getD []) sets

def searchBatchSt (w : Nat) (query setVals : Bytes) (s : State) : State :=
  s.withWork w (· == 0x11) fun x s => s.searchLocal x query setVals

def execSearchBatch (w : Nat) (query setVals : Bytes) (s : State) : Out := .next (searchBatchSt w query setVals s)

/-! ### Re-rank (R224–R226, R402–R404) -/

/-- Strides a tenancy's part of the full-vector cache of a die holds (SQL_VCACHE_ALLOT, R402). -/
def State.vcacheCap (s : State) (t die : Nat) (b : Burrow) : Nat :=
  bits (s.liveReg t 0x0500200) (16 * die + 15) (16 * die) * 2 ^ 30 / max (vecStride b.vecFmt b.dim) 1

/-- The set of the cache a vector belongs to: a part has one set for every 16 strides (R402). -/
def vcacheSet (cap burrow slot : Nat) : Nat := Config.vcacheSet burrow slot % max (cap / 16) 1

/-- A vector used in the cache, most recent first: a tenancy's vectors of one die. The least recently used of the 16 ways of its set
leaves a full set (R402), and the oldest leaves a part full of strides of several lengths (DESIGN CHOICE, assumption 122). -/
def State.cacheVec (s : State) (burrow slot : Nat) : State :=
  let b := s.burrow burrow
  let die := b.homeDen / 4
  let cap := s.vcacheCap b.tenancy die b
  if cap = 0 ∨ b.fullStore ≠ 1 then s
  else
    let mine := fun (v : Nat × Nat × Nat) => (s.burrow v.1).tenancy == b.tenancy && v.2.2 == die
    let rest := s.vcache.filter (fun v => !(v.1 == burrow && v.2.1 == slot))
    let gone := (rest.filter (fun v => mine v && vcacheSet cap v.1 v.2.1 == vcacheSet cap burrow slot)).drop 15
    let part := rest.filter (fun v => mine v && !gone.contains v)
    { s with vcache := (burrow, slot, die) :: (part.take (cap - 1) ++ rest.filter (fun v => !mine v)) }

/-- A lookup of a candidate's vector counted and its fill (R403, R404). -/
def State.lookupVec (s : State) (burrow : Nat) (readable : Bool) (slot : Nat) : State :=
  let b := s.burrow burrow
  let tel := 0x0B00000 + 0x100 * b.tenancy
  if s.vcacheCap b.tenancy (b.homeDen / 4) b = 0 ∨ b.fullStore ≠ 1 then s
  else if s.vcache.any (fun v => v.1 == burrow && v.2.1 == slot) then (s.bump (tel + 16) 1).cacheVec burrow slot
  else
    let s := s.bump (tel + 24) 1
    if readable then s.cacheVec burrow slot else s

/-- The full vector of a slot. -/
def Burrow.vector (b : Burrow) (slot : Nat) : Bytes := slice (tgetD b.vectors slot []) 0 (vecSize b.vecFmt b.dim)

/-- Device memory holds poison where a slot's vector lies in DDR. -/
def State.vecPoisoned (s : State) (b : Burrow) (slot : Nat) : Bool :=
  b.fullStore == 2 && s.poisonedIn (b.vecBase + (slot - b.slotBase) * vecStride b.vecFmt b.dim) (vecSize b.vecFmt b.dim)

/-- Where the vector of a slot stands. -/
def Burrow.vecAddr (b : Burrow) (slot : Nat) : Nat := b.vecBase + (slot - b.slotBase) * vecStride b.vecFmt b.dim

/-- A vector stands in the full-vector cache. -/
def State.vecCached (s : State) (bi slot : Nat) : Bool := s.vcache.any (fun v => v.1 == bi && v.2.1 == slot)

/-- The grains that a re-rank reads from flash: those of the vectors that miss the cache (R225). -/
def State.missGrains (s : State) (b : Burrow) (bi : Nat) (slots : List Nat) : List (Nat × Nat) :=
  if b.fullStore ≠ 1 then []
  else ((slots.filter (fun k => !s.vecCached bi k)).flatMap (fun k => grainsOf (b.vecAddr k) (vecStride b.vecFmt b.dim))).eraseDups

/-- A vector lies on a LOST grain, of which no write waits that covers it. -/
def State.vecLost (s : State) (b : Burrow) (bi slot : Nat) : Bool :=
  (s.missGrains b bi [slot]).any (fun g => match tget (s.badger g.1).map g.2 with | some m => m.lost | none => false)

/-- The slot-granular units of a re-rank's reads: the DDR of FULL_STORE 2, or of the cache on the home den's die (R225, R402). -/
def State.vectorUnits (s : State) (b : Burrow) (bi : Nat) (slots : List Nat) : List (List Nat) :=
  if b.fullStore = 2 then (slots.map (fun k => s.unitsOf (b.vecAddr k))).eraseDups
  else if slots.any (s.vecCached bi) then [s.unitsOf (ddrBase (b.homeDen / 4))] else []

/-- A search has a query that is to be re-ranked on a den. -/
def State.reranks (s : State) (y : Work) (den : Nat) : Bool :=
  isSearch y.opcode && schRerank y.desc != 0 && (s.burrow y.burrow).homeDen == den && y.queries.any (·.stage == .scanned)

/-- The exact scores of a query's candidates, once their vectors are there (R225, R226). -/
def State.rerankQuery (s : State) (x : Work) (query : Nat) (q : Query) (unreadable poisoned : List Nat) : State :=
  let b := s.burrow x.burrow
  let bad := fun (c : Cand) => unreadable.contains c.slot || s.vecLost b x.burrow c.slot
  let poi := fun (c : Cand) => poisoned.contains c.slot || s.vecPoisoned b c.slot
  let kept := q.cands.filter (fun c => !bad c && !poi c)
  let qv := q.vec.map f32
  let q' := { q with
    stage := .ranked, cands := kept.map (fun c => { c with score := b.exactScore qv (b.vector c.slot) })
    dropped := q.cands.length - kept.length, poisoned := q.poisoned || q.cands.any poi, media := q.cands.any (fun c => bad c && !poi c) }
  let s := (q.cands.filter (fun c => unreadable.contains c.slot)).foldl (fun s c => (s.missGrains b x.burrow [c.slot]).foldl State.loseGrain s) s
  let s := q.cands.foldl (fun s c => s.lookupVec x.burrow (!bad c && !poi c) c.slot) s
  s.setWork { x with queries := lset x.queries query q' }

/-- RERANK_START (R224–R226), in its turn on the den (R128), once the units that hold the vectors have served it. `unreadable` and `poisoned`
are the slots whose vectors the media could not give, or gave as poison. -/
def rerankStartSt (w query : Nat) (unreadable poisoned : List Nat) (s : State) : State :=
  s.withWork w isSearch fun x s =>
    let b := s.burrow x.burrow
    match x.queries[query]? with
    | some q =>
      if q.stage == .scanned && schRerank x.desc != 0 && s.turnOf x (fun y => s.reranks y b.homeDen) then
        let slots := q.cands.map (·.slot)
        s.onSett w b.homeDen x.tenancy fun s =>
          s.onMedia w (queryCell query) x.tenancy (s.readDies (s.missGrains b x.burrow slots)) (s.vectorUnits b x.burrow slots) fun s =>
            s.rerankQuery x query q unreadable poisoned
      else s
    | none => s

def execRerankStart (w query : Nat) (unreadable poisoned : List Nat) (s : State) : Out :=
  .next (rerankStartSt w query unreadable poisoned s)

/-! ### The top-k unit (R229–R234) -/

/-- The item id that marks an unused entry. -/
def noItem : Nat := 2 ^ 64 - 1

/-- The first of several copies of an index is kept (R233): the list is in order, so later copies go. -/
def dedup : (seen : List Nat) → List Cand → List Cand
  | _, [] => []
  | seen, c :: t => if seen.contains c.key then dedup seen t else c :: dedup (c.key :: seen) t

/-- The first K of entries under an order, without NaN scores and reserved indices (R229, R230, R233). -/
def topEntries (before : Cand → Cand → Bool) (k : Nat) (cs : List Cand) : List Cand :=
  (dedup [] (sortBy before (cs.filter (fun c => !(f32 c.score).isNan && c.key != noItem)))).take k

/-- The result block of R209. -/
def resultBlock (d : Bytes) (r : List Cand) : Bytes :=
  let k := schK d
  ((List.range k).map (fun i => toLe 8 ((r[i]?.map (·.key)).getD noItem))).flatten ++
    (if schScores d then ((List.range k).map (fun i => toLe 4 ((r[i]?.map (·.score)).getD fp32.nanCode))).flatten else [])

/-- A query's status (R239) without a group. -/
def Query.outcome (q : Query) (k : Nat) : Nat :=
  if q.poisoned then 0x32 else if q.media then 0x31 else if q.widened then 3 else if q.results.length < k then 1 else 0

/-- A query ready for the top-k unit. -/
def Query.ready (q : Query) (d : Bytes) : Bool := q.stage == (if schRerank d = 0 then .scanned else .ranked)

/-- The query after selection. -/
def Query.select (q : Query) (d : Bytes) : Query :=
  let q := { q with results := topEntries candBefore (schK d) q.cands, stage := .done }
  { q with status := q.outcome (schK d) }

/-- NPROBE, zero and PASSED as completion bytes 24–31 (R210). -/
def Query.tail (q : Query) : Nat := q.nprobe + 2 ^ 32 * q.passed

/-- The result of a SEARCH without GROUP (R210, R226). -/
def Query.result (q : Query) (snap : Nat) : Result :=
  { status := q.status, flags := 2 * b2n q.widened, count := q.results.length, snap
    detail := if q.status = 0x32 ∨ q.status = 0x31 then min q.dropped 255 else 0, b24 := q.tail }

/-- A status record of a batch (Table 5.5). -/
def Query.record (q : Query) : Bytes :=
  toLe 1 q.status ++ toLe 1 (2 * b2n q.widened) ++ toLe 2 q.nprobe ++ toLe 4 q.results.length ++ toLe 4 q.passed ++ toLe 4 0

/-- Bytes from one result block of a batch to the next (R212). -/
def batchStep (d : Bytes) : Nat := roundup (8 * schK d + (if schScores d then 4 * schK d else 0)) 64

/-- The result of a batch (R213). -/
def batchResult (qs : List Query) (snap : Nat) : Result :=
  let bad := ((List.range qs.length).zip qs).find? (fun p => p.2.status != 0)
  { status := (bad.map (·.2.status)).getD 0, flags := 2 * b2n (qs.any (·.widened)), count := qs.length, snap
    detail := match bad with
      | some (i, q) => if q.status = 0x32 ∨ q.status = 0x31 then min q.dropped 255 + 256 * i else 0
      | none => 0
    b24 := 0 }

/-- The accesses that write the results of a search. -/
def searchWrites (d : Bytes) : List (Nat × Nat × Bool) :=
  if descOpcode d = 0x11 then
    (descRes d, 16 * schCount d, true) :: (List.range (schCount d)).map (fun i => (descRes d + 256 + i * batchStep d, (resultBlock d []).length, true))
  else [(descRes d, (resultBlock d []).length, true)]

/-- Selection of one query of a ring's search, with its results written (R209, R212, R227). -/
def State.selectLocal (s : State) (x : Work) (query : Nat) (q : Query) : State :=
  let d := x.desc
  s.withAccess x (searchWrites d) fun s =>
    let q := q.select d
    let qs := lset x.queries query q
    let s := s.setWork { x with queries := qs }
    if x.opcode = 0x11 then
      let s := s.writeAt x (descRes d + 256 + query * batchStep d) (resultBlock d q.results)
      let s := s.writeAt x (descRes d + 16 * query) q.record
      if qs.all (·.stage == .done) then s.finish x.id (batchResult qs x.snap) else s
    else (s.writeAt x (descRes d) (resultBlock d q.results)).finish x.id (q.result x.snap)

/-! ### TOPK (R235–R238) -/

/-- Bytes of a score of a format, its value as an FP32 code, and the comparison of two scores. -/
def scoreBytes (fmt : Nat) : Nat := if fmt = 1 ∨ fmt = 2 then 2 else 4
def scoreValue (fmt v : Nat) : Fp :=
  match fmt with
  | 0 => fp32.decode v
  | 1 => fp16.decode v
  | 2 => bf16.decode v
  | _ => .ofInt (signed 32 v) 0

/-- An entry of a TOPK row. -/
structure Entry where
  val : Fp
  key : Nat
  pos : Nat
  deriving DecidableEq, Repr

/-- The order of R229: by score, descending or ascending, then by position. -/
def entryBefore (asc : Bool) (a b : Entry) : Bool :=
  let better := fun (x y : Entry) => if asc then x.val.lt y.val else y.val.lt x.val
  better a b || (!better b a && decide (a.pos < b.pos))

def dedupEntries : (seen : List Nat) → List Entry → List Entry
  | _, [] => []
  | seen, c :: t => if seen.contains c.key then dedupEntries seen t else c :: dedupEntries (c.key :: seen) t

/-- The selection of one row. -/
def topRow (asc : Bool) (k : Nat) (es : List Entry) : List Nat :=
  ((dedupEntries [] (sortBy (entryBefore asc) (es.filter (fun e => !e.val.isNan && e.key != noItem)))).take k).map (·.key)

/-- A result row: its count and K indices (R237). -/
def topBlock (k : Nat) (r : List Nat) : Bytes := toLe 8 r.length ++ ((List.range k).map (fun i => toLe 8 (r.getD i noItem))).flatten

/-- The admission checks of TOPK (R238), in the table's order. -/
def topkChecks (d : Bytes) : List (Nat × Nat) :=
  let bad := fun (off st : Nat) (b : Bool) => if b then [((off, st) : Nat × Nat)] else []
  let len := fld d 32 4
  let e := scoreBytes (fld d 40 1)
  bad 8 0x12 (descOp0 d % 64 != 0) ++ bad 16 0x12 (descOp1 d % 8 != 0) ++ bad 24 0x12 (descRes d % 64 != 0) ++
  bad 32 0x13 (len == 0 || decide (2 ^ 31 < len)) ++ bad 36 0x12 (fld d 36 2 == 0 || decide (1024 < fld d 36 2)) ++
  bad 38 0x12 (fld d 38 2 == 0) ++ bad 40 0x12 (decide (3 < fld d 40 1)) ++ bad 41 0x12 (decide (1 < fld d 41 1)) ++
  bad 44 0x13 (decide (fld d 44 4 < len * e) || fld d 44 4 % e != 0)

/-- The den whose top-k unit a TOPK or MERGE_PARTIAL of a tenancy runs on (R238). -/
def State.topDen (s : State) (t port : Nat) : Option Nat :=
  ((List.range 4).map (· + 4 * portDie port)).find? (fun den => s.mayUse (denMap den) t)

/-- The number under which the access to a top-k unit waits. -/
def topkCell : Nat := 2 ^ 22

/-- A search has a query that is to be selected on a den's unit. -/
def State.selects (s : State) (y : Work) (den : Nat) : Bool :=
  isSearch y.opcode && (s.burrow y.burrow).homeDen == den && y.queries.any (fun q => q.ready y.desc)

/-- A work that runs whole on the top-k unit of a den is still to run. -/
def State.topWork (s : State) (y : Work) (den : Nat) : Bool :=
  (y.opcode == 0x42 || y.opcode == 0x19) && s.topDen y.tenancy y.port == some den

/-- TOPK, in its turn on the den's unit (R128): `scores` and `indices` are the rows as the host holds them, from operand address 0 and 1 on. -/
def topkSt (w : Nat) (scores indices : Bytes) (s : State) : State :=
  s.withWork w (· == 0x42) fun x s =>
    match s.topDen x.tenancy x.port with
    | none => s
    | some den =>
      let d := x.desc
      let len := fld d 32 4
      let k := fld d 36 2
      let rows := fld d 38 2
      let e := scoreBytes (fld d 40 1)
      let stride := fld d 44 4
      let step := roundup (8 + 8 * k) 64
      let reads := (List.range rows).flatMap (fun r =>
        (descOp0 d + r * stride, len * e) :: (if descOp1 d = 0 then [] else [(descOp1 d + r * 8 * len, 8 * len)]))
      let writes := (List.range rows).map (fun r => (descRes d + r * step, 8 + 8 * k, true))
      if !s.turnOf x (fun y => s.topWork y den) then s
      else match s.passUnit w topkCell x.tenancy [denMap den] with
      | .hold s => s
      | .go s =>
        s.withAccess x (reads.map (fun a => (a.1, a.2, false)) ++ writes) fun s =>
          if reads.any (fun a => s.poisonedAt x a.1 a.2) then s.finish w (Result.err 0x32 0)
          else
            let row := fun r =>
              let sc := s.readAt x (descOp0 d + r * stride) (len * e) (scores.drop (r * stride))
              let ix := s.readAt x (descOp1 d + r * 8 * len) (8 * len) (indices.drop (r * 8 * len))
              topRow (fld d 41 1 == 1) k ((List.range len).map (fun p =>
                { val := scoreValue (fld d 40 1) (fld sc (p * e) e), pos := p
                  key := if descOp1 d = 0 then (fld d 48 8 + p) % 2 ^ 64 else fld ix (8 * p) 8 }))
            let rs := (List.range rows).map row
            let s := ((List.range rows).zip rs).foldl (fun s p => s.writeAt x (descRes d + p.1 * step) (topBlock k p.2)) s
            s.finish w { Result.done rows with status := b2n (rs.any (fun r => decide (r.length < k))) }

def execTopk (w : Nat) (scores indices : Bytes) (s : State) : Out := .next (topkSt w scores indices s)

end Sys2Proof.Machine
end

