-- ==== Sys2Proof/Machine/Updates.lean ====
section
/-!
DEFINITION. INSERT, DELETE and UPSERT: their fields and checks, routing, codes, and the changes they make to side lists
(R153–R162, R177–R182, R192, R241–R255, R267–R268).
-/

namespace Sys2Proof.Machine

/-! ### Fields and step-7 checks (Tables 6.1–6.3, R250) -/

def updItems (d : Bytes) : Nat := fld d 34 2
def updStride (d : Bytes) : Nat := fld d 36 4
def updCodes (d : Bytes) : Bool := bit (descFlags d) 1

/-- INSERT, DELETE or UPSERT. -/
def isUpdate (op : Nat) : Bool := op == 0x12 || op == 0x13 || op == 0x14

/-- The step-7 checks of an update, in the order of R250. What depends on the burrow's parameters is left out while the id is
FREE (DEDUCED, assumption 37). -/
def updateChecks (b : Burrow) (qUpdates : Nat) (d : Bytes) : List (Nat × Nat) :=
  let n := updItems d
  let vs := updStride d
  let live := b.state != 0
  badIf 34 0x13 (n == 0 || decide (256 < n) || (qUpdates != 0 && decide (qUpdates < n))) ++
  (if descOpcode d = 0x13 then
    badIf 8 0x12 (descOp0 d == 0 || descOp0 d % 8 != 0) ++ badIf 16 0x12 (descOp1 d != 0)
  else
    badIf 36 0x13 (if descOp1 d = 0 then vs != 0 else vs == 0 || vs % 64 != 0 || (live && decide (vs < vecSize b.vecFmt b.dim))) ++
    badIf 8 0x12 (descOp0 d == 0 || descOp0 d % 64 != 0) ++
    badIf 16 0x12 (descOp1 d % 64 != 0 || (descOp1 d == 0 && (!updCodes d || (live && b.fullStore != 0)))))

/-- Bytes from one item record to the next (R247). -/
def Burrow.recordBytes (b : Burrow) (d : Bytes) : Nat :=
  if descOpcode d = 0x13 then 8 else if updCodes d then 32 + roundup b.codeBytes 16 else 32

/-! ### Vectors and codes -/

/-- The stored form of a supplied vector (R160); none if R161 refuses it (DEDUCED, assumption 49). -/
def Burrow.storedVector (b : Burrow) (bytes : Bytes) : Option Bytes :=
  let v := vecElems b.vecFmt b.dim bytes
  if v.any (fun x => !x.isFinite) then none
  else if b.metric = 2 then
    (if zeroNorm v then none else some (packElems (vecBits b.vecFmt) ((normalise v).map (fun x => vecCode b.vecFmt (f32 x)))))
  else some (slice bytes 0 (vecSize b.vecFmt b.dim))

/-- The index of the nearest codeword of subquantiser j (R154): a codeword at a NaN distance is passed over, and index 0 is taken where every
distance is NaN (DESIGN CHOICE, assumption 113). -/
def Burrow.nearest (b : Burrow) (v : List Fp) (j : Nat) : Nat :=
  let ds := ((List.range (2 ^ b.pqBits)).map (fun c => (f32 (dist32 (b.subvector v j) (b.codeword j c)), c))).filter (fun p => !p.1.isNan)
  ((bestBy (fun x y => x.1.lt y.1) ds).map (·.2)).getD 0

/-- The code of a stored vector (R154–R156). -/
def Burrow.encode (b : Burrow) (vec : Bytes) : Bytes :=
  if b.metric = 3 then slice vec 0 b.codeBytes
  else packElems b.pqBits ((List.range b.pqM).map (b.nearest (vecElems b.vecFmt b.dim vec)))

/-- The reconstruction of a code (R253). -/
def Burrow.rebuild (b : Burrow) (code : Bytes) : List Fp :=
  if b.metric = 3 then (List.range b.dim).map (fun i => if i < 8 * b.codeBytes then .ofInt (elemAt 1 code i) 0 else .fin false 0 0)
  else (List.range b.pqM).flatMap (fun j => b.codeword j (b.codeAt code j))

/-! ### Reading the records (R250) -/

/-- The records and vectors of an update, as address and length. -/
def Burrow.updateReads (b : Burrow) (d : Bytes) : List (Nat × Nat) :=
  (descOp0 d, updItems d * b.recordBytes d) ::
    (if descOpcode d = 0x13 ∨ descOp1 d = 0 ∨ b.dim = 0 then []
     else (List.range (updItems d)).map (fun i => (descOp1 d + i * updStride d, vecSize b.vecFmt b.dim)))

/-- The items of an update in item order; an item whose vector R161 refuses has none. -/
def State.readItems (s : State) (b : Burrow) (x : Work) (records vectors : Bytes) : List (Bytes × Option UpdItem) :=
  let d := x.desc
  let rb := b.recordBytes d
  let all := s.readAt x (descOp0 d) (updItems d * rb) records
  (List.range (updItems d)).map fun i =>
    let r := slice all (i * rb) rb
    if descOpcode d = 0x13 then (r, some { kind := 2, key := fld r 0 8, attr := 0, code := [], vec := [], slot := 0, leaf := 0 })
    else
      let vec := if descOp1 d = 0 ∨ b.dim = 0 then some []
        else b.storedVector (s.readAt x (descOp1 d + i * updStride d) (vecSize b.vecFmt b.dim) (vectors.drop (i * updStride d)))
      (r, vec.map (fun v =>
        { kind := if descOpcode d = 0x14 then 1 else 0, key := fld r 0 8, attr := fld r 8 8
          code := if updCodes d then slice r 32 b.codeBytes else if b.metric = 3 then b.encode v else []
          vec := v, slot := 0, leaf := 0 }))

/-- A record of an INSERT or UPSERT that R250 refuses (DEDUCED, assumption 50). -/
def recordBad (d r : Bytes) : Bool := descOpcode d != 0x13 && (fld r 0 8 == noItem || !zeroRange r 16 16)

/-! ### Routing (R253) -/

/-- The child a walk of beam width 1 takes. -/
def Burrow.bestChild (b : Burrow) (q : List Fp) (n : Node) : Nat :=
  let cs := ((List.range n.children.length).map (fun i => (b.nodeScore q (n.cents.getD i []) (n.norms.getD i 0), i))).filter
    (fun c => !(f32 c.1).isNan)
  ((bestBy (fun x y => scoreBefore x.1 y.1) cs).map (·.2)).getD 0

/-- The leaf a walk reaches from an address on. -/
def Burrow.routeFrom (b : Burrow) (q : List Fp) : (fuel a : Nat) → Nat
  | 0, a => a
  | fuel + 1, a =>
    if (tget b.leaves a).isSome then a
    else let n := b.node a; Burrow.routeFrom b q fuel ((n.children.getD (b.bestChild q n) (true, a)).2)

/-- What the walk of an item scores. -/
def Burrow.routeVector (b : Burrow) (i : UpdItem) : List Fp :=
  if i.vec = [] then b.rebuild i.code else vecElems b.vecFmt b.dim i.vec

/-- The leaf an item is routed to in the tree as installed (DESIGN CHOICE, assumption 52). -/
def Burrow.route (b : Burrow) (i : UpdItem) : Nat := b.routeFrom (b.routeVector i) 8 b.root

/-- The nodes a walk of beam width 1 reads from an address on. -/
def Burrow.routePath (b : Burrow) (q : List Fp) : (fuel a : Nat) → List Nat
  | 0, _ => []
  | fuel + 1, a =>
    if (tget b.leaves a).isSome then []
    else let n := b.node a; a :: Burrow.routePath b q fuel ((n.children.getD (b.bestChild q n) (true, a)).2)

/-- The number under which the accesses of an update's routing wait. -/
def routeCell : Nat := 2 ^ 21

/-- The units that serve the routing walks of items on a walker: the walker and the stacks of the nodes they read (R61, R253). -/
def State.routeUnits (s : State) (b : Burrow) (walker : Nat) (items : List UpdItem) : List (List Nat) :=
  [foxMap walker] :: ((items.flatMap (fun i => b.routePath (b.routeVector i) 8 b.root)).map s.unitsOf).eraseDups

/-! ### Outcomes (Table 6.4) -/

/-- The outcomes of items in order, given which ids are live; `seen` holds what earlier items of the batch changed. -/
def planItems (live : Nat → Bool) : (seen : List (Nat × Bool)) → List UpdItem → List Nat
  | _, [] => []
  | seen, i :: t =>
    let l := match seen.find? (fun e => e.1 == i.key) with
      | some e => e.2
      | none => live i.key
    let o := match i.kind with
      | 0 => if l then 3 else 0
      | 1 => if l then 1 else 0
      | _ => if l then 2 else 4
    o :: planItems live ((i.key, decide (o ≠ 2 ∧ o ≠ 4)) :: seen) t

def Burrow.isLive (b : Burrow) (key : Nat) : Bool := (tget b.itemMap key).isSome

/-- The outcomes an update will have. -/
def Burrow.plan (b : Burrow) (items : List UpdItem) : List Nat := planItems b.isLive [] items

/-- An item that takes a slot and a leaf. -/
def takesSlot (o : Nat) : Bool := o == 0 || o == 1

/-! ### Slots and vectors (R182, R251, R403) -/

/-- A slot newly taken: one freed, or the next never taken. -/
def Burrow.takeSlot (b : Burrow) : Option (Nat × Burrow) :=
  match b.slotFree with
  | k :: t => some (k, { b with slotFree := t })
  | [] => if b.slotNext < b.slotCount then some (b.slotBase + b.slotNext, { b with slotNext := b.slotNext + 1 }) else none

/-- A full vector written to its slot for an update: to DDR, or to flash, where the stride holds its ciphertext (R622), and through the cache
(R403) (DESIGN CHOICE, assumption 19). -/
def State.writeVector (s : State) (w bi slot : Nat) (vec : Bytes) : State :=
  let b := s.burrow bi
  if b.fullStore = 0 ∨ vec = [] then s
  else
    let s := s.setBurrow bi { b with vectors := tset b.vectors slot vec }
    let a := b.vecBase + (slot - b.slotBase) * vecStride b.vecFmt b.dim
    if b.fullStore = 2 then s.put a vec
    else (s.flashWrite b.tenancy a (s.sealFlash b.tenancy a (slice vec 0 (vecStride b.vecFmt b.dim))) (vectorReq w)).cacheVec
      bi slot

/-- Every item of an INSERT or UPSERT gets its leaf and a slot with its vector; none while slots are lacking
(DESIGN CHOICE, assumption 52). -/
def State.routeItems (s : State) (w bi : Nat) : List UpdItem → Option (List UpdItem × State)
  | [] => some ([], s)
  | i :: t =>
    if i.kind = 2 then do
      let (rest, s) ← State.routeItems s w bi t
      some (i :: rest, s)
    else do
      let (k, b) ← (s.burrow bi).takeSlot
      let i := { i with slot := k, leaf := b.route i }
      let s := (s.setBurrow bi b).writeVector w bi k i.vec
      let (rest, s) ← State.routeItems s w bi t
      some (i :: rest, s)

/-- The slot of an item that is not applied is returned. -/
def State.returnSlot (s : State) (bi : Nat) (i : UpdItem) : State :=
  if i.kind = 2 then s
  else
    let b := s.burrow bi
    { s.setBurrow bi { b with slotFree := b.slotFree ++ [i.slot], vectors := tdel b.vectors i.slot } with
      vcache := s.vcache.filter (fun v => !(v.1 == bi && v.2.1 == i.slot)) }

/-! ### Sealed leaves (R268) -/

/-- The lowest S that anything on a burrow may still read (R259): SNAP_SEQ, every pin, and every admitted query. -/
def State.mergePoint (s : State) (bi : Nat) : Nat :=
  let pins := (s.ctxs.filter (fun c => c.2.pinned && c.2.pinBurrow == bi)).map (·.2.pinSeq)
  let snaps := (s.works.filter (fun w => isSearch w.opcode && w.burrow == bi && w.result.isNone && !w.snapLate)).map (·.snap)
  (pins ++ snaps).foldl min (s.burrow bi).snapSeq

/-- R265 and R266 allow a split of a leaf: none while LEVELS is 6 and the root is at FANOUT_MAX. -/
def Burrow.maySplit (b : Burrow) : Bool :=
  decide (b.current.length < b.leafMax) && !(b.levels == 6 && decide (b.fanoutMax ≤ (b.node b.root).children.length))

/-- A leaf is sealed (DEDUCED, assumption 54). -/
def State.sealed (s : State) (bi a : Nat) : Bool :=
  let b := s.burrow bi
  let l := b.leaf a
  let M := s.mergePoint bi
  decide (l.items.length = 8192) && decide (64 ≤ l.side.length) &&
    l.side.all (fun c => decide (4032 < c.used + 32 + roundup b.codeBytes 16) && c.entries.all (fun e => !e.isTomb && decide (e.seq ≤ M))) &&
    !b.maySplit

/-! ### Appending (R180, R241–R243, R254, R267) -/

/-- An entry appended to a leaf's side list, in a new chunk when it does not fit in the last one; none while there is no room. -/
def State.appendEntry (s : State) (bi a : Nat) (e : SideEntry) : Option State :=
  let b := s.burrow bi
  let l := b.leaf a
  let fits := (l.side.getLast?.map (fun c => decide (c.used + e.bytes ≤ 4032))).getD false
  if fits then
    some (s.putLeaf bi a { l with side := l.side.dropLast ++ l.side.getLast?.toList.map (fun c => { c with entries := c.entries ++ [e] }) })
  else if 64 ≤ l.side.length ∨ b.sideMax ≤ b.chunksUsed then none
  else (s.pickStack b.tenancy l.stack 4096).map (fun c =>
    s.drawn.putLeaf bi a { l with side := l.side ++ [{ addr := c, entries := [e] }] })

/-- Where the live copy of a slot stands in a leaf: TARGET and POS (R179). -/
def Leaf.find (l : Leaf) (slot : Nat) : Nat × Nat :=
  match l.items.findIdx? (fun i => i.slot == slot && !i.tomb) with
  | some p => (0, p)
  | none => (1, ((l.flat.find? (fun e => match e.2 with | .insert k _ _ _ _ => k == slot | _ => false)).map (·.1)).getD 0)

/-- The tombstone of the live copy of a key. -/
def State.appendTomb (s : State) (bi key seq : Nat) : Option State :=
  match tget (s.burrow bi).itemMap key with
  | some (slot, a) => let p := ((s.burrow bi).leaf a).find slot; s.appendEntry bi a (.tomb p.1 p.2 seq key)
  | none => none

/-- The leaf an item is appended to: the one it was routed to, or the one the present tree routes it to if that one has been
replaced. -/
def Burrow.target (b : Burrow) (i : UpdItem) : Nat := if b.current.contains i.leaf then i.leaf else b.route i

/-- The insert entry of an item. -/
def State.appendInsert (s : State) (bi seq : Nat) (i : UpdItem) : Option State :=
  s.appendEntry bi ((s.burrow bi).target i) (.insert i.slot seq i.key i.attr i.code)

/-- One change (R241, R243): its entries, the sequence drawn, SNAP_SEQ, ITEMS and the item map, in one step
(DEDUCED, assumption 50). The map here holds the live items alone: the entry of a deleted one, which stays until the swap (R264), nothing can
read (DESIGN CHOICE, assumption 115). -/
def State.applyItem (s : State) (bi : Nat) (i : UpdItem) (o : Nat) : Option State := do
  let seq := (s.burrow bi).nextSeq
  let a := (s.burrow bi).target i
  let s ← if o = 1 ∨ o = 2 then s.appendTomb bi i.key seq else some s
  let s ← if takesSlot o then s.appendInsert bi seq i else some s
  let b := s.burrow bi
  some (s.setBurrow bi { b with
    nextSeq := seq + 1, snapSeq := seq, items := if o = 0 then b.items + 1 else if o = 2 then b.items - 1 else b.items
    itemMap := if o = 2 then tdel b.itemMap i.key else tset b.itemMap i.key (i.slot, a) })

/-- The remaining items of an update, applied in order until one must wait (R242, R267). -/
def State.applyItems (s : State) (x : Work) : List (UpdItem × Nat) → Work × State
  | [] => (x, s)
  | (i, o) :: t =>
    if 3 ≤ o then State.applyItems (s.returnSlot x.burrow i) { x with outcomes := x.outcomes ++ [o] } t
    else match s.applyItem x.burrow i o with
      | none => (x, s)
      | some s' =>
        let seq := (s.burrow x.burrow).nextSeq
        State.applyItems s' { x with
          outcomes := x.outcomes ++ [o], lastSeq := seq, firstSeq := if x.outcomes.all (3 ≤ ·) then seq else x.firstSeq } t

/-! ### The work of an update -/

/-- It is the update's turn on its burrow: every update admitted before it has its result (R242). -/
def State.turn (s : State) (x : Work) : Bool :=
  (s.works.takeWhile (fun y => y.id != x.id)).all (fun y => !(isUpdate y.opcode && y.burrow == x.burrow) || y.result.isSome)

/-- Completion of an update (R249, R252). -/
def updateResult (x : Work) : Result :=
  { status := if x.outcomes.any (3 ≤ ·) then 1 else 0, flags := 0, count := (x.outcomes.filter (· < 3)).length, snap := x.lastSeq
    detail := 0, b24 := x.firstSeq }

/-- The items still to be applied, with their outcomes. -/
def State.remaining (s : State) (x : Work) : List (UpdItem × Nat) :=
  let rest := x.items.drop x.outcomes.length
  rest.zip ((s.burrow x.burrow).plan rest)

/-- The items in turn applied as far as there is room; after the last, the outcome bytes are written (R249). -/
def State.applyUpdate (s : State) (x : Work) : State :=
  let (x, s) := s.applyItems x (s.remaining x)
  let s := s.setWork x
  if x.outcomes.length < x.items.length then s
  else if descRes x.desc = 0 then s.finish x.id (updateResult x)
  else s.withAccess x [(descRes x.desc, x.items.length, true)] fun s =>
    (s.writeAt x (descRes x.desc) (x.outcomes.map (BitVec.ofNat 8))).finish x.id (updateResult x)

/-- Items with their computed codes. -/
def withCodes (items : List UpdItem) (codes : List Bytes) : List UpdItem :=
  ((List.range items.length).zip items).map (fun p => match codes[p.1]? with | some c => { p.2 with code := c } | none => p.2)

/-- Where the full vectors of items are written. -/
def Burrow.vectorRanges (b : Burrow) (items : List UpdItem) : List (Nat × Nat) :=
  (items.filter (fun i => i.vec != [])).map (fun i =>
    (b.vecBase + (i.slot - b.slotBase) * vecStride b.vecFmt b.dim, vecStride b.vecFmt b.dim))

/-- The image of a resident function: one sett, one iteration. -/
def residentImage : Image :=
  { tenancy := 0, setts := 1, iterMax := 1, scratch := 2097152, prog := [], routes := [], consts := [], bytes := 0, addr := 0 }

/-- The PQ_ENCODE run of an update, which waits for a sett of the home den like any other run (R255, R329, R331). -/
def encodeRun (x : Work) (den : Nat) : Run :=
  { w := x.id, tenancy := x.tenancy, den, image := residentImage, resident := some 1, iters := 1, iterDone := 0, started := false, setts := []
    home := [], lastFrame := x.frame, admitSeq := x.id, saveSlot := false, stalled := false, cells := [], scratch := [[]], l1 := [[]], routes := []
    count := 0, ovf := false, invalid := false, range := false, frames := 0, restores := 0, ended := none }

/-- What is left of an update with its slots: its changes, once its vectors have been acknowledged (R251). -/
def State.changeBurrow (s : State) (x : Work) : State := if s.flashBusy (vectorReq x.id) then s else s.applyUpdate x

/-- The routing of an update is still to come, its codes known. -/
def State.routes (s : State) (y : Work) (die : Nat) : Bool :=
  isUpdate y.opcode && !y.routed && y.items != [] && y.codes.isSome && s.turn y && (s.burrow y.burrow).homeDen / 4 == die

/-- Routing, slots and vectors of an update in its turn, then its changes (R250, R251, R253). -/
def State.routeUpdate (s : State) (x : Work) (codes : List Bytes) : State :=
  let b := s.burrow x.burrow
  let items := withCodes x.items codes
  let plan := b.plan items
  if b.maxItems - b.items < (plan.filter (· == 0)).length then s.finish x.id (Result.err 0x10 32)
  else if items.all (·.kind == 2) then s.applyUpdate { x with items, routed := true }
  else if !s.turnOf x (fun y => s.routes y (b.homeDen / 4)) then s
  else match s.pickWalk x.tenancy (b.homeDen / 4) b.banks with
    | none => s
    | some l =>
      s.onUnits x.id routeCell x.tenancy (s.routeUnits b l.walker items) fun s =>
        if (items.zip plan).any (fun p => takesSlot p.2 && s.sealed x.burrow (b.route p.1)) then s.finish x.id (Result.err 0x10 32)
        else match s.routeItems x.id x.burrow items with
          | none => s
          | some (items, s') =>
            if b.fullStore = 1 ∧ s.refusesWrite x.tenancy (b.vectorRanges items) = true then s.finish x.id (Result.err 0x30 0)
            else
              let x := { x with items, routed := true }
              (s'.setWork x).changeBurrow x

/-- What an update whose records have been read does next, when it is its turn. -/
def State.advanceUpdate (s : State) (x : Work) : State :=
  if !s.turn x then s
  else if x.routed then s.changeBurrow x
  else match x.codes with
    | none => s
    | some codes => s.routeUpdate x codes

/-- The records read and checked (R250). -/
def State.readUpdate (s : State) (x : Work) (records vectors : Bytes) : State :=
  let b := s.burrow x.burrow
  match (if x.unchecked && b.state != 0 then lowestCheck (updateChecks b 0 x.desc) else none) with
  | some r => s.finish x.id r
  | none =>
  s.withReads x (b.updateReads x.desc) fun s =>
    let items := s.readItems b x records vectors
    if items.any (fun p => recordBad x.desc p.1) then s.finish x.id (Result.err 0x12 8)
    else if items.any (·.2.isNone) then s.finish x.id (Result.err 0x12 16)
    else if b.state ≠ 1 then s.finish x.id (Result.err 0x10 32)
    else
      let ready := updCodes x.desc || descOpcode x.desc == 0x13 || b.metric == 3
      let x := { x with items := items.filterMap (·.2), codes := if ready then some [] else none }
      let s := s.setWork x
      if ready then s.advanceUpdate x else { s with runs := s.runs ++ [encodeRun x b.homeDen] }

/-- The step of an update: its records, once; then what it can do. -/
def State.updateStep (s : State) (x : Work) (records vectors : Bytes) : State :=
  if x.items = [] then s.readUpdate x records vectors else s.advanceUpdate x

/-- INSERT (R241–R253). -/
def insertSt (w : Nat) (records vectors : Bytes) (s : State) : State :=
  s.withWork w (· == 0x12) fun x s => s.updateStep x records vectors

def execInsert (w : Nat) (records vectors : Bytes) (s : State) : Out := .next (insertSt w records vectors s)

/-- DELETE (R248, R254). -/
def deleteSt (w : Nat) (ids : Bytes) (s : State) : State :=
  s.withWork w (· == 0x13) fun x s => s.updateStep x ids []

def execDelete (w : Nat) (ids : Bytes) (s : State) : Out := .next (deleteSt w ids s)

/-- UPSERT (R241). -/
def upsertSt (w : Nat) (records vectors : Bytes) (s : State) : State :=
  s.withWork w (· == 0x14) fun x s => s.updateStep x records vectors

def execUpsert (w : Nat) (records vectors : Bytes) (s : State) : Out := .next (upsertSt w records vectors s)

/-- An append that waits goes on once there is room (R267). -/
def appendResumeSt (w : Nat) (s : State) : State :=
  s.withWork w isUpdate fun x s => if x.routed then s.advanceUpdate x else s

def execAppendResume (w : Nat) (s : State) : Out := .next (appendResumeSt w s)

/-! ### PQ_ENCODE (R255) -/

/-- The encode run of one descriptor ends in a frame in which it has its sett of the home den: every item has its code, and the run's save slot
is free again (R255, R331). -/
def pqEncodeRunSt (w : Nat) (s : State) : State :=
  s.withWork w isUpdate fun x s =>
    match s.run w with
    | some r =>
      if r.setts = [] then s
      else
        let b := s.burrow x.burrow
        ({ s with runs := s.runs.filter (fun q => q.w != w) } : State).setWork { x with codes := some (x.items.map (fun i => b.encode i.vec)) }
    | none => s

def execPqEncodeRun (w : Nat) (s : State) : Out := .next (pqEncodeRunSt w s)

end Sys2Proof.Machine
end

