-- ==== Sys2Proof/Machine/Beaver.lean ====
section
/-!
DEFINITION. Beaver merges: merge point, fold, splits, swaps, folds in place and the freeing of replaced versions (R194, R256–R268).
-/

namespace Sys2Proof.Machine

/-! ### Which leaf a Beaver merges (R258) -/

/-- BUR_MERGE_CHUNKS of a burrow. -/
def State.mergeChunks (s : State) (bi : Nat) : Nat := bits (s.stored (0x0401000 + 8 * (bi / 8))).toNat (8 * (bi % 8) + 7) (8 * (bi % 8))

/-- The leaves to which an append of a burrow waits: those the next item of the update in turn needs, while it has no room. -/
def State.waitingLeaves (s : State) (bi : Nat) : List Nat :=
  let b := s.burrow bi
  match s.works.find? (fun x => isUpdate x.opcode && x.burrow == bi && x.result.isNone && x.routed && s.turn x) with
  | some x =>
    match s.remaining x with
    | (i, o) :: _ =>
      if 3 ≤ o ∨ (s.applyItem bi i o).isSome then []
      else (if o = 1 ∨ o = 2 then ((tget b.itemMap i.key).map (·.2)).toList else []) ++ (if takesSlot o then [b.target i] else [])
    | [] => []
  | none => []

/-- A leaf calls for a merge. -/
def State.mergeDue (s : State) (bi a : Nat) : Bool :=
  let b := s.burrow bi
  let n := (b.leaf a).side.length
  (b.state == 1 || b.state == 2) && b.current.contains a && !b.merges.any (fun m => m.leaf == a) &&
    (decide (s.mergeChunks bi ≤ n) || (s.waitingLeaves bi).contains a || (b.state == 2 && !b.merged && n != 0))

/-- A merge of a leaf would consume something at a point. -/
def Leaf.foldable (l : Leaf) (M : Nat) : Bool := l.items.any (·.tomb) || l.side.any (fun c => c.entries.any (fun e => decide (e.seq ≤ M)))

/-- A search admitted before a frame still walks or may walk a burrow. -/
def State.walkedBefore (s : State) (bi frame : Nat) : Bool :=
  s.works.any (fun w => isSearch w.opcode && w.burrow == bi && w.result.isNone && decide (w.frame < frame) &&
    w.queries.any (fun q => q.stage == .waiting || q.stage == .walking))

/-- Tenancies with background work queued on the unit of a stack: merges that are due, replaced versions to be freed, zero-fill (R601). -/
def State.stackQueued (s : State) (m : Nat) : List Nat :=
  s.fillQueued m ++ (s.burrows.filter (fun e => e.2.state != 0 &&
    (e.2.current.any (fun a => s.stackMap (e.2.leaf a).stack == m && s.mergeDue e.1 a && (e.2.leaf a).foldable (s.mergePoint e.1)) ||
      e.2.old.any (fun o => s.stackMap (stackOf o.1) == m && !s.walkedBefore e.1 o.2)))).map (·.2.tenancy)

/-- The unit of a stack does background work of a tenancy next. -/
def State.stackTurn (s : State) (stack t : Nat) : Bool := s.bgTurn (s.stackMap stack) t (s.stackQueued (s.stackMap stack))

/-- The order of R258 among leaves, as waiting, chunks and address. -/
def dueBefore (x y : Bool × Nat × Nat) : Bool :=
  (x.1 && !y.1) || (x.1 == y.1 && (decide (y.2.1 < x.2.1) || (x.2.1 == y.2.1 && decide (x.2.2 < y.2.2))))

/-- Leaves of a den's burrows that a Beaver may start on now, each with its rank of R258. -/
def State.dueLeaves (s : State) (den : Nat) : List (Bool × Nat × Nat) :=
  (s.burrows.filter (fun e => e.2.state != 0 && e.2.homeDen == den)).flatMap fun e =>
    (e.2.current.filter (fun a =>
      s.mergeDue e.1 a && s.stackTurn (e.2.leaf a).stack e.2.tenancy && (e.2.leaf a).foldable (s.mergePoint e.1))).map
      (fun a => ((s.waitingLeaves e.1).contains a, (e.2.leaf a).side.length, a))

/-- The leaf is the first of those its den's Beaver may start on. -/
def State.mergeNext (s : State) (bi a : Nat) : Bool :=
  match bestBy dueBefore (s.dueLeaves (s.burrow bi).homeDen) with
  | some d => d.2.2 == a
  | none => false

/-- BEAVER_MERGE_START: the merge point is fixed (R259). The new version is formed at its swap, from the side list as it then
stands, which is what R261 installs. -/
def beaverMergeStartSt (burrow leaf : Nat) (s : State) : State :=
  let b := s.burrow burrow
  if b.current.contains leaf && s.mergeNext burrow leaf then
    (s.bgServed (s.stackMap (b.leaf leaf).stack) b.tenancy).setBurrow burrow
      { b with merges := b.merges ++ [{ leaf, point := s.mergePoint burrow, frame := s.frame }] }
  else s

def execBeaverMergeStart (burrow leaf : Nat) (s : State) : Out := .next (beaverMergeStartSt burrow leaf s)

/-! ### The fold (R260, R261) -/

/-- A place in a leaf: TARGET and POS. -/
abbrev Spot := Nat × Nat

/-- A fold: the new body with each item's old place, the entries carried over, what is dropped, MERGE_SEQ. -/
structure Fold where
  body    : List (Spot × BodyItem)
  carried : List (Nat × SideEntry)
  dropped : List BodyItem
  seq     : Nat
  deriving DecidableEq, Repr

/-- The places tombstones at or below M name. -/
def Leaf.hidden (l : Leaf) (M : Nat) : List Spot :=
  l.flat.filterMap (fun e => match e.2 with
    | .tomb t p q _ => if q ≤ M then some (t, p) else none
    | _ => none)

/-- The body with the inserts at or below M after it, each with its place; a body item keeps its bit. -/
def Leaf.upTo (l : Leaf) (M : Nat) : List (Spot × BodyItem) :=
  ((List.range l.items.length).zip l.items).map (fun p => ((0, p.1), p.2)) ++
    l.flat.filterMap (fun e => match e.2 with
      | .insert slot q key attr code => if q ≤ M then some ((1, e.1), { key, attr, code, slot, tomb := false }) else none
      | _ => none)

/-- The fold of R260 at M. -/
def Leaf.fold (l : Leaf) (M : Nat) : Fold :=
  let hid := l.hidden M
  let gone := fun (p : Spot × BodyItem) => p.2.tomb || hid.contains p.1
  { body := (l.upTo M).filter (fun p => !gone p), carried := l.flat.filter (fun e => decide (M < e.2.seq))
    dropped := ((l.upTo M).filter gone).map (·.2), seq := M }

/-- The fold of R260 up to 8,192 items: dead items are dropped, and the live inserts that find no room are carried over with everything above
M. MERGE_SEQ is the sequence of the last entry before the first of them; no remaining item has a tombstone at or below it, so no bit is
set (DEDUCED, assumption 53). None where nothing is consumed. -/
def Leaf.foldFull (l : Leaf) (M : Nat) : Option Fold :=
  let f := l.fold M
  let left := (f.body.drop 8192).map (·.1)
  let stays := fun (e : Nat × SideEntry) => decide (M < e.2.seq) || left.contains (1, e.1)
  let carried := l.flat.filter (fun e => decide (M < e.2.seq) || (stays e && !e.2.isTomb))
  let done := l.flat.takeWhile (fun e => !(stays e && !e.2.isTomb) && decide (e.2.seq ≤ M))
  if carried.length = l.flat.length ∧ f.dropped = [] then none
  else some { f with body := f.body.take 8192, carried, seq := (done.getLast?.map (·.2.seq)).getD l.mergeSeq }

/-! ### Two groups (R265) -/

/-- A vector is nearer the first centroid, or equally near. -/
def nearFirst (v c0 c1 : List Fp) : Bool := !(f32 (dist32 v c1)).lt (f32 (dist32 v c0))

/-- The mean of vectors in FP32, rounded to BF16; a group left empty keeps its centroid. -/
def meanBf16 (dim : Nat) (old : List Fp) (vs : List (List Fp)) : List Fp :=
  if vs = [] then old
  else (List.range dim).map (fun e =>
    bf16.decode (bf16.encode false (f32 (div32 (sum32 (vs.map (fun v => v.getD e (.fin false 0 0)))) (int32f vs.length)))))

/-- Rounds of 2-means: the groups of the last round (true: the first) and the centroids after it (DEDUCED, assumption 53). -/
def twoMeans (dim : Nat) (vs : List (List Fp)) : (rounds : Nat) → List Fp → List Fp → List Bool × List Fp × List Fp
  | 0, c0, c1 => (vs.map (fun v => nearFirst v c0 c1), c0, c1)
  | 1, c0, c1 =>
    let g := vs.map (fun v => nearFirst v c0 c1)
    (g, meanBf16 dim c0 (((vs.zip g).filter (·.2)).map (·.1)), meanBf16 dim c1 (((vs.zip g).filter (!·.2)).map (·.1)))
  | r + 1, c0, c1 =>
    let g := vs.map (fun v => nearFirst v c0 c1)
    twoMeans dim vs r (meanBf16 dim c0 (((vs.zip g).filter (·.2)).map (·.1))) (meanBf16 dim c1 (((vs.zip g).filter (!·.2)).map (·.1)))

/-- The split of vectors by R265 (DEDUCED, assumption 53). -/
def splitGroups (dim : Nat) (vs : List (List Fp)) : List Bool × List Fp × List Fp :=
  twoMeans dim vs 8 (vs.headD []) (vs.getLast?.getD [])

/-- Groups of a node's children with none empty: where 2-means puts all in one, the last child moves to the other
(DESIGN CHOICE, assumption 124). -/
def bothGroups (g : List Bool) : List Bool :=
  if g.all id then g.dropLast ++ [false] else if g.all (!·) then g.dropLast ++ [true] else g

/-- A centroid as BF16 codes. -/
def centCodes (c : List Fp) : List Nat := c.map (bf16.encode false)

/-! ### Writing new versions -/

/-- Entries packed into chunks in order (R180). -/
def packChunks (es : List (Nat × SideEntry)) : List (List (Nat × SideEntry)) :=
  es.foldl (fun cs e =>
    match cs.getLast? with
    | some c => if (c.map (fun x => x.2.bytes)).sum + e.2.bytes ≤ 4032 then cs.dropLast ++ [c ++ [e]] else cs ++ [[e]]
    | none => [[e]]) []

/-- The new place of an entry that stood at an old POS. -/
def packedPos (cs : List (List (Nat × SideEntry))) (p : Nat) : Option Nat :=
  ((List.range cs.length).zip cs).findSome? (fun c => (c.2.findIdx? (fun e => e.1 == p)).map (fun i => c.1 * 256 + i))

/-- A tombstone renumbered against a new version (R261). -/
def renumber (body : List (Spot × BodyItem)) (cs : List (List (Nat × SideEntry))) : SideEntry → SideEntry
  | .tomb t p q k =>
    match body.findIdx? (fun b => b.1 == (t, p)) with
    | some i => .tomb 0 i q k
    | none => .tomb 1 ((packedPos cs p).getD p) q k
  | e => e

/-- A place for the key block of n items: any in the DDR the burrow reserved for key blocks and maps (DESIGN CHOICE, assumption 114). -/
def State.keyPlace (s : State) (bi n : Nat) : Option Nat :=
  let b := s.burrow bi
  if n = 0 then some b.ddrAt
  else
    let taken := sortBy (fun x y => decide (x.1 < y.1)) (b.leaves.map (fun l => (l.2.keys, 16 * l.2.items.length)))
    let gs := sweep b.ddrAt (b.ddrAt + b.ddrRes) taken
    let total := (gs.map (places (16 * n) 16)).sum
    if total = 0 then none else nthPlace (16 * n) 16 gs (s.freeVal % total)

/-- Chunks placed one after another on a leaf's stack (DESIGN CHOICE, assumption 14). -/
def State.putChunks (s : State) (bi a : Nat) : List (List SideEntry) → Option State
  | [] => some s
  | c :: t => do
    let b := s.burrow bi
    let l := b.leaf a
    let at' ← s.pickStack b.tenancy l.stack 4096
    State.putChunks (s.drawn.putLeaf bi a { l with side := l.side ++ [{ addr := at', entries := c }] }) bi a t

/-- A new leaf version written: its address (DEDUCED, assumption 54). -/
def State.writeLeaf (s : State) (bi old : Nat) (body : List (Spot × BodyItem)) (carried : List (Nat × SideEntry)) (seq : Nat) :
    Option (Nat × State) := do
  let b := s.burrow bi
  let o := b.leaf old
  let keys ← s.keyPlace bi body.length
  let (l, a, s) ← s.drawn.placeLeaf b.tenancy (b.leafBytes body.length)
  let cs := packChunks carried
  let s := s.putLeaf bi a
    { root := o.root, items := body.map (·.2), version := o.version + 1, parent := o.parent, mergeSeq := seq, stack := l, keys, side := [] }
  let s ← s.putChunks bi a (cs.map (fun c => c.map (fun e => renumber body cs e.2)))
  some (a, s)

/-- A new node written: its address; its children point to it. -/
def State.writeNode (s : State) (bi : Nat) (n : Node) : Option (Nat × State) := do
  let b := s.burrow bi
  let (a, s) ← s.place (s.hbmUse b.tenancy (b.homeDen / 4)) (b.nodeBytes n.children.length) 64
  let s := s.putNode bi a n
  some (a, n.children.foldl (fun s c =>
    if c.1 then s.putLeaf bi c.2 { (s.burrow bi).leaf c.2 with root := false, parent := a }
    else s.putNode bi c.2 { (s.burrow bi).node c.2 with parent := a }) s)

/-- A swap recorded: the swap log (R256) and the version replaced (R257). -/
def State.logSwap (s : State) (bi installed replaced : Nat) : State :=
  let b := s.burrow bi
  s.setBurrow bi { b with
    swaps := b.swaps ++ [{ installed, replaced, frame := s.frame }]
    old := if b.old.any (fun o => o.1 == replaced) then b.old else b.old ++ [(replaced, s.frame)] }

/-- Every installed node one level deeper (R266). -/
def State.deepen (s : State) (bi : Nat) : State :=
  ((s.burrow bi).installed).foldl (fun s a => let n := (s.burrow bi).node a; s.putNode bi a { n with depth := n.depth + 1 }) s

/-- A node of children with their centroids. -/
def nodeOf (depth version parent : Nat) (cs : List ((Bool × Nat) × List Nat)) : Node :=
  { depth, version, parent, children := cs.map (·.1), cents := cs.map (·.2), norms := cs.map (fun c => centNorm c.2) }

/-- New versions put in the place of an old one, in its parent's entry or at the root: one takes the entry, two replace the
parent, and a full parent splits in its turn (R262, R266); a new root's VERSION is 1 (DESIGN CHOICE, assumption 112). -/
def State.graft (s : State) (bi : Nat) : (fuel old : Nat) → List ((Bool × Nat) × List Nat) → Option State
  | 0, _, _ => none
  | fuel + 1, old, new =>
    let b := s.burrow bi
    let dim := b.dim
    let first := ((new.head?.map (·.1.2)).getD old)
    match b.parentOf old, new with
    | none, [c] => some ((s.setBurrow bi { b with root := c.1.2, rootLeaf := c.1.1 }).logSwap bi c.1.2 old)
    | none, _ => do
      let s := (new.filter (fun c => !c.1.1)).foldl (fun s c => let n := (s.burrow bi).node c.1.2; s.putNode bi c.1.2 { n with depth := n.depth + 1 })
        (s.deepen bi)
      let (r, s) ← s.writeNode bi (nodeOf 0 1 0 new)
      let b := s.burrow bi
      some ((s.setBurrow bi { b with root := r, rootLeaf := false, levels := b.levels + 1 }).logSwap bi r old)
    | some p, [c] =>
      let n := b.node p
      some ((s.putNode bi p { n with children := n.children.map (fun x => if x.2 = old then c.1 else x) }).logSwap bi first old)
    | some p, _ =>
      let n := b.node p
      let items := (n.children.zip n.cents).flatMap (fun x => if x.1.2 = old then new else [x])
      let s := s.logSwap bi first old
      if items.length ≤ b.fanoutMax then do
        let (a, s) ← s.writeNode bi (nodeOf n.depth (n.version + 1) n.parent items)
        State.graft s bi fuel p [((false, a), [])]
      else do
        let (g, c0, c1) := splitGroups dim (items.map (fun x => x.2.map bf16.decode))
        let g := bothGroups g
        let (a0, s) ← s.writeNode bi (nodeOf n.depth (n.version + 1) n.parent (((items.zip g).filter (·.2)).map (·.1)))
        let (a1, s) ← s.writeNode bi (nodeOf n.depth (n.version + 1) n.parent (((items.zip g).filter (!·.2)).map (·.1)))
        State.graft s bi fuel p [((false, a0), centCodes c0), ((false, a1), centCodes c1)]

/-- The slots of dropped items freed, with their vectors, and the item map pointed to the new versions (R264, R403). -/
def State.settleMerge (s : State) (bi old : Nat) (dropped : List BodyItem) (news : List Nat) : State :=
  let b := s.burrow bi
  let holds := fun (a slot : Nat) =>
    let l := b.leaf a
    l.items.any (fun i => i.slot == slot) || l.flat.any (fun e => match e.2 with | .insert k _ _ _ _ => k == slot | _ => false)
  let slots := dropped.map (·.slot)
  { s.setBurrow bi { b with
      slotFree := b.slotFree ++ slots, vectors := b.vectors.filter (fun v => !slots.contains v.1)
      itemMap := b.itemMap.map (fun e =>
        if e.2.2 = old then (e.1, (e.2.1, (news.find? (fun a => holds a e.2.1)).getD old)) else e) } with
    vcache := s.vcache.filter (fun v => !(v.1 == bi && slots.contains v.2.1)) }

/-- A FROZEN burrow whose side lists are all empty is MERGED (R194). -/
def State.markMerged (s : State) (bi : Nat) : State :=
  let b := s.burrow bi
  if b.state = 2 ∧ b.chunksUsed = 0 then s.setBurrow bi { b with merged := true } else s

/-- A fold installed as one new version. -/
def State.installOne (s : State) (bi old : Nat) (f : Fold) : Option State := do
  let (a, s) ← s.writeLeaf bi old f.body f.carried f.seq
  let s ← s.graft bi 8 old [((true, a), [])]
  some (s.settleMerge bi old f.dropped [a])

/-- A carried insert is nearer the first centroid of a split. -/
def Burrow.carriedFirst (b : Burrow) (c0 c1 : List Fp) (e : SideEntry) : Bool :=
  match e with
  | .insert _ _ _ _ code => nearFirst (b.rebuild code) c0 c1
  | _ => true

/-- The carried entries of one half: its inserts, and the tombstones of what it holds. -/
def halfCarried (body : List (Spot × BodyItem)) (mine : SideEntry → Bool) (carried : List (Nat × SideEntry)) : List (Nat × SideEntry) :=
  let ins := carried.filter (fun e => !e.2.isTomb && mine e.2)
  carried.filter (fun e => match e.2 with
    | .insert _ _ _ _ _ => mine e.2
    | .tomb t p _ _ => body.any (fun b => b.1 == (t, p)) || (t == 1 && ins.any (fun i => i.1 == p)))

/-- A fold installed as two leaf versions (R265); none where a group would not fit a leaf, or the chunks the burrow's limit (R167) (DEDUCED, assumption 53). -/
def State.installTwo (s : State) (bi old : Nat) (f : Fold) : Option State := do
  let b := s.burrow bi
  let (g, c0, c1) := splitGroups b.dim (f.body.map (fun p => b.rebuild p.2.code))
  let b0 := ((f.body.zip g).filter (·.2)).map (·.1)
  let b1 := ((f.body.zip g).filter (!·.2)).map (·.1)
  let h0 := halfCarried b0 (b.carriedFirst c0 c1) f.carried
  let h1 := halfCarried b1 (fun e => !b.carriedFirst c0 c1 e) f.carried
  let chunks := b.chunksUsed - (b.leaf old).side.length + (packChunks h0).length + (packChunks h1).length
  if 8192 < b0.length ∨ 8192 < b1.length ∨ b.sideMax < chunks then none
  else
    let (a0, s) ← s.writeLeaf bi old b0 h0 f.seq
    let (a1, s) ← s.writeLeaf bi old b1 h1 f.seq
    let s ← s.graft bi 8 old [((true, a0), centCodes c0), ((true, a1), centCodes c1)]
    some (s.settleMerge bi old f.dropped [a0, a1])

/-- What a merge installs: one version, two where more than 8,192 items qualify and a split is possible, or a fold up to 8,192
items; none while storage for it has no place, or where nothing can be folded. -/
def State.installMerge (s : State) (bi : Nat) (m : Merge) : Option State :=
  let b := s.burrow bi
  let l := b.leaf m.leaf
  let f := l.fold m.point
  let full := (l.foldFull m.point).bind (s.installOne bi m.leaf)
  if f.body.length ≤ 8192 then s.installOne bi m.leaf f
  else if b.maySplit then (s.installTwo bi m.leaf f).orElse (fun _ => full)
  else full

/-- The swap of a merge begun in an earlier frame (R57 step 3, R262). A merge that can install nothing ends without one. -/
def State.swapLeaf (s : State) (bi a : Nat) : State :=
  let b := s.burrow bi
  match b.merges.find? (fun m => m.leaf == a) with
  | none => s
  | some m =>
    if s.frame ≤ m.frame then s
    else
      let s := s.setBurrow bi { b with merges := b.merges.filter (fun m => m.leaf != a) }
      match s.installMerge bi m with
      | some s' => s'.markMerged bi
      | none => s

/-- The merges that are due at the present frame's boundary (DEDUCED, assumption 54). -/
def State.swapAll (s : State) : State :=
  (s.burrows.flatMap (fun e => e.2.merges.map (fun m => (e.1, m.leaf)))).foldl (fun s p => s.swapLeaf p.1 p.2) s

/-! ### Folding in place (R263) -/

/-- TOMBSTONE_FOLD: in a background slot, on a leaf that calls for a merge and whose side list holds no insert at or below M. -/
def tombstoneFoldSt (burrow leaf : Nat) (s : State) : State :=
  let b := s.burrow burrow
  let l := b.leaf leaf
  let M := s.mergePoint burrow
  let hid := l.hidden M
  let noInsert := l.flat.all (fun e => e.2.isTomb || decide (M < e.2.seq))
  if s.mergeDue burrow leaf && s.stackTurn l.stack b.tenancy && noInsert && hid.any (fun h => h.1 == 0) then
    (s.bgServed (s.stackMap l.stack) b.tenancy).putLeaf burrow leaf { l with
      mergeSeq := M
      items := ((List.range l.items.length).zip l.items).map (fun p => { p.2 with tomb := p.2.tomb || hid.contains (0, p.1) }) }
  else s

def execTombstoneFold (burrow leaf : Nat) (s : State) : Out := .next (tombstoneFoldSt burrow leaf s)

/-! ### Freeing replaced versions (R257) -/

/-- The ranges of a replaced version. -/
def Burrow.versionRanges (b : Burrow) (a : Nat) : List (Nat × Nat) :=
  match tget b.leaves a, tget b.nodes a with
  | some l, _ => (a, b.leafBytes l.items.length) :: l.side.map (fun c => (c.addr, 4096))
  | none, some n => [(a, b.nodeBytes n.children.length)]
  | none, none => []

/-- LEAF_VERSION_FREE: a replaced version that no walk needs any more is freed in a background slot (DEDUCED, assumption 54). -/
def leafVersionFreeSt (burrow addr : Nat) (s : State) : State :=
  let b := s.burrow burrow
  match b.old.find? (fun o => o.1 == addr) with
  | some o =>
    if s.walkedBefore burrow o.2 || !s.stackTurn (stackOf addr) b.tenancy then s
    else
      let ranges := b.versionRanges addr
      let s := (s.bgServed (s.stackMap (stackOf addr)) b.tenancy).setBurrow burrow { b with
        leaves := tdel b.leaves addr, nodes := tdel b.nodes addr, old := b.old.filter (fun o => o.1 != addr)
        swaps := b.swaps.filter (fun w => w.replaced != addr) }
      ranges.foldl (fun s r => s.freeStorage r.1 r.2 b.tenancy) s
  | none => s

def execLeafVersionFree (burrow addr : Nat) (s : State) : Out := .next (leafVersionFreeSt burrow addr s)

end Sys2Proof.Machine
end

