-- ==== Sys2Proof/Machine/Requests.lean ====
section
/-!
DEFINITION. What every Wilfer Link message passes before its effect, and the records of multi-phase requests with their copies
(R522–R525, R551–R556).
-/

namespace Sys2Proof.Machine

/-! ### Messages that arrive (R522–R525) -/

/-- A message dropped and counted in WL_BAD_MSG. -/
def State.badMsg (s : State) : State := s.bump 0x0809080 1

/-- A request refused: counted in WL_REFUSE of a tenancy (R515). -/
def State.refuse (s : State) (t : Nat) : State := s.bump (0x080A000 + 8 * t) 1

/-- The types that a device outside the view may send (R524). -/
def viewFree (type : Nat) : Bool := decide (0x10 ≤ type ∧ type ≤ 0x15)

/-- A message of a type that arrives on a port: dropped where R522, R524 or, for a control message, R525 says so. -/
def State.message (s : State) (port type : Nat) (m : Msg) (f : State → State) : State :=
  s.arrive port 2 fun s =>
    if m.reserved ≠ 0 then s.badMsg
    else if !viewFree type && !s.fabric.members.contains m.src then s.badMsg
    else if decide (0x10 ≤ type ∧ type ≤ 0x1A) && m.key != s.domainKey then s.badMsg
    else f s

/-- The tenancy an id of TEN_ID_ALLOT is allotted to: k = 0 burrows, 1 tables, 2 images. -/
def State.idTenancy (s : State) (k i : Nat) : Option Nat :=
  let e := ownerEntry s.live (0x0048000 + 0x2000 * k) i
  if bit e 15 then some (bits e 8 0) else none

/-! ### Partners and copies (R551, R552) -/

/-- The member that follows a rank in ascending circular order. -/
def nextMember (members : List Nat) (rank : Nat) : Option Nat :=
  bestBy (fun a b => decide ((a + 4096 - rank - 1) % 4096 < (b + 4096 - rank - 1) % 4096)) (members.filter (· != rank))

/-- The partner of this device in its view. -/
def State.partner (s : State) : Option Nat := if s.fabric.members.contains s.myRank then nextMember s.fabric.members s.myRank else none

/-- A request this device creates: ACQUIRED at its current view (R552). -/
def State.createRequest (s : State) (kind w : Nat) : State :=
  let o : Owned :=
    { owner := s.myRank, serial := s.fabric.nextSerial, kind, phase := 0, acquired := true, view := s.fabric.view
      partner := s.partner.getD s.myRank, acked := true, orphaned := 0, w, image := [], fragPhase := 0, frags := [] }
  { s with fabric := { s.fabric with owned := s.fabric.owned ++ [o], nextSerial := (s.fabric.nextSerial + 1) % 2 ^ 32 } }

/-- The record of the request of a kind that this device holds for a work. -/
def State.request (s : State) (kind w : Nat) : Option Owned :=
  s.fabric.owned.find? (fun o => o.kind == kind && o.w == w && o.acquired)

/-- A record replaced. -/
def State.setRequest (s : State) (o : Owned) : State :=
  { s with fabric := { s.fabric with owned := s.fabric.owned.map (fun p => if p.owner = o.owner ∧ p.serial = o.serial then o else p) } }

/-- A record removed. -/
def State.endRequest (s : State) (kind w : Nat) : State :=
  { s with fabric := { s.fabric with owned := s.fabric.owned.filter (fun o => !(o.kind == kind && o.w == w && o.acquired)) } }

/-- A request id (R552). -/
def Owned.id (o : Owned) : Nat := o.owner * 2 ^ 32 + o.serial

/-- Bytes of a state image that one fragment carries. -/
def fragBytes : Nat := 16832

/-- The copy of a request's state sent to its partner (R551, R523). -/
def State.sendCopy (s : State) (o : Owned) (image : Bytes) : State :=
  let n := max 1 (ceilDiv image.length fragBytes)
  (List.range n).foldl (fun s i =>
    let head := toLe 8 o.id ++ toLe 1 o.kind ++ toLe 1 o.phase ++ toLe 2 i ++ toLe 2 n ++ toLe 50 0
    s.sendTo o.partner 0x18 (s.mkMsg o.partner 0 0 0 0 s.domainKey (2 ^ 31) (head ++ (image.drop (i * fragBytes)).take fragBytes))) s

/-- The end of a phase at the owner: the copy goes to the partner, whose acknowledgement the next phase waits for. -/
def State.endPhase (s : State) (kind w phase : Nat) (image : Bytes) : State :=
  match s.request kind w with
  | some o =>
    let alone := s.partner.isNone
    let o := { o with phase, acked := alone, partner := s.partner.getD s.myRank }
    let s := s.setRequest o
    if alone then s else s.sendCopy o image
  | none => s

/-- The next phase of a request may start: the last copy is acknowledged. -/
def State.mayGoOn (s : State) (kind w : Nat) : Bool :=
  match s.request kind w with
  | some o => o.acked
  | none => true

/-- MBR_STATUS, whose bits [11:8] are its events. -/
def mbrStatus : Nat := 0x080C030

/-- A record of a resumed request's end in MBR_TAKEOVER_LOG (R556). -/
def State.logTakeover (s : State) (kind w phase status count : Nat) : State :=
  match s.request kind w with
  | some o =>
    let r : Takeover := { owner := o.owner, serial := o.serial, kind, phase, status, count, time := s.time.now }
    { s with fabric := { s.fabric with
        takeovers := tset s.fabric.takeovers s.fabric.takeHead r, takeHead := (s.fabric.takeHead + 1) % 256 } }.setFlag mbrStatus 11
  | none => s

end Sys2Proof.Machine
end

