-- ==== Sys2Proof/Machine/Groups.lean ====
section
/-!
DEFINITION. Searches over burrow groups, forwarded queries, partial lists and MERGE_PARTIAL (R205, R227–R234, R270–R286).
-/

namespace Sys2Proof.Machine

/-! ### Group registers (R270) -/

def State.grpReg (s : State) (bi off : Nat) : Nat := (s.stored (groupKey bi off)).toNat
def State.grpSize (s : State) (bi : Nat) : Nat := bits (s.grpReg bi 0x0402008) 8 0
def State.grpSelf (s : State) (bi : Nat) : Option Nat :=
  let v := s.grpReg bi 0x0402008
  if bit v 24 then some (bits v 23 16) else none
def State.grpKey (s : State) (bi : Nat) : Nat := s.grpReg bi 0x0402010

/-- The group registers of a burrow or table that are not zero: those of its bank from an offset on. -/
def State.bank (s : State) (id base : Nat) : Tab Reg :=
  s.regs.filter (fun e => e.1 / 2 ^ 26 == id + 1 && decide (base ≤ e.1 % 2 ^ 26 ∧ e.1 % 2 ^ 26 < base + 0x1000) && e.2 != 0)

/-- A bank replaced. -/
def State.setBank (s : State) (id base : Nat) (b : Tab Reg) : State :=
  { s with regs := b.foldl (fun m e => tset m e.1 e.2) (s.regs.filter (fun e =>
      !(e.1 / 2 ^ 26 == id + 1 && decide (base ≤ e.1 % 2 ^ 26 ∧ e.1 % 2 ^ 26 < base + 0x1000)))) }

/-- The state with the group registers that an admitted descriptor goes by (R677). -/
def State.asAdmitted (s : State) (x : Work) (id base : Nat) : State := if s.bank id base = x.group then s else s.setBank id base x.group

/-- An act of an admitted descriptor under the group registers of its admission (R677). -/
def State.underGroup (s : State) (x : Work) (id base : Nat) (f : State → State) : State :=
  if s.bank id base = x.group then f s else (f (s.setBank id base x.group)).setBank id base (s.bank id base)

/-- The map entry of a shard, in a map of registers from an offset on. -/
def State.grpEntry (s : State) (id off shard : Nat) : Nat := bits (s.grpReg id (off + 8 * (shard / 2))) (32 * (shard % 2) + 31) (32 * (shard % 2))

/-- A rank is a member of the current view. -/
def State.inView (s : State) (rank : Nat) : Bool := s.fabric.members.contains rank

/-- The device that answers for a shard by its map entry: its primary in the view, otherwise its replica in the view. -/
def State.entryHolder (s : State) (e : Nat) : Option Nat :=
  if s.inView (bits e 11 0) then some (bits e 11 0)
  else if bit e 31 && s.inView (bits e 27 16) then some (bits e 27 16) else none

def State.holderAt (s : State) (id off shard : Nat) : Option Nat := s.entryHolder (s.grpEntry id off shard)

/-! ### Partial lists (Table 6.9, Table 13.4) -/

/-- An entry of a list. -/
def candBytes (c : Cand) : Bytes := toLe 8 c.key ++ toLe 4 c.score ++ toLe 4 c.pos

/-- A list of a shard. -/
def listBytes (shard : Nat) (cs : List Cand) : Bytes :=
  toLe 2 cs.length ++ toLe 1 shard ++ toLe 61 0 ++ (cs.map candBytes).flatten

/-- The payload of a PARTIAL. -/
def partialBytes (status snap passed nprobe shard : Nat) (cs : List Cand) : Bytes :=
  toLe 1 status ++ toLe 8 snap ++ toLe 4 passed ++ toLe 2 nprobe ++ toLe 49 0 ++ listBytes shard cs

/-- The entries of a list at an offset. -/
def listEntries (b : Bytes) (off n : Nat) : List Cand :=
  (List.range n).map (fun i =>
    let e := off + 64 + 16 * i
    { key := fld b e 8, score := fld b (e + 8) 4, slot := 0, pos := fld b (e + 12) 4 })

/-- Lists in shard order merged (R277): score descending, shard rank ascending, input position ascending; piece 0 throughout. -/
def mergeLists (k : Nat) (ls : List (Nat × List Cand)) : List Cand :=
  topEntries candBefore k (ls.flatMap (fun l => l.2.map (fun c => { c with pos := l.1 * 2 ^ 32 + c.pos })))

/-! ### Forwarded queries (R274) -/

/-- QUERY credits of a tenancy that are free (R126). -/
def State.creditsUsed (s : State) (t cls : Nat) : Nat :=
  ((s.works.filter (fun w => w.tenancy == t && w.cls == cls)).map (·.credits)).sum

/-- TEN_CREDIT of a class: 12 bits each, QUERY lowest. -/
def State.creditsOf (s : State) (t cls : Nat) : Nat := bits (s.liveReg t 0x0040108) (12 * cls - 1) (12 * (cls - 1))

/-- What is wrong with a forwarded query at its admission: a status of Table 3.10. -/
def State.fwdFails (s : State) (bi : Nat) (d : Bytes) (t : Nat) : Option Nat :=
  let b := s.burrow bi
  if (searchChecks b d).isEmpty = false then some 0x12
  else if b.state ≠ 1 ∧ b.state ≠ 2 then some 0x10
  else if s.canWalk t b.banks = false ∨ (schRerank d ≠ 0 ∧ s.anySett t b.homeDen = false) then some 0x60
  else none

/-- The work of a forwarded query: its descriptor with the query and set values after it. S is this device's SNAP_SEQ. -/
def State.admitForward (s : State) (port src tag shard bi t : Nat) (payload : Bytes) : State :=
  let x : Work :=
    { id := s.nextWork, desc := payload, opcode := 0x10, ring := 0, origin := some { port, src, tag, shard }, ctx := noCtx
      tenancy := t, port, pasid := 0, xltRoot := 0, cls := 1, credits := 1, frame := s.frame, snap := (s.burrow bi).snapSeq
      snapLate := false, burrow := bi, verdict := none, unchecked := false, group := [], queries := [Query.fresh (schNprobe payload)], items := [], routed := false
      outcomes := [], firstSeq := 0, lastSeq := 0, codes := none, stalled := false, result := none }
  { s with works := s.works ++ [x], nextWork := s.nextWork + 1 }

/-- The answer of a shard to a device. -/
def State.answerPartial (s : State) (port src tag bi : Nat) (payload : Bytes) : State :=
  let m := { s.mkMsg src 0 tag 0 (bi * 2 ^ 52) (s.grpKey bi) (2 ^ 31) payload with src := s.myRank }
  s.sendOn port 0x21 m

/-- A forwarded query that reaches this device as a shard: admitted, answered with what is wrong with it, or kept until a QUERY
credit is free (DEDUCED, assumption 55). -/
def State.takeForward (s : State) (port : Nat) (m : Msg) : State :=
  let bi := m.target / 2 ^ 52
  let shard := (s.grpSelf bi).getD 0
  match s.idTenancy 0 bi with
  | none => s.answerPartial port m.src m.tag bi (partialBytes 0x21 0 0 0 shard [])
  | some t =>
    match s.fwdFails bi m.payload t with
    | some st => s.answerPartial port m.src m.tag bi (partialBytes st 0 0 0 shard [])
    | none =>
      if s.creditsUsed t 1 < s.creditsOf t 1 then s.admitForward port m.src m.tag shard bi t m.payload
      else { s with fabric := { s.fabric with fwdWait := s.fabric.fwdWait ++ [(port, m)] } }

/-- FWD_QUERY (R274, R275): a key other than the group's is answered with KEY_MISMATCH. -/
def fwdQuerySt (port : Nat) (m : Msg) (s : State) : State :=
  s.message port 0x20 m fun s =>
    let bi := m.target / 2 ^ 52
    if s.fabric.excluded then s
    else if m.key ≠ s.grpKey bi ∨ s.grpSize bi = 0 then
      s.answerPartial port m.src m.tag bi (partialBytes 0x22 0 0 0 ((s.grpSelf bi).getD 0) [])
    else s.takeForward port m

def execFwdQuery (port : Nat) (m : Msg) (s : State) : Out := .next (fwdQuerySt port m s)

/-- CANCEL: the forwarded query of a source and tag ends, admitted or waiting (R522). -/
def cancelSt (port : Nat) (m : Msg) (s : State) : State :=
  s.message port 0x22 m fun s =>
    let bi := m.target / 2 ^ 52
    if m.key ≠ s.grpKey bi then s.refuse ((s.idTenancy 0 bi).getD 0)
    else
      let ended := fun (x : Work) => match x.origin with | some o => o.src == m.src && o.tag == m.tag | none => false
      { s with
        works := s.works.filter (fun x => !ended x)
        slots := { s.slots with waits := s.slots.waits.filter (fun v => !s.works.any (fun x => x.id == v.w && ended x)) }
        fabric := { s.fabric with fwdWait := s.fabric.fwdWait.filter (fun f => !(f.2.src == m.src && f.2.tag == m.tag)) } }

def execCancel (port : Nat) (m : Msg) (s : State) : Out := .next (cancelSt port m s)

/-- The step of a forwarded query: the vector and set values it carries are checked, then its walk runs. -/
def State.searchForward (s : State) (x : Work) : State :=
  let b := s.burrow x.burrow
  let n := b.queryBytes x.desc
  let vec := b.query (schFp32 x.desc) (slice (x.desc.drop 64) 0 n)
  let sets := setValues x.desc (x.desc.drop (64 + n))
  match s.searchFails b x (vec.map (fun v => [v])) sets with
  | some r => s.finish x.id r
  | none => s.scanWork x [vec.getD []] sets

/-! ### The coordinator (R273–R281) -/

/-- A group search. -/
def State.group (s : State) (w : Nat) : Option GroupSearch := s.groups.find? (fun g => g.w == w)

/-- A group search replaced. -/
def State.setGroup (s : State) (g : GroupSearch) : State := { s with groups := s.groups.map (fun h => if h.w = g.w then g else h) }

/-- A partial kept: the first of its shard. -/
def State.keepPartial (s : State) (w : Nat) (p : Partial) : State :=
  match s.group w with
  | some g => if g.partials.any (fun q => q.shard == p.shard) then s else s.setGroup { g with partials := g.partials ++ [p] }
  | none => s

/-- A partial without entries. -/
def Partial.failed (shard status : Nat) : Partial := { shard, status, snap := 0, passed := 0, nprobe := 0, dropped := 0, entries := [] }

/-- The tag of a forwarded query: the search's number and the shard. -/
def GroupSearch.tag (g : GroupSearch) (shard : Nat) : Nat := g.tagNo * 256 + shard

/-- The map entry of a shard. -/
def GroupSearch.entry (g : GroupSearch) (shard : Nat) : Nat := g.map.getD shard 0

/-- A query sent to the holder of a shard, or admitted here if that is this device; where no route leads there it ends as R511
gives (R512). -/
def State.sendQuery (s : State) (g : GroupSearch) (shard rank : Nat) : State :=
  let m := s.mkMsg rank 0 (g.tag shard) 0 (g.burrow * 2 ^ 52) g.key (2 ^ 31) g.message
  if rank = s.myRank then s.takeForward 0xFF m
  else match s.routePort rank with
    | some p => s.sendOn p 0x20 m
    | none => s.keepPartial g.w (Partial.failed shard 0x50)

/-- A group search begun (R273): the query goes to one holder of each shard, by the map of its admission (R677); this device's own shard is
searched here. -/
def State.fanOut (s : State) (x : Work) (message : Bytes) : State :=
  let u := s.asAdmitted x x.burrow 0x0402000
  let size := u.grpSize x.burrow
  let self := u.grpSelf x.burrow
  let sentTo := (List.range size).filterMap (fun i =>
    if self = some i then some (i, s.myRank) else (u.holderAt x.burrow 0x0402400 i).map (fun r => (i, r)))
  let g : GroupSearch :=
    { w := x.id, tagNo := x.id % 2 ^ 23, burrow := x.burrow, key := u.grpKey x.burrow
      map := (List.range size).map (u.grpEntry x.burrow 0x0402400), phase := 0, size, selfRank := self, sentTo, partials := [], message }
  let s := { s with groups := s.groups ++ [g] }.createRequest 1 x.id
  (sentTo.filter (fun p => self != some p.1)).foldl (fun s p => s.sendQuery g p.1 p.2) s

/-- A group search's state as its copy carries it: the model's own layout (DESIGN CHOICE, assumption 56). -/
def GroupSearch.image (g : GroupSearch) : Bytes :=
  toLe 2 g.size ++ toLe 2 g.phase ++ toLe 2 g.partials.length ++ toLe 4 g.message.length ++ toLe 2 g.burrow ++ toLe 8 g.key ++
    g.map.flatMap (toLe 4) ++ g.message ++
    (g.partials.map (fun p => toLe 2 p.entries.length ++ toLe 4 p.dropped ++ partialBytes p.status p.snap p.passed p.nprobe p.shard p.entries)).flatten

/-- Partials read back from an image. -/
def readPartials : (n : Nat) → Bytes → List Partial
  | 0, _ => []
  | n + 1, b =>
    let k := fld b 0 2
    let c := b.drop 6
    { shard := fld c 66 1, status := fld c 0 1, snap := fld c 1 8, passed := fld c 9 4, nprobe := fld c 13 2, dropped := fld b 2 4
      entries := listEntries c 64 k } :: readPartials n (c.drop (128 + 16 * k))

/-- A group search read back from an image, under a work number of the device that resumes it (DESIGN CHOICE, assumption 56). -/
def readGroup (w tagNo : Nat) (b : Bytes) : GroupSearch :=
  let size := fld b 0 2
  let len := fld b 6 4
  let body := b.drop (20 + 4 * size)
  { w, tagNo, burrow := fld b 10 2, key := fld b 12 8, map := (List.range size).map (fun i => fld b (20 + 4 * i) 4), phase := fld b 2 2, size
    selfRank := none, sentTo := [], message := body.take len, partials := readPartials (fld b 4 2) (body.drop len) }

/-- Every shard has answered or is not covered. -/
def GroupSearch.complete (g : GroupSearch) : Bool :=
  (List.range g.size).all (fun i => g.partials.any (fun p => p.shard == i) || (tget g.sentTo i).isNone)

/-- The partials in shard order. -/
def GroupSearch.inOrder (g : GroupSearch) : List Partial := sortBy (fun a b => decide (a.shard < b.shard)) g.partials

/-- The status that ends a group search without results (R278). -/
def GroupSearch.failure (g : GroupSearch) : Option Nat :=
  (g.inOrder.find? (fun p => decide (16 ≤ p.status) && p.status != 0x31 && p.status != 0x32)).map (·.status)

/-- The merged list. -/
def GroupSearch.merged (g : GroupSearch) : List Cand := mergeLists (schK g.message) (g.inOrder.map (fun p => (p.shard, p.entries)))

/-- The coverage mask (R279). -/
def GroupSearch.coverage (g : GroupSearch) : Bytes := toLe 32 ((g.partials.map (fun p => 2 ^ p.shard)).sum)

/-- A shard widened: its walk used more than the nprobe asked for. -/
def GroupSearch.widened (g : GroupSearch) : Bool := g.partials.any (fun p => p.status == 3 || decide (schNprobe g.message < p.nprobe))

/-- The result of a group search (R278, R279). -/
def GroupSearch.result (g : GroupSearch) : Result :=
  match g.failure with
  | some st => Result.err st 0
  | none =>
    let n := g.merged.length
    let ill := g.inOrder.filter (fun p => p.status == 0x31 || p.status == 0x32)
    let status :=
      if ill.any (fun p => p.status == 0x32) then 0x32 else if ill ≠ [] then 0x31
      else if g.partials.length < g.size then 2 else if g.widened then 3 else if n < schK g.message then 1 else 0
    let low := (ill.find? (fun p => p.status == status)).map (·.shard)
    { status, flags := 2 * b2n g.widened, count := n
      snap := match g.selfRank with | some r => ((g.partials.find? (fun p => p.shard == r)).map (·.snap)).getD 0 | none => 0
      detail := match low with | some r => min ((ill.map (·.dropped)).sum) 255 + 256 * r | none => 0
      b24 := g.partials.length + 2 ^ 16 * g.size + 2 ^ 32 * min ((g.partials.map (·.passed)).sum) (2 ^ 32 - 1) }

/-- Where the coverage mask lies. -/
def maskOff (d : Bytes) : Nat := roundup (if schScores d then 12 * schK d else 8 * schK d) 64

/-- The merge of a collected group search (R277–R279): results and mask written, or nothing where a status forbids them. -/
def State.mergeGroup (s : State) (g : GroupSearch) (x : Work) : State :=
  let d := x.desc
  if g.failure.isSome then s.finish x.id g.result
  else
    s.withAccess x [(descRes d, (resultBlock d []).length, true), (descRes d + maskOff d, 32, true)] fun s =>
      let s := s.writeAt x (descRes d) (resultBlock d g.merged)
      (s.writeAt x (descRes d + maskOff d) g.coverage).finish x.id g.result

/-- A group search whose merge is done ends its third phase: the copy says so (DEDUCED, assumption 55). -/
def State.endGroup (s : State) (g : GroupSearch) : State :=
  let s := s.endPhase 1 g.w 3 { g with phase := 2 }.image
  let s := if s.partner.isNone then s.endRequest 1 g.w else s
  { s with groups := s.groups.filter (fun h => h.w != g.w) }

/-- A collected group search goes on to its merge: at its coordinator, or at the partner that resumed it, which discards the
results and logs the end (R556). -/
def State.finishGroup (s : State) (g : GroupSearch) : State :=
  match s.work g.w with
  | some x =>
    if x.result.isSome then s.endGroup g
    else
      let s := s.mergeGroup g x
      if ((s.work g.w).bind (·.result)).isSome then s.endGroup g else s
  | none => (s.logTakeover 1 g.w 3 g.result.status g.result.count).endGroup g

/-- What a group search can do next (R283): each phase starts once the copy of the one before it is acknowledged
(DEDUCED, assumption 55). -/
def State.advanceGroup (s : State) (w : Nat) : State :=
  match s.group w with
  | none => s
  | some g =>
    let s := if g.phase = 0 && g.complete && s.mayGoOn 1 w then
        let g := { g with phase := 1 }
        (s.setGroup g).endPhase 1 w 2 g.image
      else s
    match s.group w with
    | some g => if g.phase = 1 && s.mayGoOn 1 w then s.finishGroup g else s
    | none => s

/-- SEARCH (R207, R273): operands read and checked; without GROUP the walk runs; with it the query also goes to the other
shards, once. A forwarded query carries its operands. -/
def searchSt (w : Nat) (query setVals : Bytes) (s : State) : State :=
  s.withWork w (· == 0x10) fun x s =>
    if x.origin.isSome then s.searchForward x
    else if !schGroup x.desc then s.searchLocal x query setVals
    else
      let b := s.burrow x.burrow
      let s := s.searchLocal x query setVals
      match s.work w with
      | some y =>
        if y.result.isSome || y.stalled then s
        else if (s.group w).isSome then s.advanceGroup w
        else if (s.gate x ((b.searchReads x.desc).map (fun r => (r.1, r.2, false)))) matches .hold _ then s
        else
          let d := x.desc
          let body := s.readAt x (descOp0 d) (b.queryBytes d) query ++ (if descOp1 d = 0 then [] else s.readAt x (descOp1 d) (8 * schSets d) setVals)
          let s := s.fanOut x ((d.take 1 ++ [BitVec.ofNat 8 (descFlags d % 32 + descFlags d / 64 * 64)] ++ (slice d 2 62)) ++ body)
          match s.group w with
          | some g => (s.endPhase 1 w 1 g.image).advanceGroup w
          | none => s
      | none => s

def execSearch (w : Nat) (query setVals : Bytes) (s : State) : Out := .next (searchSt w query setVals s)

/-- A query whose selection answers a coordinator: what its partial list carries. -/
def Query.partial (q : Query) (shard snap : Nat) : Partial :=
  { shard, status := q.status, snap, passed := q.passed, nprobe := q.nprobe, dropped := q.dropped, entries := q.results }

/-- TOPK_SELECT (R227, R228): the best K of a query's candidates, on the home den's top-k unit in a slot that serves the tenancy. -/
def topkSelectSt (w query : Nat) (s : State) : State :=
  s.withWork w isSearch fun x s =>
    match x.queries[query]? with
    | none => s
    | some q =>
      let den := (s.burrow x.burrow).homeDen
      if !q.ready x.desc || !s.turnOf x (fun y => s.selects y den) then s
      else match s.passUnit w (topkCell + 1 + query) x.tenancy [denMap den] with
      | .hold s => s
      | .go s =>
      if x.origin.isNone && !schGroup x.desc then s.selectLocal x query q
      else
        let q := q.select x.desc
        let s := s.setWork { x with queries := lset x.queries query q }
        if x.origin.isSome then s.finish w (q.result x.snap)
        else match (s.group w).bind (·.selfRank) with
          | some r => (s.keepPartial w (q.partial r x.snap)).advanceGroup w
          | none => s

def execTopkSelect (w query : Nat) (s : State) : Out := .next (topkSelectSt w query s)

/-- The status an answer's header gives a descriptor (Table 13.5). -/
def headerStatus (status : Nat) : Nat :=
  match status with
  | 1 => 0x22
  | 2 => 0x32
  | 3 => 0x31
  | 4 => 0x23
  | _ => 0

/-- A partial that reaches its coordinator (R277, R281): only from the device its shard's query was last sent to. How many
candidates a shard dropped is not in the message: a free value. -/
def State.takePartial (s : State) (src tag status : Nat) (p : Bytes) : State :=
  match s.groups.find? (fun g => g.tagNo == tag / 256) with
  | some g =>
    let shard := tag % 256
    if tget g.sentTo shard ≠ some src then s
    else
      let st := if status = 0 then fld p 0 1 else headerStatus status
      let ill := st == 0x31 || st == 0x32
      let q : Partial :=
        { shard, status := st, snap := fld p 1 8, passed := fld p 9 4, nprobe := fld p 13 2
          dropped := if ill then s.freeVal % 256 else 0, entries := listEntries p 64 (min (fld p 64 2) 1024) }
      let s := if ill then s.drawn else s
      (s.keepPartial g.w q).advanceGroup g.w
  | none => s

/-- PARTIAL (R275–R281). -/
def partialListSt (port : Nat) (m : Msg) (s : State) : State :=
  s.message port 0x21 m fun s =>
    let bi := m.target / 2 ^ 52
    let key := ((s.groups.find? (fun g => g.tagNo == m.tag / 256)).map (·.key)).getD (s.grpKey bi)
    if m.key ≠ key then s.refuse ((s.idTenancy 0 bi).getD 0)
    else s.takePartial m.src m.tag m.status m.payload

def execPartialList (port : Nat) (m : Msg) (s : State) : Out := .next (partialListSt port m s)

/-- The answer to a coordinator when forwarded work has completed: a message, or a partial handed over here. -/
def State.answerForward (s : State) (x : Work) (o : Origin) (r : Result) : State :=
  let q := x.queries.headD (Query.fresh 0)
  let p := partialBytes r.status x.snap q.passed q.nprobe o.shard (if 16 ≤ r.status ∧ r.status ≠ 0x31 ∧ r.status ≠ 0x32 then [] else q.results)
  if o.src = s.myRank then s.takePartial o.src o.tag 0 p else s.answerPartial o.port o.src o.tag x.burrow p

/-- A view that excludes a device from which a partial is awaited (R280): the query goes to the shard's replica in the view, or
the shard stays uncovered. -/
def State.reviewGroups (s : State) : State :=
  s.groups.foldl (fun s g =>
    let lost := g.sentTo.filter (fun p => !g.partials.any (fun q => q.shard == p.1) && p.2 != s.myRank && !s.inView p.2)
    let s := lost.foldl (fun s p =>
      match s.group g.w with
      | none => s
      | some g =>
        let e := g.entry p.1
        if bit e 31 && s.inView (bits e 27 16) && bits e 27 16 != p.2 then
          let g := { g with sentTo := tset g.sentTo p.1 (bits e 27 16) }
          (s.setGroup g).sendQuery g p.1 (bits e 27 16)
        else s.setGroup { g with sentTo := tdel g.sentTo p.1 }) s
    s.advanceGroup g.w) s

/-- A resumed group search: the query re-sent to every shard without a partial in the copy (Table 13.10). -/
def State.resumeGroup (s : State) (g : GroupSearch) : State :=
  let sentTo := (List.range g.size).filterMap (fun i => (s.entryHolder (g.entry i)).map (fun r => (i, r)))
  let g := { g with sentTo, phase := if g.phase = 0 then 0 else 1 }
  let s : State := { s with groups := s.groups ++ [g], nextWork := s.nextWork + 1 }
  let s := if g.phase = 0 then
      (sentTo.filter (fun p => !g.partials.any (fun q => q.shard == p.1))).foldl (fun s p => s.sendQuery g p.1 p.2) s
    else s
  s.advanceGroup g.w

/-! ### MERGE_PARTIAL (R284–R286) -/

/-- The admission checks of MERGE_PARTIAL. -/
def mergeChecks (d : Bytes) : List (Nat × Nat) :=
  badIf 8 0x12 (descOp0 d == 0 || descOp0 d % 64 != 0) ++ badIf 16 0x12 (descOp1 d != 0) ++
  badIf 24 0x12 (descRes d == 0 || descRes d % 64 != 0) ++
  badIf 32 0x12 (fld d 32 2 == 0 || decide (256 < fld d 32 2)) ++ badIf 34 0x12 (fld d 34 2 == 0 || decide (1024 < fld d 34 2)) ++
  badIf 36 0x13 (fld d 36 4 % 64 != 0 || decide (fld d 36 4 < 64 ∨ 16448 < fld d 36 4))

/-- MERGE_PARTIAL: `lists` is what lies at operand address 0. -/
def mergePartialSt (w : Nat) (lists : Bytes) (s : State) : State :=
  s.withWork w (· == 0x19) fun x s =>
    let d := x.desc
    let n := fld d 32 2
    let k := fld d 34 2
    let stride := fld d 36 4
    match s.topDen x.tenancy x.port with
    | none => s
    | some den =>
      if !s.turnOf x (fun y => s.topWork y den) then s
      else match s.passUnit w topkCell x.tenancy [denMap den] with
      | .hold s => s
      | .go s => s.withAccess x [(descOp0 d, n * stride, false), (descRes d, (resultBlock d []).length, true)] fun s =>
        if s.poisonedAt x (descOp0 d) (n * stride) then s.finish w (Result.err 0x32 0)
        else
          let b := s.readAt x (descOp0 d) (n * stride) lists
          let bad := fun i => decide (min 1024 ((stride - 64) / 16) < fld b (i * stride) 2) || !zeroRange b (i * stride + 3) 61
          if (List.range n).any bad then s.finish w (Result.err 0x12 0)
          else
            let r := mergeLists k ((List.range n).map (fun i => (fld b (i * stride + 2) 1, listEntries b (i * stride) (fld b (i * stride) 2))))
            let s := s.writeAt x (descRes d) (resultBlock d r)
            s.finish w { Result.done r.length with status := b2n (decide (r.length < k)) }

def execMergePartial (w : Nat) (lists : Bytes) (s : State) : Out := .next (mergePartialSt w lists s)

end Sys2Proof.Machine
end

