-- ==== Sys2Proof/Machine/Cells.lean ====
section
/-!
DEFINITION. The operations of cells: registers, scratchpad, L1, memory, dot array, lanes and routes (R287–R308, R322–R327,
R451–R467).
-/

namespace Sys2Proof.Machine

/-! ### Operation words (Table 7.4) -/

def wFmt (w : Nat) : Nat := bits w 57 54
def wDst (w : Nat) : Nat := bits w 53 48
def wA (w : Nat) : Nat := bits w 47 42
def wB (w : Nat) : Nat := bits w 41 36
def wC (w : Nat) : Nat := bits w 35 30
def wSat (w : Nat) : Bool := bit w 29
def wImm (w : Nat) : Nat := bits w 27 0
def wImmS (w : Nat) : Int := signed 28 w

/-! ### Registers -/

/-- Sixteen zero lanes. -/
def zeroLanes : List Nat := List.replicate 16 0

/-- A vector register and an accumulator; 32–47 name the accumulators (R306). -/
def Cell.reg (c : Cell) (i : Nat) : List Nat := tgetD c.v i zeroLanes
def Cell.accu (c : Cell) (i : Nat) : List Nat := tgetD c.acc (i - 32) zeroLanes
def Cell.lane (c : Cell) (i k : Nat) : Nat := (c.reg i).getD k 0
def Cell.setReg (c : Cell) (i : Nat) (x : List Nat) : Cell := { c with v := tset c.v i x }
def Cell.setAcc (c : Cell) (i : Nat) (x : List Nat) : Cell := { c with acc := tset c.acc (i - 32) x }

/-- The 64 bytes of sixteen lanes, and back. -/
def laneBytes (x : List Nat) : Bytes := (x.map (toLe 4)).flatten
def bytesLanes (b : Bytes) : List Nat := (List.range 16).map (fun i => fld b (4 * i) 4)

/-- The address pair k of a register (R306). -/
def Cell.pair (c : Cell) (i k : Nat) : Nat := c.lane i (2 * (k % 8)) + 2 ^ 32 * c.lane i (2 * (k % 8) + 1)

/-- The position after a word: loops, innermost first, repeat their body or end (LOOP, Table 7.5). -/
def nextPc : List (Nat × Nat × Nat) → Nat → Nat × List (Nat × Nat × Nat)
  | [], pc => (pc + 1, [])
  | (a, b, n) :: t, pc =>
    if pc ≠ b then (pc + 1, (a, b, n) :: t)
    else if n ≤ 1 then nextPc t pc
    else (a, (a, b, n - 1) :: t)

/-- The cell after the word it stands at. -/
def Cell.next (c : Cell) : Cell :=
  let p := nextPc c.loops c.pc
  { c with pc := p.1, loops := p.2 }

/-- The cell inside a LOOP's body. -/
def Cell.enter (c : Cell) (w : Nat) : Cell :=
  { c with pc := c.pc + 1, loops := (c.pc + 1, c.pc + 1 + bits w 21 16, bits w 15 0) :: c.loops }

/-! ### Runs -/

/-- A run with a cell replaced. -/
def Run.setCell (r : Run) (sett c : Nat) (x : Cell) : Run := { r with cells := lset r.cells (8 * sett + c) x }


/-- An operation of a cell: it issues only while its run executes, is not stalled and has not ended, and while the cell's next word
holds that operation. -/
def State.cellOp (s : State) (run sett cell op : Nat) (f : Work → Run → Cell → Nat → State → State) : State :=
  match s.run run, s.work run with
  | some r, some x =>
    let c := r.cell sett cell
    let w := r.image.word sett cell c.pc
    if r.resident.isNone && r.setts != [] && !r.stalled && r.ended.isNone && x.result.isNone && decide (sett < r.image.setts ∧ cell < 8) &&
        !c.halted && wOp w == op then f x r c w s
    else s
  | _, _ => s

/-- The operation retires: the run with the cell past its word. -/
def State.retire (s : State) (r : Run) (sett cell : Nat) (c : Cell) : State := s.setRun (r.setCell sett cell c.next)

/-- An operation on a cell alone. -/
def State.cellOnly (s : State) (run sett cell op : Nat) (f : Nat → Cell → Cell) : State :=
  s.cellOp run sett cell op fun _ r c w s => s.retire r sett cell (f w c)

/-! ### Scratchpad (R325, R326) -/

/-- The scratchpad of an image sett. -/
def Run.pad (r : Run) (sett : Nat) : Tab Byte := r.scratch.getD sett []

/-- `n` bytes of scratchpad; bytes at or beyond SCRATCH_BYTES read as zero (DEDUCED, assumption 61). -/
def Run.padRead (r : Run) (sett a n : Nat) : Bytes :=
  (List.range n).map (fun i => if a + i < r.image.scratch then tgetD (r.pad sett) (a + i) 0 else 0)

/-- Bytes written to scratchpad; those at or beyond SCRATCH_BYTES are discarded (DEDUCED, assumption 61). -/
def Run.padWrite (r : Run) (sett a : Nat) (b : Bytes) : Run :=
  let p := ((List.range b.length).zip b).foldl (fun p e => if a + e.1 < r.image.scratch then tset p (a + e.1) e.2 else p) (r.pad sett)
  { r with scratch := lset r.scratch sett p }

/-- RANGE set where a range of scratchpad passes SCRATCH_BYTES. -/
def Run.ranged (r : Run) (a n : Nat) : Run := { r with range := r.range || decide (r.image.scratch < a + n) }

/-- The scratchpad address lane 0 of a register + IMM (DEDUCED, assumption 61). -/
def padAddr (c : Cell) (w : Nat) : Nat := wrap 32 ((c.lane (wB w) 0 : Int) + wImmS w)

/-! ### Element formats (Table 7.2) -/

/-- Bits of an element. -/
def fmtBits : Nat → Nat
  | 0 | 1 => 32
  | 2 | 3 => 16
  | 7 | 8 | 12 => 4
  | _ => 8

/-- An MX format. -/
def isMx (f : Nat) : Bool := decide (9 ≤ f ∧ f ≤ 12)

/-- A format whose accumulator is INT32. -/
def isIntFmt (f : Nat) : Bool := f == 0 || decide (6 ≤ f ∧ f ≤ 8)

/-- The value of an element code, without its block's scale. -/
def fmtValue (f v : Nat) : Fp :=
  match f with
  | 0 => .ofInt (signed 32 v) 0
  | 1 => fp32.decode v
  | 2 => bf16.decode v
  | 3 => fp16.decode v
  | 4 | 9 => e4m3.decode v
  | 5 | 10 => e5m2.decode v
  | 6 => .ofInt (signed 8 v) 0
  | 7 => .ofInt (signed 4 v) 0
  | 8 => .ofInt (v % 16) 0
  | 11 => .ofInt (signed 8 v) (-6)
  | _ => e2m1.decode v

/-- The integer an element code of an integer format stands for. -/
def fmtInt (f v : Nat) : Int := (fmtValue f v).toInt

/-- A shared scale (R292). -/
def e8m0 (s : Nat) : Fp := if s % 256 = 255 then .nan else .fin false 1 ((s % 256 : Nat) - (127 : Int))

/-! ### Lane arithmetic (R293–R297) -/

/-- A lane result and the flags OVF and INVALID it raises. -/
structure LaneOut where
  val     : Nat
  ovf     : Bool
  invalid : Bool
  deriving DecidableEq, Repr

/-- An INT32 result: saturated or wrapped (R297). -/
def intLane (sat : Bool) (v : Int) : LaneOut :=
  let lo : Int := -2147483648
  let hi : Int := 2147483647
  if lo ≤ v ∧ v ≤ hi then { val := wrap 32 v, ovf := false, invalid := false }
  else if sat then { val := wrap 32 (if v < lo then lo else hi), ovf := false, invalid := false }
  else { val := wrap 32 v, ovf := true, invalid := false }

/-- An FP32 result of operands: INVALID where NaN comes of none (R294). -/
def fpLane (ops : List Fp) (r : Nat) : LaneOut :=
  { val := r, ovf := false, invalid := (f32 r).isNan && ops.all (fun x => !x.isNan) }

/-- ADD, SUB or MUL on a lane. -/
def arith (fmt : Nat) (sat : Bool) (iop : Int → Int → Int) (fop : Nat → Nat → Nat) (a b : Nat) : LaneOut :=
  if fmt = 0 then intLane sat (iop (signed 32 a) (signed 32 b)) else fpLane [f32 a, f32 b] (fop a b)

/-- The order of MAX and MIN: −0 below +0. -/
def fpBelow (a b : Nat) : Bool := (f32 a).lt (f32 b) || ((f32 a).isZero && (f32 b).isZero && (f32 a).neg? && !(f32 b).neg?)

/-- MAX (or MIN) on a lane. -/
def extreme (fmt : Nat) (max : Bool) (a b : Nat) : Nat :=
  if fmt = 0 then (if decide (signed 32 a < signed 32 b) == max then b else a)
  else if (f32 a).isNan || (f32 b).isNan then fp32.nanCode
  else if fpBelow a b == max then b else a

/-- The run with flags of lane results. -/
def Run.flags (r : Run) (os : List LaneOut) : Run :=
  { r with ovf := r.ovf || os.any (·.ovf), invalid := r.invalid || os.any (·.invalid) }

/-- A lane-by-lane operation of two registers. -/
def State.laneOp (s : State) (run sett cell op : Nat) (f : Nat → Nat → Nat → LaneOut) : State :=
  s.cellOp run sett cell op fun _ r c w s =>
    let os := List.zipWith (f w) (c.reg (wA w)) (c.reg (wB w))
    s.retire (r.flags os) sett cell (c.setReg (wDst w) (os.map (·.val)))

/-! ### Control, scratchpad and lane rows -/

def nopOpSt (run sett cell : Nat) (s : State) : State := s.cellOnly run sett cell 0x00 (fun _ c => c)
def execNopOp (run sett cell : Nat) (s : State) : Out := .next (nopOpSt run sett cell s)

/-- LOOP. -/
def loopSt (run sett cell : Nat) (s : State) : State :=
  s.cellOp run sett cell 0x01 fun _ r c w s => s.setRun (r.setCell sett cell (c.enter w))
def execLoop (run sett cell : Nat) (s : State) : Out := .next (loopSt run sett cell s)

/-- SYNC: the cell arrives, and passes once every cell of the run has reached its count (R289). -/
def syncSt (run sett cell : Nat) (s : State) : State :=
  s.cellOp run sett cell 0x02 fun _ r c _ s =>
    let c := if c.atSync then c else { c with syncs := c.syncs + 1, atSync := true }
    let r := r.setCell sett cell c
    if r.cells.all (fun d => decide (c.syncs ≤ d.syncs)) then s.retire r sett cell { c with atSync := false } else s.setRun r
def execSync (run sett cell : Nat) (s : State) : Out := .next (syncSt run sett cell s)

/-- HALT: cell 0 of image sett 0 gives the run's count (R323) (DEDUCED, assumption 59). -/
def haltSt (run sett cell : Nat) (s : State) : State :=
  s.cellOp run sett cell 0x03 fun _ r c w s =>
    let r := if sett = 0 ∧ cell = 0 then { r with count := c.lane (wA w) 0 } else r
    s.setRun (r.setCell sett cell { c with halted := true })
def execHalt (run sett cell : Nat) (s : State) : Out := .next (haltSt run sett cell s)

/-- LDS. -/
def ldsSt (run sett cell : Nat) (s : State) : State :=
  s.cellOp run sett cell 0x06 fun _ r c w s =>
    let a := padAddr c w
    s.retire (r.ranged a 64) sett cell (c.setReg (wDst w) (bytesLanes (r.padRead sett a 64)))
def execLds (run sett cell : Nat) (s : State) : Out := .next (ldsSt run sett cell s)

/-- STS. -/
def stsSt (run sett cell : Nat) (s : State) : State :=
  s.cellOp run sett cell 0x07 fun _ r c w s =>
    let a := padAddr c w
    s.retire ((r.ranged a 64).padWrite sett a (laneBytes (c.reg (wA w)))) sett cell c
def execSts (run sett cell : Nat) (s : State) : Out := .next (stsSt run sett cell s)

/-- ACLR and AMOV. -/
def aclrSt (run sett cell : Nat) (s : State) : State := s.cellOnly run sett cell 0x12 (fun w c => c.setAcc (wDst w) zeroLanes)
def execAclr (run sett cell : Nat) (s : State) : Out := .next (aclrSt run sett cell s)
def amovSt (run sett cell : Nat) (s : State) : State := s.cellOnly run sett cell 0x13 (fun w c => c.setReg (wDst w) (c.accu (wA w)))
def execAmov (run sett cell : Nat) (s : State) : Out := .next (amovSt run sett cell s)

/-- ADD, SUB, MUL. -/
def addSt (run sett cell : Nat) (s : State) : State :=
  s.laneOp run sett cell 0x20 (fun w => arith (wFmt w) (wSat w) (· + ·) add32)
def execAdd (run sett cell : Nat) (s : State) : Out := .next (addSt run sett cell s)
def subSt (run sett cell : Nat) (s : State) : State :=
  s.laneOp run sett cell 0x21 (fun w => arith (wFmt w) (wSat w) (· - ·) sub32)
def execSub (run sett cell : Nat) (s : State) : Out := .next (subSt run sett cell s)
def mulSt (run sett cell : Nat) (s : State) : State :=
  s.laneOp run sett cell 0x22 (fun w => arith (wFmt w) (wSat w) (· * ·) mul32)
def execMul (run sett cell : Nat) (s : State) : Out := .next (mulSt run sett cell s)

/-- FMA: one rounding (DESIGN CHOICE, assumption 60). -/
def fmaSt (run sett cell : Nat) (s : State) : State :=
  s.cellOp run sett cell 0x23 fun _ r c w s =>
    let os := (List.range 16).map (fun i =>
      let a := f32 (c.lane (wA w) i)
      let b := f32 (c.lane (wB w) i)
      let d := f32 (c.lane (wC w) i)
      fpLane [a, b, d] (r32 ((a.mul b).add d)))
    s.retire (r.flags os) sett cell (c.setReg (wDst w) (os.map (·.val)))
def execFma (run sett cell : Nat) (s : State) : Out := .next (fmaSt run sett cell s)

/-- MAX and MIN. -/
def maxSt (run sett cell : Nat) (s : State) : State :=
  s.laneOp run sett cell 0x24 (fun w a b => { val := extreme (wFmt w) true a b, ovf := false, invalid := false })
def execMax (run sett cell : Nat) (s : State) : Out := .next (maxSt run sett cell s)
def minSt (run sett cell : Nat) (s : State) : State :=
  s.laneOp run sett cell 0x25 (fun w a b => { val := extreme (wFmt w) false a b, ovf := false, invalid := false })
def execMin (run sett cell : Nat) (s : State) : Out := .next (minSt run sett cell s)

/-- ADDI: as INT32 ADD (DESIGN CHOICE, assumption 60). -/
def addiSt (run sett cell : Nat) (s : State) : State :=
  s.cellOp run sett cell 0x27 fun _ r c w s =>
    let os := (c.reg (wA w)).map (fun a => intLane (wSat w) (signed 32 a + wImmS w))
    s.retire (r.flags os) sett cell (c.setReg (wDst w) (os.map (·.val)))
def execAddi (run sett cell : Nat) (s : State) : Out := .next (addiSt run sett cell s)

/-- LOGIC. -/
def logicLane (op a b : Nat) : Nat :=
  match op with
  | 0 => a &&& b
  | 1 => a ||| b
  | 2 => a ^^^ b
  | _ => a &&& (b ^^^ (2 ^ 32 - 1))
def logicSt (run sett cell : Nat) (s : State) : State :=
  s.laneOp run sett cell 0x28 (fun w a b => { val := logicLane (wImm w) a b, ovf := false, invalid := false })
def execLogic (run sett cell : Nat) (s : State) : Out := .next (logicSt run sett cell s)

/-- One level of the tree of REDUCE. -/
def treeLevel (f : Nat → Nat → LaneOut) : List Nat → List LaneOut
  | a :: b :: t => f a b :: treeLevel f t
  | _ => []

/-- The tree of R303, with the flags of every addition. -/
def tree (f : Nat → Nat → LaneOut) : (levels : Nat) → List Nat → Nat × List LaneOut
  | 0, l => (l.headD 0, [])
  | n + 1, l =>
    let os := treeLevel f l
    let r := tree f n (os.map (·.val))
    (r.1, os ++ r.2)

/-- REDUCE: lane 0 of v[DST]; its other lanes stay (DESIGN CHOICE, assumption 60). -/
def reduceSt (run sett cell : Nat) (s : State) : State :=
  s.cellOp run sett cell 0x29 fun _ r c w s =>
    let t := tree (arith (wFmt w) (wSat w) (· + ·) add32) 4 (c.reg (wA w))
    s.retire (r.flags t.2) sett cell (c.setReg (wDst w) (lset (c.reg (wDst w)) 0 t.1))
def execReduce (run sett cell : Nat) (s : State) : Out := .next (reduceSt run sett cell s)

/-! ### DOT and POPC (R298–R300) -/

/-- The products of a register and a tile row. -/
def dotTerms (fmt : Nat) (a b : Bytes) : List Fp :=
  let w := fmtBits fmt
  (List.range (512 / w)).map (fun e => (fmtValue fmt (elemAt w a e)).mul (fmtValue fmt (elemAt w b e)))

/-- One lane of DOT: the accumulator with the dot product of v[SRC_A] and a row added. -/
def dotLane (fmt acc : Nat) (a row : Bytes) (scaleA scaleB : Nat → Nat) : LaneOut :=
  let ts := dotTerms fmt a row
  if isIntFmt fmt then intLane false (signed 32 acc + ((ts.map Fp.toInt)).sum)
  else if isMx fmt then
    let sc := fun k => (e8m0 (scaleA k)).mul (e8m0 (scaleB k))
    let r := sumBlocks 32 sc ts.length 0 acc ts
    let n := ceilDiv ts.length 32
    let clean := !(f32 acc).isNan && (List.range n).all (fun k => !(e8m0 (scaleA k)).isNan && !(e8m0 (scaleB k)).isNan) &&
      (List.range (512 / fmtBits fmt)).all (fun e => !(fmtValue fmt (elemAt (fmtBits fmt) a e)).isNan && !(fmtValue fmt (elemAt (fmtBits fmt) row e)).isNan)
    { val := r, ovf := false, invalid := (f32 r).isNan && clean }
  else
    let r := sumBlocks 16 (fun _ => unit) ts.length 0 acc ts
    let clean := !(f32 acc).isNan &&
      (List.range (512 / fmtBits fmt)).all (fun e => !(fmtValue fmt (elemAt (fmtBits fmt) a e)).isNan && !(fmtValue fmt (elemAt (fmtBits fmt) row e)).isNan)
    { val := r, ovf := false, invalid := (f32 r).isNan && clean }

/-- DOT. -/
def dotSt (run sett cell : Nat) (s : State) : State :=
  s.cellOp run sett cell 0x10 fun _ r c w s =>
    let fmt := wFmt w
    let base := padAddr c w
    let at' := fun i => (base + i * (wC w + 1) * 64) % 2 ^ 32
    let sca := c.lane 31 0
    let scAt := c.lane 31 1
    let os := (List.range 16).map (fun i =>
      dotLane fmt ((c.accu (wDst w)).getD i 0) (laneBytes (c.reg (wA w))) (r.padRead sett (at' i) 64) (fun k => sca / 256 ^ k % 256)
        (fun k => fld (r.padRead sett ((scAt + 4 * i) % 2 ^ 32) 4) k 1))
    let r := (List.range 16).foldl (fun r i => let r := r.ranged (at' i) 64; if isMx fmt then r.ranged ((scAt + 4 * i) % 2 ^ 32) 4 else r) r
    s.retire (r.flags os) sett cell (c.setAcc (wDst w) (os.map (·.val)))
def execDot (run sett cell : Nat) (s : State) : Out := .next (dotSt run sett cell s)

/-- Set bits of a byte sequence. -/
def countBits (b : Bytes) : Nat := (b.map (fun x => ((List.range 8).filter x.getLsbD).length)).sum

/-- POPC. -/
def popcSt (run sett cell : Nat) (s : State) : State :=
  s.cellOp run sett cell 0x11 fun _ r c w s =>
    let a := laneBytes (c.reg (wA w)) ++ laneBytes (c.reg (wA w + 1))
    let at' := fun i => (padAddr c w + i * (wC w + 1) * 64) % 2 ^ 32
    let os := (List.range 16).map (fun i =>
      let b := r.padRead sett (at' i) 128
      let n := countBits (List.zipWith (fun x y => if wFmt w = 13 then x ^^^ y else x &&& y) a b)
      intLane false (signed 32 ((c.accu (wDst w)).getD i 0) + n))
    let r := (List.range 16).foldl (fun r i => r.ranged (at' i) 128) r
    s.retire (r.flags os) sett cell (c.setAcc (wDst w) (os.map (·.val)))
def execPopc (run sett cell : Nat) (s : State) : Out := .next (popcSt run sett cell s)

/-! ### CVT (R295, R296) -/

/-- An exact value clamped to an integer format (Table 7.3). -/
def clampInt (f : Nat) (x : Fp) : Int :=
  let (lo, hi) : Int × Int := match f with
    | 0 => (-2147483648, 2147483647)
    | 6 => (-128, 127)
    | 7 => (-8, 7)
    | _ => (0, 15)
  match x with
  | .nan => 0
  | .inf n => if n then lo else hi
  | x => max lo (min hi x.toInt)

/-- A value converted to an element code of a format, without a scale. -/
def fmtEncode (f : Nat) (sat : Bool) (x : Fp) : Nat :=
  match f with
  | 1 => fp32.encode sat x
  | 2 => bf16.encode sat x
  | 3 => fp16.encode sat x
  | 4 | 9 => e4m3.encode true x
  | 5 | 10 => e5m2.encode sat x
  | 12 => e2m1.encode true x
  | 11 => wrap 8 (clampInt 6 (x.mul (.fin false 64 0)))
  | f => wrap (fmtBits f) (clampInt f x)

/-- The scale of a block (R296). -/
def blockScale (f : Nat) (xs : List Fp) : Nat :=
  if xs.any (·.isNan) then 255
  else
    let e : Int := match f with | 9 => 8 | 10 => 15 | 11 => 0 | _ => 2
    let mag := fun (x : Fp) => match x with | .fin _ m k => if m = 0 then none else some ((Nat.log2 m : Int) + k) | _ => some 300
    match (xs.filterMap mag) with
    | [] => 0
    | a :: t => (max 0 (min 254 ((t.foldl max a) - e + 127))).toNat

/-- A value divided by a scale. -/
def unscale (s : Nat) (x : Fp) : Fp := if s = 255 then .nan else x.mul (.fin false 1 (127 - (s : Int)))

/-- CVT. Packed elements stand from lane 0 on; what the lanes above them hold, and where an MX block's scale is found or left, the
spec does not say: free values, which the word and the source register fix (R305) (DESIGN CHOICE, assumption 60). -/
def cvtSt (run sett cell : Nat) (s : State) : State :=
  s.cellOp run sett cell 0x26 fun _ r c w s =>
    let f := wFmt w
    let fp := bit w 0
    let src := c.reg (wA w)
    let bw := fmtBits f
    if bit w 4 then
      let sc := if isMx f then e8m0 (Config.mxScale w src).toNat else unit
      let vs := (List.range 16).map (fun i => (fmtValue f (elemAt bw (laneBytes src) i)).mul sc)
      let os := vs.map (fun x => if fp then fpLane [x] (fp32.encode (wSat w) x) else { val := wrap 32 (clampInt 0 x), ovf := false, invalid := x.isNan })
      s.retire (r.flags os) sett cell (c.setReg (wDst w) (os.map (·.val)))
    else
      let vs := src.map (fun v => if fp then f32 v else .ofInt (signed 32 v) 0)
      let sc := blockScale f vs
      let codes := vs.map (fun x => fmtEncode f (wSat w) (if isMx f then unscale sc x else x))
      let n := 16 * bw / 32
      let packed := bytesLanes (packElems bw codes)
      let r := { r with invalid := r.invalid || (isIntFmt f && vs.any (·.isNan)) }
      let rest := (List.range (16 - n)).map (fun i => (Config.cvtLane (n + i) w src).toNat)
      s.retire r sett cell (c.setReg (wDst w) (packed.take n ++ rest))
def execCvt (run sett cell : Nat) (s : State) : Out := .next (cvtSt run sett cell s)

/-! ### Routes (R311) -/

/-- What waits on a route. -/
def Run.route (r : Run) (i : Nat) : List (List Nat) := r.routes.getD i []

/-- The capacity of a route. -/
def Image.depth (i : Image) (k : Nat) : Nat := ((i.routes[k]?).map (fun e => e.2.2.2.2)).getD 0

/-- SEND: waits while the route is full. -/
def sendSt (run sett cell : Nat) (s : State) : State :=
  s.cellOp run sett cell 0x30 fun _ r c w s =>
    let k := bits w 7 0
    if (r.route k).length < r.image.depth k then
      s.retire { r with routes := lset r.routes k (r.route k ++ [c.reg (wA w)]) } sett cell c
    else s
def execSend (run sett cell : Nat) (s : State) : Out := .next (sendSt run sett cell s)

/-- RECV: waits while the route is empty. -/
def recvSt (run sett cell : Nat) (s : State) : State :=
  s.cellOp run sett cell 0x31 fun _ r c w s =>
    let k := bits w 7 0
    match r.route k with
    | x :: t => s.retire { r with routes := lset r.routes k t } sett cell (c.setReg (wDst w) x)
    | [] => s
def execRecv (run sett cell : Nat) (s : State) : Out := .next (recvSt run sett cell s)

/-! ### The L1 (R327, R453–R458) -/

/-- The number by which the L1 knows a line: its memory address, or a host address set apart. -/
def hostLine (a : Nat) : Nat := 2 ^ 60 + a

/-- Where a line of a cell's access lies. -/
def State.lineKey (s : State) (x : Work) (a : Nat) (write : Bool) : Nat :=
  if addrClass a = 0 then hostLine a
  else match (s.locate x.tenancy x.xltRoot a 64 write).1 with
    | .mem m => m
    | .window m => m
    | _ => 0

/-- A line of the L1 by its number. -/
def Run.cached (r : Run) (sett key : Nat) : Option L1Line := (r.l1Of sett).find? (fun l => l.addr == key)

/-- Lines of the set a line belongs to: 128 sets of 8 ways. -/
def Run.ways (r : Run) (sett key : Nat) : List L1Line := (r.l1Of sett).filter (fun l => l.addr / 64 % 128 == key / 64 % 128)

/-- Room made for a line: where its set is full a line leaves it, whose choice the spec does not state: a free value that the lines of
the set fix (R305) (DEDUCED, assumption 61). -/
def State.evictFor (s : State) (x : Work) (run sett key : Nat) : State :=
  match s.run run with
  | some r =>
    let ws := r.ways sett key
    if ws.length < 8 then s
    else match ws[(Config.l1Victim (ws.map (·.addr)) key).val]? with
      | some v => s.flushL1 x run sett (fun l => l.addr == v.addr)
      | none => s
  | none => s

/-- A line filled from its home into the L1 (R455): the run with it, or the state in which the access waits or has ended. -/
def State.fillLine (s : State) (x : Work) (run sett cell a : Nat) (host : Bytes) : Gate :=
  let who := some (sett, cell)
  match s.gateBy x who [(a, 64, false)] with
  | .hold s' => .hold s'
  | .go s =>
    let key := s.lineKey x a false
    match (s.run run).bind (·.cached sett key) with
    | some _ => .go s
    | none =>
      if s.poisonedAt x a 64 then .hold (s.endAccess x who 0x32)
      else
        let data := s.readBy x who a 64 host
        let s := (s.usedBy x.id who).evictFor x run sett key
        match s.run run with
        | some r =>
          if 8 ≤ (r.ways sett key).length then .hold s
          else .go (s.setRun (r.setL1 sett (r.l1Of sett ++ [{ addr := key, data, dirty := List.replicate 64 false }])))
        | none => .hold s

/-- Lines a 64-byte access touches: address of each, offset and length in it. -/
def touched (a : Nat) : List (Nat × Nat × Nat) := (pieces a 64).map (fun p => (p.1 / 64 * 64, p.1 % 64, p.2))

/-- An access through the L1: hits go by the L1 copy, misses fill first; then `f` at the run with every line present. -/
def State.throughL1 (s : State) (x : Work) (run sett cell a : Nat) (host : Bytes) (write : Bool) (f : State → State) : State :=
  let who := some (sett, cell)
  let lines := touched a
  match s.gateBy x who (if write then lines.map (fun l => (l.1 + l.2.1, l.2.2, true)) else []) with
  | .hold s' => s'
  | .go s =>
    let step := fun (g : Gate) (l : Nat × Nat × Nat) =>
      match g with
      | .hold s => .hold s
      | .go s =>
        let tr := if addrClass l.1 = 0 then s.pageGranted x (l.1 / 4096) write else
          match (s.locate x.tenancy x.xltRoot l.1 64 write).1 with | .mem _ => true | .window _ => true | _ => false
        if tr && ((s.run run).bind (·.cached sett (s.lineKey x l.1 write))).isSome then .go s
        else s.fillLine x run sett cell l.1 (slice host (l.1 - a / 64 * 64) 64)
    match lines.foldl step (.go s) with
    | .hold s' => s'
    | .go s => f (s.usedBy x.id who)

/-- LDM: `hostData` is what a host returns for the lines of the access, from the first on. -/
def ldmSt (run sett cell : Nat) (hostData : Bytes) (s : State) : State :=
  s.cellOp run sett cell 0x04 fun x _ c w s =>
    let a := wrap 64 ((c.pair (wA w) (wC w) : Int) + wImmS w)
    s.throughL1 x run sett cell a hostData false fun s =>
      match s.run run with
      | some r =>
        let b := (touched a).flatMap (fun l => slice (((r.cached sett (s.lineKey x l.1 false)).map (·.data)).getD []) l.2.1 l.2.2)
        s.retire r sett cell (c.setReg (wDst w) (bytesLanes b))
      | none => s
def execLdm (run sett cell : Nat) (hostData : Bytes) (s : State) : Out := .next (ldmSt run sett cell hostData s)

/-- Bytes written into a line with their dirty bits. -/
def L1Line.put (l : L1Line) (off : Nat) (b : Bytes) : L1Line :=
  { l with
    data := (List.range 64).map (fun i => if off ≤ i ∧ i < off + b.length then b.getD (i - off) 0 else l.data.getD i 0)
    dirty := (List.range 64).map (fun i => decide (off ≤ i ∧ i < off + b.length) || l.dirty.getD i false) }

/-- A whole line written needs no fill. -/
def State.allocLine (s : State) (x : Work) (run sett cell a : Nat) : Gate :=
  match s.gateBy x (some (sett, cell)) (if addrClass a = 0 then [(a, 64, true)] else []) with
  | .hold s' => .hold s'
  | .go s =>
    match s.locate x.tenancy x.xltRoot a 64 true with
    | (.fault c l, s') => if addrClass a = 0 then .go s else .hold (s'.raiseFault x a true true (cellNo (some (sett, cell))) c l)
    | (.revoked, s') => .hold (s'.endAccess x (some (sett, cell)) 0x32)
    | (_, s) =>
      let key := s.lineKey x a true
      if ((s.run run).bind (·.cached sett key)).isSome then .go s
      else
        let s := s.evictFor x run sett key
        match s.run run with
        | some r =>
          if 8 ≤ (r.ways sett key).length then .hold s
          else .go (s.setRun (r.setL1 sett (r.l1Of sett ++ [{ addr := key, data := List.replicate 64 0, dirty := List.replicate 64 false }])))
        | none => .hold s

/-- STM into lines that stand in the L1. -/
def State.storeL1 (s : State) (x : Work) (run sett cell a : Nat) (c : Cell) (b : Bytes) : State :=
  match s.run run with
  | some r =>
    let r := (touched a).foldl (fun r l =>
      let key := s.lineKey x l.1 true
      let d := slice b (l.1 + l.2.1 - a) l.2.2
      r.setL1 sett ((r.l1Of sett).map (fun m => if m.addr = key then m.put l.2.1 d else m))) r
    s.retire r sett cell c
  | none => s

/-- STM (R453): a whole line is allocated without a read; a partial one is filled first. -/
def stmSt (run sett cell : Nat) (s : State) : State :=
  s.cellOp run sett cell 0x05 fun x _ c w s =>
    let a := wrap 64 ((c.pair (wA w) (wC w) : Int) + wImmS w)
    let b := laneBytes (c.reg (wB w))
    if a % 64 = 0 then
      match s.allocLine x run sett cell a with
      | .hold s' => s'
      | .go s => (s.storeL1 x run sett cell a c b).usedBy x.id (some (sett, cell))
    else s.throughL1 x run sett cell a [] true fun s => s.storeL1 x run sett cell a c b
def execStm (run sett cell : Nat) (s : State) : Out := .next (stmSt run sett cell s)

/-- L1_WRITE_BACK: a line of an image sett's L1 leaves it. -/
def l1WriteBackSt (run sett line : Nat) (s : State) : State :=
  match s.work run with
  | some x => s.flushL1 x run sett (fun l => l.addr == line)
  | none => s
def execL1WriteBack (run sett line : Nat) (s : State) : Out := .next (l1WriteBackSt run sett line s)

/-! ### MCPY, MPUT, AMO -/

/-- The L1 lines of a range written back and invalidated before an access past the L1 (R454): ready, or waiting. -/
def State.clearRange (s : State) (x : Work) (run sett a n : Nat) : Gate :=
  let keys := (linesOf (a / 64 * 64) (n / 64 + 3) (a % 64 + n)).map (fun p => s.lineKey x (p.1 / 64 * 64) false)
  let s := s.flushL1 x run sett (fun l => keys.contains l.addr)
  if ((s.run run).map (fun r => (r.l1Of sett).any (fun l => keys.contains l.addr))).getD false then .hold s else .go s

/-- MCPY (R452): the L1 lines of the range are written back before memory is read (R288, R454); `hostData` is what a host returns for the
range. -/
def mcpySt (run sett cell : Nat) (hostData : Bytes) (s : State) : State :=
  s.cellOp run sett cell 0x08 fun x _ c w s =>
    let who := some (sett, cell)
    let a := c.pair (wA w) (wC w)
    let n := 64 * wImm w
    let d := c.lane (wB w) 0
    match s.clearRange x run sett a n with
    | .hold s' => s'
    | .go s =>
      match s.gateBy x who [(a, n, false)] with
      | .hold s' => s'
      | .go s =>
        if s.poisonedAt x a n then s.endAccess x who 0x32
        else
          let b := s.readBy x who a n hostData
          match s.run run with
          | some r => (s.retire ((r.ranged d n).padWrite sett d b) sett cell c).usedBy x.id who
          | none => s
def execMcpy (run sett cell : Nat) (hostData : Bytes) (s : State) : Out := .next (mcpySt run sett cell hostData s)

/-- Stores of a cell to windows: still unacknowledged, or all acknowledged (R528). -/
def State.cellStores (s : State) (w : Nat) (who : Option (Nat × Nat)) : List WlReq :=
  s.fabric.requests.filter (fun r => r.w == w && r.kind == 3 && r.cell == who)

/-- MPUT (R452): to a window it retires once every store is acknowledged. -/
def mputSt (run sett cell : Nat) (s : State) : State :=
  s.cellOp run sett cell 0x09 fun x r c w s =>
    let who := some (sett, cell)
    let a := c.pair (wA w) (wC w)
    let n := 64 * wImm w
    let d := c.lane (wB w) 0
    let sent := s.cellStores x.id who
    if sent ≠ [] then
      if sent.all (·.data.isSome) then (s.retire r sett cell c).usedBy x.id who else s
    else
      match s.gateBy x who [(a, n, true)] with
      | .hold s' => s'
      | .go s =>
        match s.clearRange x run sett a n with
        | .hold s' => s'
        | .go s =>
          match s.run run with
          | some r =>
            let s := (s.writeBy x who a (r.padRead sett d n)).setRun (r.ranged d n)
            match s.run run with
            | some r => if s.cellStores x.id who ≠ [] then s.useRecalled x.id else (s.retire r sett cell c).usedBy x.id who
            | none => s
          | none => s
def execMput (run sett cell : Nat) (s : State) : Out := .next (mputSt run sett cell s)

/-- The new value of an atomic (Table 13.6), on fields of `n` bytes (DEDUCED, assumption 62). -/
def atomicNew (op n old operand swap : Nat) : Nat :=
  let m := 2 ^ (8 * n)
  match op with
  | 1 => (old + operand) % m
  | 2 => operand % m
  | 3 => if old = operand % m then swap % m else old
  | 4 => old &&& operand % m
  | 5 => old ||| operand % m
  | 6 => old ^^^ operand % m
  | 7 => if signed (8 * n) old < signed (8 * n) operand then operand % m else old
  | 8 => if signed (8 * n) operand < signed (8 * n) old then operand % m else old
  | 9 => max old (operand % m)
  | _ => min old (operand % m)

/-- The stores and segments of a stream to a destination that are not yet acknowledged (R531). -/
def State.streamBusy (s : State) (ctx region rank : Nat) : Bool :=
  s.fabric.requests.any (fun r => r.ctx == ctx && r.region == region && r.rank == rank && r.data.isNone && r.kind != 5)

/-- An ATOMIC sent to a window's home device (R531): the open segment of its stream goes first, and every earlier store of the
stream is acknowledged. -/
def State.sendAtomic (s : State) (x : Work) (who : Option (Nat × Nat)) (m op n : Nat) (operand : Bytes) : State :=
  match windowOf m with
  | some (wi, _, off) =>
    let win := s.window wi
    if (s.routePort win.rank).isNone then s.endAccess x who 0x50
    else
      let s := s.closeSegment x.ctx win.region win.rank
      if s.streamBusy x.ctx win.region win.rank then s
      else
        let tag := s.fabric.nextTag
        let req : WlReq :=
          { key := win.key, sent := true, born := 0, tag, rank := win.rank, port := bits (s.route win.rank) 3 0, ctx := x.ctx
            region := win.region, kind := 5, w := x.id
            cell := who, addr := m, len := n, offset := win.offset + off, flag := false, out := operand, seg := none, data := none }
        let s := s.addRequest req
        s.sendTo win.rank 5 { s.mkMsg win.rank 0 tag 0 (win.region * 2 ^ 52 + win.offset + off) win.key x.ctx operand with atomicOp := op }
  | none => s

/-- The value an AMO read, in lanes 0 and 1. -/
def amoLanes (v : Nat) : List Nat := [v % 2 ^ 32, v / 2 ^ 32] ++ List.replicate 14 0

/-- AMO (R308, R465): at the home den of the field's line, or at the home device of its window. A host address has no home den here
and is MALFORMED, as a misaligned field is (DEDUCED, assumption 62). -/
def amoSt (run sett cell : Nat) (s : State) : State :=
  s.cellOp run sett cell 0x0A fun x r c w s =>
    let who := some (sett, cell)
    let a := c.pair (wA w) (wC w)
    let n := if bit w 4 then 8 else 4
    let op := bits w 3 0
    let b := laneBytes (c.reg (wB w))
    let operand := fld b 0 n
    let swap := fld b 8 n
    if a % n ≠ 0 ∨ addrClass a = 0 then s.raiseFault x a true true (8 * sett + cell) .malformed 0
    else
      match s.fabric.requests.find? (fun q => q.w == x.id && q.kind == 5 && q.cell == who) with
      | some q =>
        match q.data with
        | some d => (s.retire r sett cell (c.setReg (wDst w) (amoLanes (fld d 0 n)))).usedBy x.id who
        | none => s
      | none =>
        match s.gateBy x who [(a, n, true)] with
        | .hold s' => s'
        | .go s =>
          match s.clearRange x run sett a n with
          | .hold s' => s'
          | .go s =>
            match (s.locate x.tenancy x.xltRoot a n true).1 with
            | .window m => s.sendAtomic x who m op n (if op = 3 then slice b 0 n ++ slice b 8 n else slice b 0 n)
            | .mem m =>
              if s.poisonedIn m n then s.endAccess x who 0x32
              else
                let old := leNat (s.readDev m n)
                match s.run run with
                | some r =>
                  ((s.put m (toLe n (atomicNew op n old operand swap))).retire r sett cell (c.setReg (wDst w) (amoLanes old))).usedBy x.id who
                | none => s
            | _ => s
def execAmo (run sett cell : Nat) (s : State) : Out := .next (amoSt run sett cell s)

end Sys2Proof.Machine
end

