-- ==== Sys2Proof/Machine/Kernels.lean ====
section
/-!
DEFINITION. Function images and runs: the check of an image, loading and unloading, starting a run, its iterations, and the
assignment of setts at frame boundaries (R309–R335).
-/

namespace Sys2Proof.Machine

/-! ### The image header (Table 7.6) -/

/-- Sections of an image as offset and length: header, programs, routes, constants. -/
def imageSections (b : Bytes) : List (Nat × Nat) :=
  [(0, 128), (fld b 0x10 4, fld b 0x14 4), (fld b 0x18 4, 8 * fld b 0x1C 2), (fld b 0x20 4, fld b 0x24 4)]

/-- No two ranges of a list have a byte in common. -/
def disjoint : List (Nat × Nat) → Bool
  | [] => true
  | r :: t => t.all (fun q => !overlap r q) && disjoint t

/-- Every header field is legal and the sections lie within IMAGE_BYTES without overlap (R313, R314) (DEDUCED, assumption 58). -/
def headerLegal (b : Bytes) : Bool :=
  let n := fld b 8 4
  let setts := fld b 0x0C 1
  let consts := fld b 0x24 4
  let scratch := fld b 0x28 4
  fld b 0 4 == 0x53584649 && fld b 4 2 == 1 && fld b 6 2 == 0 && decide (n ≤ 2 ^ 21) && decide (1 ≤ setts ∧ setts ≤ 16) &&
    zeroRange b 0x0D 1 && fld b 0x0E 2 != 0 && fld b 0x14 4 == setts * 4096 && decide (fld b 0x1C 2 ≤ 256) && zeroRange b 0x1E 2 &&
    decide (consts ≤ 1048512) && consts % 64 == 0 && decide (64 + consts ≤ scratch ∧ scratch ≤ 2097152) && scratch % 64 == 0 &&
    zeroRange b 0x2C 84 &&
    (imageSections b).all (fun r => r.1 % 64 == 0 && decide (r.1 + r.2 ≤ n)) &&
    disjoint ((imageSections b).filter (fun r => r.2 != 0))

/-- The sections of an image as data. -/
def parseImage (b : Bytes) (tenancy addr : Nat) : Image :=
  let setts := fld b 0x0C 1
  { tenancy, setts, iterMax := fld b 0x0E 2, scratch := fld b 0x28 4
    prog := (List.range (512 * setts)).map (fun i => BitVec.ofNat 64 (fld b (fld b 0x10 4 + 8 * i) 8))
    routes := (List.range (fld b 0x1C 2)).map (fun i =>
      let o := fld b 0x18 4 + 8 * i
      (fld b o 1, fld b (o + 1) 1, fld b (o + 2) 1, fld b (o + 3) 1, fld b (o + 4) 1))
    consts := slice b (fld b 0x20 4) (fld b 0x24 4), bytes := fld b 8 4, addr }

/-! ### Operation words (Table 7.5) -/

/-- The fields an operation may use, each with the values allowed: FMT, DST, SRC_A, SRC_B, SRC_C, SAT and IMM. -/
structure WordRule where
  fmt : Nat → Bool
  dst : Nat → Bool
  a   : Nat → Bool
  b   : Nat → Bool
  c   : Nat → Bool
  sat : Bool
  imm : Nat → Bool

/-- A field that the operation does not use is zero; registers v0–v31 and accumulators (R306); an address pair. -/
def zeroF : Nat → Bool := fun v => v == 0
def vReg : Nat → Bool := fun v => decide (v < 32)
def accReg : Nat → Bool := fun v => decide (32 ≤ v ∧ v < 48)
def pairF : Nat → Bool := fun v => decide (v < 8)
def anyF : Nat → Bool := fun _ => true
def binFmt : Nat → Bool := fun v => decide (v < 2)

/-- An operation that uses no field. -/
def bareRule : WordRule := { fmt := zeroF, dst := zeroF, a := zeroF, b := zeroF, c := zeroF, sat := false, imm := zeroF }

/-- The rule of an operation code; none where it is reserved. -/
def wordRule (op : Nat) (fmt : Nat) : Option WordRule :=
  match op with
  | 0x00 => some bareRule
  | 0x01 => some { bareRule with imm := fun v => decide (v < 2 ^ 22) && v % 2 ^ 16 != 0 }
  | 0x02 => some bareRule
  | 0x03 => some { bareRule with a := vReg }
  | 0x04 => some { bareRule with dst := vReg, a := vReg, c := pairF, imm := anyF }
  | 0x05 => some { bareRule with a := vReg, b := vReg, c := pairF, imm := anyF }
  | 0x06 => some { bareRule with dst := vReg, b := vReg, imm := anyF }
  | 0x07 => some { bareRule with a := vReg, b := vReg, imm := anyF }
  | 0x08 | 0x09 => some { bareRule with a := vReg, b := vReg, c := pairF, imm := fun v => decide (1 ≤ v ∧ v ≤ 32768) }
  | 0x0A => some { bareRule with dst := vReg, a := vReg, b := vReg, c := pairF
                                 imm := fun v => decide (v < 32) && decide (1 ≤ v % 16 ∧ v % 16 ≤ 10) }
  | 0x10 => some { bareRule with fmt := fun f => decide (2 ≤ f ∧ f ≤ 12), dst := accReg, a := vReg, b := vReg, c := anyF, imm := anyF }
  | 0x11 => some { bareRule with fmt := fun f => f == 13 || f == 14, dst := accReg, a := fun v => decide (v < 31), b := vReg
                                 c := anyF, imm := anyF }
  | 0x12 => some { bareRule with dst := accReg }
  | 0x13 => some { bareRule with dst := vReg, a := accReg }
  | 0x20 | 0x21 | 0x22 => some { bareRule with fmt := binFmt, dst := vReg, a := vReg, b := vReg, sat := fmt == 0 }
  | 0x23 => some { bareRule with fmt := binFmt, dst := vReg, a := vReg, b := vReg, c := vReg }
  | 0x24 | 0x25 => some { bareRule with fmt := binFmt, dst := vReg, a := vReg, b := vReg }
  | 0x26 => some { bareRule with fmt := fun f => decide (f ≤ 12), dst := vReg, a := vReg, sat := true
                                 imm := fun v => decide (v < 32) && decide (v % 16 < 2) }
  | 0x27 => some { bareRule with dst := vReg, a := vReg, sat := true, imm := anyF }
  | 0x28 => some { bareRule with dst := vReg, a := vReg, b := vReg, imm := fun v => decide (v < 4) }
  | 0x29 => some { bareRule with fmt := binFmt, dst := vReg, a := vReg, sat := fmt == 0 }
  | 0x30 => some { bareRule with a := vReg, imm := fun v => decide (v < 256) }
  | 0x31 => some { bareRule with dst := vReg, imm := fun v => decide (v < 256) }
  | _ => none

/-- A word has a defined OP and FMT, zero in every unused and reserved field, and registers the operation allows (R313)
(DEDUCED, assumption 59). -/
def wordLegal (w : Nat) : Bool :=
  match wordRule (wOp w) (wFmt w) with
  | some r => r.fmt (wFmt w) && r.dst (wDst w) && r.a (wA w) && r.b (wB w) && r.c (wC w) && (r.sat || !wSat w) && !bit w 28 && r.imm (wImm w)
  | none => false

/-! ### Loops and routes -/

/-- The first and last word of the body of a LOOP at a place. -/
def loopBody (at' w : Nat) : Nat × Nat := (at' + 1, at' + 1 + bits w 21 16)

/-- The loops of a program as place, first and last word of the body. -/
def loopsOf (p : List Nat) : List (Nat × Nat × Nat) :=
  ((List.range p.length).zip p).filterMap (fun e => if wOp e.2 = 0x01 then some (e.1, loopBody e.1 e.2) else none)

/-- The word at a place keeps the rules of loops: a LOOP's body lies within the program and within every loop around it, at most
four nest, and HALT stands outside all of them (R313). -/
def loopLegal (loops : List (Nat × Nat × Nat)) (n at' w : Nat) : Bool :=
  let around := loops.filter (fun l => decide (l.2.1 ≤ at' ∧ at' ≤ l.2.2))
  if wOp w = 0x01 then
    let b := loopBody at' w
    decide (b.2 < n) && decide (around.length < 4) && around.all (fun l => decide (b.2 ≤ l.2.2))
  else if wOp w = 0x03 then around.isEmpty
  else true

/-- SEND names a route whose source is its cell, RECV one whose destination it is (R313). -/
def routeLegal (i : Image) (sett c w : Nat) : Bool :=
  match i.routes[bits w 7 0]? with
  | some (a, b, d, e, _) => if wOp w = 0x30 then a == sett && b == c else if wOp w = 0x31 then d == sett && e == c else true
  | none => wOp w != 0x30 && wOp w != 0x31

/-- A route table entry is legal (R311). -/
def routeEntryLegal (i : Image) (b : Bytes) (off : Nat) : Bool :=
  decide (fld b off 1 < i.setts ∧ fld b (off + 1) 1 < 8 ∧ fld b (off + 2) 1 < i.setts ∧ fld b (off + 3) 1 < 8) &&
    decide (1 ≤ fld b (off + 4) 1 ∧ fld b (off + 4) 1 ≤ 16) && zeroRange b (off + 5) 3

/-- Image offsets of words and route entries that break a rule; a program without HALT counts by its own offset. -/
def badStructures (i : Image) (b : Bytes) : List Nat :=
  let po := fld b 0x10 4
  ((List.range (8 * i.setts)).flatMap fun k =>
    let p := (List.range 64).map (i.word (k / 8) (k % 8))
    let loops := loopsOf p
    let base := po + 512 * k
    (if p.any (fun w => wOp w == 0x03) then [] else [base]) ++
      ((List.range 64).zip p).filterMap (fun e =>
        if wordLegal e.2 && loopLegal loops 64 e.1 e.2 && routeLegal i (k / 8) (k % 8) e.2 then none else some (base + 8 * e.1))) ++
  (List.range i.routes.length).filterMap (fun r =>
    let off := fld b 0x18 4 + 8 * r
    if routeEntryLegal i b off then none else some off)

/-! ### The simulation of one iteration -/

/-- Cells and the entries on each route. -/
abbrev Sim := List Cell × List Nat

/-- A cell advances by one word, where its routes and barriers allow. -/
def simCell (i : Image) (k : Nat) (m : Sim) : Option Sim :=
  let c := m.1.getD k Cell.start
  let w := i.word (k / 8) (k % 8) c.pc
  let put := fun (c : Cell) (rs : List Nat) => (some (lset m.1 k c, rs) : Option Sim)
  if c.halted then none
  else match wOp w with
    | 0x01 => put (c.enter w) m.2
    | 0x02 =>
      if !c.atSync then put { c with syncs := c.syncs + 1, atSync := true } m.2
      else if m.1.all (fun d => decide (c.syncs ≤ d.syncs)) then put { c with atSync := false }.next m.2
      else none
    | 0x03 => put { c with halted := true } m.2
    | 0x30 =>
      let r := bits w 7 0
      if m.2.getD r 0 < i.depth r then put c.next (lset m.2 r (m.2.getD r 0 + 1)) else none
    | 0x31 =>
      let r := bits w 7 0
      if m.2.getD r 0 = 0 then none else put c.next (lset m.2 r (m.2.getD r 0 - 1))
    | _ => put c.next m.2

/-- Cells advance until none can: all at HALT with every route empty (R313). -/
def simulate (i : Image) : (fuel : Nat) → Sim → Bool
  | 0, _ => false
  | fuel + 1, m =>
    match (List.range (8 * i.setts)).findSome? (fun k => simCell i k m) with
    | some m' => simulate i fuel m'
    | none => m.1.all (·.halted) && m.2.all (· == 0)

/-- More steps than any legal image takes: 128 cells of 64 words under four loops of at most 65,535 passes. -/
def simFuel : Nat := 2 ^ 96

/-- Where an image fails R313: none, a structure's offset, or the simulation, which names no structure. -/
inductive ImageFault where
  | ok
  | at' (off : Nat)
  | deadlock

/-- R313 after the header (DEDUCED, assumption 58). -/
def imageFault (b : Bytes) (i : Image) : ImageFault :=
  match bestBy (fun x y => decide (x < y)) (badStructures i b) with
  | some o => .at' o
  | none =>
    if simulate i simFuel (List.replicate (8 * i.setts) Cell.start, List.replicate i.routes.length 0) then .ok else .deadlock

/-! ### KERNEL_LOAD (R315–R317) -/

/-- The address of an image's copy in the tenancy's DDR allotment (DESIGN CHOICE, assumption 16). -/
def State.imagePlace (s : State) (t n : Nat) : Option Nat :=
  match s.pick (s.ddrAllot t 0) n 64 with
  | some a => some a
  | none => s.pick (s.ddrAllot t 1) n 64

/-- The image of an id leaves it, its storage freed. -/
def State.dropImage (s : State) (id : Nat) : State :=
  match tget s.images id with
  | some i => { s with images := tdel s.images id }.freeStorage i.addr i.bytes i.tenancy
  | none => s

/-- BAD_FIELD at offset 8 with the image offset of the first structure that fails (R315). -/
def imageError (off : Nat) : Result := { Result.err 0x12 8 with b24 := off }

/-- What refuses an image whose descriptor gives `n` bytes (R315, R710): what R313 finds, then a length other than the header's. The header
is read whatever `n` is; of an image longer than `n` only the header is checked. The offset that a failed simulation leaves, which names no structure, is a free
value (DEDUCED, assumption 58). -/
def State.loadFault (s : State) (b : Bytes) (tenancy n : Nat) : Option Result :=
  if headerLegal b = false then some (imageError 0)
  else
    match (if fld b 8 4 ≤ n then imageFault b (parseImage b tenancy 0) else .ok) with
    | .at' o => some (imageError o)
    | .deadlock => some (imageError (s.freeVal % 2 ^ 32))
    | .ok => if fld b 8 4 ≠ n then some (Result.err 0x13 36) else none

/-- KERNEL_LOAD of an image. A DDR allotment
with no room for the image: QUOTA_EXCEEDED (DESIGN CHOICE, assumption 16) (DEDUCED, assumption 59). -/
def kernelLoadSt (w : Nat) (image : Bytes) (s : State) : State :=
  s.withWork w (· == 0x40) fun x s =>
    let id := fld x.desc 32 2 % 4096
    let n := fld x.desc 36 4
    if descOp0 x.desc = 0 ∧ n = 0 then s
    else
      let m := max 128 (min n (2 ^ 21))
      s.withReads x [(descOp0 x.desc, m)] fun s =>
        let b := s.readAt x (descOp0 x.desc) m image
        match s.loadFault b x.tenancy n with
        | some r => s.drawn.finish w r
        | none =>
          match s.imagePlace x.tenancy n with
          | none => s.finish w (Result.err 0x60 0)
          | some a =>
            let s := (s.drawn.dropImage id).put a b
            { s with images := tset s.images id (parseImage b x.tenancy a) }.finish w (Result.done n)

def execKernelLoad (w : Nat) (image : Bytes) (s : State) : Out := .next (kernelLoadSt w image s)

/-- KERNEL_LOAD with operand address 0 and IMAGE_BYTES 0: the id becomes FREE; the order of R122 has let earlier runs end. -/
def kernelUnloadSt (w : Nat) (s : State) : State :=
  s.withWork w (· == 0x40) fun x s =>
    let id := fld x.desc 32 2 % 4096
    if descOp0 x.desc ≠ 0 ∨ fld x.desc 36 4 ≠ 0 then s
    else if (tget s.images id).isNone then s.finish w (Result.err 0x10 32)
    else (s.dropImage id).finish w (Result.done 0)

def execKernelUnload (w : Nat) (s : State) : Out := .next (kernelUnloadSt w s)

/-! ### KERNEL_RUN (R318–R322, R336, R337) -/

/-- Argument errors of a callable function as detail (Table 7.10). -/
def argChecks (fn : Nat) (d : Bytes) : List (Nat × Nat) :=
  let bad := fun (off : Nat) (b : Bool) => if b then [((40 + off, 0x12) : Nat × Nat)] else []
  let w := fun o => fld d (40 + o) 4
  match fn with
  | 4 => bad 0 (w 0 == 0 || decide (4096 < w 0))
  | 5 => bad 0 (w 0 == 0 || decide (2 ^ 24 < w 0)) ++ bad 4 (w 4 == 0 || decide (65536 < w 4)) ++ bad 8 (decide (1 < fld d 48 1))
  | _ =>
    let dim := fld d 40 2
    let fmt := fld d 42 1
    let metric := fld d 43 1
    bad 0 (dim == 0 || decide (2048 < dim) || (fmt == 6 && dim % 2 != 0) || (fmt == 7 && dim % 8 != 0)) ++ bad 2 (decide (7 < fmt)) ++
      bad 3 (decide (3 < metric) || (metric == 2 && decide (4 < fmt)) || ((metric == 3) != (fmt == 7))) ++
      bad 4 (w 4 == 0 || decide (65536 < w 4)) ++ bad 8 (w 8 % 64 != 0)

/-- The checks of step 7 that KERNEL_LOAD and KERNEL_RUN leave to no later time. -/
def kernelChecks (d : Bytes) : List (Nat × Nat) :=
  let bad := fun (off : Nat) (b : Bool) => if b then [((off, 0x12) : Nat × Nat)] else []
  if descOpcode d = 0x40 then
    bad 8 (descOp0 d % 64 != 0 || (descOp0 d == 0 && fld d 36 4 != 0)) ++ bad 16 (descOp1 d != 0) ++ bad 24 (descRes d != 0)
  else
    let den := fld d 34 1
    let res := bit (fld d 32 2) 15
    let fn := fld d 32 2 % 4096
    let callable := decide (4 ≤ fn ∧ fn ≤ 6)
    bad 32 (res && !callable) ++ bad 34 (decide (8 ≤ den) && den != 255) ++
      bad 36 (fld d 36 4 == 0 || (res && fld d 36 4 != 1)) ++ (if res && callable then argChecks fn d else [])

/-- Setts of a den that a frame of the superframe gives a tenancy, owned or borrowable. -/
def State.settsAt (s : State) (t den i : Nat) : Nat :=
  ((List.range 16).filter (fun k => s.unitPresent (settMapIx den k) &&
    match s.mapOwner (settMapIx den k) i with
    | some o => (o == t && !(s.ten t).unmoded) || (s.isShared o && s.isShared t)
    | none => s.isShared t)).length

/-- Some frame of the superframe gives the tenancy at least n setts of a den (R320). -/
def State.denFits (s : State) (t den n : Nat) : Bool := (List.range 60).any (fun i => decide (n ≤ s.settsAt t den i))

/-- The den of a run (R320); none where no den qualifies. -/
def State.runDen (s : State) (t port target n : Nat) : Option Nat :=
  if target = 255 then
    let die := portDie port
    ((List.range 4).map (· + 4 * die) ++ (List.range 4).map (· + 4 * (1 - die))).find? (fun den => s.denFits t den n)
  else if s.denFits t target n then some target else none

/-- The image a KERNEL_RUN names; none where its id is FREE. -/
def State.runImage (s : State) (d : Bytes) : Option Image :=
  if bit (fld d 32 2) 15 then some residentImage else tget s.images (fld d 32 2 % 4096)

/-- The run block of an image sett (Table 7.8). -/
def runBlock (d : Bytes) (sett : Nat) : Bytes :=
  slice d 8 8 ++ slice d 16 8 ++ slice d 24 8 ++ slice d 36 4 ++ toLe 4 sett ++ slice d 40 24 ++ List.replicate 8 0

/-- Bytes as scratchpad contents from an offset. -/
def padOf (off : Nat) (b : Bytes) : Tab Byte := ((List.range b.length).zip b).map (fun e => (off + e.1, e.2))

/-- A run as it is before its first frame: every register zero, scratchpads holding run block and constants (R312, R321, R325,
R333). -/
def newRun (x : Work) (i : Image) (den : Nat) : Run :=
  { w := x.id, tenancy := x.tenancy, den, image := i
    resident := if bit (fld x.desc 32 2) 15 then some (fld x.desc 32 2 % 4096) else none
    iters := fld x.desc 36 4, iterDone := 0, started := false, setts := [], home := [], lastFrame := x.frame, admitSeq := x.id
    saveSlot := false, stalled := false, cells := List.replicate (8 * i.setts) Cell.start
    scratch := (List.range i.setts).map (fun k => padOf 0 (runBlock x.desc k) ++ padOf 64 i.consts)
    l1 := List.replicate i.setts [], routes := List.replicate i.routes.length [], count := 0, ovf := false, invalid := false
    range := false, frames := 0, restores := 0, ended := none }

/-- KERNEL_RUN: the run joins those that wait for setts. -/
def kernelRunSt (w : Nat) (s : State) : State :=
  s.withWork w (· == 0x41) fun x s =>
    if (s.run w).isSome then s
    else match s.runImage x.desc with
      | none => s.finish w (Result.err 0x10 32)
      | some i =>
        let n := fld x.desc 36 4
        if n = 0 ∨ i.iterMax < n then s.finish w (Result.err 0x12 36)
        else match s.runDen x.tenancy x.port (fld x.desc 34 1) i.setts with
          | none => s.finish w (Result.err 0x60 1)
          | some den => { s with runs := s.runs ++ [newRun x i den] }

def execKernelRun (w : Nat) (s : State) : Out := .next (kernelRunSt w s)

/-! ### Iterations (R322) -/

/-- A cell at the start of its next iteration: registers stay. -/
def Cell.again (c : Cell) : Cell := { c with pc := 0, loops := [], halted := false, syncs := 0, atSync := false }

/-- ITERATION_END: every cell has reached HALT. -/
def iterationEndSt (run : Nat) (s : State) : State :=
  match s.run run with
  | some r =>
    if r.resident.isNone && r.setts != [] && r.ended.isNone && !r.stalled && decide (r.iterDone < r.iters) && r.cells.all (·.halted) then
      let n := r.iterDone + 1
      s.setRun { r with iterDone := n, cells := if n < r.iters then r.cells.map Cell.again else r.cells }
    else s
  | none => s

def execIterationEnd (run : Nat) (s : State) : Out := .next (iterationEndSt run s)

/-! ### Setts at a frame boundary (R328–R335, R490) -/

/-- Save slots of a den that a tenancy has free (R331). -/
def State.freeSaveSlots (s : State) (t den : Nat) : Nat :=
  bits (s.liveReg t 0x0040110) (8 * den + 7) (8 * den) - (s.runs.filter (fun r => r.saveSlot && r.tenancy == t && r.den == den)).length

/-- A run has work left for setts. -/
def State.wantsSetts (s : State) (r : Run) : Bool :=
  r.ended.isNone && decide (r.iterDone < r.iters) && !r.stalled && (s.work r.w).any (fun x => x.result.isNone)

/-- The tenancies with runs that want setts of a den. -/
def State.settQueue (s : State) (den : Nat) : List Nat :=
  (s.runs.filter (fun r => r.den == den && s.wantsSetts r)).map (·.tenancy)

/-- The logical setts of a den that serve a tenancy and that neither a run nor a resident function has taken, lowest first
(DEDUCED, assumption 119). -/
def State.openSetts (s : State) (t den : Nat) : List Nat :=
  (List.range 16).filter (fun k => s.serves (settMapIx den k) t && !s.executing den k &&
    !s.resident.any (fun e => e.1 / 512 == den && e.2 == k))

/-- A run takes its setts for the frame, or is skipped (R329, R331): runs whose state lies there are saved first, and the run itself where
it comes from other setts; while a line of theirs waits to be written back, the setts are not taken (R327, R333). -/
def State.takeSetts (s : State) (w : Nat) : State :=
  match s.run w with
  | none => s
  | some r =>
    let ks := (s.openSetts r.tenancy r.den).take r.image.setts
    if ks.length < r.image.setts ∨ (r.saveSlot = false ∧ s.freeSaveSlots r.tenancy r.den = 0) then s
    else
      let s := s.saveThere r.den w ks
      let s := if r.home = ks then s else s.saveRun w
      match s.run w with
      | some q =>
        if s.stateThere r.den w ks || (q.home != ks && q.home != []) then s
        else
          (ks.foldl (fun s k => s.claim (settMapIx r.den k) r.tenancy) s).setRun { q with
            setts := ks, home := ks, started := true, saveSlot := true, lastFrame := s.frame, frames := q.frames + 1
            restores := if r.started ∧ r.home ≠ ks then q.restores + 1 else q.restores }
      | none => s

/-- The sett that a tenancy's waiting resident functions take in a den at the boundary (R224). -/
def State.takeRank (s : State) (den t : Nat) : State :=
  match s.rerankSett den t with
  | some k => match s.takeResident den t k with | .go s => s | .hold s => s
  | none => s

/-- The setts assigned for the frame that begins (R329): the runs of the frame that ends leave their setts with their state in
place, stalled ones are saved, and setts are lent; the resident functions of `res`, dens and tenancies, take theirs, then the runs in
order; none in a background frame (R335) (DESIGN CHOICE, assumption 41) (DEDUCED, assumption 119). -/
def State.assignSetts (s : State) (res : List (Nat × Nat)) : State :=
  let s : State := { s with runs := s.runs.map (fun r => { r with setts := [] }), resident := [] }
  let s := (s.runs.filter (fun r => r.stalled && r.home != [])).foldl (fun s r => s.saveRun r.w) s
  if 60 ≤ s.frameIx then s
  else
    let queue := fun (den : Nat) => (res.filter (fun e => e.1 == den)).map (·.2)
    let s := (List.range 128).foldl (fun s u =>
      s.startPeriod (settMapIx (u / 16) (u % 16)) (queue (u / 16) ++ s.settQueue (u / 16))) s
    let s := res.foldl (fun s e => s.takeRank e.1 e.2) s
    let order := sortBy (fun a b : Run => decide (a.lastFrame < b.lastFrame) || (a.lastFrame == b.lastFrame && decide (a.admitSeq < b.admitSeq)))
      (s.runs.filter s.wantsSetts)
    order.foldl (fun s r => s.takeSetts r.w) s

end Sys2Proof.Machine
end

