-- ==== Sys2Proof/Machine/Emb.lean ====
section
/-!
DEFINITION. Embedding tables: row formats, versions, gathers, updates, steps over table groups, replicas and promoted rows
(R338–R368).
-/

namespace Sys2Proof.Machine

/-! ### Row formats (Table 8.1) -/

/-- Bytes of a row without its padding, and its stride. -/
def rowBytes (fmt dim : Nat) : Nat :=
  match fmt with
  | 0 => 4 * dim
  | 1 => 2 * dim
  | 2 => 4 + dim
  | _ => 4 + dim / 2
def rowStride (fmt dim : Nat) : Nat := roundup (rowBytes fmt dim) 16

/-- The FP32 elements of a row (R340). -/
def rowElems (fmt dim : Nat) (b : Bytes) : List Nat :=
  let q := fun (code : Nat → Int) => (List.range dim).map (fun e =>
    r32 (((fp16.decode (fld b 0 2)).mul (.ofInt (code e) 0)).add (fp16.decode (fld b 2 2))))
  match fmt with
  | 0 => (List.range dim).map (fun e => fld b (4 * e) 4)
  | 1 => (List.range dim).map (fun e => fld b (2 * e) 2 * 2 ^ 16)
  | 2 => q (fun e => signed 8 (fld b (4 + e) 1))
  | _ => q (fun e => (elemAt 4 (b.drop 4) e : Nat))

/-- A row without non-finite elements, scale or offset (R344). -/
def rowFinite (fmt dim : Nat) (b : Bytes) : Bool :=
  if fmt ≤ 1 then (rowElems fmt dim b).all (fun v => (f32 v).isFinite)
  else (fp16.decode (fld b 0 2)).isFinite && (fp16.decode (fld b 2 2)).isFinite

/-- The least and the greatest element of a row. -/
def rowLo (xs : List Nat) : Nat := match xs with | [] => 0 | a :: t => t.foldl (extreme 1 false) a
def rowHi (xs : List Nat) : Nat := match xs with | [] => 0 | a :: t => t.foldl (extreme 1 true) a

/-- The codes of a Q8 or Q4 row, rounded and clamped; all 0 where the scale is 0 (R341) (DEDUCED, assumption 64). -/
def quantCodes (scale offset : Nat) (lo hi : Int) (xs : List Nat) : List Int :=
  let sc := r32 (fp16.decode scale)
  let off := r32 (fp16.decode offset)
  xs.map (fun x => if (f32 sc).isZero then 0 else
    match f32 (div32 (sub32 x off) sc) with
    | .inf n => if n then lo else hi
    | y => max lo (min hi y.toInt))

/-- An FP32 row requantised (R341); what pads it to its stride is zero (DESIGN CHOICE, assumption 17). -/
def requant (fmt dim : Nat) (xs : List Nat) : Bytes :=
  let lo := rowLo xs
  let hi := rowHi xs
  let h := fun v => fp16.encode true (f32 v)
  let b := match fmt with
    | 0 => (xs.map (toLe 4)).flatten
    | 1 => (xs.map (fun v => toLe 2 (bf16.encode true (f32 v)))).flatten
    | 2 =>
      let offset := h (mul32 (add32 lo hi) 0x3F000000)
      let scale := h (div32 (sub32 hi lo) (int32f 254))
      toLe 2 scale ++ toLe 2 offset ++ packElems 8 ((quantCodes scale offset (-128) 127 xs).map (wrap 8))
    | _ =>
      let offset := h lo
      let scale := h (div32 (sub32 hi lo) (int32f 15))
      toLe 2 scale ++ toLe 2 offset ++ packElems 4 ((quantCodes scale offset 0 15 xs).map (wrap 4))
  slice b 0 (rowStride fmt dim)

/-! ### Tables and groups (R359) -/

/-- A table. -/
def State.table (s : State) (t : Nat) : Option Table := tget s.tables t
def State.setTable (s : State) (t : Nat) (x : Table) : State := { s with tables := tset s.tables t x }

/-- The group registers of a table (DEDUCED, assumption 64). -/
def State.embReg (s : State) (t off : Nat) : Nat := (s.stored (groupKey t off)).toNat
def State.embSize (s : State) (t : Nat) : Nat := max 1 (bits (s.embReg t 0x0403008) 8 0)
def State.embSelf (s : State) (t : Nat) : Nat := bits (s.embReg t 0x0403008) 23 16
def State.embPer (s : State) (t : Nat) : Nat := bits (s.embReg t 0x0403008) 63 32
def State.embKey (s : State) (t : Nat) : Nat := s.embReg t 0x0403010

/-- The shard of a global row, and its local row there. -/
def State.rowShard (s : State) (t row : Nat) : Nat := if s.embSize t = 1 then s.embSelf t else row / s.embPer t
def State.rowLocal (s : State) (t row : Nat) : Nat := if s.embSize t = 1 then row else row % s.embPer t

/-- The global row of a local row of a shard. -/
def State.rowGlobal (s : State) (t shard row : Nat) : Nat := if s.embSize t = 1 then row else shard * s.embPer t + row

/-- The device a shard is homed on (R359, R367); none where no home is in the view. -/
def State.shardHome (s : State) (t shard : Nat) : Option Nat :=
  if shard = s.embSelf t ∨ s.embSize t = 1 then some s.myRank else s.holderAt t 0x0403400 shard

/-- The row is homed on this device. -/
def State.rowHere (s : State) (t row : Nat) : Bool := s.shardHome t (s.rowShard t row) == some s.myRank

/-- An index names a row of the table or its group (R350). -/
def State.rowKnown (s : State) (t : Nat) (x : Table) (row : Nat) : Bool :=
  if s.embSize t = 1 then decide (row < x.rows)
  else decide (row < s.embSize t * s.embPer t) && (s.rowShard t row != s.embSelf t || decide (s.rowLocal t row < x.rows))

/-- The other members of a table's group: the devices its shards are homed on. -/
def State.embOthers (s : State) (t : Nat) : List Nat :=
  if s.embSize t = 1 then []
  else (((List.range (s.embSize t)).filterMap (s.shardHome t)).eraseDups).filter (· != s.myRank)

/-- The members of a table's group that its map names and the view does not: their markers are not awaited (R367). -/
def State.embLost (s : State) (t : Nat) : List Nat :=
  if s.embSize t = 1 then []
  else (((List.range (s.embSize t)).filter (· != s.embSelf t)).map (fun i => bits (s.grpEntry t 0x0403400 i) 11 0)).eraseDups.filter
    (fun r => !s.inView r)

/-- What a reader at step V reads of a row whose present copy is `cur`: that copy, or the one kept for its step (R364). -/
def TabVersion.copyAt (v : TabVersion) (row step : Nat) (cur : Nat × Bytes) : Bytes :=
  if cur.1 ≤ step then cur.2
  else match bestBy (fun a b => decide (a.1 < b.1)) (v.kept.filter (fun k => k.2.1 == row && decide (step < k.1))) with
    | some k => k.2.2
    | none => cur.2

/-- The present copy of a row of this device's shard in a version, with its step. -/
def TabVersion.present (v : TabVersion) (stride row : Nat) : Nat × Bytes := (tgetD v.rowStep row 0, tgetD v.rows row (List.replicate stride 0))

/-- The number under which copies of a row of another shard are kept. -/
def repKey (row : Nat) : Nat := 2 ^ 40 + row

/-- The version that was current at the boundary that began a frame (R348). -/
def Table.versionAt (x : Table) (frame : Nat) : TabVersion :=
  match x.old.find? (fun o => decide (frame < o.2)) with
  | some o => o.1
  | none => x.cur

/-- Bytes that nothing in the spec states (DEDUCED, assumption 64). -/
def State.freeBytesAt (s : State) (n : Nat) : Bytes := (List.range n).map (fun i => BitVec.ofNat 8 (Config.free (s.freeCount + i)))

/-- A row homed here, as stored, for a reader at a step in a frame. A shard that this device serves as replica has the rows pushed
to it (R367); what any other row of it holds is free. -/
def State.rowHereAt (s : State) (t : Nat) (x : Table) (row frame step : Nat) : Bytes :=
  let stride := rowStride x.fmt x.dim
  let v := x.versionAt frame
  if s.rowShard t row = s.embSelf t ∨ s.embSize t = 1 then v.copyAt (s.rowLocal t row) step (v.present stride (s.rowLocal t row))
  else match tget v.replicas row with
    | some r => v.copyAt (repKey row) step r
    | none => s.freeBytesAt stride

/-! ### Checks of step 7 -/

/-- The checks of Tables 8.2 and 8.3, R346, R354 and R358 on a descriptor's fields alone. -/
def embChecks (d : Bytes) : List (Nat × Nat) :=
  match descOpcode d with
  | 0x30 =>
    let none' := fld d 34 1 == 0
    badIf 16 0x12 (none' && descOp1 d != 0) ++ badIf 34 0x12 (decide (3 < fld d 34 1)) ++ badIf 35 0x12 (decide (1 < fld d 35 1)) ++
      badIf 36 0x12 (if none' then fld d 36 2 != 0 else fld d 36 2 == 0 || decide (4096 < fld d 36 2)) ++
      badIf 40 0x12 (fld d 40 4 == 0 || decide (65536 < fld d 40 4))
  | 0x31 =>
    badIf 8 0x12 (descOp0 d % 64 != 0) ++ badIf 16 0x12 (descOp1 d % 64 != 0) ++ badIf 24 0x12 (descRes d != 0) ++
      badIf 34 0x13 (fld d 34 2 == 0 || decide (4096 < fld d 34 2))
  | 0x33 =>
    badIf 8 0x12 (descOp0 d % 64 != 0) ++ badIf 16 0x12 (descOp1 d != 0) ++ badIf 24 0x12 (descRes d != 0) ++
      badIf 34 0x12 (decide (3 < fld d 34 1)) ++ badIf 35 0x12 (decide (1 < fld d 35 1)) ++
      badIf 36 0x12 (fld d 36 2 == 0 || decide (2048 < fld d 36 2) || (fld d 34 1 == 3 && fld d 36 2 % 2 != 0)) ++
      badIf 44 0x12 (fld d 44 4 == 0 || decide (2 ^ 31 < fld d 44 4)) ++ badIf 48 0x12 (fld d 48 4 == 0 || decide (2 ^ 24 < fld d 48 4))
  | _ => []

/-- The table a descriptor names. -/
def descTable (d : Bytes) : Nat := fld d 32 2 % 4096

/-! ### TABLE_LOAD and TABLE_SWITCH (R342–R348) -/

/-- The home den of a new table (R164, R345). -/
def State.newTableDen (s : State) : Nat := leastLoaded (fun den => (s.tables.filter (fun e => e.2.homeDen == den)).length)

/-- Pieces of gaps that make up n bytes; none where the gaps hold fewer. -/
def gatherPieces : List (Nat × Nat) → (n : Nat) → Option (List (Nat × Nat))
  | _, 0 => some []
  | [], _ + 1 => none
  | g :: rest, n + 1 => let k := min g.2 (n + 1); (gatherPieces rest (n + 1 - k)).map ((g.1, k) :: ·)

/-- The areas a FREE table reserves (R345): two versions and a step area in its tier, and the pending area in DDR; on the home den's
die, or where they do not fit there on the other, or else in several pieces. -/
def State.tableAreas (s : State) (t tier den rows pend stride dim : Nat) : Option (List (Nat × Nat) × State) :=
  let n := 2 * rows * stride + pend * stride
  let m := pend * (roundup (4 * dim) 64 + 16)
  let die := den / 4
  let room := fun (k : Nat) => if tier = 0 then s.hbmUse t k else s.ddrAllot t k
  if tier = 0 ∧ s.hbmFree t < n then none
  else match (match [die, 1 - die].findSome? (fun k => s.pick (room k) n 64) with
      | some a => some [(a, n)]
      | none => gatherPieces ([die, 1 - die].flatMap (fun k => s.gaps (room k))) n) with
    | none => none
    | some main =>
      -- the second choice counts the first as taken
      let s1 := s.drawn
      let s2 : State := { s1 with lateFree := main.map (fun r => (r.1, r.2, t, [])) ++ s1.lateFree }
      match (match [die, 1 - die].findSome? (fun k => s2.pick (s2.ddrAllot t k) m 64) with
        | some p => some [(p, m)]
        | none => gatherPieces ([die, 1 - die].flatMap (fun k => s2.gaps (s2.ddrAllot t k))) m) with
      | some pend => some (main ++ pend, s1.drawn)
      | none => none

/-- The EMB_STEP_ENDs of a table admitted after the TABLE_LOAD that is to create it (R355). -/
def State.endsAfterLoad (s : State) (t : Nat) : Nat :=
  ((s.works.dropWhile (fun y => !(y.opcode == 0x33 && descTable y.desc == t && y.result.isNone))).filter (fun y =>
    y.opcode == 0x32 && descTable y.desc == t && y.verdict.isNone && y.result.isNone)).length

/-- The last step whose EMB_STEP_END has been admitted. -/
def State.lastEnd (s : State) (t : Nat) : Nat := match s.table t with | some x => x.endStep | none => s.endsAfterLoad t

/-- TABLE_LOAD: `image` is the row image (DEDUCED, assumption 64). -/
def tableLoadSt (w : Nat) (image : Bytes) (s : State) : State :=
  s.withWork w (· == 0x33) fun x s =>
    let d := x.desc
    let t := descTable d
    let fmt := fld d 34 1
    let dim := fld d 36 2
    let rows := fld d 44 4
    let stride := rowStride fmt dim
    let differs := match s.table t with
      | some y => y.fmt != fmt || y.tier != fld d 35 1 || y.dim != dim || y.rows != rows || y.pendRows != fld d 48 4
      | none => false
    if differs then s.finish w (Result.err 0x10 32)
    else s.withReads x [(descOp0 d, rows * stride)] fun s =>
      let b := s.readAt x (descOp0 d) (rows * stride) image
      let data := (List.range rows).map (fun i => (i, slice b (i * stride) stride))
      if data.any (fun r => !rowFinite fmt dim r.2) then s.finish w (Result.err 0x12 8)
      else
        let v : TabVersion := { tag := fld d 40 4, rows := data, rowStep := [], kept := [], replicas := [] }
        match s.table t with
        | some y => (s.setTable t { y with staged := some v }).finish w (Result.done 0)
        | none =>
          let den := s.newTableDen
          match s.tableAreas x.tenancy (fld d 35 1) den rows (fld d 48 4) stride dim with
          | none => s.finish w (Result.err 0x12 44)
          | some (areas, s) =>
            (s.setTable t
              { tenancy := x.tenancy, homeDen := den, fmt, tier := fld d 35 1, dim, rows, pendRows := fld d 48 4, cur := v
                staged := none, old := [], switch := none, doneStep := 0, endStep := s.endsAfterLoad t, pending := [], stepEnd := none
                markers := [], updFirst := [], holders := [], reads := [], inHbm := [], promoting := [], areas }).finish w (Result.done 0)

def execTableLoad (w : Nat) (image : Bytes) (s : State) : Out := .next (tableLoadSt w image s)

/-- An EMB_UPDATE on a table admitted before a work and not yet applied by a completed EMB_STEP_END. -/
def State.unapplied (s : State) (t : Nat) (x : Table) (w : Work) : Bool :=
  x.updFirst.any (fun u => decide (x.doneStep < u.1 ∧ u.2 < w.id)) ||
    (s.works.takeWhile (fun y => y.id != w.id)).any (fun y => y.opcode == 0x31 && descTable y.desc == t && y.result.isNone)

/-- TABLE_SWITCH: checked, then waiting for its boundary, at the earliest the next one (DEDUCED, assumption 64). -/
def tableSwitchSt (w : Nat) (s : State) : State :=
  s.withWork w (· == 0x34) fun x s =>
    let t := descTable x.desc
    match s.table t with
    | none => s.finish w (Result.err 0x10 32)
    | some y =>
      if y.switch.isSome then s
      else if (y.staged.any (fun v => v.tag == fld x.desc 40 4)) = false ∨ s.unapplied t y x then s.finish w (Result.err 0x10 32)
      else
        let f := fld x.desc 44 4
        let F := extendFrame x.frame f
        let late := f == 0 || decide (F ≤ (x.frame : Int))
        s.setTable t { y with switch := some (w, max (s.frame + 1) (if late then x.frame + 1 else F.toNat), late) }

def execTableSwitch (w : Nat) (s : State) : Out := .next (tableSwitchSt w s)

/-- Replaced versions that no gather admitted before their switch still reads become free; in a group, whose other members' gathers a home
does not see, the last one replaced stays until the next switch (DESIGN CHOICE, assumption 18). -/
def State.freeVersions (s : State) (t : Nat) : State :=
  match s.table t with
  | some y =>
    let reads := fun (g : Nat) => s.works.any (fun x => x.opcode == 0x30 && descTable x.desc == t && x.result.isNone && decide (x.frame < g))
    s.setTable t { y with old := y.old.filter (fun o => reads o.2 || (decide (1 < s.embSize t) && y.old.getLast? == some o)) }
  | none => s

/-- The switch a table waits for, at the boundary of its frame or a later one (R57 step 3). Copies of rows, their holders and promoted rows go
with the version replaced (R348) (DEDUCED, assumption 64). -/
def tableSwitchApplySt (t : Nat) (s : State) : State :=
  match s.table t with
  | some y =>
    match y.switch, y.staged with
    | some (w, f, late), some v =>
      if f ≤ s.frame then
        (s.setTable t { y with
          cur := v, staged := none, switch := none, old := y.old ++ [(y.cur, s.frame)], holders := [], inHbm := [], promoting := [] }).freeVersions t
          |>.finish w { Result.done 0 with flags := 2 * b2n late }
      else s
    | _, _ => s
  | none => s

def execTableSwitchApply (table : Nat) (s : State) : Out := .next (tableSwitchApplySt table s)

/-! ### Rows of other devices (R353, R364, R365) -/

/-- The number by which a read of part of a row of another device is known here. -/
def rowKey (row off : Nat) : Nat := 2 ^ 80 + row * 2 ^ 16 + off

/-- The pieces of a row as offset and length: at most 512 bytes, no 512-byte boundary of the shard's rows crossed (R528). -/
def rowPieces (at' : Nat) : (fuel off n : Nat) → List (Nat × Nat)
  | 0, _, _ => []
  | fuel + 1, off, n =>
    if n = 0 then [] else
      let k := min n (512 - (at' + off) % 512)
      (off, k) :: rowPieces at' fuel (off + k) (n - k)

/-- The work number under which a replica's first copy is fetched. -/
def noWork : Nat := 2 ^ 70

/-- What a read of a row says beside its length, in ORDER and CTX: the reader's step modulo 32, the frame of its admission modulo 2^26, the
wish for a replica, and the shard (DESIGN CHOICE, assumption 18: the spec gives these reads no message form). -/
def readOrder (len step frame : Nat) (replicate : Bool) : Nat :=
  len + 2 ^ 10 * (step % 32) + 2 ^ 15 * (frame % 2 ^ 16) + 2 ^ 31 * b2n replicate
def readCtx (shard frame : Nat) : Nat := 2 ^ 31 + shard + 2 ^ 8 * (frame / 2 ^ 16 % 2 ^ 10)

/-- A value from its low part, of `m` values, nearest to another. -/
def nearest (m near v : Nat) : Nat :=
  let d := (v + m - near % m) % m
  if d < m / 2 then near + d else near + d - m

/-- A read of a row sent to its home: LOADs of the group's key (DESIGN CHOICE, assumption 18). -/
def State.sendRowRead (s : State) (w t : Nat) (x : Table) (row rank frame step : Nat) (replicate : Bool) : State :=
  let stride := rowStride x.fmt x.dim
  let at' := s.rowLocal t row * stride
  (rowPieces at' 32 0 stride).foldl (fun s p =>
    let tag := s.fabric.nextTag
    let req : WlReq :=
      { tag, rank, port := bits (s.route rank) 3 0, ctx := noCtx, region := t, kind := 1, born := 0, w, cell := none, addr := rowKey row p.1
        len := p.2, offset := at' + p.1, flag := false, out := [], seg := none, data := none
        key := s.embKey t, sent := true }
    let s := s.addRequest req
    s.sendTo rank 1 (s.mkMsg rank 0 tag (readOrder p.2 step frame (replicate && p.1 == 0)) (t * 2 ^ 52 + at' + p.1) (s.embKey t)
      (readCtx (s.rowShard t row) frame) [])) s

/-- A row of another device as its LOAD_DATA brought it. -/
def State.rowLoaded (s : State) (w t : Nat) (x : Table) (row : Nat) : Option Bytes :=
  let stride := rowStride x.fmt x.dim
  let ps := (rowPieces (s.rowLocal t row * stride) 32 0 stride).map (fun p => s.loaded w none (rowKey row p.1) p.2)
  if ps.all Option.isSome then some (ps.filterMap id).flatten else none

/-- A read of a row is under way. -/
def State.rowAsked (s : State) (w row : Nat) : Bool := s.fabric.requests.any (fun r => r.w == w && r.kind == 1 && r.addr == rowKey row 0)

/-- A message of a table group about rows of a shard. -/
def State.sendEmb (s : State) (t rank shard type : Nat) (payload : Bytes) : State :=
  s.sendTo rank type (s.mkMsg rank 0 0 0 (t * 2 ^ 52) (s.embKey t) (2 ^ 31 + shard) payload)

/-- A list cut into parts of at most n. -/
def chunksOf {α : Type} (n : Nat) : (fuel : Nat) → List α → List (List α)
  | 0, _ => []
  | fuel + 1, l => if l = [] then [] else l.take n :: chunksOf n fuel (l.drop n)

/-- New copies of rows of a shard, by local row, pushed to a device; the shard stands in CTX (DESIGN CHOICE, assumption 18). -/
def State.sendCopies (s : State) (t rank shard step stride : Nat) (rows : List (Nat × Bytes)) : State :=
  let one := fun (r : Nat × Bytes) => toLe 4 r.1 ++ toLe 4 0 ++ r.2
  (chunksOf ((16896 - 8) / (8 + stride)) rows.length rows).foldl (fun s c => s.sendEmb t rank shard 0x2A (toLe 8 step ++ (c.map one).flatten)) s

/-- A device that asks to hold a copy of a row homed here becomes a holder; it is sent the present copy, and the new one of a step in phase 2
(R365). -/
def State.addHolder (s : State) (t : Nat) (x : Table) (row rank : Nat) : State :=
  if x.holders.contains (row, rank) then s
  else
    let stride := rowStride x.fmt x.dim
    let shard := s.rowShard t row
    let local_ := s.rowLocal t row
    let cur := if shard = s.embSelf t then some (x.cur.present stride local_) else tget x.cur.replicas row
    let new := x.stepEnd.bind (fun e => (tget e.newRows row).map (fun b => (e.step, b)))
    let s := s.setTable t { x with holders := x.holders ++ [(row, rank)] }
    (cur.toList ++ new.toList).foldl (fun s c => s.sendCopies t rank shard c.1 stride [(local_, c.2)]) s

/-- The answer to another device's read of a row homed here: its bytes at the reader's step and frame, and nothing for a row the shard does
not have; none for a LOAD that is no such read (DESIGN CHOICE, assumption 18). -/
def State.answerRowRead (s : State) (m : Msg) : Option (Bytes × State) :=
  let t := m.target / 2 ^ 52
  match s.table t with
  | some x =>
    if bit m.ctx 31 && decide (1 < s.embSize t) && m.key == s.embKey t then
      let stride := rowStride x.fmt x.dim
      let off := m.target % 2 ^ 44
      let shard := m.ctx % 256
      let row := s.rowGlobal t shard (off / stride)
      if s.shardHome t shard ≠ some s.myRank ∨ (shard = s.embSelf t ∧ x.rows ≤ off / stride) then some ([], s)
      else
        let frame := nearest (2 ^ 26) s.frame (m.order / 2 ^ 15 % 2 ^ 16 + 2 ^ 16 * (m.ctx / 2 ^ 8 % 2 ^ 10))
        let b := s.rowHereAt t x row frame (nearest 32 x.doneStep (m.order / 2 ^ 10))
        some (slice b (off % stride) (m.order % 2 ^ 10), if bit m.order 31 then s.addHolder t x row m.src else s)
    else none
  | none => none

/-- A read answered that asked for a copy: the copy itself comes as EMB_COPY. -/
def State.replicaArrived (s : State) (t row : Nat) : State :=
  s.setRequests (s.fabric.requests.filter (fun r => !(r.w == noWork && r.region == t && r.addr / 2 ^ 16 == rowKey row 0 / 2 ^ 16 && r.data.isSome)))

/-- A row that its home does not have: the gather that asked for it ends (R350). -/
def State.rowMissing (s : State) (r : WlReq) : State :=
  let s := s.setRequests (s.fabric.requests.filter (fun q => q.tag != r.tag))
  if r.w = noWork then s else s.finish r.w (Result.err 0x12 8)

/-- A row as stored, for a gather: at home here, in a replica, or as its home has returned it. -/
def State.gatherRow (s : State) (w : Work) (t : Nat) (x : Table) (row : Nat) : Option Bytes :=
  if s.rowHere t row then some (s.rowHereAt t x row w.frame w.snap)
  else match tget (x.versionAt w.frame).replicas row with
    | some r => if r.1 ≤ w.snap then some r.2 else s.rowLoaded w.id t x row
    | none => s.rowLoaded w.id t x row

/-! ### EMB_GATHER (R349–R353) -/

/-- Offsets that begin at 0, never decrease, and end at n. -/
def offsetsLegal (os : List Nat) (n : Nat) : Bool :=
  os.head? == some 0 && os.getLast? == some n && (os.zip (os.drop 1)).all (fun p => decide (p.1 ≤ p.2))

/-- One output element of a bag of weights and values (R351): POOL 0 NONE, 1 SUM, 2 MEAN, 3 MAX. -/
def poolElem (pool : Nat) (wv : List (Nat × Nat)) : Nat :=
  if pool = 3 then
    match wv with
    | [] => 0
    | a :: t => t.foldl (fun acc p => extreme 1 true acc (mul32 p.1 p.2)) (mul32 a.1 a.2)
  else
    let acc := wv.foldl (fun acc p => r32 (((f32 p.1).mul (f32 p.2)).add (f32 acc))) 0
    if pool = 2 ∧ wv ≠ [] then div32 acc (int32f wv.length) else acc

/-- An output row. -/
def poolRow (pool outFmt dim : Nat) (bag : List (Nat × List Nat)) : Bytes :=
  ((List.range dim).map (fun e =>
    let v := poolElem pool (bag.map (fun p => (p.1, p.2.getD e 0)))
    if outFmt = 0 then toLe 4 v else toLe 2 (bf16.encode true (f32 v)))).flatten

/-- The bytes at operand address 0 of a gather. -/
def gatherBytes (d : Bytes) : Nat := if bit (descFlags d) 1 then roundup (4 * fld d 40 4) 64 + 4 * fld d 40 4 else 4 * fld d 40 4

/-- The count of reads of rows raised (R365, R366). -/
def Table.countReads (x : Table) (idx : List Nat) : Table := { x with reads := idx.foldl (fun r i => tset r i (tgetD r i 0 + 1)) x.reads }

/-- The rows a gather still has to ask their homes for; or a row that has no home in the view. -/
def State.askRows (s : State) (w : Work) (t : Nat) (x : Table) (idx : List Nat) : State :=
  let want := (idx.eraseDups).filter (fun r => (s.gatherRow w t x r).isNone && !s.rowAsked w.id r)
  want.foldl (fun s r =>
    match s.shardHome t (s.rowShard t r) with
    | some rank => if (s.routePort rank).isNone then s.finish w.id (Result.err 0x50 0) else s.sendRowRead w.id t x r rank w.frame w.snap false
    | none => s.finish w.id (Result.err 0x50 0)) s

/-- A gather's outputs written (R352). -/
def State.writeGather (s : State) (w : Work) (t : Nat) (x : Table) (idx offs weights : List Nat) : State :=
  let d := w.desc
  let pool := fld d 34 1
  let out := fld d 35 1
  let val := fun i =>
    (weights.getD i 0x3F800000, rowElems x.fmt x.dim ((s.gatherRow w t x (idx.getD i 0)).getD []))
  let n := if pool = 0 then idx.length else fld d 36 2
  let bag := fun b => if pool = 0 then [val b] else
    (List.range (offs.getD (b + 1) 0 - offs.getD b 0)).map (fun i => val (offs.getD b 0 + i))
  let size := x.dim * (if out = 0 then 4 else 2)
  let stride := roundup size 64
  s.onSett w.id x.homeDen w.tenancy fun s =>
    s.withAccess w ((List.range n).map (fun b => (descRes d + b * stride, size, true))) fun s =>
      let s := (List.range n).foldl (fun s b => s.writeAt w (descRes d + b * stride) (poolRow pool out x.dim (bag b))) s
      ((s.setTable t (x.countReads idx)).finish w.id
        { Result.done n with snap := w.snap, b24 := (x.versionAt w.frame).tag }).freeVersions t

/-- A gather read and written. Where the table's storage holds poison, whether a row read lies in it is free, since the spec does not place rows
in that storage (R646, R713). -/
def State.runGather (s : State) (x : Work) (indices offsets : Bytes) : State :=
  let w := x.id
  let d := x.desc
  let t := descTable d
  let n := fld d 40 4
  match s.table t with
  | none => s.finish w (Result.err 0x10 32)
  | some y =>
    let bags := fld d 36 2
    let reads := (descOp0 d, gatherBytes d) :: (if fld d 34 1 = 0 then [] else [(descOp1 d, 4 * (bags + 1))])
    match s.gate x (reads.map (fun r => (r.1, r.2, false))) with
    | .hold s' => s'
    | .go s =>
      let hurt := y.areas.any (fun a => s.poisonedIn a.1 a.2)
      let bad := reads.any (fun r => s.poisonedAt x r.1 r.2) || (hurt && s.freeVal % 2 == 1)
      let s := if hurt then s.drawn else s
      if bad then s.finish w (Result.err 0x32 0)
      else
        let b := s.readAt x (descOp0 d) (gatherBytes d) indices
        let idx := (List.range n).map (fun i => fld b (4 * i) 4)
        let weights := if bit (descFlags d) 1 then (List.range n).map (fun i => fld b (roundup (4 * n) 64 + 4 * i) 4) else []
        let o := if fld d 34 1 = 0 then [] else s.readAt x (descOp1 d) (4 * (bags + 1)) offsets
        let offs := (List.range (bags + 1)).map (fun i => fld o (4 * i) 4)
        if idx.any (fun r => !s.rowKnown t y r) then s.finish w (Result.err 0x12 8)
        else if fld d 34 1 ≠ 0 ∧ offsetsLegal offs n = false then s.finish w (Result.err 0x12 16)
        else
          let s := s.askRows x t y idx
          if idx.all (fun r => (s.gatherRow x t y r).isSome) then s.writeGather x t y idx offs weights else s

/-- EMB_GATHER: `indices` are the bytes at operand address 0, `offsets` those at operand address 1; its table's group registers are those of its
admission (R677). -/
def embGatherSt (w : Nat) (indices offsets : Bytes) (s : State) : State :=
  s.withWork w (· == 0x30) fun x s => s.underGroup x (descTable x.desc) 0x0403000 (·.runGather x indices offsets)

def execEmbGather (w : Nat) (indices offsets : Bytes) (s : State) : Out := .next (embGatherSt w indices offsets s)

/-! ### EMB_UPDATE (R354–R357) -/

/-- A pending state after an update (Table 8.4). -/
def pendAfter (p : Option (Nat × List Nat)) (mode : Nat) (u : List Nat) : Nat × List Nat :=
  if mode = 1 then (2, u)
  else match p with
    | none => (1, u)
    | some (m, v) => (m, List.zipWith add32 v u)

/-- The pending state of a row of a source in a step. -/
def Table.pend (x : Table) (step src row : Nat) : Option PendRow := x.pending.find? (fun p => p.step == step && p.src == src && p.row == row)

/-- An update of a row: MODE 0 ADD, 1 SET. -/
def Table.update (x : Table) (step src row mode : Nat) (u : List Nat) : Table :=
  let a := pendAfter ((x.pend step src row).map (fun p => (p.mode, p.vec))) mode u
  let p : PendRow := { step, src, row, mode := a.1, vec := a.2 }
  { x with pending := x.pending.filter (fun q => !(q.step == step && q.src == src && q.row == row)) ++ [p] }

/-- EMB_UPDATE: `records` and `vectors` are the bytes at the operand addresses. Updates of a table apply in admission order. -/
def embUpdateSt (w : Nat) (records vectors : Bytes) (s : State) : State :=
  s.withWork w (· == 0x31) fun x s =>
    let d := x.desc
    let t := descTable d
    let n := fld d 34 2
    match s.table t with
    | none => s.finish w (Result.err 0x10 32)
    | some y =>
      if (s.works.takeWhile (fun z => z.id != w)).any (fun z => z.opcode == 0x31 && descTable z.desc == t && z.result.isNone) then s
      else
        let stride := roundup (4 * y.dim) 64
        s.withReads x [(descOp0 d, 8 * n), (descOp1 d, n * stride)] fun s =>
          let r := s.readAt x (descOp0 d) (8 * n) records
          let v := s.readAt x (descOp1 d) (n * stride) vectors
          let recs := (List.range n).map (fun i =>
            (fld r (8 * i) 4, fld r (8 * i + 4) 1, (List.range y.dim).map (fun e => fld v (i * stride + 4 * e) 4)))
          if (List.range n).any (fun i => !s.rowKnown t y (fld r (8 * i) 4) || decide (1 < fld r (8 * i + 4) 1) || !zeroRange r (8 * i + 5) 3) then
            s.finish w (Result.err 0x12 8)
          else if recs.any (fun e => e.2.2.any (fun z => !(f32 z).isFinite)) then s.finish w (Result.err 0x12 16)
          else
            let z := recs.foldl (fun z e => z.update x.snap s.myRank e.1 e.2.1 e.2.2) y
            let z := { z with updFirst := if (tget z.updFirst x.snap).isSome then z.updFirst else tset z.updFirst x.snap x.id }
            if y.pendRows < (z.pending.filter (fun p => p.step == x.snap && p.src == s.myRank)).length then s.finish w (Result.err 0x10 32)
            else (s.setTable t z).finish w { Result.done n with snap := x.snap }

def execEmbUpdate (w : Nat) (records vectors : Bytes) (s : State) : Out := .next (embUpdateSt w records vectors s)

/-! ### Steps (R358–R364) -/

/-- The pending states of rows sent to their home; the mode byte is MODE as R354 codes it. -/
def State.sendPend (s : State) (t rank step dim : Nat) (ps : List PendRow) : State :=
  let one := fun (p : PendRow) => toLe 4 p.row ++ toLe 1 (p.mode - 1) ++ toLe 3 0 ++ (p.vec.map (toLe 4)).flatten
  (chunksOf ((16896 - 8) / (8 + 4 * dim)) ps.length ps).foldl (fun s c => s.sendEmb t rank 0 0x28 (toLe 8 step ++ (c.map one).flatten)) s

/-- A marker of a phase sent to every member. -/
def State.sendMarkers (s : State) (t step phase : Nat) : State :=
  (s.embOthers t).foldl (fun s r => s.sendEmb t r 0 0x29 (toLe 8 step ++ toLe 1 phase)) s

/-- The markers of a step's phase from every member awaited are in. -/
def State.markersIn (s : State) (t : Nat) (x : Table) (step phase : Nat) : Bool :=
  (s.embOthers t).all (fun r => x.markers.contains (step, phase, r))

/-- The state of a step as its copy carries it: table, step, phase, rows published and unchanged, and, where phase 2 has begun, the new copies by
global row with the devices that hold a copy (R368): the model's own layout (DESIGN CHOICE, assumption 56). -/
def stepImage (t : Nat) (x : Table) (e : StepEnd) : Bytes :=
  let row := fun (r : Nat × Bytes) =>
    let hs := (x.holders.filter (fun h => h.1 == r.1)).map (·.2)
    toLe 8 r.1 ++ r.2 ++ toLe 2 hs.length ++ (hs.map (toLe 2)).flatten
  toLe 2 t ++ toLe 8 e.step ++ toLe 1 e.phase ++ toLe 4 e.published ++ toLe 4 e.unchanged ++ toLe 4 e.newRows.length ++
    (e.newRows.map row).flatten

/-- The new copies of an image: global row, bytes, holders. -/
def imageRows (stride : Nat) : (n : Nat) → Bytes → List (Nat × Bytes × List Nat)
  | 0, _ => []
  | n + 1, b =>
    let k := fld b (8 + stride) 2
    (fld b 0 8, slice b 8 stride, (List.range k).map (fun i => fld b (10 + stride + 2 * i) 2)) :: imageRows stride n (b.drop (10 + stride + 2 * k))

/-- The sources' states of a row combined in ascending rank order (R362). -/
def combineRow (ps : List PendRow) : Option (Nat × List Nat) :=
  (sortBy (fun a b => decide (a.src < b.src)) ps).foldl (fun acc p => some (pendAfter acc (p.mode - 1) p.vec)) none

/-- The new copy of a row, or none where its FP32 value holds a non-finite element. -/
def State.newCopy (s : State) (t : Nat) (x : Table) (row : Nat) (ps : List PendRow) : Option Bytes :=
  match combineRow ps with
  | some (mode, p) =>
    let cur := rowElems x.fmt x.dim (s.rowHereAt t x row s.frame x.doneStep)
    let v := if mode = 1 then List.zipWith add32 cur p else p
    if v.all (fun z => (f32 z).isFinite) then some (requant x.fmt x.dim v) else none
  | none => none

/-- The replica of a shard that new copies are pushed to. -/
def State.shardReplica (s : State) (t shard : Nat) : List Nat :=
  let e := s.grpEntry t 0x0403400 shard
  if 1 < s.embSize t ∧ bit e 31 ∧ bits e 27 16 ≠ s.myRank ∧ s.inView (bits e 27 16) then [bits e 27 16] else []

/-- New copies of rows, with their holders, pushed to the replicas of their shards and to the holders (R361, R365). -/
def State.pushCopies (s : State) (t step stride : Nat) (rows : List (Nat × Bytes × List Nat)) : State :=
  let parts := (rows.map (fun r => s.rowShard t r.1)).eraseDups
  parts.foldl (fun s shard =>
    let mine := rows.filter (fun r => s.rowShard t r.1 == shard)
    let all := s.shardReplica t shard
    let others := ((mine.flatMap (·.2.2)).eraseDups).filter (fun r => !all.contains r && s.inView r && r != s.myRank)
    (all ++ others).foldl (fun s k => s.sendCopies t k shard step stride
      ((mine.filter (fun r => all.contains k || r.2.2.contains k)).map (fun r => (s.rowLocal t r.1, r.2.1)))) s) s

/-- Phase 2 as far as its boundary: states combined, rows requantised by EMB_REQUANT on a sett of the home den, and the new copies
pushed. -/
def State.combineStep (s : State) (t : Nat) (x : Table) (e : StepEnd) : State :=
  s.onSett e.w x.homeDen x.tenancy fun s =>
    let mine := x.pending.filter (fun p => p.step == e.step && s.rowHere t p.row)
    let rows := ((mine.map (·.row)).eraseDups)
    let made := rows.map (fun r => (r, s.newCopy t x r (mine.filter (fun p => p.row == r))))
    let new := made.filterMap (fun m => m.2.map (fun b => (m.1, b)))
    let e := { e with combined := some s.frame, newRows := new, published := new.length, unchanged := made.length - new.length }
    let s := s.setTable t { x with stepEnd := some e }
    s.pushCopies t e.step (rowStride x.fmt x.dim) (new.map (fun r => (r.1, r.2, (x.holders.filter (fun h => h.1 == r.1)).map (·.2))))

/-- The end of phase 3 (R363). -/
def State.completeStep (s : State) (t : Nat) (x : Table) (e : StepEnd) : State :=
  let lost := e.unawaited.length
  let e := { e with phase := 3 }
  let s := s.setTable t { x with
    doneStep := e.step, stepEnd := none, pending := x.pending.filter (fun p => decide (e.step < p.step))
    markers := x.markers.filter (fun m => decide (e.step < m.1)), updFirst := x.updFirst.filter (fun u => decide (e.step < u.1)) }
  let s := s.endPhase 2 e.w 3 (stepImage t x e)
  let s := if s.partner.isNone then s.endRequest 2 e.w else s
  s.finish e.w
    { status := if lost = 0 then 0 else 2, flags := if e.unchanged = 0 then 0 else 4, count := e.published, snap := e.step
      detail := 0, b24 := e.unchanged + 2 ^ 32 * lost }

/-- What a step can do next: each phase starts once the copy of the one before it is acknowledged. -/
def State.advanceStep (s : State) (t : Nat) : State :=
  match s.table t with
  | some x =>
    match x.stepEnd with
    | some e =>
      if !s.mayGoOn 2 e.w then s
      else if e.phase = 1 ∧ e.combined = none ∧ s.markersIn t x e.step 1 then s.combineStep t x e
      else if e.phase = 2 ∧ s.markersIn t x e.step 2 then s.completeStep t x e
      else s
    | none => s
  | none => s

/-- EMB_STEP_END: phase 1 once every EMB_UPDATE of the step on this device has completed, and once its gathers at steps before the last one
have ended: the homes take a member's marker of step n + 1 to say so, and free the copies of step n − 1 (R364)
(DEDUCED, assumption 43; DESIGN CHOICE, assumption 120). -/
def embStepEndSt (w : Nat) (s : State) : State :=
  s.withWork w (· == 0x32) fun x s =>
    let t := descTable x.desc
    let n := fld x.desc 40 8
    match s.table t with
    | none => s.finish w (Result.err 0x10 32)
    | some y =>
      match y.stepEnd with
      | some e => if e.w = w then s.advanceStep t else s
      | none =>
        if n ≠ y.doneStep + 1 then s.finish w (Result.err 0x10 32)
        else if s.works.any (fun z => descTable z.desc == t && z.result.isNone &&
            ((z.opcode == 0x31 && z.snap == n) || (z.opcode == 0x30 && decide (z.snap + 1 < n)))) then s
        else
          let e : StepEnd := { w, step := n, phase := 1, combined := none, newRows := [], published := 0, unchanged := 0, unawaited := s.embLost t }
          let s := (s.setTable t { y with stepEnd := some e, endStep := max y.endStep n }).createRequest 2 w
          let away := y.pending.filter (fun p => p.step == n && p.src == s.myRank && !s.rowHere t p.row)
          let s := (s.embOthers t).foldl (fun s r =>
            s.sendPend t r n y.dim (away.filter (fun p => s.shardHome t (s.rowShard t p.row) == some r))) s
          ((s.sendMarkers t n 1).endPhase 2 w 1 (stepImage t y e)).advanceStep t

def execEmbStepEnd (w : Nat) (s : State) : Out := .next (embStepEndSt w s)

/-- The new copy of one row becomes current, the replaced one kept for readers of earlier steps (R364). -/
def State.publishRow (s : State) (t step : Nat) (x : Table) (r : Nat × Bytes) : Table :=
  if s.rowShard t r.1 = s.embSelf t ∨ s.embSize t = 1 then
    let l := s.rowLocal t r.1
    let before := (x.cur.present (rowStride x.fmt x.dim) l).2
    { x with
      cur := { x.cur with rows := tset x.cur.rows l r.2, rowStep := tset x.cur.rowStep l step, kept := x.cur.kept ++ [(step, l, before)] }
      promoting := tmap x.promoting r.1 (fun p => (p.1, r.2)) }
  else
    let before := (tget x.cur.replicas r.1).toList.map (fun p => (step, repKey r.1, p.2))
    { x with cur := { x.cur with replicas := tset x.cur.replicas r.1 (step, r.2), kept := x.cur.kept ++ before } }

/-- EMB_PUBLISH: at the first boundary after the states were combined the new copies become current, and the copies kept for readers of the step
before the last are free (R361, R364). -/
def embPublishSt (t : Nat) (s : State) : State :=
  match s.table t with
  | some x =>
    match x.stepEnd with
    | some e =>
      let due := match e.combined with | some f => decide (f < s.frame ∧ s.time.lastFrame < s.frame) | none => false
      if e.phase ≠ 1 ∨ !due then s
      else
        let x := { x with cur := { x.cur with kept := x.cur.kept.filter (fun k => decide (e.step ≤ k.1)) } }
        let x := e.newRows.foldl (s.publishRow t e.step) x
        let e := { e with phase := 2, newRows := [] }
        let s := (s.setTable t { x with stepEnd := some e }).sendMarkers t e.step 2
        (s.endPhase 2 e.w 2 (stepImage t x e)).advanceStep t
    | none => s
  | none => s

def execEmbPublish (table : Nat) (s : State) : Out := .next (embPublishSt table s)

/-! ### Messages of table groups -/

/-- A message of a table group: its key is checked as a region key (R525). -/
def State.embMessage (s : State) (port type : Nat) (m : Msg) (f : Nat → Table → State → State) : State :=
  s.message port type m fun s =>
    let t := m.target / 2 ^ 52
    match s.table t with
    | some x => if m.key = s.embKey t ∧ 1 < s.embSize t then f t x s else s.refuse x.tenancy
    | none => s.refuse ((s.idTenancy 1 t).getD 0)

/-- EMB_PEND: the pending states of a source, each applied once (R555); a row beyond those of the shard is passed over
(DEDUCED, assumption 64). -/
def embPendSt (port : Nat) (m : Msg) (s : State) : State :=
  s.embMessage port 0x28 m fun t x s =>
    let step := fld m.payload 0 8
    let size := 8 + 4 * x.dim
    let n := (m.payload.length - 8) / size
    let x := (List.range n).foldl (fun x i =>
      let o := 8 + i * size
      let row := fld m.payload o 4
      if step ≤ x.doneStep ∨ (x.pend step m.src row).isSome ∨ s.rowKnown t x row = false then x
      else
        let p : PendRow :=
          { step, src := m.src, row, mode := fld m.payload (o + 4) 1 + 1
            vec := (List.range x.dim).map (fun e => fld m.payload (o + 8 + 4 * e) 4) }
        { x with pending := x.pending ++ [p] }) x
    s.setTable t x

def execEmbPend (port : Nat) (m : Msg) (s : State) : Out := .next (embPendSt port m s)

/-- The member whose marker a message brings: its sender, or, where bit 17 of CTX is set, the departed member that bits [11:0] name
(DESIGN CHOICE, assumption 56). -/
def markerOf (m : Msg) : Nat := if bit m.ctx 17 then m.ctx % 4096 else m.src

/-- EMB_MARKER. -/
def embMarkerSt (port : Nat) (m : Msg) (s : State) : State :=
  s.embMessage port 0x29 m fun t x s =>
    let k := (fld m.payload 0 8, fld m.payload 8 1, markerOf m)
    if k.1 ≤ x.doneStep ∨ x.markers.contains k then s
    else (s.setTable t { x with markers := x.markers ++ [k] }).advanceStep t

def execEmbMarker (port : Nat) (m : Msg) (s : State) : Out := .next (embMarkerSt port m s)

/-- A copy of a row of another shard taken, the one it replaces kept for readers of earlier steps; an older one than is held is not. -/
def Table.takeCopy (x : Table) (step row : Nat) (b : Bytes) : Table :=
  match tget x.cur.replicas row with
  | some r =>
    if step ≤ r.1 then x
    else { x with cur := { x.cur with replicas := tset x.cur.replicas row (step, b), kept := x.cur.kept ++ [(step, repKey row, r.2)] } }
  | none => { x with cur := { x.cur with replicas := tset x.cur.replicas row (step, b) } }

/-- EMB_COPY: new copies of rows of the shard that CTX names (DESIGN CHOICE, assumption 18). -/
def embCopySt (port : Nat) (m : Msg) (s : State) : State :=
  s.embMessage port 0x2A m fun t x s =>
    let stride := rowStride x.fmt x.dim
    let n := (m.payload.length - 8) / (8 + stride)
    s.setTable t ((List.range n).foldl (fun x i =>
      let o := 8 + i * (8 + stride)
      x.takeCopy (fld m.payload 0 8) (s.rowGlobal t (m.ctx % 256) (fld m.payload o 4)) (slice m.payload (o + 8) stride)) x)

def execEmbCopy (port : Nat) (m : Msg) (s : State) : Out := .next (embCopySt port m s)

/-! ### Hot rows (R365, R366) -/

/-- EMB_HOT_CTL fields of a table. -/
def State.hotCtl (s : State) (t hi lo : Nat) : Nat := bits (s.embReg t 0x0403800) hi lo

/-- ROW_REPLICATE: a row homed elsewhere that is read more often than the threshold is asked of its home. -/
def rowReplicateSt (t row : Nat) (s : State) : State :=
  match s.table t with
  | some x =>
    let limit := s.hotCtl t 15 0
    let held := x.cur.replicas.filter (fun r => !s.rowHere t r.1)
    if limit = 0 ∨ tgetD x.reads row 0 ≤ limit ∨ s.hotCtl t 31 16 ≤ held.length ∨ !s.rowKnown t x row ∨ s.rowHere t row ∨
        (tget x.cur.replicas row).isSome ∨ s.rowAsked noWork row then s
    else match s.shardHome t (s.rowShard t row) with
      | some rank => if (s.routePort rank).isNone then s else s.sendRowRead noWork t x row rank s.frame x.doneStep true
      | none => s
  | none => s

def execRowReplicate (table row : Nat) (s : State) : Out := .next (rowReplicateSt table row s)

/-- ROW_PROMOTE: the copy of a row of a TIER 1 table to HBM begins, in a background slot. -/
def rowPromoteSt (t row : Nat) (s : State) : State :=
  match s.table t with
  | some x =>
    let limit := s.hotCtl t 47 32
    if x.tier ≠ 1 ∨ limit = 0 ∨ tgetD x.reads row 0 ≤ limit ∨ s.hotCtl t 63 48 ≤ x.inHbm.length + x.promoting.length ∨
        !s.rowHere t row ∨ x.inHbm.contains row ∨ (tget x.promoting row).isSome ∨ !s.bgServes (denMap x.homeDen) x.tenancy then s
    else s.setTable t { x with promoting := tset x.promoting row (s.frame, s.rowHereAt t x row s.frame x.doneStep) }
  | none => s

def execRowPromote (table row : Nat) (s : State) : Out := .next (rowPromoteSt table row s)

/-- ROW_DIRECTORY_SWITCH: at the first boundary after the copy the row directory names HBM. -/
def rowDirectorySwitchSt (t row : Nat) (s : State) : State :=
  match s.table t with
  | some x =>
    match tget x.promoting row with
    | some (f, _) =>
      if f < s.frame then s.setTable t { x with promoting := tdel x.promoting row, inHbm := x.inHbm ++ [row] } else s
    | none => s
  | none => s

def execRowDirectorySwitch (table row : Nat) (s : State) : Out := .next (rowDirectorySwitchSt table row s)

/-- A superframe begins: read counts start again. -/
def State.resetReads (s : State) : State := { s with tables := s.tables.map (fun e => (e.1, { e.2 with reads := [] })) }

/-- A member leaves the view while its marker of a phase is awaited: it is no longer (R363, R367). -/
def State.dropMarkers (s : State) (lost : List Nat) : State :=
  { s with tables := s.tables.map (fun e => (e.1, match e.2.stepEnd with
      | some p =>
        let gone := (s.embLost e.1).filter (fun r => lost.contains r && !p.unawaited.contains r &&
          !(e.2.markers.contains (p.step, 1, r) && e.2.markers.contains (p.step, 2, r)))
        { e.2 with stepEnd := some { p with unawaited := p.unawaited ++ gone } }
      | none => e.2)) }

/-- The messages of a departed member's phase 2 sent again by its partner: its new copies, and its marker in its name (Table 13.10, R368). -/
def State.resumeStep (s : State) (owner : Nat) (image : Bytes) : State :=
  let t := fld image 0 2
  let step := fld image 2 8
  match s.table t with
  | some x =>
    let stride := rowStride x.fmt x.dim
    let rows := imageRows stride (fld image 19 4) (image.drop 23)
    let here := rows.filter (fun r => s.rowHere t r.1 || r.2.2.contains s.myRank)
    let s := s.setTable t (here.foldl (fun x r => x.takeCopy step r.1 r.2.1) x)
    let s := s.pushCopies t step stride rows
    (s.embOthers t).foldl (fun s r => s.sendEmb t r (2 ^ 17 + owner) 0x29 (toLe 8 step ++ toLe 1 2)) s
  | none => s

/-- Everything a frame boundary owes tables (R57, step 3): publications, then row directories and versions. -/
def State.tablesAtBoundary (s : State) : State :=
  s.tables.foldl (fun s e =>
    let s := embPublishSt e.1 s
    let s := ((s.table e.1).map (fun x => x.promoting.foldl (fun s p => rowDirectorySwitchSt e.1 p.1 s) s)).getD s
    tableSwitchApplySt e.1 s) s

end Sys2Proof.Machine
end

