-- ==== Sys2Proof/Machine/Fabric.lean ====
section
/-!
DEFINITION. Regions, windows and the memory messages of the Wilfer Link, at the home device and at the source; extent migration
(R511–R535, Table 13.10).
-/

namespace Sys2Proof

/-- The region and offset a message names. -/
def Msg.region (m : Msg) : Nat := m.target / 2 ^ 52
def Msg.offset (m : Msg) : Nat := m.target % 2 ^ 44

end Sys2Proof

namespace Sys2Proof.Machine

/-! ### Regions (R513–R517) -/

/-- A FREE region. -/
def Region.free : Region := { state := 0, perm := 0, tenancy := 0, base := 0, length := 0, key := 0, newKey := none }

def State.region (s : State) (i : Nat) : Region := tgetD s.fabric.regions i .free
def State.setRegion (s : State) (i : Nat) (g : Region) : State :=
  { s with fabric := { s.fabric with regions := if g.state = 0 then tdel s.fabric.regions i else tset s.fabric.regions i g } }

/-- The memory address of an offset in a region. -/
def Region.addr (g : Region) (off : Nat) : Nat := g.base % 2 ^ 56 + off

/-- The checks of R515: permission bit 0 READ, 1 WRITE, 2 ATOMIC. -/
def Region.allows (g : Region) (key off n perm : Nat) : Bool :=
  g.state == 1 && key == g.key && decide (off + n ≤ g.length) && bit g.perm perm

/-- Messages accepted for a region and not yet served. -/
def State.regionBusy (s : State) (i : Nat) : Bool :=
  (s.fabric.held ++ s.fabric.flagWait ++ s.fabric.streamsIn.flatMap (·.waiting)).any (fun h => h.msg.region == i)

/-- A WITHDRAWING region whose last accepted request has completed becomes FREE (R517). -/
def State.settleRegion (s : State) (i : Nat) : State :=
  if (s.region i).state = 2 ∧ s.regionBusy i = false then s.setRegion i .free else s

/-! ### Serving requests of other devices (R515, R528–R534) -/

/-- A response to a request (R526) (DEDUCED, assumption 79). -/
def State.respond (s : State) (m : Msg) (type status flags : Nat) (payload : Bytes) : State :=
  s.sendTo m.src type { s.mkMsg m.src flags m.tag m.order m.target m.key m.ctx payload with status }

/-- The number under which a request of another device makes its accesses. -/
def fabricWork (m : Msg) : Nat := 2 ^ 71 + m.src * 2 ^ 32 + m.tag

/-- What the lines of a request meet: all reachable; one that waits for its unit's slot (R63, R64) or for a recall; an extent being unmapped (R445); a line its region's
tenancy does not own (R474). -/
inductive RegionGate where
  | go (s : State)
  | wait (s : State)
  | revoked (s : State)
  | mismatch (a : Nat)

/-- The lines of an access in order (DEDUCED, assumption 76). -/
def State.regionGate (s : State) (t w : Nat) (write : Bool) : List (Nat × Nat) → RegionGate
  | [] => .go s
  | (a, n) :: rest =>
    match s.checkMem t a n with
    | .mem a =>
      match s.passUnit w 0 t (s.unitsOf a) with
      | .hold s => .wait s
      | .go s =>
        if a / 2 ^ 48 = 2 then
          match s.devLine (if write then .devWr else .devRd) w (a % 2 ^ 48 / 64) with
          | .ready s => State.regionGate s t w write rest
          | .blocked s' => .wait s'
        else State.regionGate s t w write rest
    | .revoked => .revoked s
    | _ => .mismatch a

/-- Bytes of a region stored, as poison where the message carries it. -/
def State.regionPut (s : State) (a : Nat) (b : Bytes) (poison : Bool) : State :=
  let s := s.put a b
  if poison then (pieces a b.length).foldl (fun s p => s.addPoison (lineOf p.1)) s else s

/-- A record of a segment (Table 13.7). -/
structure SegRec where
  op   : Nat
  off  : Nat
  len  : Nat
  data : Bytes
  deriving DecidableEq, Repr

/-- The records of a segment's payload. -/
def segRecords : (fuel : Nat) → Bytes → List SegRec
  | 0, _ => []
  | fuel + 1, b =>
    if b.length < 16 then []
    else
      let op := fld b 0 1
      let len := fld b 2 2
      let size := 16 + (if op = 1 then 0 else roundup len 16)
      { op, len, off := fld b 8 8 % 2 ^ 44, data := if op = 1 then [] else slice b 16 len } :: segRecords fuel (b.drop size)

end Sys2Proof.Machine

namespace Sys2Proof

/-- The records of a segment. -/
def Msg.records (m : Msg) : List Machine.SegRec := Machine.segRecords (m.payload.length / 16 + 1) m.payload

end Sys2Proof

namespace Sys2Proof.Machine

/-- A length a LOAD or STORE may have: 1 to 512 bytes, no 512-byte boundary crossed (R528). -/
def accessLegal (off n : Nat) : Bool := decide (1 ≤ n ∧ n ≤ 512) && off / 512 == (off + n - 1) / 512

/-- A record passes the checks of R515 (DEDUCED, assumption 73). -/
def SegRec.passes (r : SegRec) (g : Region) (key : Nat) : Bool :=
  decide (1 ≤ r.op ∧ r.op ≤ 3) && accessLegal r.off r.len && g.allows key r.off r.len (if r.op = 1 then 0 else 1)

/-- How many leading records of a segment pass. -/
def State.segPass (s : State) (m : Msg) : Nat := (m.records.takeWhile (fun r => r.passes (s.region m.region) m.key)).length

/-- How far the records of a segment have come: the state, load data so far, and the first failing record with its status. -/
structure SegRun where
  state : State
  index : Nat
  data  : Bytes
  fail  : Option (Nat × Nat)

/-- One record applied after the ones before it (R534): at the first that fails, nothing more is (DEDUCED, assumption 74). -/
def SegRun.apply (g : Region) (r : SegRun) (c : SegRec) : SegRun :=
  if r.fail.isSome then r
  else
    let s := r.state
    let a := g.addr c.off
    match s.checkMem g.tenancy a 1 with
    | .revoked => { r with fail := some (r.index, 4) }
    | _ =>
      if c.op = 1 then
        if s.poisonedIn a c.len then { r with fail := some (r.index, 2) }
        else { r with index := r.index + 1, data := r.data ++ s.readDev a c.len }
      else { r with state := s.regionPut a c.data false, index := r.index + 1 }

/-- A request served, or still waiting. -/
inductive Served where
  | done (s : State)
  | wait (s : State)

/-- A request whose access is gated as one: its lines, then its effect, then the recalls it used. -/
def State.serveLines (s : State) (m : Msg) (g : Region) (write : Bool) (n type : Nat) (f : State → State) : Served :=
  match s.regionGate g.tenancy (fabricWork m) write (pieces (g.addr m.offset) n) with
  | .go s => .done (((f s).useRecalled (fabricWork m)).leaveAll (fabricWork m))
  | .wait s => .wait s
  | .revoked s => .done (s.respond m type 4 0 [])
  | .mismatch a => .done (s.ownerMismatch g.tenancy a)

/-- The store sequences of a pair of source device and CTX (R530). -/
def State.storeSeq (s : State) (src ctx : Nat) : StoreSeq :=
  (s.fabric.storeIn.find? (fun q => q.src == src && q.ctx == ctx)).getD { src, ctx, next := 0, above := [] }

/-- The next sequence not yet applied. -/
def advanceSeq : (fuel next : Nat) → List Nat → Nat × List Nat
  | 0, next, above => (next, above)
  | fuel + 1, next, above =>
    if above.contains next then advanceSeq fuel ((next + 1) % 2 ^ 32) (above.filter (· != next)) else (next, above)

/-- A store of a pair applied, or refused: its sequence stands in no later store's way (DEDUCED, assumption 73). -/
def State.storeDone (s : State) (m : Msg) : State :=
  let q := s.storeSeq m.src m.ctx
  let r := advanceSeq (q.above.length + 1) q.next (m.order :: q.above)
  { s with fabric := { s.fabric with
      storeIn := { q with next := r.1, above := r.2 } :: s.fabric.storeIn.filter (fun p => !(p.src == m.src && p.ctx == m.ctx)) } }

/-- A stream at this device (R534). -/
def State.streamIn (s : State) (m : Msg) : StreamIn :=
  (s.fabric.streamsIn.find? (fun q => q.src == m.src && q.ctx == m.ctx && q.region == m.region)).getD
    { src := m.src, ctx := m.ctx, region := m.region, next := 0, waiting := [] }

def State.setStreamIn (s : State) (x : StreamIn) : State :=
  { s with fabric := { s.fabric with
      streamsIn := x :: s.fabric.streamsIn.filter (fun q => !(q.src == x.src && q.ctx == x.ctx && q.region == x.region)) } }

/-- LOAD: the bytes, with POISON if any line read was poisoned (R528). -/
def State.serveLoad (s : State) (m : Msg) (g : Region) : Served :=
  let n := m.order % 2 ^ 10
  s.serveLines m g false n 2 fun s =>
    let bad := s.poisonedIn (g.addr m.offset) n
    s.respond m 2 (if bad then 2 else 0) (2 * b2n bad) (s.readDev (g.addr m.offset) n)

/-- STORE: acknowledged once every line has taken its place (R528). -/
def State.serveStore (s : State) (m : Msg) (g : Region) : Served :=
  match s.serveLines m g true m.payload.length 4 (fun s =>
      (s.regionPut (g.addr m.offset) m.payload (bit m.flags 1)).respond m 4 0 0 []) with
  | .done s => .done (s.storeDone m)
  | .wait s => .wait s

/-- Bytes of the field an ATOMIC names: CAS carries compare and swap values. -/
def atomicWidth (m : Msg) : Nat := if m.atomicOp = 3 then m.payload.length / 2 else m.payload.length

/-- ATOMIC: one access in home-den order, answered with the value read (R465, R531). -/
def State.serveAtomic (s : State) (m : Msg) (g : Region) : Served :=
  let n := atomicWidth m
  s.serveLines m g true n 6 fun s =>
    let a := g.addr m.offset
    if s.poisonedIn a n then s.respond m 6 2 2 []
    else
      let old := leNat (s.readDev a n)
      (s.put a (toLe n (atomicNew m.atomicOp n old (fld m.payload 0 n) (fld m.payload n n)))).respond m 6 0 0 (toLe n old)

/-- SEGMENT in its turn: its lines, then its records in order; the answer names the first that fails (R534). -/
def State.serveSegment (s : State) (h : Held) (g : Region) : Served :=
  let m := h.msg
  let rs := m.records.take h.pass
  let gate := rs.foldl (fun acc r =>
    match acc with
    | .go s =>
      (match s.regionGate g.tenancy (fabricWork m) (r.op != 1) (pieces (g.addr r.off) r.len) with
       | .revoked s => .go s
       | x => x)
    | x => x) (RegionGate.go s)
  match gate with
  | .go s =>
    let run := rs.foldl (SegRun.apply g) { state := s, index := 0, data := [], fail := none }
    let fail := if run.fail.isNone && decide (h.pass < m.records.length) then some (h.pass, 1) else run.fail
    let s := run.state
    let s := match fail with
      | some (_, 1) => s.refuse g.tenancy
      | _ => s
    let x := s.streamIn m
    let s := (s.setStreamIn { x with next := (x.next + 1) % 2 ^ 32 }).useRecalled (fabricWork m)
    let s := s.leaveAll (fabricWork m)
    .done (s.respond m 9 ((fail.map (·.2)).getD 0) 0 (toLe 4 ((fail.map (·.1)).getD (2 ^ 32 - 1)) ++ run.data))
  | .wait s => .wait s
  | .revoked s => .wait s
  | .mismatch a => .done (s.ownerMismatch g.tenancy a)

/-- A checked request tried. -/
def State.serveHeld (s : State) (h : Held) : Served :=
  let g := s.region h.msg.region
  match h.type with
  | 1 => s.serveLoad h.msg g
  | 3 => s.serveStore h.msg g
  | 5 => s.serveAtomic h.msg g
  | _ => s.serveSegment h g

/-- A request that waits for a slot or a recall joins those that do. -/
def State.hold (s : State) (h : Held) : State := { s with fabric := { s.fabric with held := s.fabric.held ++ [h] } }

/-- Flag stores whose turn has come, one after the other (R530). -/
def State.pumpFlags (s : State) (src ctx : Nat) : (fuel : Nat) → State
  | 0 => s
  | fuel + 1 =>
    match s.fabric.flagWait.find? (fun h => h.msg.src == src && h.msg.ctx == ctx && h.msg.order == (s.storeSeq src ctx).next) with
    | some h =>
      let s : State := { s with fabric := { s.fabric with flagWait := s.fabric.flagWait.filter (· != h) } }
      match s.serveHeld h with
      | .done s => State.pumpFlags (s.settleRegion h.msg.region) src ctx fuel
      | .wait s => s.hold h
    | none => s

/-- Segments whose turn has come. -/
def State.pumpSegments (s : State) (m : Msg) : (fuel : Nat) → State
  | 0 => s
  | fuel + 1 =>
    let x := s.streamIn m
    match x.waiting.find? (fun h => h.msg.order == x.next) with
    | some h =>
      let s := s.setStreamIn { x with waiting := x.waiting.filter (· != h) }
      match s.serveHeld h with
      | .done s => State.pumpSegments (s.settleRegion m.region) m fuel
      | .wait s => s.hold h
    | none => s

/-- What follows a request that has been served. -/
def State.afterServe (s : State) (h : Held) : State :=
  let m := h.msg
  let s := if h.type = 3 then s.pumpFlags m.src m.ctx s.fabric.flagWait.length
    else if h.type = 8 then s.pumpSegments m (s.streamIn m).waiting.length else s
  s.settleRegion m.region

/-- A checked request in its turn: behind an earlier one of its source that waits, it waits too (R529)
(DEDUCED, assumption 75). -/
def State.acceptHeld (s : State) (h : Held) : State :=
  if s.fabric.held.any (fun k => k.msg.src == h.msg.src) then s.hold h
  else match s.serveHeld h with
    | .done s => s.afterServe h
    | .wait s => s.hold h

/-- The requests that wait tried again, in order (DEDUCED, assumption 75). -/
def State.retryHeld (s : State) : State :=
  s.fabric.held.foldl State.acceptHeld { s with fabric := { s.fabric with held := [] } }

/-- A request that fails the checks of R515: no effect, counted, answered. -/
def State.refuseReq (s : State) (m : Msg) (type : Nat) : State :=
  (s.refuse (s.region m.region).tenancy).respond m type 1 0 []

/-- LOAD (R528): a row of a table group has its own answer (DEDUCED, assumption 73). -/
def loadSt (port : Nat) (m : Msg) (s : State) : State :=
  s.message port 1 m fun s =>
    match s.answerRowRead m with
    | some (b, s) => s.respond m 2 0 0 b
    | none =>
      let n := m.order % 2 ^ 10
      let s := s.retryHeld
      if accessLegal m.offset n && (s.region m.region).allows m.key m.offset n 0 then s.acceptHeld { port, type := 1, pass := 0, msg := m }
      else s.refuseReq m 2

def execLoad (port : Nat) (m : Msg) (s : State) : Out := .next (loadSt port m s)

/-- STORE (R530): a flag store waits for every earlier store of its pair (DEDUCED, assumption 73). -/
def storeSt (port : Nat) (m : Msg) (s : State) : State :=
  s.message port 3 m fun s =>
    let n := m.payload.length
    let h : Held := { port, type := 3, pass := 0, msg := m }
    let s := s.retryHeld
    if accessLegal m.offset n && (s.region m.region).allows m.key m.offset n 1 then
      if bit m.flags 0 && m.order != (s.storeSeq m.src m.ctx).next then
        { s with fabric := { s.fabric with flagWait := s.fabric.flagWait ++ [h] } }
      else s.acceptHeld h
    else ((s.refuseReq m 4).storeDone m).afterServe h

def execStore (port : Nat) (m : Msg) (s : State) : Out := .next (storeSt port m s)

/-- ATOMIC (R531) (DEDUCED, assumption 73). -/
def atomicSt (port : Nat) (m : Msg) (s : State) : State :=
  s.message port 5 m fun s =>
    let n := atomicWidth m
    let s := s.retryHeld
    if decide (1 ≤ m.atomicOp ∧ m.atomicOp ≤ 10) && (n == 4 || n == 8) && m.offset % n == 0 &&
        (s.region m.region).allows m.key m.offset n 2 then
      s.acceptHeld { port, type := 5, pass := 0, msg := m }
    else s.refuseReq m 6

def execAtomic (port : Nat) (m : Msg) (s : State) : Out := .next (atomicSt port m s)

/-- SEGMENT (R532–R534): checked against the key in force now, applied in its turn. -/
def segmentSt (port : Nat) (m : Msg) (s : State) : State :=
  s.message port 8 m fun s =>
    let s := s.retryHeld
    let h : Held := { port, type := 8, pass := s.segPass m, msg := m }
    let x := s.streamIn m
    if m.order = x.next then s.acceptHeld h else s.setStreamIn { x with waiting := x.waiting ++ [h] }

def execSegment (port : Nat) (m : Msg) (s : State) : Out := .next (segmentSt port m s)

/-! ### Extent migration (Table 13.10) -/

/-- The number under which a migration makes its stores and keeps its request. -/
def migWork (ext : Nat) : Nat := 2 ^ 72 + ext

def State.migration (s : State) (ext : Nat) : Option Migration := s.fabric.migrations.find? (fun g => g.ext == ext)
def State.setMigration (s : State) (g : Migration) : State :=
  { s with fabric := { s.fabric with migrations := s.fabric.migrations.map (fun h => if h.ext = g.ext then g else h) } }

/-- A migration that has ended, well or badly. -/
def State.dropMigration (s : State) (ext : Nat) : State :=
  { s with fabric := { s.fabric with
      migrations := s.fabric.migrations.filter (fun g => g.ext != ext)
      requests := s.fabric.requests.filter (fun r => r.w != migWork ext) } }

/-- A migration that cannot go on: it ends, and source and target stay as they stand (DEDUCED, assumption 80). -/
def State.failMigration (s : State) (ext : Nat) : State := (s.endRequest 3 (migWork ext)).dropMigration ext

/-- A migration's state as its copy carries it: the model's own layout (DESIGN CHOICE, assumption 56). -/
def Migration.image (g : Migration) : Bytes := toLe 2 g.ext ++ toLe 2 g.rank ++ toLe 2 g.region ++ toLe 1 g.phase

/-- The next line of the extent stored to the target's region (DEDUCED, assumption 80). -/
def State.migrateLine (s : State) (ext : Nat) : State :=
  match s.migration ext with
  | some g =>
    if 2 ^ 30 ≤ g.next then s
    else
      let a := regionBase 2 + ext * 2 ^ 30 + g.next
      (s.setMigration { g with next := g.next + 64 }).sendRemote
        { tag := 0, rank := g.rank, port := 0, ctx := 2 ^ 31, region := g.region, kind := 3, w := migWork ext, cell := none, addr := a
          len := 64, offset := g.next, flag := false, out := s.readDev a 64, seg := none, data := none, key := g.key, sent := false, born := 0 }
  | none => s

/-- A migration taken as far as it can go: fenced once every lease has drained, copied once every line is stored and acknowledged,
released with the unmapping of the source (DEDUCED, assumption 80). -/
def State.advanceMigration (s : State) (ext : Nat) : State :=
  match s.migration ext with
  | none => s
  | some g =>
    let w := migWork ext
    if !s.mayGoOn 3 w then s
    else if g.phase = 0 then
      if (List.range 256).any (fun h => match (s.lease ext h).state with | .held | .fenced => true | _ => false) then s
      else
        let g := { g with phase := 1 }
        (s.setMigration g).endPhase 3 w 1 g.image
    else if g.phase = 1 then
      if (s.routePort g.rank).isNone then s.failMigration ext
      else
        let open' := (s.fabric.requests.filter (fun r => r.w == w)).length
        let s := (List.range (4096 - open')).foldl (fun s _ => s.migrateLine ext) s
        match s.migration ext with
        | some g =>
          if g.next = 2 ^ 30 ∧ s.fabric.requests.all (fun r => r.w != w) = true then
            let g := { g with phase := 2 }
            (s.setMigration g).endPhase 3 w 2 g.image
          else s
        | none => s
    else
      let s := if (s.extent ext).state = 1 then s.unmap ext else s
      let s := s.endPhase 3 w 3 { g with phase := 3 }.image
      let s := if s.partner.isNone then s.endRequest 3 w else s
      s.dropMigration ext

/-- A migration's first phases follow one another where nothing is waited for. -/
def State.driveMigration (s : State) (ext : Nat) : State := ((s.advanceMigration ext).advanceMigration ext).advanceMigration ext

/-- WL_MIGRATE_CMD: a MAPPED extent's leases are fenced, and its migration begins; the key is WL_IMAGE's. A command for an extent
that is not MAPPED or migrates already has no effect (DEDUCED, assumption 80). -/
def wlMigrateCmdSt (mp : MgmtPort) (value : Reg) (s : State) : State :=
  s.setup mp fun s =>
    let v := value.toNat
    let ext := bits v 12 0
    if (s.extent ext).state ≠ 1 ∨ (s.migration ext).isSome then s
    else
      let held := (List.range 256).filter (fun h => (s.lease ext h).state = .held)
      let s := held.foldl (fun s h => s.fence ext h) s
      let g : Migration :=
        { ext, rank := bits v 27 16, region := bits v 43 32, key := (s.stored 0x0809018).toNat, phase := 0, next := 0 }
      ({ s with fabric := { s.fabric with migrations := s.fabric.migrations ++ [g] } }.createRequest 3 (migWork ext)).driveMigration ext

def execWlMigrateCmd (mp : MgmtPort) (value : Reg) (s : State) : Out := .next (wlMigrateCmdSt mp value s)

/-! ### Responses at the source (R526, R528, R531, R535) -/

/-- What an answer lets go on: stores and segments held back, and a migration. -/
def State.afterAnswer (s : State) (r : WlReq) : State :=
  let s := s.sendStores r.ctx r.rank
  let s := (s.fabric.streams.filter (fun x => x.ctx == r.ctx && x.rank == r.rank)).foldl (fun s x => s.pumpStream x.ctx x.region x.rank) s
  if 2 ^ 72 ≤ r.w then s.driveMigration (r.w - 2 ^ 72) else s

/-- A request answered with a status and its data: kept with its data for the access that waits for it, or done, or failed. -/
def State.endReq (s : State) (r : WlReq) (status : Nat) (data : Bytes) : State :=
  let rest := s.fabric.requests.filter (fun q => q.tag != r.tag)
  if status = 0 then
    if r.cell = none ∧ (r.kind = 3 ∨ r.kind = 1 ∧ s.runs.any (fun q => q.w == r.w) = true) then s.setRequests rest
    else
      let s := s.setRequests (s.fabric.requests.map (fun q => if q.tag = r.tag then { q with data := some data } else q))
      if r.w = noWork then s.replicaArrived r.region ((r.addr - 2 ^ 80) / 2 ^ 16) else s
  else
    let s := s.setRequests rest
    if 2 ^ 72 ≤ r.w then s.failMigration (r.w - 2 ^ 72) else s.accessFails r.w r.cell (wlOutcome status (s.isRun r.w))

/-- The outstanding request a response answers. -/
def State.answered (s : State) (m : Msg) (kind : Nat) : Option WlReq :=
  s.fabric.requests.find? (fun r => r.tag == m.tag && r.rank == m.src && r.kind == kind && r.data.isNone && r.seg.isNone)

/-- The status of a response: POISON in its flags counts as the status of that name. -/
def msgOutcome (m : Msg) : Nat := if m.status = 0 ∧ bit m.flags 1 = true then 2 else m.status

/-- A response to a request of a kind. -/
def State.response (s : State) (port type kind : Nat) (m : Msg) : State :=
  s.message port type m fun s =>
    match s.answered m kind with
    | some r =>
      if 2 ^ 80 ≤ r.addr ∧ msgOutcome m = 0 ∧ m.payload = [] then s.rowMissing r
      else (s.endReq r (msgOutcome m) (slice m.payload 0 (if kind = 3 then 0 else r.len))).afterAnswer r
    | none => s

def execLoadData (port : Nat) (m : Msg) (s : State) : Out := .next (s.response port 2 1 m)
def execStoreAck (port : Nat) (m : Msg) (s : State) : Out := .next (s.response port 4 3 m)
def execAtomicData (port : Nat) (m : Msg) (s : State) : Out := .next (s.response port 6 5 m)

/-- The records of an answered segment in order: those before the failing one have succeeded, its loads taking their data in
turn; it and all later ones fail with the status (DEDUCED, assumption 74). -/
def State.endRecords (s : State) (fail status : Nat) : (i : Nat) → List WlReq → Bytes → State
  | _, [], _ => s
  | i, r :: t, data =>
    let n := if r.kind = 1 then r.len else 0
    let s := if i < fail then s.endReq r 0 (slice data 0 n) else s.endReq r status []
    State.endRecords s fail status (i + 1) t (data.drop n)

/-- SEGMENT_DATA (R534, R535): the segment is known by the tag of its first record. -/
def segmentDataSt (port : Nat) (m : Msg) (s : State) : State :=
  s.message port 9 m fun s =>
    match s.fabric.requests.find? (fun r => r.tag == m.tag && r.rank == m.src && r.seg.isSome && r.data.isNone) with
    | some r =>
      let rs := s.fabric.requests.filter (fun q => q.ctx == r.ctx && q.region == r.region && q.rank == r.rank && q.seg == r.seg && q.data.isNone)
      let x := s.stream r.ctx r.region r.rank
      let s := s.setStream { x with inFlight := x.inFlight.filter (fun n => some n != r.seg) }
      ((s.endRecords (fld m.payload 0 4) (if (msgOutcome m) = 0 then 1 else (msgOutcome m)) 0 rs (m.payload.drop 4))).afterAnswer r
    | none => s

def execSegmentData (port : Nat) (m : Msg) (s : State) : Out := .next (segmentDataSt port m s)

/-- SEGMENT_TIMEOUT (R533): the oldest record of an open segment has waited 128 cycles. -/
def segmentTimeoutSt (ctx region rank : Nat) (s : State) : State :=
  match s.openReqs (s.stream ctx region rank) with
  | r :: _ => if r.born + 64 * s.cclkHalfNs ≤ s.time.now then s.closeSegment ctx region rank else s
  | [] => s

def execSegmentTimeout (ctx region rank : Nat) (s : State) : Out := .next (segmentTimeoutSt ctx region rank s)

/-- Requests that end with ABORTED_VIEW_CHANGE (R511), whatever became of them. -/
def State.loseRequests (s : State) (lost : WlReq → Bool) : State :=
  let rs := s.fabric.requests.filter (fun r => lost r && r.data.isNone)
  let tags := rs.map (·.tag)
  let s := s.setRequests (s.fabric.requests.filter (fun r => !tags.contains r.tag))
  let segs := rs.filterMap (fun r => r.seg.map (fun n => (r.ctx, r.region, r.rank, n)))
  let s : State := { s with fabric := { s.fabric with
    streams := s.fabric.streams.map (fun x => { x with
      open_ := x.open_.filter (fun t => !tags.contains t)
      inFlight := x.inFlight.filter (fun n => !segs.contains (x.ctx, x.region, x.rank, n)) }) } }
  rs.foldl (fun s r => if 2 ^ 72 ≤ r.w then s.failMigration (r.w - 2 ^ 72) else s.accessFails r.w r.cell 0x50) s

/-- FPORT_LINK_DOWN (R511): a port that leaves link-up. Queries forwarded through it end at the coordinator as R511 gives
(DEDUCED, assumption 81). -/
def State.fportDown (s : State) (port : Nat) : State :=
  let ranks := (s.groups.flatMap (fun g => g.sentTo.map (·.2))).filter (fun r => r != s.myRank && bits (s.route r) 3 0 == port && bit (s.route r) 15)
  let s := s.setPort port { s.port port with up := false, width := 0, rate := 0 }
  let s := s.loseRequests (fun r => r.port == port)
  let s := s.groups.foldl (fun s g =>
    (g.sentTo.filter (fun p => ranks.contains p.2 && !g.partials.any (fun q => q.shard == p.1))).foldl
      (fun s p => s.keepPartial g.w (Partial.failed p.1 0x50)) s) s
  s.groups.foldl (fun s g => s.advanceGroup g.w) s

def fportLinkDownSt (port : Nat) (s : State) : State :=
  if s.portClass port = 2 ∧ (s.port port).up = true then s.fportDown port else s

def execFportLinkDown (port : Nat) (s : State) : Out := .next (fportLinkDownSt port s)

/-! ### WL_CMD (R513–R518) -/

/-- Region and window images (Tables 13.1 and 13.2). -/
def Region.image (g : Region) : Bytes :=
  toLe 1 g.state ++ toLe 1 g.perm ++ toLe 2 g.tenancy ++ toLe 4 0 ++ toLe 8 g.base ++ toLe 8 g.length ++ toLe 8 g.key
def Window.image (w : Window) : Bytes :=
  toLe 1 w.state ++ toLe 1 w.homeDen ++ toLe 2 w.tenancy ++ toLe 2 w.rank ++ toLe 2 w.region ++ toLe 8 w.offset ++ toLe 8 w.length ++
    toLe 8 w.key

/-- WL_CMD of an id: the image is at 0x080_9000. -/
def State.wlCommand (s : State) (mp : MgmtPort) (i : Instr) (id : Nat) (f : Bytes → State → State) : State :=
  s.command mp .wl i fun s => if 4096 ≤ id then s else f (s.image 0x0809000 4) s

def wlReadRegionSt (mp : MgmtPort) (id : Nat) (s : State) : State :=
  s.wlCommand mp (.wlReadRegion mp id) id fun _ s => s.loadImage 0x0809000 (s.region id).image 4
def execWlReadRegion (mp : MgmtPort) (id : Nat) (s : State) : Out := .next (wlReadRegionSt mp id s)

def wlReadWindowSt (mp : MgmtPort) (id : Nat) (s : State) : State :=
  s.wlCommand mp (.wlReadWindow mp id) id fun _ s => s.loadImage 0x0809000 (s.window id).image 4
def execWlReadWindow (mp : MgmtPort) (id : Nat) (s : State) : Out := .next (wlReadWindowSt mp id s)

/-- Every byte of a range is owned by the tenancy (R475, R514). -/
def State.ownsAll (s : State) (t a n : Nat) : Bool :=
  if a / 2 ^ 48 = 2 then
    let e := a % 2 ^ 48 / 2 ^ 30
    (List.range ((a % 2 ^ 30 + n - 1) / 2 ^ 30 + 1)).all (fun i =>
      decide (e + i < 8192) && (s.extent (e + i)).state == 1 && (s.extent (e + i)).tenancy == t)
  else
    (sweep a (a + n) (sortBy (fun a b => decide (a.1 < b.1)) [s.hbmAllot t 0, s.hbmAllot t 1, s.ddrAllot t 0, s.ddrAllot t 1])).isEmpty

/-- The fields of an export are legal and its bytes its tenancy's (Table 13.1, R514). -/
def State.exportOk (s : State) (g : Region) : Bool :=
  decide (g.perm < 8 ∧ 0 < g.tenancy ∧ g.tenancy < 512) && addrClass g.base == 3 && addrLegal g.base && g.base % 4096 == 0 &&
    g.length % 4096 == 0 && decide (4096 ≤ g.length ∧ g.length ≤ 2 ^ 44) && s.ownsAll g.tenancy (g.base % 2 ^ 56) g.length

/-- EXPORT: CAUSE 1 for the state, 2 for R514 (DEDUCED, assumption 78). -/
def wlExportSt (mp : MgmtPort) (id : Nat) (s : State) : State :=
  s.wlCommand mp (.wlExport mp id) id fun b s =>
    let g : Region :=
      { state := 1, perm := fld b 1 1, tenancy := fld b 2 2, base := fld b 8 8, length := fld b 16 8, key := fld b 24 8, newKey := none }
    if (s.region id).state ≠ 0 then s.cmdFail .wl 1
    else if s.exportOk g then s.setRegion id g else s.cmdFail .wl 2
def execWlExport (mp : MgmtPort) (id : Nat) (s : State) : Out := .next (wlExportSt mp id s)

/-- A region that takes no further request (R517). -/
def State.withdraw (s : State) (id : Nat) : State := (s.setRegion id { s.region id with state := 2 }).settleRegion id

def wlWithdrawSt (mp : MgmtPort) (id : Nat) (s : State) : State :=
  s.wlCommand mp (.wlWithdraw mp id) id fun _ s => if (s.region id).state = 1 then s.withdraw id else s.cmdFail .wl 1
def execWlWithdraw (mp : MgmtPort) (id : Nat) (s : State) : Out := .next (wlWithdrawSt mp id s)

/-- REKEY: the key changes at the next frame boundary (R516). -/
def wlRekeySt (mp : MgmtPort) (id : Nat) (s : State) : State :=
  s.wlCommand mp (.wlRekey mp id) id fun b s =>
    if (s.region id).state = 1 then s.setRegion id { s.region id with newKey := some (fld b 24 8) } else s.cmdFail .wl 1
def execWlRekey (mp : MgmtPort) (id : Nat) (s : State) : Out := .next (wlRekeySt mp id s)

/-- The new keys in force from a frame boundary on (R516). -/
def State.applyRekeys (s : State) : State :=
  { s with fabric := { s.fabric with
      regions := s.fabric.regions.map (fun e => (e.1, match e.2.newKey with | some k => { e.2 with key := k, newKey := none } | none => e.2)) } }

/-- The home den of a window (R520): on the die of the route's F-port, the den with the fewest windows, the lowest on a tie. -/
def State.windowDen (s : State) (rank : Nat) : Nat :=
  let die := portDie (bits (s.route rank) 3 0)
  let count := fun d => (s.fabric.windows.filter (fun w => w.2.state != 0 && w.2.homeDen == d)).length
  (bestBy (fun a b => decide (count a < count b)) ([0, 1, 2, 3].map (· + 4 * die))).getD 0

/-- IMPORT: CAUSE 1 for the state, 4 for a tenancy not BOUND, a rank without route or an illegal image
(DEDUCED, assumption 78). -/
def wlImportSt (mp : MgmtPort) (id : Nat) (s : State) : State :=
  s.wlCommand mp (.wlImport mp id) id fun b s =>
    let w : Window :=
      { state := 1, homeDen := 0, tenancy := fld b 2 2, rank := fld b 4 2, region := fld b 6 2, offset := fld b 8 8, length := fld b 16 8
        key := fld b 24 8 }
    if (s.window id).state = 1 then s.cmdFail .wl 1
    else if decide (0 < w.tenancy ∧ w.tenancy < 512 ∧ w.rank < 4096 ∧ w.region < 4096 ∧ w.length ≤ 2 ^ 30) && s.bound w.tenancy &&
        bit (s.route w.rank) 15 && w.offset % 4096 == 0 && w.length % 4096 == 0 then
      { s with fabric := { s.fabric with windows := tset s.fabric.windows id { w with homeDen := s.windowDen w.rank } } }
    else s.cmdFail .wl 4
def execWlImport (mp : MgmtPort) (id : Nat) (s : State) : Out := .next (wlImportSt mp id s)

/-- UNBIND: a BOUND or DOWN window becomes FREE. -/
def wlUnbindSt (mp : MgmtPort) (id : Nat) (s : State) : State :=
  s.wlCommand mp (.wlUnbind mp id) id fun _ s =>
    if (s.window id).state = 0 then s.cmdFail .wl 1
    else { s with fabric := { s.fabric with windows := tdel s.fabric.windows id } }
def execWlUnbind (mp : MgmtPort) (id : Nat) (s : State) : Out := .next (wlUnbindSt mp id s)

end Sys2Proof.Machine
end

