-- ==== Sys2Proof/Machine/Members.lean ====
section
/-!
DEFINITION. Membership and request state: heartbeats, suspicions, proposals, votes, the installation of a view, and the copies and
owners of multi-phase requests (R540–R556).
-/

namespace Sys2Proof.Machine

/-! ### Members -/

/-- A MEMBERS bitmap of 512 bytes, and the members it lists in ascending order. -/
def memberBytes (ms : List Nat) : Bytes := toLe 512 ((ms.map (2 ^ ·)).sum)
def memberList (b : Bytes) : List Nat :=
  (List.range 4096).filter (fun r => bit ((b.getD (r / 8) 0).toNat) (r % 8))

/-- A control message to a rank. -/
def State.sendControl (s : State) (rank type : Nat) (payload : Bytes) : State :=
  s.sendTo rank type (s.mkMsg rank 0 0 0 0 s.domainKey (2 ^ 31) payload)

/-- The members that follow a rank in ascending circular order, nearest first. -/
def followers (ms : List Nat) (rank : Nat) : List Nat :=
  sortBy (fun a b => decide ((a + 4096 - rank - 1) % 4096 < (b + 4096 - rank - 1) % 4096)) (ms.filter (· != rank))

/-- The watchers of a rank: the two members that follow it, or the single other one (R541). -/
def watchers (ms : List Nat) (rank : Nat) : List Nat := (followers ms rank).take 2

/-- This device is in its view. -/
def State.isMember (s : State) : Bool := s.fabric.members.contains s.myRank

/-- The payload that names this device's installed view: VIEW, INSTALL_FRAME, reserved bytes, MEMBERS. -/
def viewPayload (view frame : Nat) (ms : List Nat) : Bytes := toLe 4 view ++ toLe 4 frame ++ toLe 56 0 ++ memberBytes ms

/-- Heartbeats to the watchers of this device (R541). -/
def State.sendHeartbeats (s : State) : State :=
  if s.isMember then
    (watchers s.fabric.members s.myRank).foldl
      (fun s r => s.sendControl r 0x11 (viewPayload s.fabric.view s.fabric.viewFrame s.fabric.members)) s
  else s

/-! ### Exclusion (R548) -/

/-- A device excluded: it says so, ends forwarded work and the multi-phase requests it owns, and releases their records. -/
def State.exclude (s : State) : State :=
  if s.fabric.excluded then s
  else
    let s := { s with fabric := { s.fabric with excluded := true, reinit := false } }.setFlag mbrStatus 10
    let mine := (s.fabric.owned.filter (·.acquired)).map (·.w)
    { s with
      works := (s.works.filter (fun x => x.origin.isNone)).map (fun x =>
        if mine.contains x.id && x.result.isNone then { x with result := some (Result.err 0x50 0) } else x)
      slots := { s.slots with waits := s.slots.waits.filter (fun v => !mine.contains v.w && !s.works.any (fun x => x.id == v.w && x.origin.isSome)) }
      groups := s.groups.filter (fun g => !mine.contains g.w)
      tables := s.tables.map (fun e => (e.1, match e.2.stepEnd with
        | some p => if mine.contains p.w then { e.2 with stepEnd := none, endStep := e.2.doneStep } else e.2
        | none => e.2))
      fabric := { s.fabric with
        fwdWait := [], migrations := []
        owned := s.fabric.owned.map (fun o => if o.acquired then { o with acquired := false, orphaned := 1 } else o) } }

/-! ### Views that this device learns of (R546) -/

/-- A view of a higher number: it is installed at its frame, or at the next boundary if that is past; a view that does not list this
device excludes it. -/
def State.learnView (s : State) (view frame : Nat) (ms : List Nat) : State :=
  if view ≤ s.fabric.view then s
  else if !ms.contains s.myRank then (if s.fabric.members = [] then s else s.exclude)
  else if s.fabric.install.any (fun i => decide (view ≤ i.1)) then s
  else
    let f := (extendFrame s.frame frame).toNat
    { s with fabric := { s.fabric with install := some (view, ms, if s.frame < f then f else s.frame + 1) } }

/-- HEARTBEAT (R541, R546). -/
def heartbeatSt (port : Nat) (m : Msg) (s : State) : State :=
  s.message port 0x11 m fun s =>
    let s := { s with fabric := { s.fabric with lastBeat := tset s.fabric.lastBeat m.src s.frame } }
    s.learnView (fld m.payload 0 4) (fld m.payload 4 4) (memberList (m.payload.drop 64))

def execHeartbeat (port : Nat) (m : Msg) (s : State) : Out := .next (heartbeatSt port m s)

/-! ### Suspicion (R541, R544) -/

/-- A round of a view change is running here. -/
def State.inRound (s : State) : Bool := s.fabric.proposal.isSome || s.fabric.install.isSome

/-- A rank suspected for the first time: announced to every member, and held for the next view change during a round. -/
def State.suspectRank (s : State) (r : Nat) : State :=
  if !s.isMember || !s.fabric.members.contains r || s.fabric.suspects.contains r || s.fabric.heldSusp.contains r then s
  else
    let s := if s.inRound then { s with fabric := { s.fabric with heldSusp := s.fabric.heldSusp ++ [r] } }
      else { s with fabric := { s.fabric with suspects := s.fabric.suspects ++ [r] } }
    (s.fabric.members.filter (· != s.myRank)).foldl (fun s q => s.sendControl q 0x12 (toLe 2 r ++ toLe 62 0)) s

/-- SUSPECT_TIMEOUT: this device watches the rank, and 64 whole frames have passed without its heartbeat. -/
def suspectTimeoutSt (r : Nat) (s : State) : State :=
  let last := tgetD s.fabric.lastBeat r s.fabric.viewFrame
  if (watchers s.fabric.members r).contains s.myRank && decide (last + 65 ≤ s.frame) then s.suspectRank r else s

def execSuspectTimeout (rank : Nat) (s : State) : Out := .next (suspectTimeoutSt rank s)

/-- SUSPECT: the rank named is suspected here too. -/
def suspectSt (port : Nat) (m : Msg) (s : State) : State :=
  s.message port 0x12 m fun s => s.suspectRank (fld m.payload 0 2 % 4096)

def execSuspect (port : Nat) (m : Msg) (s : State) : Out := .next (suspectSt port m s)

/-! ### Proposals and votes (R542–R545) -/

/-- Quorum (R542): more than half of the view, or exactly half with its lowest-ranked member. -/
def quorum (view m : List Nat) : Bool :=
  let n := (m.filter view.contains).length
  decide (view.length < 2 * n) ||
    (decide (2 * n = view.length) && (match bestBy (fun a b => decide (a < b)) view with | some r => m.contains r | none => false))

/-- No quorum: the flag and its event, from the frame in which it was first missed (R542). -/
def State.lackQuorum (s : State) : State :=
  let s := { s with fabric := { s.fabric with proposal := none } }
  if s.fabric.noQuorum then s
  else { s with fabric := { s.fabric with noQuorum := true, noQuorumSince := s.frame } }.setFlag mbrStatus 9

/-- A proposal that every member has accepted is committed: COMMIT with the frame of sending plus 4 (R545). -/
def State.tryCommit (s : State) : State :=
  match s.fabric.proposal with
  | some p =>
    if p.proposer = s.myRank ∧ p.committed = false ∧ p.members.all p.accepted.contains = true then
      let f := s.frame + 4
      let s := { s with fabric := { s.fabric with
        proposal := some { p with committed := true, round2 := [s.myRank] }, install := some (p.view, p.members, f) } }
      (p.members.filter (· != s.myRank)).foldl (fun s r => s.sendControl r 0x15 (viewPayload p.view f p.members)) s
    else s
  | none => s

/-- A proposal of a member list sent, if it has quorum. -/
def State.proposeTo (s : State) (ms : List Nat) : State :=
  let v := s.fabric.view + 1
  if quorum s.fabric.members ms then
    let p : Proposal :=
      { view := v, proposer := s.myRank, members := ms, frame := s.frame, accepted := [s.myRank], round2 := [], committed := false }
    let s := { s with fabric := { s.fabric with proposal := some p, noQuorum := false } }
    ((ms.filter (· != s.myRank)).foldl (fun s r => s.sendControl r 0x13 (toLe 4 v ++ toLe 2 s.myRank ++ toLe 58 0 ++ memberBytes ms)) s).tryCommit
  else s.lackQuorum

/-- The lowest-ranked member that is not suspected. -/
def State.proposer (s : State) : Option Nat :=
  bestBy (fun a b => decide (a < b)) (s.fabric.members.filter (fun r => !s.fabric.suspects.contains r))

/-- The proposer's part of a frame boundary (R542, R549) (DEDUCED, assumption 82). -/
def State.tryPropose (s : State) : State :=
  if s.inRound || s.fabric.excluded || s.proposer != some s.myRank || (s.fabric.suspects = [] && s.fabric.joiner.isNone) then s
  else
    let ms := s.fabric.members.filter (fun r => !s.fabric.suspects.contains r)
    s.proposeTo (match s.fabric.joiner with
      | some j => if ms.contains j then ms else insertBy (fun a b => decide (a < b)) j ms
      | none => ms)

/-- A vote sent. -/
def State.vote (s : State) (rank view round : Nat) (accept : Bool) : State :=
  s.sendControl rank 0x14 (toLe 4 view ++ toLe 1 round ++ toLe 1 (b2n accept) ++ toLe 58 0)

/-- PROPOSE (R543): a member named in it accepts unless it has installed such a view or accepted a lower-ranked proposer. -/
def proposeSt (port : Nat) (m : Msg) (s : State) : State :=
  s.message port 0x13 m fun s =>
    let v := fld m.payload 0 4
    let from' := fld m.payload 4 2 % 4096
    let ms := memberList (m.payload.drop 64)
    if !ms.contains s.myRank then s
    else
      let taken := match s.fabric.proposal with
        | some p => decide (p.view = v ∧ p.proposer < from') || decide (v < p.view)
        | none => false
      if decide (v ≤ s.fabric.view) || taken then s.vote from' v 1 false
      else
        let p : Proposal := { view := v, proposer := from', members := ms, frame := s.frame, accepted := [], round2 := [], committed := false }
        { s with fabric := { s.fabric with proposal := some p } }.vote from' v 1 true

def execPropose (port : Nat) (m : Msg) (s : State) : Out := .next (proposeSt port m s)

/-- VOTE: the proposer counts accepts; a reject in round 1 ends its proposal (R543, R545). -/
def voteSt (port : Nat) (m : Msg) (s : State) : State :=
  s.message port 0x14 m fun s =>
    match s.fabric.proposal with
    | some p =>
      if p.proposer ≠ s.myRank ∨ p.view ≠ fld m.payload 0 4 ∨ p.members.contains m.src = false then s
      else if fld m.payload 4 1 = 2 then
        { s with fabric := { s.fabric with proposal := some { p with round2 := if p.round2.contains m.src then p.round2 else p.round2 ++ [m.src] } } }
      else if p.committed then s
      else if fld m.payload 5 1 = 0 then { s with fabric := { s.fabric with proposal := none } }
      else
        { s with fabric := { s.fabric with
            proposal := some { p with accepted := if p.accepted.contains m.src then p.accepted else p.accepted ++ [m.src] } } }.tryCommit
    | none => s

def execVote (port : Nat) (m : Msg) (s : State) : Out := .next (voteSt port m s)

/-- COMMIT (R545): the receiver votes in round 2 and installs the view at the boundary that begins INSTALL_FRAME. -/
def commitSt (port : Nat) (m : Msg) (s : State) : State :=
  s.message port 0x15 m fun s =>
    let v := fld m.payload 0 4
    let ms := memberList (m.payload.drop 64)
    if v ≤ s.fabric.view ∨ ms.contains s.myRank = false then s
    else
      let f := (extendFrame s.frame (fld m.payload 4 4)).toNat
      { s with fabric := { s.fabric with install := some (v, ms, if s.frame < f then f else s.frame + 1) } }.vote m.src v 2 true

def execCommit (port : Nat) (m : Msg) (s : State) : Out := .next (commitSt port m s)

/-- PROPOSE_TIMEOUT (R544): 32 frames without some votes; the missing members leave the list, and it is proposed again. -/
def proposeTimeoutSt (s : State) : State :=
  match s.fabric.proposal with
  | some p =>
    if p.proposer = s.myRank ∧ p.committed = false ∧ p.frame + 32 ≤ s.frame ∧ p.members.all p.accepted.contains = false then
      s.proposeTo (p.members.filter p.accepted.contains)
    else s
  | none => s

def execProposeTimeout (s : State) : Out := .next (proposeTimeoutSt s)

/-- NO_QUORUM_EXCLUDE (R548): NO_QUORUM held for 256 frames. -/
def noQuorumExcludeSt (s : State) : State :=
  if s.fabric.noQuorum && decide (s.fabric.noQuorumSince + 256 ≤ s.frame) then s.exclude else s

def execNoQuorumExclude (s : State) : Out := .next (noQuorumExcludeSt s)

/-! ### Requests taken over (R553–R556) -/

/-- The number a resumed request goes by on the device that resumes it. -/
def resumedWork (o : Owned) : Nat := 2 ^ 73 + o.owner * 2 ^ 32 + o.serial

/-- A request acquired and resumed from the first phase its copy has not completed (Table 13.10). -/
def State.acquire (s : State) (o : Owned) : State :=
  let o := { o with acquired := true, view := s.fabric.view, orphaned := 0, w := resumedWork o, partner := s.partner.getD s.myRank, acked := true }
  let s := s.setRequest o
  match o.kind with
  | 1 => s.resumeGroup (readGroup o.w (2 ^ 23 + s.nextWork % 2 ^ 23) o.image)
  | 2 =>
    let s := if o.phase = 1 then s.resumeStep o.owner o.image else s
    (s.logTakeover 2 o.w o.phase 2 (fld o.image 11 4)).endRequest 2 o.w
  | _ => (s.logTakeover 3 o.w o.phase (if 2 ≤ o.phase then 0 else 0x50) 0).endRequest 3 o.w

/-- A request's state as its present owner would copy it. -/
def State.requestImage (s : State) (o : Owned) : Bytes :=
  match o.kind with
  | 1 => ((s.group o.w).map GroupSearch.image).getD o.image
  | 2 => ((s.tables.findSome? (fun e => e.2.stepEnd.bind (fun p => if p.w = o.w then some (stepImage e.1 e.2 p) else none)))).getD o.image
  | _ => ((s.fabric.migrations.find? (fun g => migWork g.ext == o.w)).map Migration.image).getD o.image

/-- The requests at the installation of a view (R551–R554): owners write ACQUIRED at it and send their copies to a new partner;
a copy whose owner has left is taken over by the device that was the owner's partner; a copy whose owner has another partner now is
dropped (DEDUCED, assumption 82). -/
def State.reviewRequests (s : State) (lost : List Nat) : State :=
  s.fabric.owned.foldl (fun s o =>
    if o.acquired then
      let p := s.partner.getD s.myRank
      let o' := { o with view := s.fabric.view, partner := p, acked := s.partner.isNone || (o.acked && p == o.partner) }
      let s := s.setRequest o'
      if p ≠ o.partner ∧ s.partner.isSome = true ∧ o.phase ≠ 0 then (s.setRequest { o' with acked := false }).sendCopy o' (s.requestImage o) else s
    else if lost.contains o.partner then s.acquire o
    else if o.orphaned = 0 ∧ nextMember s.fabric.members o.partner ≠ some s.myRank then
      { s with fabric := { s.fabric with owned := s.fabric.owned.filter (fun q => !(q.owner == o.owner && q.serial == o.serial)) } }
    else s) s

/-! ### The installation of a view (R545, R550) -/

/-- What Table 13.9 gives for departed members (DEDUCED, assumption 77). -/
def State.departures (s : State) (lost : List Nat) : State :=
  let s := s.loseRequests (fun r => lost.contains r.rank)
  let drops := (s.fabric.flagWait.filter (fun h => lost.contains h.msg.src)).length
  let s : State := { s with fabric := { s.fabric with
    windows := s.fabric.windows.map (fun e => (e.1, if e.2.state = 1 ∧ lost.contains e.2.rank then { e.2 with state := 2 } else e.2))
    flagWait := s.fabric.flagWait.filter (fun h => !lost.contains h.msg.src)
    storeIn := s.fabric.storeIn.filter (fun q => !lost.contains q.src)
    streamsIn := s.fabric.streamsIn.filter (fun q => !lost.contains q.src)
    storeOut := s.fabric.storeOut.filter (fun e => !lost.contains (e.1 % 4096))
    streams := s.fabric.streams.filter (fun x => !lost.contains x.rank) } }
  let s := if drops = 0 then s else s.bump 0x0809088 drops
  s.fabric.regions.foldl (fun s e => s.settleRegion e.1) s

/-- A view installed: MBR_VIEW, its event, and every effect on what involved a departed member. -/
def State.installView (s : State) (view frame : Nat) (ms : List Nat) : State :=
  let old := s.fabric.members
  let lost := old.filter (fun r => !ms.contains r)
  let watched := fun (l : List Nat) (r : Nat) => (watchers l r).contains s.myRank
  let s := { s with fabric := { s.fabric with
    view, members := ms, viewFrame := frame, install := none, proposal := none, noQuorum := false
    suspects := s.fabric.heldSusp.filter ms.contains, heldSusp := []
    joiner := s.fabric.joiner.filter (fun j => !ms.contains j)
    lastBeat := s.fabric.lastBeat.filter (fun e => watched old e.1 && watched ms e.1) } }.setFlag mbrStatus 8
  let s := (s.departures lost).dropMarkers lost
  let s := s.reviewRequests lost
  let s := s.reviewGroups
  s.tables.foldl (fun s e => s.advanceStep e.1) s

/-- VIEW_INSTALL: the boundary of the frame has come; a view that lists this device ends its exclusion, if the operator has written MBR_INIT
since (R548). -/
def viewInstallSt (s : State) : State :=
  match s.fabric.install with
  | some (v, ms, f) =>
    if f ≤ s.frame then
      let s := { s with fabric := { s.fabric with excluded := s.fabric.excluded && !(s.fabric.reinit && ms.contains s.myRank) } }
      s.installView v f ms
    else s
  | none => s

def execViewInstall (s : State) : Out := .next (viewInstallSt s)

/-- MBR_CMD INIT: MBR_INIT is installed as it stands (R540) (DEDUCED, assumption 82). -/
def mbrInitSt (mp : MgmtPort) (s : State) : State :=
  s.setup mp fun s =>
    let ms := (List.range 4096).filter (fun r => (s.stored (0x080C100 + 8 * (r / 64))).getLsbD (r % 64))
    { s with fabric := { s.fabric with reinit := true } }.installView (s.stored 0x080C018).toNat s.frame ms

def execMbrInit (mp : MgmtPort) (s : State) : Out := .next (mbrInitSt mp s)

/-- MBR_CMD JOIN, on the lowest-ranked member (R549): a rank that is no member is proposed at the next frame boundary. -/
def mbrJoinSt (mp : MgmtPort) (rank : Nat) (s : State) : State :=
  s.setup mp fun s =>
    if bestBy (fun a b => decide (a < b)) s.fabric.members = some s.myRank ∧ s.fabric.members.contains rank = false then
      { s with fabric := { s.fabric with joiner := some (rank % 4096) } }
    else s

def execMbrJoin (mp : MgmtPort) (rank : Nat) (s : State) : Out := .next (mbrJoinSt mp rank s)

/-! ### Copies and owners (R551, R552, R554) -/

/-- The request a payload names: owner and serial. -/
def payloadId (b : Bytes) : Nat × Nat := (fld b 0 8 / 2 ^ 32 % 4096, fld b 0 8 % 2 ^ 32)

/-- The record of a request, as owner or as holder of its copy. -/
def State.recordOf (s : State) (id : Nat × Nat) : Option Owned :=
  s.fabric.owned.find? (fun o => o.owner == id.1 && o.serial == id.2)

/-- An acknowledgement of a copy. -/
def State.ackCopy (s : State) (rank : Nat) (o : Owned) (phase : Nat) : State := s.sendControl rank 0x19 (toLe 8 o.id ++ toLe 1 phase)

/-- STATE_COPY (R523, R551, R555): kept by fragment; acknowledged once whole; a phase already held is acknowledged again. A copy of the
last phase ends the record. -/
def stateCopySt (port : Nat) (m : Msg) (s : State) : State :=
  s.message port 0x18 m fun s =>
    let p := m.payload
    let id := payloadId p
    let phase := fld p 9 1
    let o := (s.recordOf id).getD
      { owner := id.1, serial := id.2, kind := fld p 8 1, phase := 0, acquired := false, view := m.view, partner := m.src, acked := false
        orphaned := 0, w := 0, image := [], fragPhase := 0, frags := [] }
    if o.acquired then s
    else if (s.recordOf id).isSome && decide (phase ≤ o.phase) then s.ackCopy m.src o phase
    else
      let old := if o.fragPhase = phase then o.frags else []
      let i := fld p 10 2
      let frags := insertBy (fun a b => decide (a.1 < b.1)) (i, p.drop 64) (old.filter (fun f => f.1 != i))
      let whole := decide (fld p 12 2 ≤ frags.length)
      let o := { o with view := m.view, partner := m.src, orphaned := 0 }
      let o := if whole then { o with phase, image := (frags.map (·.2)).flatten, fragPhase := 0, frags := [] }
        else { o with fragPhase := phase, frags := frags }
      let others := s.fabric.owned.filter (fun q => !(q.owner == o.owner && q.serial == o.serial))
      let s := { s with fabric := { s.fabric with owned := if whole && phase == 3 then others else others ++ [o] } }
      if whole then s.ackCopy m.src o phase else s

def execStateCopy (port : Nat) (m : Msg) (s : State) : Out := .next (stateCopySt port m s)

/-- STATE_ACK (R551): the next phase may start; after the last phase the record ends. -/
def stateAckSt (port : Nat) (m : Msg) (s : State) : State :=
  s.message port 0x19 m fun s =>
    match s.recordOf (payloadId m.payload) with
    | some o =>
      if !o.acquired || o.acked || o.partner != m.src || o.phase != fld m.payload 8 1 then s
      else if o.phase = 3 then s.endRequest o.kind o.w
      else
        let s := s.setRequest { o with acked := true }
        match o.kind with
        | 1 => s.advanceGroup o.w
        | 2 => s.tables.foldl (fun s e => match e.2.stepEnd with
            | some p => if p.w = o.w then s.advanceStep e.1 else s
            | none => s) s
        | _ => s.driveMigration (o.w - 2 ^ 72)
    | none => s

def execStateAck (port : Nat) (m : Msg) (s : State) : Out := .next (stateAckSt port m s)

/-- OWN (R554): the other holder's mark. RELEASED, or ACQUIRED at an earlier view, leaves the request without an owner; ACQUIRED at the
current view gives it one. -/
def ownSt (port : Nat) (m : Msg) (s : State) : State :=
  s.message port 0x1A m fun s =>
    match s.recordOf (payloadId m.payload) with
    | some o =>
      if o.acquired then s
      else if fld m.payload 8 1 = 1 ∧ fld m.payload 9 4 = s.fabric.view then
        (if o.image = [] then { s with fabric := { s.fabric with owned := s.fabric.owned.filter (· != o) } }
         else s.setRequest { o with orphaned := 0, partner := m.src })
      else s.setRequest { o with orphaned := max 1 o.orphaned }
    | none => s

def execOwn (port : Nat) (m : Msg) (s : State) : Out := .next (ownSt port m s)

/-- Requests without an owner at a frame boundary: OWN to the other holder, and one boundary more has passed
(DEDUCED, assumption 82). -/
def State.sendOwns (s : State) : State :=
  s.fabric.owned.foldl (fun s o =>
    if o.acquired || o.orphaned == 0 then s
    else (s.setRequest { o with orphaned := o.orphaned + 1 }).sendControl o.partner 0x1A (toLe 8 o.id ++ toLe 1 0 ++ toLe 4 o.view)) s

/-- OWN_TAKEOVER: two boundaries have passed without an owner, and this device is the lower-ranked holder in the current view
(DEDUCED, assumption 82). -/
def ownTakeoverSt (rank serial : Nat) (s : State) : State :=
  match s.recordOf (rank, serial) with
  | some o =>
    if !o.acquired && decide (3 ≤ o.orphaned) && s.isMember && !s.fabric.excluded &&
        (!s.fabric.members.contains o.partner || decide (s.myRank < o.partner)) then s.acquire o
    else s
  | none => s

def execOwnTakeover (rank serial : Nat) (s : State) : Out := .next (ownTakeoverSt rank serial s)

end Sys2Proof.Machine
end

