-- ==== Sys2Proof/Machine/Sources.lean ====
section
/-!
DEFINITION. What takes port links down, and the commands that change the reference source (R74–R85, R673, R708).
-/

namespace Sys2Proof.Machine

/-! ### Links that go down -/

/-- A port's link goes down: an F-port with what R511 gives, an H-port with PORT_STATUS down. -/
def State.linkDown (s : State) (p : Nat) : State :=
  if (s.port p).up = false then s
  else if s.portClass p = 2 then s.fportDown p
  else s.setPort p { s.port p with up := false, width := 0, rate := 0 }

/-- Every port's link goes down. -/
def State.linksDown (s : State) : State := (List.range 12).foldl State.linkDown s

/-- The source chosen; on the watch oscillator, and while coasting, the links go down (Table 2.8). -/
def State.useSource (s : State) (r : Option RefSource) : State :=
  let s := s.setActive r
  if s.linksRun then s else s.linksDown

/-! ### Switches -/

/-- A switch of the reference source in service, with the flags of R80 and the record of R708
(DEDUCED, assumption 9; DEDUCED, assumption 26). -/
def State.switchTo (s : State) (r : RefSource) : State :=
  let s := (s.useSource (some r)).timeRecord 1
  match r with
  | .port0 => s
  | .port6 => s.setFlag clkStatus 5
  | .xo | .watch => (s.setBit clkStatus 4).raiseNmi 0

/-- A stable source, whose port has trained if it is a recovered one, has passed its monitoring window, and the device switches to the most preferred eligible source (R76): in
service with the report of a switch (R80), before it without one (assumption 9) (DEDUCED, assumption 26). -/
def sourceEligibleSt (r : RefSource) (s : State) : State :=
  let x := s.clock.src r
  let trained := match r with | .port0 => (s.port 0).up | .port6 => (s.port 6).up | _ => true
  if x.stable && trained then
    let s := { s with clock := s.clock.setSrc r { x with eligible := true, failed := false } }
    if s.clock.coast then s
    else if !s.inService then s.useSource s.bestSource
    else match s.bestSource with
      | some b => if s.clock.active = some b then s else s.switchTo b
      | none => s
  else s

def execSourceEligible (src : RefSource) (s : State) : Out := .next (sourceEligibleSt src s)

/-- A source fails a criterion of Table 2.7 (R78): it is neither stable nor eligible. If it is active and the device is in
service, the device switches to the most preferred source that remains (R79, R80); where none remains, which the spec does not
speak of, nothing else changes (DESIGN CHOICE, assumption 102). -/
def sourceFailSt (r : RefSource) (s : State) : State :=
  let s := { s with clock := s.clock.setSrc r { stable := false, eligible := false, failed := true } }
  if s.clock.active = some r ∧ s.inService = true then
    match s.bestSource with
    | some b => s.switchTo b
    | none => s
  else s

def execSourceFail (src : RefSource) (s : State) : Out := .next (sourceFailSt src s)

/-- A more preferred source than the active one is eligible again: the device switches back to it (R83)
(DEDUCED, assumption 26). -/
def sourceSwitchBackSt (s : State) : State :=
  match s.clock.active, s.bestSource with
  | some a, some b => if s.inService && decide (sourceRank b < sourceRank a) then s.switchTo b else s
  | _, _ => s

def execSourceSwitchBack (s : State) : Out := .next (sourceSwitchBackSt s)

/-- The active source has failed outside service: the core PLLs coast (R84) (DEDUCED, assumption 26). -/
def clkCoastSt (s : State) : State :=
  match s.clock.active with
  | some a =>
    if (s.clock.src a).failed && !s.inService then
      (({ s with clock := { s.clock with active := none, coast := true } } : State).linksDown.setFlag clkStatus 7).timeRecord 2
    else s
  | none => s

def execClkCoast (s : State) : Out := .next (clkCoastSt s)

/-- Lock is confirmed on the next eligible source: CLK_COAST clears (R84). -/
def coastRelockSt (s : State) : State :=
  match s.bestSource with
  | some b => if s.clock.coast then { s with clock := { s.clock with active := some b, coast := false } } else s
  | none => s

def execCoastRelock (s : State) : Out := .next (coastRelockSt s)

/-- CLK_CTL.XO_PRIMARY set while a recovered reference is active: the device leaves it (R75) (DEDUCED, assumption 9). -/
def State.obeyPrimary (s : State) : State :=
  match s.clock.active with
  | some .port0 | some .port6 => if s.xoPrimary then s.useSource s.bestSource else s
  | _ => s

end Sys2Proof.Machine
end

