-- ==== Sys2Proof/Machine/PortRows.lean ====
section
/-!
DEFINITION. Ports: class, training, lane faults, IDE, loopback at the far end, the bridge; and the standard requests Owl and the
management ports answer (R4, R27, R28, R32, R508–R511, R615–R618, R625–R627, R643, R666).
-/

namespace Sys2Proof.Machine

/-! ### Port classes (R666) -/

/-- MGMT_PORT_CLASS: each field on its own. A change takes effect while the port is unconfigured or held, so while its link is down;
another one is refused with CLASS_ERR; the reserved value 3 changes nothing (DEDUCED, assumption 30). -/
def mgmtPortClassWriteSt (mp : MgmtPort) (value : Reg) (s : State) : State :=
  s.setup mp fun s =>
    (List.range 12).foldl (fun s p =>
      let new := bits value.toNat (2 * p + 1) (2 * p)
      let old := s.portClass p
      if new = old ∨ new = 3 then s
      else if old = 0 ∨ s.held p = true then
        let v := (s.stored 0x0010020).toNat - old * 4 ^ p + new * 4 ^ p
        ({ s with regs := tset s.regs 0x0010020 (BitVec.ofNat 64 v) } : State).setPort p { s.port p with ideSecure := false, farEnd := false }
      else s.setFlag 0x0010028 0) s

def execMgmtPortClassWrite (mp : MgmtPort) (value : Reg) (s : State) : Out := .next (mgmtPortClassWriteSt mp value s)

/-! ### Lanes (R32, R508–R510) -/

/-- WL_PORT_CTL.SPARE_EN. -/
def State.spareEnabled (s : State) (p : Nat) : Bool := s.flag (0x0800000 + 8 * p) 0

/-- A failed pair in the health record (R639). -/
def State.addBadLane (s : State) (p pair : Nat) : State :=
  if s.health.lanes.contains (p, pair) then s else { s with health := { s.health with lanes := s.health.lanes ++ [(p, pair)] } }

/-- Failed pairs of a port. -/
def State.badLanes (s : State) (p : Nat) : List Nat := (s.health.lanes.filter (fun l => l.1 == p)).map (·.2)

/-- An H-port trains at x8 on the half of its lanes without a failed one, the lower one first; none if both have one. -/
def goodHalf (bad : List Nat) : Option (List Nat) :=
  let lo := List.range 8
  let hi := (List.range 8).map (· + 8)
  if lo.all (fun i => !bad.contains i) then some lo else if hi.all (fun i => !bad.contains i) then some hi else none

/-- PORT_LINK_UP: training onto the pairs that pass it, PORT_LANE_BAD left out (R508, R638); no link comes up on the watch oscillator or
while coasting (R82). An F-port takes sixteen pairs at
128 GT/s, the spare among them only where both partners enable it, and otherwise stays down; an H-port takes lanes 0–15, or one half
at x8. -/
def portLinkUpSt (port : Nat) (good : List Nat) (partnerSpare at128 : Bool) (s : State) : State :=
  let ok := (List.range 17).filter (fun i => good.contains i && !(s.badLanes port).contains i)
  let cls := s.portClass port
  let rate := if at128 then 2 else 1
  let up := fun (s : State) (width : Nat) (lanes : List Nat) (spare : Bool) =>
    s.setPort port { s.port port with
      up := true, width, rate, lanes, untrained := (List.range 17).filter (fun i => !good.contains i), spareUsed := spare, spareOk := s.spareEnabled port && partnerSpare, farEnd := false }
  if 12 ≤ port ∨ cls = 0 ∨ s.held port = true ∨ (s.port port).up = true ∨ s.power.devReady = false ∨ s.linksRun = false then s
  else if cls = 2 then
    let usable := if s.spareEnabled port && partnerSpare then ok else ok.filter (· != 16)
    let lanes := usable.take 16
    if at128 = false ∨ lanes.length < 16 then s
    else
      let s := up s 2 lanes (lanes.contains 16)
      if lanes.contains 16 then (s.logError 0 5 3 none port 0 0 0 0).reviewSvc else s
  else
    let bad := (List.range 16).filter (fun i => !ok.contains i)
    if bad = [] then up s 2 (List.range 16) false
    else match goodHalf bad with
      | some h => up s 1 h false
      | none => s

def execPortLinkUp (port : Nat) (good : List Nat) (partnerSpare at128 : Bool) (s : State) : Out :=
  .next (portLinkUpSt port good partnerSpare at128 s)

/-- LANE_FAIL of an F-port in service: it retrains onto the spare pair, or goes down (R509, R510). -/
def laneFailSt (port pair : Nat) (s : State) : State :=
  let p := s.port port
  if s.portClass port ≠ 2 ∨ p.up = false ∨ p.lanes.contains pair = false then s
  else
    let s := (s.addBadLane port pair).logError 0 5 2 none port 0 0 0 pair
    if p.spareUsed || !p.spareOk then s.fportDown port
    else
      let s := s.setPort port { p with lanes := p.lanes.filter (· != pair) ++ [16], spareUsed := true }
      (s.logError 0 5 3 none port 0 0 0 pair).reviewSvc

def execLaneFail (port pair : Nat) (s : State) : Out := .next (laneFailSt port pair s)

/-- HPORT_LANE_FAULT: the port retrains at x8, on a half of its lanes that holds neither a failed one nor one that did not train, at the faster rate its partner accepts, or reports link-down (R32). -/
def hportLaneFaultSt (port pair : Nat) (x8at128 x8at64 : Bool) (s : State) : State :=
  let p := s.port port
  if s.portClass port ≠ 1 ∨ p.up = false ∨ p.lanes.contains pair = false then s
  else
    let s := (s.addBadLane port pair).logError 0 5 2 none port 0 0 0 pair
    match goodHalf (s.badLanes port ++ p.untrained) with
    | some h =>
      if x8at128 then s.setPort port { p with width := 1, rate := 2, lanes := h }
      else if x8at64 then s.setPort port { p with width := 1, rate := 1, lanes := h }
      else s.setPort port { p with up := false, width := 0, rate := 0 }
    | none => s.setPort port { p with up := false, width := 0, rate := 0 }

def execHportLaneFault (port pair : Nat) (x8at128 x8at64 : Bool) (s : State) : Out :=
  .next (hportLaneFaultSt port pair x8at128 x8at64 s)

/-- HPORT_LINK_DOWN: PORT_STATUS reads down (R673) (DEDUCED, assumption 70; DEDUCED, assumption 91). -/
def hportLinkDownSt (port : Nat) (s : State) : State :=
  if s.portClass port = 1 ∧ (s.port port).up = true then s.setPort port { s.port port with up := false, width := 0, rate := 0 } else s

def execHportLinkDown (port : Nat) (s : State) : Out := .next (hportLinkDownSt port s)

/-- LOOPBACK_REQUEST_REMOTE: the port is the far end while PORT_LB_ALLOW is 1; otherwise the request is ignored (R643)
(DEDUCED, assumption 32). -/
def loopbackRequestRemoteSt (port : Nat) (s : State) : State :=
  if port < 12 ∧ s.flag (portBase port + 8) 0 = true ∧ s.held port = false ∧ s.portClass port ≠ 0 then
    s.setPort port { s.port port with farEnd := true }
  else s

def execLoopbackRequestRemote (port : Nat) (s : State) : Out := .next (loopbackRequestRemoteSt port s)

/-! ### The bridge (R27, R28) -/

/-- BRIDGE_CRC_FAIL: the flit is replayed; when three replays in a row have failed, the error is device-fatal. The records carry UNIT 0
and the flit's number as INFO, fields that the spec does not give for the bridge (DESIGN CHOICE, assumption 104). -/
def bridgeCrcFailSt (flit : Nat) (s : State) : State :=
  let n := tgetD s.bridgeFails flit 0 + 1
  let s := { s with bridgeFails := tset s.bridgeFails flit n }
  if n = 4 then (s.logError 3 6 2 none 0 0 0 0 flit).deviceFatal else s.logError 0 6 1 none 0 0 0 0 flit

def execBridgeCrcFail (flit : Nat) (s : State) : Out := .next (bridgeCrcFailSt flit s)

/-! ### IDE (R625–R627) -/

/-- IDE_CHECK_FAIL: the flit is dropped, counted, and the stream is insecure until the host keys it again
(DEDUCED, assumption 70). -/
def ideCheckFailSt (port : Nat) (s : State) : State :=
  if s.portClass port = 1 ∧ (s.port port).ideSecure = true then
    ((s.bump (portBase port + 0x38) 1).setPort port { s.port port with ideSecure := false }).setFlag (portBase port + 0x20) 10
  else s

def execIdeCheckFail (port : Nat) (s : State) : Out := .next (ideCheckFailSt port s)

/-- IDE_KEY_PROG: the host has established the port's stream. -/
def ideKeyProgSt (port : Nat) (s : State) : State :=
  s.arrive port 1 fun s => s.setPort port { s.port port with ideSecure := true }

def execIdeKeyProg (port : Nat) (s : State) : Out := .next (ideKeyProgSt port s)

/-! ### Standard requests (R1, R124, R141, R146, R614–R617) -/

/-- A configuration-space register: the bit that advertises CXL.cache reads 0 (R2). -/
def configRead (port offset : Nat) : Nat :=
  let v := Config.configSpace port offset % 2 ^ 32
  if offset = Config.cacheCapable.1 ∧ bit v Config.cacheCapable.2 = true then v - 2 ^ Config.cacheCapable.2 else v

/-- CONFIG_ACCESS (R124): an H-port answers a read with its configuration space, whose contents the spec does not give, and a write with a
completion. -/
def configAccessSt (port offset : Nat) (write : Option Nat) (s : State) : State :=
  s.arrive port 1 fun s =>
    s.emit (.reply (.port port) 0 (match write with | some _ => [] | none => toLe 4 (configRead port offset)))

def execConfigAccess (port offset : Nat) (wr : Option Nat) (s : State) : Out := .next (configAccessSt port offset wr s)

/-- A management port answers standard requests: not while PERST_N is asserted, but for MCTP control messages (R701). -/
def State.mgmtAnswers (s : State) : Bool := !s.power.perst && s.power.auxOk

/-- Boot has failed: only what R614 names is answered. -/
def State.bootFailed (s : State) : Bool := s.test.fail || s.test.bootFail != 0

/-- A bank's security version number in use, and the fused one (R611, R615). -/
def State.imageSvn (s : State) (i : Nat) : Nat := tgetD s.owl.bankSvn i (Config.imageSvn i (b2n (bit s.test.bankB (i - 2))))
def State.fusedSvn (s : State) (i : Nat) : Nat := tgetD s.owl.svn i 0

/-- The measurement of an index (Table 15.9); 6 and 7 give the state they name (DEDUCED, assumption 90). -/
def State.measurement (s : State) (i : Nat) : Bytes :=
  if i = 6 then ([2, 3, 4, 5].map (fun k => toLe 4 (s.imageSvn k))).flatten
  else if i = 7 then toLe 1 s.test.bankB ++ toLe 1 (b2n s.test.shadow) ++ toLe 1 (b2n s.owl.scanSeen)
  else if i = 1 then Config.romDigest
  else if 2 ≤ i ∧ i ≤ 5 then Config.imageDigest i (b2n (bit s.test.bankB (i - 2))) (s.imageSvn i)
  else if i = 0x10 then
    Config.setUpDigest ((List.range 512).map (fun n => (n, (s.ten n).state, (s.ten n).shared))) s.live s.slots.live
      (s.stored 0x0010020).toNat
  else []

/-- Certificate slot 0: the chain from Ohmolkan's root to the device identity key and the alias key of this boot (R618). -/
def State.certChain (s : State) : Bytes := Config.certChain Config.identityKey s.owl.aliasKey

/-- What an SPDM request gets: a code (0 success, 7 unsupported, 4 invalid) and data. -/
def State.spdm (s : State) (onPort : Bool) : SpdmReq → Nat × Bytes
  | .getMeasurements i => if (1 ≤ i ∧ i ≤ 7) ∨ (i = 0x10 ∧ onPort = false) then (0, s.measurement i) else (4, [])
  | .mutualAuth => (7, [])
  | .getVersion => (0, Config.spdmAnswer 0 [])
  | .getCapabilities => (0, Config.spdmAnswer 1 [])
  | .negotiateAlgorithms => (0, Config.spdmAnswer 2 [])
  | .getDigests => (0, Config.digest s.certChain)
  | .getCertificate => (0, s.certChain)
  | .challenge => (0, Config.spdmAnswer 5 s.owl.aliasKey)
  | .keyExchange => (0, Config.spdmAnswer 6 s.owl.aliasKey)

/-- SPDM_REQUEST (R616): on a management port, or on an H-port through its DOE mailbox. -/
def spdmRequestSt (port : PortRef) (req : SpdmReq) (s : State) : State :=
  match port with
  | .mgmt _ =>
    let basic := match req with | .getVersion | .getCapabilities => true | _ => false
    if s.mgmtAnswers && (!s.bootFailed || basic) then s.emit (.reply port (s.spdm false req).1 (s.spdm false req).2) else s
  | .port p => s.arrive p 1 fun s => s.emit (.reply port (s.spdm true req).1 (s.spdm true req).2)

def execSpdmRequest (port : PortRef) (req : SpdmReq) (s : State) : Out := .next (spdmRequestSt port req s)

/-- OWL_MBOX: a result, with DONE. -/
def State.mbox (s : State) (result : Nat) : State := { s with owl := { s.owl with mboxResult := result } }.setFlag 0x0900008 1

/-- ACTIVATE_SVN (R615): the fused number advances to that of the image in use (DEDUCED, assumption 90). -/
def activateSvnSt (mp : MgmtPort) (image : Nat) (s : State) : State :=
  s.setup mp fun s =>
    if 2 ≤ image ∧ image ≤ 5 then
      { s with owl := { s.owl with svn := tset s.owl.svn image (max (s.fusedSvn image) (s.imageSvn image)) } }.mbox 0
    else s.mbox 1

def execActivateSvn (mp : MgmtPort) (image : Nat) (s : State) : Out := .next (activateSvnSt mp image s)

/-- COPY_MEASUREMENTS (R680): every measurement to OWL_MBOX_DATA, in ascending order. -/
def copyMeasurementsSt (mp : MgmtPort) (s : State) : State :=
  s.setup mp fun s =>
    let all := ([1, 2, 3, 4, 5, 6, 7, 0x10].map s.measurement).flatten
    { s with owl := { s.owl with mboxData := slice all 0 4096 } }.mbox 0

def execCopyMeasurements (mp : MgmtPort) (s : State) : Out := .next (copyMeasurementsSt mp s)

end Sys2Proof.Machine
end

