-- ==== Sys2Proof/Machine/Codec.lean ====
section
/-!
DEFINITION. The tier codec: streams, blocks, the decoder with its checks, and the sizes Erord's own encoder gives (R387–R395).
-/

namespace Sys2Proof.Machine

/-! ### CRC-32C (Table 9.9) -/

/-- One bit of the reflected CRC. -/
def crcBits : (n c : Nat) → Nat
  | 0, c => c
  | n + 1, c => crcBits n (if c % 2 = 1 then (c / 2) ^^^ 0x82F63B78 else c / 2)

/-- The CRC register after bytes. -/
def crcFrom (c : Nat) (b : Bytes) : Nat := b.foldl (fun c x => crcBits 8 (c ^^^ x.toNat)) c

/-- CRC-32C of bytes. -/
def crc32c (b : Bytes) : Nat := crcFrom 0xFFFFFFFF b ^^^ 0xFFFFFFFF

/-! ### Streams (R387–R390) -/

/-- Bytes of a tensor in a block, and blocks of a tensor. -/
def blockRaw : Nat := 65536
def blockCount (bytes : Nat) : Nat := ceilDiv bytes blockRaw

/-- WC(BYTES): the largest stream (R390). -/
def wcStream (bytes : Nat) : Nat := 64 + roundup (4 * blockCount bytes) 64 + 65600 * blockCount bytes

/-- Width in bytes of an element type, and lowest bit and width of the exponent that DELTA differences (Table 9.8). -/
def elemWidth : Nat → Nat
  | 1 | 3 | 4 => 2
  | 2 | 5 => 4
  | _ => 1
def elemExp : Nat → Nat × Nat
  | 3 => (7, 8)
  | 4 => (10, 5)
  | 5 => (23, 8)
  | 6 => (3, 4)
  | _ => (2, 5)

/-- A tensor's bytes cut into blocks, and joined. -/
def cutBlocks : (fuel : Nat) → Bytes → List Bytes
  | 0, _ => []
  | fuel + 1, b => if b = [] then [] else b.take blockRaw :: cutBlocks fuel (b.drop blockRaw)
def toBlocks (b : Bytes) : List Bytes := cutBlocks (blockCount b.length) b

/-! ### Literals (R392 stage 1) -/

/-- The code length of a symbol. -/
def huffLen (table : Bytes) (sym : Nat) : Nat := fld table (sym / 2) 1 / 16 ^ (sym % 2) % 16

/-- The present symbols ordered by length and number. -/
def huffSyms (table : Bytes) : List (Nat × Nat) :=
  (List.range 12).flatMap (fun l => ((List.range 256).filter (fun s => huffLen table s == l + 1)).map (fun s => (s, l + 1)))

/-- Codes assigned in that order: symbol, length, code. -/
def huffCodes : (code prev : Nat) → List (Nat × Nat) → List (Nat × Nat × Nat)
  | _, _, [] => []
  | code, prev, (s, l) :: t => let c := code * 2 ^ (l - prev); (s, l, c) :: huffCodes (c + 1) l t

/-- The lengths are legal (R393). -/
def huffLegal (table : Bytes) : Bool :=
  let syms := huffSyms table
  (List.range 256).all (fun s => decide (huffLen table s ≤ 12)) &&
    ((syms.map (fun s => 2 ^ (12 - s.2))).sum == 4096 || (syms.length == 1 && syms.all (fun s => s.2 == 1)))

/-- The bits of bytes, bit 7 first. -/
def bitsOf (b : Bytes) : List Bool := b.flatMap (fun x => (List.range 8).map (fun i => x.getLsbD (7 - i)))

/-- One symbol read from bits. -/
def huffRead (codes : List (Nat × Nat × Nat)) : (fuel len code : Nat) → List Bool → Option (Nat × List Bool)
  | 0, _, _, _ => none
  | _, _, _, [] => none
  | fuel + 1, len, code, b :: t =>
    let c := 2 * code + b2n b
    match codes.find? (fun e => e.2.1 == len + 1 && e.2.2 == c) with
    | some e => some (e.1, t)
    | none => huffRead codes fuel (len + 1) c t

/-- n symbols; what is left is less than a byte of zeros. -/
def huffDecode (codes : List (Nat × Nat × Nat)) : (n : Nat) → List Bool → Option Bytes
  | 0, bs => if bs.length < 8 ∧ bs.all (!·) then some [] else none
  | n + 1, bs => do
    let (s, t) ← huffRead codes 12 0 0 bs
    let rest ← huffDecode codes n t
    pure (BitVec.ofNat 8 s :: rest)

/-! ### Commands (R392 stage 2) -/

/-- A variable-length number: its value and the rest. -/
def varint : (fuel shift : Nat) → Bytes → Option (Nat × Bytes)
  | 0, _, _ => none
  | _, _, [] => none
  | fuel + 1, shift, b :: t =>
    if b.toNat < 128 then some (b.toNat * 2 ^ shift, t)
    else (varint fuel (shift + 7) t).map (fun r => (b.toNat % 128 * 2 ^ shift + r.1, r.2))

/-- A match copied byte by byte onto output kept in reverse. -/
def copyMatch (off : Nat) : (n : Nat) → Bytes → Bytes
  | 0, out => out
  | n + 1, out => copyMatch off n (out.getD (off - 1) 0 :: out)

/-- The commands: output in reverse; none where they are not consumed exactly, an offset is illegal, or the output passes the
limit. -/
def lzRun (limit : Nat) : (fuel : Nat) → (lits cmds out : Bytes) → Option Bytes
  | 0, _, _, _ => none
  | _, _, [], _ => none
  | fuel + 1, lits, t :: cmds, out => do
    let (ll, cmds) ← if t.toNat / 16 = 15 then (varint 10 0 cmds).map (fun r => (15 + r.1, r.2)) else some (t.toNat / 16, cmds)
    if lits.length < ll then none
    else
      let out := (lits.take ll).reverse ++ out
      let lits := lits.drop ll
      let mc := t.toNat % 16
      if mc = 0 then (if cmds = [] ∧ lits = [] then some out else none)
      else do
        let (ml, cmds) ← if mc = 15 then (varint 10 0 cmds).map (fun r => (18 + r.1, r.2)) else some (mc + 3, cmds)
        let off := fld cmds 0 2
        if cmds.length < 2 ∨ off = 0 ∨ out.length < off ∨ limit < out.length + ml then none
        else lzRun limit fuel lits (cmds.drop 2) (copyMatch off ml out)

/-! ### SPLIT and DELTA (R392 stages 3 and 4) -/

/-- Planes interleaved again. -/
def unsplit (w : Nat) (p : Bytes) : Bytes :=
  let n := p.length / w
  ((List.range n).flatMap (fun i => (List.range w).map (fun j => p.getD (j * n + i) 0))) ++ p.drop (n * w)

/-- Exponents summed again. -/
def undeltaFrom (lo ew : Nat) : (prev : Nat) → List Nat → List Nat
  | _, [] => []
  | prev, v :: t =>
    let f := (v / 2 ^ lo + prev) % 2 ^ ew
    (v - v / 2 ^ lo % 2 ^ ew * 2 ^ lo + f * 2 ^ lo) :: undeltaFrom lo ew f t

def undelta (elem : Nat) (b : Bytes) : Bytes :=
  let w := elemWidth elem
  let (lo, ew) := elemExp elem
  let n := b.length / w
  let vs := (List.range n).map (fun i => fld b (i * w) w)
  ((undeltaFrom lo ew 0 vs).map (toLe w)).flatten ++ b.drop (n * w)

/-! ### Blocks (R392, R393) -/

/-- What a block decodes to: its bytes, or the code of Table 9.6's detail: 2 the checks failed, 3 the CRC. -/
inductive Decoded where
  | ok (raw : Bytes)
  | bad (code : Nat)
  deriving DecidableEq, Repr

/-- The body of a CODED block; `raw` is RAW_LEN. -/
def decodeBody (elem flags raw : Nat) (body : Bytes) : Option Bytes := do
  let nLit := fld body 0 4
  let litBytes := fld body 4 4
  let cmdBytes := fld body 8 4
  let huff := bit flags 0
  let tab := if huff then 128 else 0
  if !zeroRange body 12 4 || body.length != 16 + tab + litBytes + cmdBytes || (!huff && litBytes != nLit) then none
  else
    let table := slice body 16 128
    let lit := (body.drop (16 + tab)).take litBytes
    let lits ← if huff then (if huffLegal table then huffDecode (huffCodes 0 0 (huffSyms table)) nLit (bitsOf lit) else none) else some lit
    let out ← lzRun raw (cmdBytes + 1) lits (body.drop (16 + tab + litBytes)) []
    let p := out.reverse
    let p := if bit flags 2 then unsplit (elemWidth elem) p else p
    pure (if bit flags 1 then undelta elem p else p)

/-- The header's own checks. -/
def headerOk (b : Bytes) : Bool :=
  let mode := fld b 1 1
  let elem := fld b 2 1
  let flags := fld b 3 1
  let raw := fld b 4 4
  let st := fld b 8 4
  fld b 0 1 == 0xB7 && decide (mode ≤ 2) && decide (elem ≤ 7) && decide (flags < 8) && (mode == 1 || flags == 0) &&
    !(bit flags 1 && decide (elem ≤ 2)) && !(bit flags 2 && elemWidth elem == 1) && decide (1 ≤ raw ∧ raw ≤ 65536) &&
    decide (st ≤ 65536) && (mode != 0 || st == raw) && (mode != 2 || st == 0)

/-- Bytes that a block with a given header occupies. -/
def storedSize (head : Bytes) : Nat := roundup (16 + fld head 8 4) 64

/-- A block decoded (R393) (DESIGN CHOICE, assumption 67). -/
def decodeBlock (b : Bytes) : Decoded :=
  if headerOk b = false then .bad 2
  else
    let mode := fld b 1 1
    let raw := fld b 4 4
    let body := (b.drop 16).take (fld b 8 4)
    let out := match mode with
      | 0 => some body
      | 1 => decodeBody (fld b 2 1) (fld b 3 1) raw body
      | _ => some (List.replicate raw 0)
    match out with
    | none => .bad 2
    | some d => if d.length ≠ raw then .bad 2 else if crc32c d ≠ fld b 12 4 then .bad 3 else .ok d

/-! ### Erord's encoder (R394) -/

/-- Flags of a coded body: HUFF shows in a literal section that is not N_LIT bytes long, DELTA for ELEM 3 to 7, SPLIT for W > 1. -/
def codedFlags (elem : Nat) (body : Bytes) : Nat :=
  b2n (decide (fld body 4 4 ≠ fld body 0 4)) + 2 * b2n (decide (3 ≤ elem)) + 4 * b2n (decide (1 < elemWidth elem))

/-- The coded body of raw bytes, where it is shorter than they are: the part's own encoder chooses it, and it decodes to them. -/
def codedBody (elem : Nat) (raw : Bytes) : Option Bytes :=
  let body := Config.codedBody elem raw
  let fl := codedFlags elem body
  if body.length < raw.length ∧ (bit fl 0 = false ∨ 128 + fld body 4 4 < fld body 0 4) ∧
      decodeBody elem fl raw.length body = some raw then some body
  else none

/-- A block as Erord's encoder stores it (Table 9.9) (DESIGN CHOICE, assumption 67). -/
def encodeBlock (elem : Nat) (raw : Bytes) : Bytes :=
  let (mode, flags, body) :=
    if raw.all (· == 0) then (2, 0, [])
    else match codedBody elem raw with
      | some b => (1, codedFlags elem b, b)
      | none => (0, 0, raw)
  slice (toLe 1 0xB7 ++ toLe 1 mode ++ toLe 1 elem ++ toLe 1 flags ++ toLe 4 raw.length ++ toLe 4 body.length ++
    toLe 4 (crc32c raw) ++ body) 0 (roundup (16 + body.length) 64)

/-! ### Streams of stored blocks (R387) -/

/-- DATA_OFF of a stream of n blocks. -/
def dataOff (n : Nat) : Nat := 0x40 + roundup (4 * n) 64

/-- The size of the stream of stored blocks. -/
def streamLen (blocks : List Bytes) : Nat := dataOff blocks.length + (blocks.map List.length).sum

/-- The offsets of blocks laid one after the other. -/
def blockOffsets : (at' : Nat) → List Bytes → List Nat
  | _, [] => []
  | at', b :: t => at' :: blockOffsets (at' + b.length) t

/-- The stream of stored blocks: header, index, blocks. -/
def streamOf (elem bytes : Nat) (blocks : List Bytes) : Bytes :=
  let n := blocks.length
  toLe 4 0x53514C54 ++ toLe 2 1 ++ toLe 1 elem ++ toLe 1 0 ++ toLe 8 bytes ++ toLe 4 n ++ toLe 4 0x40 ++ toLe 4 (dataOff n) ++
    toLe 36 0 ++ slice ((blockOffsets (dataOff n) blocks).flatMap (fun o => toLe 4 (o / 64))) 0 (dataOff n - 0x40) ++ blocks.flatten

/-- Where block i stands in a stream, by its index and the header there. -/
def blockAt (b : Bytes) (i : Nat) : Nat × Nat :=
  let off := 64 * fld b (0x40 + 4 * i) 4
  (off, min (storedSize (slice b off 16)) 65600)

end Sys2Proof.Machine
end

