-- ==== Sys2Proof/Machine/Resident.lean ====
section
/-!
DEFINITION. The end of a run, and the callable resident functions TIER_DECODE, VEC_REDUCE and EXACT_SCORE (R323, R324, R327, R336,
R337, R395).
-/

namespace Sys2Proof.Machine

/-! ### The end of a run (R323, R324, R327) -/

/-- The completion fields of a run: its sticky flags, the frames in which it executed, and how often it was restored. -/
def Run.result (r : Run) (res : Result) : Result :=
  { res with
    flags := 2 * b2n r.ovf + 4 * b2n r.invalid + 8 * b2n r.range
    b24 := r.frames % 2 ^ 32 + 2 ^ 32 * (r.restores % 2 ^ 32) }

/-- A run ends with a result: its dirty lines are written back first, and it waits while one of them does. -/
def State.endRun (s : State) (w : Nat) (res : Result) : State :=
  let s := s.flushRun w
  match s.run w with
  | some r =>
    if r.l1.any (· != []) then s
    else { s with runs := s.runs.filter (fun q => q.w != w) }.finish w (r.result res)
  | none => s

/-- The cell a resident function's accesses belong to. -/
def residentWho : Option (Nat × Nat) := some (0, 0)

/-- A resident function reads ranges and then acts: its accesses let through first; poison ends the run (R324). -/
def State.residentReads (s : State) (x : Work) (reads : List (Nat × Nat)) (writes : List (Nat × Nat)) (f : State → State) : State :=
  match s.gateBy x residentWho (reads.map (fun r => (r.1, r.2, false)) ++ writes.map (fun r => (r.1, r.2, true))) with
  | .hold s => s
  | .go s =>
    if reads.any (fun r => s.poisonedAt x r.1 r.2) then s.endRun x.id (Result.err 0x32 0) else (f s).usedBy x.id residentWho

/-! ### VEC_REDUCE -/

/-- Two vectors added, with the flags of their lanes. -/
def addVec (fmt : Nat) (a : List Nat × List LaneOut) (b : List Nat) : List Nat × List LaneOut :=
  let os := List.zipWith (arith fmt false (· + ·) add32) a.1 b
  (os.map (·.val), a.2 ++ os)

/-- The sum of N vectors of LEN elements, in ascending vector order. -/
def sumVecs (fmt len : Nat) (b : Bytes) (n : Nat) : List Nat × List LaneOut :=
  let vec := fun i => (List.range len).map (fun k => fld b (4 * (i * len + k)) 4)
  ((List.range (n - 1)).map (fun i => vec (i + 1))).foldl (addVec fmt) (vec 0, [])

/-- VEC_REDUCE (Table 7.10): the sum begins with the first vector (DEDUCED, assumption 57). -/
def State.vecReduce (s : State) (x : Work) (r : Run) (data0 : Bytes) : State :=
  let d := x.desc
  let len := fld d 40 4
  let n := fld d 44 4
  s.residentReads x [(descOp0 d, 4 * len * n)] [(descRes d, 4 * len)] fun s =>
    let v := sumVecs (fld d 48 1) len (s.readBy x residentWho (descOp0 d) (4 * len * n) data0) n
    ((s.setRun (r.flags v.2)).writeBy x residentWho (descRes d) (v.1.flatMap (toLe 4))).endRun x.id (Result.done (4 * len))

/-! ### EXACT_SCORE -/

/-- The metric and format of EXACT_SCORE's arguments, as a burrow scores under them. -/
def scorer (d : Bytes) : Burrow := { Burrow.free with dim := fld d 40 2, vecFmt := fld d 42 1, metric := fld d 43 1 }

/-- For a query of norm zero under COSINE, which no rule of this function gives a score, the scores are free values that the query and
the vector fix (R305) (DEDUCED, assumption 57). -/
def State.exactScores (s : State) (x : Work) (data0 data1 : Bytes) : State :=
  let d := x.desc
  let b := scorer d
  let n := fld d 44 4
  let stride := fld d 48 4
  let size := vecSize b.vecFmt b.dim
  let place := fun i => descOp1 d + i * stride
  s.residentReads x ((descOp0 d, 4 * b.dim) :: (List.range n).map (fun i => (place i, size))) [(descRes d, 4 * n)] fun s =>
    let query := s.readBy x residentWho (descOp0 d) (4 * b.dim) data0
    let vec := fun i => s.readBy x residentWho (place i) size (data1.drop (i * stride))
    let scores := (List.range n).map (fun i => match b.query true query with
      | some q => b.exactScore (q.map f32) (vec i)
      | none => (Config.zeroScore query (vec i)).toNat)
    (s.writeBy x residentWho (descRes d) (scores.flatMap (toLe 4))).endRun x.id (Result.done (4 * n))

/-! ### TIER_DECODE (R395) -/

/-- How far TIER_DECODE has come: it waits, or has the bytes of the blocks before the first that fails, if one does. -/
inductive Unpacked where
  | hold (s : State)
  | done (s : State) (out : List Bytes) (bad : Option (Nat × Nat))

/-- Blocks laid end to end from `src`, decoded to `dst`: n left, i done. -/
def State.unpack (s : State) (x : Work) (data0 : Bytes) : (n i off pos : Nat) → (out : List Bytes) → Unpacked
  | 0, _, _, _, out => .done s out none
  | n + 1, i, off, pos, out =>
    let src := descOp0 x.desc
    match s.gateBy x residentWho [(src + off, 16, false)] with
    | .hold s => .hold s
    | .go s =>
      let size := min (storedSize (s.readBy x residentWho (src + off) 16 (data0.drop off))) 65600
      match s.gateBy x residentWho [(src + off, size, false)] with
      | .hold s => .hold s
      | .go s =>
        if s.poisonedAt x (src + off) size then .done s out (some (i, 1))
        else match decodeBlock (s.readBy x residentWho (src + off) size (data0.drop off)) with
          | .bad c => .done s out (some (i, c))
          | .ok raw =>
            match s.gateBy x residentWho [(descRes x.desc + pos, raw.length, true)] with
            | .hold s => .hold s
            | .go s => s.unpack x data0 n (i + 1) (off + size) (pos + raw.length) (out ++ [raw])

/-- TIER_DECODE (R337): blocks are decoded one by one until one is poisoned or illegal, and what was decoded before is the output (DEDUCED, assumption 57). -/
def State.tierDecode (s : State) (x : Work) (data0 : Bytes) : State :=
  match s.unpack x data0 (fld x.desc 40 4) 0 0 0 [] with
  | .hold s => s
  | .done s out bad =>
    let b := out.flatten
    let s := (s.writeBy x residentWho (descRes x.desc) b).usedBy x.id residentWho
    match bad with
    | none => s.endRun x.id (Result.done b.length)
    | some (i, c) =>
      if c = 1 then s.endRun x.id { Result.err 0x32 0 with count := b.length }
      else s.endRun x.id { Result.err 0x31 (c + 256 * (i % 2 ^ 16)) with count := b.length }

/-! ### RUN_COMPLETE -/

/-- RUN_COMPLETE: a run that has ended on an error, a configured function that has made its iterations, or a resident function in a
frame in which it executes. -/
def runCompleteSt (run : Nat) (data0 data1 : Bytes) (s : State) : State :=
  match s.run run, s.work run with
  | some r, some x =>
    if x.result.isSome ∨ r.stalled then s
    else match r.ended, r.resident with
      | some (status, cell), _ => s.endRun run (Result.err status cell)
      | none, none => if r.iterDone < r.iters then s else s.endRun run (Result.done r.count)
      | none, some fn =>
        if r.setts = [] then s
        else if fn = 4 then s.tierDecode x data0
        else if fn = 5 then s.vecReduce x r data0
        else if fn = 6 then s.exactScores x data0 data1
        else s
  | _, _ => s

def execRunComplete (run : Nat) (data0 data1 : Bytes) (s : State) : Out := .next (runCompleteSt run data0 data1 s)

end Sys2Proof.Machine
end

