-- ==== Sys2Proof/Machine/Tensors.lean ====
section
/-!
DEFINITION. Tensor objects and Squirrels: records, contents at each tier, the order of work on an object, moves, and trails
(R369–R401).
-/

namespace Sys2Proof.Machine

/-! ### Records (R371–R375) -/

/-- The table index of a handle, and its generation count. -/
def handleIx (h : Nat) : Nat := h % 2 ^ 20
def handleGen (h : Nat) : Nat := h / 2 ^ 20 % 4096

/-- The live tensor object of a tenancy that a handle names (R372). -/
def State.tensorOf (s : State) (t h : Nat) : Option Tensor :=
  match tget s.tensors (handleIx h) with
  | some x => if x.state ≠ 0 ∧ x.gen = handleGen h ∧ x.tenancy = t ∧ h < 2 ^ 32 then some x else none
  | none => none

/-- A record written. -/
def State.setTensor (s : State) (h : Nat) (x : Tensor) : State := { s with tensors := tset s.tensors (handleIx h) x }

/-- A tensor's home die, and the Squirrel that serves a table index on a die (R374). -/
def Tensor.die (x : Tensor) : Nat := x.homeDen / 4
def squirrelOf (die h : Nat) : Nat := 8 * die + handleIx h % 8

/-- The objects of CREATEs that have started and whose copy is being written. -/
def State.coming (s : State) : List Tensor := (s.jobs.filter (·.create)).filterMap (·.sent)

/-- Every tensor object: those of the table, and those still to come. -/
def State.allTensors (s : State) : List Tensor := (s.tensors.map (·.2)).filter (fun x => x.state != 0) ++ s.coming

/-- Bytes of tensor objects a context owns (R373). -/
def State.tensorBytes (s : State) (ctx : Nat) : Nat := ((s.allTensors.filter (fun x => x.ownerCtx == ctx)).map (·.bytes)).sum

/-- The lowest free entry of a tenancy's range of the tensor table (TEN_TENSOR_ALLOT): one that a CREATE has taken is not free. -/
def State.freeTensorIx (s : State) (t : Nat) : Option Nat :=
  let v := s.liveReg t 0x0040300
  let base := bits v 19 0
  let used := fun i => (tget s.tensors i).any (fun x => x.state != 0) ||
    s.jobs.any (fun j => j.create && j.started && handleIx j.handle == i)
  let lo := (List.range (s.tensors.length + s.jobs.length + 1)).map (· + base)
  (lo.find? (fun i => !used i)).bind (fun i => if i < base + bits v 63 32 ∧ i < 2 ^ 20 then some i else none)

/-- The generation that the next use of an entry has. -/
def State.nextGen (s : State) (i : Nat) : Nat :=
  match tget s.tensorGen i with
  | some g => (g + 1) % 4096
  | none => 0

/-- LOC at T1 and STORED otherwise (Table 9.6). -/
def Tensor.b24 (x : Tensor) : Nat := if x.tier = 1 then logical x.loc else x.stored

/-! ### Contents -/

/-- Length of block i of a tensor of so many bytes. -/
def blockLen (bytes i : Nat) : Nat := min blockRaw (bytes - blockRaw * i)

/-- The stream of a tensor as the codec sees it: in DDR; deciphered from flash; deciphered from what the host returned of the TH buffer
(R370). -/
def State.tensorStream (s : State) (x : Tensor) (buffer : Bytes) : Bytes :=
  match x.tier with
  | 2 => s.readDev x.loc x.stored
  | 3 => s.flashRead x.tenancy x.loc x.stored
  | _ => s.deciphered x.tenancy hostSpace x.thAddr (slice buffer 0 x.stored)

/-- Where block i stands, from the start of the copy, and how many bytes it takes there. -/
def State.blockPlace (s : State) (x : Tensor) (buffer : Bytes) (i : Nat) : Nat × Nat :=
  if x.tier = 1 then (blockRaw * i, blockLen x.bytes i) else blockAt (s.tensorStream x buffer) i

/-- Block i as it is stored: encoded from T1, as it stands elsewhere. -/
def State.storedBlock (s : State) (x : Tensor) (buffer : Bytes) (i : Nat) : Bytes :=
  let r := s.blockPlace x buffer i
  if x.tier = 1 then encodeBlock x.elem (s.readDev (x.loc + r.1) r.2) else slice (s.tensorStream x buffer) r.1 r.2

/-- The stored blocks of a tensor. -/
def State.storedBlocks (s : State) (x : Tensor) (buffer : Bytes) : List Bytes :=
  (List.range (blockCount x.bytes)).map (s.storedBlock x buffer)

/-- Block i cannot be read: poison in device memory, a LOST grain of the block or of the index before it. -/
def State.blockGone (s : State) (x : Tensor) (i : Nat) : Bool :=
  let r := s.blockPlace x [] i
  match x.tier with
  | 1 | 2 => s.poisonedIn (x.loc + r.1) r.2
  | 3 => s.flashLost x.loc (64 + 4 * (i + 1)) || s.flashLost (x.loc + r.1) r.2
  | _ => false

/-- What reading block i gives, at its length in the tensor; what cannot be read counts as code 1 (R385). -/
def State.blockRead (s : State) (x : Tensor) (buffer : Bytes) (i : Nat) : Decoded :=
  if s.blockGone x i then .bad 1
  else if x.tier = 1 then .ok (s.readDev (x.loc + blockRaw * i) (blockLen x.bytes i))
  else match decodeBlock (s.storedBlock x buffer i) with
    | .ok b => .ok (slice b 0 (blockLen x.bytes i))
    | .bad c => .bad c

/-- Blocks n of them from first on; `bad` are those, by place in the range, whose media or host fail to give them now, at T3 and TH
(DESIGN CHOICE, assumption 19). -/
def State.readBlocks (s : State) (x : Tensor) (buffer : Bytes) (first n : Nat) (bad : List Nat) : List Decoded :=
  (List.range n).map (fun i => if 3 ≤ x.tier ∧ bad.contains i then .bad 1 else s.blockRead x buffer (first + i))

/-- The grain on which a block of a T3 tensor begins has failed for good (R575) (DESIGN CHOICE, assumption 19). -/
def State.loseBlocks (s : State) (x : Tensor) (first : Nat) (bad : List Nat) : State :=
  if x.tier ≠ 3 then s
  else (bad.map (fun i => grainAt (x.loc + (s.blockPlace x [] (first + i)).1))).foldl State.loseGrain s

/-- The grains of a T3 tensor that reading a range of its blocks uses: those of the header and index, and those of the blocks. -/
def State.blockGrains (s : State) (x : Tensor) (first n : Nat) : List (Nat × Nat) :=
  if x.tier ≠ 3 then []
  else (grainsOf x.loc (64 + 4 * (first + n)) ++ (List.range n).flatMap (fun i =>
    let r := s.blockPlace x [] (first + i)
    grainsOf (x.loc + r.1) r.2)).eraseDups

/-- The slot-granular units in whose slots a Squirrel serves copies: the stacks that hold their HBM, the places given by address and length;
with none, the den-cache slice of the object's home den (R378, Table 15.3). -/
def State.squirrelUnits (s : State) (homeDen : Nat) (hbm : List (Nat × Nat)) : List (List Nat) :=
  if hbm = [] then [[denMap homeDen]] else (hbm.flatMap (fun r => [s.unitsOf r.1, s.unitsOf (r.1 + r.2 - 1)])).eraseDups

/-- The place of a copy in HBM, if that is where it lies. -/
def Tensor.hbmPlace (x : Tensor) : List (Nat × Nat) := if x.tier = 1 then [(x.loc, x.bytes)] else []

/-- The first failing block and its code. -/
def firstBad (bs : List Decoded) : Option (Nat × Nat) :=
  ((List.range bs.length).zip bs).findSome? (fun e => match e.2 with | .bad c => some (e.1, c) | .ok _ => none)

/-- The bytes of blocks; a failing one stands as none. -/
def rawOf (bs : List Decoded) : Bytes := bs.flatMap (fun d => match d with | .ok b => b | .bad _ => [])

/-- The result of a failing block (R385): poison of device memory, otherwise media. -/
def badResult (tier : Nat) (f : Nat × Nat) : Result :=
  Result.err (if f.2 = 1 ∧ tier ≤ 2 then 0x32 else 0x31) (f.2 + 256 * (f.1 % 2 ^ 16))

/-! ### Room at a tier (R375, R384) -/

/-- Where a copy can go, or how the check of R384 fails. -/
inductive Room where
  | ok (a n : Nat)
  | fail (r : Result)
  deriving DecidableEq, Repr

/-- Room for a tensor at a tier of a die, its stream being `stored` bytes long. -/
def State.roomFor (s : State) (t die tier bytes stored : Nat) : Room :=
  match tier with
  | 1 => match (if s.hbmFree t < bytes then none else s.pick (s.hbmUse t die) bytes 64) with
    | some a => .ok a bytes
    | none => .fail (Result.err 0x12 36)
  | 2 =>
    let n := roundup (wcStream bytes) 4096
    match s.pick (s.ddrAllot t die) n 4096 with
    | some a => .ok a n
    | none => .fail (Result.err 0x12 36)
  | 3 =>
    let n := roundup (wcStream bytes) (2 ^ 14)
    match s.pick (flashSpace die) n (2 ^ 14) with
    | some a => if s.refusesWrite t [(a, stored)] then .fail (Result.err 0x30 0) else .ok a n
    | none => .fail (Result.err 0x30 0)
  | _ => .ok 0 0

/-- The bytes of a copy written at T1, T2 or, as ciphertext, into the TH buffer; flash takes its own through the Badgers (R370). -/
def State.putCopy (s : State) (x : Tensor) (a : Nat) (raw stream : Bytes) : State :=
  match x.tier with
  | 1 => s.put a raw
  | 2 => s.put a stream
  | 4 => s.emit (.dma x.port x.pasid a (s.enciphered x.tenancy hostSpace a stream))
  | _ => s

/-- The storage of a copy leaves the object. HBM is kept until every KERNEL_RUN of the tenancy admitted before work `before` has
completed (R378, R386). -/
def State.vacate (s : State) (index : Nat) (x : Tensor) (before : Nat) : State :=
  match x.tier with
  | 1 =>
    let runs := (s.works.filter (fun y => y.opcode == 0x41 && y.tenancy == x.tenancy && decide (y.id < before))).map (·.id)
    if runs = [] then s.freeStorage x.loc x.bytes x.tenancy
    else { s with lateFree := s.lateFree ++ [(x.loc, x.bytes, x.tenancy, runs)] }
  | 2 => s.freeStorage x.loc (roundup x.stored 4096) x.tenancy
  | 3 => (s.trim x.loc x.stored).journalTensor index x false
  | _ => s

/-! ### Checks (R380–R384) -/

/-- Table 9.5 and the fixed fields of R380–R382 and R396, as far as the descriptor alone decides them (DEDUCED, assumption 65). -/
def tensorChecks (d : Bytes) : List (Nat × Nat) :=
  let bad := fun (off : Nat) (b : Bool) => if b then [((off, 0x12) : Nat × Nat)] else []
  let len := fun (off : Nat) (b : Bool) => if b then [((off, 0x13) : Nat × Nat)] else []
  let tier := fld d 36 1
  let th := fld d 56 8
  let host := descOp1 d != 0 && addrClass (descOp1 d) == 0
  let align := bad 8 (descOp0 d % 64 != 0) ++ bad 16 (descOp1 d % 64 != 0)
  match descOpcode d with
  | 0x20 =>
    let act := fld d 38 1
    let create := act == 0
    let release := act == 1
    let n := fld d 40 8
    let sizeOk := decide (64 ≤ n ∧ n ≤ 2 ^ 36) && n % 64 == 0
    align ++ bad 8 (release && descOp0 d != 0) ++ bad 24 (descRes d != 0) ++ bad 32 (create && fld d 32 4 != 0) ++
      bad 36 ((create && !decide (1 ≤ tier ∧ tier ≤ 4)) || (release && tier != 0)) ++
      bad 37 ((create && decide (7 < fld d 37 1)) || (release && fld d 37 1 != 0)) ++ bad 38 (decide (1 < act)) ++
      len 40 ((create && !sizeOk) || (release && n != 0)) ++ bad 48 ((create && fld d 48 8 == 0) || (release && fld d 48 8 != 0)) ++
      len 56 ((create && tier == 4 && (!host || decide (th < wcStream n))) ||
        ((release || (create && tier != 4)) && (th != 0 || descOp1 d != 0)))
  | 0x21 =>
    align ++ bad 8 (descOp0 d != 0) ++ bad 24 (descRes d != 0) ++ bad 36 (!decide (1 ≤ tier ∧ tier ≤ 4)) ++
      len 56 (if tier == 4 then (descOp1 d == 0) != (th == 0) || (descOp1 d != 0 && !host) else th != 0 || descOp1 d != 0)
  | 0x22 | 0x23 =>
    let n := fld d 48 8
    align ++ bad 8 (descOpcode d == 0x22 && descOp0 d != 0) ++ bad 16 (descOp1 d != 0) ++
      bad 24 (if descOpcode d == 0x22 then descRes d % 64 != 0 else descRes d != 0) ++ bad 40 (fld d 40 8 % blockRaw != 0) ++
      len 48 (n % 64 != 0 || !decide (64 ≤ n ∧ n ≤ 2 ^ 30))
  | _ =>
    bad 8 (descOp0 d % 64 != 0) ++ bad 16 (descOp1 d != 0) ++ len 32 (!decide (1 ≤ fld d 32 2 ∧ fld d 32 2 ≤ 256))

/-- The checks of Table 9.5 that the record of the object decides. -/
def recordChecks (x : Tensor) (d : Bytes) : List (Nat × Nat) :=
  match descOpcode d with
  | 0x21 =>
    let th := if descOp1 d = 0 then x.thBytes else fld d 56 8
    if fld d 36 1 = 4 ∧ th < wcStream x.bytes then [(56, 0x13)] else []
  | 0x22 | 0x23 => if x.bytes < fld d 40 8 + fld d 48 8 then [(48, 0x13)] else []
  | _ => []

/-- The tenancy has a move context of a Squirrel (R384). -/
def State.hasMoveCtx (s : State) (t q : Nat) : Bool := (List.range 16).any (fun c => s.ownedBy 0x0500300 (16 * q + c) t)

/-- A move context of the tenancy that is free on a Squirrel (R378). -/
def State.freeMoveCtx (s : State) (t q : Nat) : Option Nat :=
  (List.range 16).find? (fun c => s.ownedBy 0x0500300 (16 * q + c) t && !s.jobs.any (fun j => j.move == some (q, c)))

/-! ### The order of work on an object (R376) -/

/-- Two pieces of work stand in the order of one object. -/
def sameObject (k j : TensorJob) : Bool := handleIx k.handle == handleIx j.handle && !k.create && !j.create

/-- The job has every earlier one on its object behind it: all of them for a writer, the writers for a reader. -/
def jobReady (before : List TensorJob) (j : TensorJob) : Bool :=
  before.all (fun k => !sameObject k j || (!k.writer && !j.writer))

/-- The first job that a test picks, and the jobs before it (DESIGN CHOICE, assumption 41). -/
def State.findJob (s : State) (p : TensorJob → Bool) : Option (List TensorJob × TensorJob) :=
  (s.jobs.find? p).map (fun j => (s.jobs.takeWhile (fun k => !p k), j))

/-- The first job that a test picks replaced, or taken out. -/
def mapFirst (p : TensorJob → Bool) (f : TensorJob → TensorJob) : List TensorJob → List TensorJob
  | [] => []
  | j :: t => if p j then f j :: t else j :: mapFirst p f t
def dropFirst (p : TensorJob → Bool) : List TensorJob → List TensorJob
  | [] => []
  | j :: t => if p j then t else j :: dropFirst p t

/-- A job replaced. -/
def State.setJob (s : State) (j k : TensorJob) : State := { s with jobs := mapFirst (· == j) (fun _ => k) s.jobs }

/-- The Squirrel that serves a job's object, for a CREATE that of the handle it takes; none once the object is gone. -/
def State.jobSquirrel (s : State) (j : TensorJob) : Option Nat :=
  if j.create then
    let port := ((s.work j.w).map (·.port)).getD 0
    (if j.started then some (handleIx j.handle) else s.freeTensorIx j.tenancy).map (squirrelOf (portDie port))
  else (s.tensorOf j.tenancy j.handle).map (fun x => squirrelOf x.die j.handle)

/-- The work of a job is stalled or has its result; a return has no work. -/
def State.jobHalted (s : State) (j : TensorJob) : Bool :=
  j.hold.isNone && match s.work j.w with
    | some x => x.stalled || x.result.isSome
    | none => true

/-- A job may start but for a move context: nothing before it on its object excludes it, and no FENCE or other earlier work holds its
descriptor back (R133, R376). -/
def State.jobOpen (s : State) (before : List TensorJob) (j : TensorJob) : Bool :=
  !s.jobHalted j && jobReady before j && ((s.work j.w).all s.mayStart || j.trail.isSome || j.hold.isSome)

/-- Jobs that have become ready to start take their places in the order of R378. -/
def State.queueJobs (s : State) : State :=
  { s with jobs := (s.jobs.foldl (fun (acc : List TensorJob × Nat) j =>
      if j.ready = 0 ∧ j.started = false ∧ s.jobOpen acc.1 j = true then (acc.1 ++ [{ j with ready := acc.2 }], acc.2 + 1)
      else (acc.1 ++ [j], acc.2)) ([], (s.jobs.map (·.ready)).foldl max 0 + 1)).1 }

/-- A job joins the order. -/
def State.addJob (s : State) (j : TensorJob) : State := { s with jobs := s.jobs ++ [j] }.queueJobs

/-- Another job waits for a move context of the same tenancy on the same Squirrel, and became ready to start before this one (R378). -/
def State.waitsBefore (s : State) (j : TensorJob) (q : Nat) : Bool :=
  s.jobs.any (fun k => !k.started && k.moves && k.tenancy == j.tenancy && k.ready != 0 && decide (k.ready < j.ready) && !s.jobHalted k &&
    s.jobSquirrel k == some q)

/-- A job that ends without its last step (R377, R385): the object back in LIVE, the target's room given up, with what a Badger was to
write there. -/
def State.undoMove (s : State) (j : TensorJob) : State :=
  let s := if j.started && j.writer && j.target != 0 then
      { s with tensors := tmap s.tensors (handleIx j.handle) (fun x => if x.state = 2 then { x with state := 1 } else x) }
    else s
  match j.sent, j.dest with
  | some _, some a => (s.dropWrite (tensorReq j.w j.handle)).trim a j.room
  | _, _ => s

/-- A job leaves the order; a move still in progress is undone. -/
def State.dropJob (s : State) (j : TensorJob) : State := { s.undoMove j with jobs := dropFirst (· == j) s.jobs }.queueJobs

/-- The jobs of a piece of work leave the order. -/
def State.endJobs (s : State) (w : Nat) : State :=
  let mine := fun (j : TensorJob) => j.w == w && j.hold.isNone
  let s := (s.jobs.filter mine).foldl State.undoMove s
  { s with jobs := s.jobs.filter (fun j => !mine j) }

/-! ### Trails: outcomes (R399, R400) -/

/-- The trail of a piece of work. -/
def State.trail (s : State) (w : Nat) : Option Trail := s.trails.find? (fun (r : Trail) => r.w == w)

/-- An entry of a trail changed. -/
def State.setTrailEntry (s : State) (w entry : Nat) (f : TrailEntry → TrailEntry) : State :=
  { s with trails := s.trails.map (fun r =>
      if r.w = w then (match r.entries[entry]? with
        | some e => { r with entries := lset r.entries entry (f e) }
        | none => r)
      else r) }

/-- TRAIL_POST ends once every entry has an outcome: the outcome bytes go to the result address, if it is not 0
(DEDUCED, assumption 66). -/
def State.trailEnd (s : State) (w : Nat) : State :=
  match s.trail w, s.work w with
  | some r, some x =>
    let os := r.entries.filterMap (·.outcome)
    if os.length < r.entries.length ∨ x.result.isSome then s
    else
      let good := (os.filter (fun o => o == 0 || o == 2)).length
      let res := descRes x.desc
      s.withAccess x (if res = 0 then [] else [(res, os.length, true)]) fun s =>
        let s := if res = 0 then s else s.writeAt x res (os.map (BitVec.ofNat 8))
        { s with trails := s.trails.filter (fun (r : Trail) => r.w != w) }.finish w { Result.done good with status := b2n (decide (good < os.length)) }
  | _, _ => s

/-- An entry's outcome; LATE counts in TEL_TRAIL_LATE (DEDUCED, assumption 66). -/
def State.outcome (s : State) (w entry code : Nat) : State :=
  let s := s.setTrailEntry w entry (fun e => { e with outcome := some code })
  let t := ((s.work w).map (·.tenancy)).getD 0
  let s := if code = 1 then s.bump (0x0B00000 + 0x100 * t) 1 else s
  s.trailEnd w

/-- An entry of a trail. -/
def State.trailEntry (s : State) (w entry : Nat) : Option TrailEntry := (s.trail w).bind (fun r => r.entries[entry]?)

/-! ### Moves (R377, R378) -/

/-- A move of a tensor begins: its room is taken and STATE is MOVING. -/
def State.beginMove (s : State) (j : TensorJob) (x : Tensor) (a n : Nat) : State :=
  (s.setTensor j.handle { x with state := 2 }).setJob j { j with dest := if n = 0 then none else some a, room := n }

/-- The record after a move to a tier: a new TH buffer is bound where the descriptor names one (R381). -/
def movedTo (x : Tensor) (tier : Nat) (work : Option Work) : Tensor :=
  match work with
  | some y =>
    if tier = 4 ∧ y.opcode = 0x21 ∧ descOp1 y.desc ≠ 0 then
      { x with tier, thAddr := descOp1 y.desc, thBytes := fld y.desc 56 8, pasid := y.pasid, port := y.port }
    else { x with tier }
  | none => { x with tier }

/-- A result for the first failing check of a list: the lowest offset, then the first (R710). -/
def firstCheck (cs : List (Nat × Nat)) : Option Result :=
  (bestBy (fun a b => decide (a.1 < b.1)) cs).map (fun c => Result.err c.2 c.1)

/-- What a TENSOR_MOVE comes to at its start: a result at once, where a check fails or the tensor is at the tier already (R381, R384), or the
room of its target. -/
def State.moveStep (s : State) (x : Work) (t : Tensor) (j : TensorJob) : Result ⊕ (Nat × Nat) :=
  match firstCheck (recordChecks t x.desc) with
  | some r => .inl r
  | none =>
    if t.tier = j.target then .inl { Result.done 0 with b24 := t.b24 }
    else
      let stored := if t.tier = 1 then streamLen (s.storedBlocks t []) else t.stored
      match s.roomFor t.tenancy t.die j.target t.bytes stored with
      | .fail r => .inl r
      | .ok a n => .inr (a, n)

/-- A trail move starts (R399): the checks of R384 decide NO_SPACE; an object that has gone meanwhile makes it FAILED; one
already at its tier has nothing to move. -/
def State.startTrailMove (s : State) (j : TensorJob) (entry : Nat) : State :=
  match s.tensorOf j.tenancy j.handle, s.trailEntry j.w entry with
  | some x, some e =>
    if x.tier = j.target then (s.dropJob j).outcome j.w entry (b2n (decide (e.deadline < s.time.now)))
    else match s.roomFor x.tenancy x.die j.target x.bytes x.stored with
      | .fail _ => (s.drawn.dropJob j).outcome j.w entry 5
      | .ok a n => s.drawn.beginMove j x a n
  | _, _ => (s.dropJob j).outcome j.w entry 4

/-- A return has failed (R401). -/
def State.returnFails (s : State) (j : TensorJob) : State := (s.dropJob j).bump (0x0B00008 + 0x100 * j.tenancy) 1

/-- A return starts (R401): skipped where another writer has completed on the tensor since the entry's move. -/
def State.startReturn (s : State) (j : TensorJob) (h : TrailHold) : State :=
  match s.tensorOf j.tenancy j.handle with
  | none => s.dropJob j
  | some x =>
    if x.writers ≠ h.writers then s.dropJob j
    else match s.roomFor x.tenancy x.die j.target x.bytes x.stored with
      | .fail _ => s.drawn.returnFails j
      | .ok a n => s.drawn.beginMove j x a n

/-- A job starts without a context: its object has gone, or the work is no Squirrel's. -/
def State.startBare (s : State) (j : TensorJob) : State :=
  match j.hold, j.trail with
  | some _, _ => s.dropJob j
  | none, some (tw, entry) => (s.dropJob j).outcome tw entry 4
  | none, none => s.setJob j { j with started := true }

/-- A job that no context of the Squirrel can ever serve (R384): a descriptor's failure is its own step's. -/
def State.startNever (s : State) (j : TensorJob) : State :=
  match j.hold, j.trail with
  | some _, _ => s.returnFails j
  | none, some (tw, entry) => (s.dropJob j).outcome tw entry 5
  | none, none => s

/-- What the start of a job that has taken its context does to its object. -/
def State.startMove (s : State) (j : TensorJob) : State :=
  match j.hold, j.trail with
  | some h, _ => s.startReturn j h
  | none, some (_, entry) => s.startTrailMove j entry
  | none, none =>
    if j.target = 0 then s
    else match s.work j.w, s.tensorOf j.tenancy j.handle with
      | some x, some t =>
        match s.moveStep x t j with
        | .inr (a, n) => s.drawn.beginMove j t a n
        | .inl _ => s
      | _, _ => s

/-- A job that has not started does so once nothing before it on its object excludes it and a move context of its tenancy is free on the
serving Squirrel: jobs that wait for one take it in the order in which they became ready (R376, R378). A move is MOVING from here on (R377). -/
def State.startJob (s : State) (before : List TensorJob) (j : TensorJob) : State :=
  if s.jobOpen before j = false then s
  else match s.jobSquirrel j with
    | none => if j.create then s else s.startBare j
    | some q =>
      if j.moves = false then s.startBare j
      else if s.waitsBefore j q then s
      else match s.freeMoveCtx j.tenancy q with
        | some c =>
          let handle := if j.create then (s.freeTensorIx j.tenancy).elim j.handle (fun i => s.nextGen i * 2 ^ 20 + i) else j.handle
          let k := { j with started := true, move := some (q, c), handle }
          (s.setJob j k).startMove k
        | none => if s.hasMoveCtx j.tenancy q then s else s.startNever j

/-- MOVE_START: a piece of work on a tensor object starts. -/
def moveStartSt (handle w : Nat) (s : State) : State :=
  match s.findJob (fun j => j.w == w && (j.handle == handle || j.create) && !j.started) with
  | none => s
  | some (before, j) => s.startJob before j

def execMoveStart (handle w : Nat) (s : State) : Out := .next (moveStartSt handle w s)

/-- The step of a descriptor's job: it starts if it has not started yet, and once it has, `f`. -/
def State.withJob (s : State) (w : Nat) (f : TensorJob → State → State) : State :=
  let mine := fun (j : TensorJob) => j.w == w && j.trail.isNone && j.hold.isNone
  match s.findJob mine with
  | none => s
  | some (before, j) =>
    let s := if j.started then s else s.startJob before j
    match s.jobs.find? mine with
    | some k => if k.started then f k s else s
    | none => s

/-- The step of a descriptor on a tensor object whose job has started: the object it names, or DENIED_TENANCY where an earlier
piece of work has released it (R372); QUOTA_EXCEEDED where its Squirrel has no context of the tenancy (R384). -/
def State.withTensor (s : State) (w op : Nat) (f : Work → Tensor → TensorJob → State → State) : State :=
  s.withWork w (· == op) fun x s =>
    match s.jobs.find? (fun j => j.w == w && j.trail.isNone && j.hold.isNone && j.moves) with
    | some j =>
      if j.started = false ∧ (s.jobSquirrel j).any (fun q => !s.hasMoveCtx j.tenancy q) = true then s.finish w (Result.err 0x60 1)
      else s.withJob w fun j s =>
        match s.tensorOf x.tenancy j.handle with
        | none => s.finish w (Result.err 0x21 0)
        | some t => f x t j s
    | none => s

/-- TENSOR_MOVE: once started, it ends at once where it has nothing to move or its target cannot be had (R381, R384); a move in progress ends by
its MOVE_COMPLETE. -/
def tensorMoveSt (w : Nat) (s : State) : State :=
  s.withTensor w 0x21 fun x t j s =>
    if t.state ≠ 1 then s
    else match s.moveStep x t j with
      | .inl r => s.drawn.finish w r
      | .inr (a, n) => s.drawn.beginMove j t a n

def execTensorMove (w : Nat) (s : State) : Out := .next (tensorMoveSt w s)

/-- Accesses of a TH copy go under the PASID and port of the context that placed its buffer. -/
def Work.under (y : Work) (x : Tensor) : Work := { y with pasid := x.pasid, port := x.port }

/-- The accesses of a work let through, and those of TH copies with it. -/
def State.gateTH (s : State) (y : Work) (accs : List (Nat × Nat × Bool)) (th : List (Tensor × Nat × Bool)) (f : State → State) : State :=
  match th with
  | [] => s.withAccess y accs f
  | (x, n, wr) :: t =>
    match s.gate (y.under x) [(x.thAddr, n, wr)] with
    | .hold s => s
    | .go s => s.gateTH y accs t f

/-- The number under which a job's accesses wait for units. -/
def jobCell (j : TensorJob) : Nat := 2 ^ 40 + handleIx j.handle

/-- A new copy placed: HBM, DDR and a TH buffer take it at once; on flash it is ciphertext that goes through the Badgers' write buffers, and the job
goes on with its command's next occurrence once every grain is programmed (R566, R567). -/
def State.placeCopy (s : State) (j : TensorJob) (new : Tensor) (raw stream : Bytes) (f : State → State) : State :=
  if new.tier ≠ 3 then f (s.putCopy new (if new.tier = 4 then new.thAddr else new.loc) raw stream)
  else (s.flashWrite new.tenancy new.loc (s.sealFlash new.tenancy new.loc stream) (tensorReq j.w j.handle)).setJob j { j with sent := some new }

/-- A job whose copy the Badgers have: the status of a write that failed, or the last step with the record to set. -/
def State.afterFlash (s : State) (j : TensorJob) (new : Tensor) (fails : Nat → State → State) (f : Tensor → State → State) : State :=
  match j.failed with
  | some status => fails status s
  | none => if s.flashBusy (tensorReq j.w j.handle) then s else f new s

/-- The record of a T3 copy journalled (R589). -/
def State.noteRecord (s : State) (h : Nat) (x : Tensor) : State := if x.tier = 3 then s.journalTensor (handleIx h) x true else s

/-- The one step that ends a move: the record at the new tier, the source freed (R377). -/
def State.landMove (s : State) (j : TensorJob) (x new : Tensor) : State :=
  let new := { new with state := 1, lastFrame := s.frame % 2 ^ 32, writers := x.writers + 1 }
  let s := s.setJob j { j with dest := none, room := 0, sent := none }
  ((s.vacate (handleIx j.handle) x j.before).setTensor j.handle new).noteRecord j.handle new

/-- A move ends: its descriptor completes, its trail entry has its outcome and its hold, a return reports to no ring. -/
def State.endMove (s : State) (w : Nat) (j : TensorJob) (x : Tensor) : State :=
  let j' := { j with dest := none, room := 0, sent := none }
  match j.hold, j.trail with
  | some _, _ => s.dropJob j'
  | none, none =>
    s.finish w { Result.done (blockCount x.bytes) with b24 := ((s.tensorOf j.tenancy j.handle).map Tensor.b24).getD 0 }
  | none, some (tw, entry) =>
    match s.trailEntry tw entry with
    | none => s.dropJob j'
    | some e =>
      let s := s.dropJob j'
      let s := { s with holds := if e.hold = 0 then s.holds else s.holds ++
        [({ w := tw, handle := j.handle, time := e.hold, tier := e.source, writers := x.writers + 1 } : TrailHold)] }
      s.outcome tw entry (b2n (decide (e.deadline < s.time.now)))

/-- A move that fails leaves its object as it was (R377, R385). -/
def State.moveFails (s : State) (w : Nat) (j : TensorJob) (r : Result) : State :=
  match j.hold, j.trail with
  | some _, _ => s.returnFails j
  | none, none => (s.undoMove j).finish w r
  | none, some (tw, entry) => (s.dropJob j).outcome tw entry 4

/-- The accesses of a move let through: its TH copies under its work, the NAND dies of a T3 source, and the slots in which the Squirrel serves it. The
DMA of a return goes without a work (DEDUCED, assumption 66). -/
def State.onMove (s : State) (j : TensorJob) (x new : Tensor) (f : State → State) : State :=
  let th := (if x.tier = 4 then [(x, x.stored, false)] else []) ++ (if new.tier = 4 then [(new, new.stored, true)] else [])
  let media := fun (s : State) =>
    s.onMedia j.w (jobCell j) j.tenancy (s.readDies (s.blockGrains x 0 (blockCount x.bytes)))
      (s.squirrelUnits x.homeDen (x.hbmPlace ++ new.hbmPlace)) f
  match s.work j.w with
  | some y => if j.hold.isSome then media s else s.gateTH y [] th media
  | none => media s

/-- MOVE_COMPLETE: every block read and written, the move ends in one step; a failing block leaves the object as it was (R377,
R385). Between T2, T3 and TH blocks are copied as they are stored. `buffer` is what the host returned of the TH buffer; `bad` are the blocks that
media or a host fail to give. -/
def moveCompleteSt (handle w : Nat) (buffer : Bytes) (bad : List Nat) (s : State) : State :=
  match s.findJob (fun j => j.w == w && j.handle == handle && j.started && j.writer && j.target != 0 && !j.create) with
  | none => s
  | some (_, j) =>
    match s.tensorOf j.tenancy handle with
    | none => s
    | some x =>
      if x.state ≠ 2 ∨ s.jobHalted j then s
      else match j.sent with
        | some new => s.afterFlash j new (fun status s => s.moveFails w j (Result.err status 0)) fun new s => (s.landMove j x new).endMove w j x
        | none =>
          let n := blockCount x.bytes
          let new := movedTo x j.target (if j.trail.isNone && j.hold.isNone then s.work w else none)
          let stream := streamOf x.elem x.bytes (s.storedBlocks x buffer)
          let new := { new with
            stored := if j.target = 1 then x.bytes else stream.length, loc := if j.target = 4 then new.thAddr else j.dest.getD 0 }
          s.onMove j x new fun s =>
            let bs := s.readBlocks x buffer 0 n bad
            match (firstBad bs).filter (fun f => x.tier = 1 ∨ j.target = 1 ∨ f.2 = 1) with
            | some f => (s.loseBlocks x 0 bad).moveFails w j (badResult x.tier f)
            | none => s.placeCopy j new (rawOf bs) stream fun s => (s.landMove j x new).endMove w j x

def execMoveComplete (handle w : Nat) (blocks : BlockRead) (s : State) : Out := .next (moveCompleteSt handle w blocks.buffer blocks.bad s)

/-! ### TENSOR_PLACE (R380, R384, R386) -/

/-- The record of a new tensor (DEDUCED, assumption 65). -/
def newTensor (x : Work) (gen home : Nat) : Tensor :=
  let d := x.desc
  let tier := fld d 36 1
  { state := 1, tier, elem := fld d 37 1, homeDen := home, gen, bytes := fld d 40 8, name := fld d 48 8, stored := 0, loc := 0
    thBytes := fld d 56 8, tenancy := x.tenancy, ownerCtx := x.ctx, lastFrame := 0, pasid := if tier = 4 then x.pasid else 0
    port := x.port, thAddr := descOp1 d, writers := 0 }

/-- The home den of a new tensor: of the die of the ring's port, the den with the fewest tensor homes (R374). -/
def State.tensorDen (s : State) (port : Nat) : Nat :=
  let count := fun den => (s.allTensors.filter (fun x => x.homeDen == den)).length
  let base := 4 * portDie port
  (bestBy (fun a b => decide (count a < count b)) ((List.range 4).map (· + base))).getD base

/-- The failures of R384 that a CREATE's tables decide, in its order. -/
def State.createFault (s : State) (x : Work) (i : Option Nat) : Option Result :=
  let c := s.ctx x.ctx
  let name := fld x.desc 48 8
  if c.qTensorBytes < s.tensorBytes x.ctx + fld x.desc 40 8 then some (Result.err 0x60 2)
  else if s.allTensors.any (fun y => y.tenancy == x.tenancy && y.name == name) then some (Result.err 0x10 48)
  else match i with
    | none => some (Result.err 0x12 36)
    | some i => if s.hasMoveCtx x.tenancy (squirrelOf (portDie x.port) i) then none else some (Result.err 0x60 1)

/-- Failing blocks of a range of contents in a work's own addresses. -/
def State.poisonBlock (s : State) (x : Work) (a n : Nat) : Option (Nat × Nat) :=
  ((List.range (blockCount n)).find? (fun i => s.poisonedAt x (a + blockRaw * i) (blockLen n i))).map (fun i => (i, 1))

/-- The last step of a CREATE: the record made (R379). -/
def State.landCreate (s : State) (w : Nat) (j : TensorJob) (new : Tensor) : State :=
  let i := handleIx j.handle
  let s := s.setJob j { j with dest := none, room := 0, sent := none }
  let s : State := { s.setTensor j.handle new with tensorGen := tset s.tensorGen i new.gen }
  (s.noteRecord j.handle new).finish w { Result.done j.handle with b24 := new.b24 }

/-- A CREATE that has started: contents read, encoded and placed (R380, R384, R385). -/
def State.makeTensor (s : State) (x : Work) (j : TensorJob) (contents : Bytes) : State :=
  let t := newTensor x (handleGen j.handle) (s.tensorDen x.port)
  let a0 := descOp0 x.desc
  let raw := fun (s : State) => if a0 = 0 then List.replicate t.bytes 0 else s.readAt x a0 t.bytes contents
  let enc := (toBlocks (raw s)).map (encodeBlock t.elem)
  let reads := if a0 = 0 then [] else [(a0, t.bytes, false)]
  let writes := if t.tier = 4 then [(t.thAddr, streamLen enc, true)] else []
  s.withAccess x (reads ++ writes) fun s =>
    match (if a0 = 0 then none else s.poisonBlock x a0 t.bytes) with
    | some f => s.finish x.id (badResult 1 f)
    | none =>
      match s.roomFor x.tenancy t.die t.tier t.bytes (streamLen enc) with
      | .fail r => s.drawn.finish x.id r
      | .ok a n =>
        let t := { t with stored := if t.tier = 1 then t.bytes else streamLen enc, loc := if t.tier = 4 then t.thAddr else a }
        s.onMedia x.id (jobCell j) x.tenancy [] (s.squirrelUnits t.homeDen t.hbmPlace) fun s =>
          let k := { j with dest := if n = 0 then none else some a, room := n }
          (s.drawn.setJob j k).placeCopy k t (raw s) (streamOf t.elem t.bytes enc) fun s => s.landCreate x.id k t

/-- TENSOR_PLACE with ACTION CREATE: it starts with a move context of the Squirrel of the handle it takes (R378). -/
def tensorCreateSt (w : Nat) (contents : Bytes) (s : State) : State :=
  s.withWork w (· == 0x20) fun x s =>
    if fld x.desc 38 1 ≠ 0 then s
    else match (if s.jobs.any (fun j => j.w == w && j.create && j.started) then none else s.createFault x (s.freeTensorIx x.tenancy)) with
      | some r => s.finish w r
      | none =>
        s.withJob w fun j s =>
          match j.sent with
          | some new => s.afterFlash j new (fun status s => (s.undoMove j).finish w (Result.err status 0)) fun new s => s.landCreate w j new
          | none => s.makeTensor x j contents

def execTensorCreate (w : Nat) (contents : Bytes) (s : State) : Out := .next (tensorCreateSt w contents s)

/-- TENSOR_PLACE with ACTION RELEASE: in the object's order, without a move context (DEDUCED, assumption 65). -/
def tensorReleaseSt (w : Nat) (s : State) : State :=
  s.withWork w (· == 0x20) fun x s =>
    if fld x.desc 38 1 ≠ 1 then s
    else
      let h := fld x.desc 32 4
      match s.findJob (fun j => j.w == w && j.trail.isNone && j.hold.isNone) with
      | none => s
      | some (before, j) =>
        if jobReady before j = false then s
        else match s.tensorOf x.tenancy h with
          | none => s.finish w (Result.err 0x21 0)
          | some t =>
            let s := s.vacate (handleIx h) t w
            { s with tensors := tdel s.tensors (handleIx h) }.finish w (Result.done 0)

def execTensorRelease (w : Nat) (s : State) : Out := .next (tensorReleaseSt w s)

/-! ### TENSOR_GET and TENSOR_PUT (R382, R385) -/

/-- The blocks of a range that decode, written block by block to an address. -/
def State.writeGood (s : State) (y : Work) (res : Nat) (n : Nat) : (i : Nat) → List Decoded → State
  | _, [] => s
  | i, .bad _ :: t => s.writeGood y res n (i + 1) t
  | i, .ok b :: t => (s.writeAt y (res + blockRaw * i) (b.take (n - blockRaw * i))).writeGood y res n (i + 1) t

/-- TENSOR_GET: every block of the range but the failing ones is written. `buffer` is what the host returned of the TH buffer, `bad` are the
blocks of the range that media or a host fail to give. -/
def tensorGetSt (w : Nat) (buffer : Bytes) (bad : List Nat) (s : State) : State :=
  s.withTensor w 0x22 fun y x j s =>
    match firstCheck (recordChecks x y.desc) with
    | some r => s.finish w r
    | none =>
      let first := fld y.desc 40 8 / blockRaw
      let n := fld y.desc 48 8
      s.gateTH y [(descRes y.desc, n, true)] (if x.tier = 4 then [(x, x.stored, false)] else []) fun s =>
        s.onMedia w (jobCell j) x.tenancy (s.readDies (s.blockGrains x first (blockCount n)))
            (s.squirrelUnits x.homeDen (x.hbmPlace.map (fun r => (r.1 + fld y.desc 40 8, n)))) fun s =>
          let bs := s.readBlocks x buffer first (blockCount n) bad
          let s := (s.loseBlocks x first bad).writeGood y (descRes y.desc) n 0 bs
          match firstBad bs with
          | some f => s.finish w (badResult x.tier f)
          | none => s.finish w { Result.done n with b24 := x.stored }

def execTensorGet (w : Nat) (blocks : BlockRead) (s : State) : Out := .next (tensorGetSt w blocks.buffer blocks.bad s)

/-- The place of a rewritten stream of n bytes: in DDR where it stands if it still fits there, otherwise a new place; on flash always a new one,
so that a PUT that fails leaves the tensor as it was (R385) (DEDUCED, assumption 65). -/
def State.rewritePlace (s : State) (h : Nat) (x : Tensor) (n : Nat) : Option Nat :=
  if x.tier = 3 then s.pick (flashSpace x.die) (roundup n (2 ^ 14)) (2 ^ 14)
  else
    let s' := { s with tensors := tdel s.tensors (handleIx h) }
    let m := roundup n 4096
    let r := s.ddrAllot x.tenancy x.die
    if (s'.gaps r).any (inRange x.loc m) then some x.loc else s'.pick r m 4096

/-- The blocks of a tensor with a range of bytes rewritten: only the last block can be covered in part
(DEDUCED, assumption 65). -/
def putBlocks (elem bytes first n : Nat) (old : List Bytes) (bs : List Decoded) (data : Bytes) : List Bytes :=
  let touched := blockCount n
  let new := (List.range touched).map (fun i =>
    let d := (data.drop (blockRaw * i)).take blockRaw
    let rest := match bs.getD i (.ok []) with | .ok b => b | .bad _ => []
    encodeBlock elem (slice (d ++ rest.drop d.length) 0 (blockLen bytes (first + i))))
  old.take first ++ new ++ old.drop (first + touched)

/-- The last step of a PUT: the new stream's record set, the old copy's storage freed. -/
def State.landPut (s : State) (w : Nat) (j : TensorJob) (x new : Tensor) (n : Nat) : State :=
  let s := s.setJob j { j with dest := none, room := 0, sent := none }
  let s :=
    if new.loc ≠ x.loc then s.vacate (handleIx j.handle) x w
    else if x.tier = 2 then s.freeStorage (x.loc + roundup new.stored 4096) (roundup x.stored 4096 - roundup new.stored 4096) x.tenancy
    else s
  (((s.setTensor j.handle new).noteRecord j.handle new).finish w { Result.done n with b24 := new.stored })

/-- A PUT into a stream: its blocks rewritten, its room found, the new stream written. -/
def State.rewriteStream (s : State) (w : Nat) (j : TensorJob) (x : Tensor) (first n : Nat) (old blocks : List Bytes) : State :=
  let size := streamLen blocks
  let grown := roundup (x.stored - (((old.drop first).take (blockCount n)).map List.length).sum + 65600 * blockCount n) 4096
  let room := s.freeBytes (s.ddrAllot x.tenancy x.die) + roundup x.stored 4096
  if x.tier = 2 ∧ room < grown then s.finish w (Result.err 0x12 40)
  else match (if x.tier = 4 then some x.thAddr else s.rewritePlace j.handle x size) with
    | none => s.drawn.finish w (if x.tier = 2 then Result.err 0x12 40 else Result.err 0x30 0)
    | some a =>
      if x.tier = 3 ∧ s.refusesWrite x.tenancy [(a, size)] then s.drawn.finish w (Result.err 0x30 0)
      else
        let new := { x with writers := x.writers + 1, loc := a, stored := size }
        let k := if x.tier = 3 then { j with dest := some a, room := roundup size (2 ^ 14) } else j
        (s.drawn.setJob j k).placeCopy k new [] (streamOf x.elem x.bytes blocks) fun s => s.landPut w k x new n

/-- TENSOR_PUT: a block covered in part is decoded and encoded again; a failing one ends the PUT without effect. -/
def tensorPutSt (w : Nat) (contents buffer : Bytes) (bad : List Nat) (s : State) : State :=
  s.withTensor w 0x23 fun y x j s =>
    let off := fld y.desc 40 8
    let n := fld y.desc 48 8
    match firstCheck (recordChecks x y.desc), j.sent with
    | some r, _ => s.finish w r
    | none, some new =>
      s.afterFlash j new (fun status s => (s.undoMove j).finish w (Result.err status 0)) fun new s => s.landPut w j x new n
    | none, none =>
      let first := off / blockRaw
      let a0 := descOp0 y.desc
      let touched := blockCount n
      let part := x.tier != 1 && decide (n < ((List.range touched).map (fun i => blockLen x.bytes (first + i))).sum)
      let old := s.storedBlocks x buffer
      let bs := List.replicate (touched - 1) (Decoded.ok []) ++ (s.readBlocks x buffer first touched bad).drop (touched - 1)
      let blocks := fun (s : State) => putBlocks x.elem x.bytes first n old bs (s.readAt y a0 n contents)
      let th := if x.tier = 4 then [(x, x.stored, false), (x, streamLen (blocks s), true)] else []
      let read := if part then s.blockGrains x (first + touched - 1) 1 else []
      s.gateTH y [(a0, n, false)] th fun s =>
        s.onMedia w (jobCell j) x.tenancy (s.readDies read) (s.squirrelUnits x.homeDen (x.hbmPlace.map (fun r => (r.1 + off, n)))) fun s =>
          match s.poisonBlock y a0 n, (if part then firstBad bs else none) with
          | some f, _ => s.finish w (badResult 1 f)
          | none, some f => (s.loseBlocks x first (bad.filter (· + 1 == touched))).finish w (badResult x.tier f)
          | none, none =>
            if x.tier = 1 then
              ((s.put (x.loc + off) (s.readAt y a0 n contents)).setTensor j.handle { x with writers := x.writers + 1 }).finish w
                { Result.done n with b24 := x.stored }
            else s.rewriteStream w j x first n old (blocks s)

def execTensorPut (w : Nat) (contents : Bytes) (blocks : BlockRead) (s : State) : Out :=
  .next (tensorPutSt w contents blocks.buffer blocks.bad s)

/-! ### Trails (R396–R401) -/

/-- An entry of the list at an offset breaks R397, given the deadline of the one before. -/
def entryBad (b : Bytes) (o prev : Nat) : Bool :=
  let tier := fld b (o + 4) 1
  let deadline := fld b (o + 8) 8
  let hold := fld b (o + 16) 8
  decide (deadline < prev) || !decide (tier = 1 ∨ tier = 2) || (hold != 0 && decide (hold < deadline)) || !zeroRange b (o + 5) 3 ||
    !zeroRange b (o + 24) 8

/-- Some entry breaks R397. -/
def entriesBad (b : Bytes) (n : Nat) : Bool :=
  (List.range n).any (fun i => entryBad b (32 * i) (if i = 0 then 0 else fld b (32 * (i - 1) + 8) 8))

/-- The estimate of a move of a handle's tensor from the tier it holds (R398, Table 9.12): latency plus STORED bytes at RATE MB/s.
For a handle that names no tensor, and a RATE of 0, a free value (DEDUCED, assumption 66). -/
def State.estimate (s : State) (t h : Nat) : Nat :=
  match s.tensorOf t h with
  | some x =>
    let lat := (s.stored (0x0500100 + 8 * (x.tier - 1))).toNat % 2 ^ 32
    let rate := (s.stored (0x0500120 + 8 * (x.tier - 1))).toNat % 2 ^ 32
    if rate = 0 then s.freeVal else lat + x.stored * 1000 / rate
  | none => s.freeVal

/-- The entries of a posted trail with their starts, none before the last one's or the present. -/
def State.trailEntries (s : State) (t : Nat) (b : Bytes) : (n i prev : Nat) → List TrailEntry × State
  | 0, _, _ => ([], s)
  | n + 1, i, prev =>
    let o := 32 * i
    let h := fld b o 4
    let deadline := fld b (o + 8) 8
    let margin := (s.stored 0x0500080).toNat % 2 ^ 32
    let start := max prev (deadline - s.estimate t h - margin)
    let (rest, s') := s.drawn.trailEntries t b n (i + 1) start
    ({ handle := h, tier := fld b (o + 4) 1, deadline, hold := fld b (o + 16) 8, start, source := 0, outcome := none } :: rest, s')

/-- TRAIL_POST: entries read, checked, and their starts fixed; once posted, the end of the trail (DEDUCED, assumption 66). -/
def trailPostSt (w : Nat) (entries : Bytes) (s : State) : State :=
  s.withWork w (· == 0x24) fun x s =>
    if (s.trail w).isSome then s.trailEnd w
    else
      let n := fld x.desc 32 2
      s.withReads x [(descOp0 x.desc, 32 * n)] fun s =>
        let b := s.readAt x (descOp0 x.desc) (32 * n) entries
        if entriesBad b n then s.finish w (Result.err 0x12 8)
        else
          let (es, s) := s.trailEntries x.tenancy b n 0 s.time.now
          { s with trails := s.trails ++ [{ w, entries := es }] }

def execTrailPost (w : Nat) (entries : Bytes) (s : State) : Out := .next (trailPostSt w entries s)

/-- TRAIL_MOVE_START: at its start the entry's move enters the tensor's order (R399) (DEDUCED, assumption 66). -/
def trailMoveStartSt (w entry : Nat) (s : State) : State :=
  match s.trailEntry w entry, s.work w with
  | some e, some x =>
    if s.time.now < e.start ∨ e.outcome.isSome ∨ x.result.isSome ∨ s.jobs.any (fun j => j.trail == some (w, entry)) then s
    else match s.tensorOf x.tenancy e.handle with
      | none => s.outcome w entry 3
      | some t =>
        if t.tier = e.tier then s.outcome w entry 2
        else
          (s.setTrailEntry w entry (fun e => { e with source := t.tier })).addJob
            { handle := e.handle, w, tenancy := x.tenancy, trail := some (w, entry), hold := none, create := false, writer := true
              moves := true, target := e.tier, started := false, move := none, dest := none, room := 0, before := s.nextWork, ready := 0
              sent := none, failed := none }
  | _, _ => s

def execTrailMoveStart (w entry : Nat) (s : State) : Out := .next (trailMoveStartSt w entry s)

/-- TRAIL_RETURN: at HOLD_UNTIL, and after the trail's completion, the move back to the tier the tensor held enters its order as a trail move does;
skipped once another writer has completed on it (R401) (DEDUCED, assumption 66). -/
def trailReturnSt (handle w : Nat) (s : State) : State :=
  match s.holds.find? (fun h => h.handle == handle && h.w == w && decide (h.time ≤ s.time.now) && (s.work h.w).isNone) with
  | none => s
  | some h =>
    let s' := { s with holds := s.holds.erase h }
    match tget s.tensors (handleIx handle) with
    | none => s'
    | some x =>
      if x.state = 0 ∨ x.gen ≠ handleGen handle ∨ x.writers ≠ h.writers then s'
      else s'.addJob
        { handle, w := h.w, tenancy := x.tenancy, trail := none, hold := some h, create := false, writer := true, moves := true
          target := h.tier, started := false, move := none, dest := none, room := 0, before := s.nextWork, ready := 0
          sent := none, failed := none }

def execTrailReturn (handle w : Nat) (s : State) : Out := .next (trailReturnSt handle w s)

end Sys2Proof.Machine
end

