-- ==== Sys2Proof/Machine/Admission.lean ====
section
/-!
DEFINITION. Admission (Table 3.9), credits, completion, and the descriptors that act on rings and contexts alone (R117–R139).
-/

namespace Sys2Proof.Machine

/-! ### Opcodes (Table 3.7) and reserved fields (step 4) -/

/-- Credit class of an opcode: 1 QUERY, 2 UPDATE, 3 MOVE, 4 COMPUTE, 5 CONTROL, 0 none. -/
def opcodeClass : Nat → Option Nat
  | 0x01 | 0x02 | 0x03 | 0x04 | 0x15 | 0x16 | 0x17 | 0x18 | 0x32 | 0x34 => some 5
  | 0x10 | 0x11 | 0x19 | 0x30 | 0x42 => some 1
  | 0x12 | 0x13 | 0x14 | 0x31 => some 2
  | 0x20 | 0x21 | 0x22 | 0x23 | 0x24 | 0x33 => some 3
  | 0x40 | 0x41 => some 4
  | 0x60 | 0x61 => some 0
  | _ => none

/-- Opcodes a SERVICE ring takes (step 3). -/
def serviceOpcode (op : Nat) : Bool := op == 0x01 || op == 0x02 || op == 0x60 || op == 0x61

/-- Flag bits that an opcode defines. -/
def flagMask : Nat → Nat
  | 0x10 | 0x11 => 0x3F
  | 0x12 | 0x14 | 0x30 => 0x03
  | 0x19 => 0x05
  | _ => 0x01

/-- Reserved bits of the field at byte 32 that names an object. -/
def idReserved : Nat → Nat
  | 0x03 | 0x10 | 0x11 | 0x12 | 0x13 | 0x14 | 0x41 => 0x7000
  | 0x15 | 0x16 | 0x17 | 0x18 | 0x30 | 0x31 | 0x32 | 0x33 | 0x34 | 0x40 => 0xF000
  | _ => 0

/-- Reserved fields of an opcode: offset and size (DEDUCED, assumption 36). -/
def reservedSpans : Nat → List (Nat × Nat)
  | 0x01 | 0x04 => [(32, 32)]
  | 0x02 => [(33, 7), (48, 16)]
  | 0x03 => [(34, 30)]
  | 0x10 => [(42, 6)]
  | 0x11 => [(44, 4)]
  | 0x12 | 0x14 | 0x19 => [(40, 24)]
  | 0x13 | 0x31 => [(36, 28)]
  | 0x15 => [(46, 2), (60, 4)]
  | 0x16 | 0x17 | 0x18 => [(8, 8), (16, 8), (24, 8), (34, 30)]
  | 0x20 => [(39, 1)]
  | 0x21 => [(37, 19)]
  | 0x22 | 0x23 => [(36, 4), (56, 8)]
  | 0x24 | 0x61 => [(34, 30)]
  | 0x30 => [(38, 2), (44, 20)]
  | 0x32 | 0x34 => [(8, 8), (16, 8), (24, 8), (34, 6), (48, 16)]
  | 0x33 => [(38, 2), (52, 12)]
  | 0x40 => [(34, 2), (40, 24)]
  | 0x41 => [(35, 1)]
  | 0x42 => [(42, 2), (56, 8)]
  | 0x60 => [(8, 8), (16, 8), (24, 8), (37, 27)]
  | _ => []

/-- The failing checks of step 4, as offset and status (DEDUCED, assumption 35). -/
def reservedChecks (d : Bytes) : List (Nat × Nat) :=
  let op := descOpcode d
  badIf 1 0x12 (decide (descFlags d &&& flagMask op ≠ descFlags d)) ++ badIf 4 0x12 (decide (2 ^ 18 ≤ fld d 4 4)) ++
    badIf 32 0x12 (decide (fld d 32 2 &&& idReserved op ≠ 0)) ++
    (reservedSpans op).flatMap (fun r => badIf r.1 0x12 (!zeroRange d r.1 r.2))

/-! ### Objects named (step 8) -/

/-- An opcode that names a burrow, and one that may take the context's default (R120, R206, R248). -/
def namesBurrow (op : Nat) : Bool := op == 0x03 || (decide (0x10 ≤ op) && decide (op ≤ 0x18))
def usesDefault (op : Nat) : Bool := op == 0x03 || (decide (0x10 ≤ op) && decide (op ≤ 0x14))

/-- The burrow a descriptor names; 4096, an id no burrow has, for a default that is not VALID. -/
def State.burrowNamed (s : State) (d : Bytes) : Nat :=
  if namesBurrow (descOpcode d) = false then 0
  else if usesDefault (descOpcode d) && bit (fld d 32 2) 15 then
    let b := (s.ctx (descCtx d)).defaultBurrow
    if bit b 15 then b % 4096 else 4096
  else fld d 32 2 % 4096

/-- The tensor handle of a descriptor that names one. -/
def tensorNamed (d : Bytes) : Option Nat :=
  match descOpcode d with
  | 0x20 => if fld d 38 1 = 1 then some (fld d 32 4) else none
  | 0x21 | 0x22 | 0x23 => some (fld d 32 4)
  | _ => none

/-- Every object a descriptor names is allotted to the tenancy (R120, R372). -/
def State.namesOwn (s : State) (t : Nat) (d : Bytes) : Bool :=
  let op := descOpcode d
  let id := fld d 32 2 % 4096
  if namesBurrow op then s.burrowNamed d == 4096 || s.idTenancy 0 (s.burrowNamed d) == some t
  else if decide (0x30 ≤ op ∧ op ≤ 0x34) then s.idTenancy 1 id == some t
  else if op == 0x40 then s.idTenancy 2 id == some t
  else if op == 0x41 then bit (fld d 32 2) 15 || s.idTenancy 2 id == some t
  else match tensorNamed d with
    | some h => (s.tensorOf t h).isSome
    | none => true

/-! ### Step 7 -/

/-- The address checks of R470 on the header's addresses. -/
def addressChecks (d : Bytes) : List (Nat × Nat) :=
  badIf 8 0x12 (!addrLegal (descOp0 d)) ++ badIf 16 0x12 (!addrLegal (descOp1 d)) ++ badIf 24 0x12 (!addrLegal (descRes d))

/-- The checks of the opcode's own chapter; those against a burrow's parameters only for one of the tenancy's own (R120). A result address where none is used is 0 (Table 3.6)
(DEDUCED, assumption 35; DEDUCED, assumption 36) (DEDUCED, assumption 37). -/
def State.fieldChecks (s : State) (t : Nat) (d : Bytes) : List (Nat × Nat) :=
  let b := if s.namesOwn t d then s.burrow (s.burrowNamed d) else Burrow.free
  let op := descOpcode d
  match op with
  | 0x01 | 0x03 | 0x04 => badIf 24 0x12 (descRes d != 0)
  | 0x02 => badIf 24 0x12 (descRes d % 8 != 0) ++ badIf 32 0x12 (decide (1 < fld d 32 1))
  | 0x10 | 0x11 => searchChecks b d
  | 0x12 | 0x13 | 0x14 => updateChecks b (s.ctx (descCtx d)).qUpdates d
  | 0x15 => createChecks d
  | 0x19 => mergeChecks d
  | 0x20 | 0x21 | 0x22 | 0x23 | 0x24 =>
    tensorChecks d ++ (match (tensorNamed d).bind (s.tensorOf t) with | some x => recordChecks x d | none => [])
  | 0x30 | 0x31 | 0x33 => embChecks d
  | 0x40 | 0x41 => kernelChecks d
  | 0x42 => topkChecks d
  | 0x60 => badIf 34 0x12 (!decide (1 ≤ fld d 34 2 ∧ fld d 34 2 ≤ 1024)) ++ badIf 36 0x12 (decide (1 < fld d 36 1))
  | 0x61 =>
    badIf 8 0x12 (descOp0 d % 64 != 0 || addrClass (descOp0 d) != 0) ++ badIf 16 0x12 (descOp1 d != 0) ++
      badIf 24 0x12 (descRes d != 0) ++ badIf 32 0x13 (!decide (1 ≤ fld d 32 2 ∧ fld d 32 2 ≤ 1024))
  | _ => []

/-! ### Step 9 -/

/-- The stacks of a tenancy's HBM on a die, the slices of a die, and the dies of the die groups it may write there. -/
def State.hbmMaps (s : State) (t die : Nat) : List Nat :=
  let r := s.hbmAllot t die
  if r.2 = 0 then [] else (List.range (stackOf (r.1 + r.2 - 1) + 1 - stackOf r.1)).map (fun i => s.stackMap (stackOf r.1 + i))
def dieDens (die : Nat) : List Nat := (List.range 4).map (fun d => denMap (4 * die + d))
def State.flashMaps (s : State) (t die : Nat) : List Nat :=
  ((List.range 4).map (· + 4 * die)).flatMap (fun b => (s.flashGroups b t).flatMap (fun g =>
    (List.range 16).map (fun k => dieMap b (16 * (k / 4) + 4 * g + k % 4))))

/-- The units of a tier on a die, one of which a copy there takes. -/
def State.tierMaps (s : State) (t die tier : Nat) : List (List Nat) :=
  match tier with
  | 1 => [s.hbmMaps t die]
  | 2 => [dieDens die]
  | 3 => [s.flashMaps t die]
  | _ => []

/-- The units of a burrow's structures that every search or update of it uses: the root's stack, and some leaf's (R61). -/
def State.treeMaps (s : State) (b : Burrow) (walks : Bool) : List (List Nat) :=
  if b.state = 0 then []
  else (if walks then [s.unitsOf b.root] else []) ++ [(b.current.map (fun a => s.stackMap (b.leaf a).stack)).eraseDups]

/-- The units that hold a burrow's full vectors; none counts while a cache may hold them. -/
def State.vectorMaps (s : State) (b : Burrow) (reads : Bool) : List (List Nat) :=
  if b.state = 0 ∨ b.fullStore = 0 then []
  else if b.fullStore = 2 then [s.unitsOf b.vecBase]
  else if reads && s.vcacheCap b.tenancy (b.homeDen / 4) b != 0 then [] else [s.flashMaps b.tenancy (b.homeDen / 4)]

/-- The slot-granular units and dies that the descriptor and its object's state fix as needed, one of each list (R71)
(DEDUCED, assumption 108). -/
def State.needUnits (s : State) (t port : Nat) (d : Bytes) : List (List Nat) :=
  let b := s.burrow (s.burrowNamed d)
  let operands := ([descOp0 d, descOp1 d, descRes d].filter (fun a => addrClass a == 3)).map
    (fun a => s.unitsOf (a % 2 ^ 56))
  operands ++ match descOpcode d with
  | 0x10 | 0x11 =>
    if schGroup d && (s.grpSelf (s.burrowNamed d)).isNone then []
    else if b.state = 0 then []
    else [denMap b.homeDen] :: s.treeMaps b true ++ (if schRerank d = 0 then [] else s.vectorMaps b true)
  | 0x12 | 0x14 => s.treeMaps b true ++ (if descOp1 d = 0 then [] else s.vectorMaps b false)
  | 0x13 => s.treeMaps b false
  | 0x20 | 0x21 | 0x22 | 0x23 =>
    (match (tensorNamed d).bind (s.tensorOf t) with
     | some x => (if x.tier ≤ 2 then [s.unitsOf x.loc] else []) ++
        (if descOpcode d = 0x21 then s.tierMaps t x.die (fld d 36 1) else [])
     | none => if descOpcode d = 0x20 then s.tierMaps t (portDie port) (fld d 36 1) else [])
  | 0x30 | 0x31 | 0x32 =>
    (match s.table (descTable d) with
     | some x => x.areas.map (fun r => s.unitsOf r.1)
     | none => [])
  | _ => []

/-- Every unit the descriptor's work needs can serve the tenancy (R71, R203, R224, R238, R320, R353, R384). What a FREE id's
parameters would ask for is left out. -/
def State.unitsOk (s : State) (t port : Nat) (d : Bytes) : Bool :=
  let bi := s.burrowNamed d
  let b := s.burrow bi
  let live := b.state != 0
  (s.needUnits t port d).all (fun ms => ms.any (fun m => s.mayUse m t)) &&
  match descOpcode d with
  | 0x10 | 0x11 =>
    (schGroup d && (s.grpSelf bi).isNone) ||
      (s.canWalk t (if live then b.banks else 0) && (schRerank d == 0 || !live || s.anySett t b.homeDen))
  | 0x12 | 0x14 =>
    !live || (((List.range 48).map (· + 48 * (b.homeDen / 4))).any (fun w => s.ownCtxs t w != [] && s.mayUse (foxMap w) t) &&
      (updCodes d || b.metric == 3 || s.anySett t b.homeDen))
  | 0x19 | 0x42 => (s.topDen t port).isSome
  | 0x20 =>
    if fld d 38 1 = 1 then true
    else match s.freeTensorIx t with
      | some i => s.hasMoveCtx t (squirrelOf (portDie port) i)
      | none => true
  | 0x21 | 0x22 | 0x23 =>
    (match s.tensorOf t (fld d 32 4) with
     | some x => s.hasMoveCtx t (squirrelOf x.die (fld d 32 4))
     | none => true)
  | 0x30 | 0x32 =>
    (match s.table (descTable d) with
     | some x => s.anySett t x.homeDen
     | none => true)
  | 0x41 =>
    if bit (fld d 32 2) 15 then (s.runDen t port (fld d 34 1) 1).isSome
    else (match tget s.images (fld d 32 2 % 4096) with
      | some i => (s.runDen t port (fld d 34 1) i.setts).isSome
      | none => true)
  | _ => true

/-- The first quota a descriptor breaks, in the order of step 9 (R138, R384, R621). -/
def State.quotaFails (s : State) (t port : Nat) (d : Bytes) : Option Result :=
  let op := descOpcode d
  let c := s.ctx (descCtx d)
  let needsKey := !(decide (0x01 ≤ op ∧ op ≤ 0x04) || op == 0x60 || op == 0x61)
  if op = 0x20 ∧ fld d 38 1 = 0 ∧ c.qTensorBytes < s.tensorBytes (descCtx d) + fld d 40 8 then some (Result.err 0x60 2)
  else if needsKey && (s.keyHandle t == 0 || !c.keySet.contains (s.keyHandle t)) then some (Result.err 0x60 3)
  else if op = 0x03 ∧ c.pinFramesMax = 0 then some (Result.err 0x60 4)
  else if s.unitsOk t port d then none
  else some (Result.err 0x60 1)

/-! ### The checks in order -/

/-- The completion that steps 2 to 9 of Table 3.9 give a descriptor at the head of a ring; none if it passes them. -/
def State.admitFails (s : State) (r : Ring) (d : Bytes) : Option Result :=
  let op := descOpcode d
  let c := s.ctx (descCtx d)
  if (opcodeClass op).isNone then some (Result.err 0x11 0)
  else if r.service && !serviceOpcode op then some (Result.err 0x10 0)
  else match lowestCheck (reservedChecks d) with
    | some x => some x
    | none =>
      if c.state ≠ 1 ∨ c.tenancy ≠ r.tenancy then some (Result.err 0x21 0)
      else if c.port ≠ r.port then some (Result.err 0x20 0)
      else match lowestCheck (addressChecks d ++ s.fieldChecks r.tenancy d) with
        | some x => some x
        | none =>
          if s.namesOwn r.tenancy d = false then some (Result.err 0x21 0)
          else s.quotaFails r.tenancy r.port d

/-- Items a descriptor counts against Q_UPDATES. -/
def pacedItems (d : Bytes) : Nat := if isUpdate (descOpcode d) then updItems d else 0

/-- Step 10: Q_INFLIGHT and Q_UPDATES leave room. -/
def State.paced (s : State) (d : Bytes) : Bool :=
  let c := s.ctx (descCtx d)
  let inFlight := (s.works.filter (fun w => w.origin.isNone && w.ctx == descCtx d)).length
  let done := if c.updFrame = s.frame then c.updCount else 0
  (c.qInflight == 0 || decide (inFlight < c.qInflight)) &&
    (c.qUpdates == 0 || pacedItems d == 0 || decide (done + pacedItems d ≤ c.qUpdates))

/-- Credits a descriptor takes, all at once (R126) (DEDUCED, assumption 39). -/
def creditNeed (d : Bytes) : Nat :=
  match opcodeClass (descOpcode d) with
  | some 0 | none => 0
  | some _ => if descOpcode d = 0x11 then schCount d else 1

/-- UPDATE credits of a tenancy that R269 leaves usable: by its burrow, among those with updates admitted or at the head of a ring,
that has the lowest share of its side chunks free. -/
def State.usableUpdates (s : State) (t : Nat) : Nat :=
  let k := s.creditsOf t 2
  let waiting := s.rings.filterMap (fun e =>
    if e.2.tenancy = t ∧ e.2.state = .enabled then
      e.2.fetched.head?.bind (fun d => if isUpdate (descOpcode d) then some (s.burrowNamed d) else none)
    else none)
  let ids := (s.works.filter (fun w => w.tenancy == t && isUpdate w.opcode)).map (·.burrow) ++ waiting
  let bs := (ids.eraseDups.map s.burrow).filter (fun b => b.state != 0 && b.sideMax != 0)
  let free := fun (b : Burrow) => b.sideMax - b.chunksUsed
  match bestBy (fun a b => decide (free a * b.sideMax < free b * a.sideMax)) bs with
  | none => k
  | some b => if 8 * free b < b.sideMax then min k (max 1 (k * 8 * free b / b.sideMax)) else k

/-- Credits of a class a tenancy may have in use. -/
def State.usableCredits (s : State) (t cls : Nat) : Nat := if cls = 2 then s.usableUpdates t else s.creditsOf t cls

/-- Step 11: credits and a completion entry are there (DEDUCED, assumption 39). -/
def State.affordable (s : State) (r : Ring) (d : Bytes) : Bool :=
  let cls := (opcodeClass (descOpcode d)).getD 0
  r.cqFree != 0 && (cls == 0 || decide (s.creditsUsed r.tenancy cls + creditNeed d ≤ s.usableCredits r.tenancy cls))

/-! ### Admission (R102, R111, R117, R118, R207, R355, R711) -/

/-- A trace record (R633), until a device-fatal error stops recording (R648): the object is the burrow, table or image id, or the tensor handle, that the descriptor names
(DEDUCED, assumption 8). -/
def State.traceWork (s : State) (x : Work) (event status : Nat) : State :=
  if s.flag 0x0C00080 0 && !s.power.fatal then
    let object := if namesBurrow x.opcode then x.burrow else (tensorNamed x.desc).getD (fld x.desc 32 2 % 4096)
    { s with trace := s.trace ++
      [{ die := portDie x.port, time := s.dieTime (portDie x.port), event, tenancy := x.tenancy, ctx := x.ctx, ring := x.ring, tag := fld x.desc 2 2
         opcode := x.opcode, status, object }] }
  else s

/-- SQ_HEAD passes the descriptor at the head (R102). -/
def State.passHead (s : State) (ring : Nat) : State :=
  let r := s.ring ring
  s.setRing ring { r with sqHead := (r.sqHead + 1) % 2 ^ r.sqLog2, fetched := r.fetched.drop 1, shadowDue := true }

/-- An uncompleted SNAPSHOT_PIN or SNAPSHOT_RELEASE of a context. -/
def State.pinMoving (s : State) (c : Nat) : Bool := s.works.any (fun w => w.ctx == c && (w.opcode == 0x03 || w.opcode == 0x04))

/-- The snapshot, step or sequence fixed at admission, and whether a pin is still to be settled (R207, R355). -/
def State.snapAt (s : State) (d : Bytes) (bi : Nat) : Nat × Bool :=
  let c := s.ctx (descCtx d)
  match descOpcode d with
  | 0x10 | 0x11 =>
    if schPin d then
      if c.pinned && c.pinBurrow == bi && !s.pinMoving (descCtx d) then (c.pinSeq, false) else (0, true)
    else ((s.burrow bi).snapSeq, false)
  | 0x30 => (((s.table (descTable d)).map (·.doneStep)).getD 0, false)
  | 0x31 => (s.lastEnd (descTable d) + 1, false)
  | _ => (0, false)

/-- A state error that the object's state at admission decides (R123): for a descriptor that reads no operands, a burrow already DROPPING; a step that does not follow the
last one ended (R358) (DEDUCED, assumption 37; DEDUCED, assumption 38; DEDUCED, assumption 43). -/
def State.verdictAt (s : State) (d : Bytes) (bi : Nat) : Option Result :=
  if decide (0x16 ≤ descOpcode d ∧ descOpcode d ≤ 0x18) && (s.burrow bi).state == 3 then some (Result.err 0x10 32)
  else if descOpcode d = 0x32 then
    if fld d 40 8 = s.lastEnd (descTable d) + 1 then none else some (Result.err 0x10 32)
  else none

/-- The work of an admitted descriptor. -/
def State.newWork (s : State) (ring : Nat) (r : Ring) (d : Bytes) : Work :=
  let c := s.ctx (descCtx d)
  let bi := s.burrowNamed d
  let snap := s.snapAt d bi
  let here := !(schGroup d && (s.grpSelf bi).isNone)
  { id := s.nextWork, desc := d, opcode := descOpcode d, ring, origin := none, ctx := descCtx d, tenancy := r.tenancy, port := r.port
    pasid := c.pasid, xltRoot := c.xltRoot, cls := (opcodeClass (descOpcode d)).getD 0, credits := creditNeed d, frame := s.frame
    snap := snap.1, snapLate := snap.2, burrow := bi, verdict := s.verdictAt d bi
    unchecked := (isSearch (descOpcode d) || isUpdate (descOpcode d)) && (s.burrow bi).state == 0
    group := if isSearch (descOpcode d) then s.bank bi 0x0402000 else if descOpcode d = 0x30 then s.bank (descTable d) 0x0403000 else []
    queries := if isSearch (descOpcode d) && here then List.replicate (schCount d) (Query.fresh (schNprobe d)) else []
    items := [], routed := false, outcomes := [], firstSeq := 0, lastSeq := 0, codes := none, stalled := false, result := none }

/-- What admission itself does to the object named: a tensor's order (R376), a dropped burrow's pins (R196), a thaw (R195), a table's last step
(R358), the items of the frame (Q_UPDATES). -/
def State.onAdmit (s : State) (x : Work) : State :=
  let d := x.desc
  let c := s.ctx x.ctx
  let s := if pacedItems d = 0 then s else
    s.setCtx x.ctx { c with updFrame := s.frame, updCount := (if c.updFrame = s.frame then c.updCount else 0) + pacedItems d }
  match x.opcode with
  | 0x18 =>
    let st := (s.burrow x.burrow).state
    if st = 1 ∨ st = 2 then s.clearPins x.burrow else s
  | 0x17 => burrowThawSt x.id s
  | 0x32 =>
    if x.verdict.isSome then s
    else { s with tables := tmap s.tables (descTable d) (fun t => { t with endStep := t.endStep + 1 }) }
  | 0x20 | 0x21 | 0x22 | 0x23 =>
    let create := x.opcode == 0x20 && fld d 38 1 == 0
    match (if create then some 0 else tensorNamed d) with
    | some h =>
      s.addJob { handle := h, w := x.id, tenancy := x.tenancy, trail := none, hold := none, create, writer := x.opcode != 0x22
                 moves := create || x.opcode != 0x20, target := if x.opcode = 0x21 then fld d 36 1 else 0, started := false, move := none
                 dest := none, room := 0, before := x.id, ready := 0, sent := none, failed := none }
    | none => s
  | _ => s

/-- The descriptor at the head of a ring admitted: its credits taken, its completion entry reserved, SQ_HEAD advanced. -/
def State.admitHead (s : State) (ring : Nat) (d : Bytes) : State :=
  let x := s.newWork ring (s.ring ring) d
  let s := s.passHead ring
  let s := s.setRing ring { s.ring ring with reserved := (s.ring ring).reserved + 1 }
  let s : State := { s with
    works := s.works ++ [x], nextWork := s.nextWork + 1
    lastCredit := if x.cls = 0 then s.lastCredit else tset s.lastCredit (x.tenancy * 8 + x.cls) ring }
  ((s.bump (0x0B00030 + 0x100 * x.tenancy) 1).traceWork x 0 0).onAdmit x

/-- A ring waits at step 11 for credits of a class of its tenancy, as many as it can have at all: everything else at its head is settled. -/
def State.creditWaits (s : State) (t cls : Nat) (e : Nat × Ring) : Bool :=
  match e.2.fetched with
  | [] => false
  | d :: _ =>
    decide (e.2.tenancy = t) && e.2.state == .enabled && opcodeClass (descOpcode d) == some cls &&
      (s.admitFails e.2 d).isNone && s.paced d && e.2.cqFree != 0 && decide (creditNeed d ≤ s.creditsOf t cls)

/-- A ring's turn at the credits of its class: no other ring waits for more than are there (R127) (DEDUCED, assumption 39). -/
def State.creditTurn (s : State) (ring : Nat) (r : Ring) (d : Bytes) : Bool :=
  let cls := (opcodeClass (descOpcode d)).getD 0
  cls == 0 || s.rings.all (fun e => e.1 == ring || !s.creditWaits r.tenancy cls e || (match e.2.fetched with | d' :: _ => s.affordable e.2 d' | [] => true))

/-- ADMISSION: the descriptor at the head of a ring passes, fails or waits (Table 3.9) (DEDUCED, assumption 33). -/
def admissionSt (ring : Nat) (s : State) : State :=
  let r := s.ring ring
  match r.fetched with
  | [] => s
  | d :: _ =>
    if r.state ≠ .enabled ∨ s.power.devReady = false ∨ s.time.valid = false then s
    else match s.admitFails r d with
      | some f => if r.cqFree = 0 then s else (s.passHead ring).postCompletion ring d f
      | none => if s.paced d && s.affordable r d && s.creditTurn ring r d then s.admitHead ring d else s

def execAdmission (ring : Nat) (s : State) : Out := .next (admissionSt ring s)

/-! ### Credits handed out (R127, R128, R269) -/

/-- Credits handed out in ascending circular order of ring number after the ring that last received one: the next waiting ring is served
before any other, once as many as it needs are there (R127) (DEDUCED, assumption 39; DEDUCED, assumption 40). -/
def State.handOut (s : State) (t cls : Nat) : (fuel : Nat) → State
  | 0 => s
  | fuel + 1 =>
    let last := tgetD s.lastCredit (t * 8 + cls) 65535
    let waiting := (s.rings.filter (s.creditWaits t cls)).map (·.1)
    match bestBy (fun a b => decide ((a + 65536 - last - 1) % 65536 < (b + 65536 - last - 1) % 65536)) waiting with
    | none => s
    | some ring =>
      match (s.ring ring).fetched with
      | d :: _ => if s.affordable (s.ring ring) d then State.handOut (s.admitHead ring d) t cls fuel else s
      | [] => s

/-- Forwarded queries that wait for a credit, in order of arrival (R274). -/
def State.forwardWaiting (s : State) : State :=
  let ws := s.fabric.fwdWait
  ws.foldl (fun s f => s.takeForward f.1 f.2) { s with fabric := { s.fabric with fwdWait := [] } }

/-- Credits of a class have become free or usable (DEDUCED, assumption 39; DEDUCED, assumption 40). -/
def State.creditsFreed (s : State) (t cls : Nat) : State :=
  if !s.power.devReady || !s.time.valid then s
  else
    let s := if cls = 0 then s else s.handOut t cls 4096
    if cls = 1 then s.forwardWaiting else s

/-! ### Completion (R110–R113, R126) -/

/-- Nothing of a work is outstanding on the Wilfer Link: its stores are acknowledged. -/
def State.allVisible (s : State) (w : Nat) : Bool := !s.fabric.requests.any (fun r => r.w == w)

/-- HBM that a tensor left and only a run that has now ended still held (R378). -/
def State.releaseLate (s : State) (w : Nat) : State :=
  let fs := s.lateFree.map (fun f => (f.1, f.2.1, f.2.2.1, f.2.2.2.filter (· != w)))
  (fs.filter (fun f => f.2.2.2.isEmpty)).foldl (fun s f => s.freeStorage f.1 f.2.1 f.2.2.1)
    { s with lateFree := fs.filter (fun f => !f.2.2.2.isEmpty) }

/-- A work leaves the machine. -/
def State.dropWork (s : State) (w : Nat) : State :=
  let s := (s.endJobs w).releaseLate w
  State.queueJobs { s with
    works := s.works.filter (fun x => x.id != w)
    trails := s.trails.filter (fun (r : Trail) => r.w != w)
    recalled := s.recalled.filter (fun r => r.1 != w)
    waiting := s.waiting.filter (fun q => q.own != some w)
    slots := { s.slots with waits := s.slots.waits.filter (fun v => v.w != w) }
    xltWaits := s.xltWaits.filter (fun v => v.w != w) }

/-- DESCRIPTOR_COMPLETE: the completion of a work with a result is written, after everything it wrote is visible; its credits
return (R110, R126, R127) (DESIGN CHOICE, assumption 1; DEDUCED, assumption 40). -/
def descriptorCompleteSt (w : Nat) (s : State) : State :=
  match s.work w with
  | none => s
  | some x =>
    match x.result with
    | none => s
    | some r =>
      if s.allVisible w = false then s
      else match x.origin with
        | some o => ((s.dropWork w).answerForward x o r).creditsFreed x.tenancy x.cls
        | none =>
          let s := s.dropWork w
          let q := s.ring x.ring
          let s := (s.setRing x.ring { q with reserved := q.reserved - 1 }).postCompletion x.ring x.desc r
          ((s.bump (0x0B00038 + 0x100 * x.tenancy) 1).traceWork x 1 r.status).creditsFreed x.tenancy x.cls

def execDescriptorComplete (w : Nat) (s : State) : Out := .next (descriptorCompleteSt w s)

/-- LEAF_SWAP (R262): the swap of a merge at its boundary, which may make UPDATE credits usable again (R269). -/
def leafSwapSt (burrow leaf : Nat) (s : State) : State :=
  (s.swapLeaf burrow leaf).creditsFreed (s.burrow burrow).tenancy 2

def execLeafSwap (burrow leaf : Nat) (s : State) : Out := .next (leafSwapSt burrow leaf s)

/-! ### NOP, FENCE and pins (R131–R139) -/

/-- NOP (R131). -/
def nopSt (w : Nat) (s : State) : State := s.withWork w (· == 0x01) fun _ s => s.finish w (Result.done 0)

def execNop (w : Nat) (s : State) : Out := .next (nopSt w s)

/-- FENCE (R133, R134): FENCE_VALUE is written before its completion. -/
def fenceSt (w : Nat) (s : State) : State :=
  s.withWork w (· == 0x02) fun x s =>
    let a := descRes x.desc
    if a = 0 then s.finish w (Result.done 0)
    else s.withAccess x [(a, 8, true)] fun s => (s.writeAt x a (slice x.desc 40 8)).finish w (Result.done 0)

def execFence (w : Nat) (s : State) : Out := .next (fenceSt w s)

/-- SNAPSHOT_PIN (R136–R138): its completion carries the sequence and the epoch (R60). -/
def snapshotPinSt (w : Nat) (s : State) : State :=
  s.withWork w (· == 0x03) fun x s =>
    let c := s.ctx x.ctx
    let b := s.burrow x.burrow
    if c.pinned then s.finish w (Result.err 0x10 4)
    else if b.state ≠ 1 ∧ b.state ≠ 2 then s.finish w (Result.err 0x10 32)
    else
      (s.setCtx x.ctx { c with pinned := true, pinSeq := b.snapSeq, pinBurrow := x.burrow, pinFrame := s.frame
                               pinLife := c.pinFramesMax }).finish w
        { status := 0, flags := 0, count := 0, snap := b.snapSeq, detail := 0, b24 := s.frame }

def execSnapshotPin (w : Nat) (s : State) : Out := .next (snapshotPinSt w s)

/-- SNAPSHOT_RELEASE (R136). -/
def snapshotReleaseSt (w : Nat) (s : State) : State :=
  s.withWork w (· == 0x04) fun x s =>
    let c := s.ctx x.ctx
    if c.pinned = false then s.finish w (Result.err 0x10 4)
    else
      (s.setCtx x.ctx { c with pinned := false, pinSeq := 0, pinBurrow := 0, pinFrame := 0, pinLife := 0 }).finish w (Result.done 0)

def execSnapshotRelease (w : Nat) (s : State) : Out := .next (snapshotReleaseSt w s)

end Sys2Proof.Machine
end

