-- ==== Sys2Proof/Machine/Tenancies.lean ====
section
/-!
DEFINITION. BIND, MODIFY and TEARDOWN of tenancies, their checks, and zero-fill (R594–R599, R628–R631, R669).
-/

namespace Sys2Proof.Machine

/-! ### Staged values (R668, R669) -/

/-- A shadow value of a tenancy's staged register. -/
def State.shadowReg (s : State) (t off : Nat) : Nat := (tgetD s.shadow (t * 2 ^ 26 + off) 0).toNat

/-- A register of the owner maps TEN_ID_ALLOT, FOX_CTX_OWNER, FOX_BANK_OWNER and SQL_MOVE_OWNER. -/
def isOwnerOff (off : Nat) : Bool :=
  decide ((0x0048000 ≤ off ∧ off < 0x004E000) ∨ (0x0440000 ≤ off ∧ off < 0x0443000) ∨ (0x0444000 ≤ off ∧ off < 0x0444600) ∨
    (0x0500300 ≤ off ∧ off < 0x0500500))

/-- The owner-map registers that hold something. -/
def State.ownerKeys (s : State) : List Nat := (((s.shadow ++ s.live).map (·.1)).filter isOwnerOff).eraseDups

/-- The four entries of a register, and back. -/
def entriesOf (v : Nat) : List Nat := (List.range 4).map (fun i => bits v (16 * i + 15) (16 * i))
def ofEntries (es : List Nat) : Nat := (es.zipIdx.map (fun p => p.1 * 2 ^ (16 * p.2))).sum

/-- An entry names a tenancy. -/
def names (e t : Nat) : Bool := bit e 15 && bits e 8 0 == t

/-- Shadow and live entries of the owner maps, side by side. -/
def State.ownerPairs (s : State) : List (Nat × Nat) :=
  s.ownerKeys.flatMap (fun k => (entriesOf (tgetD s.shadow k 0).toNat).zip (entriesOf (tgetD s.live k 0).toNat))

/-- An owner-map register after a command of a tenancy: every entry whose shadow or live value names it is applied. -/
def applyEntries (t sh lv : Nat) : Nat :=
  ofEntries (((entriesOf sh).zip (entriesOf lv)).map (fun p => if names p.1 t || names p.2 t then p.1 else p.2))

/-- Every shadow value of a tenancy made live in one step (R669). -/
def State.applyShadow (s : State) (t : Nat) : State :=
  let mine := s.shadow.filter (fun e => e.1 / 2 ^ 26 == t)
  let live := mine.foldl (fun m e => tset m e.1 e.2) (s.live.filter (fun e => e.1 / 2 ^ 26 != t))
  { s with live := s.ownerKeys.foldl (fun m k =>
      tset m k (BitVec.ofNat 64 (applyEntries t (tgetD s.shadow k 0).toNat (tgetD s.live k 0).toNat))) live }

/-! ### Conflicts (R598, CAUSE 2) -/

/-- BASE and COUNT of the ranges an allotment register gives: low and high halves. -/
def rangeOf (v : Nat) : Nat × Nat := (bits v 31 0, bits v 63 32)

/-- The other tenancies. -/
def State.others (s : State) (t : Nat) : List Nat := (s.tenancies.map (·.1)).filter (fun u => u != t && u != 0)

/-- Some other tenancy holds what the shadow values give: a granule, a den-cache set and way, a directory set, a tensor-table entry,
or an owner-map entry. -/
def State.sharesWithOther (s : State) (t : Nat) : Bool :=
  (s.others t).any (fun u =>
    [0, 1].any (fun d => [0, 1].any (fun e =>
      overlap (rangeOf (s.shadowReg t (0x0040120 + 8 * d))) (rangeOf (s.liveReg u (0x0040120 + 8 * e))))) ||
    [0, 1].any (fun d => overlap (rangeOf (s.shadowReg t (0x0040130 + 8 * d))) (rangeOf (s.liveReg u (0x0040130 + 8 * d)))) ||
    (List.range 8).any (fun k =>
      let a := s.shadowReg t (0x0040140 + 16 * k)
      let b := s.liveReg u (0x0040140 + 16 * k)
      overlap (bits a 5 0, bits a 14 8) (bits b 5 0, bits b 14 8) &&
        decide (s.shadowReg t (0x0040148 + 16 * k) &&& s.liveReg u (0x0040148 + 16 * k) ≠ 0)) ||
    (List.range 8).any (fun k =>
      let a := s.shadowReg t (0x0600800 + 8 * k)
      let b := s.liveReg u (0x0600800 + 8 * k)
      overlap (bits a 9 0, bits a 25 16) (bits b 9 0, bits b 25 16)) ||
    (let a := s.shadowReg t 0x0040300
     let b := s.liveReg u 0x0040300
     overlap (bits a 19 0, bits a 63 32) (bits b 19 0, bits b 63 32))) ||
  s.ownerPairs.any (fun p =>
    (names p.1 t && bit p.2 15 && !names p.2 t) || (names p.2 t && bit p.1 15 && !names p.1 t))

/-- A sum over every tenancy, with the shadow value of one. -/
def State.sumWith (s : State) (t off hi : Nat) : Nat :=
  bits (s.shadowReg t off) hi 0 + ((s.others t).map (fun u => bits (s.liveReg u off) hi 0)).sum

/-- A sum above its device limit. -/
def State.sumTooLarge (s : State) (t : Nat) : Bool :=
  decide (65536 < 256 * s.sumWith t 0x0700000 8 ∨ 2 ^ 34 < s.sumWith t 0x0040308 34 ∨ 16777216 < s.sumWith t 0x0040310 24) ||
    (List.range 8).any (fun b =>
      decide (16384 < s.sumWith t (0x00402C0 + 8 * b) 14) ||
        (List.range 4).any (fun g => decide ((s.badger b).userGrains / 4 < s.sumWith t (0x00401C0 + 8 * (4 * b + g)) 31)))

/-- A BIND or MODIFY fails with CAUSE 2. -/
def State.tenConflict (s : State) (t : Nat) : Bool :=
  s.sharesWithOther t || s.sumTooLarge t ||
    [0, 1].any (fun d => decide (bits (s.shadowReg t (0x0040120 + 8 * d)) 63 32 < bits (s.shadowReg t (0x0040320 + 8 * d)) 31 0))

/-! ### Shrinks (R598, CAUSE 3) -/

/-- A range is in the HBM or DDR that objects of a tenancy may use (DEDUCED, assumption 45). -/
def State.holdsRange (s : State) (t : Nat) (r : Nat × Nat) : Bool :=
  [s.hbmUse t 0, s.hbmUse t 1, s.ddrAllot t 0, s.ddrAllot t 1].any (inRange r.1 r.2)

/-- The values `u` would leave an object of the tenancy outside its allotments (DEDUCED, assumption 45). -/
def State.tenShrinks (s u : State) (t : Nat) : Bool :=
  let pools := s.tenancies.map (fun e => s.mirrorPool e.1)
  (s.liveRanges.filter (fun r => !pools.contains r && r.2 != 0 && s.ownsRange t r.1 r.2)).any (fun r => !u.holdsRange t r) ||
    s.burrows.any (fun e => e.2.tenancy == t && e.2.state != 0 && u.idTenancy 0 e.1 != some t) ||
    s.tables.any (fun e => e.2.tenancy == t && u.idTenancy 1 e.1 != some t) ||
    s.images.any (fun e => e.2.tenancy == t && u.idTenancy 2 e.1 != some t) ||
    s.tensors.any (fun e => e.2.tenancy == t && e.2.state != 0 &&
      !(let v := u.liveReg t 0x0040300
        decide (bits v 19 0 ≤ e.1 ∧ e.1 < bits v 19 0 + bits v 63 32))) ||
    decide (bits (u.liveReg t 0x0040308) 34 0 < ((s.burrows.filter (fun e => e.2.tenancy == t)).map (·.2.maxItems)).sum) ||
    decide (bits (u.liveReg t 0x0040310) 24 0 < ((s.burrows.filter (fun e => e.2.tenancy == t)).map (·.2.sideMax)).sum) ||
    (List.range 8).any (fun b => decide (u.flashAllot t b < ((s.mappedGrains b).filter (fun g => g.2 == t)).length)) ||
    (List.range 8).any (fun d => decide (bits (u.liveReg t 0x0040110) (8 * d + 7) (8 * d) <
      (s.runs.filter (fun r => r.saveSlot && r.tenancy == t && r.den == d)).length)) ||
    s.extents.any (fun e => e.2.tenancy == t && e.2.state != 0 &&
      decide (u.liveReg t (0x0600800 + 8 * e.2.homeDen) ≠ s.liveReg t (0x0600800 + 8 * e.2.homeDen)))

/-! ### Zero on first touch (R630) -/

/-- A granule lies in the HBM or DDR allotment of a tenancy. -/
def State.ownsGranule (s : State) (t region g : Nat) : Bool := s.ownsRange t (regionBase region + g * granule) granule

/-- Table entries for the pending granules that the values `u` newly allot to a tenancy and that have none: each marks the blocks that
the fill has not yet reached. -/
def State.touchNeeds (s u : State) (t : Nat) : List TouchEntry :=
  (((s.fill.map (fun f => (f.region, f.granule))).eraseDups).filter (fun p =>
    u.ownsGranule t p.1 p.2 && !s.ownsGranule t p.1 p.2 && !s.firstTouch.any (fun e => e.region == p.1 && e.granule == p.2))).map
    (fun p => { region := p.1, granule := p.2
                blocks := (List.range 512).filter (fun k => s.fill.any (fun f => f.region == p.1 && f.granule == p.2 && f.blocks.contains k)) })

/-! ### BIND and MODIFY (R595, R596, R619, R624, R669) -/

/-- A key is generated for a tenancy bound from FREE, its record sealed; a SEALED one keeps its own (Table 15.1). -/
def State.keyTenancy (s : State) (t : Nat) : State :=
  let x := s.ten t
  let gen := if x.state = 0 then (x.gen + 1) % 2 ^ 16 else x.gen
  { s with
    owl := { s.owl with
      keys := if s.owl.keys.contains t then s.owl.keys else s.owl.keys ++ [t]
      sealed := tset s.owl.sealed t (gen, false) }
    tenancies := tset s.tenancies t { x with state := 2, shared := false, unmoded := true, gen, fatal := false, step := 0 } }

/-- BIND or MODIFY of a tenancy whose state allows it: refused with CAUSE 2 or 3, waiting for table entries, or done. -/
def State.tenSet (s : State) (t : Nat) (bind : Bool) (i : Instr) : State :=
  let u := s.applyShadow t
  let need := s.touchNeeds u t
  if s.tenConflict t then s.cmdFail .ten 2
  else if s.tenShrinks u t then s.cmdFail .ten 3
  else if 8192 < s.firstTouch.length + need.length then { s with cmdTen := { s.cmdTen with busy := true, running := some i } }
  else
    let u : State := { u with firstTouch := u.firstTouch ++ need }
    let u := if bind then u.keyTenancy t else u
    let hbm := (u.hbmAllot t 0).2 + (u.hbmAllot t 1).2
    let u : State := if hbm = 0 then u else { u with mem := { u.mem with mapped := true } }
    let u := { u with tenancies := tset u.tenancies t { u.ten t with newMode := some (bit (s.shadowReg t 0x0040100) 0) } }
    if bind then u else [1, 2, 3, 4, 5].foldl (fun u cls => u.creditsFreed t cls) u

/-- TEN_BIND once its block is free (R595, R596) (DEDUCED, assumption 44; DEDUCED, assumption 87). -/
def State.runBind (s : State) (t : Nat) (i : Instr) : State :=
  if t = 0 then s.cmdFail .ten 5
  else if 512 ≤ t then s
  else if (s.ten t).state ≠ 0 ∧ (s.ten t).state ≠ 1 then s.cmdFail .ten 1
  else s.tenSet t true i

/-- TEN_MODIFY once its block is free (R595, R596) (DEDUCED, assumption 44). -/
def State.runModify (s : State) (t : Nat) (i : Instr) : State :=
  if t = 0 then s.cmdFail .ten 5
  else if 512 ≤ t then s
  else if (s.ten t).state ≠ 2 then s.cmdFail .ten 1
  else s.tenSet t false i

def tenBindSt (mp : MgmtPort) (tenancy : Nat) (s : State) : State :=
  s.command mp .ten (.tenBind mp tenancy) fun s => s.runBind tenancy (.tenBind mp tenancy)
def execTenBind (mp : MgmtPort) (tenancy : Nat) (s : State) : Out := .next (tenBindSt mp tenancy s)

def tenModifySt (mp : MgmtPort) (tenancy : Nat) (s : State) : State :=
  s.command mp .ten (.tenModify mp tenancy) fun s => s.runModify tenancy (.tenModify mp tenancy)
def execTenModify (mp : MgmtPort) (tenancy : Nat) (s : State) : Out := .next (tenModifySt mp tenancy s)

/-! ### TEARDOWN (R628) -/

/-- Step 1 of Table 15.11 begins. Burrows, tables and images go when it ends, once nothing uses them. -/
def State.runTeardown (s : State) (t : Nat) : State :=
  if t = 0 then s.cmdFail .ten 5
  else if 512 ≤ t then s
  else if (s.ten t).state ≠ 2 ∧ (s.ten t).state ≠ 1 then s.cmdFail .ten 1
  else
    let s : State := { s with
      tenancies := tset s.tenancies t { s.ten t with state := 3, step := 1, newMode := none }
      slots := { s.slots with pending := s.slots.pending.map (fun c => { c with modes := tdel c.modes t }) }
      owl := { s.owl with sealed := tmap s.owl.sealed t (fun r => (r.1, true)) } }
    let s := ((s.rings.filter (fun e => e.2.tenancy == t && (e.2.state == .enabled || e.2.state == .error))).map (·.1)).foldl State.drainRing s
    let s := ((s.ctxs.filter (fun e => e.2.tenancy == t && e.2.state == 1)).map (·.1)).foldl State.drainCtx s
    let s := ((s.extents.filter (fun e => e.2.tenancy == t && e.2.state == 1)).map (·.1)).foldl State.unmap s
    let s := ((s.fabric.regions.filter (fun e => e.2.tenancy == t && e.2.state == 1)).map (·.1)).foldl State.withdraw s
    { s with fabric := { s.fabric with windows := s.fabric.windows.filter (fun e => e.2.tenancy != t) } }

/-- TEN_TEARDOWN: step 1 begins (Table 15.5) (DEDUCED, assumption 44). -/
def tenTeardownSt (mp : MgmtPort) (tenancy : Nat) (s : State) : State :=
  s.command mp .ten (.tenTeardown mp tenancy) fun s => s.runTeardown tenancy
def execTenTeardown (mp : MgmtPort) (tenancy : Nat) (s : State) : Out := .next (tenTeardownSt mp tenancy s)

/-- Every admitted descriptor, run, drain and owned request of a tenancy has ended (step 1) (DEDUCED, assumption 44). -/
def State.tenIdle (s : State) (t : Nat) : Bool :=
  !s.works.any (fun w => w.tenancy == t) && !s.runs.any (fun r => r.tenancy == t) && !s.extents.any (fun e => e.2.tenancy == t) &&
    !s.fabric.regions.any (fun e => e.2.tenancy == t && e.2.state != 0)

/-- The objects of a tenancy released: burrows, tables, images and tensors, whose T3 records leave the journals
(DEDUCED, assumption 44). -/
def State.dropObjects (s : State) (t : Nat) : State :=
  let s := (s.tensors.filter (fun e => e.2.tenancy == t && e.2.tier == 3 && e.2.state != 0)).foldl
    (fun s e => s.journalTensor e.1 e.2 false) s
  let mine := (s.tensors.filter (fun e => e.2.tenancy == t)).map (·.1)
  let burrows := (s.burrows.filter (fun e => e.2.tenancy == t)).map (·.1)
  { s with
    burrows := s.burrows.filter (fun e => e.2.tenancy != t)
    tables := s.tables.filter (fun e => e.2.tenancy != t)
    images := s.images.filter (fun e => e.2.tenancy != t)
    tensors := s.tensors.filter (fun e => e.2.tenancy != t)
    jobs := s.jobs.filter (fun j => j.tenancy != t)
    holds := s.holds.filter (fun h => !mine.contains (handleIx h.handle))
    lateFree := s.lateFree.filter (fun f => f.2.2.1 != t)
    vcache := s.vcache.filter (fun v => !burrows.contains v.1)
    atc := s.atc.filter (fun e => e.tenancy != t)
    faults := s.faults.filter (fun f => f.tenancy != t)
    rings := s.rings.map (fun e => (e.1, if e.2.tenancy = t ∧ e.2.state = .draining then { e.2 with state := .disabled } else e.2)) }

/-- Its MAPPED grains trimmed on every Badger; none of its writes waits any more. -/
def State.trimTenancy (s : State) (t : Nat) : State :=
  { s with badgers := s.badgers.map (fun e =>
      (e.1, ((e.2.map.filter (fun m => e.2.tenancyAt m.2 == t)).map (·.1)).foldl Badger.trim
        { e.2 with wbuf := e.2.wbuf.filter (fun w => w.tenancy != t) })) }

/-- The granules of a tenancy, as region and number. -/
def State.granulesOf (s : State) (t : Nat) : List (Nat × Nat) :=
  [s.hbmAllot t 0, s.hbmAllot t 1, s.ddrAllot t 0, s.ddrAllot t 1].flatMap (fun r =>
    (List.range (r.2 / granule)).map (fun i => (r.1 / 2 ^ 48, r.1 % 2 ^ 48 / granule + i)))

/-- Step 3: granules return to tenancy 0 pending zero-fill, every allotment becomes zero (R669). The cached lines and directory entries of its
extents went when these were released in step 1. -/
def State.returnGranules (s : State) (t : Nat) : State :=
  let gs := s.granulesOf t
  let clear := fun (k : Nat) (v : Reg) =>
    if isOwnerOff k then BitVec.ofNat 64 (ofEntries ((entriesOf v.toNat).map (fun e => if names e t then 0 else e))) else v
  { s with
    fill := s.fill.filter (fun f => !gs.contains (f.region, f.granule)) ++
      gs.map (fun g => { region := g.1, granule := g.2, blocks := List.range 512, freedBy := 512 + t })
    firstTouch := s.firstTouch.filter (fun e => !gs.contains (e.region, e.granule))
    live := (s.live.filter (fun e => e.1 / 2 ^ 26 != t)).map (fun e => (e.1, clear e.1 e.2))
    shadow := (s.shadow.filter (fun e => e.1 / 2 ^ 26 != t)).map (fun e => (e.1, clear e.1 e.2)) }

/-- TEARDOWN_KEY_DESTROY: steps 2 and 3, once step 1 has ended (DEDUCED, assumption 44). -/
def teardownKeyDestroySt (tenancy : Nat) (s : State) : State :=
  let x := s.ten tenancy
  if x.state = 3 ∧ x.step = 1 ∧ s.tenIdle tenancy = true then
    let s := (((s.dropObjects tenancy).trimTenancy tenancy).returnGranules tenancy)
    { s with
      owl := { s.owl with keys := s.owl.keys.filter (· != tenancy), sealed := tdel s.owl.sealed tenancy }
      ctxs := s.ctxs.filter (fun e => e.2.tenancy != tenancy)
      tenancies := tset s.tenancies tenancy { x with step := 4 } }
  else s

def execTeardownKeyDestroy (tenancy : Nat) (s : State) : Out := .next (teardownKeyDestroySt tenancy s)

/-- TENANCY_FREED: every returned line holds zero (R595, step 4). -/
def tenancyFreedSt (tenancy : Nat) (s : State) : State :=
  let x := s.ten tenancy
  if x.state = 3 ∧ x.step = 4 ∧ !s.fill.any (fun f => f.freedBy == 512 + tenancy) then
    { s with tenancies := tset s.tenancies tenancy { Tenancy.fresh with gen := x.gen } }.setFlag 0x0040010 8
  else s

def execTenancyFreed (tenancy : Nat) (s : State) : Out := .next (tenancyFreedSt tenancy s)

/-! ### Zero-fill (R601, R602, R630) -/

/-- The unit that fills a granule for a tenancy now, its turn: the HBM stack of the granule; for DDR the turn of some den of its die
(R600, R601) (DEDUCED, assumption 46). -/
def State.fillUnit (s : State) (region g t : Nat) : Option Nat :=
  if region = 0 then if s.stackTurn (g / 49152) t then some (s.stackMap (g / 49152)) else none
  else ((List.range 4).map (fun d => denMap (d + 4 * (g / 2 ^ 21)))).find? (fun m => s.bgTurn m t (s.fillQueued m ++ s.pageQueued m))

/-- What of a 4 KiB block holds no live object: all that zero-fill may overwrite. -/
def State.zeroBlock (s : State) (a : Nat) : State :=
  let live := sortBy (fun a b => decide (a.1 < b.1)) (s.liveRanges.filter (fun r => overlap r (a, 4096)))
  let s := (sweep a (a + 4096) live).foldl (fun s r => s.zero r.1 r.2) s
  { s with poison := s.poison.filter (fun l => !(decide (lineOf a ≤ l ∧ l < lineOf a + 64) &&
      !live.any (fun r => overlap r (l * 64, 64)))) }

/-- The waiting BIND or MODIFY, tried again once a table entry is free (R630). -/
def State.retryTen (s : State) : State :=
  match s.cmdTen.running with
  | some (.tenBind mp t) => ({ s with cmdTen := { s.cmdTen with busy := false, running := none } }).runBind t (.tenBind mp t)
  | some (.tenModify mp t) => ({ s with cmdTen := { s.cmdTen with busy := false, running := none } }).runModify t (.tenModify mp t)
  | _ => s

/-- ZERO_FILL of one 4 KiB block, in a background period; blocks already clear are skipped. -/
def zeroFillSt (region granule block : Nat) (s : State) : State :=
  match s.fill.find? (fun f => f.region == region && f.granule == granule && f.blocks.contains block) with
  | none => s
  | some f =>
    let t := if f.freedBy < 512 then f.freedBy else 0
    match s.fillUnit region granule t with
    | some m => (((s.bgServed m t).zeroBlock (regionBase region + granule * Machine.granule + block * 4096)).clearBlock region granule
        block).retryTen
    | none => s

def execZeroFill (region granule block : Nat) (s : State) : Out := .next (zeroFillSt region granule block s)

/-! ### Held commands (R685) -/

/-- A command held by a block, run as its port's write left it: the semaphore was held when it arrived. -/
def State.asHolder (s : State) (mp : MgmtPort) (f : State → State) : State :=
  { f { s with sem := { s.sem with holder := mpId mp } } with sem := s.sem }

/-- A command of a block run (DEDUCED, assumption 29). -/
def State.runCommand (s : State) : Instr → State
  | .tenBind mp t => s.runBind t (.tenBind mp t)
  | .tenModify mp t => s.runModify t (.tenModify mp t)
  | .tenTeardown _ t => s.runTeardown t
  | .ctxRead mp c => s.asHolder mp (ctxReadSt mp c)
  | .ctxCreate mp c => s.asHolder mp (ctxCreateSt mp c)
  | .ctxModify mp c => s.asHolder mp (ctxModifySt mp c)
  | .ctxDrain mp c => s.asHolder mp (ctxDrainSt mp c)
  | .ringRead mp r => s.asHolder mp (ringReadSt mp r)
  | .ringConfigure mp r => s.asHolder mp (ringConfigureSt mp r)
  | .ringEnable mp r => s.asHolder mp (ringEnableSt mp r)
  | .ringDisable mp r => s.asHolder mp (ringDisableSt mp r)
  | .extRead mp e => s.asHolder mp (extReadSt mp e)
  | .extMap mp e => s.asHolder mp (extMapSt mp e)
  | .extGrant mp e h => s.asHolder mp (extGrantSt mp e h)
  | .extRevoke mp e h => s.asHolder mp (extRevokeSt mp e h)
  | .extUnmap mp e => s.asHolder mp (extUnmapSt mp e)
  | .wlReadRegion mp i => s.asHolder mp (wlReadRegionSt mp i)
  | .wlExport mp i => s.asHolder mp (wlExportSt mp i)
  | .wlWithdraw mp i => s.asHolder mp (wlWithdrawSt mp i)
  | .wlRekey mp i => s.asHolder mp (wlRekeySt mp i)
  | .wlImport mp i => s.asHolder mp (wlImportSt mp i)
  | .wlUnbind mp i => s.asHolder mp (wlUnbindSt mp i)
  | .wlReadWindow mp i => s.asHolder mp (wlReadWindowSt mp i)
  | _ => s

/-- HELD_COMMAND_START: the command a block holds starts once the block is no longer BUSY (R685) (DEDUCED, assumption 29). -/
def heldCommandStartSt (block : CmdBlock) (s : State) : State :=
  let b := s.block block
  match b.held with
  | some i => if b.busy then s else (s.setBlock block { b with held := none }).runCommand i
  | none => s

def execHeldCommandStart (block : CmdBlock) (s : State) : Out := .next (heldCommandStartSt block s)

end Sys2Proof.Machine
end

