-- ==== Sys2Proof/Machine/Translate.lean ====
section
/-!
DEFINITION. Address translation: completions, invalidations, faults and their service (R476–R505, R686).
-/

namespace Sys2Proof.Machine

/-- A Translation Completion for a page (R477, R479): works whose access it grants may go on, by a cached entry of the page's
size, at most 1 GiB, or by a grant for one use where the tenancy caches nothing (R476); the others fault with
HOST_NOT_PRESENT (DEDUCED, assumption 68). -/
def translationCompletionSt (port pasid addr size : Nat) (read write : Bool) (s : State) : State :=
  let page := addr / 4096
  let mine := fun (v : XltWait) => v.port == port && v.pasid == pasid && v.page == page && !v.granted
  let sz := max 4096 (min size (2 ^ 30))
  let hit := s.xltWaits.filter mine
  hit.foldl (fun s v =>
    match s.work v.w with
    | none => { s with xltWaits := s.xltWaits.filter (· != v) }
    | some x =>
      if (if v.write then write else read) then
        if s.atcCap x.tenancy = 0 then
          { s with xltWaits := s.xltWaits.map (fun u => if u = v then { v with granted := true } else u) }
        else
          State.atcUse { s with xltWaits := s.xltWaits.filter (· != v) }
            { tenancy := x.tenancy, ats := true, port, space := pasid, page := addr / sz * sz, size := sz, target := 0
              read, write }
      else
        ({ s with xltWaits := s.xltWaits.filter (· != v) } : State).raiseFault x v.addr v.write v.cell.isSome (cellNo v.cell)
          .hostNotPresent 0) s

def execTranslationCompletion (port pasid addr size : Nat) (read write : Bool) (s : State) : Out :=
  .next (translationCompletionSt port pasid addr size read write s)

/-- An ATS Invalidate Request: the matching entries, and grants kept for one use, go at once, and the confirmation is owed (R502,
R503, R505). -/
def atsInvalidateSt (port pasid addr size : Nat) (s : State) : State :=
  s.arrive port 1 fun s =>
    let overlaps := fun (p n : Nat) => decide (p < addr + size ∧ addr < p + n)
    { s with
      atc := s.atc.filter (fun e => !(e.ats && e.port == port && e.space == pasid && overlaps e.page e.size))
      xltWaits := s.xltWaits.filter (fun v =>
        !(v.granted && v.port == port && v.pasid == pasid && overlaps (v.page * 4096) 4096))
      invalWait := s.invalWait ++ [port] }

def execAtsInvalidate (port pasid addr size : Nat) (s : State) : Out := .next (atsInvalidateSt port pasid addr size s)

/-- The Invalidation Completion: no transfer of a removed entry is left, since each command makes its transfers whole (R503). -/
def invalidationCompletionSt (port : Nat) (s : State) : State :=
  if s.invalWait.contains port then
    { s with invalWait := s.invalWait.erase port }.emit (.invalCompletion port)
  else s

def execInvalidationCompletion (port : Nat) (s : State) : Out := .next (invalidationCompletionSt port s)

/-- A stalled access is to be replayed (R491): its fault is over and its work goes on. -/
def State.replay (s : State) (f : FaultRec) : State :=
  { s with
    faults := s.faults.filter (fun g => !(g.tenancy == f.tenancy && g.port == f.port && g.id == f.id))
    works := s.works.map (fun w => if w.id == f.w then { w with stalled := false } else w)
    runs := s.runs.map (fun r => if r.w == f.w then { r with stalled := false } else r) }

/-- A PRG Response (R496). -/
def prgResponseSt (port index : Nat) (success : Bool) (s : State) : State :=
  match s.faults.find? (fun f => f.port == port && f.prg == some index) with
  | some f => if success then s.replay f else s.abandon f 0x40
  | none => s

def execPrgResponse (port index : Nat) (success : Bool) (s : State) : Out := .next (prgResponseSt port index success s)

/-- The host disables ATS or PRI on an H-port: every stalled access of its contexts is abandoned (R500). -/
def atsDisableSt (port : Nat) (s : State) : State :=
  (s.faults.filter (fun f => f.port == port)).foldl (fun s f => s.abandon f 0x41)
    (s.setPort port { s.port port with ats := false })

def execAtsDisable (port : Nat) (s : State) : Out := .next (atsDisableSt port s)

/-- A work item's access faults (R489): with HOST_NOT_PRESENT for a host address, else with the cause and level that the walk and
the check at the memory give in this state. -/
def faultSt (w addr : Nat) (write : Bool) (cause : FaultCause) (level : Nat) (s : State) : State :=
  match s.work w with
  | some x =>
    if x.stalled || x.result.isSome then s
    else
      let run := x.opcode == 0x41
      if addrClass addr = 0 then
        if cause = .hostNotPresent ∧ level = 0 then s.raiseFault x addr write run 0 cause level else s
      else if (s.locate x.tenancy x.xltRoot addr 1 write).1 = .fault cause level then s.raiseFault x addr write run 0 cause level
      else s
  | none => s

def execFault (w addr : Nat) (write : Bool) (cause : FaultCause) (level : Nat) (s : State) : Out :=
  .next (faultSt w addr write cause level s)

/-- A batch record (Table 12.5). -/
def State.batchRecord (s : State) (first count : Nat) (phase : Bool) : Bytes :=
  toLe 2 0 ++ toLe 1 0 ++ toLe 1 (130 + b2n phase) ++ toLe 4 count ++ toLe 8 first ++ toLe 5 s.time.now ++ toLe 11 0

/-- The oldest waiting batch record of a tenancy and port posted, if a completion entry is free for it
(DEDUCED, assumption 93). -/
def State.postBatch (s : State) (t p : Nat) : State :=
  match s.batchWait.find? (fun b => b.1 == tpKey t p), s.faultRing t p with
  | some b, some (ring, _) =>
    if (s.ring ring).cqFree = 0 then s
    else
      (({ s with batchWait := s.batchWait.erase b }).postEntry ring (s.batchRecord b.2.1 b.2.2)).emit
        (.msix (s.ring ring).port (s.ring ring).msix)
  | _, _ => s

/-- At a frame boundary: one batch record for every tenancy and port whose fault log gained entries in the frame just ended
(R494) (DEDUCED, assumption 93). -/
def State.postBatches (s : State) : State :=
  s.logGain.foldl (fun s g =>
    let t := g.1 / 16
    let p := g.1 % 16
    let n := ((s.faultRing t p).map (·.2)).getD 0
    let first := (tgetD s.logNext g.1 0 + 2 ^ 16 - g.2) % 2 ^ n
    ({ s with batchWait := s.batchWait ++ [(g.1, first, g.2)] } : State).postBatch t p) { s with logGain := [] }

/-- What waits to be posted for a tenancy and port: a batch record, or the oldest fault, if an entry is free for it (R494, R495)
(DEDUCED, assumption 93). -/
def faultRecordPostSt (tenancy port : Nat) (s : State) : State :=
  let s := s.postBatch tenancy port
  match s.faults.find? (fun f => f.tenancy == tenancy && f.port == port && !f.posted) with
  | some f => s.postFault f
  | none => s

def execFaultRecordPost (tenancy port : Nat) (s : State) : Out := .next (faultRecordPostSt tenancy port s)

/-- A fault outstanding for XLT_FAULT_TIMEOUT frames is abandoned (R499). -/
def faultTimeoutSt (tenancy port id : Nat) (s : State) : State :=
  match s.faults.find? (fun f => f.tenancy == tenancy && f.port == port && f.id == id) with
  | some f => if f.frame + (s.stored 0x0700400).toNat % 2 ^ 32 ≤ s.frame then s.abandon f 0x40 else s
  | none => s

def execFaultTimeout (tenancy port id : Nat) (s : State) : Out := .next (faultTimeoutSt tenancy port id s)

/-- The faults a FAULT_RESUME names: ids FIRST_ID to FIRST_ID + COUNT − 1 modulo 65,536 of the ring's tenancy and port,
outstanding and posted as records or log entries (R498). -/
def State.resumed (s : State) (x : Work) : List FaultRec :=
  s.faults.filter fun f =>
    f.tenancy == x.tenancy && f.port == x.port && f.posted && f.prg.isNone &&
      decide ((f.id + 65536 - fld x.desc 32 2) % 65536 < fld x.desc 34 2)

/-- The result of a FAULT_RESUME that acted on n faults. -/
def resumeResult (x : Work) (n : Nat) : Result := { Result.done n with status := if n = fld x.desc 34 2 then 0 else 1 }

/-- FAULT_RESUME with ACTION RETRY (R498). -/
def faultResumeRetrySt (w : Nat) (s : State) : State :=
  s.withWork w (· == 0x60) fun x s =>
    if fld x.desc 36 1 = 0 then
      let fs := s.resumed x
      (fs.foldl State.replay s).finish w (resumeResult x fs.length)
    else s

def execFaultResumeRetry (w : Nat) (s : State) : Out := .next (faultResumeRetrySt w s)

/-- FAULT_RESUME with ACTION ABORT (R498). -/
def faultResumeAbortSt (w : Nat) (s : State) : State :=
  s.withWork w (· == 0x60) fun x s =>
    if fld x.desc 36 1 = 1 then
      let fs := s.resumed x
      (fs.foldl (fun s f => s.abandon f 0x40) s).finish w (resumeResult x fs.length)
    else s

def execFaultResumeAbort (w : Nat) (s : State) : Out := .next (faultResumeAbortSt w s)

/-- The records of a MIRROR_SYNC: address and value. -/
def syncRecords (b : Bytes) (n : Nat) : List (Nat × Nat) := (List.range n).map (fun i => (fld b (16 * i) 8, fld b (16 * i + 8) 8))

/-- A record that R485 refuses. -/
def State.badSyncRecord (s : State) (t : Nat) (r : Nat × Nat) : Bool :=
  r.1 % 8 != 0 || addrClass r.1 != 3 || !inRange (r.1 % 2 ^ 62) 8 (s.mirrorPool t) || entryReserved r.2

/-- MIRROR_SYNC (R484–R486): the records are read, checked, written in order, and every mirrored translation of the tenancy
is withdrawn. -/
def mirrorSyncSt (w : Nat) (records : Bytes) (s : State) : State :=
  s.withWork w (· == 0x61) fun x s =>
    let n := fld x.desc 32 2
    s.withAccess x [(descOp0 x.desc, 16 * n, false)] fun s =>
      let rs := syncRecords (s.readAt x (descOp0 x.desc) (16 * n) records) n
      if rs.any (s.badSyncRecord x.tenancy) then s.finish w (Result.err 0x12 8)
      else
        let s := rs.foldl (fun s r => s.put (r.1 % 2 ^ 56) (toLe 8 r.2)) s
        { s with atc := s.atc.filter (fun e => e.ats || e.tenancy != x.tenancy) }.finish w (Result.done n)

def execMirrorSync (w : Nat) (records : Bytes) (s : State) : Out := .next (mirrorSyncSt w records s)

/-- A write of XLT_FAULT_RING and its LOG_ADDR (Table 17.11): with VALID = 1 the ring must belong to the tenancy, be bound to the
port, and have SERVICE set, or XLT_STATUS.CMD_ERR is set with CAUSE 4 (Table 17.16). -/
def xltFaultRingWriteSt (mp : MgmtPort) (tenancy port : Nat) (value logAddr : Reg) (s : State) : State :=
  s.setup mp fun s =>
    let r := s.ring (bits value.toNat 15 0)
    if 512 ≤ tenancy ∨ 12 ≤ port then s
    else if bit value.toNat 31 = true ∧
        (r.configured = false ∨ r.tenancy ≠ tenancy ∨ r.port ≠ port ∨ r.service = false) then
      { s with regs := tset s.regs 0x0700410 ((s.stored 0x0700410 &&& ~~~0xF0) ||| 0x40) }.setFlag 0x0700410 0
    else
      let o := faultRingOff tenancy port
      { s with regs := tset (tset s.regs o (value &&& 0x9F00FFFF)) (o + 8) logAddr }

def execXltFaultRingWrite (mp : MgmtPort) (tenancy port : Nat) (value logAddr : Reg) (s : State) : Out :=
  .next (xltFaultRingWriteSt mp tenancy port value logAddr s)

end Sys2Proof.Machine
end

