-- ==== Sys2Proof/Machine/Frames.lean ====
section
/-!
DEFINITION. Rack Time and what its boundaries bring: slots, frames, beacons, RT_PPS, holdover (R35–R60, R536–R538, R651).
-/

namespace Sys2Proof.Machine

/-! ### The counter -/

/-- TIME_CTL, TIME_STATUS and TIME_PPS_ERR (Table 17.3). -/
def timeCtl : Nat := 0x0020100
def timeStatus : Nat := 0x0020118
def timePpsErr : Nat := 0x0020128

/-- TIME_CTL.MASTER (DEDUCED, assumption 21). -/
def State.timeMaster (s : State) : Bool := s.flag timeCtl 0

/-- Time that passes until the counter reads `goal`: a pending slew goes on, and the semaphore's lease and the filter of PERST_N run (R46, R143, R700)
(DEDUCED, assumption 22). -/
def State.passTo (s : State) (goal : Nat) : State :=
  let t := s.time
  let d := goal - t.now
  let n := (t.phase + d) / 2000
  let left := if 0 ≤ t.slewLeft then max 0 (t.slewLeft - n) else min 0 (t.slewLeft + n)
  ({ s with
    time := { t with now := max t.now goal, phase := (t.phase + d) % 2000, slewLeft := left }
    sem := { s.sem with lease := s.sem.lease - d }
    power := s.power.lowFor d } : State).sDie

/-- The counters set forward: the S die's stands at most 2 ns behind (R36). -/
def State.setNow (s : State) (n : Nat) : State := { s with time := { s.time with now := n, nowS := max s.time.nowS (n - 2) } }

/-! ### Slots (R67, R378) -/

/-- The tenancies with work queued on a unit (R67): accesses that wait for it; at a den, waiting requests of hosts; at a walker, queries that
wait for a walk, of tenancies with a context there; at a die, writes whose next program goes there (DEDUCED, assumption 47). -/
def State.queuedOn (s : State) (m : Nat) : List Nat :=
  let live := fun w => decide (2 ^ 71 ≤ w) || (match s.work w with | some x => x.result.isNone && !x.stalled | none => false)
  let accesses := (s.slots.waits.filter (fun v => v.unit == m && !v.served && live v.w)).map (·.tenancy)
  let more :=
    if m < 12 then []
    else if m < 20 then ((s.waiting.map (fun q => s.extent (lineExt q.line))).filter (fun x => x.homeDen == m - 12)).map (·.tenancy)
    else if m < 116 then
      ((s.works.filter (fun x => live x.id && x.queries.any (fun q => q.stage == .waiting) && s.ownCtxs x.tenancy (m - 20) != [])).map
        (·.tenancy))
    else if 244 ≤ m then
      let b := (m - 244) / 64
      ((((s.badger b).wbuf.map (·.tenancy)).eraseDups).filter (fun t => s.programDie b t == some ((m - 244) % 64)))
    else []
  (accesses ++ more).eraseDups

/-- The start of a slot on every slot-granular unit, and what waited for it (DEDUCED, assumption 47). -/
def State.startSlot (s : State) : State :=
  let s := (List.range 116).foldl (fun (s : State) m => s.startPeriod m (s.queuedOn m)) s
  State.retryHeld (State.resume { s with time := { s.time with lastSlot := s.time.now / 256 } })

/-- SLOT_BOUNDARY: the next slot begins, once the counter reaches it. A slot that ticks have already begun is handled where the
counter stands (DEDUCED, assumption 22). -/
def slotBoundarySt (s : State) : State :=
  let s := if s.time.lastSlot < s.time.now / 256 then s else s.passTo ((s.time.now / 256 + 1) * 256)
  s.startSlot

def execSlotBoundary (s : State) : Out := .next (slotBoundarySt s)

/-! ### Setts that wait for a spare (R17, R651, Table 16.2) -/

/-- Physical setts of a den that neither failed nor carry a logical sett. -/
def State.spareSetts (s : State) (den : Nat) : List Nat :=
  (List.range 18).filter (fun p => !s.failedSetts.contains (den, p) &&
    !(List.range 16).any (fun k => tgetD s.settMap (16 * den + k) k == p))

/-- With no spare left, a den presents its remaining setts as logical setts 0 to n − 1; a run whose state lies there follows its
physical setts. -/
def State.packDen (s : State) (den : Nat) : State :=
  let rest := ((List.range 16).map (fun k => tgetD s.settMap (16 * den + k) k)).filter (fun p => p != 18 && !s.failedSetts.contains (den, p))
  let phys := fun k => tgetD s.settMap (16 * den + k) k
  { s with
    settMap := (List.range 16).foldl (fun m k => tset m (16 * den + k) (rest.getD k 18)) s.settMap
    runs := s.runs.map (fun r => if r.den = den then { r with home := r.home.map (fun k => rest.idxOf (phys k)) } else r) }

/-- A spare takes the logical number of a sett that failed, or the den does without. -/
def State.replaceSett (s : State) (den k phys : Nat) : State :=
  match s.spareSetts den with
  | p :: _ => ({ s with settMap := tset s.settMap (16 * den + k) p } : State).logError 0 7 2 none (18 * den + phys) 0 0 0 p
  | [] => s.packDen den

/-- At a frame boundary: the setts that wait, in the order in which they failed (DEDUCED, assumption 63). -/
def State.settleSetts (s : State) : State :=
  s.settWait.foldl (fun s w => s.replaceSett (w.1 / 16) (w.1 % 16) w.2) { s with settWait := [] }

/-! ### Frame boundaries (R57) -/

/-- Steps 1 and 2 of R57: slot maps, then leases and drains. -/
def State.boundaryMaps (s : State) : State :=
  let s := s.switchMaps s.frame
  let s := (s.leases.map (·.1)).foldl (fun s k => leaseExpireSt (k / 256) (k % 256) s) s
  (s.extents.map (·.1)).foldl (fun s e => drainEndSt e s) s

/-- Step 3: leaf versions and row directories; freed UPDATE credits become usable. Read counts start again with a superframe. -/
def State.boundarySwaps (s : State) : State :=
  let s := s.swapAll
  let s := ((s.burrows.map (·.2.tenancy)).eraseDups).foldl (fun s t => s.creditsFreed t 2) s
  let s := s.tablesAtBoundary
  if s.frameIx = 0 then s.resetReads else s

/-- The dens and tenancies whose resident functions wait for a sett: searches with a query to re-rank, and works that found none (R224, R353). -/
def State.residents (s : State) : List (Nat × Nat) :=
  let live := fun w => match s.work w with | some x => x.result.isNone && !x.stalled | none => false
  let asked := (s.slots.waits.filter (fun v => v.cell == settCell && live v.w)).map (fun v => ((v.unit - settMapIx 0 0) / 16, v.tenancy))
  let ranked := (s.works.filter (fun x => live x.id && x.verdict.isNone && isSearch x.opcode && schRerank x.desc != 0 &&
    x.queries.any (·.stage == .scanned))).map (fun x => ((s.burrow x.burrow).homeDen, x.tenancy))
  (ranked ++ asked).eraseDups

/-- Step 4: spares take their numbers, functions change their time slices, dies begin their frame; step 5: slot 0 begins. -/
def State.boundaryUnits (s : State) : State :=
  let s := s.settleSetts
  let s := s.assignSetts s.residents
  let s := (List.range 8).foldl (fun (s : State) b =>
    if (s.badger b).disabled then s
    else (List.range 64).foldl (fun (s : State) d => s.startPeriod (dieMap b d) (s.queuedOn (dieMap b d))) s) s
  s.bgBoundary.parityDue.startSlot

/-- Runs of beacons end in a frame that brings none on the port the counter is disciplined by (R42). A run goes on when R40 moves
discipline to another port, which the spec does not say (DESIGN CHOICE, assumption 103). -/
def State.beaconRuns (s : State) (p : Option Nat) : State :=
  let came := match p with
    | some q => (match tget s.time.echo q with | some e => decide (s.frame ≤ e.2.1 / 2 ^ 14 + 1) | none => false)
    | none => false
  if came then s else { s with time := { s.time with goodRun := 0, badRun := 0 } }

/-- The F-port whose beacons discipline the counter (R40): SRC_PORT; while that is down, the lowest-numbered F-port in link-up on which
a beacon that meets R538 arrived within the last 4 frames. -/
def State.disciplinePort (s : State) : Option Nat :=
  let p := bits (s.stored timeCtl).toNat 11 8
  let up := fun q => s.portClass q == 2 && (s.port q).up
  if up p then some p
  else (List.range 12).find? (fun q => up q &&
    (match tget s.time.portBeacon q with | some t => decide (s.time.now ≤ t + 4 * 2 ^ 14) | none => false))

/-- A Badger window opens at the first boundary handled within it (R59). -/
def State.openWindow (s : State) : State :=
  if 1020 ≤ s.frame % 1024 ∧ (s.time.windowAt = none ∨ (s.time.windowAt.getD 0) / 1024 < s.frame / 1024) then
    { s with time := { s.time with windowAt := some s.frame } }
  else s

/-- Everything a boundary of R57 brings, at the counter's present frame; then the batch records of R494, the keys of R516, a view that is
due (R545) and the requests that waited for recalls (DEDUCED, assumption 22). -/
def State.boundary (s : State) : State :=
  let s := s.boundaryMaps
  let s := viewInstallSt s
  let s := s.boundarySwaps
  let s := s.boundaryUnits
  let s := s.applyRekeys.postBatches.retryHeld
  let s := (s.beaconRuns s.disciplinePort).openWindow
  { s with time := { s.time with lastFrame := s.frame } }

/-- The beacon's payload (Table 13.8). -/
def State.beaconPayload (s : State) (p : Nat) : Bytes :=
  let (tx, rx, res) := tgetD s.time.echo p (0, 0, 0)
  toLe 8 s.time.now ++ toLe 8 tx ++ toLe 8 (if tx = 0 then 0 else s.time.now - rx) ++ toLe 4 0 ++
    toLe 2 ((s.stored 0x080C010).toNat % 4096) ++ toLe 1 s.time.stratum ++
    toLe 1 (b2n s.time.locked + 2 * b2n s.time.holdover + 4 * b2n s.timeMaster) ++ toLe 4 s.fabric.view ++
    toLe 4 s.fabric.viewFrame ++ toLe 4 res ++ toLe 20 0 ++ memberBytes s.fabric.members

/-- One beacon on each F-port (R536); its destination rank is the partner's, which the spec does not say how to know
(DESIGN CHOICE, assumption 24). -/
def State.sendBeacons (s : State) : State :=
  (List.range 12).foldl (fun (s : State) p =>
    if s.portClass p = 2 ∧ (s.port p).up = true then
      s.drawn.sendOn p 0x10 (s.mkMsg (s.freeVal % 4096) 0 0 0 0 s.domainKey (2 ^ 31) (s.beaconPayload p))
    else s) s

/-- FRAME_BOUNDARY: the next frame begins, once the counter reaches it; after the acts of its boundary come the messages of R536, R541,
R542, R554, and the migrations go on. A frame that ticks have already begun is handled where the counter stands
(DEDUCED, assumption 22). -/
def frameBoundarySt (s : State) : State :=
  let s := if s.time.lastFrame < s.frame then s else s.passTo ((s.frame + 1) * 2 ^ 14)
  let s := s.boundary.sendBeacons.sendHeartbeats.tryPropose.sendOwns
  (s.fabric.migrations.map (·.ext)).foldl (fun s e => s.driveMigration e) s

def execFrameBoundary (s : State) : Out := .next (frameBoundarySt s)

/-- The counter set forward: every frame boundary passed over is handled in ascending order, then the new frame begins (R47, R58). A
window that the span cuts opens with the new frame; one wholly inside it does not open. -/
def State.stepTo (s : State) (goal : Nat) : State :=
  let first := s.time.lastFrame + 1
  let s := (List.range (goal / 2 ^ 14 + 1 - first)).foldl (fun (s : State) i =>
    (s.setNow (max s.time.now ((first + i) * 2 ^ 14))).boundary) s
  let s := s.setNow (max s.time.now goal)
  let late := decide (1020 ≤ s.frame % 1024) && (match s.time.windowAt with | some w => decide (first ≤ w ∧ w / 1024 = s.frame / 1024) | none => false)
  ({ s with time := { s.time with slewLeft := 0, windowAt := if late then some s.frame else s.time.windowAt } } : State).sDie

/-! ### Discipline (R39–R48, R537, R538) -/

/-- The counter set as TIME_VALID becomes 1 (R39, R43): no boundary is handled for it (DEDUCED, assumption 25). -/
def State.startTime (s : State) (n : Nat) : State :=
  let opened := if 1020 ≤ n / 2 ^ 14 % 1024 then some (n / 2 ^ 24 * 1024 + 1020) else none
  ({ s with time := { s.time with
      now := n, nowS := n - 2, valid := true, slewLeft := 0, windowAt := opened, lastFrame := n / 2 ^ 14, lastSlot := n / 256 } } :
    State).sDie

/-- TIME_CTL_WRITE (R39) (DEDUCED, assumption 23). -/
def timeCtlWriteSt (mp : MgmtPort) (value : Reg) (s : State) : State :=
  s.setup mp fun s =>
    let old := s.timeMaster
    let new := value.getLsbD 0
    let s : State := { s with regs := tset s.regs timeCtl (value &&& 0xF03) }
    let set := (s.stored 0x0020108).toNat
    if new && !old then
      let s := if !s.time.valid then s.startTime set
        else if s.time.now ≤ set then s.stepTo set
        else { s with time := { s.time with slewLeft := 0 } }
      { s with time := { s.time with stratum := 0, ahead := false, holdover := false } }
    else if old && !new then { s with time := { s.time with stratum := 255, lastBeacon := s.time.now } }
    else s

def execTimeCtlWrite (mp : MgmtPort) (value : Reg) (s : State) : Out := .next (timeCtlWriteSt mp value s)

/-- Twice the offset of a beacon received at `rx` (R537), so that the half of d stays exact. -/
def offset2 (p : Bytes) (rx : Nat) : Int :=
  2 * ((fld p 0 8 : Int) + fld p 0x18 4) + ((rx : Int) - fld p 0x08 8 - fld p 0x10 8 - fld p 0x18 4 - fld p 0x28 4) - 2 * (rx : Int)

/-- A beacon a device may discipline to (R538). -/
def State.meetsR538 (s : State) (p : Bytes) : Bool :=
  let tf := fld p 0x1F 1
  fld p 0x1C 2 == (s.stored 0x080C010).toNat % 4096 && decide (fld p 0x1E 1 ≤ 14) && (bit tf 0 || bit tf 2) && !bit tf 1 &&
    fld p 0x08 8 != 0

/-- More than 65,536 ns ahead (R48). -/
def State.timeAhead (s : State) (off : Int) : State :=
  let was := s.time.ahead
  let s : State := { s with time := { s.time with slewLeft := off, ahead := true, locked := false } }
  if was then s else (s.setFlag timeStatus 9).timeRecord 4

/-- The counter corrected by an offset, given doubled: set at the first valid beacon, slewed, stepped forward, or slewed back with
TIME_AHEAD (R43, R46–R48). A half nanosecond goes to either side (free value) (DESIGN CHOICE, assumption 24). -/
def State.correct (s : State) (off2 off : Int) : State :=
  if !s.time.valid then s.startTime ((s.time.now : Int) + off).toNat
  else if 131072 < off2 then s.stepTo ((s.time.now : Int) + off).toNat
  else if off2 < -131072 then s.timeAhead off
  else { s with time := { s.time with slewLeft := off } }

/-- Runs of beacons within and beyond ±20 ns, and the end of TIME_AHEAD (R42, R48). -/
def Time.count (t : Time) (near : Bool) : Time :=
  if near then
    { t with goodRun := t.goodRun + 1, badRun := 0, ahead := false, locked := t.locked || decide (64 ≤ t.goodRun + 1) }
  else { t with badRun := t.badRun + 1, goodRun := 0, locked := t.locked && decide (t.badRun + 1 < 4) }

/-- The counter disciplined to a beacon (DEDUCED, assumption 23). -/
def State.discipline (s : State) (off2 : Int) (stratum : Nat) : State :=
  let off := if off2 % 2 = 0 then off2 / 2 else off2 / 2 + (s.freeVal % 2 : Nat)
  let s := if off2 % 2 = 0 then s else s.drawn
  let s : State := { s with time := { s.time with stratum, offset := off, holdover := false } }
  let s := s.correct off2 off
  { s with time := { s.time.count (decide (-40 ≤ off2 ∧ off2 ≤ 40)) with lastBeacon := s.time.now } }

/-- BEACON (R537): echoed by the next one sent on the port, its view learnt (R546), and, on the port the counter follows, the counter
corrected; one that does not meet R538 ends both runs there (DEDUCED, assumption 23). -/
def beaconSt (port : Nat) (m : Msg) (s : State) : State :=
  s.message port 0x10 m fun s =>
    let p := m.payload
    let rx := s.time.now
    let ok := s.meetsR538 p
    let s : State := { s with time := { s.time with
      echo := tset s.time.echo port (fld p 0 8, rx, fld p 0x18 4)
      portBeacon := if ok then tset s.time.portBeacon port rx else s.time.portBeacon } }
    let s := s.learnView (fld p 0x20 4) (fld p 0x24 4) (memberList (p.drop 64))
    if s.timeMaster || s.disciplinePort != some port then s
    else if ok then s.discipline (offset2 p rx) (fld p 0x1E 1 + 1)
    else { s with time := { s.time with goodRun := 0, badRun := 0 } }

def execBeacon (port : Nat) (m : Msg) (s : State) : Out := .next (beaconSt port m s)

/-! ### RT_PPS and holdover (R49–R52, R706) -/

/-- The whole second nearest to a value of the counter, and the counter's distance from it. -/
def nearSecond (now : Nat) : Nat := (now + 500000000) / 1000000000
def secondOff (now : Nat) : Int := (now : Int) - 1000000000 * (nearSecond now : Int)

/-- RT_PPS_EDGE, with PPS_EN: the first edge within ±1,000 ns of a whole second counts as valid and, while RT_PPS is valid, corrects the
phase; any other edge is counted in TIME_PPS_ERR, and one outside the window ends a run of valid edges
(DEDUCED, assumption 25). -/
def rtPpsEdgeSt (s : State) : State :=
  if !s.flag timeCtl 1 then s
  else
    let t := s.time
    let k := nearSecond t.now
    let d := secondOff t.now
    if d < -1000 ∨ 1000 < d then { s with time := { t with ppsGoodRun := 0 } }.bump timePpsErr 1
    else if t.ppsSecond = some k then s.bump timePpsErr 1
    else
      let good := t.ppsGoodRun + 1
      let ok := t.ppsValid || decide (3 ≤ good)
      let t := { t with ppsSecond := some k, ppsGoodRun := good, ppsBadRun := 0, ppsValid := ok }
      { s with time := if ok && t.valid && !s.timeMaster then { t with slewLeft := -d } else t }

def execRtPpsEdge (s : State) : Out := .next (rtPpsEdgeSt s)

/-- The last whole second whose window of RT_PPS has passed. -/
def lastSecond (now : Nat) : Nat := (now - 1001) / 1000000000

/-- PPS_MISSING, with PPS_EN: the window of a whole second has passed without a valid edge; after three in a row RT_PPS is invalid
(DEDUCED, assumption 25). -/
def ppsMissingSt (s : State) : State :=
  let t := s.time
  let k := lastSecond t.now
  let seen := match t.ppsSecond with | some j => decide (k ≤ j) | none => false
  if s.flag timeCtl 1 = false ∨ k = 0 ∨ seen = true then s
  else
    let bad := t.ppsBadRun + 1
    { s with time := { t with
        ppsSecond := some k, ppsGoodRun := 0, ppsBadRun := bad, ppsValid := t.ppsValid && decide (bad < 3) } }

def execPpsMissing (s : State) : Out := .next (ppsMissingSt s)

/-- HOLDOVER_ENTRY: 1,000,000,000 ns without a beacon to discipline to; a timing master takes none (R50). The correction then applied to
TCLK stays in force (R51)
(DEDUCED, assumption 21; DEDUCED, assumption 23). -/
def holdoverEntrySt (s : State) : State :=
  let t := s.time
  if !t.holdover && !s.timeMaster && decide (t.lastBeacon + 1000000000 ≤ t.now) then
    ({ s with time := { t with holdover := true, freq := t.slewLeft.sign, slewLeft := 0 } }.setFlag timeStatus 8).timeRecord 3
  else s

def execHoldoverEntry (s : State) : Out := .next (holdoverEntrySt s)

end Sys2Proof.Machine
end

