-- ==== Sys2Proof/Machine/Health.lean ====
section
/-!
DEFINITION. Spares in service, detected errors, heat, loopbacks and the registers that go with them (R20, R446–R448, R639–R652, R657,
R682, R703, R704).
-/

namespace Sys2Proof.Machine

/-! ### Setts (R651) -/

/-- The runs whose state lies on a logical sett end with POISONED; the failing cell is one of the sett's, which one is free
(DEDUCED, assumption 63). -/
def State.loseSett (s : State) (den k : Nat) : State :=
  let hit := fun (r : Run) => r.den == den && r.ended.isNone && (r.setts.contains k || r.home.contains k)
  let image := fun (r : Run) => if r.setts.contains k then r.setts.idxOf k else r.home.idxOf k
  { s.drawn with runs := s.runs.map (fun r =>
      if hit r then { r with ended := some (0x32, 8 * image r + s.freeVal % 8) } else r) }

/-- SETT_FAIL: the sett is recorded as failed; if it carries a logical sett, the run there ends, and from the next frame boundary on a
spare serves. Until then the logical number serves nobody (DEDUCED, assumption 63). -/
def settFailSt (den phys : Nat) (s : State) : State :=
  if 8 ≤ den ∨ 18 ≤ phys ∨ s.failedSetts.contains (den, phys) = true then s
  else
    let s : State := { s with
      failedSetts := s.failedSetts ++ [(den, phys)]
      health := { s.health with setts := s.health.setts ++ [(den, phys)] } }
    let s := (s.logError 1 7 1 none (18 * den + phys) 0 0 0 0).reviewSvc
    match (List.range 16).find? (fun k => tgetD s.settMap (16 * den + k) k == phys) with
    | none => s
    | some k =>
      let s := s.loseSett den k
      { s with settMap := tset s.settMap (16 * den + k) 18, settWait := s.settWait ++ [(16 * den + k, phys)] }

def execSettFail (den phys : Nat) (s : State) : Out := .next (settFailSt den phys s)

/-! ### HBM stacks (R20, R166, R446, R447) -/

/-- Lines of a stack of 96 GiB. -/
def stackLines : Nat := 49152 * granule / 64

/-- The logical number of the stack whose addresses a physical stack serves. -/
def State.logicalStack (s : State) (stack : Nat) : Nat :=
  s.setupStacks.idxOf (if stack = s.mem.spare then s.mem.replaced.getD stack else stack)

/-- The lines of a lost stack read as poison; of one that was being copied, those that no copy had reached, which ones is free. Copies
that the HBM cache held there are dropped. -/
def State.loseStack (s : State) (stack : Nat) : State :=
  let lo := (stackRange (s.logicalStack stack)).1 / 64
  let n := s.freeCount
  let copying := s.mem.copying == some stack
  let gone := (List.range stackLines).filterMap (fun i =>
    if !copying || s.poison.contains (lo + i) || Config.free (n + i) % 2 == 1 then some (lo + i) else none)
  { s with
    poison := s.poison.filter (fun l => decide (l < lo)) ++ gone ++ s.poison.filter (fun l => decide (lo + stackLines ≤ l))
    hbmCache := s.hbmCache.filter (fun l =>
      let x := s.extent (lineExt l)
      (s.hbmcSet x l).map (s.hbmcStack x.tenancy x.primaryDie) != some (s.logicalStack stack))
    freeCount := n + stackLines }

/-- Corrected occurrences of a source and unit in the present superframe (R714). -/
def State.corrected (s : State) (source unit : Nat) : Nat :=
  if s.errs.superframe = s.frame / 64 then
    ((s.errs.counts.find? (fun c => c.1 == source && c.2.1 == unit)).map (·.2.2.1)).getD 0
  else 0

/-- A spare stack is in service and unused. -/
def State.spareFree (s : State) : Bool := s.mem.replaced.isNone && s.mem.hbmUp.contains s.mem.spare

/-- HBM_RETIRE: a stack above HBM_RETIRE_THRESHOLD begins to be copied to the spare (DEDUCED, assumption 86). -/
def hbmRetireSt (stack : Nat) (s : State) : State :=
  if s.mem.hbmUp.contains stack && stack != s.mem.spare && s.spareFree && s.mem.copying.isNone &&
      decide ((s.stored 0x0200008).toNat % 2 ^ 32 < s.corrected 2 stack) then
    ({ s with mem := { s.mem with copying := some stack, copyFrame := s.frame } }.logError 0 2 3 none stack 0 0 0 s.mem.spare).reviewSvc
  else s

def execHbmRetire (stack : Nat) (s : State) : Out := .next (hbmRetireSt stack s)

/-- The spare takes a stack's logical addresses; the stack leaves service and enters the health record. -/
def State.takeSpare (s : State) (stack : Nat) : State :=
  { s with
    mem := { s.mem with replaced := some stack, copying := none, hbmUp := s.mem.hbmUp.filter (· != stack) }
    health := { s.health with stack := some (stack, s.mem.spare) } }

/-- SPARE_TAKEOVER: the copy has ended, and at a frame boundary after its start the spare takes over with nothing lost
(DEDUCED, assumption 86). -/
def spareTakeoverSt (s : State) : State :=
  match s.mem.copying with
  | some st => if s.mem.copyFrame < s.frame then (s.takeSpare st).reviewSvc else s
  | none => s

def execSpareTakeover (s : State) : Out := .next (spareTakeoverSt s)

/-- HBM_STACK_FAIL: the spare takes over at once, if it can, and the lines not copied are poison. An unused spare that fails only leaves
service; a stack that fails with no spare left loses its lines (DEDUCED, assumption 86). -/
def hbmStackFailSt (stack : Nat) (s : State) : State :=
  if s.mem.hbmUp.contains stack = false then s
  else
    let log := fun (s : State) => s.logError 1 2 4 none stack 0 0 0 0
    if stack = s.mem.spare ∧ s.mem.replaced.isNone = true then
      log { s with
        mem := { s.mem with copying := none, hbmUp := s.mem.hbmUp.filter (· != stack) }
        health := { s.health with stack := some (stack, stack) } }
    else
      let lost := s.loseStack stack
      let s := if s.spareFree then lost.takeSpare stack
        else { lost with mem := { lost.mem with hbmUp := lost.mem.hbmUp.filter (· != stack) } }
      (log s).reviewSvc

def execHbmStackFail (stack : Nat) (s : State) : Out := .next (hbmStackFailSt stack s)

/-- HBM_SPARE_WRITE: the spare designated, before any HBM capacity is mapped (R20) (DEDUCED, assumption 87). A write is ignored too while the spare
stands for a failed stack, and for the values 12–15, of which the spec says nothing (DESIGN CHOICE, assumption 121). -/
def hbmSpareWriteSt (mp : MgmtPort) (value : Reg) (s : State) : State :=
  s.setup mp fun s =>
    let v := value.toNat % 16
    if s.mem.mapped || s.mem.replaced.isSome || decide (12 ≤ v) then s else { s with mem := { s.mem with spare := v } }

def execHbmSpareWrite (mp : MgmtPort) (value : Reg) (s : State) : Out := .next (hbmSpareWriteSt mp value s)

/-! ### DDR channels (R415, R448) -/

/-- The stripes of one copy of an extent that lie on a channel. A page of a paged extent stands in a page frame of the copy that the
spec does not name (free value). -/
def Extent.stripesOn (x : Extent) (copy ch n : Nat) : List Nat :=
  let die := if copy = 0 then x.primaryDie else 1 - x.primaryDie
  let l := x.chans.filter (fun c => c / 8 == die)
  if ch / 8 ≠ die ∨ l.contains ch = false ∨ (copy = 1 ∧ x.mirrored = false) ∨ x.state = 0 then []
  else
    let on := fun i => i % l.length == l.idxOf ch
    if x.paged then
      x.resident.flatMap (fun p => ((List.range 4).filter (fun j => on (4 * Config.free (n + p.1) + j))).map (fun j => 4 * p.1 + j))
    else (List.range (2 ^ 18)).filter on

/-- A stripe's lines made poison, each with its record (R442, R448); a line that the den cache or the HBM cache holds is read there
(DEDUCED, assumption 71). -/
def State.losePlain (s : State) (ext : Nat) (stripe : Nat) : State :=
  (List.range 64).foldl (fun (s : State) i =>
    let line := ext * 2 ^ 24 + stripe * 64 + i
    if s.denCache.any (fun c => c.1 == line) || s.hbmCache.contains line then s
    else (s.addPoison (lineOf (lineAddr line))).logError 1 3 2 (some (s.extent ext).tenancy) (s.extent ext).homeDen
      (logical (lineAddr line)) 1 ext 0) s

/-- An extent after a channel's failure: a stripe that has no other copy is lost; of the others, as many are rebuilt as the tenancy's
allotment there allows, which the spec does not count (free value) (DEDUCED, assumption 71). -/
def State.loseCopies (s : State) (ch ext copy : Nat) : State :=
  let x := s.extent ext
  let on := x.stripesOn copy ch s.freeCount
  let s : State := { s with freeCount := s.freeCount + 2 ^ 18 }
  let alone := fun i => !x.mirrored || x.lost.contains (1 - copy, i)
  let kept := on.filter (fun i => !alone i)
  let k := s.freeVal % (kept.length + 1)
  let s := (on.filter alone).foldl (fun s i => s.losePlain ext i) s.drawn
  let s := { s with extents := tmap s.extents ext (fun x => { x with lost := x.lost ++ (kept.drop k).map (fun i => (copy, i)) }) }
  if k = 0 then s else s.logError 0 3 5 (some x.tenancy) ch 0 1 ext k

/-- What else lies in a die's DDR: the lines of live objects that the channel held are poison; which ones is free, since R415 places only
extents. -/
def State.loseOthers (s : State) (ch : Nat) : State :=
  let n := s.freeCount
  let lo := ddrBase (ch / 8)
  let hosted := s.extents.flatMap (fun e => [e.2.ddrBase, e.2.mirrorBase])
  let blocks := (s.liveRanges.filter (fun r => decide (lo ≤ r.1 ∧ r.1 < lo + 2 ^ 42) && !hosted.contains r.1)).flatMap (fun r =>
    (List.range (ceilDiv r.2 64)).map (fun i => lineOf r.1 + i))
  (blocks.filter (fun l => Config.free (n + l) % 2 == 1)).foldl State.addPoison { s with freeCount := n + 2 ^ 50 }

/-- DDR_CHANNEL_FAIL: a channel that has lost its chip-kill margin stays in service; one that has failed leaves it
(DEDUCED, assumption 86). -/
def ddrChannelFailSt (ch : Nat) (failed : Bool) (s : State) : State :=
  if s.mem.ddrUp.contains ch = false then s
  else if failed then
    let s : State := { s with
      mem := { s.mem with ddrUp := s.mem.ddrUp.filter (· != ch), noMargin := s.mem.noMargin.filter (· != ch) }
      health := { s.health with ddrOut := s.health.ddrOut ++ [ch] } }
    let s := s.logError 1 3 4 none ch 0 0 0 0
    let s := (s.extents.map (·.1)).foldl (fun s e => (s.loseCopies ch e 0).loseCopies ch e 1) s
    (s.loseOthers ch).reviewSvc
  else if s.mem.noMargin.contains ch then s
  else ({ s with mem := { s.mem with noMargin := s.mem.noMargin ++ [ch] } }.logError 0 3 3 none ch 0 0 0 0).reviewSvc

def execDdrChannelFail (ch : Nat) (failed : Bool) (s : State) : Out := .next (ddrChannelFailSt ch failed s)

/-! ### Detected errors (R646–R650) -/

/-- The data of an uncorrectable line reads as poison; a grain of flash is LOST (Table 16.6). -/
def State.spoil (s : State) (addr : Nat) : State :=
  let a := addr - 3 * 2 ^ 62
  if addr < 3 * 2 ^ 62 then s
  else if a / 2 ^ 48 = 3 then
    let (b, g) := grainAt a
    s.setBadger b { s.badger b with map := tmap (s.badger b).map g (fun m => { m with lost := true }) }
  else s.addPoison (lineOf a)

/-- ERROR_DETECTED: a record, and the effect and event of the error's class. -/
def errorDetectedSt (cls source code : Nat) (tenancy : Option Nat) (unit addr objKind objId info : Nat) (s : State) : State :=
  let s := s.logError cls source code tenancy unit addr objKind objId info
  match cls with
  | 0 => s
  | 1 => (s.spoil addr).emit (.corrEvent source unit)
  | 2 => (s.tenancyFatal (tenancy.getD 0)).emit (.corrEvent source unit)
  | _ => s.deviceFatal

def execErrorDetected (cls source code : Nat) (tenancy : Option Nat) (unit addr objKind objId info : Nat) (s : State) : Out :=
  .next (errorDetectedSt cls source code tenancy unit addr objKind objId info s)

/-- ERR_HEAD_WRITE: taken only if the new value lies from HEAD to TAIL in circular order (R682). -/
def errHeadWriteSt (mp : MgmtPort) (value : Reg) (s : State) : State :=
  s.setup mp fun s =>
    let v := value.toNat % 8192
    if (v + 8192 - s.errs.head) % 8192 ≤ (s.errs.tail + 8192 - s.errs.head) % 8192 then
      { s with errs := { s.errs with head := v } }
    else s

def execErrHeadWrite (mp : MgmtPort) (value : Reg) (s : State) : Out := .next (errHeadWriteSt mp value s)

/-! ### Output pins (Table 18.3, R652, R655) -/

/-- ALERT_N is asserted: a flag with a maskable event stands with its enable set (R655). -/
def State.alert (s : State) : Bool :=
  s.regs.any (fun e => match regRow e.1 with
    | some r => (r.w1c &&& e.2.toNat &&& (s.stored (e.1 + 8)).toNat) &&& (full - nonMaskable e.1) != 0
    | none => false)

/-- NMI_N is asserted: HLT_NMI.CAUSE is not zero (R655). -/
def State.nmi (s : State) : Bool := (s.stored nmiOff).toNat % 8 != 0

/-- SVC_REQ_N is asserted: some replace-me condition holds (R652); it holds its state while PERST_N is asserted (Table 18.3). -/
def State.svcReq (s : State) : Bool := if s.power.perst then s.power.svcHeld else s.svcCauses != 0

/-! ### Heat (R657, R703, R704) -/

/-- HLT_THERM. -/
def hltTherm : Nat := 0x0A00030

/-- WARN_C, at most 105 (R703). -/
def State.warnC (s : State) : Nat := min 105 ((s.stored hltTherm).toNat % 256)

/-- The hottest sensor's reading, with THERM_WARN set while it is at or above WARN_C (R657). -/
def State.heat (s : State) (maxC : Nat) : State :=
  let warn := decide (s.warnC ≤ maxC)
  let s' : State := { s with power := { s.power with maxC, thermWarn := warn } }
  if warn && !s.power.thermWarn then s'.setFlag hltTherm 9 else s'

/-- A throttle at least of a degree (Table 18.8) (DEDUCED, assumption 31). -/
def State.throttleTo (s : State) (n : Nat) : State := { s with power := { s.power with throttle := max n s.power.throttle } }

/-- THERM_WARN: at or above WARN_C, issue in 3 of 4 cycles (DEDUCED, assumption 31). -/
def thermWarnSt (maxC : Nat) (s : State) : State := if s.warnC ≤ maxC then (s.heat maxC).throttleTo 1 else s

def execThermWarn (maxC : Nat) (s : State) : Out := .next (thermWarnSt maxC s)

/-- THERM_ESCALATE: at or above 110 °C, issue in 1 of 2 cycles, with the non-maskable event (DEDUCED, assumption 31). -/
def thermEscalateSt (maxC : Nat) (s : State) : State :=
  if 110 ≤ maxC then
    let s' := (s.heat maxC).throttleTo 2
    if s.power.throttle < 2 then s'.raiseNmi 2 else s'
  else s

def execThermEscalate (maxC : Nat) (s : State) : Out := .next (thermEscalateSt maxC s)

/-- THERM_TRIP: at or above 115 °C, THERM_TRIP_N, the record of code 3 and the device-fatal condition (DEDUCED, assumption 31). -/
def thermTripSt (maxC : Nat) (s : State) : State :=
  if 115 ≤ maxC ∧ s.power.thermTrip = false then
    let s := thermEscalateSt maxC s
    ({ s with power := { s.power with thermTrip := true } }.logError 3 13 3 none 0 0 0 0 0).deviceFatal
  else s

def execThermTrip (maxC : Nat) (s : State) : Out := .next (thermTripSt maxC s)

/-- THERM_CLEAR: each throttle ends below its release threshold (DEDUCED, assumption 31). -/
def thermClearSt (maxC : Nat) (s : State) : State :=
  let cool := decide (maxC + 5 < s.warnC)
  let t := if s.power.throttle = 2 ∧ 105 ≤ maxC then 2 else if cool then 0 else min 1 s.power.throttle
  let s := s.heat maxC
  { s with power := { s.power with throttle := t } }

def execThermClear (maxC : Nat) (s : State) : Out := .next (thermClearSt maxC s)

/-! ### Loopbacks and repairs (R639–R642, R709) -/

/-- The depths of Table 16.3 that an interface has, and how many of it there are. -/
def loopDepths : Nat → Nat
  | 1 => 3
  | 2 | 3 | 4 => 2
  | 5 => 1
  | _ => 0
def loopCount : Nat → Nat
  | 1 | 2 => 12
  | 3 => 16
  | 4 => 32
  | _ => 2

/-- An interface carries no service (R641). -/
def State.idleIface (s : State) (mp : MgmtPort) (iface index : Nat) : Bool :=
  match iface with
  | 1 => s.portClass index == 0 || s.held index
  | 2 => (index == s.mem.spare && s.mem.replaced.isNone && s.mem.copying.isNone) || s.mem.replaced == some index
  | 3 => !s.mem.ddrUp.contains index
  | 4 => (s.badger (index / 4)).disabled
  | _ => index + 1 != mpId mp

/-- HLT_LB_CMD: a loopback starts, or is refused (DEDUCED, assumption 32). -/
def hltLbCmdSt (mp : MgmtPort) (value : Reg) (s : State) : State :=
  s.setup mp fun s =>
    let v := value.toNat
    let l : Loopback := { iface := bits v 3 0, index := bits v 15 8, depth := bits v 19 16, log2 := bits v 31 24 }
    if decide (l.depth < loopDepths l.iface) && decide (l.index < loopCount l.iface) && s.idleIface mp l.iface l.index &&
        s.loop.isNone then
      { s with loop := some l, lbResult := 0 }
    else s.setFlag 0x0A00060 0

def execHltLbCmd (mp : MgmtPort) (value : Reg) (s : State) : Out := .next (hltLbCmdSt mp value s)

/-- A loopback passes (Table 16.3): without an error, or, at the PMA and at the far end of a port, at an error ratio of at most 10^−6
(DEDUCED, assumption 32). -/
def Loopback.passes (l : Loopback) (compared errors : Nat) : Bool :=
  if l.iface = 1 ∧ l.depth ≠ 0 then decide (errors * 1000000 ≤ 2 ^ compared) else errors == 0

/-- LOOPBACK_END: 2^compared compared, the errors found, and the verdict (DEDUCED, assumption 32). -/
def loopbackEndSt (compared errors : Nat) (s : State) : State :=
  match s.loop with
  | some l =>
    { s with
      loop := none
      lbResult := BitVec.ofNat 64 (min errors (2 ^ 32 - 1) * 2 ^ 32 + compared % 256 * 2 ^ 8 + (if l.passes compared errors then 1 else 2)) }
  | none => s

def execLoopbackEnd (compared errors : Nat) (s : State) : Out := .next (loopbackEndSt compared errors s)

/-- HLT_REPAIR_CLR: the entries of DDR channels to be cleared at the next reset. -/
def hltRepairClrSt (mp : MgmtPort) (value : Reg) (s : State) : State :=
  s.setup mp fun s =>
    { s with health := { s.health with clearDdr := (s.health.clearDdr ++ (List.range 16).filter (bit value.toNat)).eraseDups } }

def execHltRepairClr (mp : MgmtPort) (value : Reg) (s : State) : Out := .next (hltRepairClrSt mp value s)

end Sys2Proof.Machine
end

