-- ==== Sys2Proof/Machine/Power.lean ====
section
/-!
DEFINITION. Resets, rails, self-test, scan and the TAP (R151, R589, R595, R612–R615, R624, R634–R645, R660, R664, R675, R695, R699–R704).
-/

namespace Sys2Proof.Machine

/-! ### Resets -/

/-- A Badger after a reset: NF_CFG as last written takes effect (R675), the media and what stands on them are kept (R589), and all else
starts again. A population that breaks Table 14.1 sets CFG_ERR and disables the Badger (R557). -/
def Badger.restart (x : Badger) (cfg : Nat) : Badger :=
  let on := bit cfg 4
  { x with
    cfg, map := [], wbuf := [], slcTarget := 0, bgOps := [], temps := [], readOnly := false, heldTrims := [], lastScrub := []
    loaded := false, mapReady := false, shutDone := false, cfgErr := on && cfgBad cfg, disabled := !on || cfgBad cfg }

/-- A tenancy after a reset (Table 15.1). -/
def Tenancy.restart (x : Tenancy) : Tenancy :=
  { Tenancy.fresh with gen := x.gen, state := if x.state = 1 ∨ x.state = 2 then 1 else 0 }

/-- Every block outside the always-on domain reset (R595, R660, R702): kept are the ERR_ block, the health record with the clears of
HLT_REPAIR_CLR made, Owl's sealed store and NF_CFG, the flash media, and memory until self-test fills it with zeros. A record with a
TEARDOWN mark is destroyed (R624) (DEDUCED, assumption 89). -/
def State.blockReset (s : State) : State :=
  let h : Health := { s.health with ddrOut := s.health.ddrOut.filter (fun c => !s.health.clearDdr.contains c), clearDdr := [] }
  let r : State := { State.reset with
    pending := s.pending, out := s.out, freeCount := s.freeCount, part := s.part
    clock := { Clock.reset with watch := s.clock.watch }
    power := { s.power with
      devReady := false, fatal := false, thermWarn := false, throttle := 0, maxC := 0, warmOrdered := false }
    regs := match tget s.regs 0x0A20010 with | some v => [(0x0A20010, v)] | none => []
    tenancies := s.tenancies.map (fun e => (e.1, e.2.restart))
    memory := s.memory, poison := s.poison
    badgers := (List.range 8).map (fun b =>
      (b, { (s.badger b).restart (tgetD s.owl.nfCfg b 0).toNat with owlBlocks := b % 4 == 0 }))
    mem := { Memories.reset with
      spare := (h.stack.map (·.2)).getD 11
      replaced := match h.stack with | some (st, sp) => if st = sp then none else some st | none => none }
    failedSetts := h.setts
    health := h
    test := { SelfTest.reset with running := false, bankB := s.test.bankB, shadow := s.test.shadow }
    owl := { s.owl with keys := [], aliasKey := [], mboxResult := 0, mboxData := [], sealed := s.owl.sealed.filter (fun e => !e.2.2) }
    errs := { s.errs with counts := [], superframe := 0 } }
  { r with svcPrev := r.svcCauses }

/-- Self-test may start: both rail groups in tolerance, PERST_N deasserted, and MODE 0b00 (Table 18.4). -/
def State.mayTest (s : State) : Bool := s.power.auxOk && s.power.mainOk && !s.power.perst && bits s.power.straps 7 6 == 0

/-- Self-test begins, if it may (R635). -/
def State.beginTest (s : State) : State := { s with test := { s.test with running := s.mayTest } }

/-- PERST_N taken as asserted (R701): the level of SVC_REQ_N holds; a device leaves scan (R645) (DEDUCED, assumption 89). -/
def State.takePerst (s : State) : State :=
  let held := s.svcCauses != 0
  let s := s.blockReset
  { s with power := { s.power with perst := true, perstFor := none, svcHeld := held, scanArmed := false, tap := .bypass } }

/-- PERST_N_ASSERT: the pin goes low; a pulse shorter than 1 µs is ignored, so its assertion is taken only once the pin has been low for
that long (R700, R701) (DEDUCED, assumption 125) (DEDUCED, assumption 89). -/
def perstNAssertSt (s : State) : State :=
  if s.power.perst then s
  else match s.power.perstFor with
    | none => { s with power := { s.power with perstFor := some 0 } }
    | some n => if n < 1000 then s else s.takePerst

def execPerstNAssert (s : State) : Out := .next (perstNAssertSt s)

/-- PERST_N_DEASSERT (R635, R695, R704): the straps are sampled, THERM_TRIP_N is released, self-test begins. A pulse that was not taken
as an assertion ends without a trace (R700) (DEDUCED, assumption 125). -/
def perstNDeassertSt (straps : Nat) (s : State) : State :=
  if s.power.perst && s.power.auxOk then
    State.beginTest { s with power := { s.power with perst := false, straps := straps % 256, thermTrip := false, svcHeld := false } }
  else { s with power := { s.power with perstFor := none } }

def execPerstNDeassert (straps : Nat) (s : State) : Out := .next (perstNDeassertSt straps s)

/-- GLB_RESET (R664): 0xB007 in KEY orders a warm reset. -/
def glbResetSt (mp : MgmtPort) (value : Reg) (s : State) : State :=
  s.setup mp fun s =>
    if value.toNat % 2 ^ 16 = 0xB007 then { s with power := { s.power with warmOrdered := true } } else s

def execGlbReset (mp : MgmtPort) (value : Reg) (s : State) : Out := .next (glbResetSt mp value s)

/-- WARM_RESET (R635): an ordered warm reset takes effect. -/
def warmResetSt (s : State) : State := if s.power.warmOrdered then s.blockReset.beginTest else s

def execWarmReset (s : State) : Out := .next (warmResetSt s)

/-- MAIN_RAIL_FAULT (R702): as at the assertion of PERST_N, outside the always-on domain. -/
def mainRailFaultSt (s : State) : State :=
  let t := if s.power.perst || !s.power.mainOk then s else s.blockReset
  { t with power := { t.power with mainOk := false } }

def execMainRailFault (s : State) : Out := .next (mainRailFaultSt s)

/-- MAIN_RAIL_RESTORE (R702): every main rail has been in tolerance for 10 ms; self-test runs again. -/
def mainRailRestoreSt (s : State) : State :=
  if s.power.mainOk then s else State.beginTest { s with power := { s.power with mainOk := true } }

def execMainRailRestore (s : State) : Out := .next (mainRailRestoreSt s)

/-- AUX_POWER_LOSS (R645, R650, R704): the always-on domain loses its state too; what stands in fuses and flash is kept
(DEDUCED, assumption 89). -/
def auxPowerLossSt (s : State) : State :=
  let s := s.blockReset
  { s with
    regs := [], clock := .reset, errs := .reset
    power := { Power.reset with auxOk := false, mainOk := s.power.mainOk, perst := true }
    owl := { s.owl with scanSeen := false, zeroised := false } }

def execAuxPowerLoss (s : State) : Out := .next (auxPowerLossSt s)

/-- AUX_POWER_ON (R77, R699, R701): the watch oscillator may be used, the always-on domain starts, the management ports train; PERST_N is
still held. -/
def auxPowerOnSt (s : State) : State :=
  if s.power.auxOk then s
  else
    { s with
      power := { s.power with auxOk := true, perst := true, linkA := true, linkB := true }
      clock := { s.clock with watch := { stable := true, eligible := true, failed := false } } }

def execAuxPowerOn (s : State) : Out := .next (auxPowerOnSt s)

/-! ### Self-test (R635–R639, Table 16.2) -/

/-- Setts, HBM parts, DDR channels, lane pairs and dies among the failures. -/
def TestFailure.sett? : TestFailure → Option (Nat × Nat)
  | .sett den phys => if den < 8 ∧ phys < 18 then some (den, phys) else none
  | _ => none
def TestFailure.stack? : TestFailure → Option Nat
  | .hbmStack k => if k < 12 then some k else none
  | _ => none
def TestFailure.channel? : TestFailure → Option Nat
  | .ddrChannel c => if c < 16 then some c else none
  | _ => none
def TestFailure.lane? : TestFailure → Option (Nat × Nat)
  | .lanePair p i => if p < 12 ∧ i < 17 then some (p, i) else none
  | _ => none
def TestFailure.die? : TestFailure → Option (Nat × Nat)
  | .nandDie b d => some (b, d)
  | _ => none

/-- Members of a list not in another. -/
def fresh {α : Type} [BEq α] (old new : List α) : List α := (new.filter (fun x => !old.contains x)).eraseDups

/-- A failure that Table 16.2 does not absorb: its stage of Table 16.1 and its unit. -/
def State.fatalFailure (s : State) : TestFailure → Option (Nat × Nat)
  | .sram u => some (3, u)
  | .logic u => some (4, u)
  | .analogue u => some (5, u)
  | .nandChannel c => if c = 0 ∨ c = 16 ∨ (s.badger (c / 4)).disabled = false then some (6, c) else none
  | .boot i => some (7, i)
  | _ => none

/-- The first fatal failure in the order of the stages; a second failed stack is one (R638). -/
def State.testFails (s : State) (fs : List TestFailure) (newStacks : List Nat) : Option (Nat × Nat) :=
  let second := if s.health.stack.isSome then newStacks else newStacks.drop 1
  bestBy (fun a b => decide (a.1 < b.1)) (fs.filterMap s.fatalFailure ++ second.map (fun k => (6, k)))

/-- The logical setts of a reset device: failed ones replaced in the order of the health record (R17). -/
def State.layoutSetts (s : State) : State :=
  s.failedSetts.foldl (fun (s : State) f =>
    match (List.range 16).find? (fun k => tgetD s.settMap (16 * f.1 + k) k == f.2) with
    | some k =>
      match s.spareSetts f.1 with
      | p :: _ => { s with settMap := tset s.settMap (16 * f.1 + k) p }
      | [] => s.packDen f.1
    | none => s) { s with settMap := [] }

/-- Failed setts found: recorded, logged, and with those of the record left out of the layout. -/
def State.testSetts (s : State) (new : List (Nat × Nat)) : State :=
  let s := new.foldl (fun (s : State) f => s.logError 0 7 2 none (18 * f.1 + f.2) 0 0 0 0) s
  State.layoutSetts { s with failedSetts := s.failedSetts ++ new, health := { s.health with setts := s.health.setts ++ new } }

/-- The first failed stack: the spare takes its addresses; if it is the spare itself, none is left. -/
def State.testStacks (s : State) (new : List Nat) : State :=
  let s : State := match s.health.stack, new with
    | none, k :: _ =>
      let s := s.logError 0 2 4 none k 0 0 0 0
      { s with
        health := { s.health with stack := some (k, s.mem.spare) }
        mem := { s.mem with replaced := if k = s.mem.spare then none else some k } }
    | _, _ => s
  let out := match s.health.stack with | some (k, _) => [k] | none => []
  { s with mem := { s.mem with hbmUp := (List.range 12).filter (fun k => !out.contains k) } }

/-- DDR channels found failing leave service (Table 16.2). -/
def State.testChannels (s : State) (new : List Nat) : State :=
  let h : Health := { s.health with ddrOut := s.health.ddrOut ++ new }
  { s with health := h, mem := { s.mem with ddrUp := (List.range 16).filter (fun c => !h.ddrOut.contains c) } }

/-- What self-test absorbs: spares taken, lanes and dies marked (Table 16.2, R639). -/
def State.testParts (s : State) (fs : List TestFailure) (hbmBad : List Nat) : State :=
  let s := s.testSetts (fresh s.health.setts (fs.filterMap TestFailure.sett?))
  let s := s.testStacks hbmBad
  let s := s.testChannels (fresh s.health.ddrOut (fs.filterMap TestFailure.channel?))
  let s := (fs.filterMap TestFailure.lane?).foldl (fun (s : State) l => s.addBadLane l.1 l.2) s
  (fs.filterMap TestFailure.die?).foldl (fun (s : State) d => dieFailSt d.1 d.2 s) s

/-- The images now in use (R613, R615): an image that booted from the other bank brings that bank's security version number
(DEDUCED, assumption 90). -/
def State.bootBanks (s : State) (bankB : Nat) : State :=
  [2, 3, 4, 5].foldl (fun (s : State) i =>
    if bit bankB (i - 2) = bit s.test.bankB (i - 2) then s
    else
      let now := tget s.owl.bankSvn i
      let put := fun (t : Tab Nat) (v : Option Nat) => match v with | some n => tset t i n | none => tdel t i
      { s with owl := { s.owl with bankSvn := put s.owl.bankSvn (tget s.owl.otherBank i), otherBank := put s.owl.otherBank now } }) s

/-- An image in use whose version is below the fused one is not accepted (R611) (DEDUCED, assumption 90). -/
def State.badImage (s : State) : Option Nat := [2, 3, 4, 5].find? (fun i => decide (s.imageSvn i < s.fusedSvn i))

/-- Self-test failed: HLT_ST and HLT_BOOT name the failure, and the record is of class device-fatal (R614, R638). -/
def State.failTest (s : State) (stage unit : Nat) : State :=
  { s with test := { s.test with
      running := false, fail := true, stage, unit, bootFail := if stage = 7 then unit else 0 } }.logError 3 12 stage none unit 0 0 0 0

/-- Self-test passed: Owl has restored its records, every line of HBM and DDR holds zero (R624, R629, R636). -/
def State.passTest (s : State) : State :=
  { s.drawn with
    test := { s.test with running := false, done := true, bootDone := true, repairs := s.freeVal % 2 ^ 32 }
    owl := { s.owl with
      keys := s.owl.sealed.map (·.1), zeroised := false
      aliasKey := Config.aliasKey Config.identityKey ([1, 2, 3, 4, 5, 6].map s.measurement).flatten }
    memory := [], poison := [] }

/-- SELF_TEST: the failures found, the bank each image booted from, and whether shadow Owl runs. It ends only once the clock no longer
coasts (R637) (DEDUCED, assumption 89). -/
def selfTestSt (failures : List TestFailure) (bankB : Nat) (shadow : Bool) (s : State) : State :=
  if !s.test.running || !s.mayTest || s.clock.coast then s
  else
    let hbmBad := fresh ((s.health.stack.map (·.1)).toList) (failures.filterMap TestFailure.stack?)
    let t := (s.testParts failures hbmBad).bootBanks bankB
    let t : State := { t with test := { t.test with bankB := bankB % 16, shadow } }
    let bad := match t.badImage with | some i => [TestFailure.boot i] | none => []
    match s.testFails (failures ++ bad) hbmBad with
    | some (stage, unit) => (t.failTest stage unit).reviewSvc
    | none => t.passTest.reviewSvc

def execSelfTest (failures : List TestFailure) (bankB : Nat) (shadow : Bool) (s : State) : Out :=
  .next (selfTestSt failures bankB shadow s)

/-- DEV_READY may rise (R85, R593, R636, Table 18.4). -/
def State.readyToRise (s : State) : Bool :=
  s.test.done && !s.test.fail && s.mayTest && !s.clock.coast && !s.power.fatal && !s.power.scanArmed &&
    s.badgers.all (fun e => e.2.disabled || e.2.mapReady)

/-- DEV_READY_RISE. -/
def devReadyRiseSt (s : State) : State :=
  if s.readyToRise then { s with power := { s.power with devReady := true } } else s

def execDevReadyRise (s : State) : Out := .next (devReadyRiseSt s)

/-! ### Scan (R634, R644, R645, Table 16.5) -/

/-- DBG_SCAN_STATUS. -/
def scanStatus : Nat := 0x0C00068

/-- Registers that hold keys: group keys, the domain key, and the key of the image window (R634). -/
def bearsKey (k : Nat) : Bool :=
  let off := k % 2 ^ 26
  off == 0x0402010 || off == 0x0403010 || off == 0x080C008 || decide (0x0809000 ≤ off ∧ off < 0x0809020)

/-- Steps 2–5 of Table 16.5: DEV_READY falls; key store, key slots, private and session keys and every key-bearing register are zeroised;
every on-die SRAM array holds zeros; scan is armed and measurement 7 marked (DEDUCED, assumption 88). -/
def State.armScan (s : State) : State :=
  { s with
    power := { s.power with devReady := false, scanArmed := true }
    owl := { s.owl with keys := [], aliasKey := [], scanSeen := true, zeroised := true }
    ports := s.ports.map (fun e => (e.1, { e.2 with ideSecure := false }))
    regs := s.regs.filter (fun e => !bearsKey e.1)
    ctxs := [], rings := [], works := [], runs := [], resident := [], groups := [], dir := [], leases := [], recalls := [], waiting := []
    recalled := [], fencing := [], denCache := [], hbmCache := [], atc := [], xltWaits := [], faults := [], firstTouch := [], trace := [] }

/-- DBG_SCAN_REQ: a set-up write (R140, R634). 0x5CA7 while every tenancy is FREE or SEALED arms scan; otherwise it only sets REFUSED, also
from a port without the semaphore, whose write is a semaphore error too (R146, Table 16.5). Any other value has no effect
(DEDUCED, assumption 88). -/
def dbgScanReqSt (mp : MgmtPort) (value : Reg) (s : State) : State :=
  let refuse := fun (s : State) => if value.toNat % 2 ^ 16 = 0x5CA7 ∧ s.power.perst = false then s.setFlag scanStatus 0 else s
  if s.holdsSem mp && s.tenancies.all (fun e => e.1 == 0 || decide (e.2.state ≤ 1)) && value.toNat % 2 ^ 16 == 0x5CA7 then
    s.setup mp State.armScan
  else refuse (s.setup mp id)

def execDbgScanReq (mp : MgmtPort) (value : Reg) (s : State) : Out := .next (dbgScanReqSt mp value s)

/-- TAP_INSTRUCTION (R644): scan, INTEST and memory BIST only once scan is armed; the boundary-scan instructions while DEV_READY is low;
every other one acts as BYPASS. -/
def tapInstructionSt (ins : TapIns) (s : State) : State :=
  let ok := match ins with
    | .internalScan | .intest | .memBist => s.power.scanArmed
    | .bypass | .other => false
    | _ => !s.power.devReady
  { s with power := { s.power with tap := if ok then ins else .bypass } }

def execTapInstruction (ins : TapIns) (s : State) : Out := .next (tapInstructionSt ins s)

end Sys2Proof.Machine
end

