-- ==== Sys2Proof/Machine/Windows.lean ====
section
/-!
DEFINITION. The object windows that follow a selector, and debug reads of memory (R632, R671, Tables 15.13 and 17.15).
-/

namespace Sys2Proof.Machine

/-! ### Object windows (R671) -/

/-- A tensor record (Table 9.2). -/
def tensorRecord (index : Nat) (x : Tensor) : Bytes :=
  if x.state = 0 then List.replicate 64 0
  else
    toLe 1 x.state ++ toLe 1 x.tier ++ toLe 1 x.elem ++ toLe 1 x.homeDen ++ toLe 4 (x.gen * 2 ^ 20 + index) ++ toLe 8 x.bytes ++
      toLe 8 x.name ++ toLe 8 x.stored ++ toLe 8 (if x.tier = 4 then x.loc else logical x.loc) ++ toLe 8 x.thBytes ++
      toLe 2 x.tenancy ++ toLe 2 0 ++ toLe 4 x.ownerCtx ++ toLe 4 x.lastFrame ++ toLe 4 x.pasid

/-- OBJECT_WINDOW_SELECT: BUR_SEL loads BUR_WIN with a burrow's header, SQL_SEL loads SQL_WIN with a tensor's record. -/
def objectWindowSelectSt (mp : MgmtPort) (offset : Nat) (value : Reg) (s : State) : State :=
  s.setup mp fun s =>
    if offset = 0x0400000 then
      let v := value &&& 0xFFF
      ({ s with regs := tset s.regs offset v } : State).loadImage 0x0400080 (burrowHeader (s.burrow v.toNat)) 16
    else if offset = 0x0500000 then
      let v := value &&& 0xFFFFF
      let rec' := match tget s.tensors v.toNat with | some x => tensorRecord v.toNat x | none => []
      ({ s with regs := tset s.regs offset v } : State).loadImage 0x0500040 rec' 8
    else s

def execObjectWindowSelect (mp : MgmtPort) (offset : Nat) (value : Reg) (s : State) : Out :=
  .next (objectWindowSelectSt mp offset value s)

/-! ### Debug reads (R632) -/

/-- What a debug read finds: bytes, a denial, or stored bytes that the spec does not give (ciphertext, a lost grain, an erased page). -/
inductive Seen where
  | data (b : Bytes)
  | denied
  | unknown

/-- A BOUND or TEARING_DOWN tenancy holds a granule. -/
def State.keyedAt (s : State) (a : Nat) : Bool :=
  s.tenancies.any (fun e => e.1 != 0 && (e.2.state == 2 || e.2.state == 3) && s.ownsRange e.1 a 64)

/-- The spare-area record of a programmed grain (Table 14.3). -/
def Programmed.spare (p : Programmed) : Bytes :=
  let b := toLe 6 p.logical ++ toLe 1 (wrap 8 p.temp) ++ toLe 1 (b2n p.parity + 2 * b2n p.slc + 4 * b2n p.tsLow) ++ toLe 8 p.seq ++
    toLe 8 p.writeTime ++ toLe 2 p.tenancy ++ toLe 2 0
  b ++ toLe 4 (crc32c b)

/-- The raw page DBG_RAW_SEL names, at an offset: the grain as stored, then its spare-area record; beyond, and where nothing has been
programmed, the cells hold what the spec does not give (DESIGN CHOICE, assumption 92). -/
def State.rawSeen (s : State) (sel off : Nat) : Seen :=
  let x := s.badger (bits sel 50 48)
  match x.media.find? (fun p => p.ch == bits sel 47 46 && p.target == bits sel 45 42 && p.block == bits sel 41 28 &&
      p.page == bits sel 27 16 && p.plane == bits sel 1 0) with
  | some p =>
    if off + 8 ≤ 2 ^ 14 then .data (slice p.data off 8)
    else if 2 ^ 14 ≤ off ∧ off + 8 ≤ 2 ^ 14 + 32 ∧ p.crcOk = true then .data (slice p.spare (off - 2 ^ 14) 8)
    else .unknown
  | none => .unknown

/-- A grain of logical flash, at an offset: its bytes as stored; what cannot be read is not given (DESIGN CHOICE, assumption 92). -/
def State.flashSeen (s : State) (a : Nat) : Seen :=
  match (s.badger (grainAt a).1).grainData (grainAt a).2 with
  | some d => .data (slice d (a % 2 ^ 14) 8)
  | none => .unknown

/-- The extent whose copy stands at a DDR address, with the offset in the copy. -/
def State.extentAt (s : State) (a : Nat) : Option (Nat × Extent × Nat) :=
  s.extents.findSome? (fun e =>
    if e.2.state = 0 then none
    else if e.2.ddrBase ≤ a ∧ a < e.2.ddrBase + e.2.ddrBytes then some (e.1, e.2, a - e.2.ddrBase)
    else if e.2.mirrored ∧ e.2.mirrorBase ≤ a ∧ a < e.2.mirrorBase + e.2.ddrBytes then some (e.1, e.2, a - e.2.mirrorBase)
    else none)

/-- The 64 bytes of a DDR unit before encryption: of an extent's line what DDR holds, without a dirty den-cache line (Table 15.13). Which page
stands in a page frame of a paged extent is not given (DESIGN CHOICE, assumption 92). -/
def State.ddrPlain (s : State) (u : Nat) : Option Bytes :=
  match s.extentAt u with
  | none => some (s.read u 64)
  | some (e, x, o) =>
    let line := e * 2 ^ 24 + o / 64
    if x.paged then none
    else if s.denCache.contains (line, true) then some (tgetD s.ddrUnder line []) else some (s.read (lineAddr line) 64)

/-- DDR as it is stored: the ciphertext of the 64-byte unit, under the key of the tenancy whose allotment holds it, and otherwise of
tenancy 0 (R622, R623). -/
def State.ddrSeen (s : State) (a : Nat) : Seen :=
  let u := a / 64 * 64
  let t := ((s.tenancies.find? (fun e => e.1 != 0 && s.ownsRange e.1 u 64)).map (·.1)).getD 0
  match s.ddrPlain u with
  | some b => .data (slice (s.enciphered t ddrSpace (logical u) b) (a % 64) 8)
  | none => .unknown

/-- Eight bytes of the device logical address space as Table 15.13 shows them (DESIGN CHOICE, assumption 92). -/
def State.memSeen (s : State) (a : Nat) : Seen :=
  let keyed := s.keyedAt (a / 64 * 64)
  match a / 2 ^ 48 with
  | 0 => if keyed then .denied else .data (s.read a 8)
  | 1 => s.ddrSeen a
  | 3 => s.flashSeen a
  | _ => .unknown

/-- A word of DBG_MEM_WIN, with what reading it does: what the spec does not give is a free value; a denied read returns zeros and sets
DENIED; while PERST_N is asserted the register reads as zero (R701) (DESIGN CHOICE, assumption 92). -/
def State.debugWord (s : State) (word : Nat) : State × Reg :=
  let addr := (s.stored 0x0C00020).toNat
  let raw := (s.stored 0x0C00028).toNat
  if s.power.perst then (s, 0)
  else
    let seen := if bit raw 63 then s.rawSeen raw (64 * bits addr 14 6 + 8 * (word % 8))
      else if addr / 2 ^ 62 = 3 then s.memSeen (addr % 2 ^ 62 / 64 * 64 + 8 * (word % 8)) else .unknown
    match seen with
    | .data b => (s, BitVec.ofNat 64 (leNat b))
    | .denied => (s.setFlag 0x0C00008 0, 0)
    | .unknown => (s.drawn, BitVec.ofNat 64 s.freeVal)

/-- DEBUG_MEM_READ of one word of DBG_MEM_WIN; any management port may read (R141). -/
def debugMemReadSt (mp : MgmtPort) (word : Nat) (s : State) : State :=
  (s.debugWord word).1.emit (.readData (.mgmt mp) (0x0C00040 + 8 * (word % 8)) (s.debugWord word).2)

def execDebugMemRead (mp : MgmtPort) (word : Nat) (s : State) : Out := .next (debugMemReadSt mp word s)

end Sys2Proof.Machine
end

