-- ==== Sys2Proof/Machine/Access.lean ====
section
/-!
DEFINITION. Register and doorbell-page accesses as any port makes them, and the MCTP and PLDM requests that reach registers (R10–R13,
R98–R100, R124, R125, R140, R141, R146, R632, R658–R660, R701, Tables 17.2–17.15).
-/

namespace Sys2Proof.Machine

/-! ### What a register reads as (Table 0.4) -/

/-- CAUSE and BUSY of a command block's status register. -/
def CmdState.status (c : CmdState) : Nat := 16 * (c.cause % 16) + 2 * b2n c.busy

/-- A set of numbers as a bit mask. -/
def bitMask (l : List Nat) : Nat := (l.eraseDups.map (2 ^ ·)).sum

/-- Word i of a sequence of bytes. -/
def wordOf (b : Bytes) (i : Nat) : Nat := fld b (8 * i) 8

/-- The offset of the last beacon as 32 signed bits, saturating (Table 17.3). -/
def offsetField (o : Int) : Nat := wrap 32 (max (-2147483648) (min 2147483647 o))

/-- CLK_STATUS.SOURCE. -/
def Clock.code (c : Clock) : Nat :=
  match c.active with
  | none => 0
  | some r => sourceRank r

/-- RO and RO/V fields of blocks 0–2 (Tables 17.2 and 17.3). LEASE_LEFT counts whole microseconds (DESIGN CHOICE, assumption 99). -/
def State.statusClock (s : State) (off : Nat) : Nat :=
  let t := s.time
  let c := s.clock
  match off with
  | 0x0000000 => 0x0E3D96120000 * 2 ^ 16 + Config.stepping.toNat * 2 ^ 16
  | 0x0000008 => Config.serial.toNat
  | 0x0000010 => 8 * b2n s.power.scanArmed + 4 * b2n s.power.fatal + 2 * b2n (s.svcCauses != 0) + b2n s.power.devReady
  | 0x0010000 => s.sem.lease / 1000 * 2 ^ 32 + 2 ^ 12 * s.sem.tieNext + s.sem.holder
  | 0x0010028 => 4 * b2n s.power.linkB + 2 * b2n s.power.linkA
  | 0x0020008 =>
    2 ^ 10 * b2n c.port6.eligible + 2 ^ 9 * b2n c.port0.eligible + 2 ^ 8 * b2n c.xo.eligible + 2 ^ 6 * b2n c.coast + c.code
  | 0x0020110 => t.now
  | 0x0020118 =>
    offsetField t.offset * 2 ^ 32 + t.stratum % 256 * 2 ^ 16 + 16 * b2n t.ppsValid + 8 * b2n t.holdover + 4 * b2n t.ahead +
      2 * b2n t.locked + b2n t.valid
  | _ => 0

/-- RO/V fields of block 3 (Table 17.4). -/
def State.statusTen (s : State) (off : Nat) : Nat :=
  if off = 0x0040010 then s.cmdTen.status
  else if off = slotStatus then s.slots.lastFrame % 2 ^ 32 * 2 ^ 32 + b2n s.slots.pending.isSome
  else if off = 0x0040908 then s.cmdCtx.status
  else if 0x0041000 ≤ off ∧ off < 0x0042000 then
    let x := s.ten ((off - 0x0041000) / 8)
    8 * b2n x.shared + 4 * b2n x.fatal + x.state % 4
  else if 0x0042000 ≤ off ∧ off < 0x0043000 then s.keyHandle ((off - 0x0042000) / 8)
  else 0

/-- RO/V fields of blocks 4–8 (Tables 17.6, 17.8 and 17.9). -/
def State.statusPorts (s : State) (off : Nat) : Nat :=
  if off = 0x0080048 then s.ringErr % 2 ^ 16 * 2 ^ 16 + s.cmdRing.status
  else if 0x0100000 ≤ off ∧ off < 0x0100C00 then
    let p := (off - 0x0100000) / 0x100
    let x := s.port p
    if off % 0x100 = 0x18 then bitMask (s.badLanes p)
    else if off % 0x100 = 0x20 then
      2 ^ 11 * b2n x.ideSecure + 2 ^ 8 * b2n x.spareUsed + (if x.up then 16 * x.width + 2 * x.rate + 1 else 0)
    else 0
  else if off = 0x0200000 then s.mem.spare
  else if off = 0x0200010 then s.mem.replaced.getD 15 * 2 ^ 16 + bitMask s.mem.hbmUp
  else if off = 0x0280000 then bitMask s.mem.noMargin * 2 ^ 16 + bitMask s.mem.ddrUp
  else if 0x0300000 ≤ off ∧ off < 0x0300040 then (tgetD s.owl.nfCfg ((off - 0x0300000) / 8) 0).toNat
  else if 0x0300040 ≤ off ∧ off < 0x03000C0 ∧ off % 16 = 0 then
    let x := s.badger ((off - 0x0300040) / 16)
    16 * b2n x.disabled + 8 * b2n x.shutDone + 4 * b2n x.mapReady + 2 * b2n x.readOnly + b2n x.cfgErr
  else if 0x0300100 ≤ off ∧ off < 0x0300140 then (s.badger ((off - 0x0300100) / 8)).userGrains % 2 ^ 32
  else 0

/-- A takeover log record (Table 17.12). -/
def Takeover.image (r : Takeover) : Bytes :=
  toLe 8 (r.owner * 2 ^ 32 + r.serial) ++ toLe 1 r.kind ++ toLe 1 r.phase ++ toLe 1 r.status ++ toLe 5 0 ++ toLe 4 r.count ++
    toLe 4 0 ++ toLe 8 r.time

/-- RO/V fields of blocks 9–14 (Tables 17.10–17.12). -/
def State.statusFabric (s : State) (off : Nat) : Nat :=
  if off = 0x0601088 then s.lastDrain % 2 ^ 13 * 2 ^ 16 + s.cmdExt.status
  else if off = 0x0809028 then s.cmdWl.status
  else if off = 0x080C020 then s.fabric.view
  else if off = mbrStatus then 2 * b2n s.fabric.excluded + b2n s.fabric.noQuorum
  else if off = 0x080C040 then s.fabric.takeHead
  else if 0x080D000 ≤ off ∧ off < 0x080F000 then
    match tget s.fabric.takeovers ((off - 0x080D000) / 32) with
    | some r => wordOf r.image (off % 32 / 8)
    | none => 0
  else if off = 0x0900008 then s.owl.mboxResult % 256 * 2 ^ 8
  else if 0x0901000 ≤ off ∧ off < 0x0902000 then wordOf s.owl.mboxData ((off - 0x0901000) / 8)
  else 0

/-- An error record (Table 16.7). -/
def ErrRec.image (r : ErrRec) : Bytes :=
  toLe 8 r.time ++ toLe 1 r.cls ++ toLe 1 r.source ++ toLe 2 r.code ++ toLe 2 (match r.tenancy with | some t => 2 ^ 15 + t | none => 0) ++
    toLe 2 r.unit ++ toLe 8 r.addr ++ toLe 8 (r.objKind * 2 ^ 56 + r.objId) ++ toLe 4 r.count ++ toLe 4 r.seq ++ toLe 8 r.info ++ toLe 16 0

/-- The trace records of a die, in order; the buffer holds the last 2^21 (R633). -/
def State.traceOf (s : State) (die : Nat) : List TraceRec := s.trace.filter (fun r => r.die == die)

/-- Record i of a die's circular trace buffer. -/
def State.traceAt (s : State) (die i : Nat) : Option TraceRec :=
  let l := s.traceOf die
  let past := (l.length - 1 - i) / 2 ^ 21
  if l.length ≤ i then none else l[i + past * 2 ^ 21]?

/-- The 32 bytes of a trace record (DESIGN CHOICE, assumption 99). -/
def TraceRec.image (r : TraceRec) : Bytes :=
  slice (Config.traceBytes [r.time, r.event, r.tenancy, r.ctx, r.ring, r.tag, r.opcode, r.status, r.object]) 0 32

/-- RO/V fields of blocks 15–17 (Tables 17.13 and 17.15). -/
def State.statusHealth (s : State) (off : Nat) : Nat :=
  if off = 0x0A00000 then s.test.unit % 2 ^ 16 * 2 ^ 16 + s.test.stage % 16 * 16 + 2 * b2n s.test.fail + b2n s.test.done
  else if off = 0x0A00008 then
    s.test.bankB % 16 * 2 ^ 16 + 2 ^ 8 * b2n s.test.shadow + s.test.bootFail % 16 * 16 + 2 * b2n (s.test.bootFail != 0) + b2n s.test.bootDone
  else if off = 0x0A00010 then s.svcCauses * 2 ^ 8 + b2n (s.svcCauses != 0)
  else if off = hltTherm then s.power.maxC % 256 * 2 ^ 24 + 2 ^ 8 * b2n s.power.thermWarn
  else if off = 0x0A00058 then s.lbResult.toNat
  else if off = 0x0A00060 then 2 * b2n s.loop.isSome
  else if 0x0A10000 ≤ off ∧ off < 0x0A10040 then
    let d := (off - 0x0A10000) / 8
    s.sparesLeft d * 2 ^ 56 + bitMask (s.failedIn d)
  else if off = 0x0A10040 then s.test.repairs % 2 ^ 32
  else if off = 0x0A20000 then s.errs.head
  else if off = 0x0A20008 then s.errs.nextSeq % 2 ^ 32 * 2 ^ 32 + s.errs.tail
  else if 0x0A40000 ≤ off ∧ off < 0x0A80000 then
    let i := (off - 0x0A40000) / 64
    match (s.errs.recs.filter (fun r => r.1 % 4096 == i)).map (·.2) with
    | [] => 0
    | r :: l => wordOf ((l.foldl (fun (b x : ErrRec) => if b.seq < x.seq then x else b) r).image) (off % 64 / 8)
  else if off = scanStatus then 2 * b2n s.power.scanArmed
  else if off = 0x0C00088 ∨ off = 0x0C00090 then (s.traceOf ((off - 0x0C00088) / 8)).length % 2 ^ 21
  else if 0x0C000C0 ≤ off ∧ off < 0x0C000E0 then
    let sel := (s.stored 0x0C00098).toNat
    match s.traceAt (bits sel 21 21) (bits sel 20 0) with
    | some r => wordOf r.image ((off - 0x0C000C0) / 8)
    | none => 0
  else 0

/-- The RO and RO/V fields of a register; a counter of R656 reads its count. -/
def State.status (s : State) (off : Nat) : Nat :=
  tgetD s.counters off 0 ||| s.statusClock off ||| s.statusTen off ||| s.statusPorts off ||| s.statusFabric off ||| s.statusHealth off

/-- TEN_SEL.LIVE: staged registers and maps show their live values (R668). -/
def State.showsLive (s : State) : Bool := s.flag 0x0040000 63

/-- The entries of background slots: BG (R62, R63). -/
def bgEntries : Nat := 0x4000400040004000

/-- The registers kept whole by a command of their own: MGMT_PORT_CLASS, TIME_CTL, the windows and their selectors, DIR_HOST and
XLT_FAULT_RING, NF_CTL. -/
def keptWhole (off : Nat) : Bool :=
  off == 0x0010020 || off == timeCtl || off == 0x0400000 || decide (0x0400080 ≤ off ∧ off < 0x0400100) || off == 0x0500000 ||
    decide (0x0500040 ≤ off ∧ off < 0x0500080) || decide (0x0600000 ≤ off ∧ off < 0x0600800) || decide (0x0710000 ≤ off ∧ off < 0x0730000) ||
    off == 0x03000C0

/-- The stored bits of a register that a read returns. -/
def State.storedBits (s : State) (off : Nat) : Nat :=
  let pick := fun (shadow live : Tab Reg) (k : Nat) => (tgetD (if s.showsLive then live else shadow) k 0).toNat
  match regRow off with
  | none => if keptWhole off then (s.stored off).toNat else 0
  | some r =>
    match r.kind with
    | .plain => (s.stored off).toNat &&& (r.rw ||| r.w1c)
    | .chunks => (s.stored off).toNat
    | .staged => pick s.shadow s.live (s.tenSel * 2 ^ 26 + off)
    | .owner => pick s.shadow s.live off
    | .slotMap => if (off - 0x0050000) / 8 % 16 = 15 then bgEntries else pick s.slots.shadow s.slots.live off
    | .bgMap => pick s.slots.shadow s.slots.live off
    | .burGroup => (tgetD s.regs (groupKey ((s.stored 0x0402000).toNat % 4096) off) 0).toNat
    | .embGroup => (tgetD s.regs (groupKey ((s.stored 0x0403000).toNat % 4096) off) 0).toNat

/-- What the register at an aligned offset reads as; one that names no register, and every reserved or write-only bit, reads as zero (R10,
R12, R659). While PERST_N is asserted, only the identity, GLB_STATUS and the ERR_ block are seen (R701). -/
def State.readReg (s : State) (off : Nat) : Reg :=
  if s.power.perst && !(off == 0 || off == 8 || off == 0x10 || decide (0x0A20000 ≤ off ∧ off < 0x0A80000)) then 0
  else BitVec.ofNat 64 (s.storedBits off ||| s.status off)

/-! ### Accesses -/

/-- An aligned 8-byte or 4-byte read: the aligned offset, and which half it returns (R658); none for any other size or alignment. -/
def readLanes (offset size : Nat) : Option (Nat × Nat) :=
  if size = 8 ∧ offset % 8 = 0 then some (offset, 2)
  else if size = 4 ∧ offset % 4 = 0 then some (offset / 8 * 8, offset % 8 / 4)
  else none

/-- The half of a register that a read returns. -/
def halfOf (v : Reg) : Nat → Reg
  | 0 => v &&& 0xFFFFFFFF
  | 1 => v >>> 32
  | _ => v

/-- A read through a management port succeeds at any time (R141); DBG_MEM_WIN reads as Table 15.13 gives. -/
def State.readAccess (s : State) (mp : MgmtPort) (offset size : Nat) : State :=
  match readLanes offset size with
  | none => s.emit (.undecoded (.mgmt mp))
  | some (off, half) =>
    if 0x0C00040 ≤ off ∧ off < 0x0C00080 then
      let (s, v) := s.debugWord ((off - 0x0C00040) / 8)
      s.emit (.readData (.mgmt mp) offset (halfOf v half))
    else s.emit (.readData (.mgmt mp) offset (halfOf (s.readReg off) half))

/-- A command register written with a CMD value it does not define (R709); a defined value is the command's own row
(DEDUCED, assumption 28). -/
def State.undefinedCmd (s : State) (off : Nat) (v : Nat) : State :=
  if off = 0x0040008 then
    if bits v 19 16 = 0 ∨ 4 ≤ bits v 19 16 ∨ bits v 8 0 = 0 then s.cmdFail .ten 5 else s
  else if off = 0x0080040 then if 4 ≤ bits v 19 16 then s.cmdFail .ring 5 else s
  else if off = 0x0601080 then if 5 ≤ bits v 27 24 then s.cmdFail .ext 5 else s
  else if off = 0x0809020 then if 7 ≤ bits v 19 16 then s.cmdFail .wl 5 else s
  else if off = 0x0900000 then
    if bits v 15 0 ≠ 1 ∧ bits v 15 0 ≠ 2 then
      { s with owl := { s.owl with mboxResult := 1 } } |>.setFlag 0x0900008 1
    else s
  else s

/-- What follows a register's write at once: XO_PRIMARY is obeyed (R75), and a port whose HOLD becomes 1 goes down (R673). -/
def State.afterWrite (s : State) (off : Nat) : State :=
  if off = 0x0020000 then s.obeyPrimary
  else if 0x0100000 ≤ off ∧ off < 0x0100C00 ∧ off % 0x100 = 0 then
    let p := (off - 0x0100000) / 0x100
    if s.held p then s.linkDown p else s
  else s

/-- A write through a management port: MGMT_SEM takes it from either port, its upper half holding nothing to write (R140, R141); every
other is a set-up write, also at an offset that names no register (R659). -/
def State.writeAccess (s : State) (mp : MgmtPort) (offset size : Nat) (value hwSet : Reg) : State :=
  match writeLanes offset size value with
  | none => s.setup mp (fun s => s.emit (.undecoded (.mgmt mp)))
  | some (off, m, v) =>
    if off = semOff then
      if offset % 8 = 4 then s else mgmtSemWriteSt mp v none hwSet s
    else s.setup mp (fun s => ((s.writeReg off m v hwSet).undefinedCmd off v.toNat).afterWrite off)

/-- A read of a field of a doorbell page (Table 3.4). -/
def Ring.pageField (r : Ring) : Nat → Nat
  | 0x000 => r.sqTail
  | 0x008 => r.cqHead
  | 0x010 => r.sqHead
  | 0x018 => 16 * r.cause + r.state.code
  | _ => 0

/-- An offset that lies in a field of the page. -/
def pageFieldAt (offset size : Nat) : Bool :=
  [0x000, 0x008, 0x010, 0x018].any (fun f => decide (offset < f + 4 ∧ f < offset + size))

/-- An access to a ring's doorbell page on an H-port (R98–R100): unlisted offsets read as zero and discard writes; a listed field answers
an aligned 4-byte read; SQ_TAIL and CQ_HEAD take their aligned 4-byte writes by the commands of their own rows; every other access to a
field is undecoded (DESIGN CHOICE, assumption 99). -/
def State.pageAccess (s : State) (port ring offset size : Nat) (value : Option Reg) : State :=
  s.arrive port 1 fun s =>
    let r := s.ring ring
    if s.ideBlocked port then s
    else if !r.configured || r.port != port then s.undecoded port
    else if pageFieldAt offset size then
      if size ≠ 4 ∨ offset % 8 ≠ 0 then s.undecoded port
      else match value with
        | none => s.emit (.readData (.port port) offset (BitVec.ofNat 64 (r.pageField offset)))
        | some _ => if offset ≤ 8 then s else s.undecoded port
    else match value with
      | none => s.emit (.readData (.port port) offset 0)
      | some _ => s

/-- REGISTER_WRITE: an access to a register or a doorbell page, by any port (R124, R125, R140, R141); without a value it is a read
(DESIGN CHOICE, assumption 99). A port drops an access of a kind its class does not take (DESIGN CHOICE, assumption 99)
(DEDUCED, assumption 28; DESIGN CHOICE, assumption 97). -/
def registerWriteSt (port : PortRef) (target : Target) (size : Nat) (value : Option Reg) (hwSet : Reg) (s : State) : State :=
  match port, target with
  | .mgmt mp, .register offset =>
    if !s.power.auxOk then s
    else match value with
      | none => s.readAccess mp offset size
      | some v => s.writeAccess mp offset size v hwSet
  | .mgmt mp, .page _ _ => if !s.power.auxOk then s else s.emit (.undecoded (.mgmt mp))
  | .port p, .register _ => if s.carries p then s.classDrop p else s
  | .port p, .page ring offset => s.pageAccess p ring offset size value

def execRegisterWrite (port : PortRef) (target : Target) (size : Nat) (value : Option Reg) (hwSet : Reg) (s : State) : Out :=
  .next (registerWriteSt port target size value hwSet s)

/-! ### MCTP and PLDM (R141, R146, R615) -/

/-- A request that a management port takes and no other port does (R124, R125). -/
def State.onMgmt (s : State) (port : PortRef) (f : MgmtPort → State → State) : State :=
  match port with
  | .mgmt mp => f mp s
  | .port p => if s.carries p then s.classDrop p else s

/-- MCTP_MESSAGE (R141, R146): one that changes set-up state fails from a port without the semaphore; every other is answered at any
time. -/
def mctpMessageSt (port : PortRef) (setUp : Bool) (s : State) : State :=
  s.onMgmt port fun mp s =>
    if !s.power.auxOk then s
    else if setUp && (s.power.perst || !s.holdsSem mp) then
      (if s.power.perst then s else s.semError mp).emit (.reply port 1 [])
    else s.emit (.reply port 0 (Config.standardAnswer 7))

def execMctpMessage (port : PortRef) (setUp : Bool) (s : State) : Out := .next (mctpMessageSt port setUp s)

/-- A PLDM Type 2 write: a write of MGMT_SEM takes effect from either port, any other under the semaphore (R140, R141, R146). -/
def State.pldmControl (s : State) (mp : MgmtPort) (offset : Nat) (value : Reg) : State :=
  if offset = semOff ∨ s.holdsSem mp = true then (s.writeAccess mp offset 8 value 0).emit (.reply (.mgmt mp) 0 [])
  else (s.semError mp).emit (.reply (.mgmt mp) 1 [])

/-- PLDM_REQUEST (R141, R146, R615): Type 2 reads of the sensors, whose list the spec does not give; Type 2 writes; a Type 5 update of a
signed image writes the bank not in use (DEDUCED, assumption 90). -/
def pldmRequestSt (port : PortRef) (req : PldmReq) (s : State) : State :=
  s.onMgmt port fun mp s =>
    let answer := fun (s : State) (code : Nat) (b : Bytes) => s.emit (.reply port code b)
    if !s.mgmtAnswers then s
    else match req with
      | .monitor sensor =>
        if s.bootFailed then s else answer s 0 (Config.sensor sensor s.power.maxC s.power.throttle s.svcCauses)
      | .control offset value => if s.bootFailed then s else s.pldmControl mp offset value
      | .update image svn signed =>
        if 2 ≤ image ∧ image ≤ 5 ∧ signed = true then
          answer { s with owl := { s.owl with otherBank := tset s.owl.otherBank image svn } } 0 []
        else answer s 1 []
      | .otherType => answer s 5 []

def execPldmRequest (port : PortRef) (req : PldmReq) (s : State) : Out := .next (pldmRequestSt port req s)

end Sys2Proof.Machine
end

