-- ==== Sys2Proof/Machine/Dispatch.lean ====
section
/-!
DEFINITION. One arm per command of the table: the call of its meaning.
-/

namespace Sys2Proof.Machine

/-- The effect of one command on everything but the queue. -/
def exec (i : Instr) (s : State) : Host.Outcome State Fault Refusal :=
  match i with
  | .nop w => Sys2Proof.Machine.execNop w s
  | .fence w => Sys2Proof.Machine.execFence w s
  | .snapshotPin w => Sys2Proof.Machine.execSnapshotPin w s
  | .snapshotRelease w => Sys2Proof.Machine.execSnapshotRelease w s
  | .search w query setVals => Sys2Proof.Machine.execSearch w query setVals s
  | .searchBatch w query setVals => Sys2Proof.Machine.execSearchBatch w query setVals s
  | .insert w records vectors => Sys2Proof.Machine.execInsert w records vectors s
  | .delete w ids => Sys2Proof.Machine.execDelete w ids s
  | .upsert w records vectors => Sys2Proof.Machine.execUpsert w records vectors s
  | .burrowCreate w codebook skeleton => Sys2Proof.Machine.execBurrowCreate w codebook skeleton s
  | .burrowFreeze w => Sys2Proof.Machine.execBurrowFreeze w s
  | .burrowThaw w => Sys2Proof.Machine.execBurrowThaw w s
  | .burrowDrop w => Sys2Proof.Machine.execBurrowDrop w s
  | .mergePartial w lists => Sys2Proof.Machine.execMergePartial w lists s
  | .tensorCreate w contents => Sys2Proof.Machine.execTensorCreate w contents s
  | .tensorRelease w => Sys2Proof.Machine.execTensorRelease w s
  | .tensorMove w => Sys2Proof.Machine.execTensorMove w s
  | .tensorGet w blocks => Sys2Proof.Machine.execTensorGet w blocks s
  | .tensorPut w contents blocks => Sys2Proof.Machine.execTensorPut w contents blocks s
  | .trailPost w entries => Sys2Proof.Machine.execTrailPost w entries s
  | .embGather w indices offsets => Sys2Proof.Machine.execEmbGather w indices offsets s
  | .embUpdate w records vectors => Sys2Proof.Machine.execEmbUpdate w records vectors s
  | .embStepEnd w => Sys2Proof.Machine.execEmbStepEnd w s
  | .tableLoad w image => Sys2Proof.Machine.execTableLoad w image s
  | .tableSwitch w => Sys2Proof.Machine.execTableSwitch w s
  | .kernelLoad w image => Sys2Proof.Machine.execKernelLoad w image s
  | .kernelUnload w => Sys2Proof.Machine.execKernelUnload w s
  | .kernelRun w => Sys2Proof.Machine.execKernelRun w s
  | .topk w scores indices => Sys2Proof.Machine.execTopk w scores indices s
  | .faultResumeRetry w => Sys2Proof.Machine.execFaultResumeRetry w s
  | .faultResumeAbort w => Sys2Proof.Machine.execFaultResumeAbort w s
  | .mirrorSync w records => Sys2Proof.Machine.execMirrorSync w records s
  | .sqTailWrite port ring size value fetched => Sys2Proof.Machine.execSqTailWrite port ring size value fetched s
  | .cqHeadWrite port ring size value => Sys2Proof.Machine.execCqHeadWrite port ring size value s
  | .admission ring => Sys2Proof.Machine.execAdmission ring s
  | .descriptorComplete w => Sys2Proof.Machine.execDescriptorComplete w s
  | .headShadowWrite ring => Sys2Proof.Machine.execHeadShadowWrite ring s
  | .ringError ring why => Sys2Proof.Machine.execRingError ring why s
  | .ringDrainEnd ring => Sys2Proof.Machine.execRingDrainEnd ring s
  | .contextFree ctx => Sys2Proof.Machine.execContextFree ctx s
  | .pinExpire ctx => Sys2Proof.Machine.execPinExpire ctx s
  | .ctxRead mp ctx => Sys2Proof.Machine.execCtxRead mp ctx s
  | .ctxCreate mp ctx => Sys2Proof.Machine.execCtxCreate mp ctx s
  | .ctxModify mp ctx => Sys2Proof.Machine.execCtxModify mp ctx s
  | .ctxDrain mp ctx => Sys2Proof.Machine.execCtxDrain mp ctx s
  | .ringRead mp ring => Sys2Proof.Machine.execRingRead mp ring s
  | .ringConfigure mp ring => Sys2Proof.Machine.execRingConfigure mp ring s
  | .ringEnable mp ring => Sys2Proof.Machine.execRingEnable mp ring s
  | .ringDisable mp ring => Sys2Proof.Machine.execRingDisable mp ring s
  | .mgmtSemWrite mp value race => Sys2Proof.Machine.execMgmtSemWrite mp value race s
  | .semLeaseExpire => Sys2Proof.Machine.execSemLeaseExpire s
  | .mgmtLinkDown mp => Sys2Proof.Machine.execMgmtLinkDown mp s
  | .registerWrite port target size value hwSet => Sys2Proof.Machine.execRegisterWrite port target size value hwSet s
  | .objectWindowSelect mp offset value => Sys2Proof.Machine.execObjectWindowSelect mp offset value s
  | .glbReset mp value => Sys2Proof.Machine.execGlbReset mp value s
  | .mgmtPortClassWrite mp value => Sys2Proof.Machine.execMgmtPortClassWrite mp value s
  | .timeCtlWrite mp value => Sys2Proof.Machine.execTimeCtlWrite mp value s
  | .slotCommit mp value => Sys2Proof.Machine.execSlotCommit mp value s
  | .slotMapSwitch => Sys2Proof.Machine.execSlotMapSwitch s
  | .tenBind mp tenancy => Sys2Proof.Machine.execTenBind mp tenancy s
  | .tenModify mp tenancy => Sys2Proof.Machine.execTenModify mp tenancy s
  | .tenTeardown mp tenancy => Sys2Proof.Machine.execTenTeardown mp tenancy s
  | .teardownKeyDestroy tenancy => Sys2Proof.Machine.execTeardownKeyDestroy tenancy s
  | .tenancyFreed tenancy => Sys2Proof.Machine.execTenancyFreed tenancy s
  | .zeroFill region granule block => Sys2Proof.Machine.execZeroFill region granule block s
  | .extRead mp ext => Sys2Proof.Machine.execExtRead mp ext s
  | .extMap mp ext => Sys2Proof.Machine.execExtMap mp ext s
  | .extGrant mp ext host => Sys2Proof.Machine.execExtGrant mp ext host s
  | .extRevoke mp ext host => Sys2Proof.Machine.execExtRevoke mp ext host s
  | .extUnmap mp ext => Sys2Proof.Machine.execExtUnmap mp ext s
  | .drainEnd ext => Sys2Proof.Machine.execDrainEnd ext s
  | .dirHostWrite mp host value => Sys2Proof.Machine.execDirHostWrite mp host value s
  | .xltFaultRingWrite mp tenancy port value logAddr => Sys2Proof.Machine.execXltFaultRingWrite mp tenancy port value logAddr s
  | .wlReadRegion mp id => Sys2Proof.Machine.execWlReadRegion mp id s
  | .wlExport mp id => Sys2Proof.Machine.execWlExport mp id s
  | .wlWithdraw mp id => Sys2Proof.Machine.execWlWithdraw mp id s
  | .wlRekey mp id => Sys2Proof.Machine.execWlRekey mp id s
  | .wlImport mp id => Sys2Proof.Machine.execWlImport mp id s
  | .wlUnbind mp id => Sys2Proof.Machine.execWlUnbind mp id s
  | .wlReadWindow mp id => Sys2Proof.Machine.execWlReadWindow mp id s
  | .wlMigrateCmd mp value => Sys2Proof.Machine.execWlMigrateCmd mp value s
  | .mbrJoin mp rank => Sys2Proof.Machine.execMbrJoin mp rank s
  | .mbrInit mp => Sys2Proof.Machine.execMbrInit mp s
  | .activateSvn mp image => Sys2Proof.Machine.execActivateSvn mp image s
  | .copyMeasurements mp => Sys2Proof.Machine.execCopyMeasurements mp s
  | .hltLbCmd mp value => Sys2Proof.Machine.execHltLbCmd mp value s
  | .hltRepairClr mp value => Sys2Proof.Machine.execHltRepairClr mp value s
  | .errHeadWrite mp value => Sys2Proof.Machine.execErrHeadWrite mp value s
  | .nfCfgWrite mp badger value => Sys2Proof.Machine.execNfCfgWrite mp badger value s
  | .hbmSpareWrite mp value => Sys2Proof.Machine.execHbmSpareWrite mp value s
  | .shutdown mp => Sys2Proof.Machine.execShutdown mp s
  | .dbgScanReq mp value => Sys2Proof.Machine.execDbgScanReq mp value s
  | .debugMemRead mp word => Sys2Proof.Machine.execDebugMemRead mp word s
  | .heldCommandStart block => Sys2Proof.Machine.execHeldCommandStart block s
  | .sourceStable src => Sys2Proof.Machine.execSourceStable src s
  | .sourceEligible src => Sys2Proof.Machine.execSourceEligible src s
  | .sourceFail src => Sys2Proof.Machine.execSourceFail src s
  | .sourceSwitchBack => Sys2Proof.Machine.execSourceSwitchBack s
  | .clkCoast => Sys2Proof.Machine.execClkCoast s
  | .coastRelock => Sys2Proof.Machine.execCoastRelock s
  | .beacon port m => Sys2Proof.Machine.execBeacon port m s
  | .rtPpsEdge => Sys2Proof.Machine.execRtPpsEdge s
  | .ppsMissing => Sys2Proof.Machine.execPpsMissing s
  | .holdoverEntry => Sys2Proof.Machine.execHoldoverEntry s
  | .slotBoundary => Sys2Proof.Machine.execSlotBoundary s
  | .frameBoundary => Sys2Proof.Machine.execFrameBoundary s
  | .leaseRead port rid dpa => Sys2Proof.Machine.execLeaseRead port rid dpa s
  | .leaseExpire ext host => Sys2Proof.Machine.execLeaseExpire ext host s
  | .rdS port rid dpa => Sys2Proof.Machine.execRdS port rid dpa s
  | .rdA port rid dpa => Sys2Proof.Machine.execRdA port rid dpa s
  | .rdI port rid dpa => Sys2Proof.Machine.execRdI port rid dpa s
  | .wrI port rid dpa full data => Sys2Proof.Machine.execWrI port rid dpa full data s
  | .wrS port rid dpa full data => Sys2Proof.Machine.execWrS port rid dpa full data s
  | .evict port rid dpa => Sys2Proof.Machine.execEvict port rid dpa s
  | .memSpecRd port rid dpa => Sys2Proof.Machine.execMemSpecRd port rid dpa s
  | .birspi port rid dpa => Sys2Proof.Machine.execBirspi port rid dpa s
  | .birsps port rid dpa => Sys2Proof.Machine.execBirsps port rid dpa s
  | .birspe port rid dpa => Sys2Proof.Machine.execBirspe port rid dpa s
  | .pageInDone ext read => Sys2Proof.Machine.execPageInDone ext read s
  | .pageWriteOut ext page => Sys2Proof.Machine.execPageWriteOut ext page s
  | .hbmRetire stack => Sys2Proof.Machine.execHbmRetire stack s
  | .hbmStackFail stack => Sys2Proof.Machine.execHbmStackFail stack s
  | .spareTakeover => Sys2Proof.Machine.execSpareTakeover s
  | .ddrChannelFail ch failed => Sys2Proof.Machine.execDdrChannelFail ch failed s
  | .translationCompletion port pasid addr size rd wr => Sys2Proof.Machine.execTranslationCompletion port pasid addr size rd wr s
  | .atsInvalidate port pasid addr size => Sys2Proof.Machine.execAtsInvalidate port pasid addr size s
  | .invalidationCompletion port => Sys2Proof.Machine.execInvalidationCompletion port s
  | .prgResponse port index success => Sys2Proof.Machine.execPrgResponse port index success s
  | .atsDisable port => Sys2Proof.Machine.execAtsDisable port s
  | .fault w addr wr cause level => Sys2Proof.Machine.execFault w addr wr cause level s
  | .faultRecordPost tenancy port => Sys2Proof.Machine.execFaultRecordPost tenancy port s
  | .faultTimeout tenancy port id => Sys2Proof.Machine.execFaultTimeout tenancy port id s
  | .walkStart w query => Sys2Proof.Machine.execWalkStart w query s
  | .rerankStart w query unreadable poisoned => Sys2Proof.Machine.execRerankStart w query unreadable poisoned s
  | .topkSelect w query => Sys2Proof.Machine.execTopkSelect w query s
  | .beaverMergeStart burrow leaf => Sys2Proof.Machine.execBeaverMergeStart burrow leaf s
  | .tombstoneFold burrow leaf => Sys2Proof.Machine.execTombstoneFold burrow leaf s
  | .leafSwap burrow leaf => Sys2Proof.Machine.execLeafSwap burrow leaf s
  | .leafVersionFree burrow addr => Sys2Proof.Machine.execLeafVersionFree burrow addr s
  | .appendResume w => Sys2Proof.Machine.execAppendResume w s
  | .pqEncodeRun w => Sys2Proof.Machine.execPqEncodeRun w s
  | .runComplete run data0 data1 => Sys2Proof.Machine.execRunComplete run data0 data1 s
  | .iterationEnd run => Sys2Proof.Machine.execIterationEnd run s
  | .settFail den phys => Sys2Proof.Machine.execSettFail den phys s
  | .nopOp run sett cell => Sys2Proof.Machine.execNopOp run sett cell s
  | .loop run sett cell => Sys2Proof.Machine.execLoop run sett cell s
  | .sync run sett cell => Sys2Proof.Machine.execSync run sett cell s
  | .halt run sett cell => Sys2Proof.Machine.execHalt run sett cell s
  | .ldm run sett cell hostData => Sys2Proof.Machine.execLdm run sett cell hostData s
  | .stm run sett cell => Sys2Proof.Machine.execStm run sett cell s
  | .lds run sett cell => Sys2Proof.Machine.execLds run sett cell s
  | .sts run sett cell => Sys2Proof.Machine.execSts run sett cell s
  | .mcpy run sett cell hostData => Sys2Proof.Machine.execMcpy run sett cell hostData s
  | .mput run sett cell => Sys2Proof.Machine.execMput run sett cell s
  | .amo run sett cell => Sys2Proof.Machine.execAmo run sett cell s
  | .dot run sett cell => Sys2Proof.Machine.execDot run sett cell s
  | .popc run sett cell => Sys2Proof.Machine.execPopc run sett cell s
  | .aclr run sett cell => Sys2Proof.Machine.execAclr run sett cell s
  | .amov run sett cell => Sys2Proof.Machine.execAmov run sett cell s
  | .add run sett cell => Sys2Proof.Machine.execAdd run sett cell s
  | .sub run sett cell => Sys2Proof.Machine.execSub run sett cell s
  | .mul run sett cell => Sys2Proof.Machine.execMul run sett cell s
  | .fma run sett cell => Sys2Proof.Machine.execFma run sett cell s
  | .max run sett cell => Sys2Proof.Machine.execMax run sett cell s
  | .min run sett cell => Sys2Proof.Machine.execMin run sett cell s
  | .cvt run sett cell => Sys2Proof.Machine.execCvt run sett cell s
  | .addi run sett cell => Sys2Proof.Machine.execAddi run sett cell s
  | .logic run sett cell => Sys2Proof.Machine.execLogic run sett cell s
  | .reduce run sett cell => Sys2Proof.Machine.execReduce run sett cell s
  | .send run sett cell => Sys2Proof.Machine.execSend run sett cell s
  | .recv run sett cell => Sys2Proof.Machine.execRecv run sett cell s
  | .l1WriteBack run sett line => Sys2Proof.Machine.execL1WriteBack run sett line s
  | .moveStart handle w => Sys2Proof.Machine.execMoveStart handle w s
  | .moveComplete handle w blocks => Sys2Proof.Machine.execMoveComplete handle w blocks s
  | .trailMoveStart w entry => Sys2Proof.Machine.execTrailMoveStart w entry s
  | .trailReturn handle w => Sys2Proof.Machine.execTrailReturn handle w s
  | .embPublish table => Sys2Proof.Machine.execEmbPublish table s
  | .tableSwitchApply table => Sys2Proof.Machine.execTableSwitchApply table s
  | .rowReplicate table row => Sys2Proof.Machine.execRowReplicate table row s
  | .rowPromote table row => Sys2Proof.Machine.execRowPromote table row s
  | .rowDirectorySwitch table row => Sys2Proof.Machine.execRowDirectorySwitch table row s
  | .load port m => Sys2Proof.Machine.execLoad port m s
  | .loadData port m => Sys2Proof.Machine.execLoadData port m s
  | .store port m => Sys2Proof.Machine.execStore port m s
  | .storeAck port m => Sys2Proof.Machine.execStoreAck port m s
  | .atomic port m => Sys2Proof.Machine.execAtomic port m s
  | .atomicData port m => Sys2Proof.Machine.execAtomicData port m s
  | .segment port m => Sys2Proof.Machine.execSegment port m s
  | .segmentData port m => Sys2Proof.Machine.execSegmentData port m s
  | .segmentTimeout ctx region rank => Sys2Proof.Machine.execSegmentTimeout ctx region rank s
  | .heartbeat port m => Sys2Proof.Machine.execHeartbeat port m s
  | .suspectTimeout rank => Sys2Proof.Machine.execSuspectTimeout rank s
  | .suspect port m => Sys2Proof.Machine.execSuspect port m s
  | .propose port m => Sys2Proof.Machine.execPropose port m s
  | .vote port m => Sys2Proof.Machine.execVote port m s
  | .commit port m => Sys2Proof.Machine.execCommit port m s
  | .proposeTimeout => Sys2Proof.Machine.execProposeTimeout s
  | .viewInstall => Sys2Proof.Machine.execViewInstall s
  | .noQuorumExclude => Sys2Proof.Machine.execNoQuorumExclude s
  | .stateCopy port m => Sys2Proof.Machine.execStateCopy port m s
  | .stateAck port m => Sys2Proof.Machine.execStateAck port m s
  | .own port m => Sys2Proof.Machine.execOwn port m s
  | .ownTakeover rank serial => Sys2Proof.Machine.execOwnTakeover rank serial s
  | .fwdQuery port m => Sys2Proof.Machine.execFwdQuery port m s
  | .partialList port m => Sys2Proof.Machine.execPartialList port m s
  | .cancel port m => Sys2Proof.Machine.execCancel port m s
  | .embPend port m => Sys2Proof.Machine.execEmbPend port m s
  | .embMarker port m => Sys2Proof.Machine.execEmbMarker port m s
  | .embCopy port m => Sys2Proof.Machine.execEmbCopy port m s
  | .fportLinkDown port => Sys2Proof.Machine.execFportLinkDown port s
  | .laneFail port pair => Sys2Proof.Machine.execLaneFail port pair s
  | .hportLaneFault port pair x8at128 x8at64 => Sys2Proof.Machine.execHportLaneFault port pair x8at128 x8at64 s
  | .portLinkUp port good partnerSpare at128 => Sys2Proof.Machine.execPortLinkUp port good partnerSpare at128 s
  | .bridgeCrcFail flit => Sys2Proof.Machine.execBridgeCrcFail flit s
  | .ideCheckFail port => Sys2Proof.Machine.execIdeCheckFail port s
  | .ideKeyProg port => Sys2Proof.Machine.execIdeKeyProg port s
  | .spdmRequest port req => Sys2Proof.Machine.execSpdmRequest port req s
  | .mctpMessage port setUp => Sys2Proof.Machine.execMctpMessage port setUp s
  | .pldmRequest port req => Sys2Proof.Machine.execPldmRequest port req s
  | .configAccess port offset wr => Sys2Proof.Machine.execConfigAccess port offset wr s
  | .loopbackRequestRemote port => Sys2Proof.Machine.execLoopbackRequestRemote port s
  | .tapInstruction ins => Sys2Proof.Machine.execTapInstruction ins s
  | .grainWrite badger tenancy grain offset req data => Sys2Proof.Machine.execGrainWrite badger tenancy grain offset req data s
  | .programDone badger grain pass => Sys2Proof.Machine.execProgramDone badger grain pass s
  | .stripeParityWrite badger superblock stripe => Sys2Proof.Machine.execStripeParityWrite badger superblock stripe s
  | .flashRead badger grain ecc req => Sys2Proof.Machine.execFlashRead badger grain ecc req s
  | .fold badger grain => Sys2Proof.Machine.execFold badger grain s
  | .garbageCollect badger group => Sys2Proof.Machine.execGarbageCollect badger group s
  | .scrubRead badger grain ecc correctedBits => Sys2Proof.Machine.execScrubRead badger grain ecc correctedBits s
  | .scrubRewrite badger grain => Sys2Proof.Machine.execScrubRewrite badger grain s
  | .wearLevel badger superblock => Sys2Proof.Machine.execWearLevel badger superblock s
  | .slcResize badger => Sys2Proof.Machine.execSlcResize badger s
  | .bgOpSuspend badger die => Sys2Proof.Machine.execBgOpSuspend badger die s
  | .bgOpResume badger die => Sys2Proof.Machine.execBgOpResume badger die s
  | .dieTempRead badger die temp => Sys2Proof.Machine.execDieTempRead badger die temp s
  | .blockRetire badger die block why => Sys2Proof.Machine.execBlockRetire badger die block why s
  | .dieFail badger die => Sys2Proof.Machine.execDieFail badger die s
  | .readOnlyEnter badger => Sys2Proof.Machine.execReadOnlyEnter badger s
  | .readOnlyLeave badger => Sys2Proof.Machine.execReadOnlyLeave badger s
  | .mapRebuild badger => Sys2Proof.Machine.execMapRebuild badger s
  | .checkpointLoad badger => Sys2Proof.Machine.execCheckpointLoad badger s
  | .mapReady badger => Sys2Proof.Machine.execMapReady badger s
  | .perstNAssert => Sys2Proof.Machine.execPerstNAssert s
  | .perstNDeassert straps => Sys2Proof.Machine.execPerstNDeassert straps s
  | .warmReset => Sys2Proof.Machine.execWarmReset s
  | .mainRailFault => Sys2Proof.Machine.execMainRailFault s
  | .mainRailRestore => Sys2Proof.Machine.execMainRailRestore s
  | .auxPowerLoss => Sys2Proof.Machine.execAuxPowerLoss s
  | .selfTest failures bankB shadow => Sys2Proof.Machine.execSelfTest failures bankB shadow s
  | .devReadyRise => Sys2Proof.Machine.execDevReadyRise s
  | .thermWarn maxC => Sys2Proof.Machine.execThermWarn maxC s
  | .thermEscalate maxC => Sys2Proof.Machine.execThermEscalate maxC s
  | .thermTrip maxC => Sys2Proof.Machine.execThermTrip maxC s
  | .thermClear maxC => Sys2Proof.Machine.execThermClear maxC s
  | .errorDetected cls source code tenancy unit addr objKind objId info => Sys2Proof.Machine.execErrorDetected cls source code tenancy unit addr objKind objId info s
  | .auxPowerOn => Sys2Proof.Machine.execAuxPowerOn s
  | .loopbackEnd compared errors => Sys2Proof.Machine.execLoopbackEnd compared errors s
  | .hportLinkDown port => Sys2Proof.Machine.execHportLinkDown port s

end Sys2Proof.Machine
end

