-- ==== Sys2Proof/Machine/Tick.lean ====
section
/-!
DEFINITION. What passes with time alone: one nanosecond of Rack Time and of the semaphore's lease (assumption 4).
-/

namespace Sys2Proof.Machine

/-- The correction applied to TCLK: towards what is left to slew (R46, R48), and in holdover the last one (R51)
(DESIGN CHOICE, assumption 24). -/
def Time.rate (t : Time) : Int := if t.slewLeft ≠ 0 then t.slewLeft.sign else if t.holdover then t.freq else 0

/-- One tick of TCLK (R36): the counter advances by 1 ns; once in 2,000 ticks a correction adds one nanosecond more, or one
less (R46, R48), so the counter never moves backward (R45) (DESIGN CHOICE, assumption 4; DESIGN CHOICE, assumption 24). -/
def Time.tick (t : Time) : Time :=
  if t.phase + 1 < 2000 then { t with now := t.now + 1, phase := t.phase + 1 }
  else { t with now := t.now + (1 + t.rate).toNat, phase := 0, slewLeft := t.slewLeft - t.slewLeft.sign }

/-- A tick: the counters of both dies, the lease of the semaphore (R143) and the filter of PERST_N (R700) run, and requests that waited go on (R466)
(DESIGN CHOICE, assumption 4; DEDUCED, assumption 27) (DESIGN CHOICE, assumption 5). -/
def tick (s : State) : State :=
  State.retryHeld (({ s with time := s.time.tick, sem := { s.sem with lease := s.sem.lease - 1 }, power := s.power.lowFor 1 } : State).sDie.resume)

end Sys2Proof.Machine
end

