-- ==== Sys2Proof/Safety.lean ====
section
/-!
DEFINITION. What counts as a safe run, in the terms statements use: the forms every state keeps, the parts of the state a command
may change, and what it means that a command has an effect.
-/

namespace Sys2Proof.Machine

/-- The parts of the state: one for each field, and the accesses that wait for units apart from the slot maps. -/
inductive Part where
  | pending | out | freeCount | time | clock | power | sem | regs | counters | shadow
  | live | slots | waits | tenancies | ctxs | rings | ringErr | works | nextWork | lastCredit | ports
  | cmdTen | cmdCtx | cmdRing | cmdExt | cmdWl | memory | poison | fill | firstTouch | burrows
  | rotation | groups | images | runs | tables | tensors | tensorGen | jobs | trails | holds
  | lateFree | vcache | extents | leases | dir | recalls | waiting | recalled | fencing | denCache | ddrUnder | hbmCache
  | lastDrain | atc | xltWaits | invalWait | faults | faultNext | logNext | logGain | batchWait
  | fabric | badgers | part | mem | settMap | failedSetts | settWait | resident | health | svcPrev | test | owl
  | errs | loop | lbResult | bridgeFails | trace
  deriving DecidableEq, Repr

/-- The part of a command block. -/
def blockPart : CmdBlock → Part
  | .ten => .cmdTen
  | .ctx => .cmdCtx
  | .ring => .cmdRing
  | .ext => .cmdExt
  | .wl => .cmdWl

/-- Two states hold the same in a part. -/
def State.agree (s t : State) : Part → Prop
  | .pending => s.pending = t.pending
  | .out => s.out = t.out
  | .freeCount => s.freeCount = t.freeCount
  | .time => s.time = t.time
  | .clock => s.clock = t.clock
  | .power => s.power = t.power
  | .sem => s.sem = t.sem
  | .regs => s.regs = t.regs
  | .counters => s.counters = t.counters
  | .shadow => s.shadow = t.shadow
  | .live => s.live = t.live
  | .slots => { s.slots with waits := [] } = { t.slots with waits := [] }
  | .waits => s.slots.waits = t.slots.waits
  | .tenancies => s.tenancies = t.tenancies
  | .ctxs => s.ctxs = t.ctxs
  | .rings => s.rings = t.rings
  | .ringErr => s.ringErr = t.ringErr
  | .works => s.works = t.works
  | .nextWork => s.nextWork = t.nextWork
  | .lastCredit => s.lastCredit = t.lastCredit
  | .ports => s.ports = t.ports
  | .cmdTen => s.cmdTen = t.cmdTen
  | .cmdCtx => s.cmdCtx = t.cmdCtx
  | .cmdRing => s.cmdRing = t.cmdRing
  | .cmdExt => s.cmdExt = t.cmdExt
  | .cmdWl => s.cmdWl = t.cmdWl
  | .memory => s.memory = t.memory
  | .poison => s.poison = t.poison
  | .fill => s.fill = t.fill
  | .firstTouch => s.firstTouch = t.firstTouch
  | .burrows => s.burrows = t.burrows
  | .rotation => s.rotation = t.rotation
  | .groups => s.groups = t.groups
  | .images => s.images = t.images
  | .runs => s.runs = t.runs
  | .tables => s.tables = t.tables
  | .tensors => s.tensors = t.tensors
  | .tensorGen => s.tensorGen = t.tensorGen
  | .jobs => s.jobs = t.jobs
  | .trails => s.trails = t.trails
  | .holds => s.holds = t.holds
  | .lateFree => s.lateFree = t.lateFree
  | .vcache => s.vcache = t.vcache
  | .extents => s.extents = t.extents
  | .leases => s.leases = t.leases
  | .dir => s.dir = t.dir
  | .recalls => s.recalls = t.recalls
  | .waiting => s.waiting = t.waiting
  | .recalled => s.recalled = t.recalled
  | .fencing => s.fencing = t.fencing
  | .denCache => s.denCache = t.denCache
  | .ddrUnder => s.ddrUnder = t.ddrUnder
  | .hbmCache => s.hbmCache = t.hbmCache
  | .lastDrain => s.lastDrain = t.lastDrain
  | .atc => s.atc = t.atc
  | .xltWaits => s.xltWaits = t.xltWaits
  | .invalWait => s.invalWait = t.invalWait
  | .faults => s.faults = t.faults
  | .faultNext => s.faultNext = t.faultNext
  | .logNext => s.logNext = t.logNext
  | .logGain => s.logGain = t.logGain
  | .batchWait => s.batchWait = t.batchWait
  | .fabric => s.fabric = t.fabric
  | .badgers => s.badgers = t.badgers
  | .part => s.part = t.part
  | .mem => s.mem = t.mem
  | .settMap => s.settMap = t.settMap
  | .failedSetts => s.failedSetts = t.failedSetts
  | .settWait => s.settWait = t.settWait
  | .resident => s.resident = t.resident
  | .health => s.health = t.health
  | .svcPrev => s.svcPrev = t.svcPrev
  | .test => s.test = t.test
  | .owl => s.owl = t.owl
  | .errs => s.errs = t.errs
  | .loop => s.loop = t.loop
  | .lbResult => s.lbResult = t.lbResult
  | .bridgeFails => s.bridgeFails = t.bridgeFails
  | .trace => s.trace = t.trace

/-- From `s` to `t` nothing changes but the parts named. -/
def Only (ps : List Part) (s t : State) : Prop := ∀ p, p ∉ ps → s.agree t p

/-- The command completes with a next state in which only the parts named have changed and which meets `P`. -/
def Does (c : Instr) (s : State) (ps : List Part) (P : State → Prop) : Prop :=
  ∃ t, exec c s = .next t ∧ Only ps s t ∧ P t

/-- Set-up writes of a management port take effect: PERST_N is deasserted and the port holds the semaphore (R140, R701). -/
abbrev setUp (s : State) (mp : MgmtPort) : Prop := s.power.perst = false ∧ s.holdsSem mp = true

/-- The same for a command of a command block that is not BUSY (R685). -/
abbrev ready (s : State) (mp : MgmtPort) (b : CmdBlock) : Prop := setUp s mp ∧ (s.block b).busy = false

/-- A message that R522, R524 and R525 let pass arrives on an F-port that carries traffic. -/
abbrev accepts (s : State) (port type : Nat) (m : Msg) : Prop :=
  s.carries port = true ∧ s.portClass port = 2 ∧ m.reserved = 0 ∧
    (viewFree type = true ∨ s.fabric.members.contains m.src = true) ∧
    ((0x10 ≤ type ∧ type ≤ 0x1A) → m.key = s.domainKey)

/-- Traffic of an H-port arrives on one that carries traffic. -/
abbrev hostPort (s : State) (port : Nat) : Prop := s.carries port = true ∧ s.portClass port = 1

/-- The units that serve a host's request for a line serve the tenancy of its extent now (R61, R416): the den-cache slice, and the stack
that holds the line in the HBM cache. -/
abbrev lineServed (s : State) (line : Nat) : Prop :=
  ∀ m ∈ denMap (s.extent (lineExt line)).homeDen :: (s.hbmServed line).toList.map s.stackMap, s.serves m (s.extent (lineExt line)).tenancy = true

/-- A host with a HELD lease reaches a line of a mapped extent, kept in DDR whole, in a slot of its tenancy, that no recall holds, no device
access is about to use and no request waits for; no recall of the block has already been answered by everyone, no walk of a fence goes on. -/
abbrev reaches (s : State) (port rid dpa h : Nat) : Prop :=
  hostPort s port ∧ s.ideBlocked port = false ∧ s.hostOf port rid = some h ∧ dpa < 2 ^ 43 ∧ (s.extent (dpa / 2 ^ 30)).state = 1 ∧
    (s.extent (dpa / 2 ^ 30)).paged = false ∧ (s.lease (dpa / 2 ^ 30) h).state = .held ∧
    (s.ten (s.extent (dpa / 2 ^ 30)).tenancy).fatal = false ∧ s.recallOf (dpa / 64) = none ∧
    s.waiting.any (fun q => q.line == dpa / 64) = false ∧ s.recalls.all (fun r => !r.awaiting.isEmpty) = true ∧
    s.granted (dpa / 64) = false ∧ s.fencing = [] ∧ lineServed s (dpa / 64)

/-- What a request at a home den touches besides the directory and memory: its answer, its turn, its slots, the caches. -/
def turnParts : List Part := [.out, .slots, .counters, .recalled, .denCache, .ddrUnder, .hbmCache]

/-- The step of a work of an opcode finds its work with nothing in its way: no result yet, no earlier work that holds it back, no
verdict from admission, no stalled access. -/
abbrev startable (s : State) (w : Nat) (x : Work) (op : Nat) : Prop :=
  s.work w = some x ∧ x.opcode = op ∧ x.result = none ∧ s.mayStart x = true ∧ x.verdict = none ∧ x.stalled = false

/-- The work has a result, and waits for its completion. -/
def hasResult (s : State) (w : Nat) (r : Result) : Prop := ∃ y, s.work w = some y ∧ y.result = some r

/-- The doorbell page of a ring is reached on its own port (R99, R100). -/
abbrev doorbellOpen (s : State) (port ring : Nat) : Prop :=
  hostPort s port ∧ (s.ring ring).configured = true ∧ (s.ring ring).port = port ∧ s.ideBlocked port = false

/-- A port's outputs leave the block: it is configured, up and not held (R4, R648, R673). -/
abbrev sends (s : State) (port : Nat) : Prop :=
  s.power.devReady = true ∧ s.held port = false ∧ s.portClass port ≠ 0 ∧ (s.port port).up = true

/-- A counter of R656 has gone up by one, or stands at its largest value. -/
def counted (s t : State) (off : Nat) : Prop :=
  tgetD t.counters off 0 = min (tgetD s.counters off 0 + 1) (2 ^ 64 - 1)

/-- A byte of device memory as the machine reads it. -/
def State.byteAt (s : State) (a : Nat) : Byte := (s.readDev a 1).headD 0

/-- Device memory outside ranges reads as before. -/
def memOnly (s t : State) (rs : List (Nat × Nat)) : Prop :=
  ∀ a, (∀ r ∈ rs, a < r.1 ∨ r.1 + r.2 ≤ a) → t.byteAt a = s.byteAt a

/-- A range of device memory belongs to a tenancy: in its HBM or DDR allotments, or in extent space in one of its MAPPED extents (Table 12.2). -/
def owned (s : State) (t a n : Nat) : Prop :=
  (a / 2 ^ 48 ≤ 1 ∧ s.ownsRange t a n = true) ∨
    (a / 2 ^ 48 = 2 ∧ t ≠ 0 ∧ (s.extent (a % 2 ^ 48 / 2 ^ 30)).tenancy = t ∧ (s.extent (a % 2 ^ 48 / 2 ^ 30)).state = 1)

/-- The ranges of device memory that the pieces of a store of a work reach, each translated where it is made. -/
def storeTargets (x : Work) (a : Nat) (b : Bytes) : List (Nat × Nat) → State → List (Nat × Nat)
  | [], _ => []
  | p :: t, s =>
    match (s.locate x.tenancy x.xltRoot p.1 p.2 true).1 with
    | .mem m => (m, p.2) :: storeTargets x a b t (s.put m (slice b (p.1 - a) p.2))
    | .window m => storeTargets x a b t (s.sendWindow x.id none x.ctx 3 m p.2 (slice b (p.1 - a) p.2))
    | _ => storeTargets x a b t s

/-- The ranges of device memory that a store of a work at an operand address reaches: none at an address of the host. -/
def stored (s : State) (x : Work) (a : Nat) (b : Bytes) : List (Nat × Nat) :=
  if addrClass a = 0 then [] else storeTargets x a b (pieces a b.length) s

/-- A work with nothing in its way: no result yet, no earlier work that holds it back, no verdict from admission, no stalled
access. -/
abbrev running (s : State) (w : Nat) (x : Work) : Prop :=
  s.work w = some x ∧ x.result = none ∧ s.mayStart x = true ∧ x.verdict = none ∧ x.stalled = false

/-- Parts and others with them. -/
def plus (a b : List Part) : List Part := a ++ b

/-- What requests at a home den touch: the directory, its recalls and caches, the pages of extents, the lines themselves, and the answers. -/
def homeParts : List Part := [.out, .regs, .counters, .slots, .memory, .poison, .fill, .firstTouch, .extents, .dir, .recalls, .waiting,
  .recalled, .fencing, .denCache, .ddrUnder, .hbmCache, .errs]

/-- No access of a work, let through in the state `s'`, has been granted a line of an extent: nothing of a host waits behind it. -/
abbrev clear (x : Work) (s' : State) : Prop := s'.recalled.any (fun r => r.1 == x.id) = false

/-- What accesses that are let through, in the state `s'` in which they are made, use up or touch: translations, slots and their counts,
answered loads; and where lines of extents were granted, what requests at a home den touch. -/
def accessParts (x : Work) (s' : State) : List Part :=
  [.atc, .slots, .waits, .counters, .waiting, .xltWaits, .fabric] ++ (if s'.recalled.any (fun r => r.1 == x.id) then homeParts else [])

/-- What stores of a work touch: the host's memory and other devices through outputs and requests, or device memory. -/
def storeParts (x : Work) (s' : State) : List Part :=
  [.out, .works, .memory, .poison, .fill, .firstTouch, .runs] ++ accessParts x s'

/-- What an access that must wait, or that fails, may touch as well. -/
def waitParts : List Part := [.rings, .works, .waits, .runs, .atc, .xltWaits, .faults, .faultNext, .logNext, .logGain, .fabric] ++ homeParts

/-- What a change of the reference source may touch: where it takes the port links down, also what ended with them. -/
def linkParts : List Part := [.clock, .ports, .groups] ++ waitParts

/-- Accesses that the memory and the translations let through, in the state in which the translations used are cached. -/
abbrev letThrough (s : State) (x : Work) (accs : List (Nat × Nat × Bool)) (s' : State) : Prop := s.gate x accs = .go s'

/-- The same for ranges a work reads, none of them poisoned. -/
abbrev readable (s : State) (x : Work) (reads : List (Nat × Nat)) (s' : State) : Prop :=
  letThrough s x (reads.map (fun r => (r.1, r.2, false))) s' ∧ reads.all (fun r => !s'.poisonedAt x r.1 r.2) = true

/-- Of each list of units one serves a tenancy now, and nothing of it is queued there before the work (R64, R128). -/
abbrev serving (s : State) (w t : Nat) (ms : List (List Nat)) : Prop :=
  ∀ l ∈ ms, s.queuedBefore w t l = false ∧ l.any (fun m => s.serves m t) = true

/-- The NAND dies and slot-granular units of an access of a work have served it: `s'` is the state in which it is made (R61, R64, R66). -/
abbrev servedBy (s : State) (w cell t : Nat) (dies : List (Nat × Bool)) (ms : List (List Nat)) (s' : State) : Prop :=
  ∃ s1, s.passDies w cell t dies = .go s1 ∧ s1.passAll w cell t ms = .go s'

/-- A resident function of a work has a sett of a den: `s'` is the state in which it acts there (R224, R329). -/
abbrev hasSett (s : State) (w den t : Nat) (s' : State) : Prop :=
  ∃ k s1, s.rerankSett den t = some k ∧ s.takeResident den t k = .go s1 ∧ s' = s1.leaveUnits w settCell

/-- What the taking of a sett touches: the runs whose state is saved from it. -/
def settParts : List Part := [.fabric, .resident, .runs, .works, .waits] ++ homeParts

/-- A cell of a run issues its next word: the run executes, is not stalled and has not ended, and the cell has not halted and stands at a
word with the operation code `op`. -/
abbrev issues (s : State) (run sett cell op : Nat) (x : Work) (r : Run) : Prop :=
  s.run run = some r ∧ s.work run = some x ∧ r.resident = none ∧ r.setts ≠ [] ∧ r.stalled = false ∧ r.ended = none ∧
    x.result = none ∧ x.stalled = false ∧ sett < r.image.setts ∧ cell < 8 ∧ 8 * sett + cell < r.cells.length ∧
    (r.cell sett cell).halted = false ∧ wOp (r.image.word sett cell (r.cell sett cell).pc) = op

/-- The run is replaced by another, and no other run changes. -/
def runBecomes (s t : State) (run : Nat) (r : Run) : Prop := t.run run = some r ∧ ∀ v, v ≠ run → t.run v = s.run v

/-- A run with one of its cells replaced. -/
def withCell (r : Run) (sett cell : Nat) (c : Cell) : Run := { r with cells := lset r.cells (8 * sett + cell) c }

/-- What a reset of the blocks outside the always-on domain may change: all but the queue, what has been sent, the free values drawn, and
memory until self-test fills it. -/
def resetParts : List Part :=
  [.time, .clock, .power, .sem, .regs, .counters, .shadow, .live, .slots, .waits, .tenancies, .ctxs, .rings, .ringErr, .works,
   .nextWork, .lastCredit, .ports, .cmdTen, .cmdCtx, .cmdRing, .cmdExt, .cmdWl, .fill, .firstTouch, .burrows, .rotation, .groups, .images,
   .runs, .tables, .tensors, .tensorGen, .jobs, .trails, .holds, .lateFree, .vcache, .extents, .leases, .dir, .recalls, .waiting,
   .recalled, .fencing, .denCache, .ddrUnder, .hbmCache, .lastDrain, .atc, .xltWaits, .invalWait, .faults, .faultNext, .logNext,
   .logGain, .batchWait, .fabric, .badgers, .mem, .settMap, .failedSetts, .settWait, .resident, .health, .svcPrev, .test, .owl, .errs, .loop, .lbResult,
   .bridgeFails, .trace]

/-- Every block outside the always-on domain has been reset from `s` (R595, R660, R675, R702): registers and counters hold their reset
values but for ERR_STATUS, no object is left, tenancies are SEALED or FREE with their GEN, the media, the sealed store, the log and the
health record stand. -/
def blocksReset (s t : State) : Prop :=
  (∀ k, k ≠ 0x0A20010 → t.stored k = regDefault k) ∧ t.counters = [] ∧ t.shadow = [] ∧ t.live = [] ∧ t.slots = .reset ∧ t.time = .reset ∧
    t.sem = .reset ∧ t.ctxs = [] ∧ t.rings = [] ∧ t.works = [] ∧ t.ports = [] ∧ t.burrows = [] ∧ t.tables = [] ∧ t.images = [] ∧ t.runs = [] ∧
    t.tensors = [] ∧ t.extents = [] ∧ t.leases = [] ∧ t.dir = [] ∧ t.faults = [] ∧ t.atc = [] ∧ t.fabric = .reset ∧ t.trace = [] ∧
    t.power.devReady = false ∧ t.power.fatal = false ∧ t.owl.keys = [] ∧ t.owl.sealed = s.owl.sealed.filter (fun e => !e.2.2) ∧
    (∀ n, 0 < n → (t.ten n).state = (if (s.ten n).state = 1 ∨ (s.ten n).state = 2 then 1 else 0) ∧ (t.ten n).gen = (s.ten n).gen) ∧
    t.failedSetts = s.health.setts ∧ t.health.ddrOut = s.health.ddrOut.filter (fun c => !s.health.clearDdr.contains c) ∧
    (∀ b, b < 8 → (t.badger b).cfg = (tgetD s.owl.nfCfg b 0).toNat ∧ (t.badger b).media = (s.badger b).media ∧
      (t.badger b).journal = (s.badger b).journal ∧ (t.badger b).clean = (s.badger b).clean ∧ (t.badger b).mapReady = false)

/-- The error log and ERR_STATUS are kept (R650). -/
def logKept (s t : State) : Prop :=
  t.stored 0x0A20010 = s.stored 0x0A20010 ∧ t.errs.recs = s.errs.recs ∧ t.errs.head = s.errs.head ∧ t.errs.tail = s.errs.tail ∧
    t.errs.nextSeq = s.errs.nextSeq

/-- Forms the block keeps: device memory is canonical, no counter passes 64 bits (R656), the semaphore is free or held by one of the two
management ports (R142), and the error log's indices stay within it (R682). -/
structure State.inv (s : State) : Prop where
  memory   : Memory.wf s.memory = true
  counters : ∀ e ∈ s.counters, e.2 < 2 ^ 64
  holder   : s.sem.holder ≤ 2
  log      : s.errs.head < 8192 ∧ s.errs.tail < 8192

/-- A step that neither faults nor refuses. -/
def safeStep (s : State) : Prop := ∃ t, step s = .next t

end Sys2Proof.Machine
end

