-- ==== Sys2Proof/Certificates/Slice0/Obligations.lean ====
section
/-!
DEFINITION. The statements about the block, for the provers: what each command does and what it leaves alone, family by family, and the
forms that every step keeps.
-/

open Sys2Proof Sys2Proof.Machine

/-- A step with a command at the front of the queue is that command's meaning on the state with the queue's rest; with an empty queue the step is one tick (the model's choice, assumption 4). -/
def Obligations.StepRunsTheFrontCommand : Prop :=
  (∀ (c : Instr) (rest : List Instr) (s : State), s.pending = c :: rest → step s = exec c { s with pending := rest }) ∧
  (∀ s : State, s.pending = [] → step s = .next (tick s))

/-- Right after reset device memory is canonical, no counter passes 64 bits, the semaphore's holder is legal and the error log's indices lie within the log (the forms of State.inv). -/
def Obligations.ResetMeetsTheInvariant : Prop := State.reset.inv

/-- From every state, also one that no run reaches, in which device memory is canonical, every counter fits 64 bits, the semaphore is free or held by one of the two management ports, and the error log's indices lie within the log, every step gives a state that meets the same. -/
def Obligations.EveryStepKeepsTheInvariant : Prop :=
  ∀ s t : State, s.inv → step s = .next t → t.inv

/-- Whatever command stands at the front, and whatever the state, the step completes and leaves exactly the queue's rest waiting: no command is dropped, repeated, reordered or added. -/
def Obligations.EveryStepTakesOneCommandFromTheQueue : Prop :=
  ∀ (s : State) (c : Instr) (rest : List Instr), s.pending = c :: rest → ∃ t, step s = .next t ∧ t.pending = rest

/-- From every state with TIME_VALID 1, a step of any command, or a tick, leaves the counter of Rack Time at or above its value, unless the step is one that clears TIME_VALID. -/
def Obligations.RackTimeNeverMovesBackward : Prop :=
  ∀ s t : State, s.time.valid = true → step s = .next t → t.time.valid = true → s.time.now ≤ t.time.now

/-- SOURCE_STABLE marks its source stable; with no source chosen and no coasting, a stable XO makes the most preferred usable source active. SOURCE_ELIGIBLE, of a stable source (a recovered one once its port has trained) before service and without coasting, makes it eligible and the most preferred usable source active. Nothing else changes, but that on the watch oscillator, and while coasting, every port's link goes down. When the active source fails in service the device switches to the most preferred source that remains usable, and when a more preferred one is usable it switches back (SOURCE_SWITCH_BACK): a switch to PORT6 sets CLK_ON_STANDBY, one to the XO or the watch oscillator sets CLK_SRC_FAIL and the cause bit of the non-maskable event. CLK_COAST: with the active source failed and the device not in service, CLK_COAST and COAST_SEEN are set and no source is active; the cause bits of the non-maskable event do not change. COAST_RELOCK: while coasting, with a usable source, that source becomes active and CLK_COAST clears. -/
def Obligations.ClockSources : Prop :=
  (∀ (src : RefSource) (s : State),
    Does (.sourceStable src) s [.clock] (fun t => (t.clock.src src).stable = true ∧ (t.clock.src src).failed = false) ∧
    (s.clock.active = none → s.clock.coast = false →
      Does (.sourceStable .xo) s [.clock] (fun t => (t.clock.src .xo).eligible = true ∧ t.clock.active = t.bestSource)) ∧
    ((s.clock.src src).stable = true → (src = .port0 → (s.port 0).up = true) → (src = .port6 → (s.port 6).up = true) →
      s.inService = false → s.clock.coast = false →
      Does (.sourceEligible src) s linkParts (fun t => (t.clock.src src).eligible = true ∧ t.clock.active = t.bestSource ∧
        (t.clock.active ≠ some .watch → Only [.clock] s t) ∧
        (t.clock.active = some .watch → ∀ p, p < 12 → (t.port p).up = false)))) ∧
  (∀ (src b : RefSource) (s : State), s.clock.active = some src → s.inService = true →
    (({ s with clock := s.clock.setSrc src { stable := false, eligible := false, failed := true } } : State).bestSource = some b →
      Does (.sourceFail src) s linkParts (fun t => t.clock.active = some b ∧
        (b ≠ .watch → Only [.out, .clock, .regs, .counters, .errs] s t) ∧ (b = .watch → ∀ p, p < 12 → (t.port p).up = false) ∧
        (t.clock.src src).failed = true ∧ (b = .port6 → t.flag clkStatus 5 = true) ∧
        (b = .xo ∨ b = .watch → t.flag clkStatus 4 = true ∧ t.flag nmiOff 0 = true))) ∧
    (s.bestSource = some b → sourceRank b < sourceRank src →
      Does .sourceSwitchBack s linkParts (fun t => t.clock.active = some b ∧
        (b ≠ .watch → Only [.out, .clock, .regs, .counters, .errs] s t) ∧
        (b = .port6 → t.flag clkStatus 5 = true) ∧
        (b = .xo ∨ b = .watch → t.flag clkStatus 4 = true ∧ t.flag nmiOff 0 = true)))) ∧
  ((∀ (src : RefSource) (s : State), s.clock.active = some src → (s.clock.src src).failed = true → s.inService = false →
    Does .clkCoast s linkParts (fun t => t.clock.coast = true ∧ t.clock.active = none ∧
      t.flag clkStatus 7 = true ∧ t.stored nmiOff = s.stored nmiOff ∧ (∀ p, p < 12 → (t.port p).up = false) ∧
      ((∀ p, p < 12 → (s.port p).up = false) → Only [.out, .clock, .regs, .counters, .errs] s t))) ∧
  (∀ (b : RefSource) (s : State), s.clock.coast = true → s.bestSource = some b →
    Does .coastRelock s [.clock] (fun t => t.clock.coast = false ∧ t.clock.active = some b)))

/-- With the semaphore, a write that raises MASTER while TIME_VALID is 0 loads TIME_SET and sets TIME_VALID; while TIME_VALID is 1 and TIME_SET lies below the counter, the counter keeps its value; a write that leaves MASTER as it is changes the register alone. A BEACON that R522 and R525 let pass, that meets R538 and that names no newer view, arriving on SRC_PORT in link-up while MASTER and TIME_VALID are 0, sets the counter to the corrected value (its offset even in half nanoseconds) and sets TIME_VALID. -/
def Obligations.RackTimeIsSet : Prop :=
  (∀ (mp : MgmtPort) (value : Reg) (s : State), setUp s mp →
    (s.timeMaster = false → value.getLsbD 0 = true → s.time.valid = false →
      Does (.timeCtlWrite mp value) s [.freeCount, .time, .regs] (fun t => t.timeMaster = true ∧ t.time.valid = true ∧
        t.time.now = (s.stored 0x0020108).toNat)) ∧
    (s.timeMaster = false → value.getLsbD 0 = true → s.time.valid = true → (s.stored 0x0020108).toNat < s.time.now →
      Does (.timeCtlWrite mp value) s [.time, .regs] (fun t => t.timeMaster = true ∧ t.time.now = s.time.now)) ∧
    (value.getLsbD 0 = s.timeMaster →
      Does (.timeCtlWrite mp value) s [.regs] (fun t => t.stored timeCtl = value &&& 0xF03))) ∧
  (∀ (port : Nat) (m : Msg) (s : State), accepts s port 0x10 m → s.timeMaster = false → s.time.valid = false →
    bits (s.stored timeCtl).toNat 11 8 = port → (s.port port).up = true → s.meetsR538 m.payload = true →
    fld m.payload 0x20 4 ≤ s.fabric.view → offset2 m.payload s.time.now % 2 = 0 →
    Does (.beacon port m) s [.freeCount, .time] (fun t => t.time.valid = true ∧
      t.time.now = ((s.time.now : Int) + offset2 m.payload s.time.now / 2).toNat))

/-- With PPS_EN, an RT_PPS edge more than 1,000 ns from every whole second is ignored and counted in TIME_PPS_ERR; the first edge in the window of a second extends the run of valid edges and, once RT_PPS is valid, is what remains to slew; the window of a second without an edge (PPS_MISSING) ends that run, and after three in a row RT_PPS is invalid. HOLDOVER_ENTRY, on a device that is not the timing master (the model's choice, assumption 21) and not yet in holdover, once 1,000,000,000 ns have passed since the last beacon it disciplined to: RT_HOLDOVER is set, the correction then applied stays in force, the event's flag is set, and the event is raised where its enable bit is 1 and the flag was 0; with room in the error log and no record to coalesce with, a record with code 3 of source 11 is written. -/
def Obligations.PhaseAndHoldover : Prop :=
  (∀ s : State, s.flag timeCtl 1 = true →
    (secondOff s.time.now < -1000 ∨ 1000 < secondOff s.time.now →
      Does .rtPpsEdge s [.time, .counters] (fun t => counted s t timePpsErr ∧ t.time = { s.time with ppsGoodRun := 0 })) ∧
    (-1000 ≤ secondOff s.time.now → secondOff s.time.now ≤ 1000 → s.time.ppsSecond ≠ some (nearSecond s.time.now) →
      s.time.valid = true → s.timeMaster = false → 2 ≤ s.time.ppsGoodRun →
      Does .rtPpsEdge s [.time] (fun t => t.time.ppsValid = true ∧ t.time.slewLeft = -secondOff s.time.now ∧
        t.time.now = s.time.now ∧ t.time.ppsGoodRun = s.time.ppsGoodRun + 1)) ∧
    (s.time.ppsSecond = none → lastSecond s.time.now ≠ 0 → s.time.ppsBadRun = 2 →
      Does .ppsMissing s [.time] (fun t => t.time.ppsValid = false ∧ t.time.ppsGoodRun = 0 ∧ t.time.now = s.time.now))) ∧
  (∀ s : State, s.time.holdover = false → s.timeMaster = false →
    s.time.lastBeacon + 1000000000 ≤ s.time.now →
    Does .holdoverEntry s [.out, .time, .regs, .counters, .errs] (fun t =>
      t.time = { s.time with holdover := true, freq := s.time.slewLeft.sign, slewLeft := 0 } ∧
      t.flag timeStatus 8 = true ∧
      (s.flag timeStatus 8 = false → s.enabled timeStatus 8 = true → Output.event timeStatus 8 ∈ t.out) ∧
      (s.errs.recs = [] → s.errs.head = s.errs.tail →
        ∃ r, tget t.errs.recs s.errs.tail = some r ∧ r.cls = 0 ∧ r.source = 11 ∧ r.code = 3 ∧ r.time = s.time.now)))

/-- SLOT_BOUNDARY and FRAME_BOUNDARY bring the counter to the start of the next slot or frame, unless ticks have already passed it, and record the period they have begun; a slot boundary changes nothing but time, the lease of the semaphore, the filter of PERST_N, slot lending and the counters of borrowed slots, and lets the requests that wait at home dens and in Wilfer regions go on. -/
def Obligations.BoundariesAdvanceRackTime : Prop :=
  ∀ s : State,
    Does .slotBoundary s (plus [.freeCount, .time, .sem, .power, .fabric] homeParts) (fun t =>
      (s.waiting = [] → s.recalls = [] → s.fencing = [] → s.fabric.held = [] → Only [.freeCount, .time, .sem, .power, .counters, .slots, .fabric] s t) ∧
      t.time.now = (if s.time.lastSlot < s.time.now / 256 then s.time.now else (s.time.now / 256 + 1) * 256) ∧
      t.time.lastSlot = t.time.now / 256 ∧ t.sem.holder = s.sem.holder) ∧
    Does .frameBoundary s (plus [.freeCount, .time, .sem, .power, .tenancies, .ctxs, .nextWork, .lastCredit, .burrows, .rotation, .groups,
      .tables, .jobs, .vcache, .leases, .lastDrain, .batchWait, .badgers, .settMap, .settWait, .resident, .trace] waitParts) (fun t =>
      t.time.now = (if s.time.lastFrame < s.frame then s.time.now else (s.frame + 1) * 2 ^ 14) ∧
      t.time.lastFrame = t.frame)

/-- SLOT_COMMIT with every named tenancy bound or tearing down copies the shadow maps with the extended target, a passed target counting as the next frame with LATE set; with a named tenancy that is neither, only BAD_TENANCY is set. The commit carries every mode set since the last one, and those that waited for the commit it replaces. SLOT_MAP_SWITCH at a frame at or after the target makes the slot-granular maps live and gives every BOUND tenancy the mode the commit carries for it, and at a superframe boundary the frame-granular ones too, which ends the commit; before the target it changes nothing. -/
def Obligations.SlotMapsCommitAndSwitch : Prop :=
  (∀ (mp : MgmtPort) (value : Reg) (s : State), setUp s mp →
    ((namedTenancies s.slots.shadow).all (fun t => t == 0 || (s.ten t).state == 2 || (s.ten t).state == 3) = true →
      ((s.frame : Int) < extendFrame s.frame (value.toNat % 2 ^ 32) →
        Does (.slotCommit mp value) s [.slots, .tenancies] (fun t => t.slots.live = s.slots.live ∧ t.slots.pending = some
          { maps := s.slots.shadow, target := (extendFrame s.frame (value.toNat % 2 ^ 32)).toNat, modes := s.modesOf
            slotDone := false, frameDone := false })) ∧
      (extendFrame s.frame (value.toNat % 2 ^ 32) ≤ (s.frame : Int) →
        Does (.slotCommit mp value) s [.out, .regs, .slots, .tenancies] (fun t => t.slots.live = s.slots.live ∧ t.flag slotStatus 1 = true ∧
          t.slots.pending = some
            { maps := s.slots.shadow, target := s.frame + 1, modes := s.modesOf, slotDone := false, frameDone := false }))) ∧
    (∀ n ∈ namedTenancies s.slots.shadow, n ≠ 0 → (s.ten n).state ≠ 2 → (s.ten n).state ≠ 3 →
      Does (.slotCommit mp value) s [.out, .regs] (fun t => t.flag slotStatus 2 = true))) ∧
  (∀ (c : Commit) (s : State), s.slots.pending = some c → c.slotDone = false → c.frameDone = false →
    (s.frame < c.target → Does .slotMapSwitch s [.slots] (fun t => t.slots = s.slots)) ∧
    (c.target ≤ s.frame → s.frame % 64 ≠ 0 →
      Does .slotMapSwitch s [.slots, .tenancies] (fun t => t.slots.live = takeMaps s.slots.live c.maps false ∧
        (∀ n m, 0 < n → (s.ten n).state = 2 → tget c.modes n = some m → t.isShared n = m ∧ (t.ten n).unmoded = false) ∧
        t.slots.pending = some { c with slotDone := true })) ∧
    (c.target ≤ s.frame → s.frame % 64 = 0 →
      Does .slotMapSwitch s [.slots, .tenancies] (fun t =>
        t.slots.live = takeMaps (takeMaps s.slots.live c.maps false) c.maps true ∧ t.slots.pending = none ∧
        t.slots.lastFrame = s.frame % 2 ^ 32)))

/-- In a period that a STRICT tenancy owns and no tenancy has taken, a unit serves no other tenancy and the start of the period lends it to none, whatever work is queued; and a STRICT tenancy is served only in periods it owns. -/
def Obligations.StrictPeriodsAreNeverLent : Prop :=
  ∀ (s : State) (m o t : Nat) (queued : List Nat), s.lentTo m = none →
    (s.mapOwner m (s.mapIndex m) = some o → s.isShared o = false → t ≠ o →
      s.serves m t = false ∧ s.startPeriod m queued = s) ∧
    (s.mapOwner m (s.mapIndex m) ≠ some t → s.isShared t = false →
      s.serves m t = false ∧ ((s.startPeriod m queued).lentTo m ≠ some t))

/-- A NOP that nothing holds back has the result DONE with count 0 and changes nothing else. A FENCE that nothing holds back has the same result; with a result address in host memory whose page is translated it first writes FENCE_VALUE there. While an earlier admitted work in its scope has not completed, a FENCE changes nothing. SNAPSHOT_PIN of a context that holds a pin, and SNAPSHOT_RELEASE of one that holds none, end with STATE_ERROR, detail 4; SNAPSHOT_PIN of a burrow that is neither ACTIVE nor FROZEN with STATE_ERROR, detail 32. SNAPSHOT_RELEASE of a pin clears it. PIN_EXPIRE clears a pin whose frame and life have been reached, and before that changes nothing. What is said of bytes and outputs is for accesses granted no line of an extent, behind which a waiting host request would go on. -/
def Obligations.NopFenceAndPins : Prop :=
  (∀ (w : Nat) (x : Work) (s : State),
    (startable s w x 0x01 → Does (.nop w) s [.works, .waits] (fun t => hasResult t w (Result.done 0))) ∧
    (startable s w x 0x02 → descRes x.desc = 0 → Does (.fence w) s [.works, .waits] (fun t => hasResult t w (Result.done 0))) ∧
    (startable s w x 0x02 → descRes x.desc ≠ 0 → addrClass (descRes x.desc) = 0 →
      (∀ p ∈ pagesOf (descRes x.desc) 8, s.pageGranted x p true = true) → sends s x.port →
      Does (.fence w) s (plus [.out, .works] (accessParts x s)) (fun t => hasResult t w (Result.done 0) ∧
        (clear x s → t.out = s.out ++ [Output.dma x.port x.pasid (descRes x.desc) (slice x.desc 40 8)]))) ∧
    (s.work w = some x → x.opcode = 0x02 → s.mayStart x = false → Does (.fence w) s [] (fun _ => True))) ∧
  (∀ (w c : Nat) (x : Work) (s : State),
    (startable s w x 0x03 → (s.ctx x.ctx).pinned = true →
      Does (.snapshotPin w) s [.works, .waits] (fun t => hasResult t w (Result.err 0x10 4))) ∧
    (startable s w x 0x03 → (s.ctx x.ctx).pinned = false → (s.burrow x.burrow).state ≠ 1 → (s.burrow x.burrow).state ≠ 2 →
      Does (.snapshotPin w) s [.works, .waits] (fun t => hasResult t w (Result.err 0x10 32))) ∧
    (startable s w x 0x04 → (s.ctx x.ctx).pinned = false →
      Does (.snapshotRelease w) s [.works, .waits] (fun t => hasResult t w (Result.err 0x10 4))) ∧
    (startable s w x 0x04 → (s.ctx x.ctx).pinned = true →
      Does (.snapshotRelease w) s [.ctxs, .works, .waits] (fun t => (t.ctx x.ctx).pinned = false ∧ (t.ctx x.ctx).state = (s.ctx x.ctx).state ∧
        (∀ d, d ≠ x.ctx → t.ctx d = s.ctx d) ∧ hasResult t w (Result.done 0))) ∧
    ((s.ctx c).pinned = true → (s.ctx c).pinFrame + (s.ctx c).pinLife ≤ s.frame →
      Does (.pinExpire c) s [.ctxs] (fun t => (t.ctx c).pinned = false ∧ (t.ctx c).state = (s.ctx c).state ∧
        (∀ d, d ≠ c → t.ctx d = s.ctx d))) ∧
    (s.frame < (s.ctx c).pinFrame + (s.ctx c).pinLife → Does (.pinExpire c) s [] (fun _ => True)))

/-- SNAPSHOT_PIN, of a context without a pin and a burrow that is ACTIVE or FROZEN, sets PIN_SEQ, PIN_BURROW, PIN_FRAME and PINNED, keeps the life of the pin, and has a result with the sequence and the snapshot epoch; nothing but the context and the work changes. -/
def Obligations.SnapshotPinTakesThePin : Prop :=
  ∀ (w : Nat) (x : Work) (s : State), startable s w x 0x03 → (s.ctx x.ctx).pinned = false →
    ((s.burrow x.burrow).state = 1 ∨ (s.burrow x.burrow).state = 2) →
    Does (.snapshotPin w) s [.ctxs, .works, .waits] (fun t =>
      t.ctx x.ctx = { s.ctx x.ctx with
        pinned := true, pinSeq := (s.burrow x.burrow).snapSeq, pinBurrow := x.burrow, pinFrame := s.frame
        pinLife := (s.ctx x.ctx).pinFramesMax } ∧
      (∀ c, c ≠ x.ctx → t.ctx c = s.ctx c) ∧
      hasResult t w { status := 0, flags := 0, count := 0, snap := (s.burrow x.burrow).snapSeq, detail := 0, b24 := s.frame })

/-- On the ring's own port: a 4-byte write of SQ_TAIL below the queue's size on an ENABLED ring records the tail and the entries newly covered; one of CQ_HEAD records the head; a value not below the size puts an ENABLED or DRAINING ring in ERROR with cause 1, names it in ERR_RING and sets the event's flag; on a DISABLED ring nothing changes; a write of another size is answered as an undecoded address. RING_ERROR puts an ENABLED or DRAINING ring in ERROR with cause 2 for a translation failure and 3 for any other, while a ring already in ERROR keeps state and cause; either way the event's flag is set. RING_DRAIN_END makes a DRAINING ring without admitted work DISABLED. HEAD_SHADOW_WRITE writes SQ_HEAD to the head-shadow address when a change is due and none was written in the slot. -/
def Obligations.DoorbellsErrorsAndShadows : Prop :=
  (∀ (port ring v size : Nat) (entries : List Bytes) (s : State), doorbellOpen s port ring → v < 2 ^ 32 →
    ((s.ring ring).state = .enabled → v < 2 ^ (s.ring ring).sqLog2 → v ≠ (s.ring ring).sqTail →
      Does (.sqTailWrite port ring 4 v entries) s [.out, .rings] (fun t => (t.ring ring).sqTail = v ∧
        (t.ring ring).state = .enabled ∧ (t.ring ring).sqHead = (s.ring ring).sqHead ∧
        (t.ring ring).fetched.length = (s.ring ring).fetched.length +
          (v + 2 ^ (s.ring ring).sqLog2 - (s.ring ring).sqTail) % 2 ^ (s.ring ring).sqLog2 ∧
        (∀ r, r ≠ ring → t.ring r = s.ring r))) ∧
    ((s.ring ring).state = .enabled → v < 2 ^ (s.ring ring).cqLog2 →
      Does (.cqHeadWrite port ring 4 v) s [.rings] (fun t => (t.ring ring) = { s.ring ring with cqHead := v } ∧
        (∀ r, r ≠ ring → t.ring r = s.ring r))) ∧
    ((s.ring ring).state = .enabled ∨ (s.ring ring).state = .draining →
      (2 ^ (s.ring ring).sqLog2 ≤ v → v ≠ (s.ring ring).sqTail →
        Does (.sqTailWrite port ring 4 v entries) s [.out, .regs, .rings, .ringErr] (fun t => (t.ring ring).state = .error ∧
          (t.ring ring).cause = 1 ∧ t.ringErr = ring ∧ t.flag 0x0080048 8 = true)) ∧
      (2 ^ (s.ring ring).cqLog2 ≤ v → v ≠ (s.ring ring).cqHead →
        Does (.cqHeadWrite port ring 4 v) s [.out, .regs, .rings, .ringErr] (fun t => (t.ring ring).state = .error ∧
          (t.ring ring).cause = 1 ∧ t.ringErr = ring ∧ t.flag 0x0080048 8 = true))) ∧
    ((s.ring ring).state = .disabled →
      Does (.sqTailWrite port ring 4 v entries) s [] (fun _ => True) ∧ Does (.cqHeadWrite port ring 4 v) s [] (fun _ => True)) ∧
    (size ≠ 4 → s.power.devReady = true →
      Does (.sqTailWrite port ring size v entries) s [.out] (fun t => t.out = s.out ++ [Output.undecoded (.port port)]) ∧
      Does (.cqHeadWrite port ring size v) s [.out] (fun t => t.out = s.out ++ [Output.undecoded (.port port)]))) ∧
  (∀ (ring : Nat) (why : RingFault) (s : State),
    ((s.ring ring).state = .enabled ∨ (s.ring ring).state = .draining →
      Does (.ringError ring why) s [.out, .regs, .rings, .ringErr] (fun t => (t.ring ring).state = .error ∧
        (t.ring ring).cause = (if why = .translation then 2 else 3) ∧ t.ringErr = ring ∧ t.flag 0x0080048 8 = true)) ∧
    ((s.ring ring).state = .error →
      Does (.ringError ring why) s [.out, .regs] (fun t => t.flag 0x0080048 8 = true)) ∧
    ((s.ring ring).state = .draining → s.ringBusy ring = false →
      Does (.ringDrainEnd ring) s [.rings] (fun t => t.ring ring = { s.ring ring with state := .disabled })) ∧
    (s.ringBusy ring = true → Does (.ringDrainEnd ring) s [] (fun _ => True)) ∧
    ((s.ring ring).shadowDue = true → (s.ring ring).headShadow ≠ 0 → (s.ring ring).shadowSlot ≠ s.time.now / 256 + 1 →
      sends s (s.ring ring).port →
      Does (.headShadowWrite ring) s [.out, .rings] (fun t => (t.ring ring).shadowDue = false ∧
        t.out = s.out ++ [Output.dma (s.ring ring).port (s.ring ring).pasid (s.ring ring).headShadow (toLe 4 (s.ring ring).sqHead)])) ∧
    ((s.ring ring).headShadow = 0 → Does (.headShadowWrite ring) s [] (fun _ => True)))

/-- With TIME_VALID on an ENABLED ring whose head descriptor d has been fetched: if a check of steps 2 to 9 of Table 3.9 fails, and a completion entry is free, SQ_HEAD passes d and its completion is written, and without a free entry nothing changes; if none fails and pacing, credits, their order among the rings (R127) and a completion entry allow it, d becomes the last of the admitted works with a reserved entry (a BURROW_THAW with its result, R195); otherwise it waits, and so it does while TIME_VALID is 0. -/
def Obligations.AdmissionOfTheHeadDescriptor : Prop :=
  ∀ (ring : Nat) (d : Bytes) (rest : List Bytes) (s : State), (s.ring ring).fetched = d :: rest →
    (s.time.valid = false → Does (.admission ring) s [] (fun _ => True)) ∧
    ((s.ring ring).state = .enabled → s.power.devReady = true → s.time.valid = true →
      (∀ f, s.admitFails (s.ring ring) d = some f →
        ((s.ring ring).cqFree = 0 → Does (.admission ring) s [] (fun _ => True)) ∧
        ((s.ring ring).cqFree ≠ 0 → sends s (s.ring ring).port →
          Does (.admission ring) s [.out, .rings] (fun t => (t.ring ring).fetched = rest ∧
            (t.ring ring).sqHead = ((s.ring ring).sqHead + 1) % 2 ^ (s.ring ring).sqLog2 ∧
            .dma (s.ring ring).port (s.ring ring).pasid ((s.ring ring).cqBase + 32 * (s.ring ring).cqTail)
              (completion d f (s.ring ring).phase s.time.now) ∈ t.out))) ∧
      (s.admitFails (s.ring ring) d = none →
        ((s.paced d = false ∨ s.affordable (s.ring ring) d = false ∨ s.creditTurn ring (s.ring ring) d = false) →
          Does (.admission ring) s [] (fun _ => True)) ∧
        (s.paced d = true → s.affordable (s.ring ring) d = true → s.creditTurn ring (s.ring ring) d = true →
          Does (.admission ring) s [.counters, .ctxs, .rings, .works, .waits, .nextWork, .lastCredit, .burrows, .tables, .jobs, .trace] (fun t =>
            (descOpcode d ≠ 0x17 → t.works = s.works ++ [s.newWork ring (s.ring ring) d] ∧ Only [.counters, .ctxs, .rings, .works, .nextWork,
              .lastCredit, .tables, .jobs, .trace] s t) ∧
            (descOpcode d = 0x17 → s.work s.nextWork = none →
              ∃ res, t.works = s.works ++ [{ s.newWork ring (s.ring ring) d with result := res }]) ∧ t.nextWork = s.nextWork + 1 ∧
            (t.ring ring).fetched = rest ∧ (t.ring ring).reserved = (s.ring ring).reserved + 1 ∧
            (t.ring ring).sqHead = ((s.ring ring).sqHead + 1) % 2 ^ (s.ring ring).sqLog2))))

/-- The completion that the checks give: BAD_OPCODE for a value not in Table 3.7; STATE_ERROR with detail 0 on a SERVICE ring for any opcode but the four it takes; then BAD_FIELD for a reserved field; then DENIED_TENANCY for a context that is not ACTIVE or of another tenancy; then DENIED_PORT for one of another port; then the failing field of lowest offset; then DENIED_TENANCY for an object of another tenancy. -/
def Obligations.AdmissionChecksInOrder : Prop :=
  ∀ (r : Ring) (d : Bytes) (s : State),
    (opcodeClass (descOpcode d) = none → s.admitFails r d = some (Result.err 0x11 0)) ∧
    (opcodeClass (descOpcode d) ≠ none →
      (r.service = true → serviceOpcode (descOpcode d) = false → s.admitFails r d = some (Result.err 0x10 0)) ∧
      ((r.service = false ∨ serviceOpcode (descOpcode d) = true) →
        (∀ x, lowestCheck (reservedChecks d) = some x → s.admitFails r d = some x) ∧
        (reservedChecks d = [] →
          ((s.ctx (descCtx d)).state ≠ 1 ∨ (s.ctx (descCtx d)).tenancy ≠ r.tenancy →
            s.admitFails r d = some (Result.err 0x21 0)) ∧
          ((s.ctx (descCtx d)).state = 1 → (s.ctx (descCtx d)).tenancy = r.tenancy →
            ((s.ctx (descCtx d)).port ≠ r.port → s.admitFails r d = some (Result.err 0x20 0)) ∧
            ((s.ctx (descCtx d)).port = r.port → ∀ x, lowestCheck (addressChecks d ++ s.fieldChecks r.tenancy d) = some x →
              s.admitFails r d = some x) ∧
            ((s.ctx (descCtx d)).port = r.port → s.fieldChecks r.tenancy d = [] → addressChecks d = [] →
              s.namesOwn r.tenancy d = false → s.admitFails r d = some (Result.err 0x21 0))))))

/-- A work with a result, all of whose stores are acknowledged, leaves the machine: that of a ring with its 32-byte completion written to the next entry of its ring's queue, followed by the ring's MSI-X message if IRQ is set, and its reserved entry given up; that of another device with its partial list sent there. While a store of it is outstanding nothing changes, and so without a result. -/
def Obligations.DescriptorCompletes : Prop :=
  ∀ (w : Nat) (x : Work) (s : State), s.work w = some x →
    (x.result = none → Does (.descriptorComplete w) s [] (fun _ => True)) ∧
    (∀ r, x.result = some r →
      (s.allVisible w = false → Does (.descriptorComplete w) s [] (fun _ => True)) ∧
      (s.allVisible w = true → w < s.nextWork →
        Does (.descriptorComplete w) s (plus [.freeCount, .ctxs, .nextWork, .lastCredit, .burrows, .groups, .tables, .tensors, .jobs,
          .trails, .lateFree, .badgers, .trace] waitParts) (fun t => t.work w = none ∧
          (x.origin = none → sends s (s.ring x.ring).port →
            let q := s.ring x.ring
            let entry : Output := .dma q.port q.pasid (q.cqBase + 32 * q.cqTail) (completion x.desc r q.phase s.time.now)
            if bit (fld x.desc 1 1) 0 then [entry, .msix q.port q.msix] <:+: t.out else entry ∈ t.out))))

/-- With the semaphore and the block not BUSY: CREATE of a FREE context from an image with a bound tenancy and an H-port makes it ACTIVE with no pin; MODIFY of an ACTIVE one keeps state, tenancy, port and pin fields and takes the image's PASID; DRAIN makes it DRAINING while it has admitted work and FREE otherwise; CONTEXT_FREE frees a DRAINING one without admitted work. A command that Table 3.2 does not allow changes nothing but CMD_ERR and its CAUSE. With the semaphore and the block not BUSY: CONFIGURE of a DISABLED ring from a legal image of a bound tenancy and an H-port takes tenancy, port and sizes; ENABLE of a DISABLED ring with queue addresses starts its indices at 0 and its phase at 1; DISABLE of an ENABLED or ERROR ring makes it DRAINING while admitted work is left and DISABLED otherwise, with no entry left to admit. A RING_CMD that the table does not allow changes nothing but CMD_ERR with CAUSE 1. -/
def Obligations.ContextAndRingStates : Prop :=
  (∀ (mp : MgmtPort) (c : Nat) (s : State), ready s mp .ctx →
    (c < 262144 → (s.ctx c).state = 0 → fld (s.image 0x0040800 32) 2 2 % 512 ≠ 0 →
      s.bound (fld (s.image 0x0040800 32) 2 2 % 512) = true → s.portClass (fld (s.image 0x0040800 32) 1 1) = 1 →
      Does (.ctxCreate mp c) s [.ctxs] (fun t => (t.ctx c).state = 1 ∧ (t.ctx c).pinned = false ∧
        (t.ctx c).tenancy = fld (s.image 0x0040800 32) 2 2 % 512 ∧ (t.ctx c).port = fld (s.image 0x0040800 32) 1 1 ∧
        (∀ d, d ≠ c → t.ctx d = s.ctx d))) ∧
    ((s.ctx c).state = 1 →
      Does (.ctxModify mp c) s [.ctxs, .works, .runs, .xltWaits, .faults] (fun t => (t.ctx c).state = 1 ∧
        (t.ctx c).tenancy = (s.ctx c).tenancy ∧ (t.ctx c).port = (s.ctx c).port ∧ (t.ctx c).pinSeq = (s.ctx c).pinSeq ∧
        (t.ctx c).pinned = (s.ctx c).pinned ∧ (t.ctx c).pasid = fld (s.image 0x0040800 32) 4 4 % 2 ^ 20 ∧
        (∀ d, d ≠ c → t.ctx d = s.ctx d))) ∧
    ((s.ctx c).state = 1 → s.ctxBusy c = true →
      Does (.ctxDrain mp c) s [.ctxs] (fun t => t.ctx c = { s.ctx c with state := 2 })) ∧
    ((s.ctx c).state = 1 → s.ctxBusy c = false →
      Does (.ctxDrain mp c) s [.ctxs, .tensors] (fun t => t.ctx c = Ctx.free)) ∧
    ((s.ctx c).state = 2 → s.ctxBusy c = false →
      Does (.contextFree c) s [.ctxs, .tensors] (fun t => t.ctx c = Ctx.free)) ∧
    ((s.ctx c).state ≠ 1 →
      Does (.ctxModify mp c) s [.out, .regs, .cmdCtx] (fun t => t.flag 0x0040908 0 = true ∧ t.cmdCtx.cause = 1) ∧
      Does (.ctxDrain mp c) s [.out, .regs, .cmdCtx] (fun t => t.flag 0x0040908 0 = true ∧ t.cmdCtx.cause = 1))) ∧
  (∀ (mp : MgmtPort) (r : Nat) (s : State), ready s mp .ring →
    (r < 65536 → (s.ring r).state = .disabled → fld (s.image 0x0080000 8) 0x1C 2 ≠ 0 →
      s.bound (fld (s.image 0x0080000 8) 0x1C 2) = true → s.portClass (fld (s.image 0x0080000 8) 0x1E 1) = 1 →
      ringImageOk (s.image 0x0080000 8) = true →
      Does (.ringConfigure mp r) s [.rings] (fun t => (t.ring r).configured = true ∧ (t.ring r).state = .disabled ∧
        (t.ring r).tenancy = fld (s.image 0x0080000 8) 0x1C 2 ∧ (t.ring r).port = fld (s.image 0x0080000 8) 0x1E 1 ∧
        (t.ring r).sqLog2 = fld (s.image 0x0080000 8) 0x20 1 ∧ (∀ q, q ≠ r → t.ring q = s.ring q))) ∧
    ((s.ring r).state = .disabled → (s.ring r).sqBase ≠ 0 → (s.ring r).cqBase ≠ 0 →
      Does (.ringEnable mp r) s [.rings] (fun t => (t.ring r).state = .enabled ∧ (t.ring r).sqHead = 0 ∧ (t.ring r).sqTail = 0 ∧
        (t.ring r).cqHead = 0 ∧ (t.ring r).phase = true ∧ (∀ q, q ≠ r → t.ring q = s.ring q))) ∧
    ((s.ring r).state = .enabled ∨ (s.ring r).state = .error →
      Does (.ringDisable mp r) s [.rings] (fun t =>
        (t.ring r).state = (if s.ringBusy r then .draining else .disabled) ∧ (t.ring r).fetched = [] ∧
        (∀ q, q ≠ r → t.ring q = s.ring q))) ∧
    ((s.ring r).state ≠ .disabled → r < 65536 →
      Does (.ringConfigure mp r) s [.out, .regs, .cmdRing] (fun t => t.flag 0x0080048 0 = true ∧ t.cmdRing.cause = 1) ∧
      Does (.ringEnable mp r) s [.out, .regs, .cmdRing] (fun t => t.flag 0x0080048 0 = true ∧ t.cmdRing.cause = 1)) ∧
    ((s.ring r).state = .disabled ∨ (s.ring r).state = .draining →
      Does (.ringDisable mp r) s [.out, .regs, .cmdRing] (fun t => t.flag 0x0080048 0 = true ∧ t.cmdRing.cause = 1)))

/-- A write of the own id with no flag bits takes a free semaphore or renews its lease of 1,000,000,000 ns; a write of 0 by the holder releases it, and of a free one changes nothing; any other value, and any write while the other port holds it, is a semaphore error alone. When the lease of a held semaphore has run out (and not before), or the link of its holder goes down, HOLDER becomes 0 and LAPSED is set; when the link of the other port goes down the semaphore stays. Two take writes of a free semaphore in one cycle: the port in TIE_NEXT holds it, TIE_NEXT names the other, and the other's write is a semaphore error. -/
def Obligations.Semaphore : Prop :=
  (∀ (mp : MgmtPort) (value hw : Reg) (s : State), s.power.perst = false → value.toNat &&& 0x310 = 0 →
    (bits value.toNat 1 0 = mpId mp → s.sem.holder = 0 ∨ s.sem.holder = mpId mp →
      Does (.mgmtSemWrite mp value ⟨none, hw⟩) s [.sem] (fun t => t.sem = { s.sem with holder := mpId mp, lease := 1000000000 })) ∧
    (bits value.toNat 1 0 = 0 → s.sem.holder = mpId mp →
      Does (.mgmtSemWrite mp value ⟨none, hw⟩) s [.sem] (fun t => t.sem = { s.sem with holder := 0, lease := 0 })) ∧
    (bits value.toNat 1 0 = 0 → s.sem.holder = 0 → Does (.mgmtSemWrite mp value ⟨none, hw⟩) s [] (fun _ => True)) ∧
    (bits value.toNat 1 0 ≠ 0 → bits value.toNat 1 0 ≠ mpId mp →
      Does (.mgmtSemWrite mp value ⟨none, hw⟩) s [.out, .regs, .counters] (fun t => t = s.semError mp ∧
        t.flag 0x0010000 (7 + mpId mp) = true)) ∧
    (s.sem.holder = mpId (otherMp mp) →
      Does (.mgmtSemWrite mp value ⟨none, hw⟩) s [.out, .regs, .counters] (fun t => t = s.semError mp ∧
        t.flag 0x0010000 (7 + mpId mp) = true))) ∧
  ((∀ s : State, s.sem.holder ≠ 0 → s.sem.lease = 0 →
    Does .semLeaseExpire s [.out, .sem, .regs] (fun t => t.sem.holder = 0 ∧ t.flag 0x0010000 4 = true)) ∧
  (∀ s : State, s.sem.lease ≠ 0 → Does .semLeaseExpire s [] (fun _ => True)) ∧
  (∀ (mp : MgmtPort) (s : State),
    (s.holdsSem mp = true →
      Does (.mgmtLinkDown mp) s [.out, .power, .sem, .regs] (fun t => t.sem.holder = 0 ∧ t.flag 0x0010000 4 = true)) ∧
    (s.holdsSem mp = false → Does (.mgmtLinkDown mp) s [.power] (fun _ => True))) ∧
  (∀ (v w hw : Reg) (s : State), s.power.perst = false → s.sem.holder = 0 → v.toNat &&& 0x310 = 0 → w.toNat &&& 0x310 = 0 →
    bits v.toNat 1 0 = 1 → bits w.toNat 1 0 = 2 →
    Does (.mgmtSemWrite .a v ⟨some w, hw⟩) s [.out, .sem, .regs, .counters] (fun t =>
      (s.sem.tieNext = 0 → t.sem.holder = 1 ∧ t.sem.tieNext = 1 ∧ t.flag 0x0010000 9 = true) ∧
      (s.sem.tieNext ≠ 0 → t.sem.holder = 2 ∧ t.sem.tieNext = 0 ∧ t.flag 0x0010000 8 = true))))

/-- BURROW_CREATE of an id that is not FREE ends with STATE_ERROR, detail 32. With its operands read: a skeleton, allotment or limit that R187 and R191 refuse ends it with BAD_FIELD and that offset, and no burrow changes; otherwise, with a place for every structure, the burrow is ACTIVE, belongs to the descriptor's tenancy, has the descriptor's parameters, no items and sequences 1 and 0, the completion counts its leaves, no other burrow changes, and device memory outside the new structures reads as before. FREEZE makes an ACTIVE burrow FROZEN, its completion names SNAP_SEQ, and THAW makes a FROZEN one ACTIVE with MERGED clear; from any other state they end with STATE_ERROR, detail 32, and change nothing else. The first step of DROP makes an ACTIVE or FROZEN burrow DROPPING, clears its pins and puts its storage on the zero-fill list; when that has been filled, its second step makes the burrow FREE and completes. What is said of bytes and outputs is for accesses granted no line of an extent, behind which a waiting host request would go on. -/
def Obligations.BurrowsAreCreatedFrozenAndDropped : Prop :=
  (∀ (w : Nat) (x : Work) (book skel : Bytes) (s s' : State), startable s w x 0x15 →
    ((s.burrow x.burrow).state ≠ 0 →
      Does (.burrowCreate w book skel) s [.works, .waits] (fun t => hasResult t w (Result.err 0x10 32))) ∧
    ((s.burrow x.burrow).state = 0 → readable s x (s.createReads x skel) s' →
      (∀ off, s'.createFails x (s'.readSkeleton x skel) = some off →
        Does (.burrowCreate w book skel) s (.works :: accessParts x s') (fun t => hasResult t w (Result.err 0x12 off))) ∧
      (∀ b, s'.createFails x (s'.readSkeleton x skel) = none →
        s'.buildBurrow x (s'.readSkeleton x skel) (s'.readAt x (descOp0 x.desc) (bookLength x.desc) book) = some b →
        Does (.burrowCreate w book skel) s
          (plus [.freeCount, .works, .memory, .poison, .fill, .firstTouch, .burrows, .rotation] (accessParts x s')) (fun t =>
          let n := t.burrow x.burrow
          n.state = 1 ∧ n.tenancy = x.tenancy ∧ n.dim = fld x.desc 34 2 ∧ n.vecFmt = fld x.desc 36 1 ∧ n.metric = fld x.desc 37 1 ∧
          n.pqM = fld x.desc 38 2 ∧ n.pqBits = fld x.desc 40 1 ∧ n.maxItems = fld x.desc 48 8 ∧ n.items = 0 ∧ n.nextSeq = 1 ∧
          n.snapSeq = 0 ∧ n.itemMap = [] ∧ (∀ i, i ≠ x.burrow → t.burrow i = s.burrow i) ∧ (clear x s' → memOnly s t n.ranges) ∧
          hasResult t w (Result.done (skelLeaves (s'.readSkeleton x skel))))))) ∧
  (∀ (w : Nat) (x : Work) (s : State),
    (startable s w x 0x16 → (s.burrow x.burrow).state = 1 →
      Does (.burrowFreeze w) s [.works, .waits, .burrows] (fun t =>
        t.burrow x.burrow = { s.burrow x.burrow with state := 2, merged := (s.burrow x.burrow).chunksUsed == 0 } ∧
        (∀ i, i ≠ x.burrow → t.burrow i = s.burrow i) ∧ hasResult t w (Result.atSnap 0 (s.burrow x.burrow).snapSeq))) ∧
    (startable s w x 0x16 → (s.burrow x.burrow).state ≠ 1 →
      Does (.burrowFreeze w) s [.works, .waits] (fun t => hasResult t w (Result.err 0x10 32))) ∧
    (startable s w x 0x17 → (s.burrow x.burrow).state = 2 →
      Does (.burrowThaw w) s [.works, .waits, .burrows] (fun t =>
        t.burrow x.burrow = { s.burrow x.burrow with state := 1, merged := false } ∧
        (∀ i, i ≠ x.burrow → t.burrow i = s.burrow i) ∧ hasResult t w (Result.done 0))) ∧
    (startable s w x 0x17 → (s.burrow x.burrow).state ≠ 2 →
      Does (.burrowThaw w) s [.works, .waits] (fun t => hasResult t w (Result.err 0x10 32))) ∧
    (startable s w x 0x18 → (s.burrow x.burrow).state = 1 ∨ (s.burrow x.burrow).state = 2 →
      Does (.burrowDrop w) s [.ctxs, .works, .fill, .burrows, .vcache, .badgers] (fun t =>
        (t.burrow x.burrow).state = 3 ∧ (∀ i, i ≠ x.burrow → t.burrow i = s.burrow i) ∧
        (∀ c, (t.ctx c).pinned = true → (t.ctx c).pinBurrow ≠ x.burrow) ∧
        (∀ r ∈ (s.burrow x.burrow).ranges, r.2 ≠ 0 → t.filling (s.burrow x.burrow).tenancy r = true))) ∧
    (startable s w x 0x18 → (s.burrow x.burrow).state = 3 →
      (s.burrow x.burrow).ranges.any (s.filling (s.burrow x.burrow).tenancy) = false →
      Does (.burrowDrop w) s [.works, .waits, .burrows] (fun t => (t.burrow x.burrow).state = 0 ∧
        (∀ i, i ≠ x.burrow → t.burrow i = s.burrow i) ∧ hasResult t w (Result.done 0))) ∧
    (startable s w x 0x18 → (s.burrow x.burrow).state = 0 →
      Does (.burrowDrop w) s [.works, .waits] (fun t => hasResult t w (Result.err 0x10 32))))

/-- WALK_START gives the first waiting query of a tenancy a lead walk on the home den's die and a partner walk on the other. SEARCH (without GROUP) and SEARCH_BATCH, with their operands read and nothing of R206 in the way, walk and scan every query whose walkers and stacks have served it: its stage is then SCANNED, and without WIDEN its candidates and PASSED are those of one walk and scan at NPROBE and the work's snapshot. A check of R206 that fails is their result, and so is one of R203 and R205 that only a burrow created after admission lets be made. SEARCH of a forwarded query does the same with the operands it carries. -/
def Obligations.QueriesWalkAndScan : Prop :=
  ∀ (w op i : Nat) (x : Work) (qs sv : Bytes) (q : Query) (s s' : State),
    (running s w x → isSearch x.opcode = true → x.queries[i]? = some q → q.stage = .waiting →
      (x.queries.take i).all (fun p => p.stage != .waiting) = true →
      (s.works.takeWhile (fun y => y.id != w)).all (fun y => !(y.tenancy == x.tenancy && y.waits && s.mayStart y && y.verdict.isNone)) = true →
      ((s.burrow x.burrow).state = 1 ∨ (s.burrow x.burrow).state = 2) → ∀ l p : Walk,
      s.pickWalk x.tenancy ((s.burrow x.burrow).homeDen / 4) (s.burrow x.burrow).banks = some l →
      s.pickWalk x.tenancy (1 - (s.burrow x.burrow).homeDen / 4) (s.burrow x.burrow).banks = some p →
      Does (.walkStart w i) s [.works] (fun t => t.work w =
        some { x with queries := lset x.queries i { q with stage := .walking, lead := some l, partner := some p } })) ∧
    (startable s w x op → (op = 0x10 ∧ x.origin = none ∧ schGroup x.desc = false) ∨ op = 0x11 →
      let c : Instr := if op = 0x10 then .search w qs sv else .searchBatch w qs sv
      (∀ r, s.searchLate (s.burrow x.burrow) x = some r → Does c s [.works, .waits] (fun t => hasResult t w r)) ∧
      (s.searchLate (s.burrow x.burrow) x = none → readable s x ((s.burrow x.burrow).searchReads x.desc) s' →
      let b := s'.burrow x.burrow
      let sets := setValues x.desc (s'.readAt x (descOp1 x.desc) (8 * schSets x.desc) sv)
      (∀ r, s'.searchFails b x (s'.searchVecs b x qs) sets = some r →
        Does c s (.works :: accessParts x s') (fun t => hasResult t w r)) ∧
      (∀ vecs v, s'.searchVecs b x qs = some vecs → s'.searchFails b x (some vecs) sets = none → vecs[i]? = some v →
        x.queries[i]? = some q → q.stage = .walking → serving s' w x.tenancy (s'.queryUnits b x q v) →
        Does c s (plus [.works] (accessParts x s')) (fun t => ∃ y p, t.work w = some y ∧ y.queries[i]? = some p ∧
          p.stage = .scanned ∧ y.snap = (if schPin x.desc && x.snapLate then (s.ctx x.ctx).pinSeq else x.snap) ∧
          (schWiden x.desc = false →
            p.cands = (s'.walkScan b y sets (v.map f32) (schNprobe x.desc)).2.1 ∧
            p.passed = min (s'.walkScan b y sets (v.map f32) (schNprobe x.desc)).1 (2 ^ 32 - 1)) ∧
          (schWiden x.desc = true → (s'.walkScan b y sets (v.map f32) (schNprobe x.desc)).1 < schK x.desc →
            schNprobe x.desc < b.maxNprobe → p.widened = true ∧ p.nprobe = min (2 * schNprobe x.desc) b.maxNprobe ∧
            p.cands = (s'.walkScan b y sets (v.map f32) p.nprobe).2.1))))) ∧
    (∀ o v, startable s w x 0x10 → x.origin = some o → x.queries = [q] → q.stage = .walking →
      let b := s.burrow x.burrow
      serving s w x.tenancy (s.queryUnits b x q v) →
      b.query (schFp32 x.desc) (slice (x.desc.drop 64) 0 (b.queryBytes x.desc)) = some v →
      s.searchFails b x (some [v]) (setValues x.desc (x.desc.drop (64 + b.queryBytes x.desc))) = none →
      Does (.search w qs sv) s [.works, .slots, .waits, .counters] (fun t => ∃ y p, t.work w = some y ∧ y.queries = [p] ∧ p.stage = .scanned))

/-- Every candidate a walk and scan keep is an item of one of the leaves walked, visible at the work's snapshot and passing its filter, with the rank of its leaf in its input position and its code score; no more than RERANK (K when RERANK is 0) are kept, PASSED counts all that qualified, and they stand best first. -/
def Obligations.AScanKeepsTheBestVisibleItems : Prop :=
  ∀ (s : State) (b : Burrow) (x : Work) (sets : List Nat) (q : List Fp) (n : Nat),
    let r := s.walkScan b x sets q n
    r.2.1.length = min r.1 (if schRerank x.desc = 0 then schK x.desc else schRerank x.desc) ∧
    r.2.1.Pairwise (fun c d => candBefore d c = false) ∧
    ∀ c ∈ r.2.1, ∃ k a, ∃ i ∈ (b.leaf a).visible b.merged x.snap, a ∈ b.walkLeaves q x.frame n ∧ passes x.desc sets i.attr = true ∧
      c.key = i.key ∧ c.slot = i.slot ∧ c.pos = k * 65536 + i.j ∧ c.score = b.codeScore q i.code

/-- RERANK_START of a scanned query, in its turn, on a sett of the home den and once the units that hold the vectors have served it, gives each candidate whose vector is readable its exact score and counts the others. TOPK_SELECT of a query that is ready, in its turn, once the home den's top-k unit has served it, and with its result block writable, writes the block of the first K and ends a SEARCH with its result; the last query of a SEARCH_BATCH ends the batch with the batch's result. Device memory outside the blocks written reads as before. What is said of bytes and outputs is for accesses granted no line of an extent, behind which a waiting host request would go on. -/
def Obligations.RerankAndSelection : Prop :=
  ∀ (w i : Nat) (x : Work) (q : Query) (bad poi : List Nat) (s s1 s' : State), running s w x → isSearch x.opcode = true →
    x.queries[i]? = some q →
    let b := s.burrow x.burrow
    let slots := q.cands.map (·.slot)
    (q.stage = .scanned → schRerank x.desc ≠ 0 → s.turnOf x (fun y => s.reranks y b.homeDen) = true → hasSett s w b.homeDen x.tenancy s1 →
      servedBy s1 w (queryCell i) x.tenancy (s1.readDies (s1.missGrains b x.burrow slots)) (s1.vectorUnits b x.burrow slots) s' →
      Does (.rerankStart w i bad poi) s (plus [.badgers, .vcache] settParts) (fun t => ∃ y p, t.work w = some y ∧
        y.queries[i]? = some p ∧ p.stage = .ranked ∧
        p.cands = (q.cands.filter (fun c => !(bad.contains c.slot || s'.vecLost b x.burrow c.slot) &&
          !(poi.contains c.slot || s'.vecPoisoned b c.slot))).map
          (fun c => { c with score := b.exactScore (q.vec.map f32) (b.vector c.slot) }) ∧
        p.dropped + p.cands.length = q.cands.length ∧ (∀ j, j ≠ i → y.queries[j]? = x.queries[j]?) ∧
        ((tget s.resident (denKey b.homeDen x.tenancy)).isSome = true →
          Only [.out, .regs, .counters, .errs, .badgers, .vcache, .slots, .waits, .works] s t))) ∧
    (x.origin = none → schGroup x.desc = false → q.ready x.desc = true → s.turnOf x (fun y => s.selects y b.homeDen) = true →
      s.passUnit w (topkCell + 1 + i) x.tenancy [denMap b.homeDen] = .go s1 → letThrough s1 x (searchWrites x.desc) s' →
      (x.opcode = 0x10 →
        Does (.topkSelect w i) s (storeParts x s') (fun t =>
          hasResult t w ((q.select x.desc).result x.snap) ∧
          (clear x s' → memOnly s t (stored s' x (descRes x.desc) (resultBlock x.desc (q.select x.desc).results))) ∧
          (clear x s' → addrClass (descRes x.desc) = 0 → sends s x.port → resultBlock x.desc (q.select x.desc).results ≠ [] →
            t.out = s.out ++ [Output.dma x.port x.pasid (descRes x.desc) (resultBlock x.desc (q.select x.desc).results)]))) ∧
      (x.opcode = 0x11 → addrClass (descRes x.desc) = 0 → sends s x.port → resultBlock x.desc (q.select x.desc).results ≠ [] → clear x s' →
        Does (.topkSelect w i) s (storeParts x s') (fun t =>
          t.memory = s.memory ∧
          t.out = s.out ++ [Output.dma x.port x.pasid (descRes x.desc + 256 + i * batchStep x.desc) (resultBlock x.desc (q.select x.desc).results),
            .dma x.port x.pasid (descRes x.desc + 16 * i) (q.select x.desc).record] ∧
          ((lset x.queries i (q.select x.desc)).all (·.stage == .done) = true →
            hasResult t w (batchResult (lset x.queries i (q.select x.desc)) x.snap)))))

/-- The keys that a selection of K gives, ascending or descending, are distinct, at most K, each the key of an entry that is neither NaN nor the reserved index; and every such entry whose key is left out, when K keys are given, stands after or level with the entry of every key kept; fewer than K are given only if no eligible key is left out. -/
def Obligations.SelectionKeepsTheBest : Prop :=
  ∀ (asc : Bool) (k : Nat) (es : List Entry),
    let ok := fun (e : Entry) => !e.val.isNan && e.key != noItem
    let r := topRow asc k es
    r.Nodup ∧ r.length ≤ k ∧ (∀ i ∈ r, ∃ e ∈ es, ok e = true ∧ e.key = i) ∧
    (r.length < k → ∀ e ∈ es, ok e = true → e.key ∈ r) ∧
    ∀ e ∈ es, ok e = true → e.key ∉ r → ∀ i ∈ r, ∃ f ∈ es, ok f = true ∧ f.key = i ∧ entryBefore asc e f = false

/-- On a den of the port's die, in their turn and once its top-k unit has served them, with the operands readable and the results writable in host memory: TOPK writes, for every row, its count and K indices, and completes with the number of rows, DONE_SHORT if any row gave fewer than K; MERGE_PARTIAL writes the merged block and completes with its count, DONE_SHORT below K; a list with a bad count or reserved byte ends it with BAD_FIELD, detail 0, and nothing is written. What is said of bytes and outputs is for accesses granted no line of an extent, behind which a waiting host request would go on. -/
def Obligations.TopkAndMergePartial : Prop :=
  ∀ (w den : Nat) (x : Work) (scores indices lists : Bytes) (s s1 s' : State), s.topDen x.tenancy x.port = some den →
    s.turnOf x (fun y => s.topWork y den) = true → s.passUnit w topkCell x.tenancy [denMap den] = .go s1 → sends s x.port →
    addrClass (descOp0 x.desc) = 0 → addrClass (descOp1 x.desc) = 0 → addrClass (descRes x.desc) = 0 →
    let d := x.desc
    (startable s w x 0x42 →
      let len := fld d 32 4
      let k := fld d 36 2
      let rows := fld d 38 2
      let e := scoreBytes (fld d 40 1)
      let stride := fld d 44 4
      let step := roundup (8 + 8 * k) 64
      let row := fun r => topRow (fld d 41 1 == 1) k ((List.range len).map (fun p =>
        { val := scoreValue (fld d 40 1) (fld (slice (scores.drop (r * stride)) 0 (len * e)) (p * e) e), pos := p
          key := if descOp1 d = 0 then (fld d 48 8 + p) % 2 ^ 64 else fld (slice (indices.drop (r * 8 * len)) 0 (8 * len)) (8 * p) 8 }))
      letThrough s1 x (((List.range rows).flatMap (fun r =>
        (descOp0 d + r * stride, len * e) :: (if descOp1 d = 0 then [] else [(descOp1 d + r * 8 * len, 8 * len)]))).map (fun a => (a.1, a.2, false)) ++
          (List.range rows).map (fun r => (descRes d + r * step, 8 + 8 * k, true))) s' →
      Does (.topk w scores indices) s (plus [.out, .works] (accessParts x s')) (fun t =>
        (clear x s' → t.out = s.out ++ (List.range rows).map (fun r => Output.dma x.port x.pasid (descRes d + r * step) (topBlock k (row r)))) ∧
        hasResult t w { Result.done rows with status := b2n ((List.range rows).any (fun r => decide ((row r).length < k))) })) ∧
    (startable s w x 0x19 →
      let n := fld d 32 2
      let k := fld d 34 2
      let stride := fld d 36 4
      let b := slice lists 0 (n * stride)
      let bad := (List.range n).any (fun i => decide (min 1024 ((stride - 64) / 16) < fld b (i * stride) 2) || !zeroRange b (i * stride + 3) 61)
      let r := mergeLists k ((List.range n).map (fun i => (fld b (i * stride + 2) 1, listEntries b (i * stride) (fld b (i * stride) 2))))
      letThrough s1 x [(descOp0 d, n * stride, false), (descRes d, (resultBlock d []).length, true)] s' →
      (bad = true → Does (.mergePartial w lists) s (.works :: accessParts x s') (fun t => hasResult t w (Result.err 0x12 0))) ∧
      (bad = false →
        Does (.mergePartial w lists) s (plus [.out, .works] (accessParts x s')) (fun t =>
          (clear x s' → resultBlock d r ≠ [] → t.out = s.out ++ [Output.dma x.port x.pasid (descRes d) (resultBlock d r)]) ∧
          hasResult t w { Result.done r.length with status := b2n (decide (r.length < k)) })))

/-- A step of INSERT, DELETE, UPSERT or APPEND_RESUME adds outcomes at the end of its work's and takes from the burrow exactly one sequence for each outcome below 3 added; when it adds such an outcome SNAP_SEQ is the last sequence taken; no other burrow changes. -/
def Obligations.UpdatesTakeSequencesInOrder : Prop :=
  ∀ (w op : Nat) (c : Instr) (x : Work) (a b : Bytes) (s : State), startable s w x op →
    ((op = 0x12 ∧ c = .insert w a b) ∨ (op = 0x13 ∧ c = .delete w a) ∨ (op = 0x14 ∧ c = .upsert w a b) ∨
      (isUpdate op = true ∧ c = .appendResume w)) →
    Does c s (plus [.freeCount, .burrows, .vcache, .badgers] waitParts) (fun t => ∃ y new, t.work w = some y ∧
      y.outcomes = x.outcomes ++ new ∧
      (t.burrow x.burrow).nextSeq = (s.burrow x.burrow).nextSeq + (new.filter (fun o => decide (o < 3))).length ∧
      ((new.filter (fun o => decide (o < 3))) ≠ [] → (t.burrow x.burrow).snapSeq + 1 = (t.burrow x.burrow).nextSeq) ∧
      (∀ i, i ≠ x.burrow → t.burrow i = s.burrow i))

/-- An INSERT, DELETE or UPSERT whose records have been read: a bad record ends it with BAD_FIELD, detail 8, then a vector that R161 refuses with detail 16, then a burrow that is not ACTIVE with STATE_ERROR, detail 32 (a check that only a burrow created after admission lets be made comes before them); without codes it asks for its PQ_ENCODE run. PQ_ENCODE_RUN, in a frame in which that run has its sett, gives every item its code. Once routed, in its turn, with its vectors acknowledged and room for every change left, an update with no result address completes with the items applied, the last and the first sequence; with one in host memory it first writes the outcome bytes there. Room is left, in any case, where the last chunk of every leaf it changes holds all its entries. What is said of bytes and outputs is for accesses granted no line of an extent, behind which a waiting host request would go on. -/
def Obligations.UpdatesCheckEncodeAndComplete : Prop :=
  ∀ (w op : Nat) (c : Instr) (x : Work) (recs vecs : Bytes) (s s' : State),
    ((op = 0x12 ∧ c = .insert w recs vecs) ∨ (op = 0x13 ∧ c = .delete w recs) ∨ (op = 0x14 ∧ c = .upsert w recs vecs)) →
    let b := s.burrow x.burrow
    let items := s'.readItems b x recs (if op = 0x13 then [] else vecs)
    let bad8 := items.any (fun p => recordBad x.desc p.1)
    let bad16 := items.any (fun p => p.2.isNone)
    let late := if x.unchecked = true ∧ b.state ≠ 0 then lowestCheck (updateChecks b 0 x.desc) else none
    let entries := (x.items.map (fun i => 64 + roundup i.code.length 16)).sum
    let roomy := fun (a : Nat) => ∃ k, (b.leaf a).side.getLast? = some k ∧ k.used + entries ≤ 4032
    let done := fun (c : Instr) =>
      x.items ≠ [] → x.routed = true → s.turn x = true → s.flashBusy (vectorReq w) = false →
      ((s.applyItems x (s.remaining x)).1.outcomes.length = x.items.length →
        (descRes x.desc = 0 →
          Does c s [.freeCount, .works, .waits, .memory, .poison, .fill, .firstTouch, .burrows, .vcache] (fun t =>
            hasResult t w (updateResult (s.applyItems x (s.remaining x)).1))) ∧
        (descRes x.desc ≠ 0 → addrClass (descRes x.desc) = 0 → (∀ p ∈ pagesOf (descRes x.desc) x.items.length, s.pageGranted x p true = true) →
          sends s x.port →
          Does c s (plus [.freeCount, .burrows, .vcache] (storeParts x s)) (fun t =>
            (clear x s → t.out = s.out ++
              [Output.dma x.port x.pasid (descRes x.desc) ((s.applyItems x (s.remaining x)).1.outcomes.map (BitVec.ofNat 8))]) ∧
            hasResult t w (updateResult (s.applyItems x (s.remaining x)).1)))) ∧
      (descRes x.desc = 0 → (∀ i ∈ x.items, b.current.contains (b.target i) = true ∧ (tget b.leaves (b.target i)).isSome = true ∧ roomy (b.target i)) →
        (∀ e ∈ b.itemMap, (tget b.leaves e.2.2).isSome = true ∧ roomy e.2.2) →
        Does c s [.freeCount, .works, .waits, .memory, .poison, .fill, .firstTouch, .burrows, .vcache] (fun t => ∃ y, t.work w = some y ∧
          y.outcomes = x.outcomes ++ (s.remaining x).map (·.2) ∧ y.result = some (updateResult y)))
    (startable s w x op → x.items = [] →
      (∀ r, late = some r → Does c s [.works, .waits] (fun t => hasResult t w r)) ∧
      (late = none → readable s x (b.updateReads x.desc) s' →
        (bad8 = true → Does c s (.works :: accessParts x s') (fun t => hasResult t w (Result.err 0x12 8))) ∧
        (bad8 = false → bad16 = true → Does c s (.works :: accessParts x s') (fun t => hasResult t w (Result.err 0x12 16))) ∧
        (bad8 = false → bad16 = false → b.state ≠ 1 →
          Does c s (.works :: accessParts x s') (fun t => hasResult t w (Result.err 0x10 32))) ∧
        (bad8 = false → bad16 = false → b.state = 1 → updCodes x.desc = false → descOpcode x.desc ≠ 0x13 → b.metric ≠ 3 →
          Does c s (plus [.works, .runs] (accessParts x s')) (fun t => t.runs = s.runs ++ [encodeRun x b.homeDen] ∧
            ∃ y, t.work w = some y ∧ y.codes = none ∧ y.items = items.filterMap (·.2))))) ∧
    (startable s w x op → done c) ∧
    (running s w x → isUpdate x.opcode = true → done (.appendResume w)) ∧
    (∀ r, running s w x → isUpdate x.opcode = true → s.run w = some r → r.setts ≠ [] →
      Does (.pqEncodeRun w) s [.runs, .works] (fun t => t.run w = none ∧ (∀ v, v ≠ w → t.run v = s.run v) ∧ ∃ y, t.work w = some y ∧
        y.codes = some (x.items.map (fun i => b.encode i.vec)) ∧ y.items = x.items))

/-- BEAVER_MERGE_START of the leaf that R258 puts first records the merge point: the lowest of SNAP_SEQ, every pin and every admitted query's snapshot. LEAF_SWAP of a merge begun in an earlier frame ends it; in the frame of its start it changes no burrow. TOMBSTONE_FOLD, in a background slot of the leaf's stack in which its tenancy's work is next, sets MERGE_SEQ to M and the bits of the body items whose records are at or below M, and removes nothing from the side list. LEAF_VERSION_FREE of a replaced version that no admitted walk of before its swap needs, in such a slot of its stack, removes the version and puts its storage on the zero-fill list; while such a walk runs it changes nothing. -/
def Obligations.BeaverMergesAndFrees : Prop :=
  ∀ (bi a : Nat) (s : State),
    let b := s.burrow bi
    (b.current.contains a = true →
      (s.mergeNext bi a = true ∨ (tget s.burrows bi = some b ∧ s.mergeDue bi a = true ∧ (b.leaf a).foldable (s.mergePoint bi) = true ∧
        s.stackTurn (b.leaf a).stack b.tenancy = true ∧ ∀ d ∈ s.dueLeaves b.homeDen, d.2.2 ≠ a →
          dueBefore ((s.waitingLeaves bi).contains a, (b.leaf a).side.length, a) d = true)) →
      Does (.beaverMergeStart bi a) s [.burrows, .slots] (fun t =>
        t.burrow bi = { b with merges := b.merges ++ ([{ leaf := a, point := s.mergePoint bi, frame := s.frame }] : List Merge) } ∧
        (s.mergePoint bi ≤ b.snapSeq ∧ (∀ c ∈ s.ctxs, c.2.pinned = true → c.2.pinBurrow = bi → s.mergePoint bi ≤ c.2.pinSeq) ∧
          ∀ v ∈ s.works, isSearch v.opcode = true → v.burrow = bi → v.result = none → v.snapLate = false → s.mergePoint bi ≤ v.snap) ∧
        ∀ i, i ≠ bi → t.burrow i = s.burrow i)) ∧
    (∀ m, b.merges.find? (fun m => m.leaf == a) = some m →
      (s.frame ≤ m.frame →
        Does (.leafSwap bi a) s [.counters, .ctxs, .rings, .works, .waits, .nextWork, .lastCredit, .tables, .jobs, .fabric, .trace, .out]
          (fun _ => True)) ∧
      (m.frame < s.frame →
        Does (.leafSwap bi a) s [.out, .freeCount, .counters, .ctxs, .rings, .works, .waits, .nextWork, .lastCredit, .memory, .poison, .fill,
          .firstTouch, .burrows, .rotation, .tables, .jobs, .vcache, .fabric, .trace] (fun t =>
          (t.burrow bi).merges.any (fun m => m.leaf == a) = false ∧ (∀ i, i ≠ bi → t.burrow i = s.burrow i)))) ∧
    (s.mergeDue bi a = true → s.stackTurn (b.leaf a).stack b.tenancy = true →
      (b.leaf a).flat.all (fun e => e.2.isTomb || decide (s.mergePoint bi < e.2.seq)) = true →
      ((b.leaf a).hidden (s.mergePoint bi)).any (fun h => h.1 == 0) = true →
      Does (.tombstoneFold bi a) s [.slots, .memory, .poison, .fill, .firstTouch, .burrows] (fun t =>
        ((t.burrow bi).leaf a).mergeSeq = s.mergePoint bi ∧ ((t.burrow bi).leaf a).side = (b.leaf a).side ∧
        (∀ (i : Nat) (p : BodyItem), (b.leaf a).items[i]? = some p → ((t.burrow bi).leaf a).items[i]? =
          some { p with tomb := p.tomb || ((b.leaf a).hidden (s.mergePoint bi)).contains (0, i) }) ∧
        ∀ i, i ≠ bi → t.burrow i = s.burrow i)) ∧
    (∀ o, b.old.find? (fun o => o.1 == a) = some o →
      (s.walkedBefore bi o.2 = true → Does (.leafVersionFree bi a) s [] (fun _ => True)) ∧
      (s.walkedBefore bi o.2 = false → s.stackTurn (stackOf a) b.tenancy = true →
        Does (.leafVersionFree bi a) s [.slots, .burrows, .fill] (fun t => tget (t.burrow bi).leaves a = none ∧ tget (t.burrow bi).nodes a = none ∧
          (t.burrow bi).old.any (fun o => o.1 == a) = false ∧
          (∀ r ∈ b.versionRanges a, r.2 ≠ 0 → t.filling b.tenancy r = true) ∧ ∀ i, i ≠ bi → t.burrow i = s.burrow i)))

/-- For a leaf whose side-list sequences ascend, the body that a fold at M forms is, in order, exactly what a query with snapshot M sees of the old version: the body items without a tombstone at or below M, then the inserts at or below M without one. -/
def Obligations.FoldHoldsTheVisibleItems : Prop :=
  ∀ (l : Leaf) (M : Nat), l.flat.Pairwise (fun e f => e.2.seq < f.2.seq) →
    (l.fold M).body.map (fun p => (p.2.key, p.2.attr, p.2.code, p.2.slot)) =
      (l.visible false M).map (fun i => (i.key, i.attr, i.code, i.slot))

/-- FWD_QUERY that the link lets pass: with another key it is answered with KEY_MISMATCH and no entries; with the group's key, a burrow that can be searched and a free QUERY credit it becomes the last admitted work, with this device's SNAP_SEQ; on an excluded device it changes nothing. PARTIAL with another key than its search's is counted in WL_REFUSE; from a device other than the one its shard's query was last sent to it changes nothing. CANCEL ends the forwarded query of its source and tag and no other work. -/
def Obligations.ForwardedQueriesAndPartials : Prop :=
  ∀ (port : Nat) (m : Msg) (s : State),
    let bi := m.target / 2 ^ 52
    (accepts s port 0x20 m →
      (s.fabric.excluded = true → Does (.fwdQuery port m) s [] (fun _ => True)) ∧
      (s.fabric.excluded = false → m.key ≠ s.grpKey bi ∨ s.grpSize bi = 0 →
        Does (.fwdQuery port m) s [.out] (fun t => t = s.answerPartial port m.src m.tag bi
          (partialBytes 0x22 0 0 0 ((s.grpSelf bi).getD 0) []))) ∧
      (∀ ten, s.fabric.excluded = false → m.key = s.grpKey bi → s.grpSize bi ≠ 0 → s.idTenancy 0 bi = some ten →
        s.fwdFails bi m.payload ten = none → s.creditsUsed ten 1 < s.creditsOf ten 1 →
        Does (.fwdQuery port m) s [.works, .nextWork] (fun t => ∃ x : Work, t.works = s.works ++ [x] ∧ x.id = s.nextWork ∧ x.opcode = 0x10 ∧
          x.tenancy = ten ∧ x.burrow = bi ∧ x.snap = (s.burrow bi).snapSeq ∧ x.origin.map (·.src) = some m.src))) ∧
    (accepts s port 0x21 m →
      let key := ((s.groups.find? (fun g => g.tagNo == m.tag / 256)).map (·.key)).getD (s.grpKey bi)
      (m.key ≠ key → Does (.partialList port m) s [.counters] (fun t => counted s t (0x080A000 + 8 * (s.idTenancy 0 bi).getD 0))) ∧
      (m.key = key → (∀ g ∈ s.groups, g.tagNo = m.tag / 256 → tget g.sentTo (m.tag % 256) ≠ some m.src) →
        Does (.partialList port m) s [] (fun _ => True)) ∧
      (∀ g, m.key = g.key → s.groups.find? (fun g => g.tagNo == m.tag / 256) = some g → s.group g.w = some g →
        tget g.sentTo (m.tag % 256) = some m.src → g.phase = 0 → m.status = 0 → fld m.payload 0 1 < 0x10 →
        g.partials.any (fun p => p.shard == m.tag % 256) = false →
        (∃ r ∈ List.range g.size, r ≠ m.tag % 256 ∧ g.partials.any (fun p => p.shard == r) = false ∧ (tget g.sentTo r).isSome = true) →
        Does (.partialList port m) s [.groups] (fun t => ∃ p, t.group g.w = some { g with partials := g.partials ++ [p] } ∧
          p.shard = m.tag % 256 ∧ p.status = fld m.payload 0 1 ∧ p.snap = fld m.payload 1 8 ∧
          p.entries.length = min (fld m.payload 64 2) 1024))) ∧
    (accepts s port 0x22 m →
      (m.key ≠ s.grpKey bi → Does (.cancel port m) s [.counters] (fun t => counted s t (0x080A000 + 8 * (s.idTenancy 0 bi).getD 0))) ∧
      (m.key = s.grpKey bi →
        Does (.cancel port m) s [.works, .waits, .fabric] (fun t => t.fabric = { s.fabric with fwdWait := t.fabric.fwdWait } ∧
          t.works = s.works.filter (fun x => match x.origin with | some o => !(o.src == m.src && o.tag == m.tag) | none => true))))

/-- A cell at the word of a lane operation, DOT, POPC, ACLR, AMOV, CVT or REDUCE retires it: its destination register takes the lanes that Table 7.5 gives of the source registers (and for DOT and POPC of the tile's rows in scratchpad), the cell goes on to the next position, OVF and INVALID are only ever set, and no other register, cell, run, memory or scratchpad byte changes. REDUCE of 16 lanes in INT32 without SAT leaves their sum modulo 2^32 in lane 0. -/
def Obligations.CellArithmetic : Prop :=
  ∀ (run sett cell op : Nat) (x : Work) (r : Run) (s : State), issues s run sett cell op x r →
    let c := r.cell sett cell
    let w := r.image.word sett cell c.pc
    let done := fun (i : Instr) (ps : List Part) (c' : Cell) (f : Run → Prop) => Does i s (.runs :: ps) (fun t => ∃ q,
      runBecomes s t run q ∧ q = { withCell r sett cell c'.next with ovf := q.ovf, invalid := q.invalid, range := q.range } ∧
      (r.ovf = true → q.ovf = true) ∧ (r.invalid = true → q.invalid = true) ∧ (r.range = true → q.range = true) ∧ f q)
    let lanes := fun (f : Nat → Nat → Nat) => c.setReg (wDst w) (List.zipWith f (c.reg (wA w)) (c.reg (wB w)))
    let rowAt := fun (i : Nat) => (padAddr c w + i * (wC w + 1) * 64) % 2 ^ 32
    (op = 0x20 → done (.add run sett cell) [] (lanes (fun a b => (arith (wFmt w) (wSat w) (· + ·) add32 a b).val)) (fun _ => True)) ∧
    (op = 0x21 → done (.sub run sett cell) [] (lanes (fun a b => (arith (wFmt w) (wSat w) (· - ·) sub32 a b).val)) (fun _ => True)) ∧
    (op = 0x22 → done (.mul run sett cell) [] (lanes (fun a b => (arith (wFmt w) (wSat w) (· * ·) mul32 a b).val)) (fun _ => True)) ∧
    (op = 0x23 → done (.fma run sett cell) [] (c.setReg (wDst w) ((List.range 16).map (fun i =>
      r32 (((f32 (c.lane (wA w) i)).mul (f32 (c.lane (wB w) i))).add (f32 (c.lane (wC w) i)))))) (fun _ => True)) ∧
    (op = 0x24 → done (.max run sett cell) [] (lanes (extreme (wFmt w) true)) (fun q => q.ovf = r.ovf ∧ q.invalid = r.invalid)) ∧
    (op = 0x25 → done (.min run sett cell) [] (lanes (extreme (wFmt w) false)) (fun q => q.ovf = r.ovf ∧ q.invalid = r.invalid)) ∧
    (op = 0x27 → done (.addi run sett cell) [] (c.setReg (wDst w) ((c.reg (wA w)).map (fun a =>
      (intLane (wSat w) (signed 32 a + wImmS w)).val))) (fun q => q.invalid = r.invalid)) ∧
    (op = 0x28 → done (.logic run sett cell) [] (lanes (logicLane (wImm w))) (fun q => q.ovf = r.ovf ∧ q.invalid = r.invalid)) ∧
    (op = 0x12 → done (.aclr run sett cell) [] (c.setAcc (wDst w) zeroLanes) (fun q => q.ovf = r.ovf)) ∧
    (op = 0x13 → done (.amov run sett cell) [] (c.setReg (wDst w) (c.accu (wA w))) (fun q => q.ovf = r.ovf)) ∧
    (op = 0x10 → isIntFmt (wFmt w) = true →
      done (.dot run sett cell) [] (c.setAcc (wDst w) ((List.range 16).map (fun i =>
        wrap 32 (signed 32 ((c.accu (wDst w)).getD i 0) +
          ((dotTerms (wFmt w) (laneBytes (c.reg (wA w))) (r.padRead sett (rowAt i) 64)).map Fp.toInt).sum)))) (fun q => q.invalid = r.invalid)) ∧
    (op = 0x10 → isIntFmt (wFmt w) = false →
      done (.dot run sett cell) [] (c.setAcc (wDst w) ((List.range 16).map (fun i =>
        (dotLane (wFmt w) ((c.accu (wDst w)).getD i 0) (laneBytes (c.reg (wA w))) (r.padRead sett (rowAt i) 64)
          (fun k => c.lane 31 0 / 256 ^ k % 256) (fun k => fld (r.padRead sett ((c.lane 31 1 + 4 * i) % 2 ^ 32) 4) k 1)).val))) (fun _ => True)) ∧
    (op = 0x11 →
      done (.popc run sett cell) [] (c.setAcc (wDst w) ((List.range 16).map (fun i =>
        wrap 32 (signed 32 ((c.accu (wDst w)).getD i 0) + countBits (List.zipWith (fun x y => if wFmt w = 13 then x ^^^ y else x &&& y)
          (laneBytes (c.reg (wA w)) ++ laneBytes (c.reg (wA w + 1))) (r.padRead sett (rowAt i) 128)))))) (fun q => q.invalid = r.invalid)) ∧
    (op = 0x26 → bit w 4 = true → Does (.cvt run sett cell) s [.runs] (fun t => ∃ q scale, runBecomes s t run q ∧
      (isMx (wFmt w) = false → scale = unit) ∧ q = { withCell r sett cell (c.setReg (wDst w) ((List.range 16).map (fun i =>
        let v := (fmtValue (wFmt w) (elemAt (fmtBits (wFmt w)) (laneBytes (c.reg (wA w))) i)).mul scale
        if bit w 0 then fp32.encode (wSat w) v else wrap 32 (clampInt 0 v)))).next with ovf := r.ovf, invalid := q.invalid })) ∧
    (op = 0x26 → bit w 4 = false → (c.reg (wA w)).length = 16 → Does (.cvt run sett cell) s [.runs] (fun t => ∃ q l,
      runBecomes s t run q ∧ q = { withCell r sett cell (c.setReg (wDst w) l).next with ovf := r.ovf, invalid := q.invalid } ∧ l.length = 16 ∧
      let vs := (c.reg (wA w)).map (fun v => if bit w 0 then f32 v else .ofInt (signed 32 v) 0)
      l.take (fmtBits (wFmt w) / 2) = (bytesLanes (packElems (fmtBits (wFmt w)) (vs.map (fun x =>
        fmtEncode (wFmt w) (wSat w) (if isMx (wFmt w) then unscale (blockScale (wFmt w) vs) x else x))))).take (fmtBits (wFmt w) / 2))) ∧
    (op = 0x29 →
      done (.reduce run sett cell) [] (c.setReg (wDst w) (lset (c.reg (wDst w)) 0
        (tree (arith (wFmt w) (wSat w) (· + ·) add32) 4 (c.reg (wA w))).1)) (fun _ => True)) ∧
    (∀ l : List Nat, l.length = 16 → (tree (arith 0 false (· + ·) add32) 4 l).1 = l.sum % 2 ^ 32)

/-- A cell at NOP goes on; at LOOP it enters the body with its count; at HALT it halts, and cell 0 of image sett 0 gives the run's count; at SYNC it passes once every cell of the run has reached its count and waits there before; LDS and STS read and write 64 bytes of scratchpad, zero or discarded beyond SCRATCH_BYTES, where RANGE is set; SEND appends to a route with room and waits on a full one; RECV takes the oldest entry of a route and waits on an empty one. Nothing but the run changes. -/
def Obligations.CellControlAndRoutes : Prop :=
  ∀ (run sett cell op : Nat) (x : Work) (r : Run) (s : State), issues s run sett cell op x r →
    let c := r.cell sett cell
    let w := r.image.word sett cell c.pc
    let k := bits w 7 0
    let becomes := fun (i : Instr) (q : Run) => Does i s [.runs] (fun t => runBecomes s t run q)
    (op = 0x00 → becomes (.nopOp run sett cell) (withCell r sett cell c.next)) ∧
    (op = 0x01 → becomes (.loop run sett cell) (withCell r sett cell
      { c with pc := c.pc + 1, loops := (c.pc + 1, c.pc + 1 + bits w 21 16, bits w 15 0) :: c.loops })) ∧
    (op = 0x03 → becomes (.halt run sett cell)
      { withCell r sett cell { c with halted := true } with count := if sett = 0 ∧ cell = 0 then c.lane (wA w) 0 else r.count }) ∧
    (op = 0x02 → c.atSync = true → r.cells.all (fun d => decide (c.syncs ≤ d.syncs)) = true →
      becomes (.sync run sett cell) (withCell r sett cell { c with atSync := false }.next)) ∧
    (op = 0x02 → c.atSync = false → (∃ j, j ≠ 8 * sett + cell ∧ ∃ d, r.cells[j]? = some d ∧ d.syncs < c.syncs + 1) →
      becomes (.sync run sett cell) (withCell r sett cell { c with syncs := c.syncs + 1, atSync := true })) ∧
    (op = 0x06 → becomes (.lds run sett cell)
      { withCell r sett cell (c.setReg (wDst w) (bytesLanes (r.padRead sett (padAddr c w) 64))).next with
        range := r.range || decide (r.image.scratch < padAddr c w + 64) }) ∧
    (op = 0x07 → sett < r.scratch.length → (c.reg (wA w)).length = 16 →
      Does (.sts run sett cell) s [.runs] (fun t => ∃ q, runBecomes s t run q ∧ q.cells = (withCell r sett cell c.next).cells ∧
        q.range = (r.range || decide (r.image.scratch < padAddr c w + 64)) ∧
        (∀ a, q.padRead sett a 1 = if padAddr c w ≤ a ∧ a < padAddr c w + 64 ∧ a < r.image.scratch
          then slice (laneBytes (c.reg (wA w))) (a - padAddr c w) 1 else r.padRead sett a 1) ∧
        (∀ j a, j ≠ sett → q.padRead j a 1 = r.padRead j a 1))) ∧
    (op = 0x30 → (r.route k).length < r.image.depth k → k < r.routes.length → becomes (.send run sett cell)
      { withCell r sett cell c.next with routes := lset r.routes k (r.route k ++ [c.reg (wA w)]) }) ∧
    (op = 0x30 → r.image.depth k ≤ (r.route k).length → Does (.send run sett cell) s [] (fun _ => True)) ∧
    (∀ v rest, op = 0x31 → r.route k = v :: rest → becomes (.recv run sett cell)
      { withCell r sett cell (c.setReg (wDst w) v).next with routes := lset r.routes k rest }) ∧
    (op = 0x31 → r.route k = [] → Does (.recv run sett cell) s [] (fun _ => True))

/-- LDM of a line in the L1 takes the L1's copy; of a line that is not, it fills it from memory first. A whole-line STM leaves its 64 bytes dirty in the L1 and memory as it was; L1_WRITE_BACK of a line of HBM or DDR writes its dirty bytes and drops the line. MCPY copies memory to scratchpad and MPUT scratchpad to memory, once the L1 holds no line of the range. AMO replaces its field by the operation's new value and gives the old one, zero-extended. Poison in what an access reads ends the run with POISONED and the failing cell. What is said of bytes and outputs is for accesses granted no line of an extent, behind which a waiting host request would go on. -/
def Obligations.CellMemoryAccesses : Prop :=
  ∀ (run sett cell op : Nat) (x : Work) (r : Run) (host : Bytes) (s s' s'' : State), issues s run sett cell op x r → r.w = run →
    let c := r.cell sett cell
    let w := r.image.word sett cell c.pc
    let who := some (sett, cell)
    let pair := c.pair (wA w) (wC w)
    let a := wrap 64 ((pair : Int) + wImmS w)
    let n := 64 * wImm w
    let f := if bit w 4 then 8 else 4
    sett < r.l1.length → sett < r.scratch.length →
    (op = 0x04 → a % 64 = 0 → addrClass a = 3 →
      (∀ m l, clear x s → s.locate x.tenancy x.xltRoot a 64 false = (.mem m, s) → r.cached sett m = some l →
        Does (.ldm run sett cell host) s (.runs :: accessParts x s) (fun t => runBecomes s t run
          (withCell r sett cell (c.setReg (wDst w) (bytesLanes (slice l.data 0 64))).next))) ∧
      (∀ m, clear x s → s.locate x.tenancy x.xltRoot a 64 false = (.mem m, s) → r.cached sett m = none → m / 2 ^ 48 ≠ 2 →
        s.gateBy x who [(a, 64, false)] = .go s' → (r.ways sett m).length < 8 →
        (s.poisonedIn m 64 = false → Does (.ldm run sett cell host) s (.runs :: accessParts x s') (fun t => runBecomes s t run
          { withCell r sett cell (c.setReg (wDst w) (bytesLanes (s.readDev m 64))).next with
            l1 := lset r.l1 sett (r.l1Of sett ++ [{ addr := m, data := s.readDev m 64, dirty := List.replicate 64 false }]) })) ∧
        (s.poisonedIn m 64 = true → Does (.ldm run sett cell host) s (.runs :: accessParts x s') (fun t => runBecomes s t run
          { r with ended := some (0x32, 8 * sett + cell) })))) ∧
    (op = 0x05 → a % 64 = 0 → addrClass a = 3 → (c.reg (wB w)).length = 16 →
      ∀ m l, s.locate x.tenancy x.xltRoot a 64 true = (.mem m, s) → r.cached sett m = some l →
        Does (.stm run sett cell) s (.runs :: accessParts x s) (fun t => ∃ q k, runBecomes s t run q ∧ q.cells = (withCell r sett cell c.next).cells ∧
          q.cached sett m = some k ∧ k.data = laneBytes (c.reg (wB w)) ∧ k.dirty = List.replicate 64 true)) ∧
    (∀ l, (r.l1Of sett).filter (fun k => k.addr == l.addr) = [l] → l.addr / 2 ^ 48 ≤ 1 → l.data.length = 64 → l.dirty.length = 64 → s.poison = [] → s.firstTouch = [] →
      Does (.l1WriteBack run sett l.addr) s [.runs, .memory] (fun t => (∀ q, t.run run = some q → q.cached sett l.addr = none) ∧
        ∀ y, t.byteAt y = if l.addr ≤ y ∧ y < l.addr + 64 ∧ l.dirty.getD (y - l.addr) false = true then l.data.getD (y - l.addr) 0
          else s.byteAt y)) ∧
    (op = 0x08 → s.clearRange x run sett pair n = .go s' → s'.gateBy x who [(pair, n, false)] = .go s'' →
      (s''.poisonedAt x pair n = true → ∀ q, s''.run run = some q → q.ended = none → Does (.mcpy run sett cell host) s waitParts (fun t =>
        ∃ p, t.run run = some p ∧ p.ended = some (0x32, 8 * sett + cell))) ∧
      (s''.poisonedAt x pair n = false → ∀ q, s''.run run = some q → q.cells = r.cells →
        Does (.mcpy run sett cell host) s waitParts (fun t => ∃ p, t.run run = some p ∧
          p.cells = (withCell r sett cell c.next).cells ∧
          p.scratch = ((q.padWrite sett (c.lane (wB w) 0) (s''.readBy x who pair n host))).scratch))) ∧
    (op = 0x09 → clear x s → s.cellStores run who = [] → addrClass pair = 0 → (r.l1Of sett) = [] → sends s x.port → n ≠ 0 →
      (∀ p ∈ pagesOf pair n, s.pageGranted x p true = true) →
      Does (.mput run sett cell) s (plus [.out, .runs] (accessParts x s)) (fun t =>
        t.out = s.out ++ [Output.dma x.port x.pasid pair (r.padRead sett (c.lane (wB w) 0) n)] ∧
        runBecomes s t run { withCell r sett cell c.next with range := r.range || decide (r.image.scratch < c.lane (wB w) 0 + n) })) ∧
    (op = 0x0A → pair % f = 0 → addrClass pair = 3 → (r.l1Of sett) = [] → s.fabric.requests = [] →
      ∀ m, clear x s → s.locate x.tenancy x.xltRoot pair f true = (.mem m, s) → m / 2 ^ 48 ≤ 1 → s.poison = [] →
        s.gateBy x who [(pair, f, true)] = .go s' →
        let b := laneBytes (c.reg (wB w))
        let old := leNat (s.readDev m f)
        Does (.amo run sett cell) s (plus [.runs, .memory, .fill, .firstTouch] (accessParts x s')) (fun t =>
          leNat (t.readDev m f) = atomicNew (bits w 3 0) f old (fld b 0 f) (fld b 8 f) % 2 ^ (8 * f) ∧ memOnly s t [(m, f)] ∧
          runBecomes s t run (withCell r sett cell (c.setReg (wDst w) (amoLanes old)).next)))

/-- KERNEL_LOAD of an image that R313 or R315 refuses ends with its error and changes nothing else; an image that passes, with room in the tenancy's DDR, is LOADED and counts IMAGE_BYTES. An unload makes a LOADED id FREE and of a FREE one is STATE_ERROR, detail 32. KERNEL_RUN of a FREE id is STATE_ERROR, detail 32, ITERS out of range BAD_FIELD, detail 36, and otherwise the run waits for setts in the den of R320 with every register zero. ITERATION_END with every cell halted counts the iteration and starts the next. RUN_COMPLETE of a run that has made its iterations, with no dirty line, completes with its count and flags; of one that an access ended, with that status and cell. SETT_FAIL of a sett in use takes its logical sett out of service until the next frame boundary and records it as failed. What is said of bytes and outputs is for accesses granted no line of an extent, behind which a waiting host request would go on. -/
def Obligations.KernelsAndRuns : Prop :=
  ∀ (w : Nat) (x : Work) (image d0 d1 : Bytes) (s s' : State),
    let id := fld x.desc 32 2 % 4096
    let n := fld x.desc 36 4
    (startable s w x 0x40 → (descOp0 x.desc ≠ 0 ∨ n ≠ 0) → readable s x [(descOp0 x.desc, max 128 (min n (2 ^ 21)))] s' →
      let b := s'.readAt x (descOp0 x.desc) (max 128 (min n (2 ^ 21))) image
      (∀ r, s'.loadFault b x.tenancy n = some r →
        Does (.kernelLoad w image) s (plus [.works, .freeCount] (accessParts x s')) (fun t => hasResult t w r)) ∧
      (∀ a, s'.loadFault b x.tenancy n = none → s'.imagePlace x.tenancy n = some a →
        Does (.kernelLoad w image) s (plus [.works, .freeCount, .images, .memory, .poison, .fill, .firstTouch] (accessParts x s')) (fun t =>
          tget t.images id = some (parseImage b x.tenancy a) ∧ (∀ j, j ≠ id → tget t.images j = tget s.images j) ∧
          (clear x s' → memOnly s t [(a, b.length)]) ∧ hasResult t w (Result.done n)))) ∧
    (startable s w x 0x40 → descOp0 x.desc = 0 → n = 0 →
      (tget s.images id = none → Does (.kernelUnload w) s [.works, .waits] (fun t => hasResult t w (Result.err 0x10 32))) ∧
      (∀ i, tget s.images id = some i → Does (.kernelUnload w) s [.works, .waits, .images, .fill] (fun t => tget t.images id = none ∧
        (∀ j, j ≠ id → tget t.images j = tget s.images j) ∧ hasResult t w (Result.done 0)))) ∧
    (startable s w x 0x41 → s.run w = none →
      (s.runImage x.desc = none → Does (.kernelRun w) s [.works, .waits] (fun t => hasResult t w (Result.err 0x10 32))) ∧
      (∀ i, s.runImage x.desc = some i → n = 0 ∨ i.iterMax < n →
        Does (.kernelRun w) s [.works, .waits] (fun t => hasResult t w (Result.err 0x12 36))) ∧
      (∀ i den, s.runImage x.desc = some i → n ≠ 0 → n ≤ i.iterMax → s.runDen x.tenancy x.port (fld x.desc 34 1) i.setts = some den →
        Does (.kernelRun w) s [.runs] (fun t => t.runs = s.runs ++ [newRun x i den] ∧ (newRun x i den).setts = [] ∧
          (newRun x i den).iterDone = 0 ∧ ∀ c ∈ (newRun x i den).cells, c = Cell.start))) ∧
    (∀ r, s.run w = some r → r.resident = none → r.ended = none → r.stalled = false →
      (r.setts ≠ [] → r.iterDone < r.iters → r.cells.all (·.halted) = true →
        Does (.iterationEnd w) s [.runs] (fun t => runBecomes s t w { r with
          iterDone := r.iterDone + 1, cells := if r.iterDone + 1 < r.iters then r.cells.map Cell.again else r.cells })) ∧
      (s.work w = some x → x.result = none → r.iters ≤ r.iterDone → r.l1.all (· == []) = true →
        Does (.runComplete w d0 d1) s [.runs, .works, .waits] (fun t => t.run w = none ∧ (∀ v, v ≠ w → t.run v = s.run v) ∧
          hasResult t w (r.result (Result.done r.count))))) ∧
    (∀ r st cell, s.run w = some r → s.work w = some x → x.result = none → r.stalled = false → r.ended = some (st, cell) →
      r.l1.all (· == []) = true →
      Does (.runComplete w d0 d1) s [.runs, .works, .waits] (fun t => t.run w = none ∧ hasResult t w (r.result (Result.err st cell)))) ∧
    (∀ den phys k : Nat, den < 8 → phys < 18 → s.failedSetts.contains (den, phys) = false →
      (List.range 16).find? (fun k => tgetD s.settMap (16 * den + k) k == phys) = some k →
      Does (.settFail den phys) s [.out, .freeCount, .regs, .counters, .runs, .settMap, .failedSetts, .settWait, .health, .svcPrev, .errs]
        (fun t => (den, phys) ∈ t.failedSetts ∧ tgetD t.settMap (16 * den + k) k = 18 ∧ (16 * den + k, phys) ∈ t.settWait))

/-- With operands readable: TABLE_LOAD of an image with a non-finite part is BAD_FIELD, detail 8; on an ACTIVE id it replaces the staged version, on a FREE one it creates the table with the version current and step 0 completed. TABLE_SWITCH without a staged version of its TAG is STATE_ERROR, detail 32, and its switch at the boundary makes the staged version current and completes it. EMB_GATHER with every index in the table and every row at hand writes one pooled row per bag (per index for NONE) and completes with the step it read; an index outside the table is BAD_FIELD, detail 8. EMB_UPDATE takes its records into the pending state in record order and leaves every row as it is. EMB_STEP_END of another step than the next is STATE_ERROR, detail 32; of the next it begins its phases; its publication makes the new copies current, and every other row stays. What is said of bytes and outputs is for accesses granted no line of an extent, behind which a waiting host request would go on. -/
def Obligations.EmbeddingTables : Prop :=
  ∀ (w : Nat) (x : Work) (y : Table) (b0 b1 : Bytes) (s s' s1 s'' : State),
    let d := x.desc
    let tb := descTable d
    let u := s.asAdmitted x tb 0x0403000
    (startable s w x 0x33 →
      let rows := fld d 44 4
      let stride := rowStride (fld d 34 1) (fld d 36 2)
      readable s x [(descOp0 d, rows * stride)] s' →
      let b := s'.readAt x (descOp0 d) (rows * stride) b0
      let ok := (List.range rows).all (fun i => rowFinite (fld d 34 1) (fld d 36 2) (slice b (i * stride) stride))
      (s.table tb = none → ok = false →
        Does (.tableLoad w b0) s (.works :: accessParts x s') (fun t => hasResult t w (Result.err 0x12 8))) ∧
      (s.table tb = some y → ok = true → y.fmt = fld d 34 1 → y.tier = fld d 35 1 → y.dim = fld d 36 2 → y.rows = rows → y.pendRows = fld d 48 4 →
        Does (.tableLoad w b0) s (plus [.works, .tables] (accessParts x s')) (fun t => (∃ v, t.table tb = some { y with staged := some v } ∧
          v.tag = fld d 40 4 ∧ ∀ i, i < rows → tget v.rows i = some (slice b (i * stride) stride)) ∧
          (∀ i, i ≠ tb → t.table i = s.table i) ∧ hasResult t w (Result.done 0))) ∧
      (s.table tb = none → ok = true →
        (s'.tableAreas x.tenancy (fld d 35 1) s'.newTableDen rows (fld d 48 4) stride (fld d 36 2)).isSome = true →
        Does (.tableLoad w b0) s (plus [.works, .tables, .freeCount] (accessParts x s')) (fun t => (∃ v, t.table tb = some v ∧
          v.tenancy = x.tenancy ∧ v.cur.tag = fld d 40 4 ∧ v.doneStep = 0 ∧ v.staged = none ∧
          ∀ i, i < rows → tget v.cur.rows i = some (slice b (i * stride) stride)) ∧
          (∀ i, i ≠ tb → t.table i = s.table i) ∧ hasResult t w (Result.done 0)))) ∧
    (startable s w x 0x34 → s.table tb = some y → y.switch = none →
      (y.staged.any (fun v => v.tag == fld d 40 4) = false →
        Does (.tableSwitch w) s [.works, .waits] (fun t => hasResult t w (Result.err 0x10 32))) ∧
      (y.staged.any (fun v => v.tag == fld d 40 4) = true → s.unapplied tb y x = false → fld d 44 4 = 0 →
        Does (.tableSwitch w) s [.tables] (fun t => t.table tb = some { y with switch := some (w, max (s.frame + 1) (x.frame + 1), true) } ∧
          (∀ i, i ≠ tb → t.table i = s.table i)))) ∧
    (∀ i v f late, s.table i = some y → y.switch = some (w, f, late) → y.staged = some v → f ≤ s.frame → s.work w = some x →
      Does (.tableSwitchApply i) s [.works, .waits, .tables] (fun t => (∃ z, t.table i = some z ∧ z.cur = v ∧ z.staged = none ∧ z.switch = none) ∧
        (∀ j, j ≠ i → t.table j = s.table j) ∧ hasResult t w { Result.done 0 with flags := 2 * b2n late })) ∧
    (startable s w x 0x30 → s.table tb = some y → addrClass (descOp0 d) = 0 → addrClass (descOp1 d) = 0 → addrClass (descRes d) = 0 →
      letThrough u x (((descOp0 d, gatherBytes d) :: (if fld d 34 1 = 0 then [] else [(descOp1 d, 4 * (fld d 36 2 + 1))])).map
        (fun r => (r.1, r.2, false))) s' → y.areas.any (fun a => s'.poisonedIn a.1 a.2) = false →
      let n := fld d 40 4
      let pool := fld d 34 1
      let idx := (List.range n).map (fun i => fld (slice b0 0 (gatherBytes d)) (4 * i) 4)
      let offs := (List.range (fld d 36 2 + 1)).map (fun i => fld (slice b1 0 (4 * (fld d 36 2 + 1))) (4 * i) 4)
      let weight := fun i => if bit (descFlags d) 1 then fld (slice b0 0 (gatherBytes d)) (roundup (4 * n) 64 + 4 * i) 4 else 0x3F800000
      let val := fun i => (weight i, rowElems y.fmt y.dim ((s'.gatherRow x tb y (idx.getD i 0)).getD []))
      let bags := if pool = 0 then n else fld d 36 2
      let bag := fun j => if pool = 0 then [val j] else
        (List.range (offs.getD (j + 1) 0 - offs.getD j 0)).map (fun i => val (offs.getD j 0 + i))
      let size := y.dim * (if fld d 35 1 = 0 then 4 else 2)
      (idx.any (fun r => !s'.rowKnown tb y r) = true →
        Does (.embGather w b0 b1) s [.works, .waits, .regs] (fun t => hasResult t w (Result.err 0x12 8) ∧
          (s.bank tb 0x0403000 = x.group → t.regs = s.regs))) ∧
      (idx.all (fun r => s'.rowKnown tb y r) = true → pool = 0 ∨ offsetsLegal offs n = true → offs.all (fun o => decide (o ≤ n)) = true →
        idx.all (fun r => (s'.gatherRow x tb y r).isSome) = true → hasSett s' w y.homeDen x.tenancy s1 →
        letThrough s1 x ((List.range bags).map (fun j => (descRes d + j * roundup size 64, size, true))) s'' → clear x s'' →
        sends s'' x.port → 0 < size →
        Does (.embGather w b0 b1) s (plus [.out, .works, .tables, .regs] (plus settParts (accessParts x s''))) (fun t =>
          t.out = s''.out ++ (List.range bags).map (fun j => Output.dma x.port x.pasid (descRes d + j * roundup size 64) (poolRow pool (fld d 35 1) y.dim (bag j))) ∧
          hasResult t w { Result.done bags with snap := x.snap, b24 := (y.versionAt x.frame).tag }))) ∧
    (startable s w x 0x31 → s.table tb = some y →
      (s.works.takeWhile (fun z => z.id != w)).any (fun z => z.opcode == 0x31 && descTable z.desc == tb && z.result.isNone) = false →
      let n := fld d 34 2
      let stride := roundup (4 * y.dim) 64
      readable s x [(descOp0 d, 8 * n), (descOp1 d, n * stride)] s' →
      let r := s'.readAt x (descOp0 d) (8 * n) b0
      let v := s'.readAt x (descOp1 d) (n * stride) b1
      let recs := (List.range n).map (fun i =>
        (fld r (8 * i) 4, fld r (8 * i + 4) 1, (List.range y.dim).map (fun e => fld v (i * stride + 4 * e) 4)))
      let z := recs.foldl (fun z e => z.update x.snap s'.myRank e.1 e.2.1 e.2.2) y
      (List.range n).all (fun i => s'.rowKnown tb y (fld r (8 * i) 4) && decide (fld r (8 * i + 4) 1 ≤ 1) && zeroRange r (8 * i + 5) 3) = true →
      recs.all (fun e => e.2.2.all (fun u => (f32 u).isFinite)) = true →
      (z.pending.filter (fun p => p.step == x.snap && p.src == s'.myRank)).length ≤ y.pendRows →
      Does (.embUpdate w b0 b1) s (plus [.works, .tables] (accessParts x s')) (fun t =>
        t.table tb = some { y with
          pending := z.pending, updFirst := if (tget y.updFirst x.snap).isSome then y.updFirst else tset y.updFirst x.snap w } ∧
        (∀ i, i ≠ tb → t.table i = s.table i) ∧ hasResult t w { Result.done n with snap := x.snap })) ∧
    (startable s w x 0x32 → s.table tb = some y → y.stepEnd = none →
      (fld d 40 8 ≠ y.doneStep + 1 → Does (.embStepEnd w) s [.works, .waits] (fun t => hasResult t w (Result.err 0x10 32))) ∧
      (fld d 40 8 = y.doneStep + 1 →
        s.works.any (fun z => descTable z.desc == tb && z.result.isNone &&
          ((z.opcode == 0x31 && z.snap == fld d 40 8) || (z.opcode == 0x30 && decide (z.snap + 1 < fld d 40 8)))) = false →
        Does (.embStepEnd w) s (plus [.tables] settParts) (fun t => ∃ z e, t.table tb = some z ∧ z.stepEnd = some e ∧
          e.w = w ∧ e.step = fld d 40 8 ∧ e.phase = 1 ∧ z.cur = y.cur ∧ z.doneStep = y.doneStep))) ∧
    (∀ i e f, s.table i = some y → y.stepEnd = some e → e.phase = 1 → e.combined = some f → f < s.frame → s.time.lastFrame < s.frame →
      s.embSize i = 1 → (e.newRows.map (·.1)).Nodup →
      Does (.embPublish i) s [.out, .works, .waits, .tables, .fabric] (fun t => ∃ z, t.table i = some z ∧
        (∀ r ∈ e.newRows, tget z.cur.rows r.1 = some r.2 ∧ tget z.cur.rowStep r.1 = some e.step) ∧
        (∀ r, (∀ n ∈ e.newRows, n.1 ≠ r) → tget z.cur.rows r = tget y.cur.rows r)))

/-- A message of a table group whose key is not the table's is counted in WL_REFUSE and changes nothing else. EMB_PEND keeps each row's state of its source once, and none of a step that has completed; EMB_MARKER records its phase and source; EMB_COPY keeps a copy of a row of the sender's shard that is not older than the one held. ROW_REPLICATE of a row homed elsewhere that passes its threshold asks the row's home for it, once; ROW_PROMOTE begins the copy of a hot row of a TIER 1 table; ROW_DIRECTORY_SWITCH in a later frame names HBM for it; below the thresholds nothing changes. -/
def Obligations.TableGroupsAndHotRows : Prop :=
  ∀ (port : Nat) (m : Msg) (y : Table) (tb row : Nat) (s : State),
    let i := m.target / 2 ^ 52
    (accepts s port 0x28 m → s.table i = some y → m.key ≠ s.embKey i →
      Does (.embPend port m) s [.counters] (fun t => counted s t (0x080A000 + 8 * y.tenancy))) ∧
    (accepts s port 0x29 m → s.table i = some y → m.key ≠ s.embKey i →
      Does (.embMarker port m) s [.counters] (fun t => counted s t (0x080A000 + 8 * y.tenancy))) ∧
    (accepts s port 0x2A m → s.table i = some y → m.key ≠ s.embKey i →
      Does (.embCopy port m) s [.counters] (fun t => counted s t (0x080A000 + 8 * y.tenancy))) ∧
    (accepts s port 0x28 m → s.table i = some y → m.key = s.embKey i → 1 < s.embSize i →
      Does (.embPend port m) s [.tables] (fun t => (∀ j, j ≠ i → t.table j = s.table j) ∧ ∃ z, t.table i = some z ∧
        (y.pending <+: z.pending) ∧ z.cur = y.cur ∧
        (∀ n, 8 + (n + 1) * (8 + 4 * y.dim) ≤ m.payload.length → y.doneStep < fld m.payload 0 8 →
          s.rowKnown i y (fld m.payload (8 + n * (8 + 4 * y.dim)) 4) = true →
          ∃ p, z.pend (fld m.payload 0 8) m.src (fld m.payload (8 + n * (8 + 4 * y.dim)) 4) = some p) ∧
        (fld m.payload 0 8 ≤ y.doneStep → z = y))) ∧
    (accepts s port 0x29 m → s.table i = some y → m.key = s.embKey i → 1 < s.embSize i → y.stepEnd = none →
      y.doneStep < fld m.payload 0 8 → y.markers.contains (fld m.payload 0 8, fld m.payload 8 1, markerOf m) = false →
      Does (.embMarker port m) s [.tables] (fun t =>
        t.table i = some { y with markers := y.markers ++ [(fld m.payload 0 8, fld m.payload 8 1, markerOf m)] } ∧ (∀ j, j ≠ i → t.table j = s.table j))) ∧
    (accepts s port 0x2A m → s.table i = some y → m.key = s.embKey i → 1 < s.embSize i →
      Does (.embCopy port m) s [.tables] (fun t => (∀ j, j ≠ i → t.table j = s.table j) ∧ ∃ v, t.table i = some { y with cur := v } ∧
        v.rows = y.cur.rows ∧ v.tag = y.cur.tag ∧ (y.cur.kept <+: v.kept) ∧
        (∀ n, 8 + (n + 1) * (8 + rowStride y.fmt y.dim) ≤ m.payload.length →
          ∃ r, tget v.replicas (s.rowGlobal i (m.ctx % 256) (fld m.payload (8 + n * (8 + rowStride y.fmt y.dim)) 4)) = some r ∧ fld m.payload 0 8 ≤ r.1))) ∧
    (s.table tb = some y →
      (s.hotCtl tb 15 0 ≠ 0 → s.hotCtl tb 15 0 < tgetD y.reads row 0 →
        (y.cur.replicas.filter (fun r => !s.rowHere tb r.1)).length < s.hotCtl tb 31 16 →
        s.rowKnown tb y row = true → s.rowHere tb row = false → tget y.cur.replicas row = none → s.rowAsked noWork row = false →
        ∀ home, s.shardHome tb (s.rowShard tb row) = some home → (s.routePort home).isSome = true → 0 < rowStride y.fmt y.dim →
        Does (.rowReplicate tb row) s [.out, .fabric] (fun t => t.rowAsked noWork row = true)) ∧
      (tgetD y.reads row 0 ≤ s.hotCtl tb 15 0 → Does (.rowReplicate tb row) s [] (fun _ => True)) ∧
      (y.tier = 1 → s.hotCtl tb 47 32 ≠ 0 → s.hotCtl tb 47 32 < tgetD y.reads row 0 →
        y.inHbm.length + y.promoting.length < s.hotCtl tb 63 48 →
        s.rowHere tb row = true → y.inHbm.contains row = false → tget y.promoting row = none → s.bgServes (denMap y.homeDen) y.tenancy = true →
        Does (.rowPromote tb row) s [.tables] (fun t => t.table tb =
          some { y with promoting := tset y.promoting row (s.frame, s.rowHereAt tb y row s.frame y.doneStep) } ∧
          (∀ j, j ≠ tb → t.table j = s.table j))) ∧
      (tgetD y.reads row 0 ≤ s.hotCtl tb 47 32 → Does (.rowPromote tb row) s [] (fun _ => True)) ∧
      (∀ f b, tget y.promoting row = some (f, b) →
        (f < s.frame → Does (.rowDirectorySwitch tb row) s [.tables] (fun t =>
          t.table tb = some { y with promoting := tdel y.promoting row, inHbm := y.inHbm ++ [row] } ∧ (∀ j, j ≠ tb → t.table j = s.table j))) ∧
        (s.frame ≤ f → Does (.rowDirectorySwitch tb row) s [] (fun _ => True))))

/-- For every element type of Table 9.8 and every block of 1 to 65,536 bytes, whatever coded body the encoder of the part would choose, the block as Erord stores it decodes under R393 to exactly the bytes it was made from; it is a multiple of 64 bytes long and at most 65,600. -/
def Obligations.StoredBlocksDecodeToTheirBytes : Prop :=
  ∀ (elem : Nat) (raw : Bytes), elem ≤ 7 → 1 ≤ raw.length → raw.length ≤ 65536 →
    decodeBlock (encodeBlock elem raw) = .ok raw ∧ (encodeBlock elem raw).length % 64 = 0 ∧ (encodeBlock elem raw).length ≤ 65600

/-- CREATE above Q_TENSOR_BYTES is QUOTA_EXCEEDED, detail 2; of a NAME in use STATE_ERROR, detail 48; once started, of a T1 tensor of zeros with room and its stacks' slots it makes the LIVE record and completes with the handle and LOC. RELEASE, in its turn, frees the entry and gives the storage of a T2 tensor to zero-fill; before its turn it does nothing. A started TENSOR_GET of a T1 tensor writes its blocks to the host and completes with LENGTH and STORED; a started TENSOR_PUT to one writes the range, no other byte of device memory, and counts a writer. Work on a handle released meanwhile is DENIED_TENANCY. What is said of bytes and outputs is for accesses granted no line of an extent, behind which a waiting host request would go on. -/
def Obligations.TensorObjects : Prop :=
  ∀ (w a : Nat) (x : Work) (y : Tensor) (j : TensorJob) (before : List TensorJob) (b buffer : Bytes) (bad : List Nat) (s s1 s' : State),
    let d : Bytes := x.desc
    let h := fld d 32 4
    let n := fld d 48 8
    let off := fld d 40 8
    let mine := fun (k : TensorJob) => k.w == w && k.trail.isNone && k.hold.isNone
    let started := s.jobs.find? mine = some j ∧ j.started = true ∧ j.moves = true ∧ j.sent = none
    (startable s w x 0x20 → fld d 38 1 = 0 →
      (s.jobs.any (fun k => k.w == w && k.create && k.started) = false → (s.ctx x.ctx).qTensorBytes < s.tensorBytes x.ctx + fld d 40 8 →
        Does (.tensorCreate w b) s [.works, .waits] (fun t => hasResult t w (Result.err 0x60 2))) ∧
      (s.jobs.any (fun k => k.w == w && k.create && k.started) = false → s.tensorBytes x.ctx + fld d 40 8 ≤ (s.ctx x.ctx).qTensorBytes →
        s.tensors.any (fun e => e.2.state != 0 && e.2.tenancy == x.tenancy && e.2.name == fld d 48 8) = true →
        Does (.tensorCreate w b) s [.works, .waits] (fun t => hasResult t w (Result.err 0x10 48))) ∧
      (started → j.create = true → descOp0 d = 0 → fld d 36 1 = 1 → fld d 40 8 ≤ s.hbmFree x.tenancy →
        s.pick (s.hbmUse x.tenancy (s.tensorDen x.port / 4)) (fld d 40 8) 64 = some a →
        servedBy s w (jobCell j) x.tenancy [] (s.squirrelUnits (s.tensorDen x.port) [(a, fld d 40 8)]) s' →
        Does (.tensorCreate w b) s
          (plus [.works, .tensors, .tensorGen, .jobs, .freeCount, .memory, .poison, .fill, .firstTouch] (accessParts x s')) (fun t =>
          (∃ z, tget t.tensors (handleIx j.handle) = some z ∧ z.state = 1 ∧ z.tier = 1 ∧ z.loc = a ∧ z.bytes = fld d 40 8 ∧
            z.stored = fld d 40 8 ∧ z.name = fld d 48 8 ∧ z.tenancy = x.tenancy ∧ z.ownerCtx = x.ctx ∧ z.homeDen = s.tensorDen x.port ∧
            z.gen = handleGen j.handle) ∧
          (∀ k, k ≠ handleIx j.handle → tget t.tensors k = tget s.tensors k) ∧
          (s.inv → s.firstTouch = [] → clear x s' → memOnly s t [(a, fld d 40 8)]) ∧
          hasResult t w { Result.done j.handle with b24 := logical a }))) ∧
    (startable s w x 0x20 → fld d 38 1 = 1 → s.findJob mine = some (before, j) →
      (jobReady before j = false → Does (.tensorRelease w) s [] (fun _ => True)) ∧
      (jobReady before j = true → s.tensorOf x.tenancy h = none →
        Does (.tensorRelease w) s [.works, .waits] (fun t => hasResult t w (Result.err 0x21 0))) ∧
      (jobReady before j = true → s.tensorOf x.tenancy h = some y → y.tier = 2 →
        Does (.tensorRelease w) s [.works, .waits, .tensors, .fill] (fun t => t.tensors = tdel s.tensors (handleIx h) ∧
          t.fill = s.fill ++ fillItems y.loc (roundup y.stored 4096) y.tenancy ∧ hasResult t w (Result.done 0)))) ∧
    (startable s w x 0x22 → started →
      (s.tensorOf x.tenancy j.handle = none →
        Does (.tensorGet w ⟨buffer, bad⟩) s [.works, .waits] (fun t => hasResult t w (Result.err 0x21 0))) ∧
      (s.tensorOf x.tenancy j.handle = some y → y.tier = 1 → 0 < n → off + n ≤ y.bytes → off % 65536 = 0 → addrClass (descRes d) = 0 →
        letThrough s x [(descRes d, n, true)] s1 → servedBy s1 w (jobCell j) y.tenancy [] (s1.squirrelUnits y.homeDen [(y.loc + off, n)]) s' →
        clear x s' → sends s x.port → s.poisonedIn y.loc y.bytes = false →
        Does (.tensorGet w ⟨buffer, bad⟩) s (plus [.out, .works] (accessParts x s')) (fun t =>
          t.out = s.out ++ (List.range ((n + 65535) / 65536)).map (fun k => Output.dma x.port x.pasid (descRes d + 65536 * k)
            ((s.readDev (y.loc + off + 65536 * k) (min 65536 (y.bytes - off - 65536 * k))).take (n - 65536 * k))) ∧
          hasResult t w { Result.done n with b24 := y.stored }))) ∧
    (startable s w x 0x23 → started →
      (s.tensorOf x.tenancy j.handle = none →
        Does (.tensorPut w b ⟨buffer, bad⟩) s [.works, .waits] (fun t => hasResult t w (Result.err 0x21 0))) ∧
      (s.tensorOf x.tenancy j.handle = some y → y.tier = 1 → off + n ≤ y.bytes → addrClass (descOp0 d) = 0 →
        letThrough s x [(descOp0 d, n, false)] s1 → servedBy s1 w (jobCell j) y.tenancy [] (s1.squirrelUnits y.homeDen [(y.loc + off, n)]) s' →
        s.firstTouch = [] →
        Does (.tensorPut w b ⟨buffer, bad⟩) s (plus [.works, .tensors, .memory, .poison] (accessParts x s')) (fun t =>
          tget t.tensors (handleIx j.handle) = some { y with writers := y.writers + 1 } ∧
          (∀ k, k ≠ handleIx j.handle → tget t.tensors k = tget s.tensors k) ∧
          (s.inv → clear x s' → memOnly s t [(y.loc + off, n)] ∧
            (s.poison = [] → ∀ k, k < n → t.byteAt (y.loc + off + k) = (slice b 0 n).getD k 0)) ∧
          hasResult t w { Result.done n with b24 := y.stored })))

/-- MOVE_START gives a piece of work that is ready and next a free move context of its tenancy: a GET or PUT starts, a CREATE takes its handle, a move with room sets STATE MOVING; while an earlier writer is at work it does nothing. TENSOR_MOVE, started, to the tier held completes with count 0; otherwise, with room, STATE becomes MOVING. MOVE_COMPLETE to T1, its media and slots serving it, makes the object LIVE at the target with its bytes there, LAST_FRAME and the number of blocks; a block that cannot be read leaves it LIVE as it was with that block's error. TRAIL_POST with an illegal entry is BAD_FIELD, detail 8, and posts a legal list. TRAIL_MOVE_START before its start does nothing; then an unknown handle is GONE, a tensor at its tier ALREADY, and any other enters the tensor's order as a writer. TRAIL_RETURN, once the trail has completed, of a tensor another writer completed on only ends the hold; of any other it enters the return in the tensor's order. What is said of bytes and outputs is for accesses granted no line of an extent, behind which a waiting host request would go on. -/
def Obligations.MovesAndTrails : Prop :=
  ∀ (w entry handle q c a r i : Nat) (x : Work) (y : Tensor) (j : TensorJob) (before : List TensorJob) (e : TrailEntry) (tr : Trail)
    (hd : TrailHold) (b buffer : Bytes) (bad : List Nat) (f : Nat × Nat) (s s' : State),
    let d : Bytes := x.desc
    let fresh := fun (k : TensorJob) => k.w == w && (k.handle == handle || k.create) && !k.started
    let mine := fun (k : TensorJob) => k.w == w && k.trail.isNone && k.hold.isNone
    let moving := fun (k : TensorJob) => k.w == w && k.handle == handle && k.started && k.writer && k.target != 0 && !k.create
    let others := fun (t : State) (h : Nat) => ∀ k, k ≠ handleIx h → tget t.tensors k = tget s.tensors k
    let joined := fun (t : State) (p : TensorJob → Prop) => t.jobs.length = s.jobs.length + 1 ∧ (∃ k, t.jobs.getLast? = some k ∧ p k) ∧
      ∀ (i : Nat) (u : TensorJob), s.jobs[i]? = some u → ∃ v : TensorJob, t.jobs[i]? = some v ∧ { v with ready := u.ready } = u
    (s.findJob fresh = some (before, j) → s.work w = some x →
      (s.jobOpen before j = false → Does (.moveStart handle w) s [] (fun _ => True)) ∧
      (s.jobOpen before j = true → j.trail = none → j.hold = none → j.moves = true → s.jobSquirrel j = some q → s.waitsBefore j q = false →
        s.freeMoveCtx j.tenancy q = some c →
        (j.create = false → j.target = 0 → Does (.moveStart handle w) s [.jobs] (fun t =>
          t.jobs = mapFirst (· == j) (fun _ => { j with started := true, move := some (q, c) }) s.jobs)) ∧
        (j.create = true → j.target = 0 → s.freeTensorIx j.tenancy = some i → Does (.moveStart handle w) s [.jobs] (fun t =>
          t.jobs = mapFirst (· == j) (fun _ => { j with started := true, move := some (q, c), handle := s.nextGen i * 2 ^ 20 + i }) s.jobs)) ∧
        (j.create = false → j.target ≠ 0 → s.tensorOf j.tenancy j.handle = some y → recordChecks y d = [] → y.tier ≠ j.target →
          s.roomFor y.tenancy y.die j.target y.bytes (if y.tier = 1 then streamLen (s.storedBlocks y []) else y.stored) = .ok a r →
          Does (.moveStart handle w) s [.jobs, .tensors, .freeCount] (fun t => tget t.tensors (handleIx j.handle) = some { y with state := 2 } ∧
            others t j.handle ∧ ∃ k ∈ t.jobs, k.w = w ∧ k.started = true ∧ k.move = some (q, c) ∧ k.room = r ∧
              k.dest = if r = 0 then none else some a)))) ∧
    (startable s w x 0x21 → s.jobs.find? mine = some j → j.moves = true → j.started = true → s.tensorOf x.tenancy j.handle = some y → y.state = 1 →
      recordChecks y d = [] →
      (y.tier = j.target → Does (.tensorMove w) s [.works, .waits, .freeCount] (fun t =>
        hasResult t w { Result.done 0 with b24 := y.b24 })) ∧
      (y.tier ≠ j.target → s.roomFor y.tenancy y.die j.target y.bytes (if y.tier = 1 then streamLen (s.storedBlocks y []) else y.stored) = .ok a r →
        Does (.tensorMove w) s [.tensors, .jobs, .freeCount] (fun t => tget t.tensors (handleIx j.handle) = some { y with state := 2 } ∧
          others t j.handle ∧ t.jobs = mapFirst (· == j) (fun _ => { j with dest := if r = 0 then none else some a, room := r }) s.jobs))) ∧
    (s.findJob moving = some (before, j) → s.work w = some x → x.stalled = false → x.result = none → s.tensorOf j.tenancy handle = some y →
      y.state = 2 → j.trail = none → j.hold = none → j.sent = none → j.dest = some a → j.target = 1 → (y.tier = 2 ∨ y.tier = 3) →
      servedBy s w (jobCell j) j.tenancy (s.readDies (s.blockGrains y 0 (blockCount y.bytes))) (s.squirrelUnits y.homeDen [(a, y.bytes)]) s' →
      let bs := s'.readBlocks y buffer 0 (blockCount y.bytes) bad
      (firstBad bs = none →
        Does (.moveComplete handle w ⟨buffer, bad⟩) s
          (plus [.works, .tensors, .jobs, .memory, .poison, .fill, .firstTouch, .badgers] (accessParts x s')) (fun t =>
          tget t.tensors (handleIx handle) = some { y with
            state := 1, tier := 1, loc := a, stored := y.bytes, lastFrame := s.frame % 2 ^ 32, writers := y.writers + 1 } ∧
          others t handle ∧ (s.inv → clear x s' → memOnly s t [(a, y.bytes)] ∧
            (s.poison = [] → s.firstTouch = [] → ∀ k, k < y.bytes → t.byteAt (a + k) = (rawOf bs).getD k 0)) ∧
          hasResult t w { Result.done (blockCount y.bytes) with b24 := logical a })) ∧
      (firstBad bs = some f →
        Does (.moveComplete handle w ⟨buffer, bad⟩) s
          (plus [.out, .regs, .counters, .errs, .badgers, .works, .tensors] (accessParts x s')) (fun t =>
          tget t.tensors (handleIx handle) = some { y with state := 1 } ∧ others t handle ∧
          hasResult t w (Result.err (if f.2 = 1 ∧ y.tier = 2 then 0x32 else 0x31) (f.2 + 256 * (f.1 % 2 ^ 16)))))) ∧
    (startable s w x 0x24 → s.trail w = none → readable s x [(descOp0 d, 32 * fld d 32 2)] s' →
      let l := s'.readAt x (descOp0 d) (32 * fld d 32 2) b
      (entriesBad l (fld d 32 2) = true → Does (.trailPost w b) s (.works :: accessParts x s') (fun t => hasResult t w (Result.err 0x12 8))) ∧
      (entriesBad l (fld d 32 2) = false → Does (.trailPost w b) s (plus [.trails, .freeCount] (accessParts x s')) (fun t => ∃ z, t.trail w = some z ∧
        z.entries.length = fld d 32 2 ∧ ∀ k, k < fld d 32 2 → ∃ u, z.entries[k]? = some u ∧ u.handle = fld l (32 * k) 4 ∧
          u.deadline = fld l (32 * k + 8) 8 ∧ s.time.now ≤ u.start ∧ u.outcome = none))) ∧
    (s.trail w = some tr → tr.entries[entry]? = some e → s.work w = some x → e.outcome = none → x.result = none →
      s.jobs.any (fun k => k.trail == some (w, entry)) = false → (tr.entries.filterMap (·.outcome)).length + 1 < tr.entries.length →
      (s.time.now < e.start → Does (.trailMoveStart w entry) s [] (fun _ => True)) ∧
      (e.start ≤ s.time.now → s.tensorOf x.tenancy e.handle = none →
        Does (.trailMoveStart w entry) s [.trails] (fun t => t.trailEntry w entry = some { e with outcome := some 3 })) ∧
      (e.start ≤ s.time.now → s.tensorOf x.tenancy e.handle = some y → y.tier = e.tier →
        Does (.trailMoveStart w entry) s [.trails] (fun t => t.trailEntry w entry = some { e with outcome := some 2 })) ∧
      (e.start ≤ s.time.now → s.tensorOf x.tenancy e.handle = some y → y.tier ≠ e.tier →
        Does (.trailMoveStart w entry) s [.trails, .jobs] (fun t => t.trailEntry w entry = some { e with source := y.tier } ∧
          joined t (fun k => k.handle = e.handle ∧ k.writer = true ∧ k.target = e.tier ∧ k.trail = some (w, entry) ∧ k.started = false)))) ∧
    (s.holds.find? (fun k => k.handle == handle && k.w == w && decide (k.time ≤ s.time.now) && (s.work k.w).isNone) = some hd →
      tget s.tensors (handleIx handle) = some y →
      (y.writers ≠ hd.writers → Does (.trailReturn handle w) s [.holds] (fun t => t.holds = s.holds.erase hd)) ∧
      (y.writers = hd.writers → y.state ≠ 0 → y.gen = handleGen handle → Does (.trailReturn handle w) s [.holds, .jobs] (fun t =>
        t.holds = s.holds.erase hd ∧
        joined t (fun k => k.handle = handle ∧ k.writer = true ∧ k.target = hd.tier ∧ k.hold = some hd ∧ k.started = false))))

/-- A host with a HELD lease reaches a line of a mapped extent that nothing holds up. RD_I is answered with the line's data and takes no entry. RD_S of a line in state I with a free way makes it S {h}; of a line in S it adds the sharer; RD_A from I makes it E. WR_I of a full line from I writes its 64 bytes and no other byte of device memory, WR_S leaves S {h}; EVICT by the owner gives I; MEM_SPEC_RD has no effect. Without a lease a read returns poison and a write is discarded, counted in EXT_DENY and reported. A write to a line whose recall awaits the host is taken as recall data. -/
def Obligations.HostRequestsWithoutRecall : Prop :=
  ∀ (port rid dpa h k : Nat) (data : Bytes) (s : State),
    let l := dpa / 64
    let e := s.entry l
    let ans : Output := .cxl port rid (l * 64) (some (s.readDev (lineAddr l) 64)) false
    let ack : Output := .cxl port rid (l * 64) none false
    (reaches s port rid dpa h → sends s port → s.poison.contains (lineOf (lineAddr l)) = false →
      (e.state = 0 → Does (.rdI port rid dpa) s turnParts (fun t => t.out = s.out ++ [ans])) ∧
      (e.state = 0 → s.freeWay l = some k →
        Does (.rdS port rid dpa) s (.dir :: turnParts) (fun t => t.out = s.out ++ [ans] ∧ t.dir = tset s.dir k (s.newEntry l 1 h)) ∧
        Does (.rdA port rid dpa) s (.dir :: turnParts) (fun t => t.out = s.out ++ [ans] ∧ t.dir = tset s.dir k (s.newEntry l 2 h)) ∧
        Does (.wrS port rid dpa true data) s (plus [.dir, .memory, .poison, .fill, .firstTouch] turnParts) (fun t =>
          t.out = s.out ++ [ack] ∧ t.dir = tset s.dir k (s.newEntry l 1 h))) ∧
      (e.state = 1 → s.findWay l = some k →
        Does (.rdS port rid dpa) s (.dir :: turnParts) (fun t => t.out = s.out ++ [ans] ∧ t.dir = tset s.dir k (s.addSharer e h))) ∧
      (e.state = 0 → Does (.wrI port rid dpa true data) s (plus [.memory, .poison, .fill, .firstTouch] turnParts) (fun t =>
        t.out = s.out ++ [ack] ∧ (s.inv → s.firstTouch = [] → memOnly s t [(lineAddr l, 64)] ∧
          ∀ i, i < 64 → t.byteAt (lineAddr l + i) = (slice data 0 64).getD i 0))) ∧
      (e.state = 2 → e.vector.toNat % 256 = h → s.findWay l = some k →
        Does (.evict port rid dpa) s (.dir :: turnParts) (fun t => t.out = s.out ++ [ack] ∧ t.dir = tdel s.dir k))) ∧
    (hostPort s port → Does (.memSpecRd port rid dpa) s [] (fun _ => True)) ∧
    (hostPort s port → s.ideBlocked port = false → s.hostOf port rid = some h → leaseExt dpa = none →
      (s.lease (dpa / 2 ^ 30) h).state ≠ .held → s.recallOf l = none → sends s port →
      Does (.rdS port rid dpa) s [.out, .regs, .counters] (fun t => counted s t (0x0601100 + 8 * port) ∧ t.flag extStatus 10 = true ∧
        Output.cxl port rid dpa none true ∈ t.out) ∧
      Does (.wrI port rid dpa true data) s [.out, .regs, .counters] (fun t => counted s t (0x0601100 + 8 * port) ∧
        Output.cxl port rid dpa none false ∈ t.out)) ∧
    (∀ r, hostPort s port → s.hostOf port rid = some h → s.recallOf l = some r → r.awaiting.contains h = true → sends s port →
      Does (.wrI port rid dpa true data) s [.out, .denCache, .ddrUnder, .hbmCache, .memory, .poison, .fill, .firstTouch] (fun t =>
        t.out = s.out ++ [ack] ∧ (s.inv → s.firstTouch = [] → memOnly s t [(lineAddr l, 64)])))

/-- RD_A of a line that other hosts share sends each of them BISnpInv and puts the line in state B with a recall record; RD_S of a line another host holds in E sends BISnpData, RD_I BISnpCur. A further request waits. An answer takes the host from those awaited; the last one ends the recall and completes its request: RD_S after BIRspS leaves S {o, h}, after BIRspI S {h}, with the line's data. -/
def Obligations.RecallsTakeLinesBack : Prop :=
  ∀ (port rid dpa h o k g : Nat) (hs : List Nat) (r : Recall) (q : LineReq) (s : State),
    let l := dpa / 64
    let e := s.entry l
    let x := s.extent (dpa / 2 ^ 30)
    let takes : Nat → ReqClass → State → Prop := fun kind cls t =>
      t.recalls = s.recalls ++ ([{
        line := l, prior := e, hosts := hs, awaiting := hs, shared := [], kind
        request := some { cls, port, rid, host := h, line := l, offset := 0, full := true, data := [], own := none }, device := none
        victim := false }] : List Recall) ∧
      t.dir = tset s.dir k { e with state := 3 } ∧
      t.out = s.out ++ hs.map (fun i => Output.bisnp (s.hostPort i) i (l * 64) kind)
    (reaches s port rid dpa h → s.findWay l = some k → hs ≠ [] → hs.all (fun i => (s.lease (dpa / 2 ^ 30) i).state == .held) = true →
      (∀ i ∈ hs, sends s (s.hostPort i)) → s.recordsUsed x.tenancy x.homeDen < s.recordsHeld x.tenancy x.homeDen →
      (e.state = 1 → hs = (s.marked l e).filter (· != h) → Does (.rdA port rid dpa) s (plus [.dir, .recalls] turnParts) (takes 0 .rdA)) ∧
      (e.state = 2 → e.vector.toNat % 256 ≠ h → hs = [e.vector.toNat % 256] →
        Does (.rdS port rid dpa) s (plus [.dir, .recalls] turnParts) (takes 1 .rdS) ∧
        Does (.rdI port rid dpa) s (plus [.dir, .recalls] turnParts) (takes 2 .rdI))) ∧
    (hostPort s port → s.ideBlocked port = false → s.hostOf port rid = some h → dpa < 2 ^ 43 → x.state = 1 → x.paged = false →
      (s.lease (dpa / 2 ^ 30) h).state = .held → (s.ten x.tenancy).fatal = false → s.recallOf l = some r → r.awaiting.contains h = false →
      s.recalls.all (fun v => !v.awaiting.isEmpty) = true → s.fencing = [] →
      Does (.rdA port rid dpa) s [.waiting] (fun t => t.waiting = s.waiting ++
        ([{ cls := .rdA, port, rid, host := h, line := l, offset := 0, full := true, data := [], own := none }] : List LineReq))) ∧
    (hostPort s port → s.hostOf port rid = some g → s.recallOf l = some r → r.awaiting.contains g = true → s.fencing = [] →
      (r.awaiting.filter (· != g) ≠ [] → s.recalls.all (fun v => !v.awaiting.isEmpty) = true →
        (∀ v ∈ s.recalls, v.line = r.line → v = r) →
        Does (.birspe port rid dpa) s [.recalls] (fun t => t.recalls = s.recalls.map (fun v =>
          if v.line = r.line then { r with awaiting := r.awaiting.filter (· != g), shared := g :: r.shared } else v))) ∧
      (s.recalls = [r] → s.waiting = [] → r.awaiting = [g] → r.shared = [] → r.request = some q → q.cls = .rdS → q.line = l →
        r.prior.state = 2 → r.prior.vector.toNat % 256 = o → q.host ≠ o → s.findWay l = some k → sends s q.port →
        s.poison.contains (lineOf (lineAddr l)) = false →
        Does (.birsps port rid dpa) s [.out, .dir, .recalls, .waiting, .denCache, .hbmCache] (fun t => t.recalls = [] ∧
          t.dir = tset s.dir k (s.addSharer (s.newEntry l 1 o) q.host) ∧
          t.out = s.out ++ [Output.cxl q.port q.rid (l * 64) (some (s.readDev (lineAddr l) 64)) false]) ∧
        Does (.birspi port rid dpa) s [.out, .dir, .recalls, .waiting, .denCache, .hbmCache] (fun t => t.recalls = [] ∧
          t.dir = tset s.dir k (s.newEntry l 1 q.host) ∧
          t.out = s.out ++ [Output.cxl q.port q.rid (l * 64) (some (s.readDev (lineAddr l) 64)) false])))

/-- EXT_CMD READ loads the entry. MAP of a PLAIN extent in a FREE entry takes DDR and the home den; otherwise CMD_ERR, CAUSE 3. GRANT makes a lease HELD for LEASE_MS; REVOKE of a HELD lease fences the host, of an EXPIRED one gives NO_ACCESS; UNMAP makes the extent UNMAPPING. A read of a lease line renews a HELD lease and returns its record; at expiry it is EXPIRED, and under POISON a line the host held in E is poisoned. A drain ends at its boundary: NO_ACCESS and DRAIN_DONE. DIR_HOST is writable for a host without leases, else CAUSE 2. PAGE_IN_DONE, its die having read the page in a frame of the tenancy, makes the page resident with its contents and lets the request that waits for it be served; PAGE_WRITE_OUT of the least recently used dirty page, in a background slot of its tenancy's turn, sends it to the flash, and once that has taken it makes it clean. -/
def Obligations.ExtentsLeasesAndPages : Prop :=
  ∀ (mp : MgmtPort) (ext h den a port rid dpa l page : Nat) (value : Reg) (e : DirEntry) (ok : Bool) (x' : Extent) (s s' : State),
    let x := s.extent ext
    let b := s.image 0x0601000 16
    let fails : Nat → State → Prop := fun c t => t.cmdExt.cause = c ∧ t.flag extStatus 0 = true
    (ready s mp .ext →
      Does (.extRead mp ext) s [.regs] (fun t => ∀ i, i < 16 → t.stored (0x0601000 + 8 * i) = BitVec.ofNat 64 (fld (s.extImage ext) (8 * i) 8)) ∧
      (ext < 8192 → x.state ≠ 0 → Does (.extMap mp ext) s [.out, .regs, .cmdExt] (fails 3)) ∧
      (ext < 8192 → x.state = 0 → mapImageOk b = true → fld b 1 1 = 0 → bit (fld b 3 1) 0 = false → fld b 4 2 ≠ 0 → s.bound (fld b 4 2) = true →
        s.pickDen (fld b 4 2) (fld b 6 1) = some den → s.pick (s.ddrAllot (fld b 4 2) (fld b 6 1)) (2 ^ 30) granule = some a →
        Does (.extMap mp ext) s [.freeCount, .memory, .extents] (fun t =>
          (t.extent ext).state = 1 ∧ (t.extent ext).mirrored = false ∧ (t.extent ext).tenancy = fld b 4 2 ∧ (t.extent ext).primaryDie = fld b 6 1 ∧
          (t.extent ext).homeDen = den ∧ (t.extent ext).ddrBase = a ∧ (t.extent ext).leaseMs = fld b 8 4 ∧
          ∀ i, i ≠ ext → t.extent i = s.extent i)) ∧
      (h < 256 → x.state = 1 → (s.lease ext h).state = .noAccess ∨ (s.lease ext h).state = .expired →
        Does (.extGrant mp ext h) s [.leases] (fun t =>
          t.lease ext h = { state := .held, expiry := s.time.now + (if x.leaseMs = 0 then 4000 else x.leaseMs) * 1000000, fenceFrame := 0 } ∧
          ∀ i j, (i ≠ ext ∨ j ≠ h) → j < 256 → t.lease i j = s.lease i j)) ∧
      (x.state ≠ 1 → Does (.extGrant mp ext h) s [.out, .regs, .cmdExt] (fails 3) ∧ Does (.extUnmap mp ext) s [.out, .regs, .cmdExt] (fails 3) ∧
        Does (.extRevoke mp ext h) s [.out, .regs, .cmdExt] (fails 3)) ∧
      (h < 256 → x.state = 1 → (s.lease ext h).state = .held →
        Does (.extRevoke mp ext h) s (.leases :: homeParts) (fun t => t.lease ext h = { state := .fenced, expiry := 0, fenceFrame := s.frame }) ∧
        (s.recalls.all (fun v => !v.awaiting.isEmpty) = true → s.fencing = [] →
          Does (.extRevoke mp ext h) s [.out, .leases, .dir, .recalls, .fencing] (fun t =>
            s.extLines ext = [(l, e)] → lineExt l = ext → s.waiting = [] → e.state = 2 → e.vector.toNat % 256 = h → s.entry l = e →
              s.recallOf l = none → s.recordFree l = true → t.recalls.any (fun r => r.line == l && r.kind == 0 && r.awaiting == [h]) = true))) ∧
      (h < 256 → x.state = 1 → (s.lease ext h).state = .expired →
        Does (.extRevoke mp ext h) s [.leases] (fun t => (t.lease ext h).state = .noAccess)) ∧
      (x.state = 1 → Does (.extUnmap mp ext) s (.leases :: homeParts) (fun t => (t.extent ext).state = 2 ∧ ∀ i, i < 256 → (t.lease ext i).state ≠ .held)) ∧
      (x.state = 1 → s.recalls.all (fun v => !v.awaiting.isEmpty) = true → s.fencing = [] →
        Does (.extUnmap mp ext) s [.out, .extents, .leases, .dir, .recalls, .fencing] (fun t =>
        t.extent ext = { x with state := 2, fenceFrame := some s.frame } ∧ ∀ i, i < 256 → (t.lease ext i).state ≠ .held))) ∧
    (hostPort s port → s.ideBlocked port = false → s.hostOf port rid = some h → leaseExt dpa = some ext → sends s port →
      Does (.leaseRead port rid dpa) s [.out, .leases] (fun t =>
        ((s.lease ext h).state = .held → (t.lease ext h).expiry = s.time.now + x.leaseNs) ∧ (t.lease ext h).state = (s.lease ext h).state ∧
        t.out = s.out ++ [Output.cxl port rid dpa (some (t.leaseRecord ext h)) false])) ∧
    ((s.lease ext h).state = .held → s.frame * 2 ^ 14 < (s.lease ext h).expiry → Does (.leaseExpire ext h) s [] (fun _ => True)) ∧
    ((s.lease ext h).state = .held → (s.lease ext h).expiry ≤ s.frame * 2 ^ 14 → s.recalls = [] → s.waiting = [] → s.fencing = [] →
      (s.extLines ext = [] → Does (.leaseExpire ext h) s [.out, .regs, .leases] (fun t => (t.lease ext h).state = .expired ∧ t.flag extStatus 9 = true)) ∧
      (s.extLines ext = [(l, e)] → lineExt l = ext → e.state = 2 → e.vector.toNat % 256 = h → x.revert = false →
        Does (.leaseExpire ext h) s [.out, .regs, .counters, .poison, .errs, .leases, .dir] (fun t => (t.lease ext h).state = .expired ∧
          t.poison.contains (lineOf (lineAddr l)) = true ∧ t.flag extStatus 9 = true ∧
          t.dir = (match s.findWay l with | some k => tdel s.dir k | none => s.dir)))) ∧
    (s.drained ext = [] → x.state = 1 → Does (.drainEnd ext) s [] (fun _ => True)) ∧
    (s.drained ext = [h] → x.state = 1 → s.extLines ext = [] → s.recalls = [] → s.waiting = [] → s.fencing = [] →
      Does (.drainEnd ext) s [.out, .regs, .leases, .lastDrain] (fun t => (t.lease ext h).state = .noAccess ∧ t.lastDrain = ext ∧ t.flag extStatus 8 = true)) ∧
    (setUp s mp → h < 256 →
      (s.leases.any (fun v => v.1 % 256 == h && (v.2.state == .held || v.2.state == .fenced)) = true →
        Does (.dirHostWrite mp h value) s [.out, .regs, .cmdExt] (fails 2)) ∧
      (s.leases.any (fun v => v.1 % 256 == h && (v.2.state == .held || v.2.state == .fenced)) = false →
        Does (.dirHostWrite mp h value) s [.regs] (fun t => t.dirHost h = (value &&& 0x800FFFFF).toNat))) ∧
    (x.paged = true → x.resident.any (fun p => p.1 == page) = false → s.waiting.any (fun q => lineExt q.line == ext && q.line % 2 ^ 24 / 256 == page) = false →
      Does (.pageInDone ext ⟨page, ok⟩) s [] (fun _ => True)) ∧
    (∀ q, x.paged = true → x.resident.any (fun p => p.1 == page) = false → s.waiting = [q] → lineExt q.line = ext → q.line % 2 ^ 24 / 256 = page →
      q.cls = .rdI → q.own = none → s.recalls = [] → s.fencing = [] → (s.entry q.line).state = 0 → x.admitPage page = some x' →
      s.passDies (pageReq ext page) 0 x.tenancy (s.readDies [grainAt (x.pageStore page)]) = .go s' →
      s'.granted q.line = false → lineServed s' q.line → s'.flashLost (x.pageStore page) (2 ^ 14) = false →
      Does (.pageInDone ext ⟨page, true⟩) s (plus [.extents, .waiting, .waits, .memory, .poison, .fill, .firstTouch] turnParts) (fun t =>
        t.waiting = [] ∧ (t.extent ext).resident.any (fun p => p.1 == page) = true ∧ (∀ i, i ≠ ext → t.extent i = s.extent i) ∧
        (s.inv → s.firstTouch = [] → memOnly s t [(pageAt ext page, 2 ^ 14)] ∧
          (s.denCache = [] → s.poison = [] → ∀ i, i < 2 ^ 14 →
            t.byteAt (pageAt ext page + i) = (s'.flashRead x.tenancy (x.pageStore page) (2 ^ 14)).getD i 0)))) ∧
    (x.paged = true → x.leaving.contains page = true → s.flashBusy (pageReq ext page) = false → s.waiting = [] → s.recalls = [] → s.fencing = [] →
      Does (.pageWriteOut ext page) s [.extents, .waiting] (fun t =>
        (t.extent ext).resident = x.resident.map (fun p => if p.1 = page then (page, false) else p) ∧ (t.extent ext).stored.contains page = true ∧
        (t.extent ext).leaving = x.leaving.filter (· != page) ∧ ∀ i, i ≠ ext → t.extent i = s.extent i)) ∧
    (x.paged = true → x.leaving.contains page = false → s.pageDue x page = true →
      s.bgTurn (denMap x.homeDen) x.tenancy (s.fillQueued (denMap x.homeDen) ++ s.pageQueued (denMap x.homeDen)) = true →
      Does (.pageWriteOut ext page) s [.slots, .extents, .badgers] (fun t =>
        t.extent ext = { x with leaving := page :: x.leaving } ∧ ∀ i, i ≠ ext → t.extent i = s.extent i)) ∧
    (x.leaving.contains page = false → s.pageDue x page = false → Does (.pageWriteOut ext page) s [] (fun _ => True))

/-- For every state, tenancy, mirrored table, address, length and access: where translation and the check at the memory let an access through to device memory, its bytes lie in an HBM or DDR allotment of the tenancy, or in extent space of a MAPPED extent of the tenancy; tenancy 0, and thus no context, passes nowhere. An access let through to an import window reaches a window that the tenancy has imported, within its length. Translating changes nothing but the translations cached. -/
def Obligations.TranslatedAccessesStayInTheirTenancy : Prop :=
  ∀ (t root a n m : Nat) (wr : Bool) (s : State),
    ((s.locate t root a n wr).1 = .mem m → owned s t m n ∧ t ≠ 0) ∧
    ((s.locate t root a n wr).1 = .window m → ∃ w e off, windowOf m = some (w, e, off) ∧ (s.window w).state = 1 ∧
      (s.window w).tenancy = t ∧ off + n ≤ (s.window w).length) ∧
    Only [.atc] s (s.locate t root a n wr).2

/-- From every state whose memory is canonical, also one that no run reaches, and for every work, address and run of bytes: each byte of device memory that the work's store changes belongs to the tenancy of the work, whatever its mirrored table holds and although the store may itself rewrite that table. -/
def Obligations.StoresChangeOnlyTheirTenancysMemory : Prop :=
  ∀ (x : Work) (a m : Nat) (b : Bytes) (s : State), s.inv →
    (s.writeAt x a b).byteAt m ≠ s.byteAt m → ∃ k n, k ≤ m ∧ m < k + n ∧ owned s x.tenancy k n

/-- A completion that grants the access of the one work that waits for its page caches the translation at its size, or, for a tenancy without ATC entries, keeps it for one use; one that does not stalls the work with a fault HOST_NOT_PRESENT. An invalidation removes the matching entries and the grants kept, and its completion is sent. MIRROR_SYNC with a bad record is BAD_FIELD, detail 8, without effect; otherwise it writes the records' entries, no other byte of device memory, and withdraws every mirrored translation of the tenancy. What is said of bytes and outputs is for accesses granted no line of an extent, behind which a waiting host request would go on. -/
def Obligations.TranslationsComeAndGo : Prop :=
  ∀ (port pasid addr size w : Nat) (rd wr : Bool) (v : XltWait) (x : Work) (b : Bytes) (s s' : State),
    let sz := max 4096 (min size (2 ^ 30))
    let overlaps : Nat → Nat → Bool := fun p n => decide (p < addr + size ∧ addr < p + n)
    (s.xltWaits = [v] → v.port = port → v.pasid = pasid → v.page = addr / 4096 → v.granted = false → s.work v.w = some x →
      ((if v.write then wr else rd) = true → s.atcCap x.tenancy ≠ 0 →
        Does (.translationCompletion port pasid addr size rd wr) s [.atc, .xltWaits] (fun t => t.xltWaits = [] ∧
          t.atc.head? = some { tenancy := x.tenancy, ats := true, port, space := pasid, page := addr / sz * sz, size := sz, target := 0
                               read := rd, write := wr })) ∧
      ((if v.write then wr else rd) = true → s.atcCap x.tenancy = 0 →
        Does (.translationCompletion port pasid addr size rd wr) s [.xltWaits] (fun t => t.xltWaits = [{ v with granted := true }])) ∧
      ((if v.write then wr else rd) = false →
        Does (.translationCompletion port pasid addr size rd wr) s [.out, .rings, .works, .runs, .faults, .faultNext, .logNext, .logGain, .xltWaits]
          (fun t => t.xltWaits = [] ∧ ∃ f ∈ t.faults, f.w = v.w ∧ f.addr = v.addr ∧ f.run = v.cell.isSome ∧ f.cell = cellNo v.cell ∧ f.cause = .hostNotPresent ∧ f.level = 0 ∧
            ∃ y, t.work v.w = some y ∧ y.stalled = true))) ∧
    (hostPort s port → Does (.atsInvalidate port pasid addr size) s [.atc, .xltWaits, .invalWait] (fun t =>
      t.atc = s.atc.filter (fun e => !(e.ats && e.port == port && e.space == pasid && overlaps e.page e.size)) ∧
      t.xltWaits = s.xltWaits.filter (fun v => !(v.granted && v.port == port && v.pasid == pasid && overlaps (v.page * 4096) 4096)) ∧
      t.invalWait = s.invalWait ++ [port])) ∧
    (s.invalWait.contains port = true → sends s port →
      Does (.invalidationCompletion port) s [.out, .invalWait] (fun t => t.invalWait = s.invalWait.erase port ∧
        t.out = s.out ++ [Output.invalCompletion port])) ∧
    (s.invalWait.contains port = false → Does (.invalidationCompletion port) s [] (fun _ => True)) ∧
    (startable s w x 0x61 → addrClass (descOp0 x.desc) = 0 → letThrough s x [(descOp0 x.desc, 16 * fld x.desc 32 2, false)] s' →
      let rs := syncRecords (slice b 0 (16 * fld x.desc 32 2)) (fld x.desc 32 2)
      (rs.any (fun r => r.1 % 8 != 0 || addrClass r.1 != 3 || !inRange (r.1 % 2 ^ 62) 8 (s.mirrorPool x.tenancy) || entryReserved r.2) = true →
        Does (.mirrorSync w b) s (.works :: accessParts x s') (fun t => hasResult t w (Result.err 0x12 8))) ∧
      (rs.any (fun r => r.1 % 8 != 0 || addrClass r.1 != 3 || !inRange (r.1 % 2 ^ 62) 8 (s.mirrorPool x.tenancy) || entryReserved r.2) = false →
        Does (.mirrorSync w b) s (plus [.works, .memory, .poison, .fill, .firstTouch] (accessParts x s')) (fun t =>
          (t.atc.any (fun e => !e.ats && e.tenancy == x.tenancy) = false) ∧
          (s.inv → clear x s' → memOnly s t (rs.map (fun r => (r.1 % 2 ^ 56, 8)))) ∧
          (∀ r, rs = [r] → s.inv → clear x s' → s.poison = [] → ∀ k, k < 8 → t.byteAt (r.1 % 2 ^ 56 + k) = (toLe 8 r.2).getD k 0) ∧
          hasResult t w (Result.done (fld x.desc 32 2)))))

/-- A device access that the walk or the check at the memory refuses stalls its work and gives the fault the next id; below the fault share, with a free completion entry, its record is written to the fault ring with the MSI-X message. FAULT_RECORD_POST posts a fault that waited. FAULT_RESUME with RETRY ends the faults it names and lets their works go on; with ABORT they complete with FAULT_UNSERVED; its count is their number, DONE_SHORT if that is not COUNT. A page response of success replays, of failure abandons; a timeout abandons, before its time it does nothing; ATS_DISABLE abandons with TRANSLATION_ABORTED. XLT_FAULT_RING takes a ring of the tenancy and port with SERVICE, else CMD_ERR, CAUSE 4. -/
def Obligations.FaultsAreServed : Prop :=
  ∀ (w addr level ring lg port index ten id : Nat) (wr : Bool) (cause : FaultCause) (x y : Work) (f : FaultRec) (mp : MgmtPort)
    (v la : Reg) (s : State),
    let k := tpKey x.tenancy x.port
    let same : FaultRec → FaultRec → Bool := fun f g => g.tenancy == f.tenancy && g.port == f.port && g.id == f.id
    let gone : State → Prop := fun t => t.faults = s.faults.filter (fun g => !same f g)
    (s.work w = some x → x.stalled = false → x.result = none → addrClass addr ≠ 0 → (s.locate x.tenancy x.xltRoot addr 1 wr).1 = .fault cause level →
      Does (.fault w addr wr cause level) s [.out, .counters, .rings, .works, .runs, .faults, .faultNext, .logNext, .logGain] (fun t =>
        ∃ f ∈ t.faults, f.w = w ∧ f.tenancy = x.tenancy ∧ f.port = x.port ∧ f.id = tgetD s.faultNext k 0 ∧ f.addr = addr ∧ f.cause = cause ∧
          f.level = level ∧ f.frame = s.frame ∧ tgetD t.faultNext k 0 = (tgetD s.faultNext k 0 + 1) % 65536 ∧
          (∃ z, t.work w = some z ∧ z = { x with stalled := true }) ∧
          (cause = .notPresent → s.faultRing x.tenancy x.port = some (ring, lg) → (s.ring ring).cqFree ≠ 0 → sends s (s.ring ring).port →
            (s.faults.filter (fun g => g.tenancy == x.tenancy && g.port == x.port && !g.batched)).length <
              bits (s.liveReg x.tenancy (0x0700200 + 8 * x.port)) 8 0 →
            f.posted = true ∧ t.out = s.out ++
              [Output.dma (s.ring ring).port (s.ring ring).pasid ((s.ring ring).cqBase + 32 * (s.ring ring).cqTail) (t.faultRecord f false (s.ring ring).phase),
               Output.msix (s.ring ring).port (s.ring ring).msix]))) ∧
    (s.batchWait = [] → s.faults.find? (fun g => g.tenancy == ten && g.port == port && !g.posted) = none →
      Does (.faultRecordPost ten port) s [] (fun _ => True)) ∧
    (s.batchWait = [] → s.faults.find? (fun g => g.tenancy == ten && g.port == port && !g.posted) = some f → f.batched = false →
      f.cause ≠ .hostNotPresent → s.faultRing ten port = some (ring, lg) → (s.ring ring).cqFree ≠ 0 → sends s (s.ring ring).port →
      Does (.faultRecordPost ten port) s [.out, .rings, .faults] (fun t => { f with posted := true } ∈ t.faults ∧
        Output.msix (s.ring ring).port (s.ring ring).msix ∈ t.out)) ∧
    (s.faults.find? (fun g => g.tenancy == ten && g.port == port && g.id == id) = some f →
      (s.frame < f.frame + (s.stored 0x0700400).toNat % 2 ^ 32 → Does (.faultTimeout ten port id) s [] (fun _ => True)) ∧
      (f.frame + (s.stored 0x0700400).toNat % 2 ^ 32 ≤ s.frame → s.work f.w = some y → f.run = false →
        Does (.faultTimeout ten port id) s [.works, .waits, .runs, .xltWaits, .faults] (fun t => gone t ∧ hasResult t f.w (Result.err 0x40 0)))) ∧
    (s.faults.find? (fun g => g.port == port && g.prg == some index) = some f → s.work f.w = some y →
      Does (.prgResponse port index true) s [.works, .runs, .faults] (fun t => gone t ∧ t.work f.w = some { y with stalled := false }) ∧
      (f.run = false → Does (.prgResponse port index false) s [.works, .waits, .runs, .xltWaits, .faults] (fun t =>
        gone t ∧ hasResult t f.w (Result.err 0x40 0)))) ∧
    (s.faults = [f] → f.port = port → s.work f.w = some y → f.run = false →
      Does (.atsDisable port) s [.ports, .works, .waits, .runs, .xltWaits, .faults] (fun t => t.faults = [] ∧ (t.port port).ats = false ∧
        hasResult t f.w (Result.err 0x41 0))) ∧
    (startable s w x 0x60 → fld x.desc 36 1 = 0 →
      Does (.faultResumeRetry w) s [.works, .waits, .runs, .faults] (fun t =>
        t.faults = s.faults.filter (fun g => !(s.resumed x).any (fun f => same f g)) ∧
        (∀ f ∈ s.resumed x, ∀ z, t.work f.w = some z → z.stalled = false) ∧
        hasResult t w { Result.done (s.resumed x).length with status := if (s.resumed x).length = fld x.desc 34 2 then 0 else 1 })) ∧
    (startable s w x 0x60 → fld x.desc 36 1 = 1 → (∀ f ∈ s.resumed x, f.run = false ∧ f.w ≠ w) →
      Does (.faultResumeAbort w) s [.works, .waits, .runs, .xltWaits, .faults] (fun t =>
        t.faults = s.faults.filter (fun g => !(s.resumed x).any (fun f => same f g)) ∧
        (∀ f ∈ s.resumed x, ∀ z, s.work f.w = some z → hasResult t f.w (Result.err 0x40 0)) ∧
        hasResult t w { Result.done (s.resumed x).length with status := if (s.resumed x).length = fld x.desc 34 2 then 0 else 1 })) ∧
    (setUp s mp → ten < 512 → port < 12 →
      let r := s.ring (bits v.toNat 15 0)
      (bit v.toNat 31 = true → r.configured = false ∨ r.tenancy ≠ ten ∨ r.port ≠ port ∨ r.service = false →
        Does (.xltFaultRingWrite mp ten port v la) s [.out, .regs] (fun t => t.flag 0x0700410 0 = true ∧ bits (t.stored 0x0700410).toNat 7 4 = 4)) ∧
      (bit v.toNat 31 = false ∨ (r.configured = true ∧ r.tenancy = ten ∧ r.port = port ∧ r.service = true) →
        Does (.xltFaultRingWrite mp ten port v la) s [.regs] (fun t => t.stored (faultRingOff ten port) = v &&& 0x9F00FFFF ∧
          t.stored (faultRingOff ten port + 8) = la)))

/-- A request the checks of R515 refuse has no effect, is counted in WL_REFUSE of the region's tenancy and answered with REFUSED. Where the units of its lines serve the region's tenancy, a LOAD of memory that tenancy owns is answered with its bytes; a plain STORE writes its payload, no other byte of device memory, and is acknowledged; a flag store out of its turn waits; an ATOMIC stores its new value and returns the old one. A SEGMENT out of its turn waits; in its turn, one whose first record fails is answered with that record and applies nothing; one STORE record that passes is written. A message with a reserved field, or from a rank that is no member, is only counted in WL_BAD_MSG. -/
def Obligations.HomeDeviceServesRequests : Prop :=
  ∀ (port p : Nat) (m : Msg) (c : SegRec) (s : State),
    let g := s.region m.region
    let a := g.addr m.offset
    let n := m.order % 2 ^ 10
    let reply : Nat → Nat → Bytes → Output := fun type status b =>
      .wilfer p type { s.mkMsg m.src 0 m.tag m.order m.target m.key m.ctx b with status }
    let here : Nat → Nat → Prop := fun a n => ∀ q ∈ pieces a n, s.checkMem g.tenancy q.1 q.2 = .mem q.1 ∧ q.1 / 2 ^ 48 ≤ 1
    let served : Bool → Nat → Nat → Prop := fun write a n => here a n ∧ ∃ s', s.regionGate g.tenancy (fabricWork m) write (pieces a n) = .go s'
    let turn : List Part := [.out, .slots, .waits, .counters, .waiting]
    let quiet := s.fabric.held = [] ∧ s.fabric.flagWait = [] ∧ s.routePort m.src = some p ∧ s.fabric.excluded = false ∧ sends s p ∧
      s.recalled.any (fun r => r.1 == fabricWork m) = false
    let written : State → Nat → Bytes → Prop := fun t a b => s.inv → memOnly s t [(a, b.length)] ∧
      (s.poison = [] → ∀ k, k < b.length → t.byteAt (a + k) = b.getD k 0)
    (s.carries port = true → s.portClass port = 2 → (m.reserved ≠ 0 ∨ s.fabric.members.contains m.src = false) →
      Does (.load port m) s [.counters] (fun t => counted s t 0x0809080) ∧ Does (.store port m) s [.counters] (fun t => counted s t 0x0809080) ∧
      Does (.atomic port m) s [.counters] (fun t => counted s t 0x0809080) ∧ Does (.segment port m) s [.counters] (fun t => counted s t 0x0809080)) ∧
    (accepts s port 1 m → quiet → s.answerRowRead m = none →
      (accessLegal m.offset n = false ∨ g.allows m.key m.offset n 0 = false →
        Does (.load port m) s [.out, .counters] (fun t => t.out = s.out ++ [reply 2 1 []] ∧ counted s t (0x080A000 + 8 * g.tenancy))) ∧
      (accessLegal m.offset n = true → g.allows m.key m.offset n 0 = true → served false a n → s.poisonedIn a n = false →
        Does (.load port m) s turn (fun t => t.out = s.out ++ [reply 2 0 (s.readDev a n)]))) ∧
    (accepts s port 3 m → quiet →
      (accessLegal m.offset m.payload.length = false ∨ g.allows m.key m.offset m.payload.length 1 = false →
        Does (.store port m) s [.out, .counters, .fabric] (fun t => t.out = s.out ++ [reply 4 1 []] ∧ counted s t (0x080A000 + 8 * g.tenancy))) ∧
      (accessLegal m.offset m.payload.length = true → g.allows m.key m.offset m.payload.length 1 = true →
        (bit m.flags 0 = true → m.order ≠ (s.storeSeq m.src m.ctx).next →
          Does (.store port m) s [.fabric] (fun t => t.fabric = { s.fabric with flagWait := [{ port, type := 3, pass := 0, msg := m }] })) ∧
        (bit m.flags 0 = false → bit m.flags 1 = false → served true a m.payload.length →
          Does (.store port m) s (plus [.memory, .poison, .fill, .firstTouch, .fabric] turn) (fun t => t.out = s.out ++ [reply 4 0 []] ∧
            written t a m.payload)))) ∧
    (accepts s port 5 m → quiet →
      let w := atomicWidth m
      (1 ≤ m.atomicOp → m.atomicOp ≤ 10 → (w = 4 ∨ w = 8) → m.offset % w = 0 → g.allows m.key m.offset w 2 = true → served true a w → s.poisonedIn a w = false →
        Does (.atomic port m) s (plus [.memory, .poison, .fill, .firstTouch] turn) (fun t =>
          t.out = s.out ++ [reply 6 0 (toLe w (leNat (s.readDev a w)))] ∧
          written t a (toLe w (atomicNew m.atomicOp w (leNat (s.readDev a w)) (fld m.payload 0 w) (fld m.payload w w))))) ∧
      (g.allows m.key m.offset w 2 = false → Does (.atomic port m) s [.out, .counters] (fun t => t.out = s.out ++ [reply 6 1 []] ∧
        counted s t (0x080A000 + 8 * g.tenancy)))) ∧
    (accepts s port 8 m → quiet →
      let x := s.streamIn m
      (m.order ≠ x.next → Does (.segment port m) s [.fabric] (fun t => (t.streamIn m).next = x.next ∧
        (t.streamIn m).waiting = x.waiting ++ ([{ port, type := 8, pass := s.segPass m, msg := m }] : List Held))) ∧
      (m.order = x.next → x.waiting = [] → s.segPass m = 0 → m.records ≠ [] →
        Does (.segment port m) s (.fabric :: turn) (fun t => t.out = s.out ++ [reply 9 1 (toLe 4 0)] ∧
          (t.streamIn m).next = (x.next + 1) % 2 ^ 32 ∧ counted s t (0x080A000 + 8 * g.tenancy))) ∧
      (m.order = x.next → x.waiting = [] → m.records = [c] → c.passes g m.key = true → (c.op = 2 ∨ c.op = 3) → c.data.length = c.len →
        served true (g.addr c.off) c.len →
        Does (.segment port m) s (plus [.memory, .poison, .fill, .firstTouch, .fabric] turn) (fun t =>
          t.out = s.out ++ [reply 9 0 (toLe 4 (2 ^ 32 - 1))] ∧ (t.streamIn m).next = (x.next + 1) % 2 ^ 32 ∧ written t (g.addr c.off) c.data)))

/-- With one request outstanding: LOAD_DATA and ATOMIC_DATA with status OK give it its data, STORE_ACK ends a store of a work; status REFUSED ends the work with KEY_MISMATCH. SEGMENT_DATA ends the store of its segment and takes the segment out of flight. SEGMENT_TIMEOUT, 128 cycles after an open segment's oldest record, sends it, if fewer than 8 are in flight; before that, or with nothing open, it does nothing. FPORT_LINK_DOWN ends the request through the port with ABORTED_VIEW_CHANGE and takes the port down; HPORT_LINK_DOWN takes its port down. -/
def Obligations.SourceDeviceEndsRequests : Prop :=
  ∀ (port q ctx region rank p : Nat) (m : Msg) (r : WlReq) (x : Work) (st : Stream) (s : State),
    let mine := m.tag = r.tag ∧ m.src = r.rank ∧ r.data = none
    let gone : State → Prop := fun t => t.fabric = { s.fabric with requests := [] }
    (s.fabric.requests = [r] → s.fabric.streams = [] → mine → r.seg = none → r.w < 2 ^ 70 → r.addr < 2 ^ 80 ∨ m.payload ≠ [] →
      (accepts s port 2 m → r.kind = 1 → r.cell ≠ none ∨ s.runs.any (fun v => v.w == r.w) = false → m.status = 0 → bit m.flags 1 = false →
        Does (.loadData port m) s [.fabric] (fun t => t.fabric = { s.fabric with requests := [{ r with data := some (slice m.payload 0 r.len) }] })) ∧
      (accepts s port 6 m → r.kind = 5 → m.status = 0 → bit m.flags 1 = false →
        Does (.atomicData port m) s [.fabric] (fun t => t.fabric = { s.fabric with requests := [{ r with data := some (slice m.payload 0 r.len) }] })) ∧
      (accepts s port 4 m → r.kind = 3 → r.cell = none → m.status = 0 → bit m.flags 1 = false →
        Does (.storeAck port m) s [.fabric] gone) ∧
      (accepts s port 4 m → r.kind = 3 → m.status = 1 → s.isRun r.w = false → s.work r.w = some x → x.result = none →
        Does (.storeAck port m) s [.works, .waits, .fabric] (fun t => gone t ∧ hasResult t r.w (Result.err 0x22 0)))) ∧
    (accepts s port 9 m → s.fabric.requests = [r] → mine → r.seg = some q → r.kind = 3 → r.cell = none → r.w < 2 ^ 70 → m.status = 0 →
      bit m.flags 1 = false → fld m.payload 0 4 = 2 ^ 32 - 1 → s.fabric.streams = [st] → st.ctx = r.ctx → st.region = r.region → st.rank = r.rank →
      st.open_ = [] → st.inFlight = [q] →
      Does (.segmentData port m) s [.fabric] (fun t => t.fabric = { s.fabric with requests := [], streams := [{ st with inFlight := [] }] })) ∧
    (s.openReqs (s.stream ctx region rank) = [] → Does (.segmentTimeout ctx region rank) s [] (fun _ => True)) ∧
    (∀ rs, s.openReqs (s.stream ctx region rank) = r :: rs → s.time.now < r.born + 64 * s.cclkHalfNs →
      Does (.segmentTimeout ctx region rank) s [] (fun _ => True)) ∧
    (s.fabric.requests = [r] → s.stream ctx region rank = st → st.open_ = [r.tag] → st.inFlight.length < 8 → st.ctx = ctx → st.region = region →
      st.rank = rank → r.born + 64 * s.cclkHalfNs ≤ s.time.now → r.record.length ≤ 4096 → s.unacked ctx rank < 4096 → s.routePort rank = some p → s.fabric.excluded = false → sends s p →
      Does (.segmentTimeout ctx region rank) s [.out, .fabric] (fun t =>
        t.out = s.out ++ [Output.wilfer p 8 (s.mkMsg rank 0 r.tag st.seq (region * 2 ^ 52) r.key ctx r.record)] ∧
        t.stream ctx region rank = { st with seq := (st.seq + 1) % 2 ^ 32, open_ := [], inFlight := st.inFlight ++ [st.seq] } ∧
        t.fabric.requests = [{ r with seg := some st.seq, sent := true }])) ∧
    (s.portClass port = 2 → (s.port port).up = true → s.groups = [] → s.fabric.requests = [r] → r.port = port → r.data = none → r.w < 2 ^ 70 →
      s.isRun r.w = false → s.work r.w = some x → x.result = none →
      Does (.fportLinkDown port) s [.works, .waits, .ports, .fabric] (fun t => (t.port port).up = false ∧ (t.port port).width = 0 ∧
        t.fabric.requests = [] ∧ hasResult t r.w (Result.err 0x50 0))) ∧
    (s.portClass port = 1 → (s.port port).up = true →
      Does (.hportLinkDown port) s [.ports] (fun t => t.port port = { s.port port with up := false, width := 0, rate := 0 } ∧
        ∀ i, i ≠ port → t.port i = s.port i)) ∧
    ((s.port port).up = false → Does (.hportLinkDown port) s [] (fun _ => True) ∧ Does (.fportLinkDown port) s [] (fun _ => True))

/-- WL_CMD: READ_REGION and READ_WINDOW load the entry; EXPORT of a legal image whose bytes its tenancy owns makes the region EXPORTED, of a foreign byte it fails with CAUSE 2, in another state with CAUSE 1; WITHDRAW of a region with no request in hand frees it; REKEY holds the new key for the frame boundary; IMPORT of a legal image binds a window with the home den of R520; UNBIND frees it. WL_MIGRATE_CMD of an extent that is not MAPPED has no effect; of a MAPPED one it fences its leases and begins the migration. -/
def Obligations.RegionsWindowsAndMigration : Prop :=
  ∀ (mp : MgmtPort) (id : Nat) (v : Reg) (s : State), id < 4096 →
    let b := s.image 0x0809000 4
    let g := s.region id
    let fails : Nat → State → Prop := fun c t => t.cmdWl.cause = c ∧ t.flag 0x0809028 0 = true
    let new : Region := { state := 1, perm := fld b 1 1, tenancy := fld b 2 2, base := fld b 8 8, length := fld b 16 8, key := fld b 24 8, newKey := none }
    let w : Window := { state := 1, homeDen := 0, tenancy := fld b 2 2, rank := fld b 4 2, region := fld b 6 2, offset := fld b 8 8
                        length := fld b 16 8, key := fld b 24 8 }
    let ext := bits v.toNat 12 0
    (ready s mp .wl →
      Does (.wlReadRegion mp id) s [.regs] (fun t => ∀ i, i < 4 → t.stored (0x0809000 + 8 * i) = BitVec.ofNat 64 (fld g.image (8 * i) 8)) ∧
      Does (.wlReadWindow mp id) s [.regs] (fun t => ∀ i, i < 4 → t.stored (0x0809000 + 8 * i) = BitVec.ofNat 64 (fld (s.window id).image (8 * i) 8)) ∧
      (g.state ≠ 0 → Does (.wlExport mp id) s [.out, .regs, .cmdWl] (fails 1)) ∧
      (g.state = 0 → s.ownsAll new.tenancy (new.base % 2 ^ 56) new.length = false → Does (.wlExport mp id) s [.out, .regs, .cmdWl] (fails 2)) ∧
      (g.state = 0 → s.exportOk new = true → Does (.wlExport mp id) s [.fabric] (fun t => t.region id = new ∧ ∀ i, i ≠ id → t.region i = s.region i)) ∧
      (g.state ≠ 1 → Does (.wlWithdraw mp id) s [.out, .regs, .cmdWl] (fails 1) ∧ Does (.wlRekey mp id) s [.out, .regs, .cmdWl] (fails 1)) ∧
      (g.state = 1 → s.regionBusy id = false → Does (.wlWithdraw mp id) s [.fabric] (fun t => (t.region id).state = 0 ∧ ∀ i, i ≠ id → t.region i = s.region i)) ∧
      (g.state = 1 → s.regionBusy id = true → Does (.wlWithdraw mp id) s [.fabric] (fun t => (t.region id).state = 2)) ∧
      (g.state = 1 → Does (.wlRekey mp id) s [.fabric] (fun t => t.region id = { g with newKey := some (fld b 24 8) })) ∧
      ((s.window id).state = 1 → Does (.wlImport mp id) s [.out, .regs, .cmdWl] (fails 1)) ∧
      ((s.window id).state ≠ 1 → 0 < w.tenancy → w.tenancy < 512 → w.rank < 4096 → w.region < 4096 → w.length ≤ 2 ^ 30 → s.bound w.tenancy = true →
        bit (s.route w.rank) 15 = true → w.offset % 4096 = 0 → w.length % 4096 = 0 →
        Does (.wlImport mp id) s [.fabric] (fun t => t.window id = { w with homeDen := s.windowDen w.rank } ∧ ∀ i, i ≠ id → t.window i = s.window i)) ∧
      ((s.window id).state = 0 → Does (.wlUnbind mp id) s [.out, .regs, .cmdWl] (fails 1)) ∧
      ((s.window id).state ≠ 0 → Does (.wlUnbind mp id) s [.fabric] (fun t => (t.window id).state = 0 ∧ ∀ i, i ≠ id → t.window i = s.window i))) ∧
    (setUp s mp → (s.extent ext).state ≠ 1 → Does (.wlMigrateCmd mp v) s [] (fun _ => True)) ∧
    (setUp s mp → (s.extent ext).state = 1 → s.migration ext = none →
      Does (.wlMigrateCmd mp v) s (.leases :: waitParts) (fun t => ∀ h, h < 256 → (t.lease ext h).state ≠ .held)) ∧
    (setUp s mp → (s.extent ext).state = 1 → s.migration ext = none → (∃ h, h < 256 ∧ (s.lease ext h).state = .held) →
      s.recalls.all (fun q => !q.awaiting.isEmpty) = true → s.fencing = [] →
      Does (.wlMigrateCmd mp v) s [.out, .leases, .dir, .recalls, .fencing, .fabric] (fun t => (∀ h, h < 256 → (t.lease ext h).state ≠ .held) ∧
        ∃ z, t.migration ext = some z ∧ z.rank = bits v.toNat 27 16 ∧ z.region = bits v.toNat 43 32 ∧ z.key = (s.stored 0x0809018).toNat ∧
          z.phase = 0 ∧ z.next = 0))

/-- However the members of a view fall into those that two proposers reach, if both sets meet the quorum of R542 (more than half of the view, or exactly half with its lowest-ranked member), some member is in both: no two disjoint parts of a view can both go on. -/
def Obligations.TwoQuorumsShareAMember : Prop :=
  ∀ (view : List Nat) (a b : Nat → Bool), view.Nodup →
    quorum view (view.filter a) = true → quorum view (view.filter b) = true → ∃ r ∈ view, a r = true ∧ b r = true

/-- HEARTBEAT records its frame. SUSPECT_TIMEOUT after 64 silent frames, and SUSPECT, suspect the rank and announce it, outside a round. PROPOSE of an installed view is rejected, of the next view accepted; VOTE counts accepts, a reject ends the proposal; COMMIT schedules the view at its frame, and the installed view is left alone. PROPOSE_TIMEOUT without quorum drops the proposal with NO_QUORUM; before 32 frames it does nothing. VIEW_INSTALL before its frame does nothing; at it the view is installed, windows to departed ranks are DOWN, their flag stores dropped; it ends an exclusion only where it lists this device and MBR_INIT has been written since. NO_QUORUM_EXCLUDE after 256 frames without quorum excludes. MBR_INIT installs the view that its registers hold, in every state; MBR_JOIN on the lowest-ranked member names a rank that is no member as the joiner, elsewhere or of a member it does nothing. -/
def Obligations.MembershipInstallsViews : Prop :=
  ∀ (port r f v : Nat) (mp : MgmtPort) (m : Msg) (ms : List Nat) (p : Proposal) (s : State),
    let lm := memberList (m.payload.drop 64)
    let others : State → State → Prop := fun s t => t.fabric.members = s.fabric.members ∧ t.fabric.view = s.fabric.view ∧ t.fabric.owned = s.fabric.owned ∧
      t.fabric.regions = s.fabric.regions ∧ t.fabric.windows = s.fabric.windows ∧ t.fabric.requests = s.fabric.requests
    (accepts s port 0x11 m → fld m.payload 0 4 ≤ s.fabric.view →
      Does (.heartbeat port m) s [.fabric] (fun t => tget t.fabric.lastBeat m.src = some s.frame ∧ others s t)) ∧
    (s.isMember = true → (watchers s.fabric.members r).contains s.myRank = true → s.fabric.members.contains r = true → s.fabric.suspects.contains r = false →
      s.fabric.heldSusp.contains r = false → s.inRound = false →
      (tgetD s.fabric.lastBeat r s.fabric.viewFrame + 65 ≤ s.frame → Does (.suspectTimeout r) s [.out, .fabric] (fun t =>
        t.fabric.suspects = s.fabric.suspects ++ [r] ∧ others s t)) ∧
      (s.frame < tgetD s.fabric.lastBeat r s.fabric.viewFrame + 65 → Does (.suspectTimeout r) s [] (fun _ => True))) ∧
    (accepts s port 0x12 m → s.isMember = true → fld m.payload 0 2 = r → r < 4096 → s.fabric.members.contains r = true → s.fabric.suspects.contains r = false →
      s.fabric.heldSusp.contains r = false → s.inRound = false →
      Does (.suspect port m) s [.out, .fabric] (fun t => t.fabric.suspects = s.fabric.suspects ++ [r] ∧ others s t)) ∧
    (accepts s port 0x13 m → lm.contains s.myRank = true →
      (fld m.payload 0 4 ≤ s.fabric.view → Does (.propose port m) s [.out] (fun _ => True)) ∧
      (s.fabric.view < fld m.payload 0 4 → s.fabric.proposal = none → Does (.propose port m) s [.out, .fabric] (fun t => others s t ∧
        ∃ z, t.fabric.proposal = some z ∧ z.view = fld m.payload 0 4 ∧ z.proposer = fld m.payload 4 2 % 4096 ∧ z.members = lm))) ∧
    (accepts s port 0x14 m → s.fabric.proposal = some p → p.proposer = s.myRank → p.view = fld m.payload 0 4 → p.members.contains m.src = true →
      p.committed = false → fld m.payload 4 1 = 1 →
      (fld m.payload 5 1 = 0 → Does (.vote port m) s [.fabric] (fun t => t.fabric.proposal = none ∧ others s t)) ∧
      (fld m.payload 5 1 ≠ 0 → p.accepted.contains m.src = false → p.members.all (p.accepted ++ [m.src]).contains = true →
        Does (.vote port m) s [.out, .fabric] (fun t => t.fabric.install = some (p.view, p.members, s.frame + 4) ∧ others s t))) ∧
    (accepts s port 0x15 m → lm.contains s.myRank = true →
      (fld m.payload 0 4 ≤ s.fabric.view → Does (.commit port m) s [] (fun _ => True)) ∧
      (s.fabric.view < fld m.payload 0 4 → fld m.payload 4 4 = f → (s.frame < f ∧ f < 2 ^ 31) → s.frame < 2 ^ 31 →
        Does (.commit port m) s [.out, .fabric] (fun t => t.fabric.install = some (fld m.payload 0 4, lm, f) ∧ others s t))) ∧
    (s.fabric.proposal = some p → p.proposer = s.myRank → p.committed = false → p.members.all p.accepted.contains = false →
      (s.frame < p.frame + 32 → Does .proposeTimeout s [] (fun _ => True)) ∧
      (p.frame + 32 ≤ s.frame → quorum s.fabric.members (p.members.filter p.accepted.contains) = false → s.fabric.noQuorum = false →
        Does .proposeTimeout s [.out, .regs, .fabric] (fun t => t.fabric.proposal = none ∧ t.fabric.noQuorum = true ∧
          t.fabric.noQuorumSince = s.frame ∧ t.flag mbrStatus 9 = true ∧ others s t))) ∧
    (s.fabric.install = some (v, ms, f) → s.frame < f → Does .viewInstall s [] (fun _ => True)) ∧
    (s.fabric.install = some (v, ms, f) → f ≤ s.frame → s.fabric.owned = [] → s.groups = [] → s.tables = [] → s.fabric.requests = [] → s.fabric.held = [] →
      Does .viewInstall s [.out, .regs, .counters, .fabric] (fun t => t.fabric.view = v ∧ t.fabric.members = ms ∧ t.fabric.viewFrame = f ∧
        t.fabric.install = none ∧ t.flag mbrStatus 8 = true ∧
        t.fabric.excluded = (s.fabric.excluded && !(s.fabric.reinit && ms.contains s.myRank)) ∧
        (∀ i w, tget s.fabric.windows i = some w → tget t.fabric.windows i =
          some (if w.state = 1 ∧ s.fabric.members.contains w.rank = true ∧ ms.contains w.rank = false then { w with state := 2 } else w)) ∧
        (∀ h ∈ t.fabric.flagWait, s.fabric.members.contains h.msg.src = false ∨ ms.contains h.msg.src = true))) ∧
    (s.fabric.noQuorum = true → s.frame < s.fabric.noQuorumSince + 256 → Does .noQuorumExclude s [] (fun _ => True)) ∧
    (s.fabric.noQuorum = true → s.fabric.noQuorumSince + 256 ≤ s.frame → s.fabric.excluded = false →
      Does .noQuorumExclude s [.out, .regs, .works, .waits, .groups, .tables, .fabric] (fun t => t.fabric.excluded = true ∧ t.fabric.reinit = false ∧ t.flag mbrStatus 10 = true ∧
        (∀ x ∈ t.works, x.origin = none) ∧ ∀ o ∈ t.fabric.owned, o.acquired = false)) ∧
    (setUp s mp →
      let listed : State → Prop := fun t => t.fabric.view = (s.stored 0x080C018).toNat ∧ t.fabric.viewFrame = s.frame ∧ t.fabric.reinit = true ∧
        t.flag mbrStatus 8 = true ∧ ∀ i, i < 4096 → (t.fabric.members.contains i = (s.stored (0x080C100 + 8 * (i / 64))).getLsbD (i % 64))
      Does (.mbrInit mp) s (plus [.nextWork, .groups, .tables, .resident] waitParts) listed ∧
      (s.fabric.owned = [] → s.groups = [] → s.tables = [] → s.fabric.requests = [] → s.fabric.held = [] →
        Does (.mbrInit mp) s [.out, .regs, .counters, .fabric] listed) ∧
      (r < 4096 → s.fabric.members.contains r = false → bestBy (fun a b => decide (a < b)) s.fabric.members = some s.myRank →
        Does (.mbrJoin mp r) s [.fabric] (fun t => t.fabric = { s.fabric with joiner := some r })) ∧
      (s.fabric.members.contains r = true ∨ bestBy (fun a b => decide (a < b)) s.fabric.members ≠ some s.myRank →
        Does (.mbrJoin mp r) s [] (fun _ => True)))

/-- A STATE_COPY of one fragment of a request not known here is kept as the image of its phase and acknowledged; one of a phase already held is only acknowledged again; the first of two fragments is kept without an acknowledgement. STATE_ACK of the phase an owner waits for lets the next phase start; of the last phase it ends the record; any other changes nothing. OWN from a holder that is not ACQUIRED at the current view leaves a copy without an owner. OWN_TAKEOVER of a request whose copies have been ownerless for fewer than two boundaries changes nothing; then the lower-ranked holder acquires and ends a migration's record with a takeover record. -/
def Obligations.RequestStateIsCopiedAndTakenOver : Prop :=
  ∀ (port rank serial q : Nat) (m : Msg) (o : Owned) (s : State),
    let p := m.payload
    let id := payloadId p
    let ack : Nat → Nat → State → Prop := fun key phase t =>
      t.out = s.out ++ [Output.wilfer q 0x19 (s.mkMsg m.src 0 0 0 0 s.domainKey (2 ^ 31) (toLe 8 key ++ toLe 1 phase))]
    (accepts s port 0x18 m → s.routePort m.src = some q → sends s q →
      (s.recordOf id = none → fld p 12 2 = 1 → fld p 9 1 ≠ 3 → Does (.stateCopy port m) s [.out, .fabric] (fun t => ack (id.1 * 2 ^ 32 + id.2) (fld p 9 1) t ∧
        ∃ z, t.recordOf id = some z ∧ z.image = p.drop 64 ∧ z.phase = fld p 9 1 ∧ z.acquired = false ∧ z.partner = m.src ∧ z.kind = fld p 8 1)) ∧
      (s.recordOf id = none → fld p 12 2 = 2 → Does (.stateCopy port m) s [.fabric] (fun t => ∃ z, t.recordOf id = some z ∧ z.phase = 0 ∧
        z.frags = [(fld p 10 2, p.drop 64)])) ∧
      (s.recordOf id = some o → o.acquired = false → fld p 9 1 ≤ o.phase → Does (.stateCopy port m) s [.out] (ack o.id (fld p 9 1)))) ∧
    (accepts s port 0x19 m → s.recordOf id = some o → o.acquired = true → o.acked = false → o.partner = m.src →
      (o.phase ≠ fld p 8 1 → Does (.stateAck port m) s [] (fun _ => True)) ∧
      (o.phase = fld p 8 1 → o.phase = 3 → Does (.stateAck port m) s [.fabric] (fun t => t.request o.kind o.w = none)) ∧
      (o.phase = fld p 8 1 → o.phase ≠ 3 → o.kind = 2 → s.tables = [] → Does (.stateAck port m) s [.fabric] (fun t =>
        t.recordOf id = some { o with acked := true }))) ∧
    (accepts s port 0x1A m → s.recordOf id = some o →
      (o.acquired = true → Does (.own port m) s [] (fun _ => True)) ∧
      (o.acquired = false → fld p 8 1 = 0 → Does (.own port m) s [.fabric] (fun t => t.recordOf id = some { o with orphaned := max 1 o.orphaned })) ∧
      (o.acquired = false → fld p 8 1 = 1 → fld p 9 4 = s.fabric.view → o.image ≠ [] → Does (.own port m) s [.fabric] (fun t =>
        t.recordOf id = some { o with orphaned := 0, partner := m.src }))) ∧
    (s.recordOf (rank, serial) = some o → o.acquired = false →
      (o.orphaned < 3 → Does (.ownTakeover rank serial) s [] (fun _ => True)) ∧
      (3 ≤ o.orphaned → s.isMember = true → s.fabric.excluded = false → s.myRank < o.partner → o.kind = 3 →
        Does (.ownTakeover rank serial) s [.out, .regs, .fabric] (fun t => t.flag mbrStatus 11 = true ∧
          ∃ z, tget t.fabric.takeovers s.fabric.takeHead = some z ∧ z.owner = rank ∧ z.serial = serial ∧ z.kind = 3 ∧ z.phase = o.phase)))

/-- MGMT_PORT_CLASS changes the class of an unconfigured or held port, and sets CLASS_ERR for another. PORT_LINK_UP of an F-port trains onto 16 good pairs at 128 GT/s, with the spare only where both partners enable it, and stays down with fewer; on the watch oscillator and while coasting no link comes up; an H-port trains at x16, or at x8 on a half without failed lanes. A lane that fails in service is replaced by the spare, or the F-port goes down; an H-port falls to x8, on the half that neither the failed lane nor one that did not train is in, or down. The fourth failure in a row of one bridge flit is device-fatal. A failed IDE check makes the stream insecure, keys make it secure. A loopback request is obeyed only with PORT_LB_ALLOW. CONFIG_ACCESS is answered, and the bit that would advertise CXL.cache reads 0 (its place is a constant of Config, assumption 95). -/
def Obligations.PortsTrainAndLoseLanes : Prop :=
  ∀ (mp : MgmtPort) (port pair flit off : Nat) (v : Reg) (good : List Nat) (partner x128 x64 : Bool) (wr : Option Nat) (s : State),
    let p := s.port port
    let others : State → Prop := fun t => ∀ i, i ≠ port → t.port i = s.port i
    let ok := (List.range 17).filter (fun i => good.contains i && !(s.badLanes port).contains i)
    let usable := if s.spareEnabled port && partner then ok else ok.filter (· != 16)
    (setUp s mp → port < 12 → (∀ i, i < 12 → i ≠ port → bits v.toNat (2 * i + 1) (2 * i) = s.portClass i) →
      bits v.toNat (2 * port + 1) (2 * port) ≠ s.portClass port → bits v.toNat (2 * port + 1) (2 * port) ≠ 3 →
      (s.portClass port = 0 ∨ s.held port = true →
        Does (.mgmtPortClassWrite mp v) s [.regs, .ports] (fun t => t.portClass port = bits v.toNat (2 * port + 1) (2 * port) ∧
          (∀ i, i ≠ port → t.portClass i = s.portClass i) ∧ t.port port = { p with ideSecure := false, farEnd := false } ∧ others t)) ∧
      (s.portClass port ≠ 0 → s.held port = false →
        Does (.mgmtPortClassWrite mp v) s [.out, .regs] (fun t => t.flag 0x0010028 0 = true ∧ ∀ i, t.portClass i = s.portClass i))) ∧
    (port < 12 → s.held port = false → p.up = false → s.power.devReady = true → s.linksRun = false →
      Does (.portLinkUp port good partner x128) s [] (fun _ => True)) ∧
    (port < 12 → s.held port = false → p.up = false → s.power.devReady = true → s.linksRun = true →
      (s.portClass port = 2 → x128 = true → 16 ≤ usable.length → (usable.take 16).contains 16 = false →
        Does (.portLinkUp port good partner x128) s [.ports] (fun t => t.port port = { p with
          up := true, width := 2, rate := 2, lanes := usable.take 16, untrained := (List.range 17).filter (fun i => !good.contains i), spareUsed := false, spareOk := s.spareEnabled port && partner, farEnd := false } ∧ others t)) ∧
      (s.portClass port = 2 → (usable.length < 16 ∨ x128 = false) → Does (.portLinkUp port good partner x128) s [] (fun _ => True)) ∧
      (s.portClass port = 1 → (List.range 16).all (fun i => ok.contains i) = true →
        Does (.portLinkUp port good partner x128) s [.ports] (fun t => (t.port port).up = true ∧ (t.port port).width = 2 ∧ (t.port port).lanes = List.range 16 ∧ others t)) ∧
      (s.portClass port = 1 → (List.range 8).all (fun i => ok.contains i) = true → ok.contains 8 = false →
        Does (.portLinkUp port good partner x128) s [.ports] (fun t => (t.port port).up = true ∧ (t.port port).width = 1 ∧ (t.port port).lanes = List.range 8 ∧ others t))) ∧
    (s.portClass port = 2 → p.up = true → p.lanes.contains pair = true → s.groups = [] → s.fabric.requests = [] →
      (p.spareUsed = false → p.spareOk = true →
        Does (.laneFail port pair) s [.out, .regs, .counters, .ports, .errs, .health, .svcPrev] (fun t =>
          t.port port = { p with lanes := p.lanes.filter (· != pair) ++ [16], spareUsed := true } ∧ others t ∧ bit t.svcCauses 4 = true)) ∧
      (p.spareUsed = true ∨ p.spareOk = false →
        Does (.laneFail port pair) s [.out, .regs, .counters, .ports, .errs, .health, .fabric] (fun t =>
          (t.port port).up = false ∧ (t.port port).width = 0 ∧ others t ∧ t.health.lanes.contains (port, pair) = true))) ∧
    (s.portClass port = 1 → p.up = true → p.lanes.contains pair = true → s.badLanes port = [] →
      (goodHalf (pair :: p.untrained) = none → Does (.hportLaneFault port pair x128 x64) s [.out, .regs, .counters, .ports, .errs, .health] (fun t =>
        (t.port port).up = false ∧ (t.port port).width = 0 ∧ others t)) ∧
      ∀ half, goodHalf (pair :: p.untrained) = some half → (∀ i ∈ half, i ≠ pair ∧ i ∉ p.untrained) ∧
      (x128 = true → Does (.hportLaneFault port pair x128 x64) s [.out, .regs, .counters, .ports, .errs, .health] (fun t =>
        t.port port = { p with width := 1, rate := 2, lanes := half } ∧ others t)) ∧
      (x128 = false → x64 = true → Does (.hportLaneFault port pair x128 x64) s [.out, .regs, .counters, .ports, .errs, .health] (fun t =>
        t.port port = { p with width := 1, rate := 1, lanes := half } ∧ others t)) ∧
      (x128 = false → x64 = false → Does (.hportLaneFault port pair x128 x64) s [.out, .regs, .counters, .ports, .errs, .health] (fun t =>
        (t.port port).up = false ∧ others t))) ∧
    (tgetD s.bridgeFails flit 0 = 3 → Does (.bridgeCrcFail flit) s [.out, .regs, .counters, .errs, .power, .bridgeFails] (fun t =>
      t.power.devReady = false ∧ t.power.fatal = true ∧ t.flag nmiOff 1 = true)) ∧
    (tgetD s.bridgeFails flit 0 < 3 → Does (.bridgeCrcFail flit) s [.out, .regs, .counters, .errs, .bridgeFails] (fun t =>
      tgetD t.bridgeFails flit 0 = tgetD s.bridgeFails flit 0 + 1)) ∧
    (s.portClass port = 1 → p.ideSecure = true → Does (.ideCheckFail port) s [.out, .regs, .counters, .ports] (fun t =>
      t.port port = { p with ideSecure := false } ∧ others t ∧ counted s t (portBase port + 0x38) ∧ t.flag (portBase port + 0x20) 10 = true)) ∧
    (hostPort s port → Does (.ideKeyProg port) s [.ports] (fun t => t.port port = { p with ideSecure := true } ∧ others t)) ∧
    (port < 12 → s.held port = false → s.portClass port ≠ 0 →
      (s.flag (portBase port + 8) 0 = true → Does (.loopbackRequestRemote port) s [.ports] (fun t => t.port port = { p with farEnd := true } ∧ others t)) ∧
      (s.flag (portBase port + 8) 0 = false → Does (.loopbackRequestRemote port) s [] (fun _ => True))) ∧
    (hostPort s port → sends s port →
      Does (.configAccess port off wr) s [.out] (fun t =>
        t.out = s.out ++ [Output.reply (.port port) 0 (match wr with | some _ => [] | none => toLe 4 (configRead port off))]) ∧
      bit (configRead port Config.cacheCapable.1) Config.cacheCapable.2 = false)

/-- On a management port outside PERST, with auxiliary power and boot complete, GET_MEASUREMENTS of index 1 to 7 is answered with the measurement, mutual authentication as unsupported; on an H-port index 0x10 is invalid. GET_CERTIFICATE with the chain to the alias key of this boot. An MCTP message that changes set-up fails from a port without the semaphore, any other is answered. PLDM monitoring is answered, a PLDM control write fails without the semaphore; an unsigned update is refused, a signed one is kept for the other bank. While PERST is asserted none of SPDM and PLDM is answered. On an H- or F-port MCTP, PLDM and register accesses are dropped, counted and reported. ACTIVATE_SVN never lowers a fused number; COPY_MEASUREMENTS puts every measurement in the mailbox. -/
def Obligations.StandardRequestsAreAnswered : Prop :=
  ∀ (mp : MgmtPort) (i p off image svn : Nat) (v : Reg) (s : State),
    let port : PortRef := .mgmt mp
    (s.power.perst = false → s.power.auxOk = true →
      (s.bootFailed = false → 1 ≤ i → i ≤ 7 →
        Does (.spdmRequest port (.getMeasurements i)) s [.out] (fun t => t.out = s.out ++ [Output.reply port 0 (s.measurement i)])) ∧
      (s.bootFailed = false → Does (.spdmRequest port .mutualAuth) s [.out] (fun t => t.out = s.out ++ [Output.reply port 7 []])) ∧
      (s.bootFailed = true → Does (.spdmRequest port .mutualAuth) s [] (fun _ => True)) ∧
      (s.bootFailed = false → Does (.spdmRequest port .getCertificate) s [.out] (fun t => t.out = s.out ++ [Output.reply port 0 s.certChain])) ∧
      (s.holdsSem mp = false → Does (.mctpMessage port true) s [.out, .regs, .counters] (fun t => Output.reply port 1 [] ∈ t.out)) ∧
      (s.holdsSem mp = true → Does (.mctpMessage port true) s [.out] (fun t => t.out = s.out ++ [Output.reply port 0 (Config.standardAnswer 7)])) ∧
      Does (.mctpMessage port false) s [.out] (fun t => t.out = s.out ++ [Output.reply port 0 (Config.standardAnswer 7)]) ∧
      (s.bootFailed = false → s.holdsSem mp = false → off ≠ semOff → Does (.pldmRequest port (.control off v)) s [.out, .regs, .counters] (fun t =>
        Output.reply port 1 [] ∈ t.out)) ∧
      (s.bootFailed = false → Does (.pldmRequest port (.monitor i)) s [.out] (fun t =>
        t.out = s.out ++ [Output.reply port 0 (Config.sensor i s.power.maxC s.power.throttle s.svcCauses)])) ∧
      (2 ≤ image → image ≤ 5 → Does (.pldmRequest port (.update image svn true)) s [.out, .owl] (fun t => tget t.owl.otherBank image = some svn ∧
        t.owl.svn = s.owl.svn ∧ t.out = s.out ++ [Output.reply port 0 []])) ∧
      Does (.pldmRequest port (.update image svn false)) s [.out] (fun t => t.out = s.out ++ [Output.reply port 1 []])) ∧
    (s.power.perst = true → Does (.spdmRequest port .getVersion) s [] (fun _ => True) ∧ Does (.pldmRequest port (.monitor i)) s [] (fun _ => True)) ∧
    (s.carries p = true →
      let dropped := fun (t : State) => counted s t (portBase p + 0x30) ∧ t.flag (portBase p + 0x20) 9 = true
      Does (.mctpMessage (.port p) false) s [.out, .regs, .counters] dropped ∧ Does (.mctpMessage (.port p) true) s [.out, .regs, .counters] dropped ∧
        Does (.pldmRequest (.port p) (.monitor i)) s [.out, .regs, .counters] dropped ∧
        Does (.registerWrite (.port p) (.register off) svn (some v) 0) s [.out, .regs, .counters] dropped) ∧
    (hostPort s p → sends s p → Does (.spdmRequest (.port p) (.getMeasurements 0x10)) s [.out] (fun t =>
      t.out = s.out ++ [Output.reply (.port p) 4 []])) ∧
    (setUp s mp → 2 ≤ image → image ≤ 5 → Does (.activateSvn mp image) s [.out, .regs, .owl] (fun t =>
      t.fusedSvn image = max (s.fusedSvn image) (s.imageSvn image) ∧ (∀ k, k ≠ image → t.fusedSvn k = s.fusedSvn k) ∧ t.owl.mboxResult = 0 ∧
      t.flag 0x0900008 1 = true)) ∧
    (setUp s mp → Does (.copyMeasurements mp) s [.out, .regs, .owl] (fun t => t.owl.mboxResult = 0 ∧ t.flag 0x0900008 1 = true ∧
      t.owl.mboxData = slice (([1, 2, 3, 4, 5, 6, 7, 0x10].map s.measurement).flatten) 0 4096))

/-- GRAIN_WRITE joins the write buffer, or is refused whole with MEDIA_EXHAUSTED. PROGRAM_DONE of a buffered grain with a place on a die that takes it lays its waiting writes over the old contents, points the map to the place and frees the buffer; a failed program leaves map and buffer as they were; where the old contents are needed and LOST, the writes end MEDIA_UNCORRECTABLE (assumption 84). STRIPE_PARITY_WRITE fills the stripe and adds its exclusive or. FLASH_READ answers the contents, zeros of an UNWRITTEN grain, MEDIA_UNCORRECTABLE of a LOST one; a grain that neither a read nor its stripe recovers becomes LOST; while background work holds the die, or no run of its tenancy's frames is long enough, it waits. FOLD and SCRUB_REWRITE begin a copy with the map as it was, and end it by moving the map only if it still points to the source. SCRUB_READ notes its time and retires a block with too many corrected bits. BG_OP_SUSPEND holds a die's operations that may not continue, and those for which a read waits unless their deadline falls before the end of the next frame; BG_OP_RESUME continues those that may, with no read waiting. No command touches another Badger, but for a refused write's own parts. -/
def Obligations.FlashReadsAndWrites : Prop :=
  ∀ (b tenancy grain off req die bitsFixed stripe : Nat) (data : Bytes) (ecc : List Bool) (m dst : MapEntry) (p : Programmed) (y : Badger)
    (o : BgOp) (c : SuperBlock) (s s' : State),
    let x := s.badger b
    let others : State → Prop := fun t => ∀ i, i ≠ b → t.badger i = s.badger i
    let may := fun d => s.firstOnDie (programOp b grain) 0 tenancy (dieMap b d) && s.nandFits (dieMap b d) tenancy s.part.programNs && !x.dieBusy d
    let up : Prop := x.disabled = false ∧ x.mapReady = true
    let here : Prop := up ∧ tget x.map grain = some m ∧ m.lost = false ∧ x.programmed m = some p ∧ x.failedDies.contains m.die = false ∧ p.tsLow = false
    let moved : State → Prop := fun t => others t ∧ o ∉ (t.badger b).bgOps ∧
      tget (t.badger b).map grain = if tget x.map grain = some o.src then some o.dst else tget x.map grain
    let begun : State → Prop := fun t => others t ∧ (t.badger b).map = x.map ∧ ∃ k ∈ (t.badger b).bgOps, k.grain = grain ∧ k.src = m ∧ k.dst = dst ∧
      k.suspended = false
    let toCopy : Prop := here ∧ x.readOnly = false ∧ x.copyOf grain = none ∧
      s.takePlace b p.tenancy false (fun d => s.bgServes (dieMap b d) p.tenancy && !x.bgOps.any (fun o => o.die == d)) = some (y, dst)
    (up → data ≠ [] → data.length % 64 = 0 → off % 64 = 0 → off + data.length ≤ 16384 → grain < 2 ^ 31 →
      (s.refusesGrains tenancy b [grain] = false →
        Does (.grainWrite b tenancy grain off req data) s [.badgers] (fun t => others t ∧
          t.badger b = { x with wbuf := x.wbuf ++ [{ tenancy, grain, offset := off, data, req }] })) ∧
      (x.shutDone = false → req < 2 ^ 64 → s.refusesGrains tenancy b [grain] = true →
        Does (.grainWrite b tenancy grain off req data) s [.out, .waits, .badgers] (fun t => t.out = s.out ++ [Output.flashAck req 0x30] ∧
          ∀ i, t.badger i = { s.badger i with wbuf := (s.badger i).wbuf.filter (fun w => w.req != req) }))) ∧
    (x.wbuf.find? (fun w => w.grain == grain) = some { tenancy, grain, offset := off, data, req } → x.shutDone = false → x.readOnly = false →
      (s.buffered b tenancy).contains grain = true →
      (∀ base, x.mergeBase grain = some base → s.takePlace b tenancy true may = some (y, m) →
        Does (.programDone b grain true) s [.out, .counters, .slots, .waits, .badgers] (fun t => others t ∧
          tget (t.badger b).map grain = some m ∧ (t.badger b).wbuf = x.wbuf.filter (fun w => w.grain != grain) ∧
          ∃ q ∈ (t.badger b).media, q.at_ m = true ∧ q.logical = grain ∧ q.seq = x.seq ∧ q.crcOk = true ∧
            q.data = (x.wbuf.filter (fun w => w.grain == grain)).foldl overlay base) ∧
        Does (.programDone b grain false) s [.out, .regs, .counters, .slots, .waits, .badgers, .health, .svcPrev, .errs] (fun t => others t ∧
          (t.badger b).map = x.map ∧ (t.badger b).wbuf = x.wbuf)) ∧
      (x.mergeBase grain = none → req < 2 ^ 64 → (∀ w ∈ x.wbuf, w.grain = grain → w.req = req) → Does (.programDone b grain true) s [.out, .waits, .badgers] (fun t =>
        t.out = s.out ++ [Output.flashAck req 0x31] ∧ (t.badger b).map = x.map ∧ ∀ w ∈ (t.badger b).wbuf, w.grain ≠ grain))) ∧
    (x.supers.find? (fun k => k.id == req) = some c → c.dies ≠ [] → c.dies.Nodup → x.wantsParity c stripe = true →
      let w := c.dies.length
      let slot := fun k => x.slotEntry c (stripe * w + k)
      Does (.stripeParityWrite b req stripe) s [.badgers] (fun t => others t ∧
        let at' := fun k => (t.badger b).media.find? (fun q =>
          q.die == c.dies.getD k 0 && q.page == (slot k).page && q.plane == (slot k).plane && x.inSuper c q)
        let rest := (List.range w).filter (fun k => k != parityPos w stripe)
        (∀ k, k < w → (at' k).isSome = true) ∧ (t.badger b).wantsParity c stripe = false ∧
        ∃ q ∈ (t.badger b).media, q.parity = true ∧ q.at_ (slot (parityPos w stripe)) = true ∧
          q.data = rest.foldl (fun acc k => match at' k with | some d => xorAll acc d.data | none => acc) zeroGrain)) ∧
    (up → tget x.map grain = none →
      Does (.flashRead b grain ecc req) s [.out] (fun t => t.out = s.out ++ [Output.flashData req 0 zeroGrain])) ∧
    (up → tget x.map grain = some m → m.lost = true →
      Does (.flashRead b grain ecc req) s [.out] (fun t => t.out = s.out ++ [Output.flashData req 0x31 []])) ∧
    (here → s.passDie (readOp req) 0 p.tenancy (dieMap b m.die) s.part.readNs (x.dieBusy m.die) = .go s' →
      (ecc.getD 0 true = true → Does (.flashRead b grain ecc req) s [.out, .counters, .slots, .waits] (fun t =>
        t.out = s.out ++ [Output.flashData req 0 p.data])) ∧
      (ecc = List.replicate ((s.thresholds x p).length + 1) false →
        Does (.flashRead b grain ecc req) s [.out, .regs, .counters, .slots, .waits, .badgers, .errs] (fun t => others t ∧
          t.out.getLast? = some (Output.flashData req 0x31 []) ∧ tget (t.badger b).map grain = some { m with lost := true }))) ∧
    (here → s.slots.waits.any (fun v => v.w == readOp req) = false → (x.dieBusy m.die = true ∨ s.nandFits (dieMap b m.die) p.tenancy s.part.readNs = false) →
      Does (.flashRead b grain ecc req) s [.waits] (fun t =>
        t.slots.waits = s.slots.waits ++ [{ w := readOp req, cell := 0, tenancy := p.tenancy, unit := dieMap b m.die, served := false }])) ∧
    (toCopy → m.slc = true → s.bgFrames = true → Does (.fold b grain) s [.badgers] begun) ∧
    (toCopy → x.rewrite.contains grain = true → s.badgerWindow = true → s.time.valid = true → s.clock.active = some .xo →
      Does (.scrubRewrite b grain) s [.badgers] begun) ∧
    (up → x.readOnly = false → x.copyOf grain = some o →
      (o.suspended = false → Does (.fold b grain) s [.badgers] moved ∧ Does (.scrubRewrite b grain) s [.badgers] moved) ∧
      (o.suspended = true → Does (.fold b grain) s [] (fun _ => True) ∧ Does (.scrubRewrite b grain) s [] (fun _ => True))) ∧
    (here → s.bgServes (dieMap b m.die) p.tenancy = true → x.dieBusy m.die = false → ecc.getD 0 true = true →
      (bitsFixed ≤ (s.stored 0x0300148).toNat % 2 ^ 16 → Does (.scrubRead b grain ecc bitsFixed) s [.badgers] (fun t => others t ∧
        t.badger b = { x with lastScrub := tset x.lastScrub grain s.time.now })) ∧
      ((s.stored 0x0300148).toNat % 2 ^ 16 < bitsFixed → m.block < x.blocks → x.owlBlock m.die m.block = false →
        Does (.scrubRead b grain ecc bitsFixed) s [.out, .regs, .counters, .badgers, .svcPrev, .errs] (fun t => others t ∧
          (t.badger b).retired.any (fun r => r.1 == m.die && r.2.1 == m.block) = true))) ∧
    Does (.bgOpSuspend b die) s [.badgers] (fun t => others t ∧ ∀ k ∈ x.bgOps,
      (k.die = die → s.mayContinue b k = false ∨ (s.readWaits b die = true ∧ ∀ d, k.deadline = some d → (s.frame + 2) * 2 ^ 14 ≤ d) →
        { k with suspended := true } ∈ (t.badger b).bgOps) ∧
      (k.die ≠ die ∨ (s.mayContinue b k = true ∧ (s.readWaits b die = false ∨ ∃ d, k.deadline = some d ∧ d < (s.frame + 2) * 2 ^ 14)) →
        k ∈ (t.badger b).bgOps)) ∧
    Does (.bgOpResume b die) s [.badgers] (fun t => others t ∧ ∀ k ∈ x.bgOps,
      (k.die = die → s.mayContinue b k = true → s.readWaits b die = false → { k with suspended := false } ∈ (t.badger b).bgOps) ∧
      (k.die ≠ die ∨ s.mayContinue b k = false ∨ s.readWaits b die = true → k ∈ (t.badger b).bgOps))

/-- GARBAGE_COLLECT begins a copy of the last valid grain of the best closed superblock, a later one ends it by moving the map, and in the Badger window it erases the closed superblocks without valid grains; WEAR_LEVEL erases a closed superblock left without valid grains that is erased too few times. SLC_RESIZE sets R571's target, DIE_TEMP_READ the die's temperature. BLOCK_RETIRE and DIE_FAIL mark the block and the die, which enters the health record. READ_ONLY_ENTER refuses every waiting write; READ_ONLY_LEAVE journals the held trims. NF_CFG_WRITE keeps the value for the next reset; SHUTDOWN writes each Badger's checkpoint, CHECKPOINT_LOAD takes it, MAP_REBUILD makes the map of the records of the media: of a grain, a good record with the highest SEQ. MAP_READY brings back the tensors of SEALED tenancies. -/
def Obligations.MediaHealthAndRebuild : Prop :=
  (∀ (media : List Programmed) (g : Nat),
    let good := fun (q : Programmed) => q.crcOk && !q.parity && q.seq != 0 && q.logical == g
    (media.any good = true → ∃ p, tget (rebuiltMap media) g = some p) ∧
    ∀ p, tget (rebuiltMap media) g = some p → p ∈ media ∧ good p = true ∧ ∀ q ∈ media, good q = true → q.seq ≤ p.seq) ∧
  ∀ (mp : MgmtPort) (b i sup die block grp : Nat) (temp : Int) (why : RetireCause) (v : Reg) (p : Programmed) (dst : MapEntry) (y : Badger)
    (c : SuperBlock) (cmap : Tab MapEntry) (cseq : Nat) (s : State),
    let x := s.badger b
    let others : State → Prop := fun t => ∀ j, j ≠ b → t.badger j = s.badger j
    let up : Prop := x.disabled = false ∧ x.mapReady = true ∧ x.readOnly = false
    let onDie : Prop := x.disabled = false ∧ die < 64 ∧ die % 16 < x.diesPerChannel
    let most := ((List.range x.blocks).map (x.erases c.group)).foldl max 0
    (up → grp < x.groups → s.bgFrames = true → s.badgerWindow = false →
      bestBy (fun a b => decide ((x.validIn a).length < (x.validIn b).length))
        (x.supers.filter (fun k => k.group == grp && !k.slc && (x.nextSlot k).isNone)) = some c →
      x.bgOps = [] → x.validIn c = [p] → x.failedDies.contains p.die = false → p.tsLow = false →
      s.takePlace b p.tenancy false (fun d => s.bgServes (dieMap b d) p.tenancy && !x.bgOps.any (fun o => o.die == d)) = some (y, dst) →
      Does (.garbageCollect b grp) s [.badgers] (fun t => others t ∧ (t.badger b).map = x.map ∧
        (∃ k ∈ (t.badger b).bgOps, k.grain = p.logical ∧ k.dst = dst ∧ k.suspended = false) ∧
        ∃ q ∈ (t.badger b).media, q.at_ dst = true ∧ q.data = p.data ∧ q.logical = p.logical ∧ q.seq = p.seq ∧ q.crcOk = false)) ∧
    (up → grp < x.groups → s.bgFrames = false →
      bestBy (fun a b => decide ((x.validIn a).length < (x.validIn b).length))
        (x.supers.filter (fun k => k.group == grp && !k.slc && (x.nextSlot k).isNone)) = some c →
      (x.bgOps = [] → Does (.garbageCollect b grp) s [.badgers] (fun t => ∀ j, t.badger j = s.badger j)) ∧
      (∀ o, x.bgOps = [o] → o.suspended = false → x.superOf o.src = some c →
        Does (.garbageCollect b grp) s [.badgers] (fun t => others t ∧ (t.badger b).bgOps = [] ∧
          tget (t.badger b).map o.grain = if tget x.map o.grain = some o.src then some o.dst else tget x.map o.grain))) ∧
    (up → grp < x.groups → s.badgerWindow = true → x.bgOps = [] → (∀ k ∈ x.supers, x.validIn k = []) →
      Does (.garbageCollect b grp) s [.badgers] (fun t => others t ∧ (t.badger b).map = x.map ∧
        (t.badger b).supers = x.supers.filter (fun k => !(x.supers.any (fun j => j.id == k.id && j.group == grp && (x.nextSlot j).isNone))))) ∧
    (x.supers.find? (fun k => k.id == sup) = some c →
      (up → s.badgerWindow = true → x.nextSlot c = none → x.erases c.group c.block + (s.stored 0x0300160).toNat % 2 ^ 16 < most →
        x.validIn c = [] → x.bgOps = [] → Does (.wearLevel b sup) s [.badgers] (fun t => others t ∧
          (t.badger b).supers.any (fun k => k.id == sup) = false)) ∧
      (most ≤ x.erases c.group c.block + (s.stored 0x0300160).toNat % 2 ^ 16 → Does (.wearLevel b sup) s [] (fun _ => True))) ∧
    (up → s.badgerWindow = true → Does (.slcResize b) s [.badgers] (fun t => others t ∧
      t.badger b = { x with slcTarget := slcTargetOf (x.groups * x.blocks) (x.map.filter (fun e => !e.2.lost)).length x.userGrains })) ∧
    (onDie →
      Does (.dieTempRead b die temp) s [.badgers] (fun t => others t ∧ t.badger b = { x with temps := tset x.temps die temp }) ∧
      (block < x.blocks → x.owlBlock die block = false → Does (.blockRetire b die block why) s [.out, .regs, .counters, .badgers, .svcPrev, .errs] (fun t => others t ∧
        (t.badger b).retired.any (fun r => r.1 == die && r.2.1 == block) = true ∧ (t.badger b).map = x.map)) ∧
      (x.failedDies.contains die = false →
        Does (.dieFail b die) s [.out, .regs, .counters, .badgers, .health, .svcPrev, .errs] (fun t => others t ∧
          (t.badger b).failedDies = x.failedDies ++ [die] ∧ t.health.dies = s.health.dies ++ [(b, die)] ∧ (t.badger b).map = x.map))) ∧
    (x.disabled = false → x.readOnly = false → s.mediaExhausted b = true →
      Does (.readOnlyEnter b) s [.out, .regs, .counters, .badgers, .burrows, .vcache, .works, .waits, .jobs, .extents, .svcPrev, .errs] (fun t =>
        (t.badger b).readOnly = true ∧ (t.badger b).wbuf = [] ∧ (t.badger b).map = x.map ∧ t.flag (0x0300040 + 16 * b) 8 = true ∧
        ∀ w ∈ x.wbuf, w.req < 2 ^ 64 → Output.flashAck w.req 0x30 ∈ t.out)) ∧
    (x.readOnly = true → (∀ g, g < x.groups → x.supers.any (fun k => k.group == g && k.open_) = true → 2 ≤ x.freeCount g + x.reclaimable g) →
      Does (.readOnlyLeave b) s [.out, .regs, .badgers, .svcPrev] (fun t => others t ∧ (t.badger b).readOnly = false ∧
        (t.badger b).heldTrims = [] ∧ (t.badger b).journal = x.journal ++ x.heldTrims.map (fun g => JournalRec.trim g x.seq))) ∧
    (setUp s mp → b < 8 → Does (.nfCfgWrite mp b v) s [.owl] (fun t => tget t.owl.nfCfg b = some v ∧
      t.owl = { s.owl with nfCfg := t.owl.nfCfg } ∧ ∀ j, j ≠ b → tget t.owl.nfCfg j = tget s.owl.nfCfg j)) ∧
    (setUp s mp → Does (.shutdown mp) s [.regs, .badgers] (fun t => t.flag 0x03000C0 0 = true ∧ ∀ j, (s.badger j).disabled = false →
      (s.badger j).mapReady = true → (s.badger j).shutDone = false → (s.badger j).bgOps = [] →
      t.badger j = { s.badger j with clean := some ((s.badger j).map, (s.badger j).seq), shutDone := true })) ∧
    (x.disabled = false → x.loaded = false → x.clean = some (cmap, cseq) →
      Does (.checkpointLoad b) s [.badgers] (fun t => others t ∧ (t.badger b).map = cmap ∧ (t.badger b).seq = cseq ∧ (t.badger b).clean = none ∧
        (t.badger b).loaded = true)) ∧
    (x.disabled = false → x.loaded = false → x.clean = none →
      Does (.mapRebuild b) s [.badgers] (fun t => others t ∧ (t.badger b).loaded = true ∧
        (t.badger b).map = (replayTrims (rebuiltMap x.media) x.journal).map (fun e => (e.1, e.2.entry)))) ∧
    (x.disabled = false → x.loaded = true → x.mapReady = false →
      Does (.mapReady b) s [.tensors, .tensorGen, .badgers] (fun t => others t ∧ (t.badger b).mapReady = true ∧
        ∀ r, tget (lastTensors x.journal) i = some r → (s.ten r.tenancy).state = 1 →
          tget t.tensors i = some { r with state := 1, ownerCtx := noCtx }))

/-- BIND of a FREE or SEALED tenancy, and MODIFY of a BOUND one, whose shadow values neither conflict nor shrink, make them all live at once; BIND gives a FREE tenancy a new key and the next GEN, keeps a SEALED one's, seals its record, and leaves it STRICT until the next commit. A command that Table 15.1 does not allow, a conflict, a shrink and tenancy 0 fail with their causes; without room for zero-on-first-touch entries the block is BUSY, and holds one more command. TEARDOWN marks the sealed record; once step 1 has ended the key, the record and every object are gone, every allotment reads zero and every granule is pending zero-fill in full; with the last of them filled the tenancy is FREE and FREED is set. ZERO_FILL in a background period, in its tenancy's turn on the unit, clears its block, and zeroes it where no object lives. -/
def Obligations.TenanciesComeAndGo : Prop :=
  ∀ (mp : MgmtPort) (t region g blk : Nat) (f : FillItem) (s : State),
    let x := s.ten t
    let u := s.applyShadow t
    let failed : Nat → State → Prop := fun cause r => r.cmdTen = { s.cmdTen with cause } ∧ r.flag 0x0040010 0 = true
    let fails := [Part.out, Part.regs, Part.cmdTen]
    let keepers : State → Prop := fun r => ∀ v, v ≠ t → r.ten v = s.ten v
    let mode := some (bit (s.shadowReg t 0x0040100) 0)
    let gen := if x.state = 0 then (x.gen + 1) % 2 ^ 16 else x.gen
    let waits := 8192 < s.firstTouch.length + (s.touchNeeds u t).length
    (ready s mp .ten →
      (t = 0 → Does (.tenBind mp t) s fails (failed 5) ∧ Does (.tenModify mp t) s fails (failed 5) ∧ Does (.tenTeardown mp t) s fails (failed 5)) ∧
      (0 < t → t < 512 →
        (2 ≤ x.state → Does (.tenBind mp t) s fails (failed 1)) ∧
        (x.state ≠ 2 → Does (.tenModify mp t) s fails (failed 1)) ∧
        (x.state ≠ 1 → x.state ≠ 2 → Does (.tenTeardown mp t) s fails (failed 1)) ∧
        (s.tenConflict t = true → (x.state ≤ 1 → Does (.tenBind mp t) s fails (failed 2)) ∧ (x.state = 2 → Does (.tenModify mp t) s fails (failed 2))) ∧
        (s.tenConflict t = false → s.tenShrinks u t = true →
          (x.state ≤ 1 → Does (.tenBind mp t) s fails (failed 3)) ∧ (x.state = 2 → Does (.tenModify mp t) s fails (failed 3))) ∧
        (s.tenConflict t = false → s.tenShrinks u t = false → waits →
          (x.state ≤ 1 → Does (.tenBind mp t) s [.cmdTen] (fun r => r.cmdTen = { s.cmdTen with busy := true, running := some (.tenBind mp t) })) ∧
          (x.state = 2 → Does (.tenModify mp t) s [.cmdTen] (fun r => r.cmdTen = { s.cmdTen with busy := true, running := some (.tenModify mp t) }))) ∧
        (s.tenConflict t = false → s.tenShrinks u t = false → ¬ waits →
          (x.state ≤ 1 → Does (.tenBind mp t) s [.live, .firstTouch, .tenancies, .mem, .owl] (fun r => keepers r ∧
            r.ten t = { x with state := 2, shared := false, unmoded := true, newMode := mode, gen, fatal := false, step := 0 } ∧ r.live = u.live ∧
            r.firstTouch = s.firstTouch ++ s.touchNeeds u t ∧ tget r.owl.sealed t = some (gen, false) ∧
            r.keyHandle t = 2 ^ 28 + gen % 2 ^ 16 * 2 ^ 12 + t)) ∧
          (x.state = 2 → Does (.tenModify mp t) s [.out, .counters, .live, .tenancies, .ctxs, .rings, .works, .waits, .nextWork, .lastCredit,
              .firstTouch, .burrows, .tables, .jobs, .fabric, .mem, .trace] (fun r => keepers r ∧ r.ten t = { x with newMode := mode } ∧ r.live = u.live ∧
            r.firstTouch = s.firstTouch ++ s.touchNeeds u t))) ∧
        (x.state = 1 ∨ x.state = 2 →
          let begun : State → Prop := fun r => keepers r ∧ r.ten t = { x with state := 3, step := 1, newMode := none } ∧
            (∀ gm, tget s.owl.sealed t = some gm → tget r.owl.sealed t = some (gm.1, true)) ∧ r.owl.keys = s.owl.keys ∧
            (∀ i e, tget r.extents i = some e → e.tenancy = t → e.state ≠ 1) ∧
            ∀ i w, tget r.fabric.windows i = some w → w.tenancy ≠ t
          Does (.tenTeardown mp t) s (plus [.tenancies, .ctxs, .rings, .tensors, .leases, .fabric, .owl] homeParts) begun ∧
          (s.extents.all (fun e => !(e.2.tenancy == t && e.2.state == 1)) = true →
            Does (.tenTeardown mp t) s [.slots, .tenancies, .ctxs, .rings, .tensors, .fabric, .owl] begun)))) ∧
    (setUp s mp → s.cmdTen.busy = true →
      (s.cmdTen.held = none → Does (.tenModify mp t) s [.cmdTen] (fun r => r.cmdTen = { s.cmdTen with held := some (.tenModify mp t) })) ∧
      (s.cmdTen.held.isSome = true → Does (.tenModify mp t) s fails (failed 7))) ∧
    (0 < t → t < 512 →
      (x.state = 3 → x.step = 1 → s.tenIdle t = true → Does (.teardownKeyDestroy t) s [.shadow, .live, .tenancies, .ctxs, .rings, .fill, .firstTouch,
          .burrows, .images, .tables, .tensors, .jobs, .holds, .lateFree, .vcache, .atc, .faults, .badgers, .owl] (fun r =>
        keepers r ∧ r.ten t = { x with step := 4 } ∧ r.owl.keys.contains t = false ∧ tget r.owl.sealed t = none ∧ r.keyHandle t = 0 ∧
        (∀ off, off < 2 ^ 26 → r.liveReg t off = 0) ∧ r.burrows.all (fun e => e.2.tenancy != t) = true ∧ r.tables.all (fun e => e.2.tenancy != t) = true ∧
        r.images.all (fun e => e.2.tenancy != t) = true ∧ r.tensors.all (fun e => e.2.tenancy != t) = true ∧
        ∀ p ∈ s.granulesOf t, ({ region := p.1, granule := p.2, blocks := List.range 512, freedBy := 512 + t } : FillItem) ∈ r.fill)) ∧
      (x.state ≠ 3 ∨ x.step ≠ 1 ∨ s.tenIdle t = false → Does (.teardownKeyDestroy t) s [] (fun _ => True)) ∧
      (x.state = 3 → x.step = 4 → s.fill.any (fun i => i.freedBy == 512 + t) = false →
        Does (.tenancyFreed t) s [.out, .regs, .tenancies] (fun r => keepers r ∧ r.ten t = { Tenancy.fresh with gen := x.gen } ∧ r.flag 0x0040010 8 = true)) ∧
      (s.fill.any (fun i => i.freedBy == 512 + t) = true → Does (.tenancyFreed t) s [] (fun _ => True))) ∧
    (s.fill.find? (fun i => i.region == region && i.granule == g && i.blocks.contains blk) = some f →
      (s.fillUnit region g (if f.freedBy < 512 then f.freedBy else 0)).isSome = true → s.cmdTen.running = none →
      Does (.zeroFill region g blk) s [.slots, .memory, .poison, .fill, .firstTouch] (fun r =>
        (∀ i ∈ r.fill, i.region = region → i.granule = g → blk ∉ i.blocks) ∧
        (∀ i ∈ r.firstTouch, i.region = region → i.granule = g → blk ∉ i.blocks) ∧
        let a := regionBase region + g * granule + blk * 4096
        (s.liveRanges.all (fun l => !overlap l (a, 4096)) = true → ∀ k, k < 4096 → memByte r.memory (a + k) = 0)))

/-- PERST_N_ASSERT takes the pin low, and a tick counts for how long it has been; PERST_N_DEASSERT of a shorter pulse ends the count. PERST_N_ASSERT once it has been low for 1 µs, an ordered WARM_RESET, MAIN_RAIL_FAULT and AUX_POWER_LOSS reset every block outside the always-on domain; the error log is kept, but for the loss of AUX. PERST_N_DEASSERT samples the straps and starts self-test; MAIN_RAIL_RESTORE and a warm reset start it too, if rails, PERST_N and MODE allow. GLB_RESET orders a warm reset only with its key. SELF_TEST without a fatal failure passes with zeroed memory and the sealed keys restored, taking a failed channel or first stack out of service; with a fatal one it names stage and unit. DEV_READY rises only when every condition holds, so not while the clock coasts. DBG_SCAN_REQ arms scan, zeroising keys, only under the semaphore with no tenancy bound. A TAP instruction is BYPASS unless its condition holds. -/
def Obligations.ResetsSelfTestAndScan : Prop :=
  ∀ (mp : MgmtPort) (straps bankB unit c k low : Nat) (shadow : Bool) (fs : List TestFailure) (v : Reg) (ins : TapIns) (s : State),
    let p := s.power
    let testRuns : Bool → Bool → Bool → Nat → Bool := fun aux main perst st => aux && main && !perst && bits st 7 6 == 0
    (p.perst = false →
      (p.perstFor = none → Does .perstNAssert s [.power] (fun t => t.power = { p with perstFor := some 0 })) ∧
      (p.perstFor = some low → (tick s).power = { p with perstFor := some (low + 1) }) ∧
      (p.perstFor = some low → low < 1000 → Does .perstNAssert s [] (fun _ => True)) ∧
      (p.perstFor = some low → 1000 ≤ low → Does .perstNAssert s resetParts (fun t => blocksReset s t ∧ logKept s t ∧ t.power.perst = true ∧ t.power.scanArmed = false ∧
        t.power.tap = .bypass ∧ t.power.svcHeld = (s.svcCauses != 0))) ∧
      Does (.perstNDeassert straps) s [.power] (fun t => t.power = { p with perstFor := none })) ∧
    (p.perst = true →
      Does .perstNAssert s [] (fun _ => True) ∧
      (p.auxOk = true → Does (.perstNDeassert straps) s [.power, .test] (fun t =>
        t.power = { p with perst := false, straps := straps % 256, thermTrip := false, svcHeld := false } ∧
        t.test = { s.test with running := testRuns true p.mainOk false (straps % 256) }))) ∧
    (setUp s mp →
      (v.toNat % 2 ^ 16 = 0xB007 → Does (.glbReset mp v) s [.power] (fun t => t.power = { p with warmOrdered := true })) ∧
      (v.toNat % 2 ^ 16 ≠ 0xB007 → Does (.glbReset mp v) s [] (fun _ => True))) ∧
    (p.warmOrdered = true → Does .warmReset s resetParts (fun t => blocksReset s t ∧ logKept s t ∧ t.power.warmOrdered = false ∧
      t.test.running = testRuns p.auxOk p.mainOk p.perst p.straps)) ∧
    (p.warmOrdered = false → Does .warmReset s [] (fun _ => True)) ∧
    (p.perst = false → p.mainOk = true → Does .mainRailFault s resetParts (fun t => blocksReset s t ∧ logKept s t ∧ t.power.mainOk = false)) ∧
    (p.perst = true → Does .mainRailFault s [.power] (fun t => t.power = { p with mainOk := false })) ∧
    (p.mainOk = false → Does .mainRailRestore s [.power, .test] (fun t => t.power = { p with mainOk := true } ∧
      t.test.running = testRuns p.auxOk true p.perst p.straps)) ∧
    Does .auxPowerLoss s resetParts (fun t => blocksReset s t ∧ t.errs = .reset ∧ t.clock = .reset ∧ t.power.auxOk = false ∧ t.power.perst = true ∧
      t.power.thermTrip = false ∧ t.owl.scanSeen = false) ∧
    (p.auxOk = false → Does .auxPowerOn s [.clock, .power] (fun t =>
      t.power = { p with auxOk := true, perst := true, linkA := true, linkB := true } ∧
      t.clock = { s.clock with watch := { stable := true, eligible := true, failed := false } })) ∧
    (s.test.running = true → testRuns p.auxOk p.mainOk p.perst p.straps = true → s.clock.coast = false → c < 16 → k < 12 →
      ((s.bootBanks bankB).badImage = none → (fs = [] ∨ fs = [.ddrChannel c] ∨ (fs = [.hbmStack k] ∧ s.health.stack = none)) →
        Does (.selfTest fs bankB shadow) s [.out, .freeCount, .regs, .counters, .memory, .poison, .runs, .badgers, .mem, .settMap, .failedSetts, .health,
            .svcPrev, .test, .owl, .errs] (fun t =>
          t.test.running = false ∧ t.test.done = true ∧ t.test.fail = s.test.fail ∧ t.memory = [] ∧ t.poison = [] ∧
          t.owl.keys = t.owl.sealed.map (·.1) ∧ t.owl.sealed = s.owl.sealed ∧
          (fs = [.ddrChannel c] → t.mem.ddrUp.contains c = false ∧ t.health.ddrOut.contains c = true) ∧
          (fs = [.hbmStack k] → t.health.stack = some (k, s.mem.spare) ∧ t.mem.hbmUp.contains k = false ∧ bit t.svcCauses 1 = true ∨ k = s.mem.spare))) ∧
      Does (.selfTest [.sram unit] bankB shadow) s [.out, .freeCount, .regs, .counters, .memory, .poison, .runs, .badgers, .mem, .settMap, .failedSetts,
          .health, .svcPrev, .test, .owl, .errs] (fun t =>
        t.test.running = false ∧ t.test.fail = true ∧ t.test.stage = 3 ∧ t.test.unit = unit ∧ t.test.done = s.test.done ∧ t.memory = s.memory)) ∧
    (s.test.running = false ∨ s.clock.coast = true → Does (.selfTest fs bankB shadow) s [] (fun _ => True)) ∧
    (s.test.done = true → s.test.fail = false → testRuns p.auxOk p.mainOk p.perst p.straps = true → s.clock.coast = false → p.fatal = false →
      p.scanArmed = false → s.badgers.all (fun e => e.2.disabled || e.2.mapReady) = true →
      Does .devReadyRise s [.power] (fun t => t.power = { p with devReady := true })) ∧
    (s.test.done = false ∨ s.clock.coast = true ∨ p.fatal = true ∨ s.badgers.any (fun e => !e.2.disabled && !e.2.mapReady) = true →
      Does .devReadyRise s [] (fun _ => True)) ∧
    (p.perst = false →
      (v.toNat % 2 ^ 16 = 0x5CA7 → s.holdsSem mp = true → s.tenancies.all (fun e => e.1 == 0 || decide (e.2.state ≤ 1)) = true →
        Does (.dbgScanReq mp v) s [.power, .regs, .ctxs, .rings, .works, .ports, .firstTouch, .groups, .runs, .resident, .leases, .dir, .recalls,
            .waiting, .recalled, .fencing, .denCache, .hbmCache, .atc, .xltWaits, .faults, .owl, .trace] (fun t =>
          t.power = { p with devReady := false, scanArmed := true } ∧ t.owl.keys = [] ∧ t.owl.scanSeen = true ∧
          ∀ i, bearsKey i = true → tget t.regs i = none)) ∧
      (v.toNat % 2 ^ 16 = 0x5CA7 → s.holdsSem mp = true → s.tenancies.any (fun e => e.1 != 0 && decide (2 ≤ e.2.state)) = true →
        Does (.dbgScanReq mp v) s [.out, .regs] (fun t => t.flag scanStatus 0 = true)) ∧
      (v.toNat % 2 ^ 16 = 0x5CA7 → s.holdsSem mp = false →
        Does (.dbgScanReq mp v) s [.out, .regs, .counters] (fun t => t.flag scanStatus 0 = true ∧ t.sem = s.sem ∧ t.power = s.power)) ∧
      (v.toNat % 2 ^ 16 ≠ 0x5CA7 → s.holdsSem mp = true → Does (.dbgScanReq mp v) s [] (fun _ => True))) ∧
    Does (.tapInstruction ins) s [.power] (fun t => t.power = { p with tap := t.power.tap } ∧
      (ins ∈ [TapIns.internalScan, TapIns.intest, TapIns.memBist] → t.power.tap = if p.scanArmed then ins else .bypass) ∧
      (ins ∈ [TapIns.idcode, TapIns.samplePreload, TapIns.extest, TapIns.extestPulse, TapIns.extestTrain] →
        t.power.tap = if p.devReady then .bypass else ins) ∧
      (ins = .other ∨ ins = .bypass → t.power.tap = .bypass))

/-- HBM_RETIRE above the threshold starts a copy to the free spare; SPARE_TAKEOVER, in a later frame, ends it; HBM_STACK_FAIL gives the spare the stack's addresses at once, its lines poison. DDR_CHANNEL_FAIL takes a failed channel out of service, or notes the loss of its margin. HBM_SPARE is written only before capacity is mapped. THERM_WARN, ESCALATE and TRIP throttle to 3 of 4 and 1 of 2 cycles, raise their events, and end service; THERM_CLEAR releases. ERROR_DETECTED logs, and poisons the line, makes the tenancy fatal, or the device. HLT_LB_CMD starts a loopback on an idle interface and is refused on another; LOOPBACK_END gives the verdict. HLT_REPAIR_CLR notes the channels. -/
def Obligations.HealthHeatAndErrors : Prop :=
  ∀ (mp : MgmtPort) (k c maxC source code unit a kind id info compared errors : Nat) (ten : Option Nat) (v : Reg) (l : Loopback) (s : State),
    let m := s.mem
    let hbm : Nat → Prop := fun n => bit n 1 = true
    let err := fun (cls : Nat) (ad : Nat) => Instr.errorDetected cls source code ten unit ad kind id info
    let logged := [Part.out, Part.regs, Part.counters, Part.errs]
    (m.hbmUp.contains k = true → k ≠ m.spare → s.spareFree = true → m.copying = none →
      ((s.stored 0x0200008).toNat % 2 ^ 32 < s.corrected 2 k → Does (.hbmRetire k) s (plus [.mem, .svcPrev] logged) (fun t =>
        t.mem = { m with copying := some k, copyFrame := s.frame } ∧ hbm t.svcCauses)) ∧
      (s.corrected 2 k ≤ (s.stored 0x0200008).toNat % 2 ^ 32 → Does (.hbmRetire k) s [] (fun _ => True)) ∧
      Does (.hbmStackFail k) s (plus [.freeCount, .poison, .hbmCache, .mem, .health, .svcPrev] logged) (fun t =>
        t.mem = { m with replaced := some k, copying := none, hbmUp := m.hbmUp.filter (· != k) } ∧ t.health.stack = some (k, m.spare) ∧
        hbm t.svcCauses ∧ ∀ i, i < stackLines → t.poison.contains ((stackRange (s.logicalStack k)).1 / 64 + i) = true)) ∧
    (m.copying = some k → s.frame ≤ m.copyFrame → Does .spareTakeover s [] (fun _ => True)) ∧
    (m.copying = some k → m.copyFrame < s.frame → Does .spareTakeover s [.out, .regs, .mem, .health, .svcPrev] (fun t =>
      t.mem = { m with replaced := some k, copying := none, hbmUp := m.hbmUp.filter (· != k) } ∧ t.health.stack = some (k, m.spare) ∧
      hbm t.svcCauses)) ∧
    (m.hbmUp.contains k = true → (k = m.spare → m.replaced.isSome = true) → s.spareFree = false →
      Does (.hbmStackFail k) s (plus [.freeCount, .poison, .hbmCache, .mem, .svcPrev] logged) (fun t =>
        t.mem = { m with hbmUp := m.hbmUp.filter (· != k) })) ∧
    (m.hbmUp.contains k = true → k = m.spare → m.replaced = none → Does (.hbmStackFail k) s (plus [.mem, .health] logged) (fun t =>
      t.mem = { m with copying := none, hbmUp := m.hbmUp.filter (· != k) } ∧ t.health.stack = some (k, k))) ∧
    (m.ddrUp.contains c = true →
      Does (.ddrChannelFail c true) s (plus [.freeCount, .poison, .extents, .mem, .health, .svcPrev] logged) (fun t =>
        t.mem = { m with ddrUp := m.ddrUp.filter (· != c), noMargin := m.noMargin.filter (· != c) } ∧
        t.health.ddrOut = s.health.ddrOut ++ [c] ∧ bit t.svcCauses 2 = true) ∧
      (m.noMargin.contains c = false → Does (.ddrChannelFail c false) s (plus [.mem, .svcPrev] logged) (fun t =>
        t.mem = { m with noMargin := m.noMargin ++ [c] } ∧ bit t.svcCauses 2 = true))) ∧
    (setUp s mp →
      (m.mapped = false → m.replaced = none → v.toNat % 16 < 12 → Does (.hbmSpareWrite mp v) s [.mem] (fun t => t.mem = { m with spare := v.toNat % 16 })) ∧
      (m.mapped = true → Does (.hbmSpareWrite mp v) s [] (fun _ => True)) ∧
      Does (.hltRepairClr mp v) s [.health] (fun t => t.health = { s.health with clearDdr := t.health.clearDdr } ∧
        ∀ i, i < 16 → (t.health.clearDdr.contains i = true ↔ s.health.clearDdr.contains i = true ∨ bit v.toNat i = true)) ∧
      (l = { iface := bits v.toNat 3 0, index := bits v.toNat 15 8, depth := bits v.toNat 19 16, log2 := bits v.toNat 31 24 } →
        (l.depth < loopDepths l.iface → l.index < loopCount l.iface → s.idleIface mp l.iface l.index = true → s.loop = none →
          Does (.hltLbCmd mp v) s [.loop, .lbResult] (fun t => t.loop = some l ∧ t.lbResult = 0)) ∧
        (loopDepths l.iface ≤ l.depth ∨ s.idleIface mp l.iface l.index = false →
          Does (.hltLbCmd mp v) s [.out, .regs] (fun t => t.flag 0x0A00060 0 = true)))) ∧
    (s.loop = some l → Does (.loopbackEnd compared errors) s [.loop, .lbResult] (fun t => t.loop = none ∧
      t.lbResult.toNat % 4 = (if l.passes compared errors then 1 else 2) ∧ t.lbResult.toNat / 2 ^ 32 = min errors (2 ^ 32 - 1))) ∧
    (s.warnC ≤ maxC → Does (.thermWarn maxC) s [.out, .power, .regs] (fun t =>
      t.power = { s.power with maxC, thermWarn := true, throttle := max 1 s.power.throttle } ∧
      (s.power.thermWarn = false → t.flag hltTherm 9 = true))) ∧
    (110 ≤ maxC → Does (.thermEscalate maxC) s [.out, .power, .regs] (fun t =>
      t.power = { s.power with maxC, thermWarn := true, throttle := max 2 s.power.throttle } ∧ (s.power.throttle < 2 → t.flag nmiOff 2 = true))) ∧
    (115 ≤ maxC → s.power.thermTrip = false → Does (.thermTrip maxC) s (plus [.power] logged) (fun t =>
      t.power.thermTrip = true ∧ t.power.fatal = true ∧ t.power.devReady = false ∧ t.flag nmiOff 1 = true)) ∧
    (maxC + 5 < s.warnC → Does (.thermClear maxC) s [.power] (fun t => t.power = { s.power with maxC, thermWarn := false, throttle := 0 })) ∧
    (maxC < s.warnC → s.warnC ≤ maxC + 5 → maxC < 105 → Does (.thermClear maxC) s [.power] (fun t =>
      t.power = { s.power with maxC, thermWarn := false, throttle := min 1 s.power.throttle })) ∧
    Does (.errorDetected 0 source code ten unit a kind id info) s logged (fun _ => True) ∧
    (a < 2 * 2 ^ 48 → Does (err 1 (logical a)) s (plus [.poison] logged) (fun t => t.poison.contains (lineOf a) = true)) ∧
    (∀ n, ten = some n → 0 < n → Does (err 2 a) s (plus [.tenancies, .rings, .ringErr] logged) (fun t => t.ten n = { s.ten n with fatal := true } ∧
      t.flag 0x0040010 10 = true ∧ (∀ i, i ≠ n → t.ten i = s.ten i) ∧ ∀ i r, tget s.rings i = some r → r.tenancy = n →
        r.state = .enabled ∨ r.state = .draining → ∃ q, tget t.rings i = some q ∧ q.state = .error ∧ q.cause = 4)) ∧
    Does (err 3 a) s (plus [.power] logged) (fun t => t.power.devReady = false ∧ t.power.fatal = true ∧ t.flag nmiOff 1 = true)

/-- A write of 8 or 4 aligned bytes of a register changes its RW bits only; a 1 clears a W1C bit, unless hardware sets it in that cycle: then it stays, and FLAG_RACE counts. An enable bit that becomes 1 while its flag is 1 raises the event. Staged values, owner maps and slot maps are written in shadow. A read returns the stored and status bits of a register, and zeros where none is; a ring's doorbell page answers reads of its fields, and zeros elsewhere. MGMT_SEM takes a write as MGMT_SEM_WRITE does. A port whose HOLD is written 1 goes down. A write of any other size or alignment is undecoded; at an offset that names no register, or under PERST_N, it changes nothing; a write without the semaphore is a semaphore error. Undefined CMD values fail with CAUSE 5. Window reads and selectors load the entry. ERR_HEAD moves only within HEAD to TAIL. A debug read shows plain HBM, and zeros with DENIED for a tenancy's; of DDR it shows the ciphertext under the key of the tenancy that owns the address. A held command runs as if written once its block is free. -/
def Obligations.RegistersAndWindows : Prop :=
  ∀ (mp : MgmtPort) (offset size off i ctx ring word : Nat) (m v w value hwSet : Reg) (r : RegRow) (s : State),
    let wr := Instr.registerWrite (.mgmt mp) (.register offset) size (some value) hwSet
    let rd := fun (o : Nat) => Instr.registerWrite (.port i) (.page ring o) 4 none 0
    let same : Nat → State → Prop := fun k t => ∀ j, j ≠ k → t.stored j = s.stored j
    let rw := BitVec.ofNat 64 r.rw &&& m
    let a := (s.stored 0x0C00020).toNat % 2 ^ 62 / 64 * 64 + 8 * (word % 8)
    let u := a / 64 * 64
    let keeper := ((s.tenancies.find? (fun e => e.1 != 0 && s.ownsRange e.1 u 64)).map (·.1)).getD 0
    let hold : Prop := 0x0100000 ≤ off ∧ off < 0x0100C00 ∧ off % 0x100 = 0
    let answer := fun (x : Nat) => Output.readData (.mgmt mp) (0x0C00040 + 8 * (word % 8)) (BitVec.ofNat 64 x)
    let gap := fun (n : Nat) => (n + 8192 - s.errs.head) % 8192
    (s.power.auxOk = true →
      let out : Output → State → Prop := fun o t => t.out = s.out ++ [o]
      (readLanes offset size = none → Does (.registerWrite (.mgmt mp) (.register offset) size none 0) s [.out] (out (.undecoded (.mgmt mp)))) ∧
      (∀ h, readLanes offset size = some (off, h) → ¬ (0x0C00040 ≤ off ∧ off < 0x0C00080) →
        Does (.registerWrite (.mgmt mp) (.register offset) size none 0) s [.out] (out (.readData (.mgmt mp) offset (halfOf (s.readReg off) h))) ∧
        (∀ q, regRow off = some q → q.kind = .plain → s.power.perst = false →
          s.readReg off = BitVec.ofNat 64 (((s.stored off).toNat &&& (q.rw ||| q.w1c)) ||| s.status off)) ∧
        (regRow off = none → keptWhole off = false → s.status off = 0 → s.readReg off = 0))) ∧
    (doorbellOpen s i ring → sends s i →
      let q := s.ring ring
      let reads : Nat → Nat → Prop := fun o x => Does (rd o) s [.out] (fun t => t.out = s.out ++ [Output.readData (.port i) o (BitVec.ofNat 64 x)])
      reads 0 q.sqTail ∧ reads 8 q.cqHead ∧ reads 0x10 q.sqHead ∧ reads 0x18 (16 * q.cause + q.state.code) ∧
        (0x1C ≤ offset → reads offset 0 ∧ Does (.registerWrite (.port i) (.page ring offset) 4 (some value) 0) s [] (fun _ => True)) ∧
        (size ≠ 4 → offset < 4 → 0 < size → Does (.registerWrite (.port i) (.page ring offset) size none 0) s [.out] (fun t =>
          t.out = s.out ++ [Output.undecoded (.port i)]))) ∧
    (setUp s mp → s.power.auxOk = true →
      (writeLanes offset size value = none → Does wr s [.out] (fun t => t.out = s.out ++ [Output.undecoded (.mgmt mp)])) ∧
      (writeLanes offset size value = some (off, m, v) → off = semOff →
        (offset % 8 = 0 → exec wr s = exec (.mgmtSemWrite mp v ⟨none, hwSet⟩) s) ∧ (offset % 8 = 4 → Does wr s [] (fun _ => True))) ∧
      (writeLanes offset size value = some (off, m, v) → off ≠ semOff →
        (regRow off = none → off ∉ [0x0040008, 0x0080040, 0x0601080, 0x0809020, 0x0900000] → Does wr s [] (fun _ => True)) ∧
        (regRow off = some r →
          (hold → (v &&& m).getLsbD 0 = true → Does wr s (.regs :: linkParts) (fun t =>
            t.held ((off - 0x0100000) / 0x100) = true ∧ (t.port ((off - 0x0100000) / 0x100)).up = false)) ∧
          (r.kind = .plain → r.w1c = 0 → off ≠ 0x0020000 → ¬ hold → (regRows.find? (fun q => q.covers off)).isSome = true →
            Does wr s [.regs] (fun t => t.stored off = merge (s.stored off) rw v ∧ same off t)) ∧
          (r.kind = .plain → hwSet = 0 → r.w1c ≠ 0 → bit r.w1c i = true → i < 64 →
            Does wr s [.regs] (fun t => t.flag off i = (s.flag off i && !(v &&& m).getLsbD i) ∧ same off t)) ∧
          (r.kind = .plain → hwSet = BitVec.ofNat 64 (2 ^ i) → i < 64 → bit r.w1c i = true → (v &&& m).getLsbD i = true →
            Does wr s [.out, .regs, .counters] (fun t => t.flag off i = true ∧ counted s t (flagRace off) ∧ same off t)) ∧
          ((regRows.find? (fun q => q.covers off)).isNone = true → i < 64 → bit r.rw i = true → s.stored off = 0 → m = BitVec.ofNat 64 full →
            v = BitVec.ofNat 64 (2 ^ i) → Does wr s [.out, .regs] (fun t => t.stored off = v ∧ same off t ∧
              t.out = s.out ++ (if s.flag (off - 8) i then [Output.event (off - 8) i] else []))) ∧
          (r.kind = .staged → Does wr s [.shadow] (fun t => tgetD t.shadow (s.tenSel * 2 ^ 26 + off) 0 =
            merge (tgetD s.shadow (s.tenSel * 2 ^ 26 + off) 0) rw v ∧ ∀ j, j ≠ s.tenSel * 2 ^ 26 + off → tgetD t.shadow j 0 = tgetD s.shadow j 0)) ∧
          (r.kind = .owner → Does wr s [.shadow] (fun t => tgetD t.shadow off 0 = merge (tgetD s.shadow off 0) rw v ∧
            ∀ j, j ≠ off → tgetD t.shadow j 0 = tgetD s.shadow j 0)) ∧
          (r.kind = .bgMap ∨ (r.kind = .slotMap ∧ (off - 0x0050000) / 8 % 16 ≠ 15) → Does wr s [.slots] (fun t =>
            t.slots = { s.slots with shadow := tset s.slots.shadow off (merge (tgetD s.slots.shadow off 0) rw v) })) ∧
          (r.kind = .slotMap → (off - 0x0050000) / 8 % 16 = 15 → Does wr s [] (fun _ => True)) ∧
          (r.kind = .burGroup → Does wr s [.regs] (fun t =>
            let k := groupKey ((s.stored 0x0402000).toNat % 4096) off
            tgetD t.regs k 0 = merge (tgetD s.regs k 0) rw v ∧ same k t)) ∧
          (r.kind = .embGroup → Does wr s [.regs] (fun t =>
            let k := groupKey ((s.stored 0x0403000).toNat % 4096) off
            tgetD t.regs k 0 = merge (tgetD s.regs k 0) rw v ∧ same k t)))) ∧
      (writeLanes offset size value = some (off, m, v) →
        (off = 0x0040008 → 4 ≤ bits v.toNat 19 16 ∨ bits v.toNat 8 0 = 0 → Does wr s [.out, .regs, .cmdTen] (fun t =>
          t.cmdTen.cause = 5 ∧ t.flag 0x0040010 0 = true)) ∧
        (off = 0x0601080 → 5 ≤ bits v.toNat 27 24 → Does wr s [.out, .regs, .cmdExt] (fun t => t.cmdExt.cause = 5 ∧ t.flag 0x0601088 0 = true)) ∧
        (off = 0x0900000 → 3 ≤ bits v.toNat 15 0 → Does wr s [.out, .regs, .owl] (fun t => t.owl.mboxResult = 1 ∧ t.flag 0x0900008 1 = true))) ∧
      Does (.objectWindowSelect mp 0x0400000 w) s [.regs] (fun t => t.stored 0x0400000 = w &&& 0xFFF ∧
        ∀ j, j < 16 → t.stored (0x0400080 + 8 * j) = BitVec.ofNat 64 (fld (burrowHeader (s.burrow (w &&& 0xFFF).toNat)) (8 * j) 8)) ∧
      Does (.objectWindowSelect mp 0x0500000 w) s [.regs] (fun t => t.stored 0x0500000 = w &&& 0xFFFFF ∧
        ∀ x, tget s.tensors (w &&& 0xFFFFF).toNat = some x → ∀ j, j < 8 →
          t.stored (0x0500040 + 8 * j) = BitVec.ofNat 64 (fld (tensorRecord (w &&& 0xFFFFF).toNat x) (8 * j) 8)) ∧
      ((gap (w.toNat % 8192) ≤ gap s.errs.tail → Does (.errHeadWrite mp w) s [.errs] (fun t => t.errs = { s.errs with head := w.toNat % 8192 })) ∧
        (gap s.errs.tail < gap (w.toNat % 8192) → Does (.errHeadWrite mp w) s [] (fun _ => True))) ∧
      (s.cmdTen.busy = false → s.cmdTen.held = some (.tenModify mp ctx) →
        exec (.heldCommandStart .ten) s = exec (.tenModify mp ctx) (s.setBlock .ten { s.cmdTen with held := none }))) ∧
    ((s.block .ctx).busy = false → (s.block .ctx).held = some (.ctxRead mp ctx) → s.power.perst = false →
      Does (.heldCommandStart .ctx) s [.regs, .cmdCtx] (fun t => t.cmdCtx = { s.cmdCtx with held := none } ∧
        ∀ j, j < 32 → t.stored (0x0040800 + 8 * j) = BitVec.ofNat 64 (fld (ctxImage (s.ctx ctx)) (8 * j) 8))) ∧
    ((s.block .ctx).busy = true → Does (.heldCommandStart .ctx) s [] (fun _ => True)) ∧
    (ready s mp .ctx → Does (.ctxRead mp ctx) s [.regs] (fun t =>
      ∀ j, j < 32 → t.stored (0x0040800 + 8 * j) = BitVec.ofNat 64 (fld (ctxImage (s.ctx ctx)) (8 * j) 8))) ∧
    (ready s mp .ring → Does (.ringRead mp ring) s [.regs] (fun t =>
      ∀ j, j < 8 → t.stored (0x0080000 + 8 * j) = BitVec.ofNat 64 (fld (ringImage (s.ring ring)) (8 * j) 8))) ∧
    (s.power.perst = false → s.power.auxOk = true → s.holdsSem mp = false → offset / 8 * 8 ≠ semOff → Does wr s [.out, .regs, .counters] (fun t =>
      counted s t (0x010010 + 8 * (mpId mp - 1)) ∧ t.flag 0x010000 (7 + mpId mp) = true ∧ same 0x010000 t)) ∧
    (s.power.perst = true → Does wr s [] (fun _ => True)) ∧
    ((s.power.perst = true → Does (.debugMemRead mp word) s [.out] (fun t => t.out = s.out ++ [answer 0])) ∧
      (s.power.perst = false → s.flag 0x0C00028 63 = false → (s.stored 0x0C00020).toNat / 2 ^ 62 = 3 →
        (a < 2 ^ 48 → s.keyedAt (a / 64 * 64) = true → Does (.debugMemRead mp word) s [.out, .regs] (fun t => answer 0 ∈ t.out ∧ t.flag 0x0C00008 0 = true)) ∧
        (a < 2 ^ 48 → s.keyedAt (a / 64 * 64) = false → Does (.debugMemRead mp word) s [.out] (fun t =>
          t.out = s.out ++ [answer (leNat (s.read a 8))])) ∧
        (∀ b, 2 ^ 48 ≤ a → a < 2 * 2 ^ 48 → s.ddrPlain u = some b → Does (.debugMemRead mp word) s [.out] (fun t =>
          t.out = s.out ++ [answer (leNat (slice (s.enciphered keeper ddrSpace (logical u) b) (a % 64) 8))]))))
end

