-- ==== Sys2Proof/Laws/State.lean ====
section
/-!
SUPPORT. What each plain update of the state leaves as it was: one rewriting rule for every field but the one it writes, so that no later
proof unfolds an update.
-/

namespace Sys2Proof.Machine

variable (s : State)

@[simp] theorem State.write_frame (a : Nat) (b : Bytes) :
    (s.write a b).pending = s.pending ∧ (s.write a b).out = s.out ∧ (s.write a b).freeCount = s.freeCount ∧ (s.write a b).time = s.time ∧
    (s.write a b).clock = s.clock ∧ (s.write a b).power = s.power ∧ (s.write a b).sem = s.sem ∧ (s.write a b).regs = s.regs ∧
    (s.write a b).counters = s.counters ∧ (s.write a b).shadow = s.shadow ∧ (s.write a b).live = s.live ∧ (s.write a b).slots = s.slots ∧
    (s.write a b).tenancies = s.tenancies ∧ (s.write a b).ctxs = s.ctxs ∧ (s.write a b).rings = s.rings ∧
    (s.write a b).ringErr = s.ringErr ∧ (s.write a b).works = s.works ∧ (s.write a b).nextWork = s.nextWork ∧
    (s.write a b).lastCredit = s.lastCredit ∧ (s.write a b).ports = s.ports ∧ (s.write a b).cmdTen = s.cmdTen ∧
    (s.write a b).cmdCtx = s.cmdCtx ∧ (s.write a b).cmdRing = s.cmdRing ∧ (s.write a b).cmdExt = s.cmdExt ∧ (s.write a b).cmdWl = s.cmdWl ∧
    (s.write a b).poison = s.poison ∧ (s.write a b).fill = s.fill ∧ (s.write a b).firstTouch = s.firstTouch ∧
    (s.write a b).burrows = s.burrows ∧ (s.write a b).rotation = s.rotation ∧ (s.write a b).groups = s.groups ∧
    (s.write a b).images = s.images ∧ (s.write a b).runs = s.runs ∧ (s.write a b).tables = s.tables ∧ (s.write a b).tensors = s.tensors ∧
    (s.write a b).tensorGen = s.tensorGen ∧ (s.write a b).jobs = s.jobs ∧ (s.write a b).trails = s.trails ∧ (s.write a b).holds = s.holds ∧
    (s.write a b).lateFree = s.lateFree ∧ (s.write a b).vcache = s.vcache ∧ (s.write a b).extents = s.extents ∧
    (s.write a b).leases = s.leases ∧ (s.write a b).dir = s.dir ∧ (s.write a b).recalls = s.recalls ∧ (s.write a b).waiting = s.waiting ∧
    (s.write a b).recalled = s.recalled ∧ (s.write a b).fencing = s.fencing ∧ (s.write a b).denCache = s.denCache ∧
    (s.write a b).ddrUnder = s.ddrUnder ∧ (s.write a b).hbmCache = s.hbmCache ∧ (s.write a b).lastDrain = s.lastDrain ∧
    (s.write a b).atc = s.atc ∧ (s.write a b).xltWaits = s.xltWaits ∧ (s.write a b).invalWait = s.invalWait ∧
    (s.write a b).faults = s.faults ∧ (s.write a b).faultNext = s.faultNext ∧ (s.write a b).logNext = s.logNext ∧
    (s.write a b).logGain = s.logGain ∧ (s.write a b).batchWait = s.batchWait ∧ (s.write a b).fabric = s.fabric ∧
    (s.write a b).badgers = s.badgers ∧ (s.write a b).part = s.part ∧ (s.write a b).mem = s.mem ∧ (s.write a b).settMap = s.settMap ∧
    (s.write a b).failedSetts = s.failedSetts ∧ (s.write a b).settWait = s.settWait ∧ (s.write a b).resident = s.resident ∧
    (s.write a b).health = s.health ∧ (s.write a b).svcPrev = s.svcPrev ∧ (s.write a b).test = s.test ∧ (s.write a b).owl = s.owl ∧
    (s.write a b).errs = s.errs ∧ (s.write a b).loop = s.loop ∧ (s.write a b).lbResult = s.lbResult ∧
    (s.write a b).bridgeFails = s.bridgeFails ∧ (s.write a b).trace = s.trace := by
  repeat' apply And.intro
  all_goals rfl

@[simp] theorem State.zero_frame (a n : Nat) :
    (s.zero a n).pending = s.pending ∧ (s.zero a n).out = s.out ∧ (s.zero a n).freeCount = s.freeCount ∧ (s.zero a n).time = s.time ∧
    (s.zero a n).clock = s.clock ∧ (s.zero a n).power = s.power ∧ (s.zero a n).sem = s.sem ∧ (s.zero a n).regs = s.regs ∧
    (s.zero a n).counters = s.counters ∧ (s.zero a n).shadow = s.shadow ∧ (s.zero a n).live = s.live ∧ (s.zero a n).slots = s.slots ∧
    (s.zero a n).tenancies = s.tenancies ∧ (s.zero a n).ctxs = s.ctxs ∧ (s.zero a n).rings = s.rings ∧ (s.zero a n).ringErr = s.ringErr ∧
    (s.zero a n).works = s.works ∧ (s.zero a n).nextWork = s.nextWork ∧ (s.zero a n).lastCredit = s.lastCredit ∧
    (s.zero a n).ports = s.ports ∧ (s.zero a n).cmdTen = s.cmdTen ∧ (s.zero a n).cmdCtx = s.cmdCtx ∧ (s.zero a n).cmdRing = s.cmdRing ∧
    (s.zero a n).cmdExt = s.cmdExt ∧ (s.zero a n).cmdWl = s.cmdWl ∧ (s.zero a n).poison = s.poison ∧ (s.zero a n).fill = s.fill ∧
    (s.zero a n).firstTouch = s.firstTouch ∧ (s.zero a n).burrows = s.burrows ∧ (s.zero a n).rotation = s.rotation ∧
    (s.zero a n).groups = s.groups ∧ (s.zero a n).images = s.images ∧ (s.zero a n).runs = s.runs ∧ (s.zero a n).tables = s.tables ∧
    (s.zero a n).tensors = s.tensors ∧ (s.zero a n).tensorGen = s.tensorGen ∧ (s.zero a n).jobs = s.jobs ∧ (s.zero a n).trails = s.trails ∧
    (s.zero a n).holds = s.holds ∧ (s.zero a n).lateFree = s.lateFree ∧ (s.zero a n).vcache = s.vcache ∧ (s.zero a n).extents = s.extents ∧
    (s.zero a n).leases = s.leases ∧ (s.zero a n).dir = s.dir ∧ (s.zero a n).recalls = s.recalls ∧ (s.zero a n).waiting = s.waiting ∧
    (s.zero a n).recalled = s.recalled ∧ (s.zero a n).fencing = s.fencing ∧ (s.zero a n).denCache = s.denCache ∧
    (s.zero a n).ddrUnder = s.ddrUnder ∧ (s.zero a n).hbmCache = s.hbmCache ∧ (s.zero a n).lastDrain = s.lastDrain ∧
    (s.zero a n).atc = s.atc ∧ (s.zero a n).xltWaits = s.xltWaits ∧ (s.zero a n).invalWait = s.invalWait ∧ (s.zero a n).faults = s.faults ∧
    (s.zero a n).faultNext = s.faultNext ∧ (s.zero a n).logNext = s.logNext ∧ (s.zero a n).logGain = s.logGain ∧
    (s.zero a n).batchWait = s.batchWait ∧ (s.zero a n).fabric = s.fabric ∧ (s.zero a n).badgers = s.badgers ∧ (s.zero a n).part = s.part ∧
    (s.zero a n).mem = s.mem ∧ (s.zero a n).settMap = s.settMap ∧ (s.zero a n).failedSetts = s.failedSetts ∧
    (s.zero a n).settWait = s.settWait ∧ (s.zero a n).resident = s.resident ∧ (s.zero a n).health = s.health ∧
    (s.zero a n).svcPrev = s.svcPrev ∧ (s.zero a n).test = s.test ∧ (s.zero a n).owl = s.owl ∧ (s.zero a n).errs = s.errs ∧
    (s.zero a n).loop = s.loop ∧ (s.zero a n).lbResult = s.lbResult ∧ (s.zero a n).bridgeFails = s.bridgeFails ∧
    (s.zero a n).trace = s.trace := by
  repeat' apply And.intro
  all_goals rfl

@[simp] theorem State.drawn_frame  :
    (s.drawn).pending = s.pending ∧ (s.drawn).out = s.out ∧ (s.drawn).time = s.time ∧ (s.drawn).clock = s.clock ∧
    (s.drawn).power = s.power ∧ (s.drawn).sem = s.sem ∧ (s.drawn).regs = s.regs ∧ (s.drawn).counters = s.counters ∧
    (s.drawn).shadow = s.shadow ∧ (s.drawn).live = s.live ∧ (s.drawn).slots = s.slots ∧ (s.drawn).tenancies = s.tenancies ∧
    (s.drawn).ctxs = s.ctxs ∧ (s.drawn).rings = s.rings ∧ (s.drawn).ringErr = s.ringErr ∧ (s.drawn).works = s.works ∧
    (s.drawn).nextWork = s.nextWork ∧ (s.drawn).lastCredit = s.lastCredit ∧ (s.drawn).ports = s.ports ∧ (s.drawn).cmdTen = s.cmdTen ∧
    (s.drawn).cmdCtx = s.cmdCtx ∧ (s.drawn).cmdRing = s.cmdRing ∧ (s.drawn).cmdExt = s.cmdExt ∧ (s.drawn).cmdWl = s.cmdWl ∧
    (s.drawn).memory = s.memory ∧ (s.drawn).poison = s.poison ∧ (s.drawn).fill = s.fill ∧ (s.drawn).firstTouch = s.firstTouch ∧
    (s.drawn).burrows = s.burrows ∧ (s.drawn).rotation = s.rotation ∧ (s.drawn).groups = s.groups ∧ (s.drawn).images = s.images ∧
    (s.drawn).runs = s.runs ∧ (s.drawn).tables = s.tables ∧ (s.drawn).tensors = s.tensors ∧ (s.drawn).tensorGen = s.tensorGen ∧
    (s.drawn).jobs = s.jobs ∧ (s.drawn).trails = s.trails ∧ (s.drawn).holds = s.holds ∧ (s.drawn).lateFree = s.lateFree ∧
    (s.drawn).vcache = s.vcache ∧ (s.drawn).extents = s.extents ∧ (s.drawn).leases = s.leases ∧ (s.drawn).dir = s.dir ∧
    (s.drawn).recalls = s.recalls ∧ (s.drawn).waiting = s.waiting ∧ (s.drawn).recalled = s.recalled ∧ (s.drawn).fencing = s.fencing ∧
    (s.drawn).denCache = s.denCache ∧ (s.drawn).ddrUnder = s.ddrUnder ∧ (s.drawn).hbmCache = s.hbmCache ∧
    (s.drawn).lastDrain = s.lastDrain ∧ (s.drawn).atc = s.atc ∧ (s.drawn).xltWaits = s.xltWaits ∧ (s.drawn).invalWait = s.invalWait ∧
    (s.drawn).faults = s.faults ∧ (s.drawn).faultNext = s.faultNext ∧ (s.drawn).logNext = s.logNext ∧ (s.drawn).logGain = s.logGain ∧
    (s.drawn).batchWait = s.batchWait ∧ (s.drawn).fabric = s.fabric ∧ (s.drawn).badgers = s.badgers ∧ (s.drawn).part = s.part ∧
    (s.drawn).mem = s.mem ∧ (s.drawn).settMap = s.settMap ∧ (s.drawn).failedSetts = s.failedSetts ∧ (s.drawn).settWait = s.settWait ∧
    (s.drawn).resident = s.resident ∧ (s.drawn).health = s.health ∧ (s.drawn).svcPrev = s.svcPrev ∧ (s.drawn).test = s.test ∧
    (s.drawn).owl = s.owl ∧ (s.drawn).errs = s.errs ∧ (s.drawn).loop = s.loop ∧ (s.drawn).lbResult = s.lbResult ∧
    (s.drawn).bridgeFails = s.bridgeFails ∧ (s.drawn).trace = s.trace := by
  repeat' apply And.intro
  all_goals rfl

@[simp] theorem State.bump_frame (o n : Nat) :
    (s.bump o n).pending = s.pending ∧ (s.bump o n).out = s.out ∧ (s.bump o n).freeCount = s.freeCount ∧ (s.bump o n).time = s.time ∧
    (s.bump o n).clock = s.clock ∧ (s.bump o n).power = s.power ∧ (s.bump o n).sem = s.sem ∧ (s.bump o n).regs = s.regs ∧
    (s.bump o n).shadow = s.shadow ∧ (s.bump o n).live = s.live ∧ (s.bump o n).slots = s.slots ∧ (s.bump o n).tenancies = s.tenancies ∧
    (s.bump o n).ctxs = s.ctxs ∧ (s.bump o n).rings = s.rings ∧ (s.bump o n).ringErr = s.ringErr ∧ (s.bump o n).works = s.works ∧
    (s.bump o n).nextWork = s.nextWork ∧ (s.bump o n).lastCredit = s.lastCredit ∧ (s.bump o n).ports = s.ports ∧
    (s.bump o n).cmdTen = s.cmdTen ∧ (s.bump o n).cmdCtx = s.cmdCtx ∧ (s.bump o n).cmdRing = s.cmdRing ∧ (s.bump o n).cmdExt = s.cmdExt ∧
    (s.bump o n).cmdWl = s.cmdWl ∧ (s.bump o n).memory = s.memory ∧ (s.bump o n).poison = s.poison ∧ (s.bump o n).fill = s.fill ∧
    (s.bump o n).firstTouch = s.firstTouch ∧ (s.bump o n).burrows = s.burrows ∧ (s.bump o n).rotation = s.rotation ∧
    (s.bump o n).groups = s.groups ∧ (s.bump o n).images = s.images ∧ (s.bump o n).runs = s.runs ∧ (s.bump o n).tables = s.tables ∧
    (s.bump o n).tensors = s.tensors ∧ (s.bump o n).tensorGen = s.tensorGen ∧ (s.bump o n).jobs = s.jobs ∧ (s.bump o n).trails = s.trails ∧
    (s.bump o n).holds = s.holds ∧ (s.bump o n).lateFree = s.lateFree ∧ (s.bump o n).vcache = s.vcache ∧ (s.bump o n).extents = s.extents ∧
    (s.bump o n).leases = s.leases ∧ (s.bump o n).dir = s.dir ∧ (s.bump o n).recalls = s.recalls ∧ (s.bump o n).waiting = s.waiting ∧
    (s.bump o n).recalled = s.recalled ∧ (s.bump o n).fencing = s.fencing ∧ (s.bump o n).denCache = s.denCache ∧
    (s.bump o n).ddrUnder = s.ddrUnder ∧ (s.bump o n).hbmCache = s.hbmCache ∧ (s.bump o n).lastDrain = s.lastDrain ∧
    (s.bump o n).atc = s.atc ∧ (s.bump o n).xltWaits = s.xltWaits ∧ (s.bump o n).invalWait = s.invalWait ∧ (s.bump o n).faults = s.faults ∧
    (s.bump o n).faultNext = s.faultNext ∧ (s.bump o n).logNext = s.logNext ∧ (s.bump o n).logGain = s.logGain ∧
    (s.bump o n).batchWait = s.batchWait ∧ (s.bump o n).fabric = s.fabric ∧ (s.bump o n).badgers = s.badgers ∧ (s.bump o n).part = s.part ∧
    (s.bump o n).mem = s.mem ∧ (s.bump o n).settMap = s.settMap ∧ (s.bump o n).failedSetts = s.failedSetts ∧
    (s.bump o n).settWait = s.settWait ∧ (s.bump o n).resident = s.resident ∧ (s.bump o n).health = s.health ∧
    (s.bump o n).svcPrev = s.svcPrev ∧ (s.bump o n).test = s.test ∧ (s.bump o n).owl = s.owl ∧ (s.bump o n).errs = s.errs ∧
    (s.bump o n).loop = s.loop ∧ (s.bump o n).lbResult = s.lbResult ∧ (s.bump o n).bridgeFails = s.bridgeFails ∧
    (s.bump o n).trace = s.trace := by
  repeat' apply And.intro
  all_goals rfl

@[simp] theorem State.setBit_frame (o i : Nat) :
    (s.setBit o i).pending = s.pending ∧ (s.setBit o i).out = s.out ∧ (s.setBit o i).freeCount = s.freeCount ∧
    (s.setBit o i).time = s.time ∧ (s.setBit o i).clock = s.clock ∧ (s.setBit o i).power = s.power ∧ (s.setBit o i).sem = s.sem ∧
    (s.setBit o i).counters = s.counters ∧ (s.setBit o i).shadow = s.shadow ∧ (s.setBit o i).live = s.live ∧
    (s.setBit o i).slots = s.slots ∧ (s.setBit o i).tenancies = s.tenancies ∧ (s.setBit o i).ctxs = s.ctxs ∧
    (s.setBit o i).rings = s.rings ∧ (s.setBit o i).ringErr = s.ringErr ∧ (s.setBit o i).works = s.works ∧
    (s.setBit o i).nextWork = s.nextWork ∧ (s.setBit o i).lastCredit = s.lastCredit ∧ (s.setBit o i).ports = s.ports ∧
    (s.setBit o i).cmdTen = s.cmdTen ∧ (s.setBit o i).cmdCtx = s.cmdCtx ∧ (s.setBit o i).cmdRing = s.cmdRing ∧
    (s.setBit o i).cmdExt = s.cmdExt ∧ (s.setBit o i).cmdWl = s.cmdWl ∧ (s.setBit o i).memory = s.memory ∧
    (s.setBit o i).poison = s.poison ∧ (s.setBit o i).fill = s.fill ∧ (s.setBit o i).firstTouch = s.firstTouch ∧
    (s.setBit o i).burrows = s.burrows ∧ (s.setBit o i).rotation = s.rotation ∧ (s.setBit o i).groups = s.groups ∧
    (s.setBit o i).images = s.images ∧ (s.setBit o i).runs = s.runs ∧ (s.setBit o i).tables = s.tables ∧
    (s.setBit o i).tensors = s.tensors ∧ (s.setBit o i).tensorGen = s.tensorGen ∧ (s.setBit o i).jobs = s.jobs ∧
    (s.setBit o i).trails = s.trails ∧ (s.setBit o i).holds = s.holds ∧ (s.setBit o i).lateFree = s.lateFree ∧
    (s.setBit o i).vcache = s.vcache ∧ (s.setBit o i).extents = s.extents ∧ (s.setBit o i).leases = s.leases ∧ (s.setBit o i).dir = s.dir ∧
    (s.setBit o i).recalls = s.recalls ∧ (s.setBit o i).waiting = s.waiting ∧ (s.setBit o i).recalled = s.recalled ∧
    (s.setBit o i).fencing = s.fencing ∧ (s.setBit o i).denCache = s.denCache ∧ (s.setBit o i).ddrUnder = s.ddrUnder ∧
    (s.setBit o i).hbmCache = s.hbmCache ∧ (s.setBit o i).lastDrain = s.lastDrain ∧ (s.setBit o i).atc = s.atc ∧
    (s.setBit o i).xltWaits = s.xltWaits ∧ (s.setBit o i).invalWait = s.invalWait ∧ (s.setBit o i).faults = s.faults ∧
    (s.setBit o i).faultNext = s.faultNext ∧ (s.setBit o i).logNext = s.logNext ∧ (s.setBit o i).logGain = s.logGain ∧
    (s.setBit o i).batchWait = s.batchWait ∧ (s.setBit o i).fabric = s.fabric ∧ (s.setBit o i).badgers = s.badgers ∧
    (s.setBit o i).part = s.part ∧ (s.setBit o i).mem = s.mem ∧ (s.setBit o i).settMap = s.settMap ∧
    (s.setBit o i).failedSetts = s.failedSetts ∧ (s.setBit o i).settWait = s.settWait ∧ (s.setBit o i).resident = s.resident ∧
    (s.setBit o i).health = s.health ∧ (s.setBit o i).svcPrev = s.svcPrev ∧ (s.setBit o i).test = s.test ∧ (s.setBit o i).owl = s.owl ∧
    (s.setBit o i).errs = s.errs ∧ (s.setBit o i).loop = s.loop ∧ (s.setBit o i).lbResult = s.lbResult ∧
    (s.setBit o i).bridgeFails = s.bridgeFails ∧ (s.setBit o i).trace = s.trace := by
  repeat' apply And.intro
  all_goals rfl

@[simp] theorem State.setWork_frame (x : Work) :
    (s.setWork x).pending = s.pending ∧ (s.setWork x).out = s.out ∧ (s.setWork x).freeCount = s.freeCount ∧ (s.setWork x).time = s.time ∧
    (s.setWork x).clock = s.clock ∧ (s.setWork x).power = s.power ∧ (s.setWork x).sem = s.sem ∧ (s.setWork x).regs = s.regs ∧
    (s.setWork x).counters = s.counters ∧ (s.setWork x).shadow = s.shadow ∧ (s.setWork x).live = s.live ∧ (s.setWork x).slots = s.slots ∧
    (s.setWork x).tenancies = s.tenancies ∧ (s.setWork x).ctxs = s.ctxs ∧ (s.setWork x).rings = s.rings ∧
    (s.setWork x).ringErr = s.ringErr ∧ (s.setWork x).nextWork = s.nextWork ∧ (s.setWork x).lastCredit = s.lastCredit ∧
    (s.setWork x).ports = s.ports ∧ (s.setWork x).cmdTen = s.cmdTen ∧ (s.setWork x).cmdCtx = s.cmdCtx ∧ (s.setWork x).cmdRing = s.cmdRing ∧
    (s.setWork x).cmdExt = s.cmdExt ∧ (s.setWork x).cmdWl = s.cmdWl ∧ (s.setWork x).memory = s.memory ∧ (s.setWork x).poison = s.poison ∧
    (s.setWork x).fill = s.fill ∧ (s.setWork x).firstTouch = s.firstTouch ∧ (s.setWork x).burrows = s.burrows ∧
    (s.setWork x).rotation = s.rotation ∧ (s.setWork x).groups = s.groups ∧ (s.setWork x).images = s.images ∧ (s.setWork x).runs = s.runs ∧
    (s.setWork x).tables = s.tables ∧ (s.setWork x).tensors = s.tensors ∧ (s.setWork x).tensorGen = s.tensorGen ∧
    (s.setWork x).jobs = s.jobs ∧ (s.setWork x).trails = s.trails ∧ (s.setWork x).holds = s.holds ∧ (s.setWork x).lateFree = s.lateFree ∧
    (s.setWork x).vcache = s.vcache ∧ (s.setWork x).extents = s.extents ∧ (s.setWork x).leases = s.leases ∧ (s.setWork x).dir = s.dir ∧
    (s.setWork x).recalls = s.recalls ∧ (s.setWork x).waiting = s.waiting ∧ (s.setWork x).recalled = s.recalled ∧
    (s.setWork x).fencing = s.fencing ∧ (s.setWork x).denCache = s.denCache ∧ (s.setWork x).ddrUnder = s.ddrUnder ∧
    (s.setWork x).hbmCache = s.hbmCache ∧ (s.setWork x).lastDrain = s.lastDrain ∧ (s.setWork x).atc = s.atc ∧
    (s.setWork x).xltWaits = s.xltWaits ∧ (s.setWork x).invalWait = s.invalWait ∧ (s.setWork x).faults = s.faults ∧
    (s.setWork x).faultNext = s.faultNext ∧ (s.setWork x).logNext = s.logNext ∧ (s.setWork x).logGain = s.logGain ∧
    (s.setWork x).batchWait = s.batchWait ∧ (s.setWork x).fabric = s.fabric ∧ (s.setWork x).badgers = s.badgers ∧
    (s.setWork x).part = s.part ∧ (s.setWork x).mem = s.mem ∧ (s.setWork x).settMap = s.settMap ∧
    (s.setWork x).failedSetts = s.failedSetts ∧ (s.setWork x).settWait = s.settWait ∧ (s.setWork x).resident = s.resident ∧
    (s.setWork x).health = s.health ∧ (s.setWork x).svcPrev = s.svcPrev ∧ (s.setWork x).test = s.test ∧ (s.setWork x).owl = s.owl ∧
    (s.setWork x).errs = s.errs ∧ (s.setWork x).loop = s.loop ∧ (s.setWork x).lbResult = s.lbResult ∧
    (s.setWork x).bridgeFails = s.bridgeFails ∧ (s.setWork x).trace = s.trace := by
  repeat' apply And.intro
  all_goals rfl

@[simp] theorem State.finish_frame (w : Nat) (r : Result) :
    (s.finish w r).pending = s.pending ∧ (s.finish w r).out = s.out ∧ (s.finish w r).freeCount = s.freeCount ∧
    (s.finish w r).time = s.time ∧ (s.finish w r).clock = s.clock ∧ (s.finish w r).power = s.power ∧ (s.finish w r).sem = s.sem ∧
    (s.finish w r).regs = s.regs ∧ (s.finish w r).counters = s.counters ∧ (s.finish w r).shadow = s.shadow ∧ (s.finish w r).live = s.live ∧
    (s.finish w r).tenancies = s.tenancies ∧ (s.finish w r).ctxs = s.ctxs ∧ (s.finish w r).rings = s.rings ∧
    (s.finish w r).ringErr = s.ringErr ∧ (s.finish w r).nextWork = s.nextWork ∧ (s.finish w r).lastCredit = s.lastCredit ∧
    (s.finish w r).ports = s.ports ∧ (s.finish w r).cmdTen = s.cmdTen ∧ (s.finish w r).cmdCtx = s.cmdCtx ∧
    (s.finish w r).cmdRing = s.cmdRing ∧ (s.finish w r).cmdExt = s.cmdExt ∧ (s.finish w r).cmdWl = s.cmdWl ∧
    (s.finish w r).memory = s.memory ∧ (s.finish w r).poison = s.poison ∧ (s.finish w r).fill = s.fill ∧
    (s.finish w r).firstTouch = s.firstTouch ∧ (s.finish w r).burrows = s.burrows ∧ (s.finish w r).rotation = s.rotation ∧
    (s.finish w r).groups = s.groups ∧ (s.finish w r).images = s.images ∧ (s.finish w r).runs = s.runs ∧ (s.finish w r).tables = s.tables ∧
    (s.finish w r).tensors = s.tensors ∧ (s.finish w r).tensorGen = s.tensorGen ∧ (s.finish w r).jobs = s.jobs ∧
    (s.finish w r).trails = s.trails ∧ (s.finish w r).holds = s.holds ∧ (s.finish w r).lateFree = s.lateFree ∧
    (s.finish w r).vcache = s.vcache ∧ (s.finish w r).extents = s.extents ∧ (s.finish w r).leases = s.leases ∧ (s.finish w r).dir = s.dir ∧
    (s.finish w r).recalls = s.recalls ∧ (s.finish w r).waiting = s.waiting ∧ (s.finish w r).recalled = s.recalled ∧
    (s.finish w r).fencing = s.fencing ∧ (s.finish w r).denCache = s.denCache ∧ (s.finish w r).ddrUnder = s.ddrUnder ∧
    (s.finish w r).hbmCache = s.hbmCache ∧ (s.finish w r).lastDrain = s.lastDrain ∧ (s.finish w r).atc = s.atc ∧
    (s.finish w r).xltWaits = s.xltWaits ∧ (s.finish w r).invalWait = s.invalWait ∧ (s.finish w r).faults = s.faults ∧
    (s.finish w r).faultNext = s.faultNext ∧ (s.finish w r).logNext = s.logNext ∧ (s.finish w r).logGain = s.logGain ∧
    (s.finish w r).batchWait = s.batchWait ∧ (s.finish w r).fabric = s.fabric ∧ (s.finish w r).badgers = s.badgers ∧
    (s.finish w r).part = s.part ∧ (s.finish w r).mem = s.mem ∧ (s.finish w r).settMap = s.settMap ∧
    (s.finish w r).failedSetts = s.failedSetts ∧ (s.finish w r).settWait = s.settWait ∧ (s.finish w r).resident = s.resident ∧
    (s.finish w r).health = s.health ∧ (s.finish w r).svcPrev = s.svcPrev ∧ (s.finish w r).test = s.test ∧ (s.finish w r).owl = s.owl ∧
    (s.finish w r).errs = s.errs ∧ (s.finish w r).loop = s.loop ∧ (s.finish w r).lbResult = s.lbResult ∧
    (s.finish w r).bridgeFails = s.bridgeFails ∧ (s.finish w r).trace = s.trace ∧ (s.finish w r).slots.shadow = s.slots.shadow ∧
    (s.finish w r).slots.live = s.slots.live ∧ (s.finish w r).slots.pending = s.slots.pending ∧
    (s.finish w r).slots.lastFrame = s.slots.lastFrame ∧ (s.finish w r).slots.lent = s.slots.lent ∧
    (s.finish w r).slots.lastBorrower = s.slots.lastBorrower ∧ (s.finish w r).slots.lastServed = s.slots.lastServed := by
  repeat' apply And.intro
  all_goals rfl

@[simp] theorem State.setPort_frame (p : Nat) (x : Port) :
    (s.setPort p x).pending = s.pending ∧ (s.setPort p x).out = s.out ∧ (s.setPort p x).freeCount = s.freeCount ∧
    (s.setPort p x).time = s.time ∧ (s.setPort p x).clock = s.clock ∧ (s.setPort p x).power = s.power ∧ (s.setPort p x).sem = s.sem ∧
    (s.setPort p x).regs = s.regs ∧ (s.setPort p x).counters = s.counters ∧ (s.setPort p x).shadow = s.shadow ∧
    (s.setPort p x).live = s.live ∧ (s.setPort p x).slots = s.slots ∧ (s.setPort p x).tenancies = s.tenancies ∧
    (s.setPort p x).ctxs = s.ctxs ∧ (s.setPort p x).rings = s.rings ∧ (s.setPort p x).ringErr = s.ringErr ∧
    (s.setPort p x).works = s.works ∧ (s.setPort p x).nextWork = s.nextWork ∧ (s.setPort p x).lastCredit = s.lastCredit ∧
    (s.setPort p x).cmdTen = s.cmdTen ∧ (s.setPort p x).cmdCtx = s.cmdCtx ∧ (s.setPort p x).cmdRing = s.cmdRing ∧
    (s.setPort p x).cmdExt = s.cmdExt ∧ (s.setPort p x).cmdWl = s.cmdWl ∧ (s.setPort p x).memory = s.memory ∧
    (s.setPort p x).poison = s.poison ∧ (s.setPort p x).fill = s.fill ∧ (s.setPort p x).firstTouch = s.firstTouch ∧
    (s.setPort p x).burrows = s.burrows ∧ (s.setPort p x).rotation = s.rotation ∧ (s.setPort p x).groups = s.groups ∧
    (s.setPort p x).images = s.images ∧ (s.setPort p x).runs = s.runs ∧ (s.setPort p x).tables = s.tables ∧
    (s.setPort p x).tensors = s.tensors ∧ (s.setPort p x).tensorGen = s.tensorGen ∧ (s.setPort p x).jobs = s.jobs ∧
    (s.setPort p x).trails = s.trails ∧ (s.setPort p x).holds = s.holds ∧ (s.setPort p x).lateFree = s.lateFree ∧
    (s.setPort p x).vcache = s.vcache ∧ (s.setPort p x).extents = s.extents ∧ (s.setPort p x).leases = s.leases ∧
    (s.setPort p x).dir = s.dir ∧ (s.setPort p x).recalls = s.recalls ∧ (s.setPort p x).waiting = s.waiting ∧
    (s.setPort p x).recalled = s.recalled ∧ (s.setPort p x).fencing = s.fencing ∧ (s.setPort p x).denCache = s.denCache ∧
    (s.setPort p x).ddrUnder = s.ddrUnder ∧ (s.setPort p x).hbmCache = s.hbmCache ∧ (s.setPort p x).lastDrain = s.lastDrain ∧
    (s.setPort p x).atc = s.atc ∧ (s.setPort p x).xltWaits = s.xltWaits ∧ (s.setPort p x).invalWait = s.invalWait ∧
    (s.setPort p x).faults = s.faults ∧ (s.setPort p x).faultNext = s.faultNext ∧ (s.setPort p x).logNext = s.logNext ∧
    (s.setPort p x).logGain = s.logGain ∧ (s.setPort p x).batchWait = s.batchWait ∧ (s.setPort p x).fabric = s.fabric ∧
    (s.setPort p x).badgers = s.badgers ∧ (s.setPort p x).part = s.part ∧ (s.setPort p x).mem = s.mem ∧
    (s.setPort p x).settMap = s.settMap ∧ (s.setPort p x).failedSetts = s.failedSetts ∧ (s.setPort p x).settWait = s.settWait ∧
    (s.setPort p x).resident = s.resident ∧ (s.setPort p x).health = s.health ∧ (s.setPort p x).svcPrev = s.svcPrev ∧
    (s.setPort p x).test = s.test ∧ (s.setPort p x).owl = s.owl ∧ (s.setPort p x).errs = s.errs ∧ (s.setPort p x).loop = s.loop ∧
    (s.setPort p x).lbResult = s.lbResult ∧ (s.setPort p x).bridgeFails = s.bridgeFails ∧ (s.setPort p x).trace = s.trace := by
  repeat' apply And.intro
  all_goals rfl

@[simp] theorem State.setRing_frame (r : Nat) (x : Ring) :
    (s.setRing r x).pending = s.pending ∧ (s.setRing r x).out = s.out ∧ (s.setRing r x).freeCount = s.freeCount ∧
    (s.setRing r x).time = s.time ∧ (s.setRing r x).clock = s.clock ∧ (s.setRing r x).power = s.power ∧ (s.setRing r x).sem = s.sem ∧
    (s.setRing r x).regs = s.regs ∧ (s.setRing r x).counters = s.counters ∧ (s.setRing r x).shadow = s.shadow ∧
    (s.setRing r x).live = s.live ∧ (s.setRing r x).slots = s.slots ∧ (s.setRing r x).tenancies = s.tenancies ∧
    (s.setRing r x).ctxs = s.ctxs ∧ (s.setRing r x).ringErr = s.ringErr ∧ (s.setRing r x).works = s.works ∧
    (s.setRing r x).nextWork = s.nextWork ∧ (s.setRing r x).lastCredit = s.lastCredit ∧ (s.setRing r x).ports = s.ports ∧
    (s.setRing r x).cmdTen = s.cmdTen ∧ (s.setRing r x).cmdCtx = s.cmdCtx ∧ (s.setRing r x).cmdRing = s.cmdRing ∧
    (s.setRing r x).cmdExt = s.cmdExt ∧ (s.setRing r x).cmdWl = s.cmdWl ∧ (s.setRing r x).memory = s.memory ∧
    (s.setRing r x).poison = s.poison ∧ (s.setRing r x).fill = s.fill ∧ (s.setRing r x).firstTouch = s.firstTouch ∧
    (s.setRing r x).burrows = s.burrows ∧ (s.setRing r x).rotation = s.rotation ∧ (s.setRing r x).groups = s.groups ∧
    (s.setRing r x).images = s.images ∧ (s.setRing r x).runs = s.runs ∧ (s.setRing r x).tables = s.tables ∧
    (s.setRing r x).tensors = s.tensors ∧ (s.setRing r x).tensorGen = s.tensorGen ∧ (s.setRing r x).jobs = s.jobs ∧
    (s.setRing r x).trails = s.trails ∧ (s.setRing r x).holds = s.holds ∧ (s.setRing r x).lateFree = s.lateFree ∧
    (s.setRing r x).vcache = s.vcache ∧ (s.setRing r x).extents = s.extents ∧ (s.setRing r x).leases = s.leases ∧
    (s.setRing r x).dir = s.dir ∧ (s.setRing r x).recalls = s.recalls ∧ (s.setRing r x).waiting = s.waiting ∧
    (s.setRing r x).recalled = s.recalled ∧ (s.setRing r x).fencing = s.fencing ∧ (s.setRing r x).denCache = s.denCache ∧
    (s.setRing r x).ddrUnder = s.ddrUnder ∧ (s.setRing r x).hbmCache = s.hbmCache ∧ (s.setRing r x).lastDrain = s.lastDrain ∧
    (s.setRing r x).atc = s.atc ∧ (s.setRing r x).xltWaits = s.xltWaits ∧ (s.setRing r x).invalWait = s.invalWait ∧
    (s.setRing r x).faults = s.faults ∧ (s.setRing r x).faultNext = s.faultNext ∧ (s.setRing r x).logNext = s.logNext ∧
    (s.setRing r x).logGain = s.logGain ∧ (s.setRing r x).batchWait = s.batchWait ∧ (s.setRing r x).fabric = s.fabric ∧
    (s.setRing r x).badgers = s.badgers ∧ (s.setRing r x).part = s.part ∧ (s.setRing r x).mem = s.mem ∧
    (s.setRing r x).settMap = s.settMap ∧ (s.setRing r x).failedSetts = s.failedSetts ∧ (s.setRing r x).settWait = s.settWait ∧
    (s.setRing r x).resident = s.resident ∧ (s.setRing r x).health = s.health ∧ (s.setRing r x).svcPrev = s.svcPrev ∧
    (s.setRing r x).test = s.test ∧ (s.setRing r x).owl = s.owl ∧ (s.setRing r x).errs = s.errs ∧ (s.setRing r x).loop = s.loop ∧
    (s.setRing r x).lbResult = s.lbResult ∧ (s.setRing r x).bridgeFails = s.bridgeFails ∧ (s.setRing r x).trace = s.trace := by
  repeat' apply And.intro
  all_goals rfl

@[simp] theorem State.setCtx_frame (c : Nat) (x : Ctx) :
    (s.setCtx c x).pending = s.pending ∧ (s.setCtx c x).out = s.out ∧ (s.setCtx c x).freeCount = s.freeCount ∧
    (s.setCtx c x).time = s.time ∧ (s.setCtx c x).clock = s.clock ∧ (s.setCtx c x).power = s.power ∧ (s.setCtx c x).sem = s.sem ∧
    (s.setCtx c x).regs = s.regs ∧ (s.setCtx c x).counters = s.counters ∧ (s.setCtx c x).shadow = s.shadow ∧ (s.setCtx c x).live = s.live ∧
    (s.setCtx c x).slots = s.slots ∧ (s.setCtx c x).tenancies = s.tenancies ∧ (s.setCtx c x).rings = s.rings ∧
    (s.setCtx c x).ringErr = s.ringErr ∧ (s.setCtx c x).works = s.works ∧ (s.setCtx c x).nextWork = s.nextWork ∧
    (s.setCtx c x).lastCredit = s.lastCredit ∧ (s.setCtx c x).ports = s.ports ∧ (s.setCtx c x).cmdTen = s.cmdTen ∧
    (s.setCtx c x).cmdCtx = s.cmdCtx ∧ (s.setCtx c x).cmdRing = s.cmdRing ∧ (s.setCtx c x).cmdExt = s.cmdExt ∧
    (s.setCtx c x).cmdWl = s.cmdWl ∧ (s.setCtx c x).memory = s.memory ∧ (s.setCtx c x).poison = s.poison ∧ (s.setCtx c x).fill = s.fill ∧
    (s.setCtx c x).firstTouch = s.firstTouch ∧ (s.setCtx c x).burrows = s.burrows ∧ (s.setCtx c x).rotation = s.rotation ∧
    (s.setCtx c x).groups = s.groups ∧ (s.setCtx c x).images = s.images ∧ (s.setCtx c x).runs = s.runs ∧ (s.setCtx c x).tables = s.tables ∧
    (s.setCtx c x).tensors = s.tensors ∧ (s.setCtx c x).tensorGen = s.tensorGen ∧ (s.setCtx c x).jobs = s.jobs ∧
    (s.setCtx c x).trails = s.trails ∧ (s.setCtx c x).holds = s.holds ∧ (s.setCtx c x).lateFree = s.lateFree ∧
    (s.setCtx c x).vcache = s.vcache ∧ (s.setCtx c x).extents = s.extents ∧ (s.setCtx c x).leases = s.leases ∧ (s.setCtx c x).dir = s.dir ∧
    (s.setCtx c x).recalls = s.recalls ∧ (s.setCtx c x).waiting = s.waiting ∧ (s.setCtx c x).recalled = s.recalled ∧
    (s.setCtx c x).fencing = s.fencing ∧ (s.setCtx c x).denCache = s.denCache ∧ (s.setCtx c x).ddrUnder = s.ddrUnder ∧
    (s.setCtx c x).hbmCache = s.hbmCache ∧ (s.setCtx c x).lastDrain = s.lastDrain ∧ (s.setCtx c x).atc = s.atc ∧
    (s.setCtx c x).xltWaits = s.xltWaits ∧ (s.setCtx c x).invalWait = s.invalWait ∧ (s.setCtx c x).faults = s.faults ∧
    (s.setCtx c x).faultNext = s.faultNext ∧ (s.setCtx c x).logNext = s.logNext ∧ (s.setCtx c x).logGain = s.logGain ∧
    (s.setCtx c x).batchWait = s.batchWait ∧ (s.setCtx c x).fabric = s.fabric ∧ (s.setCtx c x).badgers = s.badgers ∧
    (s.setCtx c x).part = s.part ∧ (s.setCtx c x).mem = s.mem ∧ (s.setCtx c x).settMap = s.settMap ∧
    (s.setCtx c x).failedSetts = s.failedSetts ∧ (s.setCtx c x).settWait = s.settWait ∧ (s.setCtx c x).resident = s.resident ∧
    (s.setCtx c x).health = s.health ∧ (s.setCtx c x).svcPrev = s.svcPrev ∧ (s.setCtx c x).test = s.test ∧ (s.setCtx c x).owl = s.owl ∧
    (s.setCtx c x).errs = s.errs ∧ (s.setCtx c x).loop = s.loop ∧ (s.setCtx c x).lbResult = s.lbResult ∧
    (s.setCtx c x).bridgeFails = s.bridgeFails ∧ (s.setCtx c x).trace = s.trace := by
  repeat' apply And.intro
  all_goals rfl

@[simp] theorem State.setFault_frame (f : FaultRec) :
    (s.setFault f).pending = s.pending ∧ (s.setFault f).out = s.out ∧ (s.setFault f).freeCount = s.freeCount ∧
    (s.setFault f).time = s.time ∧ (s.setFault f).clock = s.clock ∧ (s.setFault f).power = s.power ∧ (s.setFault f).sem = s.sem ∧
    (s.setFault f).regs = s.regs ∧ (s.setFault f).counters = s.counters ∧ (s.setFault f).shadow = s.shadow ∧ (s.setFault f).live = s.live ∧
    (s.setFault f).slots = s.slots ∧ (s.setFault f).tenancies = s.tenancies ∧ (s.setFault f).ctxs = s.ctxs ∧
    (s.setFault f).rings = s.rings ∧ (s.setFault f).ringErr = s.ringErr ∧ (s.setFault f).works = s.works ∧
    (s.setFault f).nextWork = s.nextWork ∧ (s.setFault f).lastCredit = s.lastCredit ∧ (s.setFault f).ports = s.ports ∧
    (s.setFault f).cmdTen = s.cmdTen ∧ (s.setFault f).cmdCtx = s.cmdCtx ∧ (s.setFault f).cmdRing = s.cmdRing ∧
    (s.setFault f).cmdExt = s.cmdExt ∧ (s.setFault f).cmdWl = s.cmdWl ∧ (s.setFault f).memory = s.memory ∧
    (s.setFault f).poison = s.poison ∧ (s.setFault f).fill = s.fill ∧ (s.setFault f).firstTouch = s.firstTouch ∧
    (s.setFault f).burrows = s.burrows ∧ (s.setFault f).rotation = s.rotation ∧ (s.setFault f).groups = s.groups ∧
    (s.setFault f).images = s.images ∧ (s.setFault f).runs = s.runs ∧ (s.setFault f).tables = s.tables ∧
    (s.setFault f).tensors = s.tensors ∧ (s.setFault f).tensorGen = s.tensorGen ∧ (s.setFault f).jobs = s.jobs ∧
    (s.setFault f).trails = s.trails ∧ (s.setFault f).holds = s.holds ∧ (s.setFault f).lateFree = s.lateFree ∧
    (s.setFault f).vcache = s.vcache ∧ (s.setFault f).extents = s.extents ∧ (s.setFault f).leases = s.leases ∧ (s.setFault f).dir = s.dir ∧
    (s.setFault f).recalls = s.recalls ∧ (s.setFault f).waiting = s.waiting ∧ (s.setFault f).recalled = s.recalled ∧
    (s.setFault f).fencing = s.fencing ∧ (s.setFault f).denCache = s.denCache ∧ (s.setFault f).ddrUnder = s.ddrUnder ∧
    (s.setFault f).hbmCache = s.hbmCache ∧ (s.setFault f).lastDrain = s.lastDrain ∧ (s.setFault f).atc = s.atc ∧
    (s.setFault f).xltWaits = s.xltWaits ∧ (s.setFault f).invalWait = s.invalWait ∧ (s.setFault f).faultNext = s.faultNext ∧
    (s.setFault f).logNext = s.logNext ∧ (s.setFault f).logGain = s.logGain ∧ (s.setFault f).batchWait = s.batchWait ∧
    (s.setFault f).fabric = s.fabric ∧ (s.setFault f).badgers = s.badgers ∧ (s.setFault f).part = s.part ∧ (s.setFault f).mem = s.mem ∧
    (s.setFault f).settMap = s.settMap ∧ (s.setFault f).failedSetts = s.failedSetts ∧ (s.setFault f).settWait = s.settWait ∧
    (s.setFault f).resident = s.resident ∧ (s.setFault f).health = s.health ∧ (s.setFault f).svcPrev = s.svcPrev ∧
    (s.setFault f).test = s.test ∧ (s.setFault f).owl = s.owl ∧ (s.setFault f).errs = s.errs ∧ (s.setFault f).loop = s.loop ∧
    (s.setFault f).lbResult = s.lbResult ∧ (s.setFault f).bridgeFails = s.bridgeFails ∧ (s.setFault f).trace = s.trace := by
  repeat' apply And.intro
  all_goals rfl

@[simp] theorem State.setBurrow_frame (i : Nat) (b : Burrow) :
    (s.setBurrow i b).pending = s.pending ∧ (s.setBurrow i b).out = s.out ∧ (s.setBurrow i b).freeCount = s.freeCount ∧
    (s.setBurrow i b).time = s.time ∧ (s.setBurrow i b).clock = s.clock ∧ (s.setBurrow i b).power = s.power ∧
    (s.setBurrow i b).sem = s.sem ∧ (s.setBurrow i b).regs = s.regs ∧ (s.setBurrow i b).counters = s.counters ∧
    (s.setBurrow i b).shadow = s.shadow ∧ (s.setBurrow i b).live = s.live ∧ (s.setBurrow i b).slots = s.slots ∧
    (s.setBurrow i b).tenancies = s.tenancies ∧ (s.setBurrow i b).ctxs = s.ctxs ∧ (s.setBurrow i b).rings = s.rings ∧
    (s.setBurrow i b).ringErr = s.ringErr ∧ (s.setBurrow i b).works = s.works ∧ (s.setBurrow i b).nextWork = s.nextWork ∧
    (s.setBurrow i b).lastCredit = s.lastCredit ∧ (s.setBurrow i b).ports = s.ports ∧ (s.setBurrow i b).cmdTen = s.cmdTen ∧
    (s.setBurrow i b).cmdCtx = s.cmdCtx ∧ (s.setBurrow i b).cmdRing = s.cmdRing ∧ (s.setBurrow i b).cmdExt = s.cmdExt ∧
    (s.setBurrow i b).cmdWl = s.cmdWl ∧ (s.setBurrow i b).memory = s.memory ∧ (s.setBurrow i b).poison = s.poison ∧
    (s.setBurrow i b).fill = s.fill ∧ (s.setBurrow i b).firstTouch = s.firstTouch ∧ (s.setBurrow i b).rotation = s.rotation ∧
    (s.setBurrow i b).groups = s.groups ∧ (s.setBurrow i b).images = s.images ∧ (s.setBurrow i b).runs = s.runs ∧
    (s.setBurrow i b).tables = s.tables ∧ (s.setBurrow i b).tensors = s.tensors ∧ (s.setBurrow i b).tensorGen = s.tensorGen ∧
    (s.setBurrow i b).jobs = s.jobs ∧ (s.setBurrow i b).trails = s.trails ∧ (s.setBurrow i b).holds = s.holds ∧
    (s.setBurrow i b).lateFree = s.lateFree ∧ (s.setBurrow i b).vcache = s.vcache ∧ (s.setBurrow i b).extents = s.extents ∧
    (s.setBurrow i b).leases = s.leases ∧ (s.setBurrow i b).dir = s.dir ∧ (s.setBurrow i b).recalls = s.recalls ∧
    (s.setBurrow i b).waiting = s.waiting ∧ (s.setBurrow i b).recalled = s.recalled ∧ (s.setBurrow i b).fencing = s.fencing ∧
    (s.setBurrow i b).denCache = s.denCache ∧ (s.setBurrow i b).ddrUnder = s.ddrUnder ∧ (s.setBurrow i b).hbmCache = s.hbmCache ∧
    (s.setBurrow i b).lastDrain = s.lastDrain ∧ (s.setBurrow i b).atc = s.atc ∧ (s.setBurrow i b).xltWaits = s.xltWaits ∧
    (s.setBurrow i b).invalWait = s.invalWait ∧ (s.setBurrow i b).faults = s.faults ∧ (s.setBurrow i b).faultNext = s.faultNext ∧
    (s.setBurrow i b).logNext = s.logNext ∧ (s.setBurrow i b).logGain = s.logGain ∧ (s.setBurrow i b).batchWait = s.batchWait ∧
    (s.setBurrow i b).fabric = s.fabric ∧ (s.setBurrow i b).badgers = s.badgers ∧ (s.setBurrow i b).part = s.part ∧
    (s.setBurrow i b).mem = s.mem ∧ (s.setBurrow i b).settMap = s.settMap ∧ (s.setBurrow i b).failedSetts = s.failedSetts ∧
    (s.setBurrow i b).settWait = s.settWait ∧ (s.setBurrow i b).resident = s.resident ∧ (s.setBurrow i b).health = s.health ∧
    (s.setBurrow i b).svcPrev = s.svcPrev ∧ (s.setBurrow i b).test = s.test ∧ (s.setBurrow i b).owl = s.owl ∧
    (s.setBurrow i b).errs = s.errs ∧ (s.setBurrow i b).loop = s.loop ∧ (s.setBurrow i b).lbResult = s.lbResult ∧
    (s.setBurrow i b).bridgeFails = s.bridgeFails ∧ (s.setBurrow i b).trace = s.trace := by
  repeat' apply And.intro
  all_goals rfl

@[simp] theorem State.setRun_frame (r : Run) :
    (s.setRun r).pending = s.pending ∧ (s.setRun r).out = s.out ∧ (s.setRun r).freeCount = s.freeCount ∧ (s.setRun r).time = s.time ∧
    (s.setRun r).clock = s.clock ∧ (s.setRun r).power = s.power ∧ (s.setRun r).sem = s.sem ∧ (s.setRun r).regs = s.regs ∧
    (s.setRun r).counters = s.counters ∧ (s.setRun r).shadow = s.shadow ∧ (s.setRun r).live = s.live ∧ (s.setRun r).slots = s.slots ∧
    (s.setRun r).tenancies = s.tenancies ∧ (s.setRun r).ctxs = s.ctxs ∧ (s.setRun r).rings = s.rings ∧ (s.setRun r).ringErr = s.ringErr ∧
    (s.setRun r).works = s.works ∧ (s.setRun r).nextWork = s.nextWork ∧ (s.setRun r).lastCredit = s.lastCredit ∧
    (s.setRun r).ports = s.ports ∧ (s.setRun r).cmdTen = s.cmdTen ∧ (s.setRun r).cmdCtx = s.cmdCtx ∧ (s.setRun r).cmdRing = s.cmdRing ∧
    (s.setRun r).cmdExt = s.cmdExt ∧ (s.setRun r).cmdWl = s.cmdWl ∧ (s.setRun r).memory = s.memory ∧ (s.setRun r).poison = s.poison ∧
    (s.setRun r).fill = s.fill ∧ (s.setRun r).firstTouch = s.firstTouch ∧ (s.setRun r).burrows = s.burrows ∧
    (s.setRun r).rotation = s.rotation ∧ (s.setRun r).groups = s.groups ∧ (s.setRun r).images = s.images ∧ (s.setRun r).tables = s.tables ∧
    (s.setRun r).tensors = s.tensors ∧ (s.setRun r).tensorGen = s.tensorGen ∧ (s.setRun r).jobs = s.jobs ∧ (s.setRun r).trails = s.trails ∧
    (s.setRun r).holds = s.holds ∧ (s.setRun r).lateFree = s.lateFree ∧ (s.setRun r).vcache = s.vcache ∧ (s.setRun r).extents = s.extents ∧
    (s.setRun r).leases = s.leases ∧ (s.setRun r).dir = s.dir ∧ (s.setRun r).recalls = s.recalls ∧ (s.setRun r).waiting = s.waiting ∧
    (s.setRun r).recalled = s.recalled ∧ (s.setRun r).fencing = s.fencing ∧ (s.setRun r).denCache = s.denCache ∧
    (s.setRun r).ddrUnder = s.ddrUnder ∧ (s.setRun r).hbmCache = s.hbmCache ∧ (s.setRun r).lastDrain = s.lastDrain ∧
    (s.setRun r).atc = s.atc ∧ (s.setRun r).xltWaits = s.xltWaits ∧ (s.setRun r).invalWait = s.invalWait ∧ (s.setRun r).faults = s.faults ∧
    (s.setRun r).faultNext = s.faultNext ∧ (s.setRun r).logNext = s.logNext ∧ (s.setRun r).logGain = s.logGain ∧
    (s.setRun r).batchWait = s.batchWait ∧ (s.setRun r).fabric = s.fabric ∧ (s.setRun r).badgers = s.badgers ∧ (s.setRun r).part = s.part ∧
    (s.setRun r).mem = s.mem ∧ (s.setRun r).settMap = s.settMap ∧ (s.setRun r).failedSetts = s.failedSetts ∧
    (s.setRun r).settWait = s.settWait ∧ (s.setRun r).resident = s.resident ∧ (s.setRun r).health = s.health ∧
    (s.setRun r).svcPrev = s.svcPrev ∧ (s.setRun r).test = s.test ∧ (s.setRun r).owl = s.owl ∧ (s.setRun r).errs = s.errs ∧
    (s.setRun r).loop = s.loop ∧ (s.setRun r).lbResult = s.lbResult ∧ (s.setRun r).bridgeFails = s.bridgeFails ∧
    (s.setRun r).trace = s.trace := by
  repeat' apply And.intro
  all_goals rfl

@[simp] theorem State.setTable_frame (t : Nat) (x : Table) :
    (s.setTable t x).pending = s.pending ∧ (s.setTable t x).out = s.out ∧ (s.setTable t x).freeCount = s.freeCount ∧
    (s.setTable t x).time = s.time ∧ (s.setTable t x).clock = s.clock ∧ (s.setTable t x).power = s.power ∧ (s.setTable t x).sem = s.sem ∧
    (s.setTable t x).regs = s.regs ∧ (s.setTable t x).counters = s.counters ∧ (s.setTable t x).shadow = s.shadow ∧
    (s.setTable t x).live = s.live ∧ (s.setTable t x).slots = s.slots ∧ (s.setTable t x).tenancies = s.tenancies ∧
    (s.setTable t x).ctxs = s.ctxs ∧ (s.setTable t x).rings = s.rings ∧ (s.setTable t x).ringErr = s.ringErr ∧
    (s.setTable t x).works = s.works ∧ (s.setTable t x).nextWork = s.nextWork ∧ (s.setTable t x).lastCredit = s.lastCredit ∧
    (s.setTable t x).ports = s.ports ∧ (s.setTable t x).cmdTen = s.cmdTen ∧ (s.setTable t x).cmdCtx = s.cmdCtx ∧
    (s.setTable t x).cmdRing = s.cmdRing ∧ (s.setTable t x).cmdExt = s.cmdExt ∧ (s.setTable t x).cmdWl = s.cmdWl ∧
    (s.setTable t x).memory = s.memory ∧ (s.setTable t x).poison = s.poison ∧ (s.setTable t x).fill = s.fill ∧
    (s.setTable t x).firstTouch = s.firstTouch ∧ (s.setTable t x).burrows = s.burrows ∧ (s.setTable t x).rotation = s.rotation ∧
    (s.setTable t x).groups = s.groups ∧ (s.setTable t x).images = s.images ∧ (s.setTable t x).runs = s.runs ∧
    (s.setTable t x).tensors = s.tensors ∧ (s.setTable t x).tensorGen = s.tensorGen ∧ (s.setTable t x).jobs = s.jobs ∧
    (s.setTable t x).trails = s.trails ∧ (s.setTable t x).holds = s.holds ∧ (s.setTable t x).lateFree = s.lateFree ∧
    (s.setTable t x).vcache = s.vcache ∧ (s.setTable t x).extents = s.extents ∧ (s.setTable t x).leases = s.leases ∧
    (s.setTable t x).dir = s.dir ∧ (s.setTable t x).recalls = s.recalls ∧ (s.setTable t x).waiting = s.waiting ∧
    (s.setTable t x).recalled = s.recalled ∧ (s.setTable t x).fencing = s.fencing ∧ (s.setTable t x).denCache = s.denCache ∧
    (s.setTable t x).ddrUnder = s.ddrUnder ∧ (s.setTable t x).hbmCache = s.hbmCache ∧ (s.setTable t x).lastDrain = s.lastDrain ∧
    (s.setTable t x).atc = s.atc ∧ (s.setTable t x).xltWaits = s.xltWaits ∧ (s.setTable t x).invalWait = s.invalWait ∧
    (s.setTable t x).faults = s.faults ∧ (s.setTable t x).faultNext = s.faultNext ∧ (s.setTable t x).logNext = s.logNext ∧
    (s.setTable t x).logGain = s.logGain ∧ (s.setTable t x).batchWait = s.batchWait ∧ (s.setTable t x).fabric = s.fabric ∧
    (s.setTable t x).badgers = s.badgers ∧ (s.setTable t x).part = s.part ∧ (s.setTable t x).mem = s.mem ∧
    (s.setTable t x).settMap = s.settMap ∧ (s.setTable t x).failedSetts = s.failedSetts ∧ (s.setTable t x).settWait = s.settWait ∧
    (s.setTable t x).resident = s.resident ∧ (s.setTable t x).health = s.health ∧ (s.setTable t x).svcPrev = s.svcPrev ∧
    (s.setTable t x).test = s.test ∧ (s.setTable t x).owl = s.owl ∧ (s.setTable t x).errs = s.errs ∧ (s.setTable t x).loop = s.loop ∧
    (s.setTable t x).lbResult = s.lbResult ∧ (s.setTable t x).bridgeFails = s.bridgeFails ∧ (s.setTable t x).trace = s.trace := by
  repeat' apply And.intro
  all_goals rfl

@[simp] theorem State.setGroup_frame (g : GroupSearch) :
    (s.setGroup g).pending = s.pending ∧ (s.setGroup g).out = s.out ∧ (s.setGroup g).freeCount = s.freeCount ∧
    (s.setGroup g).time = s.time ∧ (s.setGroup g).clock = s.clock ∧ (s.setGroup g).power = s.power ∧ (s.setGroup g).sem = s.sem ∧
    (s.setGroup g).regs = s.regs ∧ (s.setGroup g).counters = s.counters ∧ (s.setGroup g).shadow = s.shadow ∧ (s.setGroup g).live = s.live ∧
    (s.setGroup g).slots = s.slots ∧ (s.setGroup g).tenancies = s.tenancies ∧ (s.setGroup g).ctxs = s.ctxs ∧
    (s.setGroup g).rings = s.rings ∧ (s.setGroup g).ringErr = s.ringErr ∧ (s.setGroup g).works = s.works ∧
    (s.setGroup g).nextWork = s.nextWork ∧ (s.setGroup g).lastCredit = s.lastCredit ∧ (s.setGroup g).ports = s.ports ∧
    (s.setGroup g).cmdTen = s.cmdTen ∧ (s.setGroup g).cmdCtx = s.cmdCtx ∧ (s.setGroup g).cmdRing = s.cmdRing ∧
    (s.setGroup g).cmdExt = s.cmdExt ∧ (s.setGroup g).cmdWl = s.cmdWl ∧ (s.setGroup g).memory = s.memory ∧
    (s.setGroup g).poison = s.poison ∧ (s.setGroup g).fill = s.fill ∧ (s.setGroup g).firstTouch = s.firstTouch ∧
    (s.setGroup g).burrows = s.burrows ∧ (s.setGroup g).rotation = s.rotation ∧ (s.setGroup g).images = s.images ∧
    (s.setGroup g).runs = s.runs ∧ (s.setGroup g).tables = s.tables ∧ (s.setGroup g).tensors = s.tensors ∧
    (s.setGroup g).tensorGen = s.tensorGen ∧ (s.setGroup g).jobs = s.jobs ∧ (s.setGroup g).trails = s.trails ∧
    (s.setGroup g).holds = s.holds ∧ (s.setGroup g).lateFree = s.lateFree ∧ (s.setGroup g).vcache = s.vcache ∧
    (s.setGroup g).extents = s.extents ∧ (s.setGroup g).leases = s.leases ∧ (s.setGroup g).dir = s.dir ∧
    (s.setGroup g).recalls = s.recalls ∧ (s.setGroup g).waiting = s.waiting ∧ (s.setGroup g).recalled = s.recalled ∧
    (s.setGroup g).fencing = s.fencing ∧ (s.setGroup g).denCache = s.denCache ∧ (s.setGroup g).ddrUnder = s.ddrUnder ∧
    (s.setGroup g).hbmCache = s.hbmCache ∧ (s.setGroup g).lastDrain = s.lastDrain ∧ (s.setGroup g).atc = s.atc ∧
    (s.setGroup g).xltWaits = s.xltWaits ∧ (s.setGroup g).invalWait = s.invalWait ∧ (s.setGroup g).faults = s.faults ∧
    (s.setGroup g).faultNext = s.faultNext ∧ (s.setGroup g).logNext = s.logNext ∧ (s.setGroup g).logGain = s.logGain ∧
    (s.setGroup g).batchWait = s.batchWait ∧ (s.setGroup g).fabric = s.fabric ∧ (s.setGroup g).badgers = s.badgers ∧
    (s.setGroup g).part = s.part ∧ (s.setGroup g).mem = s.mem ∧ (s.setGroup g).settMap = s.settMap ∧
    (s.setGroup g).failedSetts = s.failedSetts ∧ (s.setGroup g).settWait = s.settWait ∧ (s.setGroup g).resident = s.resident ∧
    (s.setGroup g).health = s.health ∧ (s.setGroup g).svcPrev = s.svcPrev ∧ (s.setGroup g).test = s.test ∧ (s.setGroup g).owl = s.owl ∧
    (s.setGroup g).errs = s.errs ∧ (s.setGroup g).loop = s.loop ∧ (s.setGroup g).lbResult = s.lbResult ∧
    (s.setGroup g).bridgeFails = s.bridgeFails ∧ (s.setGroup g).trace = s.trace := by
  repeat' apply And.intro
  all_goals rfl

@[simp] theorem State.setExtent_frame (e : Nat) (x : Extent) :
    (s.setExtent e x).pending = s.pending ∧ (s.setExtent e x).out = s.out ∧ (s.setExtent e x).freeCount = s.freeCount ∧
    (s.setExtent e x).time = s.time ∧ (s.setExtent e x).clock = s.clock ∧ (s.setExtent e x).power = s.power ∧
    (s.setExtent e x).sem = s.sem ∧ (s.setExtent e x).regs = s.regs ∧ (s.setExtent e x).counters = s.counters ∧
    (s.setExtent e x).shadow = s.shadow ∧ (s.setExtent e x).live = s.live ∧ (s.setExtent e x).slots = s.slots ∧
    (s.setExtent e x).tenancies = s.tenancies ∧ (s.setExtent e x).ctxs = s.ctxs ∧ (s.setExtent e x).rings = s.rings ∧
    (s.setExtent e x).ringErr = s.ringErr ∧ (s.setExtent e x).works = s.works ∧ (s.setExtent e x).nextWork = s.nextWork ∧
    (s.setExtent e x).lastCredit = s.lastCredit ∧ (s.setExtent e x).ports = s.ports ∧ (s.setExtent e x).cmdTen = s.cmdTen ∧
    (s.setExtent e x).cmdCtx = s.cmdCtx ∧ (s.setExtent e x).cmdRing = s.cmdRing ∧ (s.setExtent e x).cmdExt = s.cmdExt ∧
    (s.setExtent e x).cmdWl = s.cmdWl ∧ (s.setExtent e x).memory = s.memory ∧ (s.setExtent e x).poison = s.poison ∧
    (s.setExtent e x).fill = s.fill ∧ (s.setExtent e x).firstTouch = s.firstTouch ∧ (s.setExtent e x).burrows = s.burrows ∧
    (s.setExtent e x).rotation = s.rotation ∧ (s.setExtent e x).groups = s.groups ∧ (s.setExtent e x).images = s.images ∧
    (s.setExtent e x).runs = s.runs ∧ (s.setExtent e x).tables = s.tables ∧ (s.setExtent e x).tensors = s.tensors ∧
    (s.setExtent e x).tensorGen = s.tensorGen ∧ (s.setExtent e x).jobs = s.jobs ∧ (s.setExtent e x).trails = s.trails ∧
    (s.setExtent e x).holds = s.holds ∧ (s.setExtent e x).lateFree = s.lateFree ∧ (s.setExtent e x).vcache = s.vcache ∧
    (s.setExtent e x).leases = s.leases ∧ (s.setExtent e x).dir = s.dir ∧ (s.setExtent e x).recalls = s.recalls ∧
    (s.setExtent e x).waiting = s.waiting ∧ (s.setExtent e x).recalled = s.recalled ∧ (s.setExtent e x).fencing = s.fencing ∧
    (s.setExtent e x).denCache = s.denCache ∧ (s.setExtent e x).ddrUnder = s.ddrUnder ∧ (s.setExtent e x).hbmCache = s.hbmCache ∧
    (s.setExtent e x).lastDrain = s.lastDrain ∧ (s.setExtent e x).atc = s.atc ∧ (s.setExtent e x).xltWaits = s.xltWaits ∧
    (s.setExtent e x).invalWait = s.invalWait ∧ (s.setExtent e x).faults = s.faults ∧ (s.setExtent e x).faultNext = s.faultNext ∧
    (s.setExtent e x).logNext = s.logNext ∧ (s.setExtent e x).logGain = s.logGain ∧ (s.setExtent e x).batchWait = s.batchWait ∧
    (s.setExtent e x).fabric = s.fabric ∧ (s.setExtent e x).badgers = s.badgers ∧ (s.setExtent e x).part = s.part ∧
    (s.setExtent e x).mem = s.mem ∧ (s.setExtent e x).settMap = s.settMap ∧ (s.setExtent e x).failedSetts = s.failedSetts ∧
    (s.setExtent e x).settWait = s.settWait ∧ (s.setExtent e x).resident = s.resident ∧ (s.setExtent e x).health = s.health ∧
    (s.setExtent e x).svcPrev = s.svcPrev ∧ (s.setExtent e x).test = s.test ∧ (s.setExtent e x).owl = s.owl ∧
    (s.setExtent e x).errs = s.errs ∧ (s.setExtent e x).loop = s.loop ∧ (s.setExtent e x).lbResult = s.lbResult ∧
    (s.setExtent e x).bridgeFails = s.bridgeFails ∧ (s.setExtent e x).trace = s.trace := by
  repeat' apply And.intro
  all_goals rfl

@[simp] theorem State.setLease_frame (e h : Nat) (l : Lease) :
    (s.setLease e h l).pending = s.pending ∧ (s.setLease e h l).out = s.out ∧ (s.setLease e h l).freeCount = s.freeCount ∧
    (s.setLease e h l).time = s.time ∧ (s.setLease e h l).clock = s.clock ∧ (s.setLease e h l).power = s.power ∧
    (s.setLease e h l).sem = s.sem ∧ (s.setLease e h l).regs = s.regs ∧ (s.setLease e h l).counters = s.counters ∧
    (s.setLease e h l).shadow = s.shadow ∧ (s.setLease e h l).live = s.live ∧ (s.setLease e h l).slots = s.slots ∧
    (s.setLease e h l).tenancies = s.tenancies ∧ (s.setLease e h l).ctxs = s.ctxs ∧ (s.setLease e h l).rings = s.rings ∧
    (s.setLease e h l).ringErr = s.ringErr ∧ (s.setLease e h l).works = s.works ∧ (s.setLease e h l).nextWork = s.nextWork ∧
    (s.setLease e h l).lastCredit = s.lastCredit ∧ (s.setLease e h l).ports = s.ports ∧ (s.setLease e h l).cmdTen = s.cmdTen ∧
    (s.setLease e h l).cmdCtx = s.cmdCtx ∧ (s.setLease e h l).cmdRing = s.cmdRing ∧ (s.setLease e h l).cmdExt = s.cmdExt ∧
    (s.setLease e h l).cmdWl = s.cmdWl ∧ (s.setLease e h l).memory = s.memory ∧ (s.setLease e h l).poison = s.poison ∧
    (s.setLease e h l).fill = s.fill ∧ (s.setLease e h l).firstTouch = s.firstTouch ∧ (s.setLease e h l).burrows = s.burrows ∧
    (s.setLease e h l).rotation = s.rotation ∧ (s.setLease e h l).groups = s.groups ∧ (s.setLease e h l).images = s.images ∧
    (s.setLease e h l).runs = s.runs ∧ (s.setLease e h l).tables = s.tables ∧ (s.setLease e h l).tensors = s.tensors ∧
    (s.setLease e h l).tensorGen = s.tensorGen ∧ (s.setLease e h l).jobs = s.jobs ∧ (s.setLease e h l).trails = s.trails ∧
    (s.setLease e h l).holds = s.holds ∧ (s.setLease e h l).lateFree = s.lateFree ∧ (s.setLease e h l).vcache = s.vcache ∧
    (s.setLease e h l).extents = s.extents ∧ (s.setLease e h l).dir = s.dir ∧ (s.setLease e h l).recalls = s.recalls ∧
    (s.setLease e h l).waiting = s.waiting ∧ (s.setLease e h l).recalled = s.recalled ∧ (s.setLease e h l).fencing = s.fencing ∧
    (s.setLease e h l).denCache = s.denCache ∧ (s.setLease e h l).ddrUnder = s.ddrUnder ∧ (s.setLease e h l).hbmCache = s.hbmCache ∧
    (s.setLease e h l).lastDrain = s.lastDrain ∧ (s.setLease e h l).atc = s.atc ∧ (s.setLease e h l).xltWaits = s.xltWaits ∧
    (s.setLease e h l).invalWait = s.invalWait ∧ (s.setLease e h l).faults = s.faults ∧ (s.setLease e h l).faultNext = s.faultNext ∧
    (s.setLease e h l).logNext = s.logNext ∧ (s.setLease e h l).logGain = s.logGain ∧ (s.setLease e h l).batchWait = s.batchWait ∧
    (s.setLease e h l).fabric = s.fabric ∧ (s.setLease e h l).badgers = s.badgers ∧ (s.setLease e h l).part = s.part ∧
    (s.setLease e h l).mem = s.mem ∧ (s.setLease e h l).settMap = s.settMap ∧ (s.setLease e h l).failedSetts = s.failedSetts ∧
    (s.setLease e h l).settWait = s.settWait ∧ (s.setLease e h l).resident = s.resident ∧ (s.setLease e h l).health = s.health ∧
    (s.setLease e h l).svcPrev = s.svcPrev ∧ (s.setLease e h l).test = s.test ∧ (s.setLease e h l).owl = s.owl ∧
    (s.setLease e h l).errs = s.errs ∧ (s.setLease e h l).loop = s.loop ∧ (s.setLease e h l).lbResult = s.lbResult ∧
    (s.setLease e h l).bridgeFails = s.bridgeFails ∧ (s.setLease e h l).trace = s.trace := by
  repeat' apply And.intro
  all_goals rfl

@[simp] theorem State.setBadger_frame (b : Nat) (x : Badger) :
    (s.setBadger b x).pending = s.pending ∧ (s.setBadger b x).out = s.out ∧ (s.setBadger b x).freeCount = s.freeCount ∧
    (s.setBadger b x).time = s.time ∧ (s.setBadger b x).clock = s.clock ∧ (s.setBadger b x).power = s.power ∧
    (s.setBadger b x).sem = s.sem ∧ (s.setBadger b x).regs = s.regs ∧ (s.setBadger b x).counters = s.counters ∧
    (s.setBadger b x).shadow = s.shadow ∧ (s.setBadger b x).live = s.live ∧ (s.setBadger b x).slots = s.slots ∧
    (s.setBadger b x).tenancies = s.tenancies ∧ (s.setBadger b x).ctxs = s.ctxs ∧ (s.setBadger b x).rings = s.rings ∧
    (s.setBadger b x).ringErr = s.ringErr ∧ (s.setBadger b x).works = s.works ∧ (s.setBadger b x).nextWork = s.nextWork ∧
    (s.setBadger b x).lastCredit = s.lastCredit ∧ (s.setBadger b x).ports = s.ports ∧ (s.setBadger b x).cmdTen = s.cmdTen ∧
    (s.setBadger b x).cmdCtx = s.cmdCtx ∧ (s.setBadger b x).cmdRing = s.cmdRing ∧ (s.setBadger b x).cmdExt = s.cmdExt ∧
    (s.setBadger b x).cmdWl = s.cmdWl ∧ (s.setBadger b x).memory = s.memory ∧ (s.setBadger b x).poison = s.poison ∧
    (s.setBadger b x).fill = s.fill ∧ (s.setBadger b x).firstTouch = s.firstTouch ∧ (s.setBadger b x).burrows = s.burrows ∧
    (s.setBadger b x).rotation = s.rotation ∧ (s.setBadger b x).groups = s.groups ∧ (s.setBadger b x).images = s.images ∧
    (s.setBadger b x).runs = s.runs ∧ (s.setBadger b x).tables = s.tables ∧ (s.setBadger b x).tensors = s.tensors ∧
    (s.setBadger b x).tensorGen = s.tensorGen ∧ (s.setBadger b x).jobs = s.jobs ∧ (s.setBadger b x).trails = s.trails ∧
    (s.setBadger b x).holds = s.holds ∧ (s.setBadger b x).lateFree = s.lateFree ∧ (s.setBadger b x).vcache = s.vcache ∧
    (s.setBadger b x).extents = s.extents ∧ (s.setBadger b x).leases = s.leases ∧ (s.setBadger b x).dir = s.dir ∧
    (s.setBadger b x).recalls = s.recalls ∧ (s.setBadger b x).waiting = s.waiting ∧ (s.setBadger b x).recalled = s.recalled ∧
    (s.setBadger b x).fencing = s.fencing ∧ (s.setBadger b x).denCache = s.denCache ∧ (s.setBadger b x).ddrUnder = s.ddrUnder ∧
    (s.setBadger b x).hbmCache = s.hbmCache ∧ (s.setBadger b x).lastDrain = s.lastDrain ∧ (s.setBadger b x).atc = s.atc ∧
    (s.setBadger b x).xltWaits = s.xltWaits ∧ (s.setBadger b x).invalWait = s.invalWait ∧ (s.setBadger b x).faults = s.faults ∧
    (s.setBadger b x).faultNext = s.faultNext ∧ (s.setBadger b x).logNext = s.logNext ∧ (s.setBadger b x).logGain = s.logGain ∧
    (s.setBadger b x).batchWait = s.batchWait ∧ (s.setBadger b x).fabric = s.fabric ∧ (s.setBadger b x).part = s.part ∧
    (s.setBadger b x).mem = s.mem ∧ (s.setBadger b x).settMap = s.settMap ∧ (s.setBadger b x).failedSetts = s.failedSetts ∧
    (s.setBadger b x).settWait = s.settWait ∧ (s.setBadger b x).resident = s.resident ∧ (s.setBadger b x).health = s.health ∧
    (s.setBadger b x).svcPrev = s.svcPrev ∧ (s.setBadger b x).test = s.test ∧ (s.setBadger b x).owl = s.owl ∧
    (s.setBadger b x).errs = s.errs ∧ (s.setBadger b x).loop = s.loop ∧ (s.setBadger b x).lbResult = s.lbResult ∧
    (s.setBadger b x).bridgeFails = s.bridgeFails ∧ (s.setBadger b x).trace = s.trace := by
  repeat' apply And.intro
  all_goals rfl

@[simp] theorem State.setTensor_frame (h : Nat) (x : Tensor) :
    (s.setTensor h x).pending = s.pending ∧ (s.setTensor h x).out = s.out ∧ (s.setTensor h x).freeCount = s.freeCount ∧
    (s.setTensor h x).time = s.time ∧ (s.setTensor h x).clock = s.clock ∧ (s.setTensor h x).power = s.power ∧
    (s.setTensor h x).sem = s.sem ∧ (s.setTensor h x).regs = s.regs ∧ (s.setTensor h x).counters = s.counters ∧
    (s.setTensor h x).shadow = s.shadow ∧ (s.setTensor h x).live = s.live ∧ (s.setTensor h x).slots = s.slots ∧
    (s.setTensor h x).tenancies = s.tenancies ∧ (s.setTensor h x).ctxs = s.ctxs ∧ (s.setTensor h x).rings = s.rings ∧
    (s.setTensor h x).ringErr = s.ringErr ∧ (s.setTensor h x).works = s.works ∧ (s.setTensor h x).nextWork = s.nextWork ∧
    (s.setTensor h x).lastCredit = s.lastCredit ∧ (s.setTensor h x).ports = s.ports ∧ (s.setTensor h x).cmdTen = s.cmdTen ∧
    (s.setTensor h x).cmdCtx = s.cmdCtx ∧ (s.setTensor h x).cmdRing = s.cmdRing ∧ (s.setTensor h x).cmdExt = s.cmdExt ∧
    (s.setTensor h x).cmdWl = s.cmdWl ∧ (s.setTensor h x).memory = s.memory ∧ (s.setTensor h x).poison = s.poison ∧
    (s.setTensor h x).fill = s.fill ∧ (s.setTensor h x).firstTouch = s.firstTouch ∧ (s.setTensor h x).burrows = s.burrows ∧
    (s.setTensor h x).rotation = s.rotation ∧ (s.setTensor h x).groups = s.groups ∧ (s.setTensor h x).images = s.images ∧
    (s.setTensor h x).runs = s.runs ∧ (s.setTensor h x).tables = s.tables ∧ (s.setTensor h x).tensorGen = s.tensorGen ∧
    (s.setTensor h x).jobs = s.jobs ∧ (s.setTensor h x).trails = s.trails ∧ (s.setTensor h x).holds = s.holds ∧
    (s.setTensor h x).lateFree = s.lateFree ∧ (s.setTensor h x).vcache = s.vcache ∧ (s.setTensor h x).extents = s.extents ∧
    (s.setTensor h x).leases = s.leases ∧ (s.setTensor h x).dir = s.dir ∧ (s.setTensor h x).recalls = s.recalls ∧
    (s.setTensor h x).waiting = s.waiting ∧ (s.setTensor h x).recalled = s.recalled ∧ (s.setTensor h x).fencing = s.fencing ∧
    (s.setTensor h x).denCache = s.denCache ∧ (s.setTensor h x).ddrUnder = s.ddrUnder ∧ (s.setTensor h x).hbmCache = s.hbmCache ∧
    (s.setTensor h x).lastDrain = s.lastDrain ∧ (s.setTensor h x).atc = s.atc ∧ (s.setTensor h x).xltWaits = s.xltWaits ∧
    (s.setTensor h x).invalWait = s.invalWait ∧ (s.setTensor h x).faults = s.faults ∧ (s.setTensor h x).faultNext = s.faultNext ∧
    (s.setTensor h x).logNext = s.logNext ∧ (s.setTensor h x).logGain = s.logGain ∧ (s.setTensor h x).batchWait = s.batchWait ∧
    (s.setTensor h x).fabric = s.fabric ∧ (s.setTensor h x).badgers = s.badgers ∧ (s.setTensor h x).part = s.part ∧
    (s.setTensor h x).mem = s.mem ∧ (s.setTensor h x).settMap = s.settMap ∧ (s.setTensor h x).failedSetts = s.failedSetts ∧
    (s.setTensor h x).settWait = s.settWait ∧ (s.setTensor h x).resident = s.resident ∧ (s.setTensor h x).health = s.health ∧
    (s.setTensor h x).svcPrev = s.svcPrev ∧ (s.setTensor h x).test = s.test ∧ (s.setTensor h x).owl = s.owl ∧
    (s.setTensor h x).errs = s.errs ∧ (s.setTensor h x).loop = s.loop ∧ (s.setTensor h x).lbResult = s.lbResult ∧
    (s.setTensor h x).bridgeFails = s.bridgeFails ∧ (s.setTensor h x).trace = s.trace := by
  repeat' apply And.intro
  all_goals rfl

@[simp] theorem State.setRequests_frame (rs : List WlReq) :
    (s.setRequests rs).pending = s.pending ∧ (s.setRequests rs).out = s.out ∧ (s.setRequests rs).freeCount = s.freeCount ∧
    (s.setRequests rs).time = s.time ∧ (s.setRequests rs).clock = s.clock ∧ (s.setRequests rs).power = s.power ∧
    (s.setRequests rs).sem = s.sem ∧ (s.setRequests rs).regs = s.regs ∧ (s.setRequests rs).counters = s.counters ∧
    (s.setRequests rs).shadow = s.shadow ∧ (s.setRequests rs).live = s.live ∧ (s.setRequests rs).slots = s.slots ∧
    (s.setRequests rs).tenancies = s.tenancies ∧ (s.setRequests rs).ctxs = s.ctxs ∧ (s.setRequests rs).rings = s.rings ∧
    (s.setRequests rs).ringErr = s.ringErr ∧ (s.setRequests rs).works = s.works ∧ (s.setRequests rs).nextWork = s.nextWork ∧
    (s.setRequests rs).lastCredit = s.lastCredit ∧ (s.setRequests rs).ports = s.ports ∧ (s.setRequests rs).cmdTen = s.cmdTen ∧
    (s.setRequests rs).cmdCtx = s.cmdCtx ∧ (s.setRequests rs).cmdRing = s.cmdRing ∧ (s.setRequests rs).cmdExt = s.cmdExt ∧
    (s.setRequests rs).cmdWl = s.cmdWl ∧ (s.setRequests rs).memory = s.memory ∧ (s.setRequests rs).poison = s.poison ∧
    (s.setRequests rs).fill = s.fill ∧ (s.setRequests rs).firstTouch = s.firstTouch ∧ (s.setRequests rs).burrows = s.burrows ∧
    (s.setRequests rs).rotation = s.rotation ∧ (s.setRequests rs).groups = s.groups ∧ (s.setRequests rs).images = s.images ∧
    (s.setRequests rs).runs = s.runs ∧ (s.setRequests rs).tables = s.tables ∧ (s.setRequests rs).tensors = s.tensors ∧
    (s.setRequests rs).tensorGen = s.tensorGen ∧ (s.setRequests rs).jobs = s.jobs ∧ (s.setRequests rs).trails = s.trails ∧
    (s.setRequests rs).holds = s.holds ∧ (s.setRequests rs).lateFree = s.lateFree ∧ (s.setRequests rs).vcache = s.vcache ∧
    (s.setRequests rs).extents = s.extents ∧ (s.setRequests rs).leases = s.leases ∧ (s.setRequests rs).dir = s.dir ∧
    (s.setRequests rs).recalls = s.recalls ∧ (s.setRequests rs).waiting = s.waiting ∧ (s.setRequests rs).recalled = s.recalled ∧
    (s.setRequests rs).fencing = s.fencing ∧ (s.setRequests rs).denCache = s.denCache ∧ (s.setRequests rs).ddrUnder = s.ddrUnder ∧
    (s.setRequests rs).hbmCache = s.hbmCache ∧ (s.setRequests rs).lastDrain = s.lastDrain ∧ (s.setRequests rs).atc = s.atc ∧
    (s.setRequests rs).xltWaits = s.xltWaits ∧ (s.setRequests rs).invalWait = s.invalWait ∧ (s.setRequests rs).faults = s.faults ∧
    (s.setRequests rs).faultNext = s.faultNext ∧ (s.setRequests rs).logNext = s.logNext ∧ (s.setRequests rs).logGain = s.logGain ∧
    (s.setRequests rs).batchWait = s.batchWait ∧ (s.setRequests rs).badgers = s.badgers ∧ (s.setRequests rs).part = s.part ∧
    (s.setRequests rs).mem = s.mem ∧ (s.setRequests rs).settMap = s.settMap ∧ (s.setRequests rs).failedSetts = s.failedSetts ∧
    (s.setRequests rs).settWait = s.settWait ∧ (s.setRequests rs).resident = s.resident ∧ (s.setRequests rs).health = s.health ∧
    (s.setRequests rs).svcPrev = s.svcPrev ∧ (s.setRequests rs).test = s.test ∧ (s.setRequests rs).owl = s.owl ∧
    (s.setRequests rs).errs = s.errs ∧ (s.setRequests rs).loop = s.loop ∧ (s.setRequests rs).lbResult = s.lbResult ∧
    (s.setRequests rs).bridgeFails = s.bridgeFails ∧ (s.setRequests rs).trace = s.trace := by
  repeat' apply And.intro
  all_goals rfl

@[simp] theorem State.setRegion_frame (i : Nat) (g : Region) :
    (s.setRegion i g).pending = s.pending ∧ (s.setRegion i g).out = s.out ∧ (s.setRegion i g).freeCount = s.freeCount ∧
    (s.setRegion i g).time = s.time ∧ (s.setRegion i g).clock = s.clock ∧ (s.setRegion i g).power = s.power ∧
    (s.setRegion i g).sem = s.sem ∧ (s.setRegion i g).regs = s.regs ∧ (s.setRegion i g).counters = s.counters ∧
    (s.setRegion i g).shadow = s.shadow ∧ (s.setRegion i g).live = s.live ∧ (s.setRegion i g).slots = s.slots ∧
    (s.setRegion i g).tenancies = s.tenancies ∧ (s.setRegion i g).ctxs = s.ctxs ∧ (s.setRegion i g).rings = s.rings ∧
    (s.setRegion i g).ringErr = s.ringErr ∧ (s.setRegion i g).works = s.works ∧ (s.setRegion i g).nextWork = s.nextWork ∧
    (s.setRegion i g).lastCredit = s.lastCredit ∧ (s.setRegion i g).ports = s.ports ∧ (s.setRegion i g).cmdTen = s.cmdTen ∧
    (s.setRegion i g).cmdCtx = s.cmdCtx ∧ (s.setRegion i g).cmdRing = s.cmdRing ∧ (s.setRegion i g).cmdExt = s.cmdExt ∧
    (s.setRegion i g).cmdWl = s.cmdWl ∧ (s.setRegion i g).memory = s.memory ∧ (s.setRegion i g).poison = s.poison ∧
    (s.setRegion i g).fill = s.fill ∧ (s.setRegion i g).firstTouch = s.firstTouch ∧ (s.setRegion i g).burrows = s.burrows ∧
    (s.setRegion i g).rotation = s.rotation ∧ (s.setRegion i g).groups = s.groups ∧ (s.setRegion i g).images = s.images ∧
    (s.setRegion i g).runs = s.runs ∧ (s.setRegion i g).tables = s.tables ∧ (s.setRegion i g).tensors = s.tensors ∧
    (s.setRegion i g).tensorGen = s.tensorGen ∧ (s.setRegion i g).jobs = s.jobs ∧ (s.setRegion i g).trails = s.trails ∧
    (s.setRegion i g).holds = s.holds ∧ (s.setRegion i g).lateFree = s.lateFree ∧ (s.setRegion i g).vcache = s.vcache ∧
    (s.setRegion i g).extents = s.extents ∧ (s.setRegion i g).leases = s.leases ∧ (s.setRegion i g).dir = s.dir ∧
    (s.setRegion i g).recalls = s.recalls ∧ (s.setRegion i g).waiting = s.waiting ∧ (s.setRegion i g).recalled = s.recalled ∧
    (s.setRegion i g).fencing = s.fencing ∧ (s.setRegion i g).denCache = s.denCache ∧ (s.setRegion i g).ddrUnder = s.ddrUnder ∧
    (s.setRegion i g).hbmCache = s.hbmCache ∧ (s.setRegion i g).lastDrain = s.lastDrain ∧ (s.setRegion i g).atc = s.atc ∧
    (s.setRegion i g).xltWaits = s.xltWaits ∧ (s.setRegion i g).invalWait = s.invalWait ∧ (s.setRegion i g).faults = s.faults ∧
    (s.setRegion i g).faultNext = s.faultNext ∧ (s.setRegion i g).logNext = s.logNext ∧ (s.setRegion i g).logGain = s.logGain ∧
    (s.setRegion i g).batchWait = s.batchWait ∧ (s.setRegion i g).badgers = s.badgers ∧ (s.setRegion i g).part = s.part ∧
    (s.setRegion i g).mem = s.mem ∧ (s.setRegion i g).settMap = s.settMap ∧ (s.setRegion i g).failedSetts = s.failedSetts ∧
    (s.setRegion i g).settWait = s.settWait ∧ (s.setRegion i g).resident = s.resident ∧ (s.setRegion i g).health = s.health ∧
    (s.setRegion i g).svcPrev = s.svcPrev ∧ (s.setRegion i g).test = s.test ∧ (s.setRegion i g).owl = s.owl ∧
    (s.setRegion i g).errs = s.errs ∧ (s.setRegion i g).loop = s.loop ∧ (s.setRegion i g).lbResult = s.lbResult ∧
    (s.setRegion i g).bridgeFails = s.bridgeFails ∧ (s.setRegion i g).trace = s.trace := by
  repeat' apply And.intro
  all_goals rfl

@[simp] theorem State.setStream_frame (x : Stream) :
    (s.setStream x).pending = s.pending ∧ (s.setStream x).out = s.out ∧ (s.setStream x).freeCount = s.freeCount ∧
    (s.setStream x).time = s.time ∧ (s.setStream x).clock = s.clock ∧ (s.setStream x).power = s.power ∧ (s.setStream x).sem = s.sem ∧
    (s.setStream x).regs = s.regs ∧ (s.setStream x).counters = s.counters ∧ (s.setStream x).shadow = s.shadow ∧
    (s.setStream x).live = s.live ∧ (s.setStream x).slots = s.slots ∧ (s.setStream x).tenancies = s.tenancies ∧
    (s.setStream x).ctxs = s.ctxs ∧ (s.setStream x).rings = s.rings ∧ (s.setStream x).ringErr = s.ringErr ∧
    (s.setStream x).works = s.works ∧ (s.setStream x).nextWork = s.nextWork ∧ (s.setStream x).lastCredit = s.lastCredit ∧
    (s.setStream x).ports = s.ports ∧ (s.setStream x).cmdTen = s.cmdTen ∧ (s.setStream x).cmdCtx = s.cmdCtx ∧
    (s.setStream x).cmdRing = s.cmdRing ∧ (s.setStream x).cmdExt = s.cmdExt ∧ (s.setStream x).cmdWl = s.cmdWl ∧
    (s.setStream x).memory = s.memory ∧ (s.setStream x).poison = s.poison ∧ (s.setStream x).fill = s.fill ∧
    (s.setStream x).firstTouch = s.firstTouch ∧ (s.setStream x).burrows = s.burrows ∧ (s.setStream x).rotation = s.rotation ∧
    (s.setStream x).groups = s.groups ∧ (s.setStream x).images = s.images ∧ (s.setStream x).runs = s.runs ∧
    (s.setStream x).tables = s.tables ∧ (s.setStream x).tensors = s.tensors ∧ (s.setStream x).tensorGen = s.tensorGen ∧
    (s.setStream x).jobs = s.jobs ∧ (s.setStream x).trails = s.trails ∧ (s.setStream x).holds = s.holds ∧
    (s.setStream x).lateFree = s.lateFree ∧ (s.setStream x).vcache = s.vcache ∧ (s.setStream x).extents = s.extents ∧
    (s.setStream x).leases = s.leases ∧ (s.setStream x).dir = s.dir ∧ (s.setStream x).recalls = s.recalls ∧
    (s.setStream x).waiting = s.waiting ∧ (s.setStream x).recalled = s.recalled ∧ (s.setStream x).fencing = s.fencing ∧
    (s.setStream x).denCache = s.denCache ∧ (s.setStream x).ddrUnder = s.ddrUnder ∧ (s.setStream x).hbmCache = s.hbmCache ∧
    (s.setStream x).lastDrain = s.lastDrain ∧ (s.setStream x).atc = s.atc ∧ (s.setStream x).xltWaits = s.xltWaits ∧
    (s.setStream x).invalWait = s.invalWait ∧ (s.setStream x).faults = s.faults ∧ (s.setStream x).faultNext = s.faultNext ∧
    (s.setStream x).logNext = s.logNext ∧ (s.setStream x).logGain = s.logGain ∧ (s.setStream x).batchWait = s.batchWait ∧
    (s.setStream x).badgers = s.badgers ∧ (s.setStream x).part = s.part ∧ (s.setStream x).mem = s.mem ∧
    (s.setStream x).settMap = s.settMap ∧ (s.setStream x).failedSetts = s.failedSetts ∧ (s.setStream x).settWait = s.settWait ∧
    (s.setStream x).resident = s.resident ∧ (s.setStream x).health = s.health ∧ (s.setStream x).svcPrev = s.svcPrev ∧
    (s.setStream x).test = s.test ∧ (s.setStream x).owl = s.owl ∧ (s.setStream x).errs = s.errs ∧ (s.setStream x).loop = s.loop ∧
    (s.setStream x).lbResult = s.lbResult ∧ (s.setStream x).bridgeFails = s.bridgeFails ∧ (s.setStream x).trace = s.trace := by
  repeat' apply And.intro
  all_goals rfl

end Sys2Proof.Machine
end

