-- ==== Sys2Proof/Laws/Frame.lean ====
section
/-!
SUPPORT. Frames compose: what a sequence, a choice or a fold of operations changes, and what each shared operation changes at most.
-/

namespace Sys2Proof.Machine

/-! ### Frames compose -/

theorem Only.refl (ps : List Part) (s : State) : Only ps s s := by
  intro p _; cases p <;> rfl

theorem Only.of_eq {ps : List Part} {s t : State} (h : t = s) : Only ps s t := h ▸ Only.refl ps s

theorem State.agree_trans {s t u : State} (p : Part) (h : s.agree t p) (k : t.agree u p) : s.agree u p := by
  cases p <;> exact Eq.trans h k

theorem State.agree_symm {s t : State} (p : Part) (h : s.agree t p) : t.agree s p := by
  cases p <;> exact Eq.symm h

theorem Only.trans {ps : List Part} {s t u : State} (h : Only ps s t) (k : Only ps t u) : Only ps s u :=
  fun p hp => State.agree_trans p (h p hp) (k p hp)

/-- A frame holds for every larger set of parts; the inclusion is checked by evaluation. -/
theorem Only.mono {ps qs : List Part} {s t : State} (h : Only ps s t) (hs : ps.all qs.contains = true) : Only qs s t := by
  intro p hp
  apply h p
  intro hm
  have := List.all_eq_true.mp hs p hm
  exact hp (List.contains_iff_mem.mp this)

theorem Only.append_left {ps : List Part} {s t : State} (qs : List Part) (h : Only ps s t) : Only (qs ++ ps) s t :=
  fun p hp => h p (fun hm => hp (List.mem_append_right qs hm))

theorem Only.append_right {ps : List Part} {s t : State} (qs : List Part) (h : Only ps s t) : Only (ps ++ qs) s t :=
  fun p hp => h p (fun hm => hp (List.mem_append_left qs hm))

/-- One operation after another changes what either changes. -/
theorem Only.comp {ps qs : List Part} {s t u : State} (h : Only ps s t) (k : Only qs t u) : Only (ps ++ qs) s u :=
  (h.append_right qs).trans (k.append_left ps)

theorem Only.ite {ps : List Part} {s t u : State} {c : Prop} [Decidable c] (h : c → Only ps s t) (k : ¬ c → Only ps s u) :
    Only ps s (if c then t else u) := by
  split
  · exact h ‹_›
  · exact k ‹_›

theorem Only.foldl {α : Type} {ps : List Part} {f : State → α → State} (h : ∀ s x, Only ps s (f s x)) (l : List α) (s : State) :
    Only ps s (l.foldl f s) := by
  induction l generalizing s with
  | nil => exact Only.refl ps s
  | cons x t ih => exact (h s x).trans (ih (f s x))

/-- A command that has its effect by a function of the state. -/
theorem Does.intro {c : Instr} {s t : State} {ps : List Part} {P : State → Prop} (he : exec c s = .next t) (ho : Only ps s t) (hp : P t) :
    Does c s ps P := ⟨t, he, ho, hp⟩

/-! ### Plain updates -/

section
variable (s : State)

theorem State.write_only (a : Nat) (b : Bytes) : Only [.memory] s (s.write a b) := by
  intro p hp; cases p <;> first | rfl | simp at hp

theorem State.zero_only (a n : Nat) : Only [.memory] s (s.zero a n) := by
  intro p hp; cases p <;> first | rfl | simp at hp

theorem State.drawn_only : Only [.freeCount] s s.drawn := by
  intro p hp; cases p <;> first | rfl | simp at hp

theorem State.bump_only (o n : Nat) : Only [.counters] s (s.bump o n) := by
  intro p hp; cases p <;> first | rfl | simp at hp

theorem State.setBit_only (o i : Nat) : Only [.regs] s (s.setBit o i) := by
  intro p hp; cases p <;> first | rfl | simp at hp

theorem State.setWork_only (x : Work) : Only [.works] s (s.setWork x) := by
  intro p hp; cases p <;> first | rfl | simp at hp

theorem State.finish_only (w : Nat) (r : Result) : Only [.works, .waits] s (s.finish w r) := by
  intro p hp; cases p <;> first | rfl | simp at hp

theorem State.setPort_only (q : Nat) (x : Port) : Only [.ports] s (s.setPort q x) := by
  intro p hp; cases p <;> first | rfl | simp at hp

theorem State.setRing_only (r : Nat) (x : Ring) : Only [.rings] s (s.setRing r x) := by
  intro p hp; cases p <;> first | rfl | simp at hp

theorem State.setCtx_only (c : Nat) (x : Ctx) : Only [.ctxs] s (s.setCtx c x) := by
  intro p hp; cases p <;> first | rfl | simp at hp

theorem State.setFault_only (f : FaultRec) : Only [.faults] s (s.setFault f) := by
  intro p hp; cases p <;> first | rfl | simp at hp

theorem State.setBurrow_only (i : Nat) (b : Burrow) : Only [.burrows] s (s.setBurrow i b) := by
  intro p hp; cases p <;> first | rfl | simp at hp

theorem State.setRun_only (r : Run) : Only [.runs] s (s.setRun r) := by
  intro p hp; cases p <;> first | rfl | simp at hp

theorem State.setTable_only (t : Nat) (x : Table) : Only [.tables] s (s.setTable t x) := by
  intro p hp; cases p <;> first | rfl | simp at hp

theorem State.setGroup_only (g : GroupSearch) : Only [.groups] s (s.setGroup g) := by
  intro p hp; cases p <;> first | rfl | simp at hp

theorem State.setExtent_only (e : Nat) (x : Extent) : Only [.extents] s (s.setExtent e x) := by
  intro p hp; cases p <;> first | rfl | simp at hp

theorem State.setLease_only (e h : Nat) (l : Lease) : Only [.leases] s (s.setLease e h l) := by
  intro p hp; cases p <;> first | rfl | simp at hp

theorem State.setBadger_only (b : Nat) (x : Badger) : Only [.badgers] s (s.setBadger b x) := by
  intro p hp; cases p <;> first | rfl | simp at hp

theorem State.setTensor_only (h : Nat) (x : Tensor) : Only [.tensors] s (s.setTensor h x) := by
  intro p hp; cases p <;> first | rfl | simp at hp

theorem State.setRequests_only (rs : List WlReq) : Only [.fabric] s (s.setRequests rs) := by
  intro p hp; cases p <;> first | rfl | simp at hp

theorem State.setRegion_only (i : Nat) (g : Region) : Only [.fabric] s (s.setRegion i g) := by
  intro p hp; cases p <;> first | rfl | simp at hp

theorem State.setStream_only (x : Stream) : Only [.fabric] s (s.setStream x) := by
  intro p hp; cases p <;> first | rfl | simp at hp

/-- The tables of registers written at one key. -/
theorem State.regs_only (m : Tab Reg) : Only [.regs] s { s with regs := m } := by
  intro p hp; cases p <;> first | rfl | simp at hp

/-! ### Outputs, flags and events -/

theorem State.out_only (o : List Output) : Only [.out] s { s with out := o } := by
  intro p hp; cases p <;> first | rfl | simp at hp

theorem State.emit_only (o : Output) : Only [.out] s (s.emit o) := by
  unfold State.emit
  split
  · exact Only.ite (fun _ => s.out_only _) (fun _ => Only.refl _ s)
  · exact s.out_only _

/-- What is sent joins the outputs, unless its port is silent. -/
theorem State.emit_out (o : Output) : (s.emit o).out = s.out ++ [o] ∨ (s.emit o).out = s.out := by
  unfold State.emit
  split
  · split
    · exact .inl rfl
    · exact .inr rfl
  · exact .inl rfl

/-- A port that sends lets an output leave. -/
theorem State.emit_port {o : Output} {p : Nat} (h : o.port? = some p) (hs : sends s p) : s.emit o = { s with out := s.out ++ [o] } := by
  unfold State.emit
  rw [h]
  have hh : s.flag (0x0100000 + 0x100 * p) 0 = false := hs.2.1
  have hc : (s.portClass p != 0) = true := by simpa using hs.2.2.1
  simp [hs.1, hh, hc, hs.2.2.2]

/-- An output of no port always leaves. -/
theorem State.emit_free {o : Output} (h : o.port? = none) : s.emit o = { s with out := s.out ++ [o] } := by
  unfold State.emit
  rw [h]

theorem State.setFlag_only (o i : Nat) : Only [.out, .regs] s (s.setFlag o i) := by
  unfold State.setFlag
  have h : Only [.out, .regs] s { s with regs := tset s.regs o (s.stored o ||| BitVec.ofNat 64 (2 ^ i)) } := (s.regs_only _).mono rfl
  exact Only.ite (fun _ => h.trans ((State.emit_only _ _).mono rfl)) (fun _ => h)

theorem State.raiseNmi_only (cause : Nat) : Only [.out, .regs] s (s.raiseNmi cause) :=
  ((s.setBit_only nmiOff cause).mono rfl).trans ((State.emit_only _ _).mono rfl)

theorem State.semError_only (mp : MgmtPort) : Only [.out, .regs, .counters] s (s.semError mp) :=
  ((s.bump_only _ _).mono rfl).trans ((State.setFlag_only _ _ _).mono rfl)

theorem State.setBlock_only (b : CmdBlock) (c : CmdState) : Only [blockPart b] s (s.setBlock b c) := by
  cases b <;> (intro p hp; cases p <;> first | rfl | simp [blockPart] at hp)

theorem State.cmdFail_only (b : CmdBlock) (cause : Nat) : Only [.out, .regs, blockPart b] s (s.cmdFail b cause) := by
  cases b
  · exact ((s.setBlock_only .ten { s.cmdTen with cause }).mono rfl).trans ((State.setFlag_only _ _ _).mono rfl)
  · exact ((s.setBlock_only .ctx { s.cmdCtx with cause }).mono rfl).trans ((State.setFlag_only _ _ _).mono rfl)
  · exact ((s.setBlock_only .ring { s.cmdRing with cause }).mono rfl).trans ((State.setFlag_only _ _ _).mono rfl)
  · exact ((s.setBlock_only .ext { s.cmdExt with cause }).mono rfl).trans ((State.setFlag_only _ _ _).mono rfl)
  · exact ((s.setBlock_only .wl { s.cmdWl with cause }).mono rfl).trans ((State.setFlag_only _ _ _).mono rfl)

theorem State.countCorrected_only (source unit : Nat) : Only [.out, .errs] s (s.countCorrected source unit) := by
  have h : ∀ e : ErrLog, Only [.out, .errs] s { s with errs := e } := by
    intro e p hp; cases p <;> first | rfl | simp at hp
  unfold State.countCorrected
  dsimp only
  exact Only.ite (fun _ => (h _).trans ((State.emit_only _ _).mono rfl)) (fun _ => h _)

theorem State.logError_only (cls source code : Nat) (ten : Option Nat) (unit addr kind id info : Nat) :
    Only [.out, .regs, .counters, .errs] s (s.logError cls source code ten unit addr kind id info) := by
  have h : ∀ (u : State) (e : ErrLog), Only [.out, .regs, .counters, .errs] u { u with errs := e } := by
    intro u e p hp; cases p <;> first | rfl | simp at hp
  have hf : ∀ (u : State) (o i : Nat), Only [.out, .regs, .counters, .errs] u (u.setFlag o i) := fun u o i => (u.setFlag_only o i).mono rfl
  have h0 : Only [.out, .regs, .counters, .errs] s (if cls = 0 then s.countCorrected source unit else s) :=
    Only.ite (fun _ => (s.countCorrected_only _ _).mono rfl) (fun _ => Only.refl _ s)
  unfold State.logError
  refine h0.trans ?_
  generalize (if cls = 0 then s.countCorrected source unit else s) = u
  dsimp only
  split
  · exact h u _
  · refine Only.ite (fun _ => (h u _).trans (hf _ _ _)) (fun _ => Only.ite (fun _ => (u.bump_only _ _).mono rfl) (fun _ => ?_))
    split
    · exact (h u _).trans (hf _ _ _)
    · exact hf u _ _

/-! ### Set-up writes and commands -/

/-- A set-up write of the semaphore's holder is its effect. -/
theorem State.setup_of {s : State} {mp : MgmtPort} (h : setUp s mp) (f : State → State) : s.setup mp f = f s := by
  unfold State.setup
  simp [h.1, h.2]

/-- While PERST_N is asserted a set-up write has no effect. -/
theorem State.setup_perst {s : State} (h : s.power.perst = true) (mp : MgmtPort) (f : State → State) : s.setup mp f = s := by
  unfold State.setup
  simp [h]

/-- Without the semaphore a set-up write is a semaphore error. -/
theorem State.setup_error {s : State} {mp : MgmtPort} (h : s.power.perst = false) (k : s.holdsSem mp = false) (f : State → State) :
    s.setup mp f = s.semError mp := by
  unfold State.setup
  simp [h, k]

/-- A set-up write changes what its effect changes, or what a semaphore error does. -/
theorem State.setup_only {ps : List Part} {f : State → State} (mp : MgmtPort) (h : Only ps s (f s)) :
    Only (ps ++ [.out, .regs, .counters]) s (s.setup mp f) := by
  unfold State.setup
  exact Only.ite (fun _ => Only.refl _ s) (fun _ => Only.ite (fun _ => h.append_right _) (fun _ => (s.semError_only mp).append_left ps))

/-- A command of a block that is not BUSY runs at once. -/
theorem State.command_of {s : State} {mp : MgmtPort} {b : CmdBlock} (h : ready s mp b) (i : Instr) (f : State → State) :
    s.command mp b i f = f s := by
  unfold State.command
  rw [State.setup_of h.1]
  simp [h.2]

/-- A command of a BUSY block is held, unless one is held already. -/
theorem State.command_held {s : State} {mp : MgmtPort} {b : CmdBlock} (h : setUp s mp) (hb : (s.block b).busy = true)
    (hn : (s.block b).held = none) (i : Instr) (f : State → State) :
    s.command mp b i f = s.setBlock b { s.block b with held := some i } := by
  unfold State.command
  rw [State.setup_of h]
  simp [hb, hn]

/-! ### Requests on ports -/

theorem State.classDrop_only (p : Nat) : Only [.out, .regs, .counters] s (s.classDrop p) :=
  ((((s.bump_only _ _).mono rfl).trans ((State.setFlag_only _ _ _).mono rfl)).trans ((State.emit_only _ _).mono rfl))

/-- A request of the class of its port is served. -/
theorem State.arrive_of {s : State} {p cls : Nat} (h : s.carries p = true) (k : s.portClass p = cls) (f : State → State) :
    s.arrive p cls f = f s := by
  unfold State.arrive
  simp [h, k]

/-- A port that carries no traffic changes nothing. -/
theorem State.arrive_silent {s : State} {p : Nat} (h : s.carries p = false) (cls : Nat) (f : State → State) : s.arrive p cls f = s := by
  unfold State.arrive
  simp [h]

/-- A request on a port of another class is dropped (R125). -/
theorem State.arrive_wrong {s : State} {p cls : Nat} (h : s.carries p = true) (k : s.portClass p ≠ cls) (f : State → State) :
    s.arrive p cls f = s.classDrop p := by
  unfold State.arrive
  simp [h, k]

theorem State.arrive_only {ps : List Part} {f : State → State} (p cls : Nat) (h : Only ps s (f s)) :
    Only (ps ++ [.out, .regs, .counters]) s (s.arrive p cls f) := by
  unfold State.arrive
  exact Only.ite (fun _ => Only.refl _ s) (fun _ => Only.ite (fun _ => (s.classDrop_only p).append_left ps) (fun _ => h.append_right _))

/-- A message that R522, R524 and R525 let pass has its effect. -/
theorem State.message_of {s : State} {p type : Nat} {m : Msg} (h : accepts s p type m) (f : State → State) :
    s.message p type m f = f s := by
  unfold State.message
  rw [State.arrive_of h.1 h.2.1]
  obtain ⟨hr, hv, hk⟩ := h.2.2
  have h1 : (!viewFree type && !s.fabric.members.contains m.src) = false := by
    rcases hv with h | h <;> simp_all
  have h2 : (decide (0x10 ≤ type ∧ type ≤ 0x1A) && m.key != s.domainKey) = false := by
    by_cases hc : 0x10 ≤ type ∧ type ≤ 0x1A
    · simp [hk hc]
    · simp [hc]
  simp only [hr, h1, h2, ne_eq, not_true_eq_false, if_false, Bool.false_eq_true]

theorem State.postEntry_only (ring : Nat) (b : Bool → Bytes) : Only [.out, .rings] s (s.postEntry ring b) :=
  ((s.setRing_only _ _).mono rfl).trans ((State.emit_only _ _).mono rfl)

theorem State.postCompletion_only (ring : Nat) (d : Bytes) (r : Result) : Only [.out, .rings] s (s.postCompletion ring d r) := by
  unfold State.postCompletion
  exact Only.ite (fun _ => (s.postEntry_only _ _).trans ((State.emit_only _ _).mono rfl)) (fun _ => s.postEntry_only _ _)

/-! ### The Wilfer Link -/

theorem State.sendOn_only (p type : Nat) (m : Msg) : Only [.out] s (s.sendOn p type m) := by
  unfold State.sendOn
  exact Only.ite (fun _ => Only.refl _ s) (fun _ => State.emit_only _ _)

theorem State.sendTo_only (rank type : Nat) (m : Msg) : Only [.out] s (s.sendTo rank type m) := by
  unfold State.sendTo
  split
  · exact s.sendOn_only _ _ _
  · exact Only.refl _ s

theorem State.respond_only (m : Msg) (type status flags : Nat) (b : Bytes) : Only [.out] s (s.respond m type status flags b) :=
  s.sendTo_only _ _ _

theorem State.refuseReq_only (m : Msg) (type : Nat) : Only [.out, .counters] s (s.refuseReq m type) :=
  ((s.bump_only _ _).mono rfl).trans ((State.respond_only _ _ _ _ _ _).mono rfl)

theorem State.markSent_only (tag : Nat) : Only [.fabric] s (s.markSent tag) := s.setRequests_only _

theorem State.accessFails_only (w : Nat) (who : Option (Nat × Nat)) (status : Nat) : Only [.works, .waits, .runs] s (s.accessFails w who status) := by
  unfold State.accessFails
  split
  · intro p hp; cases p <;> first | rfl | simp at hp
  · intro p hp; cases p <;> first | rfl | simp at hp

theorem State.sendStore_only (r : WlReq) : Only [.out, .fabric] s (s.sendStore r) := by
  unfold State.sendStore
  have h : ∀ f : Fabric, Only [.out, .fabric] s { s with fabric := f } := by
    intro f p hp; cases p <;> first | rfl | simp at hp
  exact ((h _).trans ((State.markSent_only _ _).mono rfl)).trans ((State.sendTo_only _ _ _ _).mono rfl)

theorem State.sendStores_only (ctx rank : Nat) : Only [.out, .fabric] s (s.sendStores ctx rank) := by
  unfold State.sendStores
  exact Only.foldl (fun u r => Only.ite (fun _ => u.sendStore_only r) (fun _ => Only.refl _ u)) _ s

theorem State.closeSegment_only (ctx region rank : Nat) : Only [.out, .fabric] s (s.closeSegment ctx region rank) := by
  unfold State.closeSegment
  dsimp only
  split
  · exact Only.refl _ s
  · refine Only.ite (fun _ => Only.refl _ s) (fun _ => ?_)
    exact (((s.setRequests_only _).mono rfl).trans ((State.setStream_only _ _).mono rfl)).trans ((State.sendTo_only _ _ _ _).mono rfl)

theorem State.pumpStream_only (ctx region rank : Nat) : Only [.out, .fabric] s (s.pumpStream ctx region rank) := by
  unfold State.pumpStream
  exact Only.foldl (fun u _ => Only.ite (fun _ => u.closeSegment_only _ _ _) (fun _ => Only.refl _ u)) _ s

theorem State.packRequest_only (r : WlReq) : Only [.out, .fabric] s (s.packRequest r) := by
  unfold State.packRequest
  dsimp only
  have h := fun l : List Stream => Only.foldl (ps := [.out, .fabric]) (f := fun (s : State) (x : Stream) => s.closeSegment x.ctx x.region x.rank)
    (fun u x => u.closeSegment_only x.ctx x.region x.rank) l s
  exact ((h _).trans ((State.setStream_only _ _).mono rfl)).trans (State.pumpStream_only _ _ _ _)

theorem State.sendRemote_only (r : WlReq) : Only [.out, .works, .waits, .runs, .fabric] s (s.sendRemote r) := by
  unfold State.sendRemote
  refine Only.ite (fun _ => (s.accessFails_only _ _ _).mono rfl) (fun _ => ?_)
  have h : ∀ x : WlReq, Only [.out, .works, .waits, .runs, .fabric] s (s.addRequest x) := by
    intro x p hp; cases p <;> first | rfl | simp at hp
  dsimp only
  refine (h (WlReq.mk s.fabric.nextTag r.rank (bits (s.route r.rank) 3 0) r.ctx r.region r.kind r.w r.cell r.addr r.len
    r.offset r.flag r.out r.seg r.data r.key r.sent r.born)).trans ?_
  refine Only.ite (fun _ => (State.packRequest_only _ _).mono rfl) (fun _ => Only.ite (fun _ => ?_) (fun _ => (State.sendStores_only _ _ _).mono rfl))
  exact ((State.markSent_only _ _).mono rfl).trans ((State.sendTo_only _ _ _ _).mono rfl)

theorem State.sendWindow_only (w : Nat) (cell : Option (Nat × Nat)) (ctx kind addr len : Nat) (b : Bytes) :
    Only [.out, .works, .waits, .runs, .fabric] s (s.sendWindow w cell ctx kind addr len b) := by
  unfold State.sendWindow
  split
  · exact Only.refl _ s
  · exact s.sendRemote_only _

/-! ### Units and their periods -/

theorem State.waits_only (w : List UnitWait) : Only [.waits] s { s with slots := { s.slots with waits := w } } := by
  intro p hp; cases p <;> first | rfl | simp at hp

theorem State.claim_only (m t : Nat) : Only [.slots, .counters] s (s.claim m t) := by
  have h : ∀ (a : Tab (Nat × Nat)) (b : Tab Nat), Only [.slots, .counters] s { s with slots := { s.slots with lent := a, lastBorrower := b } } := by
    intro a b p hp; cases p <;> first | rfl | simp at hp
  unfold State.claim
  exact Only.ite (fun _ => Only.refl _ s) (fun _ => Only.ite (fun _ => h _ _) (fun _ => (h _ _).trans ((State.bump_only _ _ _).mono rfl)))

theorem State.leaveUnits_only (w cell : Nat) : Only [.waits] s (s.leaveUnits w cell) := s.waits_only _

/-- What a gate lets pass, or holds. -/
def Gate.state : Gate → State
  | .go s => s
  | .hold s => s

/-- An access that waits for a unit changes only what serving it does, and the marks of waiting accesses. -/
theorem State.passUnit_only (w cell t : Nat) (ms : List Nat) :
    Only [.slots, .counters, .waits] s (s.passUnit w cell t ms).state := by
  unfold State.passUnit
  have hw : ∀ (u : State) (l : List UnitWait), Only [.slots, .counters, .waits] u { u with slots := { u.slots with waits := l } } :=
    fun u l => (u.waits_only l).mono rfl
  split
  · exact Only.refl _ s
  · dsimp only
    split
    · exact ((s.claim_only _ _).mono rfl).trans (hw _ _)
    · exact hw s _

theorem State.passAll_only (w cell t : Nat) (l : List (List Nat)) :
    Only [.slots, .counters, .waits] s (s.passAll w cell t l).state := by
  induction l generalizing s with
  | nil => exact Only.refl _ s
  | cons ms rest ih =>
    have h := s.passUnit_only w cell t ms
    unfold State.passAll
    split
    · rename_i u hu
      rw [hu] at h
      exact h.trans (ih u)
    · rename_i u hu
      rw [hu] at h
      have k := h.trans (ih u)
      split
      · rename_i v hv
        rw [hv] at k
        exact k
      · rename_i v hv
        rw [hv] at k
        exact k

/-- An act that units serve changes what it changes by itself, and what serving it does. -/
theorem State.onUnits_only {ps : List Part} {f : State → State} (h : ∀ u, Only ps u (f u)) (w cell t : Nat) (ms : List (List Nat)) :
    Only (ps ++ [.slots, .counters, .waits]) s (s.onUnits w cell t ms f) := by
  have k := s.passAll_only w cell t ms
  unfold State.onUnits
  split
  · rename_i u hu
    rw [hu] at k
    refine (k.append_left ps).trans (((h u).append_right _).trans (Only.append_left ps ?_))
    exact ((f u).leaveUnits_only w cell).mono rfl
  · rename_i u hu
    rw [hu] at k
    exact k.append_left ps

theorem State.bgServed_only (m t : Nat) : Only [.slots] s (s.bgServed m t) := by
  unfold State.bgServed
  refine Only.ite (fun _ => Only.refl _ s) (fun _ => ?_)
  intro p hp; cases p <;> first | rfl | simp at hp

/-- An act under the group registers of a work's admission leaves the registers of no other object changed but by the act itself. -/
theorem State.underGroup_only {ps : List Part} {f : State → State} (h : ∀ u, Only ps u (f u)) (x : Work) (id base : Nat) :
    Only (ps ++ [.regs]) s (s.underGroup x id base f) := by
  unfold State.underGroup
  refine Only.ite (fun _ => (h s).append_right _) (fun _ => ?_)
  exact (((s.regs_only _).append_left ps).trans ((h _).append_right _)).trans ((State.regs_only _ _).append_left ps)

/-! ### Translation and faults -/

theorem State.atcUse_only (e : AtcEntry) : Only [.atc] s (s.atcUse e) := by
  intro p hp; cases p <;> first | rfl | simp at hp

theorem State.postFault_only (f : FaultRec) : Only [.out, .rings, .faults, .logNext, .logGain] s (s.postFault f) := by
  have h : ∀ (u : State) (a b : Tab Nat), Only [.out, .rings, .faults, .logNext, .logGain] u { u with logNext := a, logGain := b } := by
    intro u a b p hp; cases p <;> first | rfl | simp at hp
  have he : ∀ (u : State) (o : Output), Only [.out, .rings, .faults, .logNext, .logGain] u (u.emit o) := fun u o => (u.emit_only o).mono rfl
  have hs : ∀ (u : State) (g : FaultRec), Only [.out, .rings, .faults, .logNext, .logGain] u (u.setFault g) := fun u g => (u.setFault_only g).mono rfl
  unfold State.postFault
  refine Only.ite (fun _ => Only.refl _ s) (fun _ => Only.ite (fun _ => ?_) (fun _ => Only.ite (fun _ => ?_) (fun _ => ?_)))
  · split
    · refine Only.ite (fun _ => Only.refl _ s) (fun _ => ?_)
      exact ((hs s _).trans (h _ _ _)).trans (he _ _)
    · exact Only.refl _ s
  · exact (hs s _).trans (he _ _)
  · split
    · refine Only.ite (fun _ => Only.refl _ s) (fun _ => ?_)
      exact ((hs s _).trans ((State.postEntry_only _ _ _).mono rfl)).trans (he _ _)
    · exact Only.refl _ s

theorem State.raiseFault_only (x : Work) (addr : Nat) (write run : Bool) (cell : Nat) (cause : FaultCause) (level : Nat) :
    Only [.out, .counters, .rings, .works, .runs, .faults, .faultNext, .logNext, .logGain] s (s.raiseFault x addr write run cell cause level) := by
  unfold State.raiseFault
  have h : ∀ (a : List FaultRec) (b : Tab Nat) (c : List Work) (d : List Run),
      Only [.out, .counters, .rings, .works, .runs, .faults, .faultNext, .logNext, .logGain] s
        { s with faults := a, faultNext := b, works := c, runs := d } := by
    intro a b c d p hp; cases p <;> first | rfl | simp at hp
  refine Only.trans ((h _ _ _ _).trans (Only.ite (fun _ => ?_) (fun _ => Only.refl _ _))) ((State.postFault_only _ _).mono rfl)
  exact ((State.bump_only _ _ _).mono rfl).trans ((State.emit_only _ _).mono rfl)

theorem State.replay_only (f : FaultRec) : Only [.works, .runs, .faults] s (s.replay f) := by
  intro p hp; cases p <;> first | rfl | simp at hp

end

end Sys2Proof.Machine
end

