-- ==== Sys2Proof/Laws/Memory.lean ====
section
/-!
SUPPORT. Device memory: every operation keeps the canonical form, a read after a write gives what was written, and a write leaves every
other byte.
-/

namespace Sys2Proof.Machine

/-! ### The canonical form -/

theorem Memory.wf_cons (k : Nat) (v : Byte) (t : List Host.Cell) :
    Memory.wf ((k, v) :: t) = true ↔ v ≠ 0 ∧ (∀ c ∈ t, k < c.1) ∧ Memory.wf t = true := by
  induction t generalizing k v with
  | nil => simp [Memory.wf]
  | cons c t ih =>
    obtain ⟨k', v'⟩ := c
    have hstep : Memory.wf ((k, v) :: (k', v') :: t) = (v != 0 && decide (k < k') && Memory.wf ((k', v') :: t)) := rfl
    rw [hstep]
    simp only [Bool.and_eq_true, bne_iff_ne, ne_eq, decide_eq_true_eq, List.mem_cons, forall_eq_or_imp]
    constructor
    · rintro ⟨⟨hv, hk⟩, hw⟩
      obtain ⟨_, hr, _⟩ := (ih k' v').mp hw
      exact ⟨hv, ⟨hk, fun c hc => Nat.lt_trans hk (hr c hc)⟩, hw⟩
    · rintro ⟨hv, ⟨hk, _⟩, hw⟩
      exact ⟨⟨hv, hk⟩, hw⟩

theorem Memory.wf_tail {k : Nat} {v : Byte} {t : List Host.Cell} (h : Memory.wf ((k, v) :: t) = true) : Memory.wf t = true :=
  ((Memory.wf_cons k v t).mp h).2.2

theorem memPut_mem {m : List Host.Cell} {a : Nat} {b : Byte} {c : Host.Cell} (h : c ∈ memPut m a b) : c = (a, b) ∨ c ∈ m := by
  induction m with
  | nil =>
    unfold memPut at h
    split at h
    · simp at h
    · simp at h; exact .inl h
  | cons d t ih =>
    obtain ⟨k, v⟩ := d
    unfold memPut at h
    split at h
    · split at h
      · exact .inr (List.mem_cons_of_mem _ h)
      · rcases List.mem_cons.mp h with h | h
        · exact .inl h
        · exact .inr (List.mem_cons_of_mem _ h)
    · split at h
      · split at h
        · exact .inr h
        · rcases List.mem_cons.mp h with h | h
          · exact .inl h
          · exact .inr h
      · rcases List.mem_cons.mp h with h | h
        · exact .inr (h ▸ List.mem_cons_self)
        · rcases ih h with h | h
          · exact .inl h
          · exact .inr (List.mem_cons_of_mem _ h)

theorem memPut_wf {m : List Host.Cell} (h : Memory.wf m = true) (a : Nat) (b : Byte) : Memory.wf (memPut m a b) = true := by
  induction m with
  | nil =>
    unfold memPut
    split
    · rfl
    · rename_i hb
      have h1 : Memory.wf [] = true := rfl
      exact (Memory.wf_cons a b []).mpr ⟨hb, by simp, h1⟩
  | cons d t ih =>
    obtain ⟨k, v⟩ := d
    obtain ⟨hv, hr, ht⟩ := (Memory.wf_cons k v t).mp h
    unfold memPut
    split
    · rename_i hk
      subst hk
      split
      · exact ht
      · exact (Memory.wf_cons _ _ _).mpr ⟨‹_›, hr, ht⟩
    · split
      · rename_i hk
        split
        · exact h
        · refine (Memory.wf_cons _ _ _).mpr ⟨‹_›, ?_, h⟩
          intro c hc
          rcases List.mem_cons.mp hc with hc | hc
          · exact hc ▸ hk
          · exact Nat.lt_trans hk (hr c hc)
      · rename_i hne hk
        refine (Memory.wf_cons _ _ _).mpr ⟨hv, ?_, ih ht⟩
        intro c hc
        rcases memPut_mem hc with hc | hc
        · subst hc; show k < a; omega
        · exact hr c hc

theorem memWrite_wf {m : List Host.Cell} (h : Memory.wf m = true) (a : Nat) (b : Bytes) : Memory.wf (memWrite m a b) = true := by
  induction b generalizing m a with
  | nil => exact h
  | cons x t ih => exact ih (memPut_wf h a x) (a + 1)

theorem memZero_wf {m : List Host.Cell} (h : Memory.wf m = true) (a n : Nat) : Memory.wf (memZero m a n) = true := by
  unfold memZero
  induction m with
  | nil => rfl
  | cons d t ih =>
    obtain ⟨k, v⟩ := d
    obtain ⟨hv, hr, ht⟩ := (Memory.wf_cons k v t).mp h
    rw [List.filter_cons]
    split
    · exact (Memory.wf_cons _ _ _).mpr ⟨hv, fun c hc => hr c (List.mem_of_mem_filter hc), ih ht⟩
    · exact ih ht

/-! ### Reads after writes -/

theorem memByte_of_lt {m : List Host.Cell} {a : Nat} (h : ∀ c ∈ m, a < c.1) : memByte m a = 0 := by
  induction m with
  | nil => rfl
  | cons d t ih =>
    obtain ⟨k, v⟩ := d
    have hk : a < k := h (k, v) List.mem_cons_self
    unfold memByte
    rw [if_neg (by omega)]
    exact ih (fun c hc => h c (List.mem_cons_of_mem _ hc))

theorem memByte_memPut_same {m : List Host.Cell} (h : Memory.wf m = true) (a : Nat) (b : Byte) : memByte (memPut m a b) a = b := by
  induction m with
  | nil =>
    unfold memPut
    split
    · rename_i hb; exact hb ▸ rfl
    · simp [memByte]
  | cons d t ih =>
    obtain ⟨k, v⟩ := d
    obtain ⟨_, hr, ht⟩ := (Memory.wf_cons k v t).mp h
    unfold memPut
    split
    · rename_i hk
      split
      · rename_i hb
        rw [hb]
        exact memByte_of_lt (hk ▸ hr)
      · simp [memByte]
    · rename_i hk
      split
      · rename_i hlt
        split
        · rename_i hb
          rw [hb]
          apply memByte_of_lt
          intro c hc
          rcases List.mem_cons.mp hc with hc | hc
          · exact hc ▸ hlt
          · exact Nat.lt_trans hlt (hr c hc)
        · simp [memByte]
      · unfold memByte
        rw [if_neg hk]
        exact ih ht

theorem memByte_memPut_ne (m : List Host.Cell) {a x : Nat} (b : Byte) (hx : x ≠ a) : memByte (memPut m a b) x = memByte m x := by
  induction m with
  | nil =>
    unfold memPut
    split
    · rfl
    · simp [memByte, Ne.symm hx]
  | cons d t ih =>
    obtain ⟨k, v⟩ := d
    unfold memPut
    split
    · rename_i hk
      subst hk
      split
      · simp [memByte, Ne.symm hx]
      · simp [memByte, Ne.symm hx]
    · split
      · split
        · rfl
        · simp [memByte, Ne.symm hx]
      · simp only [memByte, ih]

theorem memByte_memWrite_out (m : List Host.Cell) {a x : Nat} (b : Bytes) (h : x < a ∨ a + b.length ≤ x) :
    memByte (memWrite m a b) x = memByte m x := by
  induction b generalizing m a with
  | nil => rfl
  | cons y t ih =>
    have hl : (y :: t).length = t.length + 1 := rfl
    rw [hl] at h
    show memByte (memWrite (memPut m a y) (a + 1) t) x = _
    rw [ih (memPut m a y) (a := a + 1) (by omega), memByte_memPut_ne m y (by omega)]

theorem memByte_memWrite_in {m : List Host.Cell} (h : Memory.wf m = true) (a : Nat) (b : Bytes) {k : Nat} (hk : k < b.length) :
    memByte (memWrite m a b) (a + k) = b.getD k 0 := by
  induction b generalizing m a k with
  | nil => simp at hk
  | cons y t ih =>
    show memByte (memWrite (memPut m a y) (a + 1) t) (a + k) = _
    cases k with
    | zero =>
      rw [memByte_memWrite_out _ t (by omega)]
      exact memByte_memPut_same h a y
    | succ k =>
      have hk' : k < t.length := by simpa using hk
      have := ih (memPut_wf h a y) (a + 1) hk'
      rw [show a + (k + 1) = a + 1 + k by omega, this]
      rfl

theorem memByte_memZero (m : List Host.Cell) (a n x : Nat) :
    memByte (memZero m a n) x = if a ≤ x ∧ x < a + n then 0 else memByte m x := by
  unfold memZero
  induction m with
  | nil => simp [memByte]
  | cons d t ih =>
    obtain ⟨k, v⟩ := d
    rw [List.filter_cons]
    by_cases hx : k = x
    · subst hx
      split
      · rename_i h0
        simp only [Bool.or_eq_true, decide_eq_true_eq] at h0
        have hr : ¬(a ≤ k ∧ k < a + n) := by omega
        simp [memByte, hr]
      · rename_i h0
        simp only [Bool.or_eq_true, decide_eq_true_eq] at h0
        have hr : a ≤ k ∧ k < a + n := by omega
        rw [ih]
        simp [hr]
    · split
      · simp only [memByte, hx, if_false]
        exact ih
      · rw [ih]
        simp [memByte, hx]

/-! ### The operations on the state keep the form -/

theorem State.reset_memory_wf : Memory.wf State.reset.memory = true := rfl

theorem State.write_wf {s : State} (h : Memory.wf s.memory = true) (a : Nat) (b : Bytes) : Memory.wf (s.write a b).memory = true :=
  memWrite_wf h a b

theorem State.zero_wf {s : State} (h : Memory.wf s.memory = true) (a n : Nat) : Memory.wf (s.zero a n).memory = true := memZero_wf h a n

theorem State.clearBlock_memory (s : State) (r g b : Nat) : (s.clearBlock r g b).memory = s.memory := rfl

theorem State.writeBlock_wf {s : State} (h : Memory.wf s.memory = true) (a : Nat) (b : Bytes) :
    Memory.wf (s.writeBlock a b).memory = true := by
  unfold State.writeBlock
  split
  · exact memWrite_wf (memZero_wf h _ _) _ _
  · exact memWrite_wf h _ _

theorem State.writeLine_wf {s : State} (h : Memory.wf s.memory = true) (a : Nat) (b : Bytes) :
    Memory.wf (s.writeLine a b).memory = true := by
  unfold State.writeLine
  split
  · exact h
  split
  · split
    · exact State.writeBlock_wf (s := { s with poison := s.poison.filter (· != lineOf a) }) h a b
    · exact h
  · exact State.writeBlock_wf h a b

theorem State.writeDev_wf {s : State} (h : Memory.wf s.memory = true) (a : Nat) (b : Bytes) (fuel : Nat) :
    Memory.wf (s.writeDev a b fuel).memory = true := by
  induction fuel generalizing s a b with
  | zero => exact h
  | succ n ih =>
    unfold State.writeDev
    split
    · exact h
    · exact ih (State.writeLine_wf h _ _) _ _

theorem State.put_wf {s : State} (h : Memory.wf s.memory = true) (a : Nat) (b : Bytes) : Memory.wf (s.put a b).memory = true :=
  State.writeDev_wf h a b _

/-! ### What a write of device memory changes at most -/

theorem State.clearBlock_only (s : State) (r g b : Nat) : Only [.fill, .firstTouch] s (s.clearBlock r g b) := by
  intro p hp; cases p <;> first | rfl | simp at hp

theorem State.writeBlock_only (s : State) (a : Nat) (b : Bytes) : Only [.memory, .fill, .firstTouch] s (s.writeBlock a b) := by
  unfold State.writeBlock
  refine Only.ite (fun _ => ?_) (fun _ => (s.write_only a b).mono rfl)
  exact (((s.zero_only _ _).mono rfl).trans ((State.clearBlock_only _ _ _ _).mono rfl)).trans ((State.write_only _ _ _).mono rfl)

theorem State.writeLine_only (s : State) (a : Nat) (b : Bytes) : Only [.memory, .poison, .fill, .firstTouch] s (s.writeLine a b) := by
  have h : ∀ l : List Nat, Only [.memory, .poison, .fill, .firstTouch] s { s with poison := l } := by
    intro l p hp; cases p <;> first | rfl | simp at hp
  unfold State.writeLine
  refine Only.ite (fun _ => Only.refl _ s) (fun _ =>
    Only.ite (fun _ => Only.ite (fun _ => ?_) (fun _ => Only.refl _ s)) (fun _ => (s.writeBlock_only a b).mono rfl))
  exact (h _).trans ((State.writeBlock_only _ a b).mono rfl)

theorem State.writeDev_only (s : State) (a : Nat) (b : Bytes) (fuel : Nat) :
    Only [.memory, .poison, .fill, .firstTouch] s (s.writeDev a b fuel) := by
  induction fuel generalizing s a b with
  | zero => exact Only.refl _ s
  | succ n ih =>
    unfold State.writeDev
    exact Only.ite (fun _ => Only.refl _ s) (fun _ => (s.writeLine_only _ _).trans (ih _ _ _))

theorem State.put_only (s : State) (a : Nat) (b : Bytes) : Only [.memory, .poison, .fill, .firstTouch] s (s.put a b) :=
  s.writeDev_only a b _

end Sys2Proof.Machine
end

