-- ==== Sys2Proof/Laws/Storage.lean ====
section
/-!
SUPPORT. Addresses that Erord chooses: where a place is free one is chosen, and where one place alone is free it is that one.
-/

namespace Sys2Proof.Machine

theorem nthPlace_isSome (n al : Nat) (gs : List (Nat × Nat)) {k : Nat} (h : k < (gs.map (places n al)).sum) :
    ∃ a, nthPlace n al gs k = some a := by
  induction gs generalizing k with
  | nil => simp at h
  | cons g t ih =>
    unfold nthPlace
    split
    · exact ⟨_, rfl⟩
    · simp only [List.map_cons, List.sum_cons] at h
      exact ih (by omega)

/-- Where a place of n bytes is free, an address is chosen (R713). -/
theorem State.pick_isSome {s : State} {r : Nat × Nat} {n al : Nat} (h : 0 < ((s.gaps r).map (places n al)).sum) :
    ∃ a, s.pick r n al = some a := by
  unfold State.pick
  dsimp only
  rw [if_neg (by omega)]
  exact nthPlace_isSome n al _ (Nat.mod_lt _ h)

theorem State.pick_getD {s : State} {r : Nat × Nat} {n al : Nat} (h : 0 < ((s.gaps r).map (places n al)).sum) :
    s.pick r n al = some ((s.pick r n al).getD 0) := by
  obtain ⟨a, ha⟩ := State.pick_isSome h
  rw [ha]
  rfl

/-- Where one place alone is free, that is the one chosen. -/
theorem State.pick_only {s : State} {r : Nat × Nat} {n al a : Nat} (h : ((s.gaps r).map (places n al)).sum = 1)
    (ha : nthPlace n al (s.gaps r) 0 = some a) : s.pick r n al = some a := by
  unfold State.pick
  dsimp only
  rw [h, if_neg (by omega), Nat.mod_one]
  exact ha

theorem State.place_only {s : State} {r : Nat × Nat} {n al a : Nat} (h : ((s.gaps r).map (places n al)).sum = 1)
    (ha : nthPlace n al (s.gaps r) 0 = some a) : s.place r n al = some (a, s.drawn) := by
  unfold State.place
  rw [State.pick_only h ha]
  rfl

/-- A leaf finds room where the stack that is next in the rotation has it on the N die (R165). -/
theorem State.placeLeaf_isSome {s : State} {t n l : Nat} {rest : List Nat}
    (ho : s.stackOrder.drop (s.rotation % max s.stackOrder.length 1) ++ s.stackOrder.take (s.rotation % max s.stackOrder.length 1) = l :: rest)
    (h : 0 < ((s.gaps (meet (s.hbmUse t 0) (stackRange l))).map (places n 64)).sum) : ∃ r, s.placeLeaf t n = some r := by
  obtain ⟨a, ha⟩ := State.pick_isSome h
  unfold State.placeLeaf
  dsimp only
  rw [ho]
  simp only [State.rotate, State.pickStack, List.findSome?_cons, ha]
  exact ⟨_, rfl⟩

/-- The tree without a skeleton is one leaf (R186). -/
theorem State.plantTree_isSome {s : State} {bi : Nat}
    (h : ∃ r, s.placeLeaf (s.burrow bi).tenancy ((s.burrow bi).leafBytes 0) = some r) : ∃ t, s.plantTree bi none = some t := by
  obtain ⟨⟨l, a, u⟩, hr⟩ := h
  unfold State.plantTree
  dsimp only
  simp only [State.newLeaves, hr, Option.bind_eq_bind, Option.bind_some]
  exact ⟨_, rfl⟩

/-- The slot ranges that are free beside those of other burrows (R182). -/
def State.slotGaps (s : State) (bi : Nat) : List (Nat × Nat) :=
  sweep 0 (2 ^ 36) (sortBy (fun x y => decide (x.1 < y.1))
    ((s.burrows.filter (fun e => e.1 != bi && e.2.state != 0)).map (fun e => (e.2.slotBase, e.2.slotCount))))

/-- A burrow without full vectors whose codebook, DDR and slot range each have one place alone. -/
theorem State.placeBurrow_only {s s1 s2 : State} {bi cb dd sb : Nat} {b : Burrow} (hs1 : s.drawn.setBurrow bi { b with codebookAt := cb } = s1)
    (hs2 : s1.drawn.setBurrow bi { s1.drawn.burrow bi with ddrAt := dd, ddrRes := 48 * b.maxItems } = s2)
    (h1 : s.place (s.hbmUse b.tenancy (b.homeDen / 4)) (max b.bookBytes 1) 64 = some (cb, s.drawn))
    (h2 : s1.place (s1.ddrAllot b.tenancy (b.homeDen / 4)) (48 * b.maxItems) 64 = some (dd, s1.drawn)) (hf : b.fullStore = 0)
    (h3 : ((s2.slotGaps bi).map (places b.slotCount (2 ^ 20))).sum = 1)
    (h4 : nthPlace b.slotCount (2 ^ 20) (s2.slotGaps bi) 0 = some sb) :
    s.placeBurrow bi b = some (s2.drawn.setBurrow bi { s2.burrow bi with vecBase := 0, slotBase := sb }) := by
  unfold State.placeBurrow
  simp only [h1, Option.bind_eq_bind, Option.bind_some]
  rw [hs1]
  simp only [h2, Option.bind_some]
  rw [hs2]
  simp only [hf, if_true]
  unfold State.slotGaps at h3 h4
  simp only [h3, Nat.mod_one, h4, Nat.one_ne_zero, if_false, Option.bind_some]

/-- Where its parts find their places, a burrow is built. -/
theorem State.buildBurrow_isSome {s t : State} {x : Work} {book : Bytes} (h1 : s.placeBurrow x.burrow (s.burrowFor x none) = some t)
    (h2 : ∃ u, t.plantTree x.burrow none = some u) : (s.buildBurrow x none book).isSome = true := by
  obtain ⟨u, hu⟩ := h2
  simp only [State.buildBurrow, h1, hu, Option.bind_some, Option.map_some, Option.isSome_some]

theorem getD_of_isSome {α : Type} {o : Option α} (d : α) (h : o.isSome = true) : o = some (o.getD d) := by
  cases o with
  | none => simp at h
  | some a => rfl

/-- Room for a tensor at T2 (R377). -/
theorem State.roomFor_ddr {s : State} {t die bytes stored : Nat}
    (h : 0 < ((s.gaps (s.ddrAllot t die)).map (places (roundup (wcStream bytes) 4096) 4096)).sum) :
    s.roomFor t die 2 bytes stored =
      .ok ((s.pick (s.ddrAllot t die) (roundup (wcStream bytes) 4096) 4096).getD 0) (roundup (wcStream bytes) 4096) := by
  obtain ⟨a, ha⟩ := State.pick_isSome h
  unfold State.roomFor
  generalize roundup (wcStream bytes) 4096 = n at ha ⊢
  simp only [ha, Option.getD_some]

/-- Room for a function image in the N die's DDR (R316). -/
theorem State.imagePlace_first {s : State} {t n : Nat} (h : 0 < ((s.gaps (s.ddrAllot t 0)).map (places n 64)).sum) :
    s.imagePlace t n = some ((s.pick (s.ddrAllot t 0) n 64).getD 0) := by
  obtain ⟨a, ha⟩ := State.pick_isSome h
  simp only [State.imagePlace, ha, Option.getD_some]

/-- A state in which a table's first area is taken, as the choice of the second sees it (R345). -/
def State.areaTaken (s : State) (t a n : Nat) : State :=
  { s.drawn with lateFree := [(a, n, t, [])] ++ s.drawn.lateFree }

/-- The areas of a table are found where both fit on its home den's die (R345). -/
theorem State.tableAreas_isSome {s : State} {t tier den rows pend stride dim a : Nat}
    (hf : ¬(tier = 0 ∧ s.hbmFree t < 2 * rows * stride + pend * stride))
    (h1 : s.pick (if tier = 0 then s.hbmUse t (den / 4) else s.ddrAllot t (den / 4)) (2 * rows * stride + pend * stride) 64 = some a)
    (h2 : 0 < (((s.areaTaken t a (2 * rows * stride + pend * stride)).gaps
        ((s.areaTaken t a (2 * rows * stride + pend * stride)).ddrAllot t (den / 4))).map
          (places (pend * (roundup (4 * dim) 64 + 16)) 64)).sum) :
    (s.tableAreas t tier den rows pend stride dim).isSome = true := by
  obtain ⟨p, hp⟩ := State.pick_isSome h2
  unfold State.areaTaken at hp
  unfold State.tableAreas
  dsimp only
  rw [if_neg hf]
  simp only [List.findSome?_cons, h1, hp, List.map_cons, List.map_nil, Option.isSome_some]

end Sys2Proof.Machine
end

