-- ==== Sys2Proof/WellFormed.lean ====
section
/-!
DEFINITION. The commands whose operands are numbers the block has: ports, rings, contexts, tenancies, units and the like, and messages
whose fields fit their widths. A meaning does not ask for it: on a number the block does not have, a command finds no occasion and
changes nothing (assumption 1).
-/

namespace Sys2Proof

/-! ### Numbers of the block -/

/-- PORT0–PORT11 (R3). -/
def portOk (p : Nat) : Bool := decide (p < 12)

/-- A port of either kind. -/
def PortRef.ok : PortRef → Bool
  | .mgmt _ => true
  | .port n => portOk n

/-- A ring (R95), a context (R89), a tenancy that can be bound (R594), an extent and a host (R407, R410), a Badger (R557). -/
def ringOk (r : Nat) : Bool := decide (r < 65536)
def ctxOk (c : Nat) : Bool := decide (c < 262144)
def tenOk (t : Nat) : Bool := decide (1 ≤ t ∧ t < 512)
def extOk (e : Nat) : Bool := decide (e < 8192)
def hostOk (h : Nat) : Bool := decide (h < 256)
def badgerOk (b : Nat) : Bool := decide (b < 8)
def dieOk (d : Nat) : Bool := decide (d < 64)
def grainOk (g : Nat) : Bool := decide (g < 2 ^ 31)
def burrowOk (b : Nat) : Bool := decide (b < 4096)
def tableOk (t : Nat) : Bool := decide (t < 4096)
def rankOk (r : Nat) : Bool := decide (r < 4096)

/-- A cell of a function image (Table 7.6). -/
def cellOk (sett cell : Nat) : Bool := decide (sett < 16 ∧ cell < 8)

/-- A request of a host: port, requester and device physical address. -/
def hostAccessOk (p rid dpa : Nat) : Bool := portOk p && decide (rid < 65536 ∧ dpa < 2 ^ 52)

/-- The fields of a message within their widths (Table 13.3). -/
def Msg.ok (m : Msg) : Bool :=
  decide (m.flags < 4 ∧ m.src < 4096 ∧ m.dst < 4096 ∧ m.tag < 2 ^ 32 ∧ m.order < 2 ^ 32 ∧ m.target < 2 ^ 64 ∧ m.key < 2 ^ 64 ∧
    m.ctx < 2 ^ 32 ∧ m.status < 256 ∧ m.atomicOp < 256 ∧ m.view < 2 ^ 32 ∧ m.payload.length ≤ 16896)

/-- A message on a port. -/
def messageOk (p : Nat) (m : Msg) : Bool := portOk p && m.ok

/-- A unit that self-test can find failing (Table 16.2). -/
def TestFailure.ok : TestFailure → Bool
  | .sett den phys => decide (den < 8 ∧ phys < 18)
  | .sram unit | .logic unit | .analogue unit => decide (unit < 65536)
  | .hbmStack stack => decide (stack < 12)
  | .ddrChannel ch => decide (ch < 16)
  | .lanePair port pair => portOk port && decide (pair < 17)
  | .nandChannel ch => decide (ch < 32)
  | .nandDie badger die => badgerOk badger && dieOk die
  | .boot image => decide (1 ≤ image ∧ image ≤ 5)

/-! ### Well-formed commands -/

/-- Operands within the block's numbering. -/
def Instr.wellFormed : Instr → Bool
  | .nop _ | .fence _ | .snapshotPin _ | .snapshotRelease _ | .search .. | .searchBatch .. | .insert .. | .delete .. | .upsert ..
  | .burrowCreate .. | .burrowFreeze _ | .burrowThaw _ | .burrowDrop _ | .mergePartial .. | .tensorCreate .. | .tensorRelease _
  | .tensorMove _ | .tensorGet .. | .tensorPut .. | .trailPost .. | .embGather .. | .embUpdate .. | .embStepEnd _ | .tableLoad ..
  | .tableSwitch _ | .kernelLoad .. | .kernelUnload _ | .kernelRun _ | .topk .. | .faultResumeRetry _ | .faultResumeAbort _
  | .mirrorSync .. | .descriptorComplete _ | .appendResume _ | .pqEncodeRun _ | .runComplete .. | .iterationEnd _ | .walkStart ..
  | .rerankStart .. | .topkSelect .. | .trailMoveStart .. => true
  | .sqTailWrite port ring size value _ | .cqHeadWrite port ring size value =>
    portOk port && ringOk ring && decide ((size = 1 ∨ size = 2 ∨ size = 4 ∨ size = 8) ∧ value < 2 ^ 64)
  | .admission ring | .headShadowWrite ring | .ringError ring _ | .ringDrainEnd ring | .ringRead _ ring | .ringConfigure _ ring
  | .ringEnable _ ring | .ringDisable _ ring => ringOk ring
  | .contextFree ctx | .pinExpire ctx | .ctxRead _ ctx | .ctxCreate _ ctx | .ctxModify _ ctx | .ctxDrain _ ctx => ctxOk ctx
  | .mgmtSemWrite .. | .semLeaseExpire | .mgmtLinkDown _ | .glbReset .. | .mgmtPortClassWrite .. | .timeCtlWrite .. | .slotCommit ..
  | .slotMapSwitch | .wlMigrateCmd .. | .mbrInit _ | .copyMeasurements _ | .hltLbCmd .. | .hltRepairClr .. | .errHeadWrite ..
  | .hbmSpareWrite .. | .shutdown _ | .dbgScanReq .. | .heldCommandStart _ => true
  | .registerWrite port (.register offset) size _ _ => port.ok && decide (offset < 2 ^ 26 ∧ (size = 1 ∨ size = 2 ∨ size = 4 ∨ size = 8))
  | .registerWrite port (.page ring offset) size _ _ =>
    port.ok && ringOk ring && decide (offset < 4096 ∧ (size = 1 ∨ size = 2 ∨ size = 4 ∨ size = 8))
  | .objectWindowSelect _ offset _ => decide (offset < 2 ^ 26)
  | .debugMemRead _ word => decide (word < 8)
  | .tenBind _ t | .tenModify _ t | .tenTeardown _ t | .teardownKeyDestroy t | .tenancyFreed t => tenOk t
  | .zeroFill region granule block => decide (region < 2 ∧ granule < 2 ^ 27 ∧ block < 512)
  | .extRead _ e | .extMap _ e | .extUnmap _ e | .drainEnd e => extOk e
  | .extGrant _ e h | .extRevoke _ e h | .leaseExpire e h => extOk e && hostOk h
  | .dirHostWrite _ h _ => hostOk h
  | .pageInDone e ⟨page, _⟩ | .pageWriteOut e page => extOk e && decide (page < 65536)
  | .xltFaultRingWrite _ t p _ _ => decide (t < 512) && portOk p
  | .faultRecordPost t p => decide (t < 512) && portOk p
  | .faultTimeout t p id => decide (t < 512 ∧ id < 65536) && portOk p
  | .fault _ addr _ _ level => decide (addr < 2 ^ 64 ∧ level < 4)
  | .wlReadRegion _ id | .wlExport _ id | .wlWithdraw _ id | .wlRekey _ id | .wlImport _ id | .wlUnbind _ id | .wlReadWindow _ id =>
    decide (id < 4096)
  | .mbrJoin _ rank | .suspectTimeout rank => rankOk rank
  | .ownTakeover rank serial => rankOk rank && decide (serial < 2 ^ 32)
  | .activateSvn _ image => decide (2 ≤ image ∧ image ≤ 5)
  | .nfCfgWrite _ b _ => badgerOk b
  | .sourceStable _ | .sourceEligible _ | .sourceFail _ | .sourceSwitchBack | .clkCoast | .coastRelock | .rtPpsEdge | .ppsMissing
  | .holdoverEntry | .slotBoundary | .frameBoundary | .spareTakeover => true
  | .leaseRead p rid dpa | .rdS p rid dpa | .rdA p rid dpa | .rdI p rid dpa | .evict p rid dpa | .memSpecRd p rid dpa
  | .birspi p rid dpa | .birsps p rid dpa | .birspe p rid dpa => hostAccessOk p rid dpa
  | .wrI p rid dpa _ data | .wrS p rid dpa _ data => hostAccessOk p rid dpa && decide (data.length ≤ 64)
  | .hbmRetire k | .hbmStackFail k => decide (k < 12)
  | .ddrChannelFail ch _ => decide (ch < 16)
  | .translationCompletion p pasid addr size _ _ | .atsInvalidate p pasid addr size =>
    portOk p && decide (pasid < 2 ^ 20 ∧ addr < 2 ^ 64 ∧ 4096 ≤ size)
  | .invalidationCompletion p | .atsDisable p => portOk p
  | .prgResponse p index _ => portOk p && decide (index < 512)
  | .beaverMergeStart b leaf | .tombstoneFold b leaf | .leafSwap b leaf | .leafVersionFree b leaf => burrowOk b && decide (leaf < 2 ^ 56)
  | .settFail den phys => decide (den < 8 ∧ phys < 18)
  | .nopOp _ s c | .loop _ s c | .sync _ s c | .halt _ s c | .ldm _ s c _ | .stm _ s c | .lds _ s c | .sts _ s c | .mcpy _ s c _
  | .mput _ s c | .amo _ s c | .dot _ s c | .popc _ s c | .aclr _ s c | .amov _ s c | .add _ s c | .sub _ s c | .mul _ s c | .fma _ s c
  | .max _ s c | .min _ s c | .cvt _ s c | .addi _ s c | .logic _ s c | .reduce _ s c | .send _ s c | .recv _ s c => cellOk s c
  | .l1WriteBack _ s _ => decide (s < 16)
  | .moveStart handle _ | .moveComplete handle .. | .trailReturn handle _ => decide (handle < 2 ^ 32)
  | .embPublish t | .tableSwitchApply t => tableOk t
  | .rowReplicate t row | .rowPromote t row | .rowDirectorySwitch t row => tableOk t && decide (row < 2 ^ 32)
  | .beacon p m | .load p m | .loadData p m | .store p m | .storeAck p m | .atomic p m | .atomicData p m | .segment p m | .segmentData p m
  | .heartbeat p m | .suspect p m | .propose p m | .vote p m | .commit p m | .stateCopy p m | .stateAck p m | .own p m | .fwdQuery p m
  | .partialList p m | .cancel p m | .embPend p m | .embMarker p m | .embCopy p m => messageOk p m
  | .segmentTimeout ctx region rank => decide (ctx < 2 ^ 32 ∧ region < 4096) && rankOk rank
  | .proposeTimeout | .viewInstall | .noQuorumExclude => true
  | .fportLinkDown p | .hportLinkDown p | .ideCheckFail p | .ideKeyProg p | .loopbackRequestRemote p => portOk p
  | .laneFail p pair => portOk p && decide (pair < 17)
  | .hportLaneFault p pair _ _ => portOk p && decide (pair < 16)
  | .portLinkUp p good _ _ => portOk p && good.all (fun i => decide (i < 17))
  | .bridgeCrcFail _ => true
  | .spdmRequest p _ => p.ok
  | .mctpMessage p _ | .pldmRequest p _ => p.ok
  | .tapInstruction _ => true
  | .configAccess p offset _ => portOk p && decide (offset < 4096)
  | .grainWrite b t g off _ data => badgerOk b && decide (t < 512) && grainOk g && decide (off + data.length ≤ 16384)
  | .programDone b g _ | .fold b g | .scrubRewrite b g => badgerOk b && grainOk g
  | .flashRead b g _ _ | .scrubRead b g _ _ => badgerOk b && grainOk g
  | .stripeParityWrite b _ _ | .wearLevel b _ | .slcResize b | .readOnlyEnter b | .readOnlyLeave b | .mapRebuild b | .checkpointLoad b
  | .mapReady b => badgerOk b
  | .garbageCollect b group => badgerOk b && decide (group < 4)
  | .bgOpSuspend b die | .bgOpResume b die | .dieTempRead b die _ | .blockRetire b die _ _ | .dieFail b die => badgerOk b && dieOk die
  | .perstNAssert | .warmReset | .mainRailFault | .mainRailRestore | .auxPowerLoss | .auxPowerOn | .devReadyRise => true
  | .perstNDeassert straps => decide (straps < 256)
  | .selfTest failures bankB _ => failures.all TestFailure.ok && decide (bankB < 16)
  | .thermWarn c | .thermEscalate c | .thermTrip c | .thermClear c => decide (c < 256)
  | .errorDetected cls source _ t _ _ _ _ _ => decide (cls < 4 ∧ source < 256) && (match t with | some n => decide (n < 512) | none => true)
  | .loopbackEnd compared _ => decide (compared < 256)

end Sys2Proof
end

