-- ==== Sys2Proof/Tests/Slice0.lean ====
section
/-!
SUPPORT. The model's own tests: an ill-formed term for each check of WellFormed, the worked examples the spec prints, and for each statement
of Sys2Proof/Certificates/Slice0/Obligations.lean with premises a state and operands that meet them, clause by clause.
-/

namespace Sys2Proof.Tests

open Sys2Proof Sys2Proof.Machine

set_option maxRecDepth 10000
set_option Elab.async false

/-! ### States and operands the tests start from -/

/-- A tenancy in a state and a mode. -/
def tenancy (state : Nat) (shared : Bool) : Tenancy := { Tenancy.fresh with state, shared, gen := 1 }
/-- A live register of a tenancy. -/
def lv (t off v : Nat) : Nat × Reg := (t * 2 ^ 26 + off, BitVec.ofNat 64 v)
/-- A port that carries traffic. -/
def linked : Port :=
  { up := true, width := 2, rate := 2, lanes := List.range 16, untrained := [], spareUsed := false, spareOk := false, ideSecure := false, ats := false
    farEnd := false }
/-- The block in service: MGMT_A holds the semaphore, PORT0 is an H-port and PORT1 an F-port, tenancy 3 is SHARED, 5 STRICT, 7 SEALED. -/
def base : State :=
  { State.reset with
    power := { Power.reset with auxOk := true, mainOk := true, devReady := true }
    time := { Time.reset with valid := true }
    sem := { Sem.reset with holder := 1 }
    test := { SelfTest.reset with running := false, done := true, bootDone := true }
    tenancies := [(3, tenancy 2 true), (5, tenancy 2 false), (7, tenancy 1 false)]
    owl := { Owl.reset with keys := [3, 5, 7], sealed := [(3, 1, false), (5, 1, false), (7, 1, false)] }
    mem := { Memories.reset with hbmUp := List.range 12, ddrUp := List.range 16 }
    ports := [(0, linked), (1, linked)]
    regs := [(0x0010020, 9)]
    live := [lv 3 0x0040120 (2 ^ 35), lv 3 0x0040130 (2 ^ 35), lv 5 0x0040120 (2 ^ 35 + 16), lv 5 0x0040130 (2 ^ 35 + 16)] }
/-- A descriptor: opcode, flags, context, three operands, and bytes from 32 on. -/
def desc (op flags ctx a b r : Nat) (rest : Bytes) : Bytes :=
  (toLe 1 op ++ toLe 1 flags ++ toLe 2 7 ++ toLe 4 ctx ++ toLe 8 a ++ toLe 8 b ++ toLe 8 r ++ rest ++ toLe 32 0).take 64
/-- An admitted work of tenancy 3 on ring 1 and PORT0. -/
def wk (id op ctx : Nat) (d : Bytes) : Work :=
  { id, desc := d, opcode := op, ring := 1, origin := none, ctx, tenancy := 3, port := 0, pasid := 9, xltRoot := 0, cls := 1
    credits := 1, frame := 0, snap := 0, snapLate := false, burrow := 0, verdict := none, unchecked := false, group := [], queries := [], items := [], routed := false
    outcomes := [], firstSeq := 0, lastSeq := 0, codes := none, stalled := false, result := none }
/-- Registers from an offset on that hold bytes. -/
def img (off : Nat) (b : Bytes) : Tab Reg :=
  (List.range ((b.length + 7) / 8)).map (fun k => (off + 8 * k, BitVec.ofNat 64 (fld b (8 * k) 8)))
/-- An ACTIVE context of tenancy 3 and PORT0. -/
def actx : Ctx := { Ctx.free with state := 1, tenancy := 3, port := 0, pasid := 9, pinFramesMax := 4 }
/-- An ENABLED ring of tenancy 3 and PORT0, with 64 entries in each queue. -/
def ring1 : Ring :=
  { Ring.fresh with state := .enabled, configured := true, sqBase := 2 ^ 20, cqBase := 2 ^ 21, headShadow := 2 ^ 22, pasid := 9
                    tenancy := 3, port := 0, sqLog2 := 6, cqLog2 := 6 }
/-- The block in service with a context 1, a ring 1 and works. -/
def busy (ws : List Work) : State := { base with ctxs := [(1, actx)], rings := [(1, ring1)], works := ws, nextWork := 100 }
/-- A source that runs. -/
def src0 : Source := { stable := true, eligible := true, failed := false }
/-- An empty message. -/
def msg0 : Msg := { flags := 0, src := 0, dst := 0, tag := 0, order := 0, target := 0, key := 0, ctx := 0, status := 0, atomicOp := 0, view := 0, reserved := 0, payload := [] }
/-- A RAW block of bytes (Table 9.8). -/
def rawBlk (b : Bytes) : Bytes :=
  (toLe 1 0xB7 ++ toLe 1 0 ++ toLe 2 0 ++ toLe 4 b.length ++ toLe 4 b.length ++ toLe 4 (crc32c b) ++ b ++ toLe 64 0).take (roundup (16 + b.length) 64)
/-- A gate that lets work go answers the state it goes on in. -/
theorem servedOf_ {s s' : State} {w cell t : Nat} {dies : List (Nat × Bool)} {ms : List (List Nat)}
    (h : (match s.passDies w cell t dies with | .go s1 => decide (s1.passAll w cell t ms = .go s') | .hold _ => false) = true) :
    servedBy s w cell t dies ms s' := by
  cases e : s.passDies w cell t dies <;> rw [e] at h
  · exact ⟨_, e, of_decide_eq_true h⟩
  · cases h
theorem settOf_ {s s' : State} {w den t : Nat}
    (h : (match s.rerankSett den t with
      | none => false
      | some k => match s.takeResident den t k with | .go s1 => decide (s' = s1.leaveUnits w settCell) | .hold _ => false) = true) :
    hasSett s w den t s' := by
  split at h
  · cases h
  · rename_i k e
    split at h
    · rename_i s1 f
      exact ⟨k, s1, e, f, of_decide_eq_true h⟩
    · cases h
theorem gateGo_ {g : RegionGate} (h : (match g with | .go _ => true | _ => false) = true) : ∃ s', g = .go s' := by
  cases g <;> first | exact ⟨_, rfl⟩ | cases h

/-! ### Ill-formed commands are refused: one for each check -/

theorem test_port_ill : (Instr.ideKeyProg 12).wellFormed = false ∧ (Instr.ideKeyProg 11).wellFormed = true := by decide
theorem test_ring_ill : (Instr.admission 65536).wellFormed = false ∧ (Instr.admission 65535).wellFormed = true := by decide
theorem test_ctx_ill : (Instr.contextFree 262144).wellFormed = false ∧ (Instr.contextFree 262143).wellFormed = true := by decide
theorem test_tenancy_ill : (Instr.tenancyFreed 0).wellFormed = false ∧ (Instr.tenBind .a 512).wellFormed = false := by decide
theorem test_extent_ill : (Instr.drainEnd 8192).wellFormed = false := by decide
theorem test_host_ill : (Instr.dirHostWrite .a 256 0).wellFormed = false ∧ (Instr.leaseExpire 0 256).wellFormed = false := by decide
theorem test_badger_ill : (Instr.mapReady 8).wellFormed = false := by decide
theorem test_die_ill : (Instr.dieFail 0 64).wellFormed = false := by decide
theorem test_grain_ill : (Instr.fold 0 (2 ^ 31)).wellFormed = false := by decide
theorem test_burrow_ill : (Instr.leafSwap 4096 0).wellFormed = false := by decide
theorem test_table_ill : (Instr.embPublish 4096).wellFormed = false := by decide
theorem test_rank_ill : (Instr.suspectTimeout 4096).wellFormed = false := by decide
theorem test_cell_ill : (Instr.halt 0 16 0).wellFormed = false ∧ (Instr.halt 0 0 8).wellFormed = false := by decide
theorem test_access_ill : (Instr.rdS 0 65536 0).wellFormed = false ∧ (Instr.rdS 0 0 (2 ^ 52)).wellFormed = false := by decide
theorem test_write_ill : (Instr.wrI 0 0 0 true (List.replicate 65 0)).wellFormed = false := by decide
theorem test_doorbell_ill : (Instr.sqTailWrite 0 0 3 0 []).wellFormed = false := by decide
theorem test_register_ill : (Instr.registerWrite (.mgmt .a) (.register 0) 3 none 0).wellFormed = false ∧
    (Instr.registerWrite (.mgmt .a) (.register (2 ^ 26)) 8 (some 0) 0).wellFormed = false ∧ (Instr.registerWrite (.port 0) (.page 0 4096) 4 none 0).wellFormed = false := by decide
theorem test_window_ill : (Instr.debugMemRead .a 8).wellFormed = false ∧ (Instr.objectWindowSelect .a (2 ^ 26) 0).wellFormed = false := by decide
theorem test_fill_ill : (Instr.zeroFill 2 0 0).wellFormed = false ∧ (Instr.zeroFill 0 0 512).wellFormed = false := by decide
theorem test_page_ill : (Instr.pageInDone 0 ⟨65536, true⟩).wellFormed = false := by decide
theorem test_fault_ill : (Instr.faultTimeout 0 0 65536).wellFormed = false ∧ (Instr.fault 0 (2 ^ 64) true .owner 0).wellFormed = false := by decide
theorem test_region_ill : (Instr.wlExport .a 4096).wellFormed = false := by decide
theorem test_serial_ill : (Instr.ownTakeover 0 (2 ^ 32)).wellFormed = false := by decide
theorem test_image_ill : (Instr.activateSvn .a 1).wellFormed = false ∧ (Instr.activateSvn .a 6).wellFormed = false := by decide
theorem test_stack_ill : (Instr.hbmRetire 12).wellFormed = false := by decide
theorem test_channel_ill : (Instr.ddrChannelFail 16 true).wellFormed = false := by decide
theorem test_pasid_ill : (Instr.atsInvalidate 0 (2 ^ 20) 0 4096).wellFormed = false := by decide
theorem test_prg_ill : (Instr.prgResponse 0 512 true).wellFormed = false := by decide
theorem test_sett_ill : (Instr.settFail 8 0).wellFormed = false ∧ (Instr.settFail 0 18).wellFormed = false := by decide
theorem test_pair_ill : (Instr.laneFail 0 17).wellFormed = false ∧ (Instr.hportLaneFault 0 16 true true).wellFormed = false := by decide
theorem test_training_ill : (Instr.portLinkUp 0 [17] true true).wellFormed = false := by decide
theorem test_handle_ill : (Instr.trailReturn (2 ^ 32) 0).wellFormed = false := by decide
theorem test_row_ill : (Instr.rowPromote 0 (2 ^ 32)).wellFormed = false := by decide
theorem test_line_ill : (Instr.l1WriteBack 0 16 0).wellFormed = false := by decide
theorem test_stream_ill : (Instr.segmentTimeout 0 4096 0).wellFormed = false := by decide
theorem test_message_ill : (Instr.load 0 { msg0 with src := 4096 }).wellFormed = false ∧ (Instr.load 0 msg0).wellFormed = true := by decide
theorem test_portRef_ill : (Instr.spdmRequest (.port 12) .getVersion).wellFormed = false := by decide
theorem test_config_ill : (Instr.configAccess 0 4096 none).wellFormed = false := by decide
theorem test_grainWrite_ill : (Instr.grainWrite 0 0 0 16384 0 [1]).wellFormed = false := by decide
theorem test_group_ill : (Instr.garbageCollect 0 4).wellFormed = false := by decide
theorem test_straps_ill : (Instr.perstNDeassert 256).wellFormed = false := by decide
theorem test_selfTest_ill : (Instr.selfTest [.hbmStack 12] 0 true).wellFormed = false ∧ (Instr.selfTest [.boot 6] 0 true).wellFormed = false := by decide
theorem test_sensor_ill : (Instr.thermWarn 256).wellFormed = false := by decide
theorem test_error_ill : (Instr.errorDetected 4 0 0 none 0 0 0 0 0).wellFormed = false := by decide
theorem test_loopback_ill : (Instr.loopbackEnd 256 0).wellFormed = false := by decide

/-! ### The commands come from a queue and have no encoding -/

theorem test_no_bits : decodeTableWord 64 0 = none := rfl
theorem test_withFetchWord (s : State) : s.withFetchWord 64 7 = s := rfl
theorem test_step_order :
    (match step { State.reset with pending := [.mapReady 9, .fence 3] } with | .next t => t.pending | _ => []) = [.fence 3] := by decide +kernel
theorem test_idle_ticks : step State.reset = .next (tick State.reset) := rfl
theorem test_reset_memory : Memory.wf State.reset.memory = true := by decide

/-! ### Worked examples of the spec -/

/-- 00_scope.md, the Rack Time stamp 0x0A3C5123: frame 10,481, slot 17. -/
theorem test_stamp : State.frame { State.reset with time := { Time.reset with now := 0x0A3C5123 } } = 10481 ∧
    State.slotIx { State.reset with time := { Time.reset with now := 0x0A3C5123 } } = 17 := by decide +kernel

/-- 04_burrow_index.md, Table 4.4: q = (1, 2), x = (3, −1): L2 scores −13, IP 1. -/
theorem test_exact_l2 : Burrow.exactScore { Burrow.free with vecFmt := 0, metric := 0, dim := 2 } [f32 0x3F800000, f32 0x40000000]
    (toLe 4 0x40400000 ++ toLe 4 0xBF800000) = 0xC1500000 := by decide +kernel
theorem test_exact_ip : Burrow.exactScore { Burrow.free with vecFmt := 0, metric := 1, dim := 2 } [f32 0x3F800000, f32 0x40000000]
    (toLe 4 0x40400000 ++ toLe 4 0xBF800000) = 0x3F800000 := by decide +kernel

/-- 08_embedding_tables.md, the Q4 row of table 3: (1.75, 1.75, 3.25, 5.25) gets scale 887/1,024 above 1 times 2^−3, offset 1.75 and codes
0, 0, 6, 15. -/
theorem test_requant : requant 3 4 [0x3FE00000, 0x3FE00000, 0x40500000, 0x40A80000] = slice (toLe 2 0x3377 ++ toLe 2 0x3F00 ++ [0x00, 0xF6]) 0 (rowStride 3 4) := by
  decide +kernel

/-- 09_tiers_squirrel.md, the CODED block of eight BF16 values: 1.0 four times, then 2.0 four times. -/
def coded : Bytes :=
  toLe 1 0xB7 ++ toLe 1 1 ++ toLe 1 3 ++ toLe 1 6 ++ toLe 4 16 ++ toLe 4 29 ++
    toLe 4 (crc32c [0x80, 0x3F, 0x80, 0x3F, 0x80, 0x3F, 0x80, 0x3F, 0x00, 0x40, 0x00, 0x40, 0x00, 0x40, 0x00, 0x40]) ++
    toLe 4 6 ++ toLe 4 6 ++ toLe 4 7 ++ toLe 4 0 ++ [0x80, 0, 0, 0, 0x3F, 0] ++ [0x41, 0x04, 0x00, 0x23, 0x01, 0x00, 0x00] ++ toLe 19 0
theorem test_coded : decodeBlock coded =
    .ok [0x80, 0x3F, 0x80, 0x3F, 0x80, 0x3F, 0x80, 0x3F, 0x00, 0x40, 0x00, 0x40, 0x00, 0x40, 0x00, 0x40] := by decide +kernel

/-- 13_wilfer_link.md: of consecutive ranks 3, 9, 17, 22 and 30, the watchers of 17 are 22 and 30, its partner is 22, and 9's is 17. -/
theorem test_watchers : watchers [3, 9, 17, 22, 30] 17 = [22, 30] ∧ nextMember [3, 9, 17, 22, 30] 17 = some 22 ∧
    nextMember [3, 9, 17, 22, 30] 9 = some 17 := by decide +kernel

/-- 13_wilfer_link.md: 39 of 40 members are quorum; exactly half needs the lowest-ranked member (R542). -/
theorem test_quorum : quorum (List.range 40) ((List.range 40).filter (· != 17)) = true ∧ quorum [3, 9] [3] = true ∧ quorum [3, 9] [9] = false := by
  decide +kernel

/-- 14_flash_media.md: at f = 0.5 the target is 5.889 % of the blocks, and 1 % at 0.9. -/
theorem test_slc_target : slcTargetOf 100000 872415232 1744830464 = 5889 ∧ slcTargetOf 100000 1570347418 1744830464 = 1000 := by decide +kernel

/-- 02_rack_time_clocks.md, Table 2.5: after 42, with 42 and 301 queued, 301 borrows slot 20; then 42 borrows, since 17 is STRICT. -/
def lending (last : Nat) : State :=
  { State.reset with
    tenancies := [(17, tenancy 2 false), (42, tenancy 2 true), (301, tenancy 2 true)]
    slots := { Slots.reset with lastBorrower := [(4, last)] } }
theorem test_lending : (lending 42).nextBorrower 4 [301] = some 301 ∧ (lending 301).nextBorrower 4 [17, 42, 301] = some 42 ∧
    (lending 42).nextBorrower 4 [17, 42, 301] = some 301 := by decide +kernel

/-- 18_package_signals.md R700: PERST_N low for 999 ns is no reset, low for 1 µs is one. -/
def lowFor (n : Nat) : State := { State.reset with power := { Power.reset with perstFor := some n } }
theorem test_pulse : (perstNAssertSt (lowFor 999)).power.perst = false ∧ (perstNAssertSt (lowFor 1000)).power.perst = true := by decide +kernel

/-- 03_rings_contexts.md, Table 3.16: MGMT_B's clear without the semaphore is an error; in the tie MGMT_B wins, and MGMT_A gets the error. -/
def tie : State := { State.reset with sem := { holder := 0, tieNext := 1, lease := 0 } }
theorem test_tie : (mgmtSemWriteSt .a 1 (some 2) 0 tie).sem.holder = 2 ∧ (mgmtSemWriteSt .a 1 (some 2) 0 tie).sem.tieNext = 0 ∧
    (mgmtSemWriteSt .a 1 (some 2) 0 tie).flag 0x0010000 8 = true ∧ (mgmtSemWriteSt .a 1 (some 2) 0 tie).flag 0x0010000 9 = false := by decide +kernel
theorem test_clear_error : (mgmtSemWriteSt .b 0x10 none 0 tie).flag 0x0010000 9 = true := by decide +kernel

/-- 16_self_test_health.md, Table 16.9: OVERFLOW is set as it is cleared; it stays 1, FLAG_RACE goes up, and the event is raised again. -/
def race : State := { base with regs := (0x0A20010, 1) :: (0x0A20018, 1) :: base.regs, counters := [(0x0A0FFF8, 6)] }
theorem test_race : (registerWriteSt (.mgmt .a) (.register 0x0A20010) 8 (some 1) 1 race).flag 0x0A20010 0 = true ∧
    tgetD (registerWriteSt (.mgmt .a) (.register 0x0A20010) 8 (some 1) 1 race).counters 0x0A0FFF8 0 = 7 ∧
    (registerWriteSt (.mgmt .a) (.register 0x0A20010) 8 (some 1) 1 race).out = [Output.event 0x0A20010 0] := by decide +kernel
theorem test_race_other : (registerWriteSt (.mgmt .b) (.register 0x0A20010) 8 (some 1) 0 race).flag 0x0A20010 0 = true ∧
    tgetD (registerWriteSt (.mgmt .b) (.register 0x0A20010) 8 (some 1) 0 race).counters 0x0A0FFF8 0 = 6 := by decide +kernel

/-- 17_setup_registers.md, Table 17.5: entries 0x8011, 0x802A and 0x812D name tenancies 17, 42 and 301. -/
theorem test_entries : namedTenancies [(0x0050200, 0x8011802A812D0000)] = [301, 42, 17] := by decide +kernel

/-- 07_sett_fabric.md, Table 7.11, word 8: DOT INT8 acc0, v4, [v2 + 0], stride 256. -/
theorem test_word_fields : wOp 0x41A01020C0000000 = 0x10 ∧ wFmt 0x41A01020C0000000 = 6 ∧ wDst 0x41A01020C0000000 = 32 ∧ wA 0x41A01020C0000000 = 4 ∧
    wB 0x41A01020C0000000 = 2 ∧ wC 0x41A01020C0000000 = 3 := by decide +kernel

/-- 12_translation.md, the mirrored fault: 0x8000_0000_4020_3040 is a device virtual address with walk indices 0, 1, 1 and 3. -/
theorem test_walk_indices : addrClass 0x8000000040203040 = 2 ∧ (List.range 4).map (fun l => bits 0x40203040 (47 - 9 * l) (39 - 9 * l)) = [0, 1, 1, 3] := by
  decide +kernel

/-- The check value of CRC-32C (R390) over the ASCII digits 1 to 9. -/
theorem test_crc : crc32c [0x31, 0x32, 0x33, 0x34, 0x35, 0x36, 0x37, 0x38, 0x39] = 0xE3069283 := by decide +kernel

/-! ### Premises of the statements about every step -/

theorem witness_StepRunsTheFrontCommand :
    ({ base with pending := [.mapReady 9, .fence 3] } : State).pending = .mapReady 9 :: [.fence 3] ∧ base.pending = [] := ⟨rfl, rfl⟩
theorem witness_EveryStepKeepsTheInvariant : base.inv ∧ step base = .next (tick base) :=
  ⟨⟨by decide +kernel, by decide +kernel, by decide +kernel, by decide +kernel⟩, rfl⟩
theorem witness_EveryStepTakesOneCommandFromTheQueue :
    ({ base with pending := [.mapReady 9, .fence 3] } : State).pending = .mapReady 9 :: [.fence 3] := rfl
theorem witness_RackTimeNeverMovesBackward :
    base.time.valid = true ∧ step base = .next (tick base) ∧ (tick base).time.valid = true :=
  ⟨by decide +kernel, rfl, by decide +kernel⟩


/-! ### The premises of the statements can be met -/

namespace W02

def bp : Bytes := toLe 8 1000 ++ toLe 8 5 ++ toLe 8 0 ++ toLe 4 0 ++ toLe 2 0 ++ toLe 1 3 ++ toLe 1 1 ++ toLe 4 0 ++ toLe 4 0 ++ toLe 4 0x7 ++ toLe 20 0
def inval : State := { base with time := Time.reset }
def pps (now good : Nat) : State := { base with regs := [(0x0010020, 9), (timeCtl, 2)], time := { base.time with now, ppsGoodRun := good, ppsBadRun := 2 } }
def clk (a : Option RefSource) (c : Clock → Clock) : State := { base with clock := c { Clock.reset with active := a, xo := src0, watch := src0, port6 := src0 } }
def slot (p : Option Commit) (sh : Nat) : State := { base with slots := { Slots.reset with pending := p, shadow := [(0x0050000, BitVec.ofNat 64 sh), (0x0050000 + 0x80*250, BitVec.ofNat 64 sh)] }, tenancies := [(3, { tenancy 2 false with newMode := some true, unmoded := true }), (5, tenancy 2 false)] }
def com (target : Nat) : Commit := { maps := [(0x0050000, 0x8003), (0x0050000 + 0x80*250, 0x8003)], target, modes := [(3, true)], slotDone := false, frameDone := false }
def atF (s : State) (f : Nat) : State := { s with time := { s.time with now := f * 2^14 } }
def slv (e : Nat) : State := { base with slots := { Slots.reset with live := [(0x0050000, BitVec.ofNat 64 e)] } }

def s15 : State := slv 0x8005
def s9 : State := pps 1500000000 0
def s10 : State := pps 1000001000 2
def s2 : State := clk (some .port0) id
def s3 : State := clk (some .watch) id
def s11 : State := atF (slot none 0x8003) 10
def s12 : State := atF (slot (some (com 12)) 0) 11
def s13 : State := atF (slot (some (com 12)) 0) 12
def s14 : State := atF (slot (some (com 12)) 0) 64
def s0 : State := {base with clock := Clock.reset}
def s6 : State := {inval with regs := [(0x0010020,9),(0x0020108, 777)]}
def s5 : State := {clk none (fun c => {c with coast := true}) with power := Power.reset}
def s1 : State := {base with clock := {Clock.reset with xo := src0}, power := Power.reset}
def s7 : State := {base with time := {base.time with now := 900}, regs := [(0x0010020,9),(0x0020108, 777)]}
def s4 : State := {clk (some .xo) (fun c => {c with xo := {src0 with failed := true}}) with power := Power.reset}
def s8 : State := {inval with regs := [(0x0010020,9),(timeCtl,0x100)], fabric := {Fabric.reset with members := [0]}}

/-- States and operands that meet the premises of `Obligations.ClockSources`, clause by clause. -/
theorem witness_ClockSources :
    ((fun (s : State) =>
      s.clock.active = none ∧ s.clock.coast = false) s0) ∧
    ((fun (src : RefSource) (s : State) =>
      (s.clock.src src).stable = true ∧ ((src = .port0 → (s.port 0).up = true)) ∧ ((src = .port6 → (s.port 6).up = true)) ∧ s.inService = false ∧ s.clock.coast = false) (.xo) s1) ∧
    ((fun (src : RefSource) (b : RefSource) (s : State) =>
      s.clock.active = some src ∧ s.inService = true ∧ ({ s with clock := s.clock.setSrc src { stable := false, eligible := false, failed := true } } : State).bestSource = some b) (.port0) (.port6) s2) ∧
    ((fun (src : RefSource) (b : RefSource) (s : State) =>
      s.clock.active = some src ∧ s.inService = true ∧ s.bestSource = some b ∧ sourceRank b < sourceRank src) (.watch) (.port6) s3) ∧
    ((fun (src : RefSource) (s : State) =>
      s.clock.active = some src ∧ (s.clock.src src).failed = true ∧ s.inService = false) (.xo) s4) ∧
    ((fun (b : RefSource) (s : State) =>
      s.clock.coast = true ∧ s.bestSource = some b) (.port6) s5) := by
  refine ⟨by decide +kernel, by decide +kernel, by decide +kernel, by decide +kernel, by decide +kernel, by decide +kernel⟩

/-- States and operands that meet the premises of `Obligations.RackTimeIsSet`, clause by clause. -/
theorem witness_RackTimeIsSet :
    ((fun (mp : MgmtPort) (value : Reg) (s : State) =>
      setUp s mp ∧ s.timeMaster = false ∧ value.getLsbD 0 = true ∧ s.time.valid = false) (.a) 1 s6) ∧
    ((fun (mp : MgmtPort) (value : Reg) (s : State) =>
      setUp s mp ∧ s.timeMaster = false ∧ value.getLsbD 0 = true ∧ s.time.valid = true ∧ (s.stored 0x0020108).toNat < s.time.now) (.a) 1 s7) ∧
    ((fun (mp : MgmtPort) (value : Reg) (s : State) =>
      setUp s mp ∧ value.getLsbD 0 = s.timeMaster) (.a) 0x100 base) ∧
    ((fun (port : Nat) (m : Msg) (s : State) =>
      accepts s port 0x10 m ∧ s.timeMaster = false ∧ s.time.valid = false ∧ bits (s.stored timeCtl).toNat 11 8 = port ∧ (s.port port).up = true ∧ s.meetsR538 m.payload = true ∧ fld m.payload 0x20 4 ≤ s.fabric.view ∧ offset2 m.payload s.time.now % 2 = 0) 1 ({msg0 with payload := bp}) s8) := by
  refine ⟨by decide +kernel, by decide +kernel, by decide +kernel, by decide +kernel⟩

/-- States and operands that meet the premises of `Obligations.PhaseAndHoldover`, clause by clause. -/
theorem witness_PhaseAndHoldover :
    ((fun (s : State) =>
      s.flag timeCtl 1 = true ∧ (secondOff s.time.now < -1000 ∨ 1000 < secondOff s.time.now)) s9) ∧
    ((fun (s : State) =>
      s.flag timeCtl 1 = true ∧ -1000 ≤ secondOff s.time.now ∧ secondOff s.time.now ≤ 1000 ∧ s.time.ppsSecond ≠ some (nearSecond s.time.now) ∧ s.time.valid = true ∧ s.timeMaster = false ∧ 2 ≤ s.time.ppsGoodRun) s10) ∧
    ((fun (s : State) =>
      s.flag timeCtl 1 = true ∧ s.time.ppsSecond = none ∧ lastSecond s.time.now ≠ 0 ∧ s.time.ppsBadRun = 2) s9) ∧
    ((fun (s : State) =>
      s.time.holdover = false ∧ s.timeMaster = false ∧ s.time.lastBeacon + 1000000000 ≤ s.time.now) s9) := by
  refine ⟨by decide +kernel, by decide +kernel, by decide +kernel, by decide +kernel⟩

/-- States and operands that meet the premises of `Obligations.SlotMapsCommitAndSwitch`, clause by clause. -/
theorem witness_SlotMapsCommitAndSwitch :
    ((fun (mp : MgmtPort) (value : Reg) (s : State) =>
      setUp s mp ∧ ((namedTenancies s.slots.shadow).all (fun t => t == 0 || (s.ten t).state == 2 || (s.ten t).state == 3) = true) ∧ (s.frame : Int) < extendFrame s.frame (value.toNat % 2 ^ 32)) (.a) 11 s11) ∧
    ((fun (mp : MgmtPort) (value : Reg) (s : State) =>
      setUp s mp ∧ ((namedTenancies s.slots.shadow).all (fun t => t == 0 || (s.ten t).state == 2 || (s.ten t).state == 3) = true) ∧ extendFrame s.frame (value.toNat % 2 ^ 32) ≤ (s.frame : Int)) (.a) 10 s11) ∧
    ((fun (mp : MgmtPort) (s : State) =>
      setUp s mp) (.a) s11) ∧
    ((fun (c : Commit) (s : State) =>
      s.slots.pending = some c ∧ c.slotDone = false ∧ c.frameDone = false ∧ s.frame < c.target) (com 12) s12) ∧
    ((fun (c : Commit) (s : State) =>
      s.slots.pending = some c ∧ c.slotDone = false ∧ c.frameDone = false ∧ c.target ≤ s.frame ∧ s.frame % 64 ≠ 0) (com 12) s13) ∧
    ((fun (c : Commit) (s : State) =>
      s.slots.pending = some c ∧ c.slotDone = false ∧ c.frameDone = false ∧ c.target ≤ s.frame ∧ s.frame % 64 = 0) (com 12) s14) := by
  refine ⟨by decide +kernel, by decide +kernel, by decide +kernel, by decide +kernel, by decide +kernel, by decide +kernel⟩

/-- States and operands that meet the premises of `Obligations.StrictPeriodsAreNeverLent`. -/
theorem witness_StrictPeriodsAreNeverLent :
    (fun (s : State) (m : Nat) =>
      s.lentTo m = none) s15 0 := by decide +kernel

end W02


namespace W03

def burrow0 : Burrow := Burrow.free
def hostPage (s : State) : State := { s with atc := [{ tenancy := 3, ats := true, port := 0, space := 9, page := 2^30, size := 4096, target := 2^30, read := true, write := true }], live := lv 3 0x0700000 2 :: s.live }
def bw (op : Nat) : Work := { wk 5 op 1 (desc op 0 1 0 0 0 []) with burrow := 2 }
def fb : Burrow := { burrow0 with state := 1, snapSeq := 44 }
def pin (c : Ctx) : Ctx := { c with pinned := true, pinFrame := 3, pinLife := 2 }
def wc (c : Ctx) (s : State) : State := { s with ctxs := [(1, c)] }
def wr (c : Ring) (s : State) : State := { s with rings := [(1, c)] }
def fr (n : Nat) (s : State) : State := { s with time := { s.time with now := n * 2^14 } }
def rq : WlReq := { tag := 1, rank := 0, port := 1, ctx := 1, region := 0, kind := 2, w := 5, cell := none, addr := 0, len := 8, offset := 0, flag := false, out := [], seg := none, data := none, key := 0, sent := true, born := 0 }
def credit (s : State) : State := { s with live := lv 3 0x0040108 (2^60-1) :: s.live }

def s6 : State := wc (actx) (busy [bw 3])
def s7 : State := wc (actx) (busy [bw 4])
def s9 : State := fr 5 (wc (pin actx) base)
def s5 : State := wc (pin actx) (busy [bw 3])
def s8 : State := wc (pin actx) (busy [bw 4])
def s0 : State := busy [wk 5 1 1 (desc 1 0 1 0 0 0 [])]
def s1 : State := busy [wk 5 2 1 (desc 2 0 1 0 0 0 [])]
def s13 : State := wr {ring1 with state := .error} (busy [])
def s11 : State := wr {ring1 with state := .enabled} (busy [])
def s12 : State := wr {ring1 with state := .disabled} (busy [])
def s14 : State := wr {ring1 with state := .draining} (busy [])
def s10 : State := wc (actx) ({busy [bw 3] with burrows := [(2, fb)]})
def v23 : Work := {wk 5 1 1 (desc 1 0 1 0 0 0 []) with result := none}
def s24 : State := busy [v23]
def s37 : State := {base with sem := {Sem.reset with holder := 1, lease := 5}}
def v2 : Work := wk 5 2 1 (desc 2 0 1 0 0 (2^30+8) (toLe 8 0 ++ toLe 8 0x77))
def s34 : State := {base with sem := {Sem.reset with holder := 0, tieNext := 0}}
def s35 : State := {base with sem := {Sem.reset with holder := 1, tieNext := 0}}
def s36 : State := {base with sem := {Sem.reset with holder := 2, tieNext := 0}}
def s16 : State := wr {ring1 with state := .enabled, shadowDue := true} (busy [])
def s21 : State := wr ({ring1 with fetched := [desc 1 0 1 0 0 0 ([])]}) (busy [])
def s4 : State := busy [wk 4 1 1 (desc 1 0 1 0 0 0 []),wk 5 2 1 (desc 2 0 1 0 0 0 [])]
def v25 : Work := {wk 5 1 1 (desc 1 0 1 0 0 0 []) with result := some (Result.done 3)}
def s22 : State := wr ({ring1 with fetched := [desc 1 0 1 0 0 0 ([])]}) (credit (busy []))
def s20 : State := wr ({ring1 with fetched := [desc 255 0 1 0 0 0 ([])]}) (credit (busy []))
def v19 : Result := { status := 17, flags := 0, count := 0, snap := 0, detail := 0, b24 := 0 }
def s27 : State := busy [v25]
def s3 : State := hostPage (busy [v2])
def s18 : State := wr ({ring1 with fetched := [desc 255 0 1 0 0 0 ([])], cqTail := 63}) (credit (busy []))
def s15 : State := wr {ring1 with state := .draining, headShadow := 0} s0
def s17 : State := {s22 with time := Time.reset}
def s29 : State := {wc (actx) (busy []) with regs := (0x0010020, 9) :: img 0x0040800 (ctxImage {actx with pasid := 12})}
def s28 : State := {wc (Ctx.free) (busy []) with regs := (0x0010020, 9) :: img 0x0040800 (ctxImage {actx with pasid := 12})}
def s33 : State := {s11 with regs := (0x0010020, 9) :: img 0x0080000 (ringImage ring1)}
def s32 : State := {s12 with regs := (0x0010020, 9) :: img 0x0080000 (ringImage ring1)}
def s31 : State := {wc ({actx with state := 2}) (busy []) with regs := (0x0010020, 9) :: img 0x0040800 (ctxImage {actx with pasid := 12})}
def s26 : State := {s27 with fabric := {Fabric.reset with requests := [rq]}}
def s30 : State := {wc (actx) s0 with regs := (0x0010020, 9) :: img 0x0040800 (ctxImage {actx with pasid := 12})}

/-- States and operands that meet the premises of `Obligations.NopFenceAndPins`, part 1. -/
theorem witness_NopFenceAndPins_1 :
    ((fun (w : Nat) (x : Work) (s : State) =>
      startable s w x 0x01) 5 (wk 5 1 1 (desc 1 0 1 0 0 0 [])) s0) ∧
    ((fun (w : Nat) (x : Work) (s : State) =>
      startable s w x 0x02 ∧ descRes x.desc = 0) 5 (wk 5 2 1 (desc 2 0 1 0 0 0 [])) s1) ∧
    ((fun (w : Nat) (x : Work) (s : State) =>
      startable s w x 0x02 ∧ descRes x.desc ≠ 0 ∧ addrClass (descRes x.desc) = 0 ∧ ((∀ p ∈ pagesOf (descRes x.desc) 8, s.pageGranted x p true = true)) ∧ sends s x.port) 5 v2 s3) ∧
    ((fun (w : Nat) (x : Work) (s : State) =>
      s.work w = some x ∧ x.opcode = 0x02 ∧ s.mayStart x = false) 5 (wk 5 2 1 (desc 2 0 1 0 0 0 [])) s4) ∧
    ((fun (w : Nat) (x : Work) (s : State) =>
      startable s w x 0x03 ∧ (s.ctx x.ctx).pinned = true) 5 (bw 3) s5) ∧
    ((fun (w : Nat) (x : Work) (s : State) =>
      startable s w x 0x03 ∧ (s.ctx x.ctx).pinned = false ∧ (s.burrow x.burrow).state ≠ 1 ∧ (s.burrow x.burrow).state ≠ 2) 5 (bw 3) s6) := by
  refine ⟨by decide +kernel, by decide +kernel, by decide +kernel, by decide +kernel, by decide +kernel, by decide +kernel⟩

/-- States and operands that meet the premises of `Obligations.NopFenceAndPins`, part 2. -/
theorem witness_NopFenceAndPins_2 :
    ((fun (w : Nat) (x : Work) (s : State) =>
      startable s w x 0x04 ∧ (s.ctx x.ctx).pinned = false) 5 (bw 4) s7) ∧
    ((fun (w : Nat) (x : Work) (s : State) =>
      startable s w x 0x04 ∧ (s.ctx x.ctx).pinned = true) 5 (bw 4) s8) ∧
    ((fun (c : Nat) (s : State) =>
      (s.ctx c).pinned = true ∧ (s.ctx c).pinFrame + (s.ctx c).pinLife ≤ s.frame) 1 s9) ∧
    ((fun (c : Nat) (s : State) =>
      s.frame < (s.ctx c).pinFrame + (s.ctx c).pinLife) 1 s5) := by
  refine ⟨by decide +kernel, by decide +kernel, by decide +kernel, by decide +kernel⟩

/-- States and operands that meet the premises of `Obligations.SnapshotPinTakesThePin`. -/
theorem witness_SnapshotPinTakesThePin :
    (fun (w : Nat) (x : Work) (s : State) =>
      startable s w x 0x03 ∧ (s.ctx x.ctx).pinned = false ∧ (((s.burrow x.burrow).state = 1 ∨ (s.burrow x.burrow).state = 2))) 5 (bw 3) s10 := by decide +kernel

/-- States and operands that meet the premises of `Obligations.DoorbellsErrorsAndShadows`, part 1. -/
theorem witness_DoorbellsErrorsAndShadows_1 :
    ((fun (port : Nat) (ring : Nat) (v : Nat) (s : State) =>
      doorbellOpen s port ring ∧ v < 2 ^ 32 ∧ (s.ring ring).state = .enabled ∧ v < 2 ^ (s.ring ring).sqLog2 ∧ v ≠ (s.ring ring).sqTail) 0 1 3 s11) ∧
    ((fun (port : Nat) (ring : Nat) (v : Nat) (s : State) =>
      doorbellOpen s port ring ∧ v < 2 ^ 32 ∧ (s.ring ring).state = .enabled ∧ v < 2 ^ (s.ring ring).cqLog2) 0 1 3 s11) ∧
    ((fun (port : Nat) (ring : Nat) (v : Nat) (s : State) =>
      doorbellOpen s port ring ∧ v < 2 ^ 32 ∧ ((s.ring ring).state = .enabled ∨ (s.ring ring).state = .draining) ∧ 2 ^ (s.ring ring).sqLog2 ≤ v ∧ v ≠ (s.ring ring).sqTail) 0 1 64 s11) ∧
    ((fun (port : Nat) (ring : Nat) (v : Nat) (s : State) =>
      doorbellOpen s port ring ∧ v < 2 ^ 32 ∧ ((s.ring ring).state = .enabled ∨ (s.ring ring).state = .draining) ∧ 2 ^ (s.ring ring).cqLog2 ≤ v ∧ v ≠ (s.ring ring).cqHead) 0 1 64 s11) ∧
    ((fun (port : Nat) (ring : Nat) (v : Nat) (s : State) =>
      doorbellOpen s port ring ∧ v < 2 ^ 32 ∧ (s.ring ring).state = .disabled) 0 1 3 s12) ∧
    ((fun (port : Nat) (ring : Nat) (v : Nat) (s : State) =>
      doorbellOpen s port ring ∧ v < 2 ^ 32 ∧ (s.ring ring).state = .disabled) 0 1 3 s12) := by
  refine ⟨by decide +kernel, by decide +kernel, by decide +kernel, by decide +kernel, by decide +kernel, by decide +kernel⟩

/-- States and operands that meet the premises of `Obligations.DoorbellsErrorsAndShadows`, part 2. -/
theorem witness_DoorbellsErrorsAndShadows_2 :
    ((fun (port : Nat) (ring : Nat) (v : Nat) (size : Nat) (s : State) =>
      doorbellOpen s port ring ∧ v < 2 ^ 32 ∧ size ≠ 4 ∧ s.power.devReady = true) 0 1 3 8 s11) ∧
    ((fun (port : Nat) (ring : Nat) (v : Nat) (size : Nat) (s : State) =>
      doorbellOpen s port ring ∧ v < 2 ^ 32 ∧ size ≠ 4 ∧ s.power.devReady = true) 0 1 3 8 s11) ∧
    ((fun (ring : Nat) (s : State) =>
      ((s.ring ring).state = .enabled ∨ (s.ring ring).state = .draining)) 1 s11) ∧
    ((fun (ring : Nat) (s : State) =>
      (s.ring ring).state = .error) 1 s13) ∧
    ((fun (ring : Nat) (s : State) =>
      (s.ring ring).state = .draining ∧ s.ringBusy ring = false) 1 s14) ∧
    ((fun (ring : Nat) (s : State) =>
      s.ringBusy ring = true) 1 s15) := by
  refine ⟨by decide +kernel, by decide +kernel, by decide +kernel, by decide +kernel, by decide +kernel, by decide +kernel⟩

/-- States and operands that meet the premises of `Obligations.DoorbellsErrorsAndShadows`, part 3. -/
theorem witness_DoorbellsErrorsAndShadows_3 :
    ((fun (ring : Nat) (s : State) =>
      (s.ring ring).shadowDue = true ∧ (s.ring ring).headShadow ≠ 0 ∧ (s.ring ring).shadowSlot ≠ s.time.now / 256 + 1 ∧ sends s (s.ring ring).port) 1 s16) ∧
    ((fun (ring : Nat) (s : State) =>
      (s.ring ring).headShadow = 0) 1 s15) := by
  refine ⟨by decide +kernel, by decide +kernel⟩

/-- States and operands that meet the premises of `Obligations.AdmissionOfTheHeadDescriptor`, clause by clause. -/
theorem witness_AdmissionOfTheHeadDescriptor :
    ((fun (ring : Nat) (d : Bytes) (rest : List Bytes) (s : State) =>
      (s.ring ring).fetched = d :: rest ∧ s.time.valid = false) 1 (desc 1 0 1 0 0 0 ([])) [] s17) ∧
    ((fun (ring : Nat) (d : Bytes) (rest : List Bytes) (s : State) (f : Result) =>
      (s.ring ring).fetched = d :: rest ∧ (s.ring ring).state = .enabled ∧ s.power.devReady = true ∧ s.time.valid = true ∧ s.admitFails (s.ring ring) d = some f ∧ (s.ring ring).cqFree = 0) 1 (desc 255 0 1 0 0 0 ([])) [] s18 v19) ∧
    ((fun (ring : Nat) (d : Bytes) (rest : List Bytes) (s : State) (f : Result) =>
      (s.ring ring).fetched = d :: rest ∧ (s.ring ring).state = .enabled ∧ s.power.devReady = true ∧ s.time.valid = true ∧ s.admitFails (s.ring ring) d = some f ∧ (s.ring ring).cqFree ≠ 0 ∧ sends s (s.ring ring).port) 1 (desc 255 0 1 0 0 0 ([])) [] s20 v19) ∧
    ((fun (ring : Nat) (d : Bytes) (rest : List Bytes) (s : State) =>
      (s.ring ring).fetched = d :: rest ∧ (s.ring ring).state = .enabled ∧ s.power.devReady = true ∧ s.time.valid = true ∧ s.admitFails (s.ring ring) d = none ∧ ((s.paced d = false ∨ s.affordable (s.ring ring) d = false ∨ s.creditTurn ring (s.ring ring) d = false))) 1 (desc 1 0 1 0 0 0 ([])) [] s21) ∧
    ((fun (ring : Nat) (d : Bytes) (rest : List Bytes) (s : State) =>
      (s.ring ring).fetched = d :: rest ∧ (s.ring ring).state = .enabled ∧ s.power.devReady = true ∧ s.time.valid = true ∧ s.admitFails (s.ring ring) d = none ∧ s.paced d = true ∧ s.affordable (s.ring ring) d = true ∧ s.creditTurn ring (s.ring ring) d = true) 1 (desc 1 0 1 0 0 0 ([])) [] s22) := by
  refine ⟨by decide +kernel, by decide +kernel, by decide +kernel, by decide +kernel, by decide +kernel⟩

/-- States and operands that meet the premises of `Obligations.DescriptorCompletes`, clause by clause. -/
theorem witness_DescriptorCompletes :
    ((fun (w : Nat) (x : Work) (s : State) =>
      s.work w = some x ∧ x.result = none) 5 v23 s24) ∧
    ((fun (w : Nat) (x : Work) (s : State) (r : Result) =>
      s.work w = some x ∧ x.result = some r ∧ s.allVisible w = false) 5 v25 s26 (Result.done 3)) ∧
    ((fun (w : Nat) (x : Work) (s : State) (r : Result) =>
      s.work w = some x ∧ x.result = some r ∧ s.allVisible w = true ∧ w < s.nextWork) 5 v25 s27 (Result.done 3)) := by
  refine ⟨by decide +kernel, by decide +kernel, by decide +kernel⟩

/-- States and operands that meet the premises of `Obligations.ContextAndRingStates`, part 1. -/
theorem witness_ContextAndRingStates_1 :
    ((fun (mp : MgmtPort) (c : Nat) (s : State) =>
      ready s mp .ctx ∧ c < 262144 ∧ (s.ctx c).state = 0 ∧ fld (s.image 0x0040800 32) 2 2 % 512 ≠ 0 ∧ s.bound (fld (s.image 0x0040800 32) 2 2 % 512) = true ∧ s.portClass (fld (s.image 0x0040800 32) 1 1) = 1) (.a) 1 s28) ∧
    ((fun (mp : MgmtPort) (c : Nat) (s : State) =>
      ready s mp .ctx ∧ (s.ctx c).state = 1) (.a) 1 s29) ∧
    ((fun (mp : MgmtPort) (c : Nat) (s : State) =>
      ready s mp .ctx ∧ (s.ctx c).state = 1 ∧ s.ctxBusy c = true) (.a) 1 s30) ∧
    ((fun (mp : MgmtPort) (c : Nat) (s : State) =>
      ready s mp .ctx ∧ (s.ctx c).state = 1 ∧ s.ctxBusy c = false) (.a) 1 s29) ∧
    ((fun (mp : MgmtPort) (c : Nat) (s : State) =>
      ready s mp .ctx ∧ (s.ctx c).state = 2 ∧ s.ctxBusy c = false) (.a) 1 s31) ∧
    ((fun (mp : MgmtPort) (c : Nat) (s : State) =>
      ready s mp .ctx ∧ (s.ctx c).state ≠ 1) (.a) 1 s28) := by
  refine ⟨by decide +kernel, by decide +kernel, by decide +kernel, by decide +kernel, by decide +kernel, by decide +kernel⟩

/-- States and operands that meet the premises of `Obligations.ContextAndRingStates`, part 2. -/
theorem witness_ContextAndRingStates_2 :
    ((fun (mp : MgmtPort) (c : Nat) (s : State) =>
      ready s mp .ctx ∧ (s.ctx c).state ≠ 1) (.a) 1 s28) ∧
    ((fun (mp : MgmtPort) (r : Nat) (s : State) =>
      ready s mp .ring ∧ r < 65536 ∧ (s.ring r).state = .disabled ∧ fld (s.image 0x0080000 8) 0x1C 2 ≠ 0 ∧ s.bound (fld (s.image 0x0080000 8) 0x1C 2) = true ∧ s.portClass (fld (s.image 0x0080000 8) 0x1E 1) = 1 ∧ ringImageOk (s.image 0x0080000 8) = true) (.a) 1 s32) ∧
    ((fun (mp : MgmtPort) (r : Nat) (s : State) =>
      ready s mp .ring ∧ (s.ring r).state = .disabled ∧ (s.ring r).sqBase ≠ 0 ∧ (s.ring r).cqBase ≠ 0) (.a) 1 s32) ∧
    ((fun (mp : MgmtPort) (r : Nat) (s : State) =>
      ready s mp .ring ∧ ((s.ring r).state = .enabled ∨ (s.ring r).state = .error)) (.a) 1 s33) ∧
    ((fun (mp : MgmtPort) (r : Nat) (s : State) =>
      ready s mp .ring ∧ (s.ring r).state ≠ .disabled ∧ r < 65536) (.a) 1 s33) ∧
    ((fun (mp : MgmtPort) (r : Nat) (s : State) =>
      ready s mp .ring ∧ (s.ring r).state ≠ .disabled ∧ r < 65536) (.a) 1 s33) := by
  refine ⟨by decide +kernel, by decide +kernel, by decide +kernel, by decide +kernel, by decide +kernel, by decide +kernel⟩

/-- States and operands that meet the premises of `Obligations.ContextAndRingStates`, part 3. -/
theorem witness_ContextAndRingStates_3 :
    (fun (mp : MgmtPort) (r : Nat) (s : State) =>
      ready s mp .ring ∧ ((s.ring r).state = .disabled ∨ (s.ring r).state = .draining)) (.a) 0 s28 := by decide +kernel

/-- States and operands that meet the premises of `Obligations.Semaphore`, part 1. -/
theorem witness_Semaphore_1 :
    ((fun (mp : MgmtPort) (value : Reg) (s : State) =>
      s.power.perst = false ∧ value.toNat &&& 0x310 = 0 ∧ bits value.toNat 1 0 = mpId mp ∧ (s.sem.holder = 0 ∨ s.sem.holder = mpId mp)) (.a) 1 s34) ∧
    ((fun (mp : MgmtPort) (value : Reg) (s : State) =>
      s.power.perst = false ∧ value.toNat &&& 0x310 = 0 ∧ bits value.toNat 1 0 = 0 ∧ s.sem.holder = mpId mp) (.a) 0 s35) ∧
    ((fun (value : Reg) (s : State) =>
      s.power.perst = false ∧ value.toNat &&& 0x310 = 0 ∧ bits value.toNat 1 0 = 0 ∧ s.sem.holder = 0) 0 s34) ∧
    ((fun (mp : MgmtPort) (value : Reg) (s : State) =>
      s.power.perst = false ∧ value.toNat &&& 0x310 = 0 ∧ bits value.toNat 1 0 ≠ 0 ∧ bits value.toNat 1 0 ≠ mpId mp) (.a) 2 s34) ∧
    ((fun (mp : MgmtPort) (value : Reg) (s : State) =>
      s.power.perst = false ∧ value.toNat &&& 0x310 = 0 ∧ s.sem.holder = mpId (otherMp mp)) (.a) 0 s36) ∧
    ((fun (s : State) =>
      s.sem.holder ≠ 0 ∧ s.sem.lease = 0) s35) := by
  refine ⟨by decide +kernel, by decide +kernel, by decide +kernel, by decide +kernel, by decide +kernel, by decide +kernel⟩

/-- States and operands that meet the premises of `Obligations.Semaphore`, part 2. -/
theorem witness_Semaphore_2 :
    ((fun (s : State) =>
      s.sem.lease ≠ 0) s37) ∧
    ((fun (mp : MgmtPort) (s : State) =>
      s.holdsSem mp = true) (.a) s35) ∧
    ((fun (mp : MgmtPort) (s : State) =>
      s.holdsSem mp = false) (.a) s34) ∧
    ((fun (v : Reg) (w : Reg) (s : State) =>
      s.power.perst = false ∧ s.sem.holder = 0 ∧ v.toNat &&& 0x310 = 0 ∧ w.toNat &&& 0x310 = 0 ∧ bits v.toNat 1 0 = 1 ∧ bits w.toNat 1 0 = 2) 1 2 s34) := by
  refine ⟨by decide +kernel, by decide +kernel, by decide +kernel, by decide +kernel⟩

end W03


namespace W04a

def bit1 (k : Nat) (kids : Nat) : BodyItem := { key := k, attr := k % 3, code := toLe 4 (k * 0x1234567), slot := 2^20 + k, tomb := false }
/-- The one leaf of burrow 2, at byte 0 of HBM. -/
def leaf0 : Leaf :=
  { Leaf.empty with
    root := true, items := [bit1 10 0, bit1 11 0, bit1 12 0], version := 1, stack := 0, mergeSeq := 1
    side := [{ addr := 65536, entries := [.insert (2^20 + 20) 2 20 1 (toLe 4 0xABCDEF), .tomb 0 1 3 11, .insert (2^20 + 21) 4 21 1 (toLe 4 0x1111)] }] }
/-- An L2 burrow of 8 FP16 dimensions with 4-bit codes, home den 0. -/
def bur : Burrow :=
  { Burrow.free with
    state := 1, vecFmt := 1, metric := 0, pqBits := 4, dim := 8, pqM := 8, tenancy := 3, maxNprobe := 4, fanoutMax := 4, root := 0, rootLeaf := true
    codebookAt := 131072, maxItems := 100, items := 4, leafMax := 2, sideMax := 64, nextSeq := 5, snapSeq := 4, slotBase := 2^20, slotCount := 2^20
    codebook := (List.range 128).map (fun i => 0x3F80 + i), leaves := [(0, leaf0)], slotNext := 30
    itemMap := [(10, 2^20+10, 0), (12, 2^20+12, 0), (20, 2^20+20, 0), (21, 2^20+21, 0)], hbmRes := 200000, ddrAt := ddrBase 0, ddrRes := 4800 }
/-- Words of 4 owner entries that give everything to tenancy 3. -/
def own4 : Nat := 0x8003800380038003
def fox (s : State) : State := { s with
  live := (0x0048000, 0x800300000000) :: lv 3 0x0040108 (2^60-1) :: lv 3 0x0040308 (2^20) :: lv 3 0x0040310 (2^20) ::
    ((List.range 4).map (fun k => (0x0440000 + 8*k, BitVec.ofNat 64 own4)) ++ (List.range 4).map (fun k => (0x0444000 + 8*k, BitVec.ofNat 64 own4)) ++
     (List.range 4).map (fun k => (0x0440000 + 128*48 + 8*k, BitVec.ofNat 64 own4)) ++ (List.range 4).map (fun k => (0x0444000 + 16*48 + 8*k, BitVec.ofNat 64 own4))) ++ s.live }
def hostA (s : State) : State := { s with atc := [{ tenancy := 3, ats := true, port := 0, space := 9, page := 2^30, size := 2^20, target := 2^30, read := true, write := true }], live := lv 3 0x0700000 2 :: s.live }
def withB (b : Burrow) (ws : List Work) : State := fox (hostA { busy ws with burrows := [(2, b)] })
def goOf (g : Gate) : State := match g with | .go s => s | .hold s => s
/-- The state in which a resident function of work 5 acts on a sett of den 0. -/
def settOf (s : State) : State := match s.rerankSett 0 3 with | some k => (goOf (s.takeResident 0 3 k)).leaveUnits 5 settCell | none => s
def es0 : List Entry := [⟨.ofInt 3 0, 5, 0⟩, ⟨.ofInt 3 0, 6, 1⟩, ⟨.ofInt 9 0, 5, 2⟩, ⟨fp32.decode 0x7FC00000, 8, 3⟩, ⟨.ofInt 2 0, noItem, 4⟩, ⟨.ofInt (-2) 0, 9, 5⟩]

def v29 : Origin := { port := 1, src := 4, tag := 7, shard := 0 }
def v4 : Work := {wk 5 22 1 (desc 22 0 1 0 0 0 (toLe 2 2)) with burrow := 2}
def v7 : Work := {wk 5 23 1 (desc 23 0 1 0 0 0 (toLe 2 2)) with burrow := 2}
def v10 : Work := {wk 5 24 1 (desc 24 0 1 0 0 0 (toLe 2 2)) with burrow := 2}
def v30 : List Nat := ((bur.query false (toLe 16 0x3C003C003C003C003C003C003C003C00)).getD [])
def v56 : Bytes := (List.replicate 16 0x3C ++ List.replicate 48 0 ++ List.replicate 64 0x3D)
def v18 : Result := { status := 18, flags := 0, count := 0, snap := 0, detail := 36, b24 := 0 }
def v21 : Result := { status := 16, flags := 0, count := 0, snap := 0, detail := 32, b24 := 0 }
def v55 : Bytes := ((toLe 8 31 ++ toLe 8 1 ++ toLe 16 0)++(toLe 8 12 ++ toLe 8 1 ++ toLe 16 0))
def v45 : Work := wk 5 0x19 1 (desc 0x19 0 1 (2^30) 0 (2^30 + 8192) (toLe 2 2 ++ toLe 2 2 ++ toLe 4 128))
def v49 : Work := wk 5 0x19 1 (desc 0x19 0 1 (2^30) 0 (2^30 + 8192) (toLe 2 2 ++ toLe 2 1 ++ toLe 4 128))
def s5 : State := withB {bur with state := 1} [v4]
def s6 : State := withB {bur with state := 0} [v4]
def s8 : State := withB {bur with state := 2} [v7]
def s9 : State := withB {bur with state := 0} [v7]
def s11 : State := withB {bur with state := 1} [v10]
def s12 : State := withB {bur with state := 3} [v10]
def s13 : State := withB {bur with state := 0} [v10]
def v26 : List Nat := [1065353216, 1065353216, 1065353216, 1065353216, 1065353216, 1065353216, 1065353216, 1065353216]
def v25 : List (List Nat) := [v26]
def v19 : Bytes := (toLe 16 0x3C003C003C003C003C003C003C003C00 ++ toLe 48 0 ++ toLe 16 0x40003C003C003C003C003C003C003C00)
def s47 : State := fox (hostA (busy [v45]))
def s51 : State := fox (hostA (busy [v49]))
def v54 : Work := {wk 5 18 1 (desc 18 0 1 (2^30) (2^30 + 4096) 0 (toLe 2 2 ++ toLe 2 2 ++ toLe 4 64)) with burrow := 2, items := [], routed := false, codes := none}
def v42 : Work := wk 5 0x42 1 (desc 0x42 0 1 (2^30) 0 (2^30 + 8192) (toLe 4 5 ++ toLe 2 3 ++ toLe 2 2 ++ toLe 1 0 ++ toLe 1 0 ++ toLe 2 0 ++ toLe 4 20 ++ toLe 8 1000))
def s48 : State := (goOf (s47.passUnit 5 topkCell 3 [denMap 0]))
def s52 : State := (goOf (s51.passUnit 5 topkCell 3 [denMap 0]))
def v23 : Query := ({Query.fresh 1 with stage := .walking, lead := some {walker := 0, ctx := 0, banks := [0]}, partner := some {walker := 48, ctx := 0, banks := [0]}} : Query)
def v53 : Instr := .insert 5 v55 v56
def s57 : State := withB (bur) [v54]
def v64 : Msg := {msg0 with src := 4, tag := 9*256+1, key := 5, target := 2*2^52, payload := desc 0x10 0x20 1 (2^30) 0 (2^30 + 8192) (toLe 2 2 ++ toLe 2 2 ++ toLe 2 1) ++ toLe 16 0x3C00}
def v66 : Msg := {msg0 with src := 4, tag := 9*256+1, key := 6, target := 2*2^52, payload := desc 0x10 0x20 1 (2^30) 0 (2^30 + 8192) (toLe 2 2 ++ toLe 2 2 ++ toLe 2 1) ++ toLe 16 0x3C00}
def s43 : State := fox (hostA (busy [v42]))
def s58 : State := {withB ({bur with leaves := [(0, leaf0)], merges := [], old := []}) ([]) with time := {base.time with now := 15616}, regs := (0x0401000, 0x0101010101010101) :: base.regs}
def s63 : State := {withB ({bur with leaves := [(0, leaf0)], merges := [], old := [(0, 5)]}) ([]) with time := {base.time with now := 15616}, regs := (0x0401000, 0x0101010101010101) :: base.regs}
def s67 : State := {withB bur [] with groups := [], regs := base.regs ++ [(groupKey 2 0x0402008, BitVec.ofNat 64 (3 + 2^24)), (groupKey 2 0x0402010, 5)], fabric := {Fabric.reset with members := [0,4,5] }}
def s59 : State := {withB ({bur with leaves := [(0, leaf0)], merges := [{leaf := 0, point := 3, frame := 0}], old := []}) ([]) with time := {base.time with now := 0}, regs := (0x0401000, 0x0101010101010101) :: base.regs}
def v0 : Work := {wk 5 0x15 1 (desc 0x15 0 1 (2^30) 0 0 (toLe 2 2 ++ toLe 2 8 ++ toLe 1 1 ++ toLe 1 0 ++ toLe 2 8 ++ toLe 1 4 ++ toLe 1 0 ++ toLe 2 4 ++ toLe 2 4 ++ toLe 2 0 ++ toLe 8 100 ++ toLe 4 64)) with burrow := 2}
def s65 : State := {withB bur [] with groups := [], regs := base.regs ++ [(groupKey 2 0x0402008, BitVec.ofNat 64 (3 + 2^24)), (groupKey 2 0x0402010, 5)], fabric := {Fabric.reset with members := [0,4,5] , excluded := true}}
def v70 : GroupSearch := ({w := 9, tagNo := 9, burrow := 2, key := 5, map := [], phase := 0, size := 3, selfRank := some 0, sentTo := [(0,0),(1,4),(2,5)], partials := [], message := desc 0x10 0 0 0 0 0 (toLe 2 2)} : GroupSearch)
def s60 : State := {withB ({bur with leaves := [(0, leaf0)], merges := [{leaf := 0, point := 3, frame := 0}], old := []}) ([]) with time := {base.time with now := 32000}, regs := (0x0401000, 0x0101010101010101) :: base.regs}
def v2 : Work := {wk 5 0x15 1 (desc 0x15 0 1 (2^30) 0 0 (toLe 2 2 ++ toLe 2 8 ++ toLe 1 1 ++ toLe 1 0 ++ toLe 2 8 ++ toLe 1 4 ++ toLe 1 0 ++ toLe 2 4 ++ toLe 2 4 ++ toLe 2 0 ++ toLe 8 (2^21) ++ toLe 4 64)) with burrow := 2}
def s44 : State := (goOf (s43.passUnit 5 topkCell 3 [denMap 0]))
def s1 : State := withB (bur) [v0]
def v68 : Msg := {msg0 with src := 4, tag := 9*256+1, key := 5, target := 2*2^52, payload := (toLe 1 0 ++ toLe 8 4 ++ toLe 4 2 ++ toLe 2 1 ++ toLe 49 0 ++ toLe 2 1 ++ toLe 1 1 ++ toLe 61 0 ++ toLe 8 77 ++ toLe 4 0x3F800000 ++ toLe 4 1)}
def v14 : Work := {wk 5 16 1 (desc 16 0 1 (2^30) 0 (2^30 + 8192) (toLe 2 2 ++ toLe 2 2 ++ toLe 2 1 ++ toLe 2 0 ++ toLe 1 0 ++ toLe 1 0 ++ toLe 2 1 ++ toLe 4 0 ++ toLe 8 0 ++ toLe 8 0)) with burrow := 2, snap := 4, queries := [(Query.fresh 1)]}
def v46 : Bytes := ((toLe 2 2 ++ toLe 1 0 ++ toLe 61 3 ++ toLe 8 77 ++ toLe 4 0x3F800000 ++ toLe 4 1 ++ toLe 8 78 ++ toLe 4 0x3F000000 ++ toLe 4 1 ++ toLe 32 0) ++ (toLe 2 1 ++ toLe 1 1 ++ toLe 61 0 ++ toLe 8 77 ++ toLe 4 0x3F800000 ++ toLe 4 1))
def v50 : Bytes := ((toLe 2 2 ++ toLe 1 0 ++ toLe 61 0 ++ toLe 8 77 ++ toLe 4 0x3F800000 ++ toLe 4 1 ++ toLe 8 78 ++ toLe 4 0x3F000000 ++ toLe 4 1 ++ toLe 32 0) ++ (toLe 2 1 ++ toLe 1 1 ++ toLe 61 0 ++ toLe 8 77 ++ toLe 4 0x3F800000 ++ toLe 4 1))
def s3 : State := withB (Burrow.free) [v2]
def s61 : State := {withB ({bur with leaves := [(0, {leaf0 with side := [{ addr := 65536, entries := [.tomb 0 1 3 11] }]})], merges := [], old := []}) ([]) with time := {base.time with now := 15616}, regs := (0x0401000, 0x0101010101010101) :: base.regs}
def v16 : Work := {wk 5 16 1 (desc 16 0 1 (2^30) 0 (2^30 + 8192) (toLe 2 2 ++ toLe 2 2 ++ toLe 2 9 ++ toLe 2 0 ++ toLe 1 0 ++ toLe 1 0 ++ toLe 2 1 ++ toLe 4 0 ++ toLe 8 0 ++ toLe 8 0)) with burrow := 2, snap := 4, unchecked := true, queries := [Query.fresh 1]}
def s62 : State := {withB ({bur with leaves := [(0, leaf0)], merges := [], old := [(0, 5)]}) ([{wk 4 0x10 1 [] with burrow := 2, snap := 3, queries := [Query.fresh 1]}]) with time := {base.time with now := 0}, regs := (0x0401000, 0x0101010101010101) :: base.regs}
def s17 : State := withB (bur) [v16]
def s20 : State := withB ({bur with state := 0}) [v14]
def v32 : Query := ({Query.fresh 1 with stage := .scanned, vec := List.replicate 8 0x3F800000, cands := [{score := 0xC0000000, key := 12, slot := 2^20+12, pos := 2},{score := 0xC0400000, key := 10, slot := 2^20+10, pos := 0},{score := 0xC0500000, key := 20, slot := 2^20+20, pos := 8192}], passed := 3} : Query)
def v22 : Work := {wk 5 16 1 (desc 16 0 1 (2^30) 0 (2^30 + 8192) (toLe 2 2 ++ toLe 2 2 ++ toLe 2 1 ++ toLe 2 0 ++ toLe 1 0 ++ toLe 1 0 ++ toLe 2 1 ++ toLe 4 0 ++ toLe 8 0 ++ toLe 8 0)) with burrow := 2, snap := 4, queries := [v23]}
def s24 : State := withB (bur) [v22]
def s69 : State := {withB bur [] with groups := [v70], regs := base.regs ++ [(groupKey 2 0x0402008, BitVec.ofNat 64 (3 + 2^24)), (groupKey 2 0x0402010, 5)], fabric := {Fabric.reset with members := [0,4,5] }}
def s15 : State := { withB (bur) [v14] with live := [(0x0440000, BitVec.ofNat 64 own4), (0x0444000, BitVec.ofNat 64 own4), (0x0440000 + 128*48, BitVec.ofNat 64 own4), (0x0444000 + 16*48, BitVec.ofNat 64 own4)] }
def v27 : Work := {wk 5 0x10 1 (desc 16 0 1 (2^30) 0 (2^30 + 8192) (toLe 2 2 ++ toLe 2 2 ++ toLe 2 1 ++ toLe 2 0 ++ toLe 1 0 ++ toLe 1 0 ++ toLe 2 1 ++ toLe 4 0 ++ toLe 8 0 ++ toLe 8 0) ++ toLe 16 0x3C003C003C003C003C003C003C003C00) with burrow := 2, snap := 4, queries := [v23], origin := some {port := 1, src := 4, tag := 7, shard := 0}}
def s28 : State := withB bur [v27]
def v31 : Work := {wk 5 16 1 (desc 16 0 1 (2^30) 0 (2^30 + 8192) (toLe 2 2 ++ toLe 2 2 ++ toLe 2 1 ++ toLe 2 3 ++ toLe 1 0 ++ toLe 1 0 ++ toLe 2 1 ++ toLe 4 0 ++ toLe 8 0 ++ toLe 8 0)) with burrow := 2, snap := 4, queries := [v32]}
def v36 : Work := {wk 5 16 1 (desc 16 0 1 (2^30) 0 (2^30 + 8192) (toLe 2 2 ++ toLe 2 2 ++ toLe 2 1 ++ toLe 2 0 ++ toLe 1 0 ++ toLe 1 0 ++ toLe 2 1 ++ toLe 4 0 ++ toLe 8 0 ++ toLe 8 0)) with burrow := 2, snap := 4, queries := [v32]}
def v39 : Work := {wk 5 17 1 (desc 17 0 1 (2^30) 0 (2^30 + 8192) (toLe 2 2 ++ toLe 2 2 ++ toLe 2 1 ++ toLe 2 0 ++ toLe 1 0 ++ toLe 1 0 ++ toLe 2 1 ++ toLe 4 0 ++ toLe 8 0 ++ toLe 8 0)) with burrow := 2, snap := 4, queries := [v32]}
def s33 : State := withB {bur with fullStore := 1, vectors := [(2^20+12, toLe 16 0x3C003C003C003C003C003C003C003C00),(2^20+10,toLe 16 5)]} [v31]
def s37 : State := withB {bur with fullStore := 1, vectors := [(2^20+12, toLe 16 0x3C003C003C003C003C003C003C003C00),(2^20+10,toLe 16 5)]} [v36]
def s40 : State := withB {bur with fullStore := 1, vectors := [(2^20+12, toLe 16 0x3C003C003C003C003C003C003C003C00),(2^20+10,toLe 16 5)]} [v39]
def s34 : State := (settOf s33)
def s38 : State := (goOf (s37.passUnit 5 (topkCell + 1 + 0) 3 [denMap 0]))
def s41 : State := (goOf (s40.passUnit 5 (topkCell + 1 + 0) 3 [denMap 0]))
def s35 : State := (goOf ((goOf (s34.passDies 5 (queryCell 0) 3 (s34.readDies (s34.missGrains (s34.burrow 2) 2 (v32.cands.map (·.slot)))))).passAll 5 (queryCell 0) 3 (s34.vectorUnits (s34.burrow 2) 2 (v32.cands.map (·.slot)))))

/-- A BURROW_CREATE with an 8-bit codebook of 8 dimensions. -/
def w0 : Work := {wk 5 0x15 1 (desc 0x15 0 1 (2^30) 0 0 (toLe 2 2 ++ toLe 2 8 ++ toLe 1 1 ++ toLe 1 0 ++ toLe 2 8 ++ toLe 1 8 ++ toLe 1 0 ++ toLe 2 4 ++ toLe 2 4 ++ toLe 2 0 ++ toLe 8 100 ++ toLe 4 64)) with burrow := 2}
/-- An image that fills a range. -/
def full (lo hi : Nat) : Image := { residentImage with addr := lo, bytes := hi - lo }
/-- Device memory with one place for each part of that burrow. -/
def t0 : State :=
  { withB Burrow.free [w0] with
    burrows := [(2, Burrow.free), (3, { Burrow.free with state := 1, tenancy := 5, homeDen := 4, slotBase := 2 ^ 20, slotCount := 2 ^ 36 - 2 ^ 20 })]
    images := [(77, full 4096 (2 ^ 23)), (78, full (2 ^ 23 + 1152) (2 ^ 24)), (79, full (ddrBase 0 + 4800) (ddrBase 0 + 2 ^ 24))] }

/-- A codebook. -/
def book0 : Bytes := List.replicate 4096 0x3F
/-- The states in which the parts of that burrow are placed one after another. -/
def t1 : State := t0.drawn.setBurrow 2 { t0.burrowFor w0 none with codebookAt := 0 }
def t2 : State := t1.drawn.setBurrow 2 { t1.drawn.burrow 2 with ddrAt := ddrBase 0, ddrRes := 48 * (t0.burrowFor w0 none).maxItems }
/-- The burrow is built there. -/
theorem t0_builds (book : Bytes) : (t0.buildBurrow w0 none book).isSome = true :=
  State.buildBurrow_isSome
    (State.placeBurrow_only (s1 := t1) (s2 := t2) (cb := 0) (dd := ddrBase 0) (sb := 0) rfl rfl
      (State.place_only (by decide +kernel) (by decide +kernel)) (State.place_only (by decide +kernel) (by decide +kernel))
      (by decide +kernel) (by decide +kernel) (by decide +kernel))
    (State.plantTree_isSome (State.placeLeaf_isSome (l := 0) (rest := [6, 1, 7, 2, 8, 3, 9, 4, 10, 5]) (by decide +kernel) (by decide +kernel)))

/-- States and operands that meet the premises of `Obligations.BurrowsAreCreatedFrozenAndDropped`, part 1. -/
theorem witness_BurrowsAreCreatedFrozenAndDropped_1 :
    ((fun (w : Nat) (x : Work) (s : State) =>
      startable s w x 0x15 ∧ (s.burrow x.burrow).state ≠ 0) 5 v0 s1) ∧
    ((fun (w : Nat) (x : Work) (skel : Bytes) (s : State) (s' : State) (off : Nat) =>
      startable s w x 0x15 ∧ (s.burrow x.burrow).state = 0 ∧ readable s x (s.createReads x skel) s' ∧ s'.createFails x (s'.readSkeleton x skel) = some off) 5 v2 [] s3 s3 48) ∧
    ((fun (w : Nat) (x : Work) (book : Bytes) (skel : Bytes) (s : State) (s' : State) (b : State) =>
      startable s w x 0x15 ∧ (s.burrow x.burrow).state = 0 ∧ readable s x (s.createReads x skel) s' ∧ s'.createFails x (s'.readSkeleton x skel) = none ∧ s'.buildBurrow x (s'.readSkeleton x skel) (s'.readAt x (descOp0 x.desc) (bookLength x.desc) book) = some b) 5 w0 book0 [] t0 t0 ((t0.buildBurrow w0 (t0.readSkeleton w0 []) (t0.readAt w0 (descOp0 w0.desc) (bookLength w0.desc) book0)).getD t0)) ∧
    ((fun (w : Nat) (x : Work) (s : State) =>
      startable s w x 0x16 ∧ (s.burrow x.burrow).state = 1) 5 v4 s5) ∧
    ((fun (w : Nat) (x : Work) (s : State) =>
      startable s w x 0x16 ∧ (s.burrow x.burrow).state ≠ 1) 5 v4 s6) ∧
    ((fun (w : Nat) (x : Work) (s : State) =>
      startable s w x 0x17 ∧ (s.burrow x.burrow).state = 2) 5 v7 s8) := by
  refine ⟨by decide +kernel, by decide +kernel, ⟨by decide +kernel, by decide +kernel, by decide +kernel, by decide +kernel, getD_of_isSome t0 (by rw [show t0.readSkeleton w0 [] = none from by decide +kernel]; exact t0_builds _)⟩, by decide +kernel, by decide +kernel, by decide +kernel⟩

/-- States and operands that meet the premises of `Obligations.BurrowsAreCreatedFrozenAndDropped`, part 2. -/
theorem witness_BurrowsAreCreatedFrozenAndDropped_2 :
    ((fun (w : Nat) (x : Work) (s : State) =>
      startable s w x 0x17 ∧ (s.burrow x.burrow).state ≠ 2) 5 v7 s9) ∧
    ((fun (w : Nat) (x : Work) (s : State) =>
      startable s w x 0x18 ∧ ((s.burrow x.burrow).state = 1 ∨ (s.burrow x.burrow).state = 2)) 5 v10 s11) ∧
    ((fun (w : Nat) (x : Work) (s : State) =>
      startable s w x 0x18 ∧ (s.burrow x.burrow).state = 3 ∧ (s.burrow x.burrow).ranges.any (s.filling (s.burrow x.burrow).tenancy) = false) 5 v10 s12) ∧
    ((fun (w : Nat) (x : Work) (s : State) =>
      startable s w x 0x18 ∧ (s.burrow x.burrow).state = 0) 5 v10 s13) := by
  refine ⟨by decide +kernel, by decide +kernel, by decide +kernel, by decide +kernel⟩

/-- States and operands that meet the premises of `Obligations.QueriesWalkAndScan`, clause by clause. -/
theorem witness_QueriesWalkAndScan :
    ((fun (w : Nat) (i : Nat) (x : Work) (q : Query) (s : State) (l : Walk) (p : Walk) =>
      running s w x ∧ isSearch x.opcode = true ∧ x.queries[i]? = some q ∧ q.stage = .waiting ∧ ((x.queries.take i).all (fun p => p.stage != .waiting) = true) ∧ ((s.works.takeWhile (fun y => y.id != w)).all (fun y => !(y.tenancy == x.tenancy && y.waits && s.mayStart y && y.verdict.isNone)) = true) ∧ (((s.burrow x.burrow).state = 1 ∨ (s.burrow x.burrow).state = 2)) ∧ s.pickWalk x.tenancy ((s.burrow x.burrow).homeDen / 4) (s.burrow x.burrow).banks = some l ∧ s.pickWalk x.tenancy (1 - (s.burrow x.burrow).homeDen / 4) (s.burrow x.burrow).banks = some p) 5 0 v14 ((Query.fresh 1)) s15 ({ walker := 0, ctx := 0, banks := [0] }) ({ walker := 48, ctx := 0, banks := [0] })) ∧
    ((fun (w : Nat) (op : Nat) (x : Work) (s : State) (r : Result) =>
      startable s w x op ∧ ((op = 0x10 ∧ x.origin = none ∧ schGroup x.desc = false) ∨ op = 0x11) ∧ s.searchLate (s.burrow x.burrow) x = some r) 5 16 v16 s17 v18) ∧
    ((fun (w : Nat) (op : Nat) (x : Work) (qs : Bytes) (sv : Bytes) (s : State) (s' : State) (r : Result) =>
      let b := s'.burrow x.burrow
      let sets := setValues x.desc (s'.readAt x (descOp1 x.desc) (8 * schSets x.desc) sv)
      startable s w x op ∧ ((op = 0x10 ∧ x.origin = none ∧ schGroup x.desc = false) ∨ op = 0x11) ∧ s.searchLate (s.burrow x.burrow) x = none ∧ readable s x ((s.burrow x.burrow).searchReads x.desc) s' ∧ s'.searchFails b x (s'.searchVecs b x qs) sets = some r) 5 16 v14 v19 ((toLe 8 1)) s20 s20 v21) ∧
    ((fun (w : Nat) (op : Nat) (i : Nat) (x : Work) (qs : Bytes) (sv : Bytes) (q : Query) (s : State) (s' : State) (vecs : List (List Nat)) (v : List Nat) =>
      let b := s'.burrow x.burrow
      let sets := setValues x.desc (s'.readAt x (descOp1 x.desc) (8 * schSets x.desc) sv)
      startable s w x op ∧ ((op = 0x10 ∧ x.origin = none ∧ schGroup x.desc = false) ∨ op = 0x11) ∧ s.searchLate (s.burrow x.burrow) x = none ∧ readable s x ((s.burrow x.burrow).searchReads x.desc) s' ∧ s'.searchVecs b x qs = some vecs ∧ s'.searchFails b x (some vecs) sets = none ∧ vecs[i]? = some v ∧ x.queries[i]? = some q ∧ q.stage = .walking ∧ serving s' w x.tenancy (s'.queryUnits b x q v)) 5 16 0 v22 v19 ((toLe 8 1)) v23 s24 s24 v25 v26) ∧
    ((fun (w : Nat) (x : Work) (q : Query) (s : State) (o : Origin) (v : List Nat) =>
      let b := s.burrow x.burrow
      startable s w x 0x10 ∧ x.origin = some o ∧ x.queries = [q] ∧ q.stage = .walking ∧ serving s w x.tenancy (s.queryUnits b x q v) ∧ b.query (schFp32 x.desc) (slice (x.desc.drop 64) 0 (b.queryBytes x.desc)) = some v ∧ s.searchFails b x (some [v]) (setValues x.desc (x.desc.drop (64 + b.queryBytes x.desc))) = none) 5 v27 v23 s28 v29 v30) := by
  refine ⟨by decide +kernel, by decide +kernel, by decide +kernel, by decide +kernel, by decide +kernel⟩

/-- States and operands that meet the premises of `Obligations.RerankAndSelection`, clause by clause. -/
theorem witness_RerankAndSelection :
    ((fun (w : Nat) (i : Nat) (x : Work) (q : Query) (s : State) (s1 : State) (s' : State) =>
      let b := s.burrow x.burrow
      let slots := q.cands.map (·.slot)
      running s w x ∧ isSearch x.opcode = true ∧ x.queries[i]? = some q ∧ q.stage = .scanned ∧ schRerank x.desc ≠ 0 ∧ (s.turnOf x (fun y => s.reranks y b.homeDen) = true) ∧ hasSett s w b.homeDen x.tenancy s1 ∧ servedBy s1 w (queryCell i) x.tenancy (s1.readDies (s1.missGrains b x.burrow slots)) (s1.vectorUnits b x.burrow slots) s') 5 0 v31 v32 s33 s34 s35) ∧
    ((fun (w : Nat) (i : Nat) (x : Work) (q : Query) (s : State) (s1 : State) (s' : State) =>
      let b := s.burrow x.burrow
      running s w x ∧ isSearch x.opcode = true ∧ x.queries[i]? = some q ∧ x.origin = none ∧ schGroup x.desc = false ∧ q.ready x.desc = true ∧ (s.turnOf x (fun y => s.selects y b.homeDen) = true) ∧ s.passUnit w (topkCell + 1 + i) x.tenancy [denMap b.homeDen] = .go s1 ∧ letThrough s1 x (searchWrites x.desc) s' ∧ x.opcode = 0x10) 5 0 v36 v32 s37 s38 s38) ∧
    ((fun (w : Nat) (i : Nat) (x : Work) (q : Query) (s : State) (s1 : State) (s' : State) =>
      let b := s.burrow x.burrow
      running s w x ∧ isSearch x.opcode = true ∧ x.queries[i]? = some q ∧ x.origin = none ∧ schGroup x.desc = false ∧ q.ready x.desc = true ∧ (s.turnOf x (fun y => s.selects y b.homeDen) = true) ∧ s.passUnit w (topkCell + 1 + i) x.tenancy [denMap b.homeDen] = .go s1 ∧ letThrough s1 x (searchWrites x.desc) s' ∧ x.opcode = 0x11 ∧ addrClass (descRes x.desc) = 0 ∧ sends s x.port ∧ resultBlock x.desc (q.select x.desc).results ≠ [] ∧ clear x s') 5 0 v39 v32 s40 s41 s41) := by
  refine ⟨⟨by decide +kernel, by decide +kernel, by decide +kernel, by decide +kernel, by decide +kernel, by decide +kernel, settOf_ (by decide +kernel), servedOf_ (by decide +kernel)⟩, by decide +kernel, by decide +kernel⟩

/-- States and operands that meet the premises of `Obligations.TopkAndMergePartial`, clause by clause. -/
theorem witness_TopkAndMergePartial :
    ((fun (w : Nat) (den : Nat) (x : Work) (s : State) (s1 : State) (s' : State) =>
      let d := x.desc
      let len := fld d 32 4
      let k := fld d 36 2
      let rows := fld d 38 2
      let e := scoreBytes (fld d 40 1)
      let stride := fld d 44 4
      let step := roundup (8 + 8 * k) 64
      s.topDen x.tenancy x.port = some den ∧ (s.turnOf x (fun y => s.topWork y den) = true) ∧ s.passUnit w topkCell x.tenancy [denMap den] = .go s1 ∧ sends s x.port ∧ addrClass (descOp0 x.desc) = 0 ∧ addrClass (descOp1 x.desc) = 0 ∧ addrClass (descRes x.desc) = 0 ∧ startable s w x 0x42 ∧ (letThrough s1 x (((List.range rows).flatMap (fun r =>
        (descOp0 d + r * stride, len * e) :: (if descOp1 d = 0 then [] else [(descOp1 d + r * 8 * len, 8 * len)]))).map (fun a => (a.1, a.2, false)) ++
          (List.range rows).map (fun r => (descRes d + r * step, 8 + 8 * k, true))) s')) 5 0 v42 s43 s44 s44) ∧
    ((fun (w : Nat) (den : Nat) (x : Work) (lists : Bytes) (s : State) (s1 : State) (s' : State) =>
      let d := x.desc
      let n := fld d 32 2
      let stride := fld d 36 4
      let b := slice lists 0 (n * stride)
      let bad := (List.range n).any (fun i => decide (min 1024 ((stride - 64) / 16) < fld b (i * stride) 2) || !zeroRange b (i * stride + 3) 61)
      s.topDen x.tenancy x.port = some den ∧ (s.turnOf x (fun y => s.topWork y den) = true) ∧ s.passUnit w topkCell x.tenancy [denMap den] = .go s1 ∧ sends s x.port ∧ addrClass (descOp0 x.desc) = 0 ∧ addrClass (descOp1 x.desc) = 0 ∧ addrClass (descRes x.desc) = 0 ∧ startable s w x 0x19 ∧ letThrough s1 x [(descOp0 d, n * stride, false), (descRes d, (resultBlock d []).length, true)] s' ∧ bad = true) 5 0 v45 v46 s47 s48 s48) ∧
    ((fun (w : Nat) (den : Nat) (x : Work) (lists : Bytes) (s : State) (s1 : State) (s' : State) =>
      let d := x.desc
      let n := fld d 32 2
      let stride := fld d 36 4
      let b := slice lists 0 (n * stride)
      let bad := (List.range n).any (fun i => decide (min 1024 ((stride - 64) / 16) < fld b (i * stride) 2) || !zeroRange b (i * stride + 3) 61)
      s.topDen x.tenancy x.port = some den ∧ (s.turnOf x (fun y => s.topWork y den) = true) ∧ s.passUnit w topkCell x.tenancy [denMap den] = .go s1 ∧ sends s x.port ∧ addrClass (descOp0 x.desc) = 0 ∧ addrClass (descOp1 x.desc) = 0 ∧ addrClass (descRes x.desc) = 0 ∧ startable s w x 0x19 ∧ letThrough s1 x [(descOp0 d, n * stride, false), (descRes d, (resultBlock d []).length, true)] s' ∧ bad = false) 5 0 v49 v50 s51 s52 s52) := by
  refine ⟨by decide +kernel, by decide +kernel, by decide +kernel⟩

/-- States and operands that meet the premises of `Obligations.UpdatesTakeSequencesInOrder`. -/
theorem witness_UpdatesTakeSequencesInOrder :
    (fun (w : Nat) (op : Nat) (c : Instr) (x : Work) (a : Bytes) (b : Bytes) (s : State) =>
      startable s w x op ∧ (((op = 0x12 ∧ c = .insert w a b) ∨ (op = 0x13 ∧ c = .delete w a) ∨ (op = 0x14 ∧ c = .upsert w a b) ∨
      (isUpdate op = true ∧ c = .appendResume w)))) 5 18 v53 v54 v55 v56 s57 := by decide +kernel

/-- States and operands that meet the premises of `Obligations.BeaverMergesAndFrees`, clause by clause. -/
theorem witness_BeaverMergesAndFrees :
    ((fun (bi : Nat) (a : Nat) (s : State) =>
      let b := s.burrow bi
      b.current.contains a = true ∧ ((s.mergeNext bi a = true ∨ (tget s.burrows bi = some b ∧ s.mergeDue bi a = true ∧ (b.leaf a).foldable (s.mergePoint bi) = true ∧
        s.stackTurn (b.leaf a).stack b.tenancy = true ∧ ∀ d ∈ s.dueLeaves b.homeDen, d.2.2 ≠ a →
          dueBefore ((s.waitingLeaves bi).contains a, (b.leaf a).side.length, a) d = true)))) 2 0 s58) ∧
    ((fun (bi : Nat) (a : Nat) (s : State) (m : Merge) =>
      let b := s.burrow bi
      (b.merges.find? (fun m => m.leaf == a) = some m) ∧ s.frame ≤ m.frame) 2 0 s59 ({ leaf := 0, point := 3, frame := 0 })) ∧
    ((fun (bi : Nat) (a : Nat) (s : State) (m : Merge) =>
      let b := s.burrow bi
      (b.merges.find? (fun m => m.leaf == a) = some m) ∧ m.frame < s.frame) 2 0 s60 ({ leaf := 0, point := 3, frame := 0 })) ∧
    ((fun (bi : Nat) (a : Nat) (s : State) =>
      let b := s.burrow bi
      s.mergeDue bi a = true ∧ s.stackTurn (b.leaf a).stack b.tenancy = true ∧ ((b.leaf a).flat.all (fun e => e.2.isTomb || decide (s.mergePoint bi < e.2.seq)) = true) ∧ (((b.leaf a).hidden (s.mergePoint bi)).any (fun h => h.1 == 0) = true)) 2 0 s61) ∧
    ((fun (bi : Nat) (a : Nat) (s : State) (o : Nat × Nat) =>
      let b := s.burrow bi
      (b.old.find? (fun o => o.1 == a) = some o) ∧ s.walkedBefore bi o.2 = true) 2 0 s62 ((0, 5))) ∧
    ((fun (bi : Nat) (a : Nat) (s : State) (o : Nat × Nat) =>
      let b := s.burrow bi
      (b.old.find? (fun o => o.1 == a) = some o) ∧ s.walkedBefore bi o.2 = false ∧ s.stackTurn (stackOf a) b.tenancy = true) 2 0 s63 ((0, 5))) := by
  refine ⟨by decide +kernel, by decide +kernel, by decide +kernel, by decide +kernel, by decide +kernel, by decide +kernel⟩

/-- States and operands that meet the premises of `Obligations.FoldHoldsTheVisibleItems`. -/
theorem witness_FoldHoldsTheVisibleItems :
    (fun (l : Leaf) =>
      (l.flat.Pairwise (fun e f => e.2.seq < f.2.seq))) leaf0 := by decide +kernel

/-- States and operands that meet the premises of `Obligations.ForwardedQueriesAndPartials`, part 1. -/
theorem witness_ForwardedQueriesAndPartials_1 :
    ((fun (port : Nat) (m : Msg) (s : State) =>
      accepts s port 0x20 m ∧ s.fabric.excluded = true) 1 v64 s65) ∧
    ((fun (port : Nat) (m : Msg) (s : State) =>
      let bi := m.target / 2 ^ 52
      accepts s port 0x20 m ∧ s.fabric.excluded = false ∧ (m.key ≠ s.grpKey bi ∨ s.grpSize bi = 0)) 1 v66 s67) ∧
    ((fun (port : Nat) (m : Msg) (s : State) (ten : Nat) =>
      let bi := m.target / 2 ^ 52
      accepts s port 0x20 m ∧ s.fabric.excluded = false ∧ m.key = s.grpKey bi ∧ s.grpSize bi ≠ 0 ∧ s.idTenancy 0 bi = some ten ∧ s.fwdFails bi m.payload ten = none ∧ s.creditsUsed ten 1 < s.creditsOf ten 1) 1 v64 s67 3) ∧
    ((fun (port : Nat) (m : Msg) (s : State) =>
      let bi := m.target / 2 ^ 52
      let key := ((s.groups.find? (fun g => g.tagNo == m.tag / 256)).map (·.key)).getD (s.grpKey bi)
      accepts s port 0x21 m ∧ m.key ≠ key) 1 v66 s67) ∧
    ((fun (port : Nat) (m : Msg) (s : State) =>
      let bi := m.target / 2 ^ 52
      let key := ((s.groups.find? (fun g => g.tagNo == m.tag / 256)).map (·.key)).getD (s.grpKey bi)
      accepts s port 0x21 m ∧ m.key = key ∧ ((∀ g ∈ s.groups, g.tagNo = m.tag / 256 → tget g.sentTo (m.tag % 256) ≠ some m.src))) 1 v64 s67) ∧
    ((fun (port : Nat) (m : Msg) (s : State) (g : GroupSearch) =>
      accepts s port 0x21 m ∧ m.key = g.key ∧ (s.groups.find? (fun g => g.tagNo == m.tag / 256) = some g) ∧ s.group g.w = some g ∧ tget g.sentTo (m.tag % 256) = some m.src ∧ g.phase = 0 ∧ m.status = 0 ∧ fld m.payload 0 1 < 0x10 ∧ (g.partials.any (fun p => p.shard == m.tag % 256) = false) ∧ ((∃ r ∈ List.range g.size, r ≠ m.tag % 256 ∧ g.partials.any (fun p => p.shard == r) = false ∧ (tget g.sentTo r).isSome = true))) 1 v68 s69 v70) := by
  refine ⟨by decide +kernel, by decide +kernel, by decide +kernel, by decide +kernel, by decide +kernel, by decide +kernel⟩

/-- States and operands that meet the premises of `Obligations.ForwardedQueriesAndPartials`, part 2. -/
theorem witness_ForwardedQueriesAndPartials_2 :
    ((fun (port : Nat) (m : Msg) (s : State) =>
      let bi := m.target / 2 ^ 52
      accepts s port 0x22 m ∧ m.key ≠ s.grpKey bi) 1 v66 s67) ∧
    ((fun (port : Nat) (m : Msg) (s : State) =>
      let bi := m.target / 2 ^ 52
      accepts s port 0x22 m ∧ m.key = s.grpKey bi) 1 v64 s67) := by
  refine ⟨by decide +kernel, by decide +kernel⟩

end W04a


namespace W04b

def bit1 (k : Nat) (kids : Nat) : BodyItem := { key := k, attr := k % 3, code := toLe 4 (k * 0x1234567), slot := 2^20 + k, tomb := false }
/-- The one leaf of burrow 2, at byte 0 of HBM. -/
def leaf0 : Leaf :=
  { Leaf.empty with
    root := true, items := [bit1 10 0, bit1 11 0, bit1 12 0], version := 1, stack := 0, mergeSeq := 1
    side := [{ addr := 65536, entries := [.insert (2^20 + 20) 2 20 1 (toLe 4 0xABCDEF), .tomb 0 1 3 11, .insert (2^20 + 21) 4 21 1 (toLe 4 0x1111)] }] }
/-- An L2 burrow of 8 FP16 dimensions with 4-bit codes, home den 0. -/
def bur : Burrow :=
  { Burrow.free with
    state := 1, vecFmt := 1, metric := 0, pqBits := 4, dim := 8, pqM := 8, tenancy := 3, maxNprobe := 4, fanoutMax := 4, root := 0, rootLeaf := true
    codebookAt := 131072, maxItems := 100, items := 4, leafMax := 2, sideMax := 64, nextSeq := 5, snapSeq := 4, slotBase := 2^20, slotCount := 2^20
    codebook := (List.range 128).map (fun i => 0x3F80 + i), leaves := [(0, leaf0)], slotNext := 30
    itemMap := [(10, 2^20+10, 0), (12, 2^20+12, 0), (20, 2^20+20, 0), (21, 2^20+21, 0)], hbmRes := 200000, ddrAt := ddrBase 0, ddrRes := 4800 }
/-- Words of 4 owner entries that give everything to tenancy 3. -/
def own4 : Nat := 0x8003800380038003
def fox (s : State) : State := { s with
  live := (0x0048000, 0x800300000000) :: lv 3 0x0040108 (2^60-1) :: lv 3 0x0040110 (2^64-1) :: lv 3 0x0040308 (2^20) :: lv 3 0x0040310 (2^20) ::
    ((List.range 4).map (fun k => (0x0440000 + 8*k, BitVec.ofNat 64 own4)) ++ (List.range 4).map (fun k => (0x0444000 + 8*k, BitVec.ofNat 64 own4)) ++
     (List.range 4).map (fun k => (0x0440000 + 128*48 + 8*k, BitVec.ofNat 64 own4)) ++ (List.range 4).map (fun k => (0x0444000 + 16*48 + 8*k, BitVec.ofNat 64 own4))) ++ s.live }
def hostA (s : State) : State := { s with atc := [{ tenancy := 3, ats := true, port := 0, space := 9, page := 2^30, size := 2^20, target := 2^30, read := true, write := true }], live := lv 3 0x0700000 2 :: s.live }
def withB (b : Burrow) (ws : List Work) : State := fox (hostA { busy ws with burrows := [(2, b)] })
def es0 : List Entry := [⟨.ofInt 3 0, 5, 0⟩, ⟨.ofInt 3 0, 6, 1⟩, ⟨.ofInt 9 0, 5, 2⟩, ⟨fp32.decode 0x7FC00000, 8, 3⟩, ⟨.ofInt 2 0, noItem, 4⟩, ⟨.ofInt (-2) 0, 9, 5⟩]




end W04b


namespace W04c

def bit1 (k : Nat) (kids : Nat) : BodyItem := { key := k, attr := k % 3, code := toLe 4 (k * 0x1234567), slot := 2^20 + k, tomb := false }
/-- The one leaf of burrow 2, at byte 0 of HBM. -/
def leaf0 : Leaf :=
  { Leaf.empty with
    root := true, items := [bit1 10 0, bit1 11 0, bit1 12 0], version := 1, stack := 0, mergeSeq := 1
    side := [{ addr := 65536, entries := [.insert (2^20 + 20) 2 20 1 (toLe 4 0xABCDEF), .tomb 0 1 3 11, .insert (2^20 + 21) 4 21 1 (toLe 4 0x1111)] }] }
/-- An L2 burrow of 8 FP16 dimensions with 4-bit codes, home den 0. -/
def bur : Burrow :=
  { Burrow.free with
    state := 1, vecFmt := 1, metric := 0, pqBits := 4, dim := 8, pqM := 8, tenancy := 3, maxNprobe := 4, fanoutMax := 4, root := 0, rootLeaf := true
    codebookAt := 131072, maxItems := 100, items := 4, leafMax := 2, sideMax := 64, nextSeq := 5, snapSeq := 4, slotBase := 2^20, slotCount := 2^20
    codebook := (List.range 128).map (fun i => 0x3F80 + i), leaves := [(0, leaf0)], slotNext := 30
    itemMap := [(10, 2^20+10, 0), (12, 2^20+12, 0), (20, 2^20+20, 0), (21, 2^20+21, 0)], hbmRes := 200000, ddrAt := ddrBase 0, ddrRes := 4800 }
/-- Words of 4 owner entries that give everything to tenancy 3. -/
def own4 : Nat := 0x8003800380038003
def fox (s : State) : State := { s with
  live := (0x0048000, 0x800300000000) :: lv 3 0x0040108 (2^60-1) :: lv 3 0x0040308 (2^20) :: lv 3 0x0040310 (2^20) ::
    ((List.range 4).map (fun k => (0x0440000 + 8*k, BitVec.ofNat 64 own4)) ++ (List.range 4).map (fun k => (0x0444000 + 8*k, BitVec.ofNat 64 own4)) ++
     (List.range 4).map (fun k => (0x0440000 + 128*48 + 8*k, BitVec.ofNat 64 own4)) ++ (List.range 4).map (fun k => (0x0444000 + 16*48 + 8*k, BitVec.ofNat 64 own4))) ++ s.live }
def hostA (s : State) : State := { s with atc := [{ tenancy := 3, ats := true, port := 0, space := 9, page := 2^30, size := 2^20, target := 2^30, read := true, write := true }], live := lv 3 0x0700000 2 :: s.live }
def withB (b : Burrow) (ws : List Work) : State := fox (hostA { busy ws with burrows := [(2, b)] })
def goOf (g : Gate) : State := match g with | .go s => s | .hold s => s
/-- The state in which a resident function of work 5 acts on a sett of den 0. -/
def settOf (s : State) : State := match s.rerankSett 0 3 with | some k => (goOf (s.takeResident 0 3 k)).leaveUnits 5 settCell | none => s
def es0 : List Entry := [⟨.ofInt 3 0, 5, 0⟩, ⟨.ofInt 3 0, 6, 1⟩, ⟨.ofInt 9 0, 5, 2⟩, ⟨fp32.decode 0x7FC00000, 8, 3⟩, ⟨.ofInt 2 0, noItem, 4⟩, ⟨.ofInt (-2) 0, 9, 5⟩]

def v5 : Bytes := (toLe 8 (2^64-1) ++ toLe 8 1 ++ toLe 16 0 ++ toLe 32 1)
def v6 : Bytes := (List.replicate 16 0x3C ++ List.replicate 48 0 ++ List.replicate 64 0x3D)
def v2 : Result := { status := 19, flags := 0, count := 0, snap := 0, detail := 36, b24 := 0 }
def v9 : Bytes := ((toLe 8 31 ++ toLe 8 1 ++ toLe 16 0)++(toLe 8 12 ++ toLe 8 1 ++ toLe 16 0))
def v4 : Work := {wk 5 0x12 1 (desc 18 0 1 (2^30) (2^30 + 4096) 0 (toLe 2 2 ++ toLe 2 2 ++ toLe 4 64)) with burrow := 2}
def s7 : State := withB bur [v4]
def v8 : Instr := .insert 5 v9 (toLe 16 0x7C00 ++ toLe 112 0)
def v0 : Work := {wk 5 0x12 1 (desc 18 0 1 (2^30) (2^30 + 4096) 0 (toLe 2 2 ++ toLe 2 2 ++ toLe 4 8)) with burrow := 2, unchecked := true}
def s1 : State := withB bur [v0]
def v3 : Instr := .insert 5 v5 v6
def v11 : Work := {wk 5 18 1 (desc 18 0 1 (2^30) (2^30 + 4096) 0 (toLe 2 2 ++ toLe 2 2 ++ toLe 4 64)) with burrow := 2, items := [], routed := false, codes := none}
def v10 : Instr := .insert 5 v9 v6
def s13 : State := withB (bur) [v11]
def s12 : State := withB ({bur with state := 2}) [v11]
def v18 : Work := {wk 5 0x12 1 (desc 18 0 1 (2^30) (2^30 + 4096) 0 (toLe 2 2 ++ toLe 2 2 ++ toLe 4 64)) with burrow := 2, items := [({kind := 0, key := 31, attr := 1, code := toLe 4 7, vec := List.replicate 16 0x3C, slot := 2^20+31, leaf := 0} : UpdItem)], codes := none}
def v20 : Run := { encodeRun v18 0 with setts := [0] }
def v14 : Work := {wk 5 18 1 (desc 18 0 1 (2^30) (2^30 + 4096) 0 (toLe 2 2 ++ toLe 2 2 ++ toLe 4 64)) with burrow := 2, items := [({kind := 0, key := 31, attr := 1, code := toLe 4 7, vec := List.replicate 16 0x3C, slot := 2^20+31, leaf := 0} : UpdItem), ({kind := 0, key := 12, attr := 1, code := toLe 4 7, vec := List.replicate 16 0x3C, slot := 2^20+31, leaf := 0} : UpdItem)], routed := true, codes := some []}
def v16 : Work := {wk 5 18 1 (desc 18 0 1 (2^30) (2^30 + 4096) (2^30 + 8192) (toLe 2 2 ++ toLe 2 2 ++ toLe 4 64)) with burrow := 2, items := [({kind := 0, key := 31, attr := 1, code := toLe 4 7, vec := List.replicate 16 0x3C, slot := 2^20+31, leaf := 0} : UpdItem), ({kind := 0, key := 12, attr := 1, code := toLe 4 7, vec := List.replicate 16 0x3C, slot := 2^20+31, leaf := 0} : UpdItem)], routed := true, codes := some []}
def s15 : State := withB (bur) [v14]
def s17 : State := withB (bur) [v16]
def s19 : State := { withB bur [v18] with runs := [v20] }

/-- States and operands that meet the premises of `Obligations.UpdatesCheckEncodeAndComplete`, part 1. -/
theorem witness_UpdatesCheckEncodeAndComplete_1 :
    ((fun (w : Nat) (op : Nat) (c : Instr) (x : Work) (recs : Bytes) (vecs : Bytes) (s : State) (r : Result) =>
      let b := s.burrow x.burrow
      let late := if x.unchecked = true ∧ b.state ≠ 0 then lowestCheck (updateChecks b 0 x.desc) else none
      (((op = 0x12 ∧ c = .insert w recs vecs) ∨ (op = 0x13 ∧ c = .delete w recs) ∨ (op = 0x14 ∧ c = .upsert w recs vecs))) ∧ startable s w x op ∧ x.items = [] ∧ late = some r) 5 18 (.insert 5 [] []) v0 [] [] s1 v2) ∧
    ((fun (w : Nat) (op : Nat) (c : Instr) (x : Work) (recs : Bytes) (vecs : Bytes) (s : State) (s' : State) =>
      let b := s.burrow x.burrow
      let items := s'.readItems b x recs (if op = 0x13 then [] else vecs)
      let bad8 := items.any (fun p => recordBad x.desc p.1)
      let late := if x.unchecked = true ∧ b.state ≠ 0 then lowestCheck (updateChecks b 0 x.desc) else none
      (((op = 0x12 ∧ c = .insert w recs vecs) ∨ (op = 0x13 ∧ c = .delete w recs) ∨ (op = 0x14 ∧ c = .upsert w recs vecs))) ∧ startable s w x op ∧ x.items = [] ∧ late = none ∧ readable s x (b.updateReads x.desc) s' ∧ bad8 = true) 5 18 v3 v4 v5 v6 s7 s7) ∧
    ((fun (w : Nat) (op : Nat) (c : Instr) (x : Work) (recs : Bytes) (vecs : Bytes) (s : State) (s' : State) =>
      let b := s.burrow x.burrow
      let items := s'.readItems b x recs (if op = 0x13 then [] else vecs)
      let bad8 := items.any (fun p => recordBad x.desc p.1)
      let bad16 := items.any (fun p => p.2.isNone)
      let late := if x.unchecked = true ∧ b.state ≠ 0 then lowestCheck (updateChecks b 0 x.desc) else none
      (((op = 0x12 ∧ c = .insert w recs vecs) ∨ (op = 0x13 ∧ c = .delete w recs) ∨ (op = 0x14 ∧ c = .upsert w recs vecs))) ∧ startable s w x op ∧ x.items = [] ∧ late = none ∧ readable s x (b.updateReads x.desc) s' ∧ bad8 = false ∧ bad16 = true) 5 18 v8 v4 v9 ((toLe 16 0x7C00 ++ toLe 112 0)) s7 s7) ∧
    ((fun (w : Nat) (op : Nat) (c : Instr) (x : Work) (recs : Bytes) (vecs : Bytes) (s : State) (s' : State) =>
      let b := s.burrow x.burrow
      let items := s'.readItems b x recs (if op = 0x13 then [] else vecs)
      let bad8 := items.any (fun p => recordBad x.desc p.1)
      let bad16 := items.any (fun p => p.2.isNone)
      let late := if x.unchecked = true ∧ b.state ≠ 0 then lowestCheck (updateChecks b 0 x.desc) else none
      (((op = 0x12 ∧ c = .insert w recs vecs) ∨ (op = 0x13 ∧ c = .delete w recs) ∨ (op = 0x14 ∧ c = .upsert w recs vecs))) ∧ startable s w x op ∧ x.items = [] ∧ late = none ∧ readable s x (b.updateReads x.desc) s' ∧ bad8 = false ∧ bad16 = false ∧ b.state ≠ 1) 5 18 v10 v11 v9 v6 s12 s12) ∧
    ((fun (w : Nat) (op : Nat) (c : Instr) (x : Work) (recs : Bytes) (vecs : Bytes) (s : State) (s' : State) =>
      let b := s.burrow x.burrow
      let items := s'.readItems b x recs (if op = 0x13 then [] else vecs)
      let bad8 := items.any (fun p => recordBad x.desc p.1)
      let bad16 := items.any (fun p => p.2.isNone)
      let late := if x.unchecked = true ∧ b.state ≠ 0 then lowestCheck (updateChecks b 0 x.desc) else none
      (((op = 0x12 ∧ c = .insert w recs vecs) ∨ (op = 0x13 ∧ c = .delete w recs) ∨ (op = 0x14 ∧ c = .upsert w recs vecs))) ∧ startable s w x op ∧ x.items = [] ∧ late = none ∧ readable s x (b.updateReads x.desc) s' ∧ bad8 = false ∧ bad16 = false ∧ b.state = 1 ∧ updCodes x.desc = false ∧ descOpcode x.desc ≠ 0x13 ∧ b.metric ≠ 3) 5 18 v10 v11 v9 v6 s13 s13) ∧
    ((fun (w : Nat) (op : Nat) (c : Instr) (x : Work) (recs : Bytes) (vecs : Bytes) (s : State) =>
      (((op = 0x12 ∧ c = .insert w recs vecs) ∨ (op = 0x13 ∧ c = .delete w recs) ∨ (op = 0x14 ∧ c = .upsert w recs vecs))) ∧ startable s w x op ∧ x.items ≠ [] ∧ x.routed = true ∧ s.turn x = true ∧ s.flashBusy (vectorReq w) = false ∧ (s.applyItems x (s.remaining x)).1.outcomes.length = x.items.length ∧ descRes x.desc = 0) 5 18 v10 v14 v9 v6 s15) := by
  refine ⟨by decide +kernel, by decide +kernel, by decide +kernel, by decide +kernel, by decide +kernel, by decide +kernel⟩

/-- States and operands that meet the premises of `Obligations.UpdatesCheckEncodeAndComplete`, part 2. -/
theorem witness_UpdatesCheckEncodeAndComplete_2 :
    ((fun (w : Nat) (op : Nat) (c : Instr) (x : Work) (recs : Bytes) (vecs : Bytes) (s : State) =>
      (((op = 0x12 ∧ c = .insert w recs vecs) ∨ (op = 0x13 ∧ c = .delete w recs) ∨ (op = 0x14 ∧ c = .upsert w recs vecs))) ∧ startable s w x op ∧ x.items ≠ [] ∧ x.routed = true ∧ s.turn x = true ∧ s.flashBusy (vectorReq w) = false ∧ (s.applyItems x (s.remaining x)).1.outcomes.length = x.items.length ∧ descRes x.desc ≠ 0 ∧ addrClass (descRes x.desc) = 0 ∧ ((∀ p ∈ pagesOf (descRes x.desc) x.items.length, s.pageGranted x p true = true)) ∧ sends s x.port) 5 18 v10 v16 v9 v6 s17) ∧
    ((fun (w : Nat) (op : Nat) (c : Instr) (x : Work) (recs : Bytes) (vecs : Bytes) (s : State) =>
      let b := s.burrow x.burrow
      let entries := (x.items.map (fun i => 64 + roundup i.code.length 16)).sum
      let roomy := fun (a : Nat) => ∃ k, (b.leaf a).side.getLast? = some k ∧ k.used + entries ≤ 4032
      (((op = 0x12 ∧ c = .insert w recs vecs) ∨ (op = 0x13 ∧ c = .delete w recs) ∨ (op = 0x14 ∧ c = .upsert w recs vecs))) ∧ startable s w x op ∧ x.items ≠ [] ∧ x.routed = true ∧ s.turn x = true ∧ s.flashBusy (vectorReq w) = false ∧ descRes x.desc = 0 ∧ ((∀ i ∈ x.items, b.current.contains (b.target i) = true ∧ (tget b.leaves (b.target i)).isSome = true ∧ roomy (b.target i))) ∧ ((∀ e ∈ b.itemMap, (tget b.leaves e.2.2).isSome = true ∧ roomy e.2.2))) 5 18 v10 v14 v9 v6 s15) ∧
    ((fun (w : Nat) (op : Nat) (c : Instr) (x : Work) (recs : Bytes) (vecs : Bytes) (s : State) =>
      (((op = 0x12 ∧ c = .insert w recs vecs) ∨ (op = 0x13 ∧ c = .delete w recs) ∨ (op = 0x14 ∧ c = .upsert w recs vecs))) ∧ running s w x ∧ isUpdate x.opcode = true ∧ x.items ≠ [] ∧ x.routed = true ∧ s.turn x = true ∧ s.flashBusy (vectorReq w) = false ∧ (s.applyItems x (s.remaining x)).1.outcomes.length = x.items.length ∧ descRes x.desc = 0) 5 18 v10 v14 v9 v6 s15) ∧
    ((fun (w : Nat) (op : Nat) (c : Instr) (x : Work) (recs : Bytes) (vecs : Bytes) (s : State) =>
      (((op = 0x12 ∧ c = .insert w recs vecs) ∨ (op = 0x13 ∧ c = .delete w recs) ∨ (op = 0x14 ∧ c = .upsert w recs vecs))) ∧ running s w x ∧ isUpdate x.opcode = true ∧ x.items ≠ [] ∧ x.routed = true ∧ s.turn x = true ∧ s.flashBusy (vectorReq w) = false ∧ (s.applyItems x (s.remaining x)).1.outcomes.length = x.items.length ∧ descRes x.desc ≠ 0 ∧ addrClass (descRes x.desc) = 0 ∧ ((∀ p ∈ pagesOf (descRes x.desc) x.items.length, s.pageGranted x p true = true)) ∧ sends s x.port) 5 18 v10 v16 v9 v6 s17) ∧
    ((fun (w : Nat) (op : Nat) (c : Instr) (x : Work) (recs : Bytes) (vecs : Bytes) (s : State) =>
      let b := s.burrow x.burrow
      let entries := (x.items.map (fun i => 64 + roundup i.code.length 16)).sum
      let roomy := fun (a : Nat) => ∃ k, (b.leaf a).side.getLast? = some k ∧ k.used + entries ≤ 4032
      (((op = 0x12 ∧ c = .insert w recs vecs) ∨ (op = 0x13 ∧ c = .delete w recs) ∨ (op = 0x14 ∧ c = .upsert w recs vecs))) ∧ running s w x ∧ isUpdate x.opcode = true ∧ x.items ≠ [] ∧ x.routed = true ∧ s.turn x = true ∧ s.flashBusy (vectorReq w) = false ∧ descRes x.desc = 0 ∧ ((∀ i ∈ x.items, b.current.contains (b.target i) = true ∧ (tget b.leaves (b.target i)).isSome = true ∧ roomy (b.target i))) ∧ ((∀ e ∈ b.itemMap, (tget b.leaves e.2.2).isSome = true ∧ roomy e.2.2))) 5 18 v10 v14 v9 v6 s15) ∧
    ((fun (w : Nat) (op : Nat) (c : Instr) (x : Work) (recs : Bytes) (vecs : Bytes) (s : State) (r : Run) =>
      (((op = 0x12 ∧ c = .insert w recs vecs) ∨ (op = 0x13 ∧ c = .delete w recs) ∨ (op = 0x14 ∧ c = .upsert w recs vecs))) ∧ running s w x ∧ isUpdate x.opcode = true ∧ s.run w = some r ∧ r.setts ≠ []) 5 18 (.insert 5 [] []) v18 [] [] s19 v20) := by
  refine ⟨by decide +kernel, by decide +kernel, by decide +kernel, by decide +kernel, by decide +kernel, by decide +kernel⟩

end W04c


namespace W05

def bit1 (k : Nat) (kids : Nat) : BodyItem := { key := k, attr := k % 3, code := toLe 4 (k * 0x1234567), slot := 2^20 + k, tomb := false }
/-- The one leaf of burrow 2, at byte 0 of HBM. -/
def leaf0 : Leaf :=
  { Leaf.empty with
    root := true, items := [bit1 10 0, bit1 11 0, bit1 12 0], version := 1, stack := 0, mergeSeq := 1
    side := [{ addr := 65536, entries := [.insert (2^20 + 20) 2 20 1 (toLe 4 0xABCDEF), .tomb 0 1 3 11, .insert (2^20 + 21) 4 21 1 (toLe 4 0x1111)] }] }
/-- An L2 burrow of 8 FP16 dimensions with 4-bit codes, home den 0. -/
def bur : Burrow :=
  { Burrow.free with
    state := 1, vecFmt := 1, metric := 0, pqBits := 4, dim := 8, pqM := 8, tenancy := 3, maxNprobe := 4, fanoutMax := 4, root := 0, rootLeaf := true
    codebookAt := 131072, maxItems := 100, items := 4, leafMax := 2, sideMax := 64, nextSeq := 5, snapSeq := 4, slotBase := 2^20, slotCount := 2^20
    codebook := (List.range 128).map (fun i => 0x3F80 + i), leaves := [(0, leaf0)], slotNext := 30
    itemMap := [(10, 2^20+10, 0), (12, 2^20+12, 0), (20, 2^20+20, 0), (21, 2^20+21, 0)], hbmRes := 200000, ddrAt := ddrBase 0, ddrRes := 4800 }
/-- Words of 4 owner entries that give everything to tenancy 3. -/
def own4 : Nat := 0x8003800380038003
def fox (s : State) : State := { s with
  live := (0x0048000, 0x800300000000) :: lv 3 0x0040108 (2^60-1) :: lv 3 0x0040308 (2^20) :: lv 3 0x0040310 (2^20) ::
    ((List.range 4).map (fun k => (0x0440000 + 8*k, BitVec.ofNat 64 own4)) ++ (List.range 4).map (fun k => (0x0444000 + 8*k, BitVec.ofNat 64 own4)) ++
     (List.range 4).map (fun k => (0x0440000 + 128*48 + 8*k, BitVec.ofNat 64 own4)) ++ (List.range 4).map (fun k => (0x0444000 + 16*48 + 8*k, BitVec.ofNat 64 own4))) ++ s.live }
def hostA (s : State) : State := { s with atc := [{ tenancy := 3, ats := true, port := 0, space := 9, page := 2^30, size := 2^20, target := 2^30, read := true, write := true }], live := lv 3 0x0700000 2 :: s.live }
def withB (b : Burrow) (ws : List Work) : State := fox (hostA { busy ws with burrows := [(2, b)] })
def goOf (g : Gate) : State := match g with | .go s => s | .hold s => s
/-- The state in which a resident function of work 5 acts on a sett of den 0. -/
def settOf (s : State) : State := match s.rerankSett 0 3 with | some k => (goOf (s.takeResident 0 3 k)).leaveUnits 5 settCell | none => s
/-- An operation word. -/
def opw (op fmt dst a b c sat imm : Nat) : Nat := op*2^58 + fmt*2^54 + dst*2^48 + a*2^42 + b*2^36 + c*2^30 + sat*2^29 + imm
def lanesOf (f : Nat → Nat) : List Nat := (List.range 16).map f
/-- A cell with some registers set: v1 FP-like numbers, v2 small integers, v3 address pair 0. -/
def cell1 : Cell := { Cell.start with
  v := [(1, lanesOf (fun i => 0x3F800000 + i * 0x100000)), (2, lanesOf (fun i => 2^32 - 3 + i - (if 3 ≤ i then 2^32 else 0))), (3, [2^20, 3 * 2^30] ++ List.replicate 14 0),
        (4, lanesOf (fun i => 0x7F7FFFFF - i)), (5, [64] ++ List.replicate 15 7), (6, lanesOf (fun i => 0x7FFFFFF0 + i)), (7, [2^30, 0] ++ List.replicate 14 0)]
  acc := [(0, lanesOf (fun i => i * 3)), (1, lanesOf (fun i => 0x40000000 + i))] }
def img1 (ws : List Nat) : Image := { tenancy := 3, setts := 2, iterMax := 4, scratch := 8192, prog := (ws ++ List.replicate (64 - ws.length) 0 ++ List.replicate (64 * 15) 0).map (BitVec.ofNat 64), routes := [(0,0,1,0,2),(1,0,0,0,1)], consts := [], bytes := 64, addr := ddrBase 0 }
def run1 (ws : List Nat) (c : Cell) : Run :=
  { w := 5, tenancy := 3, den := 0, image := img1 ws, resident := none, iters := 2, iterDone := 0, started := true, setts := [0,1], home := [0,1], lastFrame := 0, admitSeq := 5,
    saveSlot := true, stalled := false, cells := c :: List.replicate 15 Cell.start, scratch := [(List.range 16).map (fun i => (i, BitVec.ofNat 8 (i * 37 + i / 64))), []], l1 := [[], []], routes := [[], [zeroLanes]]
    count := 0, ovf := false, invalid := false, range := false, frames := 1, restores := 0, ended := none }
def runW : Work := { wk 5 0x41 1 (desc 0x41 0 1 0 0 0 (toLe 2 9)) with cls := 4 }
def rs (r : Run) : State := { hostA (busy [runW]) with runs := [r, { (run1 [] cell1) with w := 6 }] }

def s15 : State := rs (run1 [opw 0 0 0 0 0 0 0 (0)] (cell1))
def s18 : State := rs (run1 [opw 3 0 0 2 0 0 0 (0)] (cell1))
def s21 : State := rs (run1 [opw 2 0 0 0 0 0 0 (0)] (cell1))
def s22 : State := rs (run1 [opw 6 0 9 0 5 0 0 (0)] (cell1))
def s23 : State := rs (run1 [opw 7 0 0 1 5 0 0 (0)] (cell1))
def s0 : State := rs (run1 [opw 32 0 8 1 2 0 0 (0)] (cell1))
def s1 : State := rs (run1 [opw 33 0 8 1 2 0 0 (0)] (cell1))
def s2 : State := rs (run1 [opw 34 0 8 1 2 0 0 (0)] (cell1))
def s3 : State := rs (run1 [opw 35 0 8 1 2 1 0 (0)] (cell1))
def s4 : State := rs (run1 [opw 36 0 8 1 2 0 0 (0)] (cell1))
def s5 : State := rs (run1 [opw 37 0 8 1 2 0 0 (0)] (cell1))
def s6 : State := rs (run1 [opw 39 0 8 6 0 0 0 (5)] (cell1))
def s7 : State := rs (run1 [opw 40 0 8 1 6 0 0 (0)] (cell1))
def s14 : State := rs (run1 [opw 38 0 8 2 0 0 0 (0)] (cell1))
def s8 : State := rs (run1 [opw 18 0 33 0 0 0 0 (0)] (cell1))
def s9 : State := rs (run1 [opw 19 0 9 33 0 0 0 (0)] (cell1))
def s10 : State := rs (run1 [opw 16 6 32 1 5 1 0 (0)] (cell1))
def s11 : State := rs (run1 [opw 16 2 32 1 5 1 0 (0)] (cell1))
def s13 : State := rs (run1 [opw 38 0 8 2 0 0 0 (16)] (cell1))
def s12 : State := rs (run1 [opw 17 13 32 1 5 0 0 (0)] (cell1))
def v16 : Run := run1 [opw 1 0 0 0 0 0 0 (7 + 3*65536)] (cell1)
def s17 : State := rs v16
def v35 : Run := {run1 [opw 4 0 9 3 0 0 0 (0)] (cell1) with l1 := [[],[]]}
def v42 : Run := {run1 [opw 8 0 0 3 5 0 0 (2)] (cell1) with l1 := [[],[]]}
def v51 : Run := {run1 [opw 9 0 0 7 5 0 0 (2)] (cell1) with l1 := [[],[]]}
def v53 : Run := {run1 [opw 10 0 9 3 2 0 0 (1)] (cell1) with l1 := [[],[]]}
def v61 : Work := wk 5 0x40 1 (desc 0x40 0 1 0 0 0 (toLe 2 9 ++ toLe 2 0 ++ toLe 4 0))
def v19 : Run := run1 [opw 2 0 0 0 0 0 0 (0)] ({cell1 with atSync := true, syncs := 0})
def v24 : Run := {run1 [opw 48 0 0 1 0 0 0 (0)] (cell1) with routes := [[zeroLanes],[]]}
def v28 : Run := {run1 [opw 49 0 9 0 0 0 0 (0)] (cell1) with routes := [[zeroLanes],[]]}
def v30 : Run := {run1 [opw 49 0 9 0 0 0 0 (1)] (cell1) with routes := [[zeroLanes],[]]}
def s20 : State := rs v19
def v59 : Result := { status := 19, flags := 0, count := 0, snap := 0, detail := 36, b24 := 0 }
def s25 : State := rs v24
def s29 : State := rs v28
def s31 : State := rs v30
def v56 : Work := wk 5 0x40 1 (desc 0x40 0 1 (2^30) 0 0 (toLe 2 9 ++ toLe 2 0 ++ toLe 4 4224))
def v64 : Work := wk 5 0x41 1 (desc 0x41 0 1 0 0 0 (toLe 2 9 ++ toLe 1 255 ++ toLe 1 0 ++ toLe 4 0))
def v67 : Work := wk 5 0x41 1 (desc 0x41 0 1 0 0 0 (toLe 2 9 ++ toLe 1 255 ++ toLe 1 0 ++ toLe 4 1))
def v26 : Run := {run1 [opw 48 0 0 1 0 0 0 (0)] (cell1) with routes := [[zeroLanes,zeroLanes],[zeroLanes]]}
def s27 : State := rs v26
def s58 : State := fox (hostA (busy [v56]))
def s62 : State := {fox (busy [v61]) with images := []}
def v34 : L1Line := ({ addr := 2^20, data := List.replicate 64 9, dirty := (List.range 64).map (fun i => i % 2 == 0) } : L1Line)
def v70 : Run := {run1 [] cell1 with iterDone := 0, ended := none, cells := List.replicate 16 {Cell.start with halted := true}}
def v72 : Run := {run1 [] cell1 with iterDone := 2, ended := none, cells := List.replicate 16 {Cell.start with halted := true}}
def s63 : State := {fox (busy [v61]) with images := [(9, img1 [])]}
def s65 : State := {fox (busy [v64]) with images := []}
def s69 : State := rs v70
def s71 : State := rs v72
def v74 : Run := {run1 [] cell1 with iterDone := 0, ended := some (0x32, 8), cells := List.replicate 16 {Cell.start with halted := true}}
def s73 : State := rs v74
def s66 : State := {fox (busy [v64]) with images := [(9, img1 [])]}
def s68 : State := {fox (busy [v67]) with images := [(9, img1 [])]}
def s36 : State := {fox (rs v35) with poison := [], memory := (List.range 128).map (fun i => (2^20 + i, BitVec.ofNat 8 (i+1)))}
def s47 : State := {fox (rs v42) with poison := [], memory := (List.range 128).map (fun i => (2^20 + i, BitVec.ofNat 8 (i+1)))}
def s52 : State := {fox (rs v51) with poison := [], memory := (List.range 128).map (fun i => (2^20 + i, BitVec.ofNat 8 (i+1)))}
def v32 : Run := {run1 [opw 4 0 9 3 0 0 0 (0)] (cell1) with l1 := [[v34],[]]}
def v40 : Run := {run1 [opw 5 0 0 3 1 0 0 (0)] (cell1) with l1 := [[v34],[]]}
def s54 : State := {fox (rs v53) with poison := [], memory := (List.range 128).map (fun i => (2^20 + i, BitVec.ofNat 8 (i+250)))}
def s38 : State := {fox (rs v35) with poison := [2^20/64], memory := (List.range 128).map (fun i => (2^20 + i, BitVec.ofNat 8 (i+1)))}
def s43 : State := {fox (rs v42) with poison := [2^20/64], memory := (List.range 128).map (fun i => (2^20 + i, BitVec.ofNat 8 (i+1)))}
def s48 : State := (goOf (s47.clearRange runW 5 0 (2^20 + 3*2^62) 128))
def s44 : State := (goOf (s43.clearRange runW 5 0 (2^20 + 3*2^62) 128))
def s55 : State := (goOf (s54.gateBy runW (some (0,0)) [((2^20 + 3*2^62), 4, true)]))
def s37 : State := (match s36.gateBy runW (some (0,0)) [((2^20 + 3*2^62), 128, false)] with | .go s => s | _ => State.reset)
def s33 : State := {fox (rs v32) with poison := [], memory := (List.range 128).map (fun i => (2^20 + i, BitVec.ofNat 8 (i+1)))}
def s41 : State := {fox (rs v40) with poison := [], memory := (List.range 128).map (fun i => (2^20 + i, BitVec.ofNat 8 (i+1)))}
def s39 : State := (match s38.gateBy runW (some (0,0)) [((2^20 + 3*2^62), 128, false)] with | .go s => s | _ => State.reset)
def s49 : State := (goOf (s48.gateBy runW (some (0,0)) [((2^20 + 3*2^62), 128, false)]))
def s45 : State := (goOf (s44.gateBy runW (some (0,0)) [((2^20 + 3*2^62), 128, false)]))
def v60 : Bytes := (toLe 4 0x53584649 ++ toLe 2 1 ++ toLe 2 0 ++ toLe 4 4224 ++ toLe 1 1 ++ toLe 1 0 ++ toLe 2 4 ++ toLe 4 128 ++ toLe 4 4096 ++ toLe 4 4224 ++ toLe 2 0 ++ toLe 2 0 ++ toLe 4 4224 ++ toLe 4 0 ++ toLe 4 8192 ++ toLe 84 0) ++ ((List.range 8).flatMap (fun _ => toLe 8 (opw 3 0 0 0 0 0 0 0) ++ toLe 504 0))
def v50 : Run := (s49.run 5).getD (run1 [] cell1)
def v57 : Bytes := (((toLe 4 0x53584649 ++ toLe 2 1 ++ toLe 2 0 ++ toLe 4 4288 ++ toLe 1 1 ++ toLe 1 0 ++ toLe 2 4 ++ toLe 4 128 ++ toLe 4 4096 ++ toLe 4 4224 ++ toLe 2 0 ++ toLe 2 0 ++ toLe 4 4224 ++ toLe 4 0 ++ toLe 4 8192 ++ toLe 84 0) ++ ((List.range 8).flatMap (fun _ => toLe 8 (opw 3 0 0 0 0 0 0 0) ++ toLe 504 0))) ++ toLe 64 0)
def v46 : Run := (s45.run 5).getD (run1 [] cell1)

/-- States and operands that meet the premises of `Obligations.CellArithmetic`, part 1. -/
theorem witness_CellArithmetic_1 :
    ((fun (run : Nat) (sett : Nat) (cell : Nat) (op : Nat) (x : Work) (r : Run) (s : State) =>
      issues s run sett cell op x r ∧ op = 0x20) 5 0 0 32 runW (run1 [opw 32 0 8 1 2 0 0 (0)] (cell1)) s0) ∧
    ((fun (run : Nat) (sett : Nat) (cell : Nat) (op : Nat) (x : Work) (r : Run) (s : State) =>
      issues s run sett cell op x r ∧ op = 0x21) 5 0 0 33 runW (run1 [opw 33 0 8 1 2 0 0 (0)] (cell1)) s1) ∧
    ((fun (run : Nat) (sett : Nat) (cell : Nat) (op : Nat) (x : Work) (r : Run) (s : State) =>
      issues s run sett cell op x r ∧ op = 0x22) 5 0 0 34 runW (run1 [opw 34 0 8 1 2 0 0 (0)] (cell1)) s2) ∧
    ((fun (run : Nat) (sett : Nat) (cell : Nat) (op : Nat) (x : Work) (r : Run) (s : State) =>
      issues s run sett cell op x r ∧ op = 0x23) 5 0 0 35 runW (run1 [opw 35 0 8 1 2 1 0 (0)] (cell1)) s3) ∧
    ((fun (run : Nat) (sett : Nat) (cell : Nat) (op : Nat) (x : Work) (r : Run) (s : State) =>
      issues s run sett cell op x r ∧ op = 0x24) 5 0 0 36 runW (run1 [opw 36 0 8 1 2 0 0 (0)] (cell1)) s4) ∧
    ((fun (run : Nat) (sett : Nat) (cell : Nat) (op : Nat) (x : Work) (r : Run) (s : State) =>
      issues s run sett cell op x r ∧ op = 0x25) 5 0 0 37 runW (run1 [opw 37 0 8 1 2 0 0 (0)] (cell1)) s5) := by
  refine ⟨by decide +kernel, by decide +kernel, by decide +kernel, by decide +kernel, by decide +kernel, by decide +kernel⟩

/-- States and operands that meet the premises of `Obligations.CellArithmetic`, part 2. -/
theorem witness_CellArithmetic_2 :
    ((fun (run : Nat) (sett : Nat) (cell : Nat) (op : Nat) (x : Work) (r : Run) (s : State) =>
      issues s run sett cell op x r ∧ op = 0x27) 5 0 0 39 runW (run1 [opw 39 0 8 6 0 0 0 (5)] (cell1)) s6) ∧
    ((fun (run : Nat) (sett : Nat) (cell : Nat) (op : Nat) (x : Work) (r : Run) (s : State) =>
      issues s run sett cell op x r ∧ op = 0x28) 5 0 0 40 runW (run1 [opw 40 0 8 1 6 0 0 (0)] (cell1)) s7) ∧
    ((fun (run : Nat) (sett : Nat) (cell : Nat) (op : Nat) (x : Work) (r : Run) (s : State) =>
      issues s run sett cell op x r ∧ op = 0x12) 5 0 0 18 runW (run1 [opw 18 0 33 0 0 0 0 (0)] (cell1)) s8) ∧
    ((fun (run : Nat) (sett : Nat) (cell : Nat) (op : Nat) (x : Work) (r : Run) (s : State) =>
      issues s run sett cell op x r ∧ op = 0x13) 5 0 0 19 runW (run1 [opw 19 0 9 33 0 0 0 (0)] (cell1)) s9) ∧
    ((fun (run : Nat) (sett : Nat) (cell : Nat) (op : Nat) (x : Work) (r : Run) (s : State) =>
      let c := r.cell sett cell
      let w := r.image.word sett cell c.pc
      issues s run sett cell op x r ∧ op = 0x10 ∧ isIntFmt (wFmt w) = true) 5 0 0 16 runW (run1 [opw 16 6 32 1 5 1 0 (0)] (cell1)) s10) ∧
    ((fun (run : Nat) (sett : Nat) (cell : Nat) (op : Nat) (x : Work) (r : Run) (s : State) =>
      let c := r.cell sett cell
      let w := r.image.word sett cell c.pc
      issues s run sett cell op x r ∧ op = 0x10 ∧ isIntFmt (wFmt w) = false) 5 0 0 16 runW (run1 [opw 16 2 32 1 5 1 0 (0)] (cell1)) s11) := by
  refine ⟨by decide +kernel, by decide +kernel, by decide +kernel, by decide +kernel, by decide +kernel, by decide +kernel⟩

/-- States and operands that meet the premises of `Obligations.CellArithmetic`, part 3. -/
theorem witness_CellArithmetic_3 :
    ((fun (run : Nat) (sett : Nat) (cell : Nat) (op : Nat) (x : Work) (r : Run) (s : State) =>
      issues s run sett cell op x r ∧ op = 0x11) 5 0 0 17 runW (run1 [opw 17 13 32 1 5 0 0 (0)] (cell1)) s12) ∧
    ((fun (run : Nat) (sett : Nat) (cell : Nat) (op : Nat) (x : Work) (r : Run) (s : State) =>
      let c := r.cell sett cell
      let w := r.image.word sett cell c.pc
      issues s run sett cell op x r ∧ op = 0x26 ∧ bit w 4 = true) 5 0 0 38 runW (run1 [opw 38 0 8 2 0 0 0 (16)] (cell1)) s13) ∧
    ((fun (run : Nat) (sett : Nat) (cell : Nat) (op : Nat) (x : Work) (r : Run) (s : State) =>
      let c := r.cell sett cell
      let w := r.image.word sett cell c.pc
      issues s run sett cell op x r ∧ op = 0x26 ∧ bit w 4 = false ∧ (c.reg (wA w)).length = 16) 5 0 0 38 runW (run1 [opw 38 0 8 2 0 0 0 (0)] (cell1)) s14) ∧
    ((fun (run : Nat) (sett : Nat) (cell : Nat) (op : Nat) (x : Work) (r : Run) (s : State) =>
      issues s run sett cell op x r) 5 0 0 32 runW (run1 [opw 32 0 8 1 2 0 0 (0)] (cell1)) s0) := by
  refine ⟨by decide +kernel, by decide +kernel, by decide +kernel, by decide +kernel⟩

/-- States and operands that meet the premises of `Obligations.CellControlAndRoutes`, part 1. -/
theorem witness_CellControlAndRoutes_1 :
    ((fun (run : Nat) (sett : Nat) (cell : Nat) (op : Nat) (x : Work) (r : Run) (s : State) =>
      issues s run sett cell op x r ∧ op = 0x00) 5 0 0 0 runW (run1 [opw 0 0 0 0 0 0 0 (0)] (cell1)) s15) ∧
    ((fun (run : Nat) (sett : Nat) (cell : Nat) (op : Nat) (x : Work) (r : Run) (s : State) =>
      issues s run sett cell op x r ∧ op = 0x01) 5 0 0 1 runW v16 s17) ∧
    ((fun (run : Nat) (sett : Nat) (cell : Nat) (op : Nat) (x : Work) (r : Run) (s : State) =>
      issues s run sett cell op x r ∧ op = 0x03) 5 0 0 3 runW (run1 [opw 3 0 0 2 0 0 0 (0)] (cell1)) s18) ∧
    ((fun (run : Nat) (sett : Nat) (cell : Nat) (op : Nat) (x : Work) (r : Run) (s : State) =>
      let c := r.cell sett cell
      issues s run sett cell op x r ∧ op = 0x02 ∧ c.atSync = true ∧ (r.cells.all (fun d => decide (c.syncs ≤ d.syncs)) = true)) 5 0 0 2 runW v19 s20) ∧
    ((fun (run : Nat) (sett : Nat) (cell : Nat) (op : Nat) (x : Work) (r : Run) (s : State) =>
      let c := r.cell sett cell
      issues s run sett cell op x r ∧ op = 0x02 ∧ c.atSync = false ∧ ((∃ j, j ≠ 8 * sett + cell ∧ ∃ d, r.cells[j]? = some d ∧ d.syncs < c.syncs + 1))) 5 0 0 2 runW (run1 [opw 2 0 0 0 0 0 0 (0)] (cell1)) s21) ∧
    ((fun (run : Nat) (sett : Nat) (cell : Nat) (op : Nat) (x : Work) (r : Run) (s : State) =>
      issues s run sett cell op x r ∧ op = 0x06) 5 0 0 6 runW (run1 [opw 6 0 9 0 5 0 0 (0)] (cell1)) s22) := by
  refine ⟨by decide +kernel, by decide +kernel, by decide +kernel, by decide +kernel, ⟨by decide +kernel, rfl, by decide +kernel, 1, by decide, _, rfl, by decide +kernel⟩, by decide +kernel⟩

/-- States and operands that meet the premises of `Obligations.CellControlAndRoutes`, part 2. -/
theorem witness_CellControlAndRoutes_2 :
    ((fun (run : Nat) (sett : Nat) (cell : Nat) (op : Nat) (x : Work) (r : Run) (s : State) =>
      let c := r.cell sett cell
      let w := r.image.word sett cell c.pc
      issues s run sett cell op x r ∧ op = 0x07 ∧ sett < r.scratch.length ∧ (c.reg (wA w)).length = 16) 5 0 0 7 runW (run1 [opw 7 0 0 1 5 0 0 (0)] (cell1)) s23) ∧
    ((fun (run : Nat) (sett : Nat) (cell : Nat) (op : Nat) (x : Work) (r : Run) (s : State) =>
      let c := r.cell sett cell
      let w := r.image.word sett cell c.pc
      let k := bits w 7 0
      issues s run sett cell op x r ∧ op = 0x30 ∧ (r.route k).length < r.image.depth k ∧ k < r.routes.length) 5 0 0 0x30 runW v24 s25) ∧
    ((fun (run : Nat) (sett : Nat) (cell : Nat) (op : Nat) (x : Work) (r : Run) (s : State) =>
      let c := r.cell sett cell
      let w := r.image.word sett cell c.pc
      let k := bits w 7 0
      issues s run sett cell op x r ∧ op = 0x30 ∧ r.image.depth k ≤ (r.route k).length) 5 0 0 0x30 runW v26 s27) ∧
    ((fun (run : Nat) (sett : Nat) (cell : Nat) (op : Nat) (x : Work) (r : Run) (s : State) (v : List Nat) (rest : List (List Nat)) =>
      let c := r.cell sett cell
      let w := r.image.word sett cell c.pc
      let k := bits w 7 0
      issues s run sett cell op x r ∧ op = 0x31 ∧ r.route k = v :: rest) 5 0 0 0x31 runW v28 s29 zeroLanes []) ∧
    ((fun (run : Nat) (sett : Nat) (cell : Nat) (op : Nat) (x : Work) (r : Run) (s : State) =>
      let c := r.cell sett cell
      let w := r.image.word sett cell c.pc
      let k := bits w 7 0
      issues s run sett cell op x r ∧ op = 0x31 ∧ r.route k = []) 5 0 0 0x31 runW v30 s31) := by
  refine ⟨by decide +kernel, by decide +kernel, by decide +kernel, by decide +kernel, by decide +kernel⟩

/-- States and operands that meet the premises of `Obligations.CellMemoryAccesses`, part 1. -/
theorem witness_CellMemoryAccesses_1 :
    ((fun (run : Nat) (sett : Nat) (cell : Nat) (op : Nat) (x : Work) (r : Run) (s : State) (m : Nat) (l : L1Line) =>
      let c := r.cell sett cell
      let w := r.image.word sett cell c.pc
      let pair := c.pair (wA w) (wC w)
      let a := wrap 64 ((pair : Int) + wImmS w)
      issues s run sett cell op x r ∧ r.w = run ∧ sett < r.l1.length ∧ sett < r.scratch.length ∧ op = 0x04 ∧ a % 64 = 0 ∧ addrClass a = 3 ∧ clear x s ∧ s.locate x.tenancy x.xltRoot a 64 false = (.mem m, s) ∧ r.cached sett m = some l) 5 0 0 4 runW v32 s33 ((2^20)) v34) ∧
    ((fun (run : Nat) (sett : Nat) (cell : Nat) (op : Nat) (x : Work) (r : Run) (s : State) (s' : State) (m : Nat) =>
      let c := r.cell sett cell
      let w := r.image.word sett cell c.pc
      let who := some (sett, cell)
      let pair := c.pair (wA w) (wC w)
      let a := wrap 64 ((pair : Int) + wImmS w)
      issues s run sett cell op x r ∧ r.w = run ∧ sett < r.l1.length ∧ sett < r.scratch.length ∧ op = 0x04 ∧ a % 64 = 0 ∧ addrClass a = 3 ∧ clear x s ∧ s.locate x.tenancy x.xltRoot a 64 false = (.mem m, s) ∧ r.cached sett m = none ∧ m / 2 ^ 48 ≠ 2 ∧ s.gateBy x who [(a, 64, false)] = .go s' ∧ (r.ways sett m).length < 8 ∧ s.poisonedIn m 64 = false) 5 0 0 4 runW v35 s36 s37 ((2^20))) ∧
    ((fun (run : Nat) (sett : Nat) (cell : Nat) (op : Nat) (x : Work) (r : Run) (s : State) (s' : State) (m : Nat) =>
      let c := r.cell sett cell
      let w := r.image.word sett cell c.pc
      let who := some (sett, cell)
      let pair := c.pair (wA w) (wC w)
      let a := wrap 64 ((pair : Int) + wImmS w)
      issues s run sett cell op x r ∧ r.w = run ∧ sett < r.l1.length ∧ sett < r.scratch.length ∧ op = 0x04 ∧ a % 64 = 0 ∧ addrClass a = 3 ∧ clear x s ∧ s.locate x.tenancy x.xltRoot a 64 false = (.mem m, s) ∧ r.cached sett m = none ∧ m / 2 ^ 48 ≠ 2 ∧ s.gateBy x who [(a, 64, false)] = .go s' ∧ (r.ways sett m).length < 8 ∧ s.poisonedIn m 64 = true) 5 0 0 4 runW v35 s38 s39 ((2^20))) ∧
    ((fun (run : Nat) (sett : Nat) (cell : Nat) (op : Nat) (x : Work) (r : Run) (s : State) (m : Nat) (l : L1Line) =>
      let c := r.cell sett cell
      let w := r.image.word sett cell c.pc
      let pair := c.pair (wA w) (wC w)
      let a := wrap 64 ((pair : Int) + wImmS w)
      issues s run sett cell op x r ∧ r.w = run ∧ sett < r.l1.length ∧ sett < r.scratch.length ∧ op = 0x05 ∧ a % 64 = 0 ∧ addrClass a = 3 ∧ (c.reg (wB w)).length = 16 ∧ s.locate x.tenancy x.xltRoot a 64 true = (.mem m, s) ∧ r.cached sett m = some l) 5 0 0 5 runW v40 s41 ((2^20)) v34) ∧
    ((fun (run : Nat) (sett : Nat) (cell : Nat) (op : Nat) (x : Work) (r : Run) (s : State) (l : L1Line) =>
      issues s run sett cell op x r ∧ r.w = run ∧ sett < r.l1.length ∧ sett < r.scratch.length ∧ ((r.l1Of sett).filter (fun k => k.addr == l.addr) = [l]) ∧ l.addr / 2 ^ 48 ≤ 1 ∧ l.data.length = 64 ∧ l.dirty.length = 64 ∧ s.poison = [] ∧ s.firstTouch = []) 5 0 0 4 runW v32 s33 v34) ∧
    ((fun (run : Nat) (sett : Nat) (cell : Nat) (op : Nat) (x : Work) (r : Run) (s : State) (s' : State) (s'' : State) (q : Run) =>
      let c := r.cell sett cell
      let w := r.image.word sett cell c.pc
      let who := some (sett, cell)
      let pair := c.pair (wA w) (wC w)
      let n := 64 * wImm w
      issues s run sett cell op x r ∧ r.w = run ∧ sett < r.l1.length ∧ sett < r.scratch.length ∧ op = 0x08 ∧ s.clearRange x run sett pair n = .go s' ∧ s'.gateBy x who [(pair, n, false)] = .go s'' ∧ s''.poisonedAt x pair n = true ∧ s''.run run = some q ∧ q.ended = none) 5 0 0 8 runW v42 s43 s44 s45 v46) := by
  refine ⟨by decide +kernel, by decide +kernel, by decide +kernel, by decide +kernel, by decide +kernel, by decide +kernel⟩

/-- States and operands that meet the premises of `Obligations.CellMemoryAccesses`, part 2. -/
theorem witness_CellMemoryAccesses_2 :
    ((fun (run : Nat) (sett : Nat) (cell : Nat) (op : Nat) (x : Work) (r : Run) (s : State) (s' : State) (s'' : State) (q : Run) =>
      let c := r.cell sett cell
      let w := r.image.word sett cell c.pc
      let who := some (sett, cell)
      let pair := c.pair (wA w) (wC w)
      let n := 64 * wImm w
      issues s run sett cell op x r ∧ r.w = run ∧ sett < r.l1.length ∧ sett < r.scratch.length ∧ op = 0x08 ∧ s.clearRange x run sett pair n = .go s' ∧ s'.gateBy x who [(pair, n, false)] = .go s'' ∧ s''.poisonedAt x pair n = false ∧ s''.run run = some q ∧ q.cells = r.cells) 5 0 0 8 runW v42 s47 s48 s49 v50) ∧
    ((fun (run : Nat) (sett : Nat) (cell : Nat) (op : Nat) (x : Work) (r : Run) (s : State) =>
      let c := r.cell sett cell
      let w := r.image.word sett cell c.pc
      let who := some (sett, cell)
      let pair := c.pair (wA w) (wC w)
      let n := 64 * wImm w
      issues s run sett cell op x r ∧ r.w = run ∧ sett < r.l1.length ∧ sett < r.scratch.length ∧ op = 0x09 ∧ clear x s ∧ s.cellStores run who = [] ∧ addrClass pair = 0 ∧ (r.l1Of sett) = [] ∧ sends s x.port ∧ n ≠ 0 ∧ ((∀ p ∈ pagesOf pair n, s.pageGranted x p true = true))) 5 0 0 9 runW v51 s52) ∧
    ((fun (run : Nat) (sett : Nat) (cell : Nat) (op : Nat) (x : Work) (r : Run) (s : State) (s' : State) (m : Nat) =>
      let c := r.cell sett cell
      let w := r.image.word sett cell c.pc
      let who := some (sett, cell)
      let pair := c.pair (wA w) (wC w)
      let f := if bit w 4 then 8 else 4
      issues s run sett cell op x r ∧ r.w = run ∧ sett < r.l1.length ∧ sett < r.scratch.length ∧ op = 0x0A ∧ pair % f = 0 ∧ addrClass pair = 3 ∧ (r.l1Of sett) = [] ∧ s.fabric.requests = [] ∧ clear x s ∧ s.locate x.tenancy x.xltRoot pair f true = (.mem m, s) ∧ m / 2 ^ 48 ≤ 1 ∧ s.poison = [] ∧ s.gateBy x who [(pair, f, true)] = .go s') 5 0 0 0x0A runW v53 s54 s55 ((2^20))) := by
  refine ⟨by decide +kernel, by decide +kernel, by decide +kernel⟩

/-- An image of one sett whose cells halt at once. -/
def prog58 : List (BitVec 64) := (List.replicate 8 (BitVec.ofNat 64 (3 * 2 ^ 58) :: List.replicate 63 0)).flatten
def img58 : Image := { tenancy := 3, setts := 1, iterMax := 4, scratch := 8192, prog := prog58, routes := [], consts := [], bytes := 4224, addr := 0 }
/-- Words of 8 bytes, one after another. -/
def words8 : (n : Nat) → Bytes → List (BitVec 64)
  | 0, _ => []
  | n + 1, b => BitVec.ofNat 64 (leNat (b.take 8)) :: words8 n (b.drop 8)
theorem words8_eq (n o : Nat) (b : Bytes) : (List.range n).map (fun i => BitVec.ofNat 64 (fld b (o + 8 * i) 8)) = words8 n (b.drop o) := by
  induction n generalizing o with
  | zero => rfl
  | succ n ih =>
    rw [List.range_succ_eq_map, List.map_cons, List.map_map, words8, List.drop_drop, ← ih (o + 8)]
    congr 1
    apply List.map_congr_left
    intro i _
    show BitVec.ofNat 64 (fld b (o + 8 * (i + 1)) 8) = _
    rw [show o + 8 * (i + 1) = o + 8 + 8 * i by omega]
theorem image_parses : parseImage v60 3 0 = img58 := by
  unfold parseImage
  dsimp only
  rw [words8_eq]
  decide +kernel
theorem image_sound : badStructures img58 v60 = [] := by decide +kernel
theorem image_read : s58.readAt v56 (descOp0 (Work.desc v56)) (max 128 (min (fld (Work.desc v56) 36 4) (2 ^ 21))) v60 = v60 := by decide +kernel
theorem image_runs : simulate img58 simFuel (List.replicate (8 * img58.setts) Cell.start, List.replicate img58.routes.length 0) = true := by
  decide +kernel
theorem image_loads : s58.loadFault v60 3 4224 = none := by
  have h : headerLegal v60 = true := by decide +kernel
  have hn : fld v60 8 4 = 4224 := by decide +kernel
  have hf : imageFault v60 img58 = .ok := by
    unfold imageFault
    rw [image_sound, image_runs]
    rfl
  unfold State.loadFault
  rw [image_parses, hf, h, hn]
  rfl

/-- States and operands that meet the premises of `Obligations.KernelsAndRuns`, part 1. -/
theorem witness_KernelsAndRuns_1 :
    ((fun (w : Nat) (x : Work) (image : Bytes) (s : State) (s' : State) (r : Result) =>
      let n := fld x.desc 36 4
      let b := s'.readAt x (descOp0 x.desc) (max 128 (min n (2 ^ 21))) image
      startable s w x 0x40 ∧ ((descOp0 x.desc ≠ 0 ∨ n ≠ 0)) ∧ readable s x [(descOp0 x.desc, max 128 (min n (2 ^ 21)))] s' ∧ s'.loadFault b x.tenancy n = some r) 5 v56 v57 s58 s58 v59) ∧
    ((fun (w : Nat) (x : Work) (image : Bytes) (s : State) (s' : State) (a : Nat) =>
      let n := fld x.desc 36 4
      let b := s'.readAt x (descOp0 x.desc) (max 128 (min n (2 ^ 21))) image
      startable s w x 0x40 ∧ ((descOp0 x.desc ≠ 0 ∨ n ≠ 0)) ∧ readable s x [(descOp0 x.desc, max 128 (min n (2 ^ 21)))] s' ∧ s'.loadFault b x.tenancy n = none ∧ s'.imagePlace x.tenancy n = some a) 5 v56 v60 s58 s58 ((s58.pick (s58.ddrAllot 3 0) 4224 64).getD 0)) ∧
    ((fun (w : Nat) (x : Work) (s : State) =>
      let id := fld x.desc 32 2 % 4096
      let n := fld x.desc 36 4
      startable s w x 0x40 ∧ descOp0 x.desc = 0 ∧ n = 0 ∧ tget s.images id = none) 5 v61 s62) ∧
    ((fun (w : Nat) (x : Work) (s : State) (i : Image) =>
      let id := fld x.desc 32 2 % 4096
      let n := fld x.desc 36 4
      startable s w x 0x40 ∧ descOp0 x.desc = 0 ∧ n = 0 ∧ tget s.images id = some i) 5 v61 s63 ((img1 []))) ∧
    ((fun (w : Nat) (x : Work) (s : State) =>
      startable s w x 0x41 ∧ s.run w = none ∧ s.runImage x.desc = none) 5 v64 s65) ∧
    ((fun (w : Nat) (x : Work) (s : State) (i : Image) =>
      let n := fld x.desc 36 4
      startable s w x 0x41 ∧ s.run w = none ∧ s.runImage x.desc = some i ∧ (n = 0 ∨ i.iterMax < n)) 5 v64 s66 ((img1 []))) := by
  refine ⟨by decide +kernel, ⟨by decide +kernel, by decide +kernel, by decide +kernel, by rw [image_read, show (v56).tenancy = 3 from rfl, show fld (v56).desc 36 4 = 4224 from by decide +kernel]; exact image_loads, State.imagePlace_first (by decide +kernel)⟩, by decide +kernel, by decide +kernel, by decide +kernel, by decide +kernel⟩

/-- States and operands that meet the premises of `Obligations.KernelsAndRuns`, part 2. -/
theorem witness_KernelsAndRuns_2 :
    ((fun (w : Nat) (x : Work) (s : State) (i : Image) (den : Nat) =>
      let n := fld x.desc 36 4
      startable s w x 0x41 ∧ s.run w = none ∧ s.runImage x.desc = some i ∧ n ≠ 0 ∧ n ≤ i.iterMax ∧ s.runDen x.tenancy x.port (fld x.desc 34 1) i.setts = some den) 5 v67 s68 ((img1 [])) 0) ∧
    ((fun (w : Nat) (s : State) (r : Run) =>
      s.run w = some r ∧ r.resident = none ∧ r.ended = none ∧ r.stalled = false ∧ r.setts ≠ [] ∧ r.iterDone < r.iters ∧ r.cells.all (·.halted) = true) 5 s69 v70) ∧
    ((fun (w : Nat) (x : Work) (s : State) (r : Run) =>
      s.run w = some r ∧ r.resident = none ∧ r.ended = none ∧ r.stalled = false ∧ s.work w = some x ∧ x.result = none ∧ r.iters ≤ r.iterDone ∧ r.l1.all (· == []) = true) 5 runW s71 v72) ∧
    ((fun (w : Nat) (x : Work) (s : State) (r : Run) (st : Nat) (cell : Nat) =>
      s.run w = some r ∧ s.work w = some x ∧ x.result = none ∧ r.stalled = false ∧ r.ended = some (st, cell) ∧ r.l1.all (· == []) = true) 5 runW s73 v74 50 8) ∧
    ((fun (s : State) (den : Nat) (phys : Nat) (k : Nat) =>
      den < 8 ∧ phys < 18 ∧ s.failedSetts.contains (den, phys) = false ∧ ((List.range 16).find? (fun k => tgetD s.settMap (16 * den + k) k == phys) = some k)) s58 0 0 0) := by
  refine ⟨by decide +kernel, by decide +kernel, by decide +kernel, by decide +kernel, by decide +kernel⟩

end W05


namespace W06

def bit1 (k : Nat) (kids : Nat) : BodyItem := { key := k, attr := k % 3, code := toLe 4 (k * 0x1234567), slot := 2^20 + k, tomb := false }
/-- The one leaf of burrow 2, at byte 0 of HBM. -/
def leaf0 : Leaf :=
  { Leaf.empty with
    root := true, items := [bit1 10 0, bit1 11 0, bit1 12 0], version := 1, stack := 0, mergeSeq := 1
    side := [{ addr := 65536, entries := [.insert (2^20 + 20) 2 20 1 (toLe 4 0xABCDEF), .tomb 0 1 3 11, .insert (2^20 + 21) 4 21 1 (toLe 4 0x1111)] }] }
/-- An L2 burrow of 8 FP16 dimensions with 4-bit codes, home den 0. -/
def bur : Burrow :=
  { Burrow.free with
    state := 1, vecFmt := 1, metric := 0, pqBits := 4, dim := 8, pqM := 8, tenancy := 3, maxNprobe := 4, fanoutMax := 4, root := 0, rootLeaf := true
    codebookAt := 131072, maxItems := 100, items := 4, leafMax := 2, sideMax := 64, nextSeq := 5, snapSeq := 4, slotBase := 2^20, slotCount := 2^20
    codebook := (List.range 128).map (fun i => 0x3F80 + i), leaves := [(0, leaf0)], slotNext := 30
    itemMap := [(10, 2^20+10, 0), (12, 2^20+12, 0), (20, 2^20+20, 0), (21, 2^20+21, 0)], hbmRes := 200000, ddrAt := ddrBase 0, ddrRes := 4800 }
/-- Words of 4 owner entries that give everything to tenancy 3. -/
def own4 : Nat := 0x8003800380038003
def fox (s : State) : State := { s with
  live := (0x0048000, 0x800300000000) :: lv 3 0x0040108 (2^60-1) :: lv 3 0x0040308 (2^20) :: lv 3 0x0040310 (2^20) ::
    ((List.range 4).map (fun k => (0x0440000 + 8*k, BitVec.ofNat 64 own4)) ++ (List.range 4).map (fun k => (0x0444000 + 8*k, BitVec.ofNat 64 own4)) ++
     (List.range 4).map (fun k => (0x0440000 + 128*48 + 8*k, BitVec.ofNat 64 own4)) ++ (List.range 4).map (fun k => (0x0444000 + 16*48 + 8*k, BitVec.ofNat 64 own4))) ++ s.live }
def hostA (s : State) : State := { s with atc := [{ tenancy := 3, ats := true, port := 0, space := 9, page := 2^30, size := 2^20, target := 2^30, read := true, write := true }], live := lv 3 0x0700000 2 :: s.live }
def withB (b : Burrow) (ws : List Work) : State := fox (hostA { busy ws with burrows := [(2, b)] })
def goOf (g : Gate) : State := match g with | .go s => s | .hold s => s
/-- The state in which a resident function of work 5 acts on a sett of den 0. -/
def settOf (s : State) : State := match s.rerankSett 0 3 with | some k => (goOf (s.takeResident 0 3 k)).leaveUnits 5 settCell | none => s
def row (a : Nat) : Bytes := toLe 4 (0x3F800000 + a * 2^16) ++ toLe 4 0x40000000 ++ toLe 4 0 ++ toLe 4 (0x3F000000)
def ver (tag n : Nat) : TabVersion := { tag, rows := (List.range n).map (fun i => (i, row i)), rowStep := [], kept := [], replicas := [] }
/-- A table of 8 FP32 rows of 4 elements in HBM. -/
def tab : Table :=
  { tenancy := 3, homeDen := 0, fmt := 0, tier := 0, dim := 4, rows := 8, pendRows := 4, cur := ver 7 8, staged := none, old := [], switch := none, doneStep := 2, endStep := 2,
    pending := [], stepEnd := none, markers := [], updFirst := [], holders := [], reads := [], inHbm := [], promoting := [], areas := [] }
def emb (y : List (Nat × Table)) (ws : List Work) : State := { fox (hostA (busy ws)) with tables := y }
/-- The group registers of table 6: 2 shards, this device (rank 1) shard 0, rank 4 shard 1. -/
def egrp (y : Table) : State := { fox (hostA (busy [])) with
  tables := [(6, y)]
  regs := base.regs ++ [(0x080C000, 0), (0x0801020, 0x8001), (groupKey 6 0x0403008, BitVec.ofNat 64 (2 + 2^24 + 8 * 2^32)), (groupKey 6 0x0403010, 5), (groupKey 6 0x0403400, BitVec.ofNat 64 (4 * 2^32)), (groupKey 6 0x0403800, 0x0002000100020002)]
  fabric := { Fabric.reset with members := [0, 1, 4] } }

def s27 : State := egrp (tab)
def v31 : Table := {tab with reads := [(3,1)], tier := 0, promoting := []}
def v33 : Table := {tab with reads := [(3,2)], tier := 1, promoting := []}
def v29 : Table := {tab with reads := [(11,3)], tier := 0, promoting := []}
def v7 : Work := {wk 5 52 1 (desc 0x34 0 1 0 0 0 (toLe 2 6)) with snap := 2}
def v8 : Table := {tab with staged := some (ver 99 8), switch := some (5, 0, false)}
def v16 : Bytes := ((List.range 2).flatMap (fun i => toLe 4 3 ++ toLe 1 0 ++ toLe 3 0))
def v35 : Table := {tab with reads := [(3,1)], tier := 0, promoting := [(3,(0,row 3))]}
def v19 : Work := {wk 5 50 1 (desc 0x32 0 1 0 0 0 (toLe 2 6 ++ toLe 6 0 ++ toLe 8 4)) with snap := 2}
def v21 : Work := {wk 5 50 1 (desc 0x32 0 1 0 0 0 (toLe 2 6 ++ toLe 6 0 ++ toLe 8 3)) with snap := 2}
def v15 : Work := {wk 5 49 1 (desc 0x31 0 1 (2^30) (2^30 + 4096) 0 (toLe 2 6 ++ toLe 2 2)) with snap := 3}
def v4 : Work := {wk 5 52 1 (desc 0x34 0 1 0 0 0 (toLe 2 6 ++ toLe 6 0 ++ toLe 4 99 ++ toLe 4 0)) with snap := 2}
def s18 : State := emb [(6,tab)] [v15]
def s32 : State := {egrp v31 with time := {base.time with now := 0*256}}
def s30 : State := {egrp v29 with time := {base.time with now := 0*256}}
def s34 : State := {egrp v33 with time := {base.time with now := 61*256}}
def v17 : Bytes := ((List.range 2).flatMap (fun i => (List.range 4).flatMap (fun k => toLe 4 (0x3F800000 + k*2^20)) ++ toLe 48 0))
def v11 : Bytes := ((List.range 3).flatMap (fun i => toLe 4 (i+6)) ++ toLe 52 0 ++ (List.range 3).flatMap (fun _ => toLe 4 0x40000000))
def v13 : Bytes := ((List.range 3).flatMap (fun i => toLe 4 (i+0)) ++ toLe 52 0 ++ (List.range 3).flatMap (fun _ => toLe 4 0x40000000))
def s20 : State := emb [(6,{tab with pending := []})] [v19]
def s22 : State := emb [(6,{tab with pending := []})] [v21]
def s37 : State := {egrp v35 with time := {base.time with now := 0*256}}
def s36 : State := {egrp v35 with time := {base.time with now := 64*256}}
def s5 : State := emb [(6,{tab with staged := none})] [v4]
def v10 : Work := {wk 5 48 1 (desc 0x30 0 1 (2^30) 0 (2^30 + 8192) (toLe 2 6 ++ toLe 1 0 ++ toLe 1 0 ++ toLe 2 0 ++ toLe 2 0 ++ toLe 4 3)) with snap := 2}
def s6 : State := emb [(6,{tab with staged := some (ver 99 8)})] [v4]
def v0 : Work := {wk 5 51 1 (desc 0x33 0 1 (2^30) 0 0 (toLe 2 6 ++ toLe 1 0 ++ toLe 1 0 ++ toLe 2 4 ++ toLe 2 0 ++ toLe 4 99 ++ toLe 4 8 ++ toLe 4 4)) with snap := 2}
def v25 : StepEnd := ({ w := 5, step := 3, phase := 1, combined := some 0, newRows := [(3, row 77),(1, row 5)], published := 2, unchanged := 0, unawaited := [] } : StepEnd)
def s12 : State := emb [(6,tab)] [v10]
def s1 : State := emb [] [v0]
def s2 : State := emb [(6,tab)] [v0]
def v23 : Table := {tab with stepEnd := some { w := 5, step := 3, phase := 1, combined := some 0, newRows := [(3, row 77),(1, row 5)], published := 2, unchanged := 0, unawaited := [] }}
def s9 : State := {emb [(6,v8)] [v7] with time := {base.time with now := 0*2^14}}
def s3 : State := { s1 with burrows := [], images := [(77, { residentImage with addr := 320, bytes := 2 ^ 24 - 320 })] }
def v26 : Msg := {msg0 with src := 4, key := 6, target := 6 * 2^52, payload := (toLe 8 3 ++ (toLe 4 3 ++ toLe 1 0 ++ toLe 3 0 ++ (List.range 4).flatMap (fun _ => toLe 4 0x3F800000)) ++ (toLe 4 5 ++ toLe 1 1 ++ toLe 3 0 ++ (List.range 4).flatMap (fun _ => toLe 4 0x3F800000)))}
def v28 : Msg := {msg0 with src := 4, key := 5, target := 6 * 2^52, payload := (toLe 8 3 ++ (toLe 4 3 ++ toLe 1 0 ++ toLe 3 0 ++ (List.range 4).flatMap (fun _ => toLe 4 0x3F800000)) ++ (toLe 4 5 ++ toLe 1 1 ++ toLe 3 0 ++ (List.range 4).flatMap (fun _ => toLe 4 0x3F800000)))}
def s24 : State := {emb [(6,v23)] [v21] with time := {base.time with now := 2^14}}
def s14 : State := (settOf (goOf (((s12.asAdmitted v10 6 0x0403000)).gate v10 (((2^30, gatherBytes (desc 0x30 0 1 (2^30) 0 (2^30 + 8192) (toLe 2 6 ++ toLe 1 0 ++ toLe 1 0 ++ toLe 2 0 ++ toLe 2 0 ++ toLe 4 3)), false) :: [])))))

/-- States and operands that meet the premises of `Obligations.EmbeddingTables`, part 1. -/
theorem witness_EmbeddingTables_1 :
    ((fun (w : Nat) (x : Work) (b0 : Bytes) (s : State) (s' : State) =>
      let d := x.desc
      let tb := descTable d
      let rows := fld d 44 4
      let stride := rowStride (fld d 34 1) (fld d 36 2)
      let b := s'.readAt x (descOp0 d) (rows * stride) b0
      let ok := (List.range rows).all (fun i => rowFinite (fld d 34 1) (fld d 36 2) (slice b (i * stride) stride))
      startable s w x 0x33 ∧ readable s x [(descOp0 d, rows * stride)] s' ∧ s.table tb = none ∧ ok = false) 5 v0 ((toLe 4 0x7F800000 ++ toLe 124 0)) s1 s1) ∧
    ((fun (w : Nat) (x : Work) (y : Table) (b0 : Bytes) (s : State) (s' : State) =>
      let d := x.desc
      let tb := descTable d
      let rows := fld d 44 4
      let stride := rowStride (fld d 34 1) (fld d 36 2)
      let b := s'.readAt x (descOp0 d) (rows * stride) b0
      let ok := (List.range rows).all (fun i => rowFinite (fld d 34 1) (fld d 36 2) (slice b (i * stride) stride))
      startable s w x 0x33 ∧ readable s x [(descOp0 d, rows * stride)] s' ∧ s.table tb = some y ∧ ok = true ∧ y.fmt = fld d 34 1 ∧ y.tier = fld d 35 1 ∧ y.dim = fld d 36 2 ∧ y.rows = rows ∧ y.pendRows = fld d 48 4) 5 v0 tab (((List.range 8).flatMap row)) s2 s2) ∧
    ((fun (w : Nat) (x : Work) (b0 : Bytes) (s : State) (s' : State) =>
      let d := x.desc
      let tb := descTable d
      let rows := fld d 44 4
      let stride := rowStride (fld d 34 1) (fld d 36 2)
      let b := s'.readAt x (descOp0 d) (rows * stride) b0
      let ok := (List.range rows).all (fun i => rowFinite (fld d 34 1) (fld d 36 2) (slice b (i * stride) stride))
      startable s w x 0x33 ∧ readable s x [(descOp0 d, rows * stride)] s' ∧ s.table tb = none ∧ ok = true ∧ (s'.tableAreas x.tenancy (fld d 35 1) s'.newTableDen rows (fld d 48 4) stride (fld d 36 2)).isSome = true) 5 v0 (((List.range 8).flatMap row)) s3 s3) ∧
    ((fun (w : Nat) (x : Work) (y : Table) (s : State) =>
      let d := x.desc
      let tb := descTable d
      startable s w x 0x34 ∧ s.table tb = some y ∧ y.switch = none ∧ (y.staged.any (fun v => v.tag == fld d 40 4) = false)) 5 v4 ({tab with staged := none}) s5) ∧
    ((fun (w : Nat) (x : Work) (y : Table) (s : State) =>
      let d := x.desc
      let tb := descTable d
      startable s w x 0x34 ∧ s.table tb = some y ∧ y.switch = none ∧ (y.staged.any (fun v => v.tag == fld d 40 4) = true) ∧ s.unapplied tb y x = false ∧ fld d 44 4 = 0) 5 v4 ({tab with staged := some (ver 99 8)}) s6) ∧
    ((fun (w : Nat) (x : Work) (y : Table) (s : State) (i : Nat) (v : TabVersion) (f : Nat) (late : Bool) =>
      s.table i = some y ∧ y.switch = some (w, f, late) ∧ y.staged = some v ∧ f ≤ s.frame ∧ s.work w = some x) 5 v7 v8 s9 6 ((ver 99 8)) 0 false) := by
  refine ⟨by decide +kernel, by decide +kernel, ⟨by decide +kernel, by decide +kernel, by decide +kernel, by decide +kernel, State.tableAreas_isSome (a := 0) (by decide +kernel) (State.pick_only (by decide +kernel) (by decide +kernel)) (by decide +kernel)⟩, by decide +kernel, by decide +kernel, by decide +kernel⟩

/-- States and operands that meet the premises of `Obligations.EmbeddingTables`, part 2. -/
theorem witness_EmbeddingTables_2 :
    ((fun (w : Nat) (x : Work) (y : Table) (b0 : Bytes) (s : State) (s' : State) =>
      let d := x.desc
      let tb := descTable d
      let u := s.asAdmitted x tb 0x0403000
      let n := fld d 40 4
      let idx := (List.range n).map (fun i => fld (slice b0 0 (gatherBytes d)) (4 * i) 4)
      startable s w x 0x30 ∧ s.table tb = some y ∧ addrClass (descOp0 d) = 0 ∧ addrClass (descOp1 d) = 0 ∧ addrClass (descRes d) = 0 ∧ (letThrough u x (((descOp0 d, gatherBytes d) :: (if fld d 34 1 = 0 then [] else [(descOp1 d, 4 * (fld d 36 2 + 1))])).map
        (fun r => (r.1, r.2, false))) s') ∧ (y.areas.any (fun a => s'.poisonedIn a.1 a.2) = false) ∧ (idx.any (fun r => !s'.rowKnown tb y r) = true)) 5 v10 tab v11 s12 s12) ∧
    ((fun (w : Nat) (x : Work) (y : Table) (b0 : Bytes) (b1 : Bytes) (s : State) (s' : State) (s1 : State) (s'' : State) =>
      let d := x.desc
      let tb := descTable d
      let u := s.asAdmitted x tb 0x0403000
      let n := fld d 40 4
      let pool := fld d 34 1
      let idx := (List.range n).map (fun i => fld (slice b0 0 (gatherBytes d)) (4 * i) 4)
      let offs := (List.range (fld d 36 2 + 1)).map (fun i => fld (slice b1 0 (4 * (fld d 36 2 + 1))) (4 * i) 4)
      let bags := if pool = 0 then n else fld d 36 2
      let size := y.dim * (if fld d 35 1 = 0 then 4 else 2)
      startable s w x 0x30 ∧ s.table tb = some y ∧ addrClass (descOp0 d) = 0 ∧ addrClass (descOp1 d) = 0 ∧ addrClass (descRes d) = 0 ∧ (letThrough u x (((descOp0 d, gatherBytes d) :: (if fld d 34 1 = 0 then [] else [(descOp1 d, 4 * (fld d 36 2 + 1))])).map
        (fun r => (r.1, r.2, false))) s') ∧ (y.areas.any (fun a => s'.poisonedIn a.1 a.2) = false) ∧ (idx.all (fun r => s'.rowKnown tb y r) = true) ∧ (pool = 0 ∨ offsetsLegal offs n = true) ∧ (offs.all (fun o => decide (o ≤ n)) = true) ∧ (idx.all (fun r => (s'.gatherRow x tb y r).isSome) = true) ∧ hasSett s' w y.homeDen x.tenancy s1 ∧ (letThrough s1 x ((List.range bags).map (fun j => (descRes d + j * roundup size 64, size, true))) s'') ∧ clear x s'' ∧ sends s'' x.port ∧ 0 < size) 5 v10 tab v13 ((toLe 4 0 ++ toLe 4 1 ++ toLe 4 3)) s12 s12 s14 s14) ∧
    ((fun (w : Nat) (x : Work) (y : Table) (b0 : Bytes) (b1 : Bytes) (s : State) (s' : State) =>
      let d := x.desc
      let tb := descTable d
      let u := s.asAdmitted x tb 0x0403000
      let n := fld d 34 2
      let stride := roundup (4 * y.dim) 64
      let r := s'.readAt x (descOp0 d) (8 * n) b0
      let v := s'.readAt x (descOp1 d) (n * stride) b1
      let recs := (List.range n).map (fun i =>
        (fld r (8 * i) 4, fld r (8 * i + 4) 1, (List.range y.dim).map (fun e => fld v (i * stride + 4 * e) 4)))
      let z := recs.foldl (fun z e => z.update x.snap s'.myRank e.1 e.2.1 e.2.2) y
      startable s w x 0x31 ∧ s.table tb = some y ∧ ((s.works.takeWhile (fun z => z.id != w)).any (fun z => z.opcode == 0x31 && descTable z.desc == tb && z.result.isNone) = false) ∧ readable s x [(descOp0 d, 8 * n), (descOp1 d, n * stride)] s' ∧ ((List.range n).all (fun i => s'.rowKnown tb y (fld r (8 * i) 4) && decide (fld r (8 * i + 4) 1 ≤ 1) && zeroRange r (8 * i + 5) 3) = true) ∧ (recs.all (fun e => e.2.2.all (fun u => (f32 u).isFinite)) = true) ∧ ((z.pending.filter (fun p => p.step == x.snap && p.src == s'.myRank)).length ≤ y.pendRows)) 5 v15 tab v16 v17 s18 s18) ∧
    ((fun (w : Nat) (x : Work) (y : Table) (s : State) =>
      let d := x.desc
      let tb := descTable d
      startable s w x 0x32 ∧ s.table tb = some y ∧ y.stepEnd = none ∧ fld d 40 8 ≠ y.doneStep + 1) 5 v19 ({tab with pending := []}) s20) ∧
    ((fun (w : Nat) (x : Work) (y : Table) (s : State) =>
      let d := x.desc
      let tb := descTable d
      startable s w x 0x32 ∧ s.table tb = some y ∧ y.stepEnd = none ∧ fld d 40 8 = y.doneStep + 1 ∧ (s.works.any (fun z => descTable z.desc == tb && z.result.isNone &&
          ((z.opcode == 0x31 && z.snap == fld d 40 8) || (z.opcode == 0x30 && decide (z.snap + 1 < fld d 40 8)))) = false)) 5 v21 ({tab with pending := []}) s22) ∧
    ((fun (y : Table) (s : State) (i : Nat) (e : StepEnd) (f : Nat) =>
      s.table i = some y ∧ y.stepEnd = some e ∧ e.phase = 1 ∧ e.combined = some f ∧ f < s.frame ∧ s.time.lastFrame < s.frame ∧ s.embSize i = 1 ∧ (e.newRows.map (·.1)).Nodup) v23 s24 6 v25 0) := by
  refine ⟨by decide +kernel, ⟨by decide +kernel, by decide +kernel, by decide +kernel, by decide +kernel, by decide +kernel, by decide +kernel, by decide +kernel, by decide +kernel, by decide +kernel, by decide +kernel, by decide +kernel, settOf_ (by decide +kernel), by decide +kernel, by decide +kernel, by decide +kernel, by decide +kernel⟩, by decide +kernel, by decide +kernel, by decide +kernel, by decide +kernel⟩

/-- States and operands that meet the premises of `Obligations.TableGroupsAndHotRows`, part 1. -/
theorem witness_TableGroupsAndHotRows_1 :
    ((fun (port : Nat) (m : Msg) (y : Table) (s : State) =>
      let i := m.target / 2 ^ 52
      accepts s port 0x28 m ∧ s.table i = some y ∧ m.key ≠ s.embKey i) 1 v26 tab s27) ∧
    ((fun (port : Nat) (m : Msg) (y : Table) (s : State) =>
      let i := m.target / 2 ^ 52
      accepts s port 0x29 m ∧ s.table i = some y ∧ m.key ≠ s.embKey i) 1 v26 tab s27) ∧
    ((fun (port : Nat) (m : Msg) (y : Table) (s : State) =>
      let i := m.target / 2 ^ 52
      accepts s port 0x2A m ∧ s.table i = some y ∧ m.key ≠ s.embKey i) 1 v26 tab s27) ∧
    ((fun (port : Nat) (m : Msg) (y : Table) (s : State) =>
      let i := m.target / 2 ^ 52
      accepts s port 0x28 m ∧ s.table i = some y ∧ m.key = s.embKey i ∧ 1 < s.embSize i) 1 v28 tab s27) ∧
    ((fun (port : Nat) (m : Msg) (y : Table) (s : State) =>
      let i := m.target / 2 ^ 52
      accepts s port 0x29 m ∧ s.table i = some y ∧ m.key = s.embKey i ∧ 1 < s.embSize i ∧ y.stepEnd = none ∧ y.doneStep < fld m.payload 0 8 ∧ y.markers.contains (fld m.payload 0 8, fld m.payload 8 1, markerOf m) = false) 1 v28 tab s27) ∧
    ((fun (port : Nat) (m : Msg) (y : Table) (s : State) =>
      let i := m.target / 2 ^ 52
      accepts s port 0x2A m ∧ s.table i = some y ∧ m.key = s.embKey i ∧ 1 < s.embSize i) 1 v28 tab s27) := by
  refine ⟨by decide +kernel, by decide +kernel, by decide +kernel, by decide +kernel, by decide +kernel, by decide +kernel⟩

/-- States and operands that meet the premises of `Obligations.TableGroupsAndHotRows`, part 2. -/
theorem witness_TableGroupsAndHotRows_2 :
    ((fun (y : Table) (tb : Nat) (row : Nat) (s : State) (home : Nat) =>
      s.table tb = some y ∧ s.hotCtl tb 15 0 ≠ 0 ∧ s.hotCtl tb 15 0 < tgetD y.reads row 0 ∧ ((y.cur.replicas.filter (fun r => !s.rowHere tb r.1)).length < s.hotCtl tb 31 16) ∧ s.rowKnown tb y row = true ∧ s.rowHere tb row = false ∧ tget y.cur.replicas row = none ∧ s.rowAsked noWork row = false ∧ s.shardHome tb (s.rowShard tb row) = some home ∧ (s.routePort home).isSome = true ∧ 0 < rowStride y.fmt y.dim) v29 6 11 s30 4) ∧
    ((fun (y : Table) (tb : Nat) (row : Nat) (s : State) =>
      s.table tb = some y ∧ tgetD y.reads row 0 ≤ s.hotCtl tb 15 0) v31 6 3 s32) ∧
    ((fun (y : Table) (tb : Nat) (row : Nat) (s : State) =>
      s.table tb = some y ∧ y.tier = 1 ∧ s.hotCtl tb 47 32 ≠ 0 ∧ s.hotCtl tb 47 32 < tgetD y.reads row 0 ∧ y.inHbm.length + y.promoting.length < s.hotCtl tb 63 48 ∧ s.rowHere tb row = true ∧ y.inHbm.contains row = false ∧ tget y.promoting row = none ∧ s.bgServes (denMap y.homeDen) y.tenancy = true) v33 6 3 s34) ∧
    ((fun (y : Table) (tb : Nat) (row : Nat) (s : State) =>
      s.table tb = some y ∧ tgetD y.reads row 0 ≤ s.hotCtl tb 47 32) v31 6 3 s32) ∧
    ((fun (y : Table) (tb : Nat) (row : Nat) (s : State) (f : Nat) (b : Bytes) =>
      s.table tb = some y ∧ tget y.promoting row = some (f, b) ∧ f < s.frame) v35 6 3 s36 0 ((row 3))) ∧
    ((fun (y : Table) (tb : Nat) (row : Nat) (s : State) (f : Nat) (b : Bytes) =>
      s.table tb = some y ∧ tget y.promoting row = some (f, b) ∧ s.frame ≤ f) v35 6 3 s37 0 ((row 3))) := by
  refine ⟨by decide +kernel, by decide +kernel, by decide +kernel, by decide +kernel, by decide +kernel, by decide +kernel⟩

end W06


namespace W07

def bit1 (k : Nat) (kids : Nat) : BodyItem := { key := k, attr := k % 3, code := toLe 4 (k * 0x1234567), slot := 2^20 + k, tomb := false }
/-- The one leaf of burrow 2, at byte 0 of HBM. -/
def leaf0 : Leaf :=
  { Leaf.empty with
    root := true, items := [bit1 10 0, bit1 11 0, bit1 12 0], version := 1, stack := 0, mergeSeq := 1
    side := [{ addr := 65536, entries := [.insert (2^20 + 20) 2 20 1 (toLe 4 0xABCDEF), .tomb 0 1 3 11, .insert (2^20 + 21) 4 21 1 (toLe 4 0x1111)] }] }
/-- An L2 burrow of 8 FP16 dimensions with 4-bit codes, home den 0. -/
def bur : Burrow :=
  { Burrow.free with
    state := 1, vecFmt := 1, metric := 0, pqBits := 4, dim := 8, pqM := 8, tenancy := 3, maxNprobe := 4, fanoutMax := 4, root := 0, rootLeaf := true
    codebookAt := 131072, maxItems := 100, items := 4, leafMax := 2, sideMax := 64, nextSeq := 5, snapSeq := 4, slotBase := 2^20, slotCount := 2^20
    codebook := (List.range 128).map (fun i => 0x3F80 + i), leaves := [(0, leaf0)], slotNext := 30
    itemMap := [(10, 2^20+10, 0), (12, 2^20+12, 0), (20, 2^20+20, 0), (21, 2^20+21, 0)], hbmRes := 200000, ddrAt := ddrBase 0, ddrRes := 4800 }
/-- Words of 4 owner entries that give everything to tenancy 3. -/
def own4 : Nat := 0x8003800380038003
def fox (s : State) : State := { s with
  live := (0x0048000, 0x800300000000) :: lv 3 0x0040108 (2^60-1) :: lv 3 0x0040308 (2^20) :: lv 3 0x0040310 (2^20) ::
    ((List.range 4).map (fun k => (0x0440000 + 8*k, BitVec.ofNat 64 own4)) ++ (List.range 4).map (fun k => (0x0444000 + 8*k, BitVec.ofNat 64 own4)) ++
     (List.range 4).map (fun k => (0x0440000 + 128*48 + 8*k, BitVec.ofNat 64 own4)) ++ (List.range 4).map (fun k => (0x0444000 + 16*48 + 8*k, BitVec.ofNat 64 own4))) ++ s.live }
def hostA (s : State) : State := { s with atc := [{ tenancy := 3, ats := true, port := 0, space := 9, page := 2^30, size := 2^20, target := 2^30, read := true, write := true }], live := lv 3 0x0700000 2 :: s.live }
def withB (b : Burrow) (ws : List Work) : State := fox (hostA { busy ws with burrows := [(2, b)] })
def goOf (g : Gate) : State := match g with | .go s => s | .hold s => s
/-- The state in which a resident function of work 5 acts on a sett of den 0. -/
def settOf (s : State) : State := match s.rerankSett 0 3 with | some k => (goOf (s.takeResident 0 3 k)).leaveUnits 5 settCell | none => s
/-- A LIVE T1 tensor of 128 bytes, entry 9, generation 2. -/
def ten1 : Tensor := { state := 1, tier := 1, elem := 0, homeDen := 0, gen := 2, bytes := 128, name := 77, stored := 128, loc := 2^20, thBytes := 0, tenancy := 3, ownerCtx := 1, lastFrame := 0, pasid := 0, port := 0, thAddr := 0, writers := 4 }
def hd9 : Nat := 2 * 2^20 + 9
/-- An entry of the order of works on tensors. -/
def tj (w : Nat) (writer : Bool) (target : Nat) (started : Bool) : TensorJob := { handle := hd9, w, tenancy := 3, trail := none, hold := none, create := false, writer, moves := true, target, started, move := none, dest := none, room := 0, before := w, ready := 0, sent := none, failed := none }
def tens (ts : List (Nat × Tensor)) (js : List TensorJob) (ws : List Work) : State :=
  let s := fox (hostA (busy ws))
  { s with tensors := ts, jobs := js, ctxs := [(1, { actx with qTensorBytes := 2^20 })]
           live := lv 3 0x0040300 (8 + 64 * 2^32) :: (0x0500300, 0x8003) :: (0x0500320, 0x8003) :: (List.range 32).map (fun k => (0x0500300 + 8 * k, 0x8003)) ++ s.live
           memory := (List.range 200).map (fun i => (2^20 + i, BitVec.ofNat 8 (i % 255 + 1))) }
/-- The state once the slots of places in HBM have served job `j` of work 5. -/
def served (s : State) (j : TensorJob) (l : List (Nat × Nat)) : State := goOf (s.passAll 5 (jobCell j) 3 (s.squirrelUnits 0 l))

def v37 : Work := wk 5 0x24 1 (desc 0x24 0 1 (2^30) 0 0 (toLe 2 2))
def v25 : TensorJob := {tj 5 true 0 false with create := true, handle := 0}
def v11 : Tensor := {ten1 with tier := 2, loc := ddrBase 0, stored := 64}
def v32 : TensorJob := {tj 5 true 1 true with dest := some 4096, room := 128}
def v21 : Work := wk 5 33 1 (desc 0x21 0 1 0 0 0 (toLe 4 hd9 ++ toLe 1 2))
def v28 : Work := wk 5 33 1 (desc 0x21 0 1 0 0 0 (toLe 4 hd9 ++ toLe 1 1))
def v31 : Tensor := {ten1 with state := 2, tier := 2, stored := 320, loc := 2^20}
def v5 : TensorJob := { tj 5 true 0 true with create := true, handle := 3 * 2^20 + 8 }
def s48 : State := {tens [(9,ten1)] [] [] with holds := [(⟨4,hd9,0,2,3⟩ : TrailHold)]}
def s49 : State := {tens [(9,ten1)] [] [] with holds := [(⟨4,hd9,0,2,4⟩ : TrailHold)]}
def v43 : Trail := (⟨5,[(⟨hd9,1,500,0,0,0,none⟩ : TrailEntry),⟨hd9,1,500,0,0,0,none⟩]⟩ : Trail)
def v46 : Trail := (⟨5,[(⟨hd9,2,500,0,0,0,none⟩ : TrailEntry),⟨hd9,1,500,0,0,0,none⟩]⟩ : Trail)
def v41 : Trail := (⟨5,[(⟨hd9,1,500,0,100,0,none⟩ : TrailEntry),⟨hd9,1,500,0,0,0,none⟩]⟩ : Trail)
def v13 : Work := wk 5 34 1 (desc 0x22 0 1 0 0 (2^30) (toLe 4 hd9 ++ toLe 4 0 ++ toLe 8 0 ++ toLe 8 128))
def v17 : Work := wk 5 35 1 (desc 0x23 0 1 (2^30) 0 0 (toLe 4 hd9 ++ toLe 4 0 ++ toLe 8 0 ++ toLe 8 128))
def s29 : State := tens [(9,ten1)] ([] ++ [tj 5 true 1 true]) [v28]
def s30 : State := tens [(9,ten1)] ([] ++ [tj 5 true 2 true]) [v21]
def s27 : State := tens [(9,ten1)] ([] ++ [tj 5 true 2 false]) [v21]
def s39 : State := {tens [(9,ten1)] [] [v37] with time := {base.time with now := 1000}}
def v8 : Work := wk 5 32 1 (desc 0x20 0 1 0 0 0 (toLe 4 hd9 ++ toLe 1 0 ++ toLe 1 0 ++ toLe 1 1 ++ toLe 1 0 ++ toLe 8 0 ++ toLe 8 0))
def v24 : Work := wk 5 32 1 (desc 0x20 0 1 0 0 0 (toLe 4 0 ++ toLe 1 1 ++ toLe 1 0 ++ toLe 1 0 ++ toLe 1 0 ++ toLe 8 128 ++ toLe 8 5))
def v4 : Work := wk 5 0x20 1 (desc 0x20 0 1 0 0 0 (toLe 4 0 ++ toLe 1 1 ++ toLe 1 0 ++ toLe 1 0 ++ toLe 1 0 ++ toLe 8 128 ++ toLe 8 5))
def v2 : Work := wk 5 0x20 1 (desc 0x20 0 1 0 0 0 (toLe 4 0 ++ toLe 1 1 ++ toLe 1 0 ++ toLe 1 0 ++ toLe 1 0 ++ toLe 8 128 ++ toLe 8 77))
def s22 : State := tens [(9,ten1)] ([tj 4 true 2 false] ++ [tj 5 true 2 false]) [v21]
def v0 : Work := wk 5 0x20 1 (desc 0x20 0 1 0 0 0 (toLe 4 0 ++ toLe 1 1 ++ toLe 1 0 ++ toLe 1 0 ++ toLe 1 0 ++ toLe 8 (2^21) ++ toLe 8 5))
def s18 : State := tens [] ([] ++ [tj 5 true 0 true]) [v17]
def s14 : State := tens [] ([] ++ [tj 5 false 0 true]) [v13]
def v38 : Bytes := ((toLe 4 hd9 ++ toLe 1 2 ++ toLe 3 0 ++ toLe 8 1000 ++ toLe 16 0)++(toLe 4 hd9 ++ toLe 1 1 ++ toLe 3 0 ++ toLe 8 500 ++ toLe 16 0))
def s19 : State := tens [(9,ten1)] ([] ++ [tj 5 true 0 true]) [v17]
def v40 : Bytes := ((toLe 4 hd9 ++ toLe 1 2 ++ toLe 3 0 ++ toLe 8 1000 ++ toLe 16 0)++(toLe 4 hd9 ++ toLe 1 1 ++ toLe 3 0 ++ toLe 8 2000 ++ toLe 16 0))
def s15 : State := tens [(9,ten1)] ([] ++ [tj 5 false 0 true]) [v13]
def s23 : State := tens [(9,ten1)] ([] ++ [tj 5 false 0 false]) [v13]
def s3 : State := tens [(9,ten1)] [] [wk 4 0x21 1 [], v2]
def s1 : State := tens [(9,ten1)] [] [wk 4 0x21 1 [], v0]
def s44 : State := {tens [] [] [v37] with trails := [v43]}
def s42 : State := {tens [] [] [v37] with trails := [v41]}
def s45 : State := {tens [(9,ten1)] [] [v37] with trails := [v43]}
def s47 : State := {tens [(9,ten1)] [] [v37] with trails := [v46]}
def s10 : State := tens [] ([] ++ [{tj 5 true 0 false with moves := false}]) [v8]
def s26 : State := tens [(9,ten1)] ([] ++ [v25]) [v24]
def s12 : State := tens [(9,v11)] ([] ++ [{tj 5 true 0 false with moves := false}]) [v8]
def s9 : State := tens [(9,v11)] ([tj 4 true 2 false] ++ [{tj 5 true 0 false with moves := false}]) [v8]
def s33 : State := { (tens [(9,v31)] ([] ++ [v32]) [v28]) with memory := memWrite [] (2^20) (streamOf 0 128 [rawBlk (List.replicate 128 6)]), poison := [] }
def s20 : State := (served ((goOf (s19.gate v17 ([(2^30,128,false)])))) (tj 5 true 0 true) [(2^20 + 0, 128)])
def s16 : State := (served ((goOf (s15.gate v13 ([(2^30,128,true)])))) (tj 5 false 0 true) [(2^20 + 0, 128)])
def s35 : State := { (tens [(9,v31)] ([] ++ [v32]) [v28]) with memory := memWrite [] (2^20) (streamOf 0 128 [rawBlk (List.replicate 128 6)]), poison := [2^20/64+2] }
def s6 : State := { tens [(9,ten1)] [v5] [v4] with images := [(77, { residentImage with addr := 0, bytes := 2 ^ 21 }), (78, { residentImage with addr := 2 ^ 21 + 128, bytes := 2 ^ 24 - 2 ^ 21 - 128 })] }
def s34 : State := (served s33 v32 [(4096,128)])
def s36 : State := (served s35 v32 [(4096,128)])
def s7 : State := served s6 v5 [(2^21,128)]

/-- States and operands that meet the premises of `Obligations.StoredBlocksDecodeToTheirBytes`. -/
theorem witness_StoredBlocksDecodeToTheirBytes :
    (fun (elem : Nat) (raw : Bytes) =>
      elem ≤ 7 ∧ 1 ≤ raw.length ∧ raw.length ≤ 65536) 0 [5] := by decide +kernel

/-- States and operands that meet the premises of `Obligations.TensorObjects`, part 1. -/
theorem witness_TensorObjects_1 :
    ((fun (w : Nat) (x : Work) (s : State) =>
      let d : Bytes := x.desc
      startable s w x 0x20 ∧ fld d 38 1 = 0 ∧ (s.jobs.any (fun k => k.w == w && k.create && k.started) = false) ∧ (s.ctx x.ctx).qTensorBytes < s.tensorBytes x.ctx + fld d 40 8) 5 v0 s1) ∧
    ((fun (w : Nat) (x : Work) (s : State) =>
      let d : Bytes := x.desc
      startable s w x 0x20 ∧ fld d 38 1 = 0 ∧ (s.jobs.any (fun k => k.w == w && k.create && k.started) = false) ∧ s.tensorBytes x.ctx + fld d 40 8 ≤ (s.ctx x.ctx).qTensorBytes ∧ (s.tensors.any (fun e => e.2.state != 0 && e.2.tenancy == x.tenancy && e.2.name == fld d 48 8) = true)) 5 v2 s3) ∧
    ((fun (w : Nat) (a : Nat) (x : Work) (j : TensorJob) (s : State) (s' : State) =>
      let d : Bytes := x.desc
      let mine := fun (k : TensorJob) => k.w == w && k.trail.isNone && k.hold.isNone
      let started := s.jobs.find? mine = some j ∧ j.started = true ∧ j.moves = true ∧ j.sent = none
      startable s w x 0x20 ∧ fld d 38 1 = 0 ∧ started ∧ j.create = true ∧ descOp0 d = 0 ∧ fld d 36 1 = 1 ∧ fld d 40 8 ≤ s.hbmFree x.tenancy ∧ s.pick (s.hbmUse x.tenancy (s.tensorDen x.port / 4)) (fld d 40 8) 64 = some a ∧ servedBy s w (jobCell j) x.tenancy [] (s.squirrelUnits (s.tensorDen x.port) [(a, fld d 40 8)]) s') 5 ((2^21)) v4 v5 s6 s7) ∧
    ((fun (w : Nat) (x : Work) (j : TensorJob) (before : List TensorJob) (s : State) =>
      let d : Bytes := x.desc
      let mine := fun (k : TensorJob) => k.w == w && k.trail.isNone && k.hold.isNone
      startable s w x 0x20 ∧ fld d 38 1 = 1 ∧ s.findJob mine = some (before, j) ∧ jobReady before j = false) 5 v8 ({tj 5 true 0 false with moves := false}) ([tj 4 true 2 false]) s9) ∧
    ((fun (w : Nat) (x : Work) (j : TensorJob) (before : List TensorJob) (s : State) =>
      let d : Bytes := x.desc
      let h := fld d 32 4
      let mine := fun (k : TensorJob) => k.w == w && k.trail.isNone && k.hold.isNone
      startable s w x 0x20 ∧ fld d 38 1 = 1 ∧ s.findJob mine = some (before, j) ∧ jobReady before j = true ∧ s.tensorOf x.tenancy h = none) 5 v8 ({tj 5 true 0 false with moves := false}) [] s10) ∧
    ((fun (w : Nat) (x : Work) (y : Tensor) (j : TensorJob) (before : List TensorJob) (s : State) =>
      let d : Bytes := x.desc
      let h := fld d 32 4
      let mine := fun (k : TensorJob) => k.w == w && k.trail.isNone && k.hold.isNone
      startable s w x 0x20 ∧ fld d 38 1 = 1 ∧ s.findJob mine = some (before, j) ∧ jobReady before j = true ∧ s.tensorOf x.tenancy h = some y ∧ y.tier = 2) 5 v8 v11 ({tj 5 true 0 false with moves := false}) [] s12) := by
  refine ⟨by decide +kernel, by decide +kernel, ⟨by decide +kernel, by decide +kernel, by decide +kernel, by decide +kernel, by decide +kernel, by decide +kernel, by decide +kernel, State.pick_only (by decide +kernel) (by decide +kernel), servedOf_ (by decide +kernel)⟩, by decide +kernel, by decide +kernel, by decide +kernel⟩

/-- States and operands that meet the premises of `Obligations.TensorObjects`, part 2. -/
theorem witness_TensorObjects_2 :
    ((fun (w : Nat) (x : Work) (j : TensorJob) (s : State) =>
      let mine := fun (k : TensorJob) => k.w == w && k.trail.isNone && k.hold.isNone
      let started := s.jobs.find? mine = some j ∧ j.started = true ∧ j.moves = true ∧ j.sent = none
      startable s w x 0x22 ∧ started ∧ s.tensorOf x.tenancy j.handle = none) 5 v13 (tj 5 false 0 true) s14) ∧
    ((fun (w : Nat) (x : Work) (y : Tensor) (j : TensorJob) (s : State) (s1 : State) (s' : State) =>
      let d : Bytes := x.desc
      let n := fld d 48 8
      let off := fld d 40 8
      let mine := fun (k : TensorJob) => k.w == w && k.trail.isNone && k.hold.isNone
      let started := s.jobs.find? mine = some j ∧ j.started = true ∧ j.moves = true ∧ j.sent = none
      startable s w x 0x22 ∧ started ∧ s.tensorOf x.tenancy j.handle = some y ∧ y.tier = 1 ∧ 0 < n ∧ off + n ≤ y.bytes ∧ off % 65536 = 0 ∧ addrClass (descRes d) = 0 ∧ letThrough s x [(descRes d, n, true)] s1 ∧ servedBy s1 w (jobCell j) y.tenancy [] (s1.squirrelUnits y.homeDen [(y.loc + off, n)]) s' ∧ clear x s' ∧ sends s x.port ∧ s.poisonedIn y.loc y.bytes = false) 5 v13 ten1 (tj 5 false 0 true) s15 s15 s16) ∧
    ((fun (w : Nat) (x : Work) (j : TensorJob) (s : State) =>
      let mine := fun (k : TensorJob) => k.w == w && k.trail.isNone && k.hold.isNone
      let started := s.jobs.find? mine = some j ∧ j.started = true ∧ j.moves = true ∧ j.sent = none
      startable s w x 0x23 ∧ started ∧ s.tensorOf x.tenancy j.handle = none) 5 v17 (tj 5 true 0 true) s18) ∧
    ((fun (w : Nat) (x : Work) (y : Tensor) (j : TensorJob) (s : State) (s1 : State) (s' : State) =>
      let d : Bytes := x.desc
      let n := fld d 48 8
      let off := fld d 40 8
      let mine := fun (k : TensorJob) => k.w == w && k.trail.isNone && k.hold.isNone
      let started := s.jobs.find? mine = some j ∧ j.started = true ∧ j.moves = true ∧ j.sent = none
      startable s w x 0x23 ∧ started ∧ s.tensorOf x.tenancy j.handle = some y ∧ y.tier = 1 ∧ off + n ≤ y.bytes ∧ addrClass (descOp0 d) = 0 ∧ letThrough s x [(descOp0 d, n, false)] s1 ∧ servedBy s1 w (jobCell j) y.tenancy [] (s1.squirrelUnits y.homeDen [(y.loc + off, n)]) s' ∧ s.firstTouch = []) 5 v17 ten1 (tj 5 true 0 true) s19 s19 s20) := by
  refine ⟨by decide +kernel, ⟨by decide +kernel, by decide +kernel, by decide +kernel, by decide +kernel, by decide +kernel, by decide +kernel, by decide +kernel, by decide +kernel, by decide +kernel, servedOf_ (by decide +kernel), by decide +kernel, by decide +kernel, by decide +kernel⟩, by decide +kernel, ⟨by decide +kernel, by decide +kernel, by decide +kernel, by decide +kernel, by decide +kernel, by decide +kernel, by decide +kernel, servedOf_ (by decide +kernel), by decide +kernel⟩⟩

/-- States and operands that meet the premises of `Obligations.MovesAndTrails`, part 1. -/
theorem witness_MovesAndTrails_1 :
    ((fun (w : Nat) (handle : Nat) (x : Work) (j : TensorJob) (before : List TensorJob) (s : State) =>
      let fresh := fun (k : TensorJob) => k.w == w && (k.handle == handle || k.create) && !k.started
      s.findJob fresh = some (before, j) ∧ s.work w = some x ∧ s.jobOpen before j = false) 5 hd9 v21 (tj 5 true 2 false) ([tj 4 true 2 false]) s22) ∧
    ((fun (w : Nat) (handle : Nat) (q : Nat) (c : Nat) (x : Work) (j : TensorJob) (before : List TensorJob) (s : State) =>
      let fresh := fun (k : TensorJob) => k.w == w && (k.handle == handle || k.create) && !k.started
      s.findJob fresh = some (before, j) ∧ s.work w = some x ∧ s.jobOpen before j = true ∧ j.trail = none ∧ j.hold = none ∧ j.moves = true ∧ s.jobSquirrel j = some q ∧ s.waitsBefore j q = false ∧ s.freeMoveCtx j.tenancy q = some c ∧ j.create = false ∧ j.target = 0) 5 hd9 1 0 v13 (tj 5 false 0 false) [] s23) ∧
    ((fun (w : Nat) (handle : Nat) (q : Nat) (c : Nat) (i : Nat) (x : Work) (j : TensorJob) (before : List TensorJob) (s : State) =>
      let fresh := fun (k : TensorJob) => k.w == w && (k.handle == handle || k.create) && !k.started
      s.findJob fresh = some (before, j) ∧ s.work w = some x ∧ s.jobOpen before j = true ∧ j.trail = none ∧ j.hold = none ∧ j.moves = true ∧ s.jobSquirrel j = some q ∧ s.waitsBefore j q = false ∧ s.freeMoveCtx j.tenancy q = some c ∧ j.create = true ∧ j.target = 0 ∧ s.freeTensorIx j.tenancy = some i) 5 hd9 0 0 8 v24 v25 [] s26) ∧
    ((fun (w : Nat) (handle : Nat) (q : Nat) (c : Nat) (a : Nat) (r : Nat) (x : Work) (y : Tensor) (j : TensorJob) (before : List TensorJob) (s : State) =>
      let d : Bytes := x.desc
      let fresh := fun (k : TensorJob) => k.w == w && (k.handle == handle || k.create) && !k.started
      s.findJob fresh = some (before, j) ∧ s.work w = some x ∧ s.jobOpen before j = true ∧ j.trail = none ∧ j.hold = none ∧ j.moves = true ∧ s.jobSquirrel j = some q ∧ s.waitsBefore j q = false ∧ s.freeMoveCtx j.tenancy q = some c ∧ j.create = false ∧ j.target ≠ 0 ∧ s.tensorOf j.tenancy j.handle = some y ∧ recordChecks y d = [] ∧ y.tier ≠ j.target ∧ s.roomFor y.tenancy y.die j.target y.bytes (if y.tier = 1 then streamLen (s.storedBlocks y []) else y.stored) = .ok a r) 5 hd9 1 0 ((s27.pick (s27.ddrAllot 3 0) (roundup (wcStream 128) 4096) 4096).getD 0) (roundup (wcStream 128) 4096) v21 ten1 (tj 5 true 2 false) [] s27) ∧
    ((fun (w : Nat) (x : Work) (y : Tensor) (j : TensorJob) (s : State) =>
      let d : Bytes := x.desc
      let mine := fun (k : TensorJob) => k.w == w && k.trail.isNone && k.hold.isNone
      startable s w x 0x21 ∧ s.jobs.find? mine = some j ∧ j.moves = true ∧ j.started = true ∧ s.tensorOf x.tenancy j.handle = some y ∧ y.state = 1 ∧ recordChecks y d = [] ∧ y.tier = j.target) 5 v28 ten1 (tj 5 true 1 true) s29) ∧
    ((fun (w : Nat) (a : Nat) (r : Nat) (x : Work) (y : Tensor) (j : TensorJob) (s : State) =>
      let d : Bytes := x.desc
      let mine := fun (k : TensorJob) => k.w == w && k.trail.isNone && k.hold.isNone
      startable s w x 0x21 ∧ s.jobs.find? mine = some j ∧ j.moves = true ∧ j.started = true ∧ s.tensorOf x.tenancy j.handle = some y ∧ y.state = 1 ∧ recordChecks y d = [] ∧ y.tier ≠ j.target ∧ s.roomFor y.tenancy y.die j.target y.bytes (if y.tier = 1 then streamLen (s.storedBlocks y []) else y.stored) = .ok a r) 5 ((s30.pick (s30.ddrAllot 3 0) (roundup (wcStream 128) 4096) 4096).getD 0) (roundup (wcStream 128) 4096) v21 ten1 (tj 5 true 2 true) s30) := by
  refine ⟨by decide +kernel, by decide +kernel, by decide +kernel, ⟨by decide +kernel, by decide +kernel, by decide +kernel, by decide +kernel, by decide +kernel, by decide +kernel, by decide +kernel, by decide +kernel, by decide +kernel, by decide +kernel, by decide +kernel, by decide +kernel, by decide +kernel, by decide +kernel, State.roomFor_ddr (by decide +kernel)⟩, by decide +kernel, ⟨by decide +kernel, by decide +kernel, by decide +kernel, by decide +kernel, by decide +kernel, by decide +kernel, by decide +kernel, by decide +kernel, State.roomFor_ddr (by decide +kernel)⟩⟩

/-- States and operands that meet the premises of `Obligations.MovesAndTrails`, part 2. -/
theorem witness_MovesAndTrails_2 :
    ((fun (w : Nat) (handle : Nat) (a : Nat) (x : Work) (y : Tensor) (j : TensorJob) (before : List TensorJob) (buffer : Bytes) (bad : List Nat) (s : State) (s' : State) =>
      let moving := fun (k : TensorJob) => k.w == w && k.handle == handle && k.started && k.writer && k.target != 0 && !k.create
      let bs := s'.readBlocks y buffer 0 (blockCount y.bytes) bad
      s.findJob moving = some (before, j) ∧ s.work w = some x ∧ x.stalled = false ∧ x.result = none ∧ s.tensorOf j.tenancy handle = some y ∧ y.state = 2 ∧ j.trail = none ∧ j.hold = none ∧ j.sent = none ∧ j.dest = some a ∧ j.target = 1 ∧ ((y.tier = 2 ∨ y.tier = 3)) ∧ servedBy s w (jobCell j) j.tenancy (s.readDies (s.blockGrains y 0 (blockCount y.bytes))) (s.squirrelUnits y.homeDen [(a, y.bytes)]) s' ∧ firstBad bs = none) 5 hd9 4096 v28 v31 v32 [] [] [] s33 s34) ∧
    ((fun (w : Nat) (handle : Nat) (a : Nat) (x : Work) (y : Tensor) (j : TensorJob) (before : List TensorJob) (buffer : Bytes) (bad : List Nat) (f : Nat × Nat) (s : State) (s' : State) =>
      let moving := fun (k : TensorJob) => k.w == w && k.handle == handle && k.started && k.writer && k.target != 0 && !k.create
      let bs := s'.readBlocks y buffer 0 (blockCount y.bytes) bad
      s.findJob moving = some (before, j) ∧ s.work w = some x ∧ x.stalled = false ∧ x.result = none ∧ s.tensorOf j.tenancy handle = some y ∧ y.state = 2 ∧ j.trail = none ∧ j.hold = none ∧ j.sent = none ∧ j.dest = some a ∧ j.target = 1 ∧ ((y.tier = 2 ∨ y.tier = 3)) ∧ servedBy s w (jobCell j) j.tenancy (s.readDies (s.blockGrains y 0 (blockCount y.bytes))) (s.squirrelUnits y.homeDen [(a, y.bytes)]) s' ∧ firstBad bs = some f) 5 hd9 4096 v28 v31 v32 [] [] [] ((0, 1)) s35 s36) ∧
    ((fun (w : Nat) (x : Work) (b : Bytes) (s : State) (s' : State) =>
      let d : Bytes := x.desc
      let l := s'.readAt x (descOp0 d) (32 * fld d 32 2) b
      startable s w x 0x24 ∧ s.trail w = none ∧ readable s x [(descOp0 d, 32 * fld d 32 2)] s' ∧ entriesBad l (fld d 32 2) = true) 5 v37 v38 s39 s39) ∧
    ((fun (w : Nat) (x : Work) (b : Bytes) (s : State) (s' : State) =>
      let d : Bytes := x.desc
      let l := s'.readAt x (descOp0 d) (32 * fld d 32 2) b
      startable s w x 0x24 ∧ s.trail w = none ∧ readable s x [(descOp0 d, 32 * fld d 32 2)] s' ∧ entriesBad l (fld d 32 2) = false) 5 v37 v40 s39 s39) ∧
    ((fun (w : Nat) (entry : Nat) (x : Work) (e : TrailEntry) (tr : Trail) (s : State) =>
      s.trail w = some tr ∧ tr.entries[entry]? = some e ∧ s.work w = some x ∧ e.outcome = none ∧ x.result = none ∧ (s.jobs.any (fun k => k.trail == some (w, entry)) = false) ∧ (tr.entries.filterMap (·.outcome)).length + 1 < tr.entries.length ∧ s.time.now < e.start) 5 0 v37 ((⟨hd9,1,500,0,100,0,none⟩ : TrailEntry)) v41 s42) ∧
    ((fun (w : Nat) (entry : Nat) (x : Work) (e : TrailEntry) (tr : Trail) (s : State) =>
      s.trail w = some tr ∧ tr.entries[entry]? = some e ∧ s.work w = some x ∧ e.outcome = none ∧ x.result = none ∧ (s.jobs.any (fun k => k.trail == some (w, entry)) = false) ∧ (tr.entries.filterMap (·.outcome)).length + 1 < tr.entries.length ∧ e.start ≤ s.time.now ∧ s.tensorOf x.tenancy e.handle = none) 5 0 v37 ((⟨hd9,1,500,0,0,0,none⟩ : TrailEntry)) v43 s44) := by
  refine ⟨⟨by decide +kernel, by decide +kernel, by decide +kernel, by decide +kernel, by decide +kernel, by decide +kernel, by decide +kernel, by decide +kernel, by decide +kernel, by decide +kernel, by decide +kernel, by decide +kernel, servedOf_ (by decide +kernel), by decide +kernel⟩, ⟨by decide +kernel, by decide +kernel, by decide +kernel, by decide +kernel, by decide +kernel, by decide +kernel, by decide +kernel, by decide +kernel, by decide +kernel, by decide +kernel, by decide +kernel, by decide +kernel, servedOf_ (by decide +kernel), by decide +kernel⟩, by decide +kernel, by decide +kernel, by decide +kernel, by decide +kernel⟩

/-- States and operands that meet the premises of `Obligations.MovesAndTrails`, part 3. -/
theorem witness_MovesAndTrails_3 :
    ((fun (w : Nat) (entry : Nat) (x : Work) (y : Tensor) (e : TrailEntry) (tr : Trail) (s : State) =>
      s.trail w = some tr ∧ tr.entries[entry]? = some e ∧ s.work w = some x ∧ e.outcome = none ∧ x.result = none ∧ (s.jobs.any (fun k => k.trail == some (w, entry)) = false) ∧ (tr.entries.filterMap (·.outcome)).length + 1 < tr.entries.length ∧ e.start ≤ s.time.now ∧ s.tensorOf x.tenancy e.handle = some y ∧ y.tier = e.tier) 5 0 v37 ten1 ((⟨hd9,1,500,0,0,0,none⟩ : TrailEntry)) v43 s45) ∧
    ((fun (w : Nat) (entry : Nat) (x : Work) (y : Tensor) (e : TrailEntry) (tr : Trail) (s : State) =>
      s.trail w = some tr ∧ tr.entries[entry]? = some e ∧ s.work w = some x ∧ e.outcome = none ∧ x.result = none ∧ (s.jobs.any (fun k => k.trail == some (w, entry)) = false) ∧ (tr.entries.filterMap (·.outcome)).length + 1 < tr.entries.length ∧ e.start ≤ s.time.now ∧ s.tensorOf x.tenancy e.handle = some y ∧ y.tier ≠ e.tier) 5 0 v37 ten1 ((⟨hd9,2,500,0,0,0,none⟩ : TrailEntry)) v46 s47) ∧
    ((fun (w : Nat) (handle : Nat) (y : Tensor) (hd : TrailHold) (s : State) =>
      (s.holds.find? (fun k => k.handle == handle && k.w == w && decide (k.time ≤ s.time.now) && (s.work k.w).isNone) = some hd) ∧ tget s.tensors (handleIx handle) = some y ∧ y.writers ≠ hd.writers) 4 hd9 ten1 ((⟨4,hd9,0,2,3⟩ : TrailHold)) s48) ∧
    ((fun (w : Nat) (handle : Nat) (y : Tensor) (hd : TrailHold) (s : State) =>
      (s.holds.find? (fun k => k.handle == handle && k.w == w && decide (k.time ≤ s.time.now) && (s.work k.w).isNone) = some hd) ∧ tget s.tensors (handleIx handle) = some y ∧ y.writers = hd.writers ∧ y.state ≠ 0 ∧ y.gen = handleGen handle) 4 hd9 ten1 ((⟨4,hd9,0,2,4⟩ : TrailHold)) s49) := by
  refine ⟨by decide +kernel, by decide +kernel, by decide +kernel, by decide +kernel⟩

end W07


namespace W08

def ext1 : Extent := { Extent.free with state := 1, tenancy := 3, primaryDie := 0, homeDen := 0, leaseMs := 1000, ddrBase := ddrBase 0 }
def held : Lease := { state := .held, expiry := 10^9, fenceFrame := 0 }
/-- Hosts 0, 1 and 20 on PORT0; extent 2 mapped, with leases of all three; directory sets 0 to 255 of den 0 are tenancy 3's. -/
def hosted (x : Extent) (dir : List (Nat × DirEntry)) (ls : List (Nat × Lease)) : State :=
  { base with
    extents := [(2, x)], leases := ls, dir, memory := (List.range 200).map (fun i => (lineAddr (2 * 2^24) + i, BitVec.ofNat 8 (i + 1)))
    regs := base.regs ++ [(0x0600000, 0x80000010), (0x0600008, 0x80000011), (0x0600000 + 160, 0x80000024)]
    live := lv 3 0x0600800 (1 * 2^16) :: base.live }
def all3 : List (Nat × Lease) := [(512, held), (513, held), (532, held)]
def ent (state : Nat) (v : Nat) (coarse : Bool) (group : Nat) (line : Nat) : Nat × DirEntry :=
  (wayKey 0 (line % 256) 0, { state, coarse, tag := line / 256, group, vector := BitVec.ofNat 16 v, grant := 0 })
def L0 : Nat := 2 * 2^24
def D0 : Nat := 2 * 2^30
def goOf (g : Gate) : State := match g with | .go s => s | .hold s => s

def s6 : State := hosted ext1 [ent 1 3 false 0 L0] all3
def s7 : State := hosted ext1 [ent 2 1 false 0 L0] all3
def s3 : State := {hosted ext1 [] [] with recalls := []}
def s0 : State := {hosted ext1 [] all3 with recalls := []}
def s1 : State := {hosted ext1 [ent 1 1 false 0 L0] all3 with recalls := []}
def s2 : State := {hosted ext1 [ent 2 0 false 0 L0] all3 with recalls := []}
def v5 : Recall := (⟨L0, DirEntry.invalid, [0], [0], [], 0, none, none, false⟩ : Recall)
def v21 : Extent := ((({ext1 with paged := true, ddrPages := 2, resident := []}).admitPage 3).getD Extent.free)
def s4 : State := {hosted ext1 [] all3 with recalls := [⟨L0, DirEntry.invalid, [0], [0], [], 0, none, none, false⟩]}
def v12 : LineReq := { cls := Sys2Proof.Machine.ReqClass.rdS, port := 0, rid := 16, host := 0, line := 33554432, offset := 0, full := true, data := [], own := none }
def v24 : LineReq := { cls := Sys2Proof.Machine.ReqClass.rdI, port := 0, rid := 16, host := 0, line := 33555200, offset := 0, full := true, data := [], own := none }
def v8 : Recall := (⟨L0, (ent 2 1 false 0 L0).2, [1], [1], [], 1, some { cls := .rdS, port := 0, rid := 0x10, host := 0, line := L0, offset := 0, full := true, data := [], own := none }, none, false⟩ : Recall)
def s13 : State := {hosted (ext1) [] [] with regs := img 0x0601000 (toLe 1 0 ++ toLe 3 0 ++ toLe 2 3 ++ toLe 2 0 ++ toLe 4 2000 ++ toLe 116 0) ++ (hosted ext1 [] []).regs, time := {base.time with now := 0 * 2^14}}
def s15 : State := {hosted (ext1) [] all3 with regs := img 0x0601000 (toLe 1 0 ++ toLe 3 0 ++ toLe 2 3 ++ toLe 2 0 ++ toLe 4 2000 ++ toLe 116 0) ++ (hosted ext1 [] []).regs, time := {base.time with now := 0 * 2^14}}
def v10 : Recall := (⟨L0, (ent 2 1 false 0 L0).2, [1, 20], [1, 20], [], 1, some { cls := .rdS, port := 0, rid := 0x10, host := 0, line := L0, offset := 0, full := true, data := [], own := none }, none, false⟩ : Recall)
def s17 : State := {hosted (ext1) [] all3 with regs := img 0x0601000 (toLe 1 0 ++ toLe 3 0 ++ toLe 2 3 ++ toLe 2 0 ++ toLe 4 2000 ++ toLe 116 0) ++ (hosted ext1 [] []).regs, time := {base.time with now := 200000 * 2^14}}
def s18 : State := {hosted (ext1) [ent 2 0 false 0 L0] all3 with regs := img 0x0601000 (toLe 1 0 ++ toLe 3 0 ++ toLe 2 3 ++ toLe 2 0 ++ toLe 4 2000 ++ toLe 116 0) ++ (hosted ext1 [] []).regs, time := {base.time with now := 200000 * 2^14}}
def s16 : State := {hosted (ext1) [] [(512,{held with state := .expired, expiry := 0})] with regs := img 0x0601000 (toLe 1 0 ++ toLe 3 0 ++ toLe 2 3 ++ toLe 2 0 ++ toLe 4 2000 ++ toLe 116 0) ++ (hosted ext1 [] []).regs, time := {base.time with now := 0 * 2^14}}
def s19 : State := {hosted (ext1) [] [(512,{held with state := .fenced, expiry := 0})] with regs := img 0x0601000 (toLe 1 0 ++ toLe 3 0 ++ toLe 2 3 ++ toLe 2 0 ++ toLe 4 2000 ++ toLe 116 0) ++ (hosted ext1 [] []).regs, time := {base.time with now := 200000 * 2^14}}
def s14 : State := (let s := s13; {s with live := lv 3 0x0040130 (2^43) :: s.live})
def s20 : State := (let s := {hosted ({ext1 with paged := true, ddrPages := 2, resident := []}) [] [] with waiting := []}; {s with badgers := [(3, {Badger.fresh with cfg := 1 + 4 + 100 * 2^16 + 100 * 2^32, disabled := false})], live := lv 3 (0x00401C0 + 8*12) 1000 :: s.live})
def s25 : State := {hosted ({ext1 with paged := true, ddrPages := 2, resident := [(3,true),(4,true)], leaving := [3]}) [] [] with badgers := [(0, {Badger.fresh with cfg := 1 + 4 + 100 * 2^16 + 100 * 2^32, disabled := false})], live := lv 3 0x00401C0 1000 :: base.live, time := {base.time with now := 0}}
def s26 : State := {hosted ({ext1 with paged := true, ddrPages := 2, resident := [(3,true),(4,true)], leaving := []}) [] [] with badgers := [(0, {Badger.fresh with cfg := 1 + 4 + 100 * 2^16 + 100 * 2^32, disabled := false})], live := lv 3 0x00401C0 1000 :: base.live, time := {base.time with now := 15616}}
def s9 : State := {hosted ext1 [(wayKey 0 0 0, {((ent 2 1 false 0 L0).2) with state := 3})] all3 with recalls := [v8]}
def s11 : State := {hosted ext1 [(wayKey 0 0 0, {((ent 2 1 false 0 L0).2) with state := 3})] all3 with recalls := [v10]}
def s22 : State := (let s := {hosted ({ext1 with paged := true, ddrPages := 2, resident := []}) [] [] with waiting := [{ cls := .rdI, port := 0, rid := 0x10, host := 0, line := L0 + 3*256, offset := 0, full := true, data := [], own := none }]}; {s with badgers := [(3, {Badger.fresh with cfg := 1 + 4 + 100 * 2^16 + 100 * 2^32, disabled := false})], live := lv 3 (0x00401C0 + 8*12) 1000 :: s.live})
def s23 : State := (goOf (s22.passDies (pageReq 2 3) 0 3 (s22.readDies [grainAt ((s22.extent 2).pageStore 3)])))

/-- States and operands that meet the premises of `Obligations.HostRequestsWithoutRecall`, part 1. -/
theorem witness_HostRequestsWithoutRecall_1 :
    ((fun (port : Nat) (rid : Nat) (dpa : Nat) (h : Nat) (s : State) =>
      let l := dpa / 64
      let e := s.entry l
      reaches s port rid dpa h ∧ sends s port ∧ s.poison.contains (lineOf (lineAddr l)) = false ∧ e.state = 0) 0 0x10 ((D0+0)) 0 s0) ∧
    ((fun (port : Nat) (rid : Nat) (dpa : Nat) (h : Nat) (k : Nat) (s : State) =>
      let l := dpa / 64
      let e := s.entry l
      reaches s port rid dpa h ∧ sends s port ∧ s.poison.contains (lineOf (lineAddr l)) = false ∧ e.state = 0 ∧ s.freeWay l = some k) 0 0x10 ((D0+0)) 0 ((wayKey 0 0 0)) s0) ∧
    ((fun (port : Nat) (rid : Nat) (dpa : Nat) (h : Nat) (k : Nat) (s : State) =>
      let l := dpa / 64
      let e := s.entry l
      reaches s port rid dpa h ∧ sends s port ∧ s.poison.contains (lineOf (lineAddr l)) = false ∧ e.state = 0 ∧ s.freeWay l = some k) 0 0x10 ((D0+0)) 0 ((wayKey 0 0 0)) s0) ∧
    ((fun (port : Nat) (rid : Nat) (dpa : Nat) (h : Nat) (k : Nat) (s : State) =>
      let l := dpa / 64
      let e := s.entry l
      reaches s port rid dpa h ∧ sends s port ∧ s.poison.contains (lineOf (lineAddr l)) = false ∧ e.state = 0 ∧ s.freeWay l = some k) 0 0x10 ((D0+0)) 0 ((wayKey 0 0 0)) s0) ∧
    ((fun (port : Nat) (rid : Nat) (dpa : Nat) (h : Nat) (k : Nat) (s : State) =>
      let l := dpa / 64
      let e := s.entry l
      reaches s port rid dpa h ∧ sends s port ∧ s.poison.contains (lineOf (lineAddr l)) = false ∧ e.state = 1 ∧ s.findWay l = some k) 0 0x10 ((D0+0)) 0 ((wayKey 0 0 0)) s1) ∧
    ((fun (port : Nat) (rid : Nat) (dpa : Nat) (h : Nat) (s : State) =>
      let l := dpa / 64
      let e := s.entry l
      reaches s port rid dpa h ∧ sends s port ∧ s.poison.contains (lineOf (lineAddr l)) = false ∧ e.state = 0) 0 0x10 ((D0+0)) 0 s0) := by
  refine ⟨by decide +kernel, by decide +kernel, by decide +kernel, by decide +kernel, by decide +kernel, by decide +kernel⟩

/-- States and operands that meet the premises of `Obligations.HostRequestsWithoutRecall`, part 2. -/
theorem witness_HostRequestsWithoutRecall_2 :
    ((fun (port : Nat) (rid : Nat) (dpa : Nat) (h : Nat) (k : Nat) (s : State) =>
      let l := dpa / 64
      let e := s.entry l
      reaches s port rid dpa h ∧ sends s port ∧ s.poison.contains (lineOf (lineAddr l)) = false ∧ e.state = 2 ∧ e.vector.toNat % 256 = h ∧ s.findWay l = some k) 0 0x10 ((D0+0)) 0 ((wayKey 0 0 0)) s2) ∧
    ((fun (port : Nat) (s : State) =>
      hostPort s port) 0 s0) ∧
    ((fun (port : Nat) (rid : Nat) (dpa : Nat) (h : Nat) (s : State) =>
      let l := dpa / 64
      hostPort s port ∧ s.ideBlocked port = false ∧ s.hostOf port rid = some h ∧ leaseExt dpa = none ∧ (s.lease (dpa / 2 ^ 30) h).state ≠ .held ∧ s.recallOf l = none ∧ sends s port) 0 0x10 ((D0+0)) 0 s3) ∧
    ((fun (port : Nat) (rid : Nat) (dpa : Nat) (h : Nat) (s : State) =>
      let l := dpa / 64
      hostPort s port ∧ s.ideBlocked port = false ∧ s.hostOf port rid = some h ∧ leaseExt dpa = none ∧ (s.lease (dpa / 2 ^ 30) h).state ≠ .held ∧ s.recallOf l = none ∧ sends s port) 0 0x10 ((D0+0)) 0 s3) ∧
    ((fun (port : Nat) (rid : Nat) (dpa : Nat) (h : Nat) (s : State) (r : Recall) =>
      let l := dpa / 64
      hostPort s port ∧ s.hostOf port rid = some h ∧ s.recallOf l = some r ∧ r.awaiting.contains h = true ∧ sends s port) 0 0x10 ((D0+0)) 0 s4 v5) := by
  refine ⟨by decide +kernel, by decide +kernel, by decide +kernel, by decide +kernel, by decide +kernel⟩

/-- States and operands that meet the premises of `Obligations.RecallsTakeLinesBack`, part 1. -/
theorem witness_RecallsTakeLinesBack_1 :
    ((fun (port : Nat) (rid : Nat) (dpa : Nat) (h : Nat) (k : Nat) (hs : List Nat) (s : State) =>
      let l := dpa / 64
      let e := s.entry l
      let x := s.extent (dpa / 2 ^ 30)
      reaches s port rid dpa h ∧ s.findWay l = some k ∧ hs ≠ [] ∧ (hs.all (fun i => (s.lease (dpa / 2 ^ 30) i).state == .held) = true) ∧ ((∀ i ∈ hs, sends s (s.hostPort i))) ∧ s.recordsUsed x.tenancy x.homeDen < s.recordsHeld x.tenancy x.homeDen ∧ e.state = 1 ∧ hs = (s.marked l e).filter (· != h)) 0 0x10 D0 0 ((wayKey 0 0 0)) [1] s6) ∧
    ((fun (port : Nat) (rid : Nat) (dpa : Nat) (h : Nat) (k : Nat) (hs : List Nat) (s : State) =>
      let l := dpa / 64
      let e := s.entry l
      let x := s.extent (dpa / 2 ^ 30)
      reaches s port rid dpa h ∧ s.findWay l = some k ∧ hs ≠ [] ∧ (hs.all (fun i => (s.lease (dpa / 2 ^ 30) i).state == .held) = true) ∧ ((∀ i ∈ hs, sends s (s.hostPort i))) ∧ s.recordsUsed x.tenancy x.homeDen < s.recordsHeld x.tenancy x.homeDen ∧ e.state = 2 ∧ e.vector.toNat % 256 ≠ h ∧ hs = [e.vector.toNat % 256]) 0 0x10 D0 0 ((wayKey 0 0 0)) [1] s7) ∧
    ((fun (port : Nat) (rid : Nat) (dpa : Nat) (h : Nat) (k : Nat) (hs : List Nat) (s : State) =>
      let l := dpa / 64
      let e := s.entry l
      let x := s.extent (dpa / 2 ^ 30)
      reaches s port rid dpa h ∧ s.findWay l = some k ∧ hs ≠ [] ∧ (hs.all (fun i => (s.lease (dpa / 2 ^ 30) i).state == .held) = true) ∧ ((∀ i ∈ hs, sends s (s.hostPort i))) ∧ s.recordsUsed x.tenancy x.homeDen < s.recordsHeld x.tenancy x.homeDen ∧ e.state = 2 ∧ e.vector.toNat % 256 ≠ h ∧ hs = [e.vector.toNat % 256]) 0 0x10 D0 0 ((wayKey 0 0 0)) [1] s7) ∧
    ((fun (port : Nat) (rid : Nat) (dpa : Nat) (h : Nat) (r : Recall) (s : State) =>
      let l := dpa / 64
      let x := s.extent (dpa / 2 ^ 30)
      hostPort s port ∧ s.ideBlocked port = false ∧ s.hostOf port rid = some h ∧ dpa < 2 ^ 43 ∧ x.state = 1 ∧ x.paged = false ∧ (s.lease (dpa / 2 ^ 30) h).state = .held ∧ (s.ten x.tenancy).fatal = false ∧ s.recallOf l = some r ∧ r.awaiting.contains h = false ∧ (s.recalls.all (fun v => !v.awaiting.isEmpty) = true) ∧ s.fencing = []) 0 0x10 D0 0 v8 s9) ∧
    ((fun (port : Nat) (rid : Nat) (dpa : Nat) (g : Nat) (r : Recall) (s : State) =>
      let l := dpa / 64
      hostPort s port ∧ s.hostOf port rid = some g ∧ s.recallOf l = some r ∧ r.awaiting.contains g = true ∧ s.fencing = [] ∧ r.awaiting.filter (· != g) ≠ [] ∧ (s.recalls.all (fun v => !v.awaiting.isEmpty) = true) ∧ ((∀ v ∈ s.recalls, v.line = r.line → v = r))) 0 0x11 D0 1 v10 s11) ∧
    ((fun (port : Nat) (rid : Nat) (dpa : Nat) (o : Nat) (k : Nat) (g : Nat) (r : Recall) (q : LineReq) (s : State) =>
      let l := dpa / 64
      hostPort s port ∧ s.hostOf port rid = some g ∧ s.recallOf l = some r ∧ r.awaiting.contains g = true ∧ s.fencing = [] ∧ s.recalls = [r] ∧ s.waiting = [] ∧ r.awaiting = [g] ∧ r.shared = [] ∧ r.request = some q ∧ q.cls = .rdS ∧ q.line = l ∧ r.prior.state = 2 ∧ r.prior.vector.toNat % 256 = o ∧ q.host ≠ o ∧ s.findWay l = some k ∧ sends s q.port ∧ s.poison.contains (lineOf (lineAddr l)) = false) 0 0x11 D0 1 ((wayKey 0 0 0)) 1 v8 v12 s9) := by
  refine ⟨by decide +kernel, by decide +kernel, by decide +kernel, by decide +kernel, by decide +kernel, by decide +kernel⟩

/-- States and operands that meet the premises of `Obligations.RecallsTakeLinesBack`, part 2. -/
theorem witness_RecallsTakeLinesBack_2 :
    (fun (port : Nat) (rid : Nat) (dpa : Nat) (o : Nat) (k : Nat) (g : Nat) (r : Recall) (q : LineReq) (s : State) =>
      let l := dpa / 64
      hostPort s port ∧ s.hostOf port rid = some g ∧ s.recallOf l = some r ∧ r.awaiting.contains g = true ∧ s.fencing = [] ∧ s.recalls = [r] ∧ s.waiting = [] ∧ r.awaiting = [g] ∧ r.shared = [] ∧ r.request = some q ∧ q.cls = .rdS ∧ q.line = l ∧ r.prior.state = 2 ∧ r.prior.vector.toNat % 256 = o ∧ q.host ≠ o ∧ s.findWay l = some k ∧ sends s q.port ∧ s.poison.contains (lineOf (lineAddr l)) = false) 0 0x11 D0 1 ((wayKey 0 0 0)) 1 v8 v12 s9 := by decide +kernel

/-- States and operands that meet the premises of `Obligations.ExtentsLeasesAndPages`, part 1. -/
theorem witness_ExtentsLeasesAndPages_1 :
    ((fun (mp : MgmtPort) (s : State) =>
      ready s mp .ext) (.a) s13) ∧
    ((fun (mp : MgmtPort) (ext : Nat) (s : State) =>
      let x := s.extent ext
      ready s mp .ext ∧ ext < 8192 ∧ x.state ≠ 0) (.a) 2 s13) ∧
    ((fun (mp : MgmtPort) (ext : Nat) (den : Nat) (a : Nat) (s : State) =>
      let x := s.extent ext
      let b := s.image 0x0601000 16
      ready s mp .ext ∧ ext < 8192 ∧ x.state = 0 ∧ mapImageOk b = true ∧ fld b 1 1 = 0 ∧ bit (fld b 3 1) 0 = false ∧ fld b 4 2 ≠ 0 ∧ s.bound (fld b 4 2) = true ∧ s.pickDen (fld b 4 2) (fld b 6 1) = some den ∧ s.pick (s.ddrAllot (fld b 4 2) (fld b 6 1)) (2 ^ 30) granule = some a) (.a) 5 0 ((s14.pick (s14.ddrAllot 3 0) (2 ^ 30) granule).getD 0) s14) ∧
    ((fun (mp : MgmtPort) (ext : Nat) (h : Nat) (s : State) =>
      let x := s.extent ext
      ready s mp .ext ∧ h < 256 ∧ x.state = 1 ∧ ((s.lease ext h).state = .noAccess ∨ (s.lease ext h).state = .expired)) (.a) 2 0 s13) ∧
    ((fun (mp : MgmtPort) (ext : Nat) (s : State) =>
      let x := s.extent ext
      ready s mp .ext ∧ x.state ≠ 1) (.a) 5 s14) ∧
    ((fun (mp : MgmtPort) (ext : Nat) (s : State) =>
      let x := s.extent ext
      ready s mp .ext ∧ x.state ≠ 1) (.a) 5 s14) := by
  refine ⟨by decide +kernel, by decide +kernel, ⟨by decide +kernel, by decide +kernel, by decide +kernel, by decide +kernel, by decide +kernel, by decide +kernel, by decide +kernel, by decide +kernel, by decide +kernel, State.pick_getD (by decide +kernel)⟩, by decide +kernel, by decide +kernel, by decide +kernel⟩

/-- States and operands that meet the premises of `Obligations.ExtentsLeasesAndPages`, part 2. -/
theorem witness_ExtentsLeasesAndPages_2 :
    ((fun (mp : MgmtPort) (ext : Nat) (s : State) =>
      let x := s.extent ext
      ready s mp .ext ∧ x.state ≠ 1) (.a) 5 s14) ∧
    ((fun (mp : MgmtPort) (ext : Nat) (h : Nat) (s : State) =>
      let x := s.extent ext
      ready s mp .ext ∧ h < 256 ∧ x.state = 1 ∧ (s.lease ext h).state = .held) (.a) 2 0 s15) ∧
    ((fun (mp : MgmtPort) (ext : Nat) (h : Nat) (s : State) =>
      let x := s.extent ext
      ready s mp .ext ∧ h < 256 ∧ x.state = 1 ∧ (s.lease ext h).state = .held ∧ (s.recalls.all (fun v => !v.awaiting.isEmpty) = true) ∧ s.fencing = []) (.a) 2 0 s15) ∧
    ((fun (mp : MgmtPort) (ext : Nat) (h : Nat) (s : State) =>
      let x := s.extent ext
      ready s mp .ext ∧ h < 256 ∧ x.state = 1 ∧ (s.lease ext h).state = .expired) (.a) 2 0 s16) ∧
    ((fun (mp : MgmtPort) (ext : Nat) (s : State) =>
      let x := s.extent ext
      ready s mp .ext ∧ x.state = 1) (.a) 2 s13) ∧
    ((fun (mp : MgmtPort) (ext : Nat) (s : State) =>
      let x := s.extent ext
      ready s mp .ext ∧ x.state = 1 ∧ (s.recalls.all (fun v => !v.awaiting.isEmpty) = true) ∧ s.fencing = []) (.a) 2 s13) := by
  refine ⟨by decide +kernel, by decide +kernel, by decide +kernel, by decide +kernel, by decide +kernel, by decide +kernel⟩

/-- States and operands that meet the premises of `Obligations.ExtentsLeasesAndPages`, part 3. -/
theorem witness_ExtentsLeasesAndPages_3 :
    ((fun (ext : Nat) (h : Nat) (port : Nat) (rid : Nat) (dpa : Nat) (s : State) =>
      hostPort s port ∧ s.ideBlocked port = false ∧ s.hostOf port rid = some h ∧ leaseExt dpa = some ext ∧ sends s port) 2 0 0 0x10 ((2^43 + 128)) s13) ∧
    ((fun (ext : Nat) (h : Nat) (s : State) =>
      (s.lease ext h).state = .held ∧ s.frame * 2 ^ 14 < (s.lease ext h).expiry) 2 0 s15) ∧
    ((fun (ext : Nat) (h : Nat) (s : State) =>
      (s.lease ext h).state = .held ∧ (s.lease ext h).expiry ≤ s.frame * 2 ^ 14 ∧ s.recalls = [] ∧ s.waiting = [] ∧ s.fencing = [] ∧ s.extLines ext = []) 2 0 s17) ∧
    ((fun (ext : Nat) (h : Nat) (l : Nat) (e : DirEntry) (s : State) =>
      let x := s.extent ext
      (s.lease ext h).state = .held ∧ (s.lease ext h).expiry ≤ s.frame * 2 ^ 14 ∧ s.recalls = [] ∧ s.waiting = [] ∧ s.fencing = [] ∧ s.extLines ext = [(l, e)] ∧ lineExt l = ext ∧ e.state = 2 ∧ e.vector.toNat % 256 = h ∧ x.revert = false) 2 0 L0 ((ent 2 0 false 0 L0).2) s18) ∧
    ((fun (ext : Nat) (s : State) =>
      let x := s.extent ext
      s.drained ext = [] ∧ x.state = 1) 2 s13) ∧
    ((fun (ext : Nat) (h : Nat) (s : State) =>
      let x := s.extent ext
      s.drained ext = [h] ∧ x.state = 1 ∧ s.extLines ext = [] ∧ s.recalls = [] ∧ s.waiting = [] ∧ s.fencing = []) 2 0 s19) := by
  refine ⟨by decide +kernel, by decide +kernel, by decide +kernel, by decide +kernel, by decide +kernel, by decide +kernel⟩

/-- States and operands that meet the premises of `Obligations.ExtentsLeasesAndPages`, part 4. -/
theorem witness_ExtentsLeasesAndPages_4 :
    ((fun (mp : MgmtPort) (h : Nat) (s : State) =>
      setUp s mp ∧ h < 256 ∧ (s.leases.any (fun v => v.1 % 256 == h && (v.2.state == .held || v.2.state == .fenced)) = true)) (.a) 0 s15) ∧
    ((fun (mp : MgmtPort) (h : Nat) (s : State) =>
      setUp s mp ∧ h < 256 ∧ (s.leases.any (fun v => v.1 % 256 == h && (v.2.state == .held || v.2.state == .fenced)) = false)) (.a) 0 s13) ∧
    ((fun (ext : Nat) (page : Nat) (s : State) =>
      let x := s.extent ext
      x.paged = true ∧ (x.resident.any (fun p => p.1 == page) = false) ∧ (s.waiting.any (fun q => lineExt q.line == ext && q.line % 2 ^ 24 / 256 == page) = false)) 2 3 s20) ∧
    ((fun (ext : Nat) (page : Nat) (x' : Extent) (s : State) (s' : State) (q : LineReq) =>
      let x := s.extent ext
      x.paged = true ∧ (x.resident.any (fun p => p.1 == page) = false) ∧ s.waiting = [q] ∧ lineExt q.line = ext ∧ q.line % 2 ^ 24 / 256 = page ∧ q.cls = .rdI ∧ q.own = none ∧ s.recalls = [] ∧ s.fencing = [] ∧ (s.entry q.line).state = 0 ∧ x.admitPage page = some x' ∧ s.passDies (pageReq ext page) 0 x.tenancy (s.readDies [grainAt (x.pageStore page)]) = .go s' ∧ s'.granted q.line = false ∧ lineServed s' q.line ∧ s'.flashLost (x.pageStore page) (2 ^ 14) = false) 2 3 v21 s22 s23 v24) ∧
    ((fun (ext : Nat) (page : Nat) (s : State) =>
      let x := s.extent ext
      x.paged = true ∧ x.leaving.contains page = true ∧ s.flashBusy (pageReq ext page) = false ∧ s.waiting = [] ∧ s.recalls = [] ∧ s.fencing = []) 2 3 s25) ∧
    ((fun (ext : Nat) (page : Nat) (s : State) =>
      let x := s.extent ext
      x.paged = true ∧ x.leaving.contains page = false ∧ s.pageDue x page = true ∧ s.bgTurn (denMap x.homeDen) x.tenancy (s.fillQueued (denMap x.homeDen) ++ s.pageQueued (denMap x.homeDen)) = true) 2 4 s26) := by
  refine ⟨by decide +kernel, by decide +kernel, by decide +kernel, by decide +kernel, by decide +kernel, by decide +kernel⟩

/-- States and operands that meet the premises of `Obligations.ExtentsLeasesAndPages`, part 5. -/
theorem witness_ExtentsLeasesAndPages_5 :
    (fun (ext : Nat) (page : Nat) (s : State) =>
      let x := s.extent ext
      x.leaving.contains page = false ∧ s.pageDue x page = false) 2 3 s13 := by decide +kernel

end W08


namespace W09a

def f0 : FaultRec := { tenancy := 3, port := 0, id := 4, w := 5, ctx := 1, addr := 0x5000, write := false, run := false, cell := 0, cause := .notPresent, level := 2, time := 0, frame := 0, batched := false, posted := false, prg := none, logIdx := none }
def bytesAt (a : Nat) (b : Bytes) : List (Nat × Byte) := ((List.range b.length).map (fun i => (a + i, b.getD i 0))).filter (fun c => c.2 != 0)
def node0 : Nat := 2^48
/-- A mirrored table at 2^48 of tenancy 3: page of 2 MiB at VA 0 to HBM 0 (read+write), VA 2 MiB with entry e. -/
def tabm (e0 e : Nat) : List (Nat × Byte) :=
  bytesAt node0 (toLe 8 (node0 % 2^56 + 4096 + 1)) ++ bytesAt (node0 + 4096) (toLe 8 (node0 + 8192 + 1)) ++ bytesAt (node0 + 8192) (toLe 8 e0 ++ toLe 8 e)
def mir (e0 e : Nat) (s : State) : State := { s with
  live := lv 3 0x0700008 (2^33) :: lv 3 0x0700000 2 :: s.live
  memory := (List.range 64).map (fun i => (i, BitVec.ofNat 8 (i+1))) ++ tabm e0 e }
def rt : Nat := 3 * 2^62 + node0
def mw (op : Nat) (d : Bytes) : Work := { wk 5 op 1 d with xltRoot := rt }

def s0 : State := mir 15 15 base
def v9 : Work := (wk 8 96 1 (desc 0x60 0 1 0 0 0 (toLe 2 4 ++ toLe 2 2 ++ toLe 1 0)))
def v11 : Work := (wk 8 96 1 (desc 0x60 0 1 0 0 0 (toLe 2 4 ++ toLe 2 2 ++ toLe 1 1)))
def s14 : State := {busy [] with rings := [(1, {ring1 with service := true}), (2, ring1)]}
def v12 : FaultRec := (([] : List FaultRec).getD (if ([] : List FaultRec).length = 2 && (([] : List FaultRec).getD 0 f0).id == 3 then 1 else 0) f0)
def v4 : FaultRec := (([{f0 with posted := true}] : List FaultRec).getD (if ([{f0 with posted := true}] : List FaultRec).length = 2 && (([{f0 with posted := true}] : List FaultRec).getD 0 f0).id == 3 then 1 else 0) f0)
def v2 : FaultRec := (([{f0 with id := 3, posted := true}, f0] : List FaultRec).getD (if ([{f0 with id := 3, posted := true}, f0] : List FaultRec).length = 2 && (([{f0 with id := 3, posted := true}, f0] : List FaultRec).getD 0 f0).id == 3 then 1 else 0) f0)
def v7 : FaultRec := (([{f0 with prg := some 7, posted := true}] : List FaultRec).getD (if ([{f0 with prg := some 7, posted := true}] : List FaultRec).length = 2 && (([{f0 with prg := some 7, posted := true}] : List FaultRec).getD 0 f0).id == 3 then 1 else 0) f0)
def s1 : State := (let s : State := {mir 15 0 (busy [(mw 0x41 [])]) with faults := [], faultNext := [(tpKey 3 0, 65535)], regs := base.regs ++ [(faultRingOff 3 0, 0x80000001 + 3 * 2^24), (faultRingOff 3 0 + 8, 2^24)]}; {s with live := lv 3 0x0700200 0 :: s.live})
def s10 : State := {busy [{(mw 0x41 []) with stalled := true}, {{(mw 0x41 []) with stalled := true} with id := 6}, v9] with faults := [], regs := base.regs ++ [(faultRingOff 3 0, 0x80000001 + 3 * 2^24), (0x0700400, 20)], time := {base.time with now := 0 * 2^14}}
def s13 : State := {busy [{(mw 0x41 []) with stalled := true}, {{(mw 0x41 []) with stalled := true} with id := 6}, v11] with faults := [], regs := base.regs ++ [(faultRingOff 3 0, 0x80000001 + 3 * 2^24), (0x0700400, 20)], time := {base.time with now := 0 * 2^14}}
def s5 : State := {busy [{(mw 0x41 []) with stalled := true}, {{(mw 0x41 []) with stalled := true} with id := 6}, v9] with faults := [{f0 with posted := true}], regs := base.regs ++ [(faultRingOff 3 0, 0x80000001 + 3 * 2^24), (0x0700400, 20)], time := {base.time with now := 0 * 2^14}}
def s6 : State := {busy [{(mw 0x41 []) with stalled := true}, {{(mw 0x41 []) with stalled := true} with id := 6}, v9] with faults := [{f0 with posted := true}], regs := base.regs ++ [(faultRingOff 3 0, 0x80000001 + 3 * 2^24), (0x0700400, 20)], time := {base.time with now := 30 * 2^14}}
def s3 : State := {busy [{(mw 0x41 []) with stalled := true}, {{(mw 0x41 []) with stalled := true} with id := 6}, v9] with faults := [{f0 with id := 3, posted := true}, f0], regs := base.regs ++ [(faultRingOff 3 0, 0x80000001 + 3 * 2^24), (0x0700400, 20)], time := {base.time with now := 0 * 2^14}}
def s8 : State := {busy [{(mw 0x41 []) with stalled := true}, {{(mw 0x41 []) with stalled := true} with id := 6}, v9] with faults := [{f0 with prg := some 7, posted := true}], regs := base.regs ++ [(faultRingOff 3 0, 0x80000001 + 3 * 2^24), (0x0700400, 20)], time := {base.time with now := 0 * 2^14}}

/-- States and operands that meet the premises of `Obligations.StoresChangeOnlyTheirTenancysMemory`. -/
theorem witness_StoresChangeOnlyTheirTenancysMemory :
    (fun (x : Work) (a : Nat) (m : Nat) (b : Bytes) (s : State) =>
      s.inv ∧ (s.writeAt x a b).byteAt m ≠ s.byteAt m) (mw 0x41 []) (2*2^62) 0 ((List.replicate 16 0x5A)) s0 := ⟨⟨by decide +kernel, by decide +kernel, by decide +kernel, by decide +kernel⟩, by decide +kernel⟩

/-- States and operands that meet the premises of `Obligations.FaultsAreServed`, part 1. -/
theorem witness_FaultsAreServed_1 :
    ((fun (w : Nat) (addr : Nat) (level : Nat) (wr : Bool) (cause : FaultCause) (x : Work) (s : State) =>
      s.work w = some x ∧ x.stalled = false ∧ x.result = none ∧ addrClass addr ≠ 0 ∧ (s.locate x.tenancy x.xltRoot addr 1 wr).1 = .fault cause level) 5 (2*2^62+2^21) 2 true (.notPresent) ((mw 0x41 [])) s1) ∧
    ((fun (port : Nat) (ten : Nat) (s : State) =>
      s.batchWait = [] ∧ (s.faults.find? (fun g => g.tenancy == ten && g.port == port && !g.posted) = none)) 0 3 s1) ∧
    ((fun (ring : Nat) (lg : Nat) (port : Nat) (ten : Nat) (f : FaultRec) (s : State) =>
      s.batchWait = [] ∧ (s.faults.find? (fun g => g.tenancy == ten && g.port == port && !g.posted) = some f) ∧ f.batched = false ∧ f.cause ≠ .hostNotPresent ∧ s.faultRing ten port = some (ring, lg) ∧ (s.ring ring).cqFree ≠ 0 ∧ sends s (s.ring ring).port) 1 3 0 3 v2 s3) ∧
    ((fun (port : Nat) (ten : Nat) (id : Nat) (f : FaultRec) (s : State) =>
      (s.faults.find? (fun g => g.tenancy == ten && g.port == port && g.id == id) = some f) ∧ s.frame < f.frame + (s.stored 0x0700400).toNat % 2 ^ 32) 0 3 4 v4 s5) ∧
    ((fun (port : Nat) (ten : Nat) (id : Nat) (y : Work) (f : FaultRec) (s : State) =>
      (s.faults.find? (fun g => g.tenancy == ten && g.port == port && g.id == id) = some f) ∧ f.frame + (s.stored 0x0700400).toNat % 2 ^ 32 ≤ s.frame ∧ s.work f.w = some y ∧ f.run = false) 0 3 4 ({(mw 0x41 []) with stalled := true}) v4 s6) ∧
    ((fun (port : Nat) (index : Nat) (y : Work) (f : FaultRec) (s : State) =>
      (s.faults.find? (fun g => g.port == port && g.prg == some index) = some f) ∧ s.work f.w = some y) 0 7 ({(mw 0x41 []) with stalled := true}) v7 s8) := by
  refine ⟨by decide +kernel, by decide +kernel, by decide +kernel, by decide +kernel, by decide +kernel, by decide +kernel⟩

/-- States and operands that meet the premises of `Obligations.FaultsAreServed`, part 2. -/
theorem witness_FaultsAreServed_2 :
    ((fun (port : Nat) (index : Nat) (y : Work) (f : FaultRec) (s : State) =>
      (s.faults.find? (fun g => g.port == port && g.prg == some index) = some f) ∧ s.work f.w = some y ∧ f.run = false) 0 7 ({(mw 0x41 []) with stalled := true}) v7 s8) ∧
    ((fun (port : Nat) (y : Work) (f : FaultRec) (s : State) =>
      s.faults = [f] ∧ f.port = port ∧ s.work f.w = some y ∧ f.run = false) 0 ({(mw 0x41 []) with stalled := true}) v4 s5) ∧
    ((fun (w : Nat) (x : Work) (s : State) =>
      startable s w x 0x60 ∧ fld x.desc 36 1 = 0) 8 v9 s10) ∧
    ((fun (w : Nat) (x : Work) (f : FaultRec) (s : State) =>
      startable s w x 0x60 ∧ fld x.desc 36 1 = 1 ∧ ((∀ f ∈ s.resumed x, f.run = false ∧ f.w ≠ w))) 8 v11 v12 s13) ∧
    ((fun (port : Nat) (ten : Nat) (mp : MgmtPort) (v : Reg) (s : State) =>
      let r := s.ring (bits v.toNat 15 0)
      setUp s mp ∧ ten < 512 ∧ port < 12 ∧ bit v.toNat 31 = true ∧ (r.configured = false ∨ r.tenancy ≠ ten ∨ r.port ≠ port ∨ r.service = false)) 0 5 (.a) 0x80000001 s14) ∧
    ((fun (port : Nat) (ten : Nat) (mp : MgmtPort) (v : Reg) (s : State) =>
      let r := s.ring (bits v.toNat 15 0)
      setUp s mp ∧ ten < 512 ∧ port < 12 ∧ (bit v.toNat 31 = false ∨ (r.configured = true ∧ r.tenancy = ten ∧ r.port = port ∧ r.service = true))) 0 3 (.a) 0 s1) := by
  refine ⟨by decide +kernel, by decide +kernel, by decide +kernel, by decide +kernel, by decide +kernel, by decide +kernel⟩

end W09a


namespace W09b

def f0 : FaultRec := { tenancy := 3, port := 0, id := 4, w := 5, ctx := 1, addr := 0x5000, write := false, run := false, cell := 0, cause := .notPresent, level := 2, time := 0, frame := 0, batched := false, posted := false, prg := none, logIdx := none }
def bytesAt (a : Nat) (b : Bytes) : List (Nat × Byte) := ((List.range b.length).map (fun i => (a + i, b.getD i 0))).filter (fun c => c.2 != 0)
def node0 : Nat := 2^48
/-- A mirrored table at 2^48 of tenancy 3: page of 2 MiB at VA 0 to HBM 0 (read+write), VA 2 MiB with entry e. -/
def tabm (e0 e : Nat) : List (Nat × Byte) :=
  bytesAt node0 (toLe 8 (node0 % 2^56 + 4096 + 1)) ++ bytesAt (node0 + 4096) (toLe 8 (node0 + 8192 + 1)) ++ bytesAt (node0 + 8192) (toLe 8 e0 ++ toLe 8 e)
def mir (e0 e : Nat) (s : State) : State := { s with
  live := lv 3 0x0700008 (2^33) :: lv 3 0x0700000 2 :: s.live
  memory := (List.range 64).map (fun i => (i, BitVec.ofNat 8 (i+1))) ++ tabm e0 e }
def rt : Nat := 3 * 2^62 + node0
def mw (op : Nat) (d : Bytes) : Work := { wk 5 op 1 d with xltRoot := rt }
def goOf (g : Gate) : State := match g with | .go s => s | .hold s => s

def s3 : State := {busy [] with invalWait := [0,1,0]}
def v5 : Bytes := (toLe 8 (3*2^62+2^48+9) ++ toLe 8 0x100D)
def v7 : Bytes := (toLe 8 (3*2^62+2^48+8) ++ toLe 8 0x100D)
def v0 : XltWait := (⟨0,9,5,5,true,false,none,0x5008⟩ : XltWait)
def v4 : Work := (mw 0x61 (desc 0x61 0 1 (2^30) 0 0 (toLe 2 1)))
def s1 : State := {busy [(wk 5 0x41 1 [])] with xltWaits := [v0], live := lv 3 0x0700000 2 :: base.live, regs := base.regs ++ [], faults := [{f0 with w := 77, id := 2}]}
def s2 : State := {busy [(wk 5 0x41 1 [])] with xltWaits := [v0], live := lv 3 0x0700000 0 :: base.live, regs := base.regs ++ [], faults := [{f0 with w := 77, id := 2}]}
def s6 : State := {mir 15 15 (busy [v4]) with atc := { tenancy := 3, ats := true, port := 0, space := 9, page := 2^30, size := 2^20, target := 2^30, read := true, write := true } :: [{ tenancy := 3, ats := false, port := 0, space := 8, page := 0, size := 4096, target := 0, read := true, write := true }]}

/-- States and operands that meet the premises of `Obligations.TranslationsComeAndGo`, part 1. -/
theorem witness_TranslationsComeAndGo_1 :
    ((fun (port : Nat) (pasid : Nat) (addr : Nat) (rd : Bool) (wr : Bool) (v : XltWait) (x : Work) (s : State) =>
      s.xltWaits = [v] ∧ v.port = port ∧ v.pasid = pasid ∧ v.page = addr / 4096 ∧ v.granted = false ∧ s.work v.w = some x ∧ (if v.write then wr else rd) = true ∧ s.atcCap x.tenancy ≠ 0) 0 9 0x5000 true true v0 ((wk 5 0x41 1 [])) s1) ∧
    ((fun (port : Nat) (pasid : Nat) (addr : Nat) (rd : Bool) (wr : Bool) (v : XltWait) (x : Work) (s : State) =>
      s.xltWaits = [v] ∧ v.port = port ∧ v.pasid = pasid ∧ v.page = addr / 4096 ∧ v.granted = false ∧ s.work v.w = some x ∧ (if v.write then wr else rd) = true ∧ s.atcCap x.tenancy = 0) 0 9 0x5000 true true v0 ((wk 5 0x41 1 [])) s2) ∧
    ((fun (port : Nat) (pasid : Nat) (addr : Nat) (rd : Bool) (wr : Bool) (v : XltWait) (x : Work) (s : State) =>
      s.xltWaits = [v] ∧ v.port = port ∧ v.pasid = pasid ∧ v.page = addr / 4096 ∧ v.granted = false ∧ s.work v.w = some x ∧ (if v.write then wr else rd) = false) 0 9 0x5000 true false v0 ((wk 5 0x41 1 [])) s1) ∧
    ((fun (port : Nat) (s : State) =>
      hostPort s port) 0 s1) ∧
    ((fun (port : Nat) (s : State) =>
      s.invalWait.contains port = true ∧ sends s port) 0 s3) ∧
    ((fun (port : Nat) (s : State) =>
      s.invalWait.contains port = false) 0 s1) := by
  refine ⟨by decide +kernel, by decide +kernel, by decide +kernel, by decide +kernel, by decide +kernel, by decide +kernel⟩

/-- States and operands that meet the premises of `Obligations.TranslationsComeAndGo`, part 2. -/
theorem witness_TranslationsComeAndGo_2 :
    ((fun (w : Nat) (x : Work) (b : Bytes) (s : State) (s' : State) =>
      let rs := syncRecords (slice b 0 (16 * fld x.desc 32 2)) (fld x.desc 32 2)
      startable s w x 0x61 ∧ addrClass (descOp0 x.desc) = 0 ∧ letThrough s x [(descOp0 x.desc, 16 * fld x.desc 32 2, false)] s' ∧ (rs.any (fun r => r.1 % 8 != 0 || addrClass r.1 != 3 || !inRange (r.1 % 2 ^ 62) 8 (s.mirrorPool x.tenancy) || entryReserved r.2) = true)) 5 v4 v5 s6 s6) ∧
    ((fun (w : Nat) (x : Work) (b : Bytes) (s : State) (s' : State) =>
      let rs := syncRecords (slice b 0 (16 * fld x.desc 32 2)) (fld x.desc 32 2)
      startable s w x 0x61 ∧ addrClass (descOp0 x.desc) = 0 ∧ letThrough s x [(descOp0 x.desc, 16 * fld x.desc 32 2, false)] s' ∧ (rs.any (fun r => r.1 % 8 != 0 || addrClass r.1 != 3 || !inRange (r.1 % 2 ^ 62) 8 (s.mirrorPool x.tenancy) || entryReserved r.2) = false)) 5 v4 v7 s6 s6) := by
  refine ⟨by decide +kernel, by decide +kernel⟩

end W09b


namespace W10

def req0 : WlReq := { tag := 5, rank := 1, port := 1, ctx := 1, region := 4, kind := 1, w := 5, cell := none, addr := 0, len := 16, offset := 64, flag := false, out := [], seg := none, data := none, key := 77, sent := true, born := 0 }
def own0 : Owned := { owner := 1, serial := 2, kind := 2, phase := 1, acquired := false, view := 3, partner := 1, acked := false, orphaned := 0, w := 5, image := [1], fragPhase := 0, frags := [] }
/-- This device is rank 0 of members 0, 1 and 2 in view 3; rank 1 is one hop away on PORT1, rank 2 two hops. -/
def fab : Fabric := { Fabric.reset with view := 3, members := [0, 1, 2] }
def far (f : Fabric) : State := { base with
  fabric := f, regs := (0x0010020, 9) :: (0x0801008, 0x8101) :: (0x0801010, 0x8201) :: base.regs, memory := (List.range 200).map (fun i => (i, BitVec.ofNat 8 (i + 1))) }
def reg4 : Region := { state := 1, perm := 7, tenancy := 3, base := 3 * 2^62, length := 4096, key := 77, newKey := none }
def mm (src off order : Nat) (p : Bytes) : Msg := { msg0 with src, tag := 5, order, target := 4 * 2^52 + off, key := 77, ctx := 1, payload := p }
def rec' (op off len : Nat) (d : Bytes) : Bytes := toLe 1 op ++ toLe 1 0 ++ toLe 2 len ++ toLe 4 0 ++ toLe 8 off ++ pad16 d

def s41 : State := far {fab with owned := []}
def s43 : State := far {fab with owned := [own0]}
def s0 : State := far {fab with regions := [(4, reg4)]}
def v3 : Msg := mm 1 0 0 (rec' 2 16 20 (List.replicate 20 9))
def v27 : Msg := {mm 1 0 0 (toLe 2 2 ++ toLe 62 0) with key := 0}
def v1 : Msg := {mm 1 16 1 (List.replicate 70 9) with flags := 1}
def v5 : Msg := {mm 1 0 0 (List.replicate 20 3) with status := 0}
def v9 : Msg := {mm 1 0 0 (List.replicate 20 3) with status := 1}
def v2 : Msg := {mm 1 16 0 (List.replicate 4 9) with atomicOp := 1}
def v12 : WlReq := {req0 with kind := 1, sent := false, out := [1,2,3]}
def s45 : State := far {fab with owned := [{own0 with acquired := true}]}
def v44 : Owned := (([{own0 with acquired := true}] : List Owned).getD 0 own0)
def s52 : State := far {fab with owned := [{own0 with orphaned := 3, kind := 3}]}
def v46 : Msg := {mm 1 0 0 (toLe 8 (2^32+2) ++ toLe 1 3 ++ toLe 4 3) with key := 0}
def s48 : State := far {fab with owned := [{own0 with acquired := true, phase := 3}]}
def v49 : Msg := {mm 1 0 0 (toLe 8 (2^32+2) ++ toLe 1 1 ++ toLe 4 3) with key := 0}
def v50 : Msg := {mm 1 0 0 (toLe 8 (2^32+2) ++ toLe 1 0 ++ toLe 4 3) with key := 0}
def v51 : Owned := (([{own0 with orphaned := 3, kind := 3}] : List Owned).getD 0 own0)
def s16 : State := {far {fab with requests := [req0]} with works := [(wk 5 0x41 1 [])]}
def v47 : Owned := (([{own0 with acquired := true, phase := 3}] : List Owned).getD 0 own0)
def s25 : State := {far {fab with view := 3} with time := {base.time with now := 0 * 2^14}}
def v29 : Msg := {mm 1 0 0 (toLe 4 4 ++ toLe 1 1 ++ toLe 1 0 ++ toLe 58 0) with key := 0}
def v32 : Msg := {mm 1 0 0 (toLe 4 4 ++ toLe 1 1 ++ toLe 1 1 ++ toLe 58 0) with key := 0}
def s26 : State := {far {fab with view := 3} with time := {base.time with now := 65 * 2^14}}
def v24 : Msg := {mm 1 0 0 (toLe 4 3 ++ toLe 4 20 ++ toLe 56 0 ++ memberBytes [0,1]) with key := 0}
def v28 : Msg := {mm 1 0 0 (toLe 4 4 ++ toLe 4 20 ++ toLe 56 0 ++ memberBytes [0,1]) with key := 0}
def s6 : State := {far {fab with requests := [{req0 with kind := 1}]} with works := [(wk 5 0x41 1 [])]}
def s7 : State := {far {fab with requests := [{req0 with kind := 5}]} with works := [(wk 5 0x41 1 [])]}
def s8 : State := {far {fab with requests := [{req0 with kind := 3}]} with works := [(wk 5 0x41 1 [])]}
def v10 : Stream := ({ ctx := 1, region := 4, rank := 1, seq := 3, open_ := [], inFlight := [2] } : Stream)
def v14 : Stream := ({ ctx := 1, region := 4, rank := 1, seq := 3, open_ := [5], inFlight := [] } : Stream)
def v4 : SegRec := ((v3.records).getD 0 (⟨0,0,0,[]⟩ : SegRec))
def s39 : State := (let s := far fab; {s with regs := (0x080C018, 9) :: (0x080C100, 0x107) :: (0x080C108, 1) :: s.regs})
def s37 : State := {far {fab with noQuorum := true} with time := {base.time with now := 255 * 2^14}, works := [wk 5 0x41 1 []]}
def s38 : State := {far {fab with noQuorum := true} with time := {base.time with now := 256 * 2^14}, works := [wk 5 0x41 1 []]}
def v40 : Msg := {mm 1 0 0 (toLe 8 (2^32+2) ++ toLe 1 2 ++ toLe 1 1 ++ toLe 2 0 ++ toLe 2 1 ++ toLe 50 0 ++ [9,8,7]) with key := 0}
def v42 : Msg := {mm 1 0 0 (toLe 8 (2^32+2) ++ toLe 1 2 ++ toLe 1 1 ++ toLe 2 0 ++ toLe 2 2 ++ toLe 50 0 ++ [9,8,7]) with key := 0}
def v30 : Proposal := ({view := 4, proposer := 0, members := [0,1], frame := 0, accepted := [0], round2 := [], committed := false} : Proposal)
def v33 : Proposal := ({view := 4, proposer := 0, members := [0,1,2], frame := 0, accepted := [0], round2 := [], committed := false} : Proposal)
def s23 : State := {far {fab with migrations := []} with extents := [(2,{Extent.free with state := 1, tenancy := 3})], leases := [(512,{state := .held, expiry := 10^9, fenceFrame := 0})]}
def s31 : State := {far {fab with proposal := some v30} with time := {base.time with now := 5 * 2^14}}
def s11 : State := {far {fab with requests := [{req0 with kind := 3, seg := some 2}], streams := [v10]} with works := [(wk 5 0x41 1 [])]}
def s34 : State := {far {fab with proposal := some v33} with time := {base.time with now := 32 * 2^14}}
def s17 : State := (let s := far {fab with regions := [], held := [], windows := []}; {s with regs := img 0x0809000 (toLe 1 (0) ++ toLe 1 (7) ++ toLe 2 (3) ++ toLe 4 (0) ++ toLe 8 (3*2^62+4096) ++ toLe 8 (8192) ++ toLe 8 (99)) ++ s.regs})
def s19 : State := (let s := far {fab with regions := [], held := [], windows := []}; {s with regs := img 0x0809000 (toLe 1 (0) ++ toLe 1 (7) ++ toLe 2 (3) ++ toLe 4 (0) ++ toLe 8 (3*2^62+2^40) ++ toLe 8 (8192) ++ toLe 8 (99)) ++ s.regs})
def s22 : State := (let s := far {fab with regions := [], held := [], windows := []}; {s with regs := img 0x0809000 (toLe 1 (0) ++ toLe 1 (0) ++ toLe 2 (3) ++ toLe 2 (1) ++ toLe 2 (9) ++ toLe 8 (4096) ++ toLe 8 (8192) ++ toLe 8 (99)) ++ s.regs})
def s13 : State := { far {fab with requests := [v12], streams := [v14]} with time := { base.time with now := 0 } }
def s18 : State := (let s := far {fab with regions := [(4, reg4)], held := [], windows := []}; {s with regs := img 0x0809000 (toLe 1 (0) ++ toLe 1 (7) ++ toLe 2 (3) ++ toLe 4 (0) ++ toLe 8 (3*2^62+4096) ++ toLe 8 (8192) ++ toLe 8 (99)) ++ s.regs})
def s15 : State := { far {fab with requests := [v12], streams := [v14]} with time := { base.time with now := 5000 } }
def s21 : State := (let s := far {fab with regions := [], held := [], windows := [(4, {Window.free with state := 1, tenancy := 3})]}; {s with regs := img 0x0809000 (toLe 1 (0) ++ toLe 1 (7) ++ toLe 2 (3) ++ toLe 4 (0) ++ toLe 8 (3*2^62+4096) ++ toLe 8 (8192) ++ toLe 8 (99)) ++ s.regs})
def s20 : State := (let s := far {fab with regions := [(4, reg4)], held := [{port := 1, type := 1, pass := 0, msg := mm 1 0 0 []}], windows := []}; {s with regs := img 0x0809000 (toLe 1 (0) ++ toLe 1 (7) ++ toLe 2 (3) ++ toLe 4 (0) ++ toLe 8 (3*2^62+4096) ++ toLe 8 (8192) ++ toLe 8 (99)) ++ s.regs})
def s35 : State := {far {fab with install := some (4,[0,1],9), windows := [(1,{Window.free with state := 1, rank := 1}),(2,{Window.free with state := 1, rank := 2})], flagWait := [{port := 1, type := 3, pass := 0, msg := mm 2 0 0 []},{port := 1, type := 3, pass := 0, msg := mm 1 0 0 []}]} with time := {base.time with now := 8 * 2^14}}
def s36 : State := {far {fab with install := some (4,[0,1],9), windows := [(1,{Window.free with state := 1, rank := 1}),(2,{Window.free with state := 1, rank := 2})], flagWait := [{port := 1, type := 3, pass := 0, msg := mm 2 0 0 []},{port := 1, type := 3, pass := 0, msg := mm 1 0 0 []}]} with time := {base.time with now := 9 * 2^14}}

/-- States and operands that meet the premises of `Obligations.HomeDeviceServesRequests`, part 1. -/
theorem witness_HomeDeviceServesRequests_1 :
    ((fun (port : Nat) (m : Msg) (s : State) =>
      s.carries port = true ∧ s.portClass port = 2 ∧ ((m.reserved ≠ 0 ∨ s.fabric.members.contains m.src = false))) 1 ({mm 1 16 64 [] with reserved := 1}) s0) ∧
    ((fun (port : Nat) (m : Msg) (s : State) =>
      s.carries port = true ∧ s.portClass port = 2 ∧ ((m.reserved ≠ 0 ∨ s.fabric.members.contains m.src = false))) 1 ({mm 1 16 64 [] with reserved := 1}) s0) ∧
    ((fun (port : Nat) (m : Msg) (s : State) =>
      s.carries port = true ∧ s.portClass port = 2 ∧ ((m.reserved ≠ 0 ∨ s.fabric.members.contains m.src = false))) 1 ({mm 1 16 64 [] with reserved := 1}) s0) ∧
    ((fun (port : Nat) (m : Msg) (s : State) =>
      s.carries port = true ∧ s.portClass port = 2 ∧ ((m.reserved ≠ 0 ∨ s.fabric.members.contains m.src = false))) 1 ({mm 1 16 64 [] with reserved := 1}) s0) ∧
    ((fun (port : Nat) (p : Nat) (m : Msg) (s : State) =>
      let g := s.region m.region
      let n := m.order % 2 ^ 10
      let quiet := s.fabric.held = [] ∧ s.fabric.flagWait = [] ∧ s.routePort m.src = some p ∧ s.fabric.excluded = false ∧ sends s p ∧
      s.recalled.any (fun r => r.1 == fabricWork m) = false
      accepts s port 1 m ∧ quiet ∧ s.answerRowRead m = none ∧ (accessLegal m.offset n = false ∨ g.allows m.key m.offset n 0 = false)) 1 1 (mm 1 4090 64 []) s0) ∧
    ((fun (port : Nat) (p : Nat) (m : Msg) (s : State) =>
      let g := s.region m.region
      let a := g.addr m.offset
      let n := m.order % 2 ^ 10
      let here : Nat → Nat → Prop := fun a n => ∀ q ∈ pieces a n, s.checkMem g.tenancy q.1 q.2 = .mem q.1 ∧ q.1 / 2 ^ 48 ≤ 1
      let served : Bool → Nat → Nat → Prop := fun write a n => here a n ∧ ∃ s', s.regionGate g.tenancy (fabricWork m) write (pieces a n) = .go s'
      let quiet := s.fabric.held = [] ∧ s.fabric.flagWait = [] ∧ s.routePort m.src = some p ∧ s.fabric.excluded = false ∧ sends s p ∧
      s.recalled.any (fun r => r.1 == fabricWork m) = false
      accepts s port 1 m ∧ quiet ∧ s.answerRowRead m = none ∧ accessLegal m.offset n = true ∧ g.allows m.key m.offset n 0 = true ∧ served false a n ∧ s.poisonedIn a n = false) 1 1 (mm 1 16 64 []) s0) := by
  refine ⟨by decide +kernel, by decide +kernel, by decide +kernel, by decide +kernel, by decide +kernel, ⟨by decide +kernel, by decide +kernel, by decide +kernel, by decide +kernel, by decide +kernel, ⟨by decide +kernel, gateGo_ (by decide +kernel)⟩, by decide +kernel⟩⟩

/-- States and operands that meet the premises of `Obligations.HomeDeviceServesRequests`, part 2. -/
theorem witness_HomeDeviceServesRequests_2 :
    ((fun (port : Nat) (p : Nat) (m : Msg) (s : State) =>
      let g := s.region m.region
      let quiet := s.fabric.held = [] ∧ s.fabric.flagWait = [] ∧ s.routePort m.src = some p ∧ s.fabric.excluded = false ∧ sends s p ∧
      s.recalled.any (fun r => r.1 == fabricWork m) = false
      accepts s port 3 m ∧ quiet ∧ (accessLegal m.offset m.payload.length = false ∨ g.allows m.key m.offset m.payload.length 1 = false)) 1 1 (mm 1 16 64 []) s0) ∧
    ((fun (port : Nat) (p : Nat) (m : Msg) (s : State) =>
      let g := s.region m.region
      let quiet := s.fabric.held = [] ∧ s.fabric.flagWait = [] ∧ s.routePort m.src = some p ∧ s.fabric.excluded = false ∧ sends s p ∧
      s.recalled.any (fun r => r.1 == fabricWork m) = false
      accepts s port 3 m ∧ quiet ∧ accessLegal m.offset m.payload.length = true ∧ g.allows m.key m.offset m.payload.length 1 = true ∧ bit m.flags 0 = true ∧ m.order ≠ (s.storeSeq m.src m.ctx).next) 1 1 v1 s0) ∧
    ((fun (port : Nat) (p : Nat) (m : Msg) (s : State) =>
      let g := s.region m.region
      let a := g.addr m.offset
      let n := m.order % 2 ^ 10
      let here : Nat → Nat → Prop := fun a n => ∀ q ∈ pieces a n, s.checkMem g.tenancy q.1 q.2 = .mem q.1 ∧ q.1 / 2 ^ 48 ≤ 1
      let served : Bool → Nat → Nat → Prop := fun write a n => here a n ∧ ∃ s', s.regionGate g.tenancy (fabricWork m) write (pieces a n) = .go s'
      let quiet := s.fabric.held = [] ∧ s.fabric.flagWait = [] ∧ s.routePort m.src = some p ∧ s.fabric.excluded = false ∧ sends s p ∧
      s.recalled.any (fun r => r.1 == fabricWork m) = false
      accepts s port 3 m ∧ quiet ∧ accessLegal m.offset m.payload.length = true ∧ g.allows m.key m.offset m.payload.length 1 = true ∧ bit m.flags 0 = false ∧ bit m.flags 1 = false ∧ served true a m.payload.length) 1 1 (mm 1 16 0 (List.replicate 70 9)) s0) ∧
    ((fun (port : Nat) (p : Nat) (m : Msg) (s : State) =>
      let g := s.region m.region
      let a := g.addr m.offset
      let n := m.order % 2 ^ 10
      let here : Nat → Nat → Prop := fun a n => ∀ q ∈ pieces a n, s.checkMem g.tenancy q.1 q.2 = .mem q.1 ∧ q.1 / 2 ^ 48 ≤ 1
      let served : Bool → Nat → Nat → Prop := fun write a n => here a n ∧ ∃ s', s.regionGate g.tenancy (fabricWork m) write (pieces a n) = .go s'
      let quiet := s.fabric.held = [] ∧ s.fabric.flagWait = [] ∧ s.routePort m.src = some p ∧ s.fabric.excluded = false ∧ sends s p ∧
      s.recalled.any (fun r => r.1 == fabricWork m) = false
      let w := atomicWidth m
      accepts s port 5 m ∧ quiet ∧ 1 ≤ m.atomicOp ∧ m.atomicOp ≤ 10 ∧ ((w = 4 ∨ w = 8)) ∧ m.offset % w = 0 ∧ g.allows m.key m.offset w 2 = true ∧ served true a w ∧ s.poisonedIn a w = false) 1 1 v2 s0) ∧
    ((fun (port : Nat) (p : Nat) (m : Msg) (s : State) =>
      let g := s.region m.region
      let quiet := s.fabric.held = [] ∧ s.fabric.flagWait = [] ∧ s.routePort m.src = some p ∧ s.fabric.excluded = false ∧ sends s p ∧
      s.recalled.any (fun r => r.1 == fabricWork m) = false
      let w := atomicWidth m
      accepts s port 5 m ∧ quiet ∧ g.allows m.key m.offset w 2 = false) 1 1 ({mm 1 16 64 [] with key := 1}) s0) ∧
    ((fun (port : Nat) (p : Nat) (m : Msg) (s : State) =>
      let quiet := s.fabric.held = [] ∧ s.fabric.flagWait = [] ∧ s.routePort m.src = some p ∧ s.fabric.excluded = false ∧ sends s p ∧
      s.recalled.any (fun r => r.1 == fabricWork m) = false
      let x := s.streamIn m
      accepts s port 8 m ∧ quiet ∧ m.order ≠ x.next) 1 1 (mm 1 16 64 []) s0) := by
  refine ⟨by decide +kernel, by decide +kernel, ⟨by decide +kernel, by decide +kernel, by decide +kernel, by decide +kernel, by decide +kernel, by decide +kernel, ⟨by decide +kernel, gateGo_ (by decide +kernel)⟩⟩, ⟨by decide +kernel, by decide +kernel, by decide +kernel, by decide +kernel, by decide +kernel, by decide +kernel, by decide +kernel, ⟨by decide +kernel, gateGo_ (by decide +kernel)⟩, by decide +kernel⟩, by decide +kernel, by decide +kernel⟩

/-- States and operands that meet the premises of `Obligations.HomeDeviceServesRequests`, part 3. -/
theorem witness_HomeDeviceServesRequests_3 :
    ((fun (port : Nat) (p : Nat) (m : Msg) (s : State) =>
      let quiet := s.fabric.held = [] ∧ s.fabric.flagWait = [] ∧ s.routePort m.src = some p ∧ s.fabric.excluded = false ∧ sends s p ∧
      s.recalled.any (fun r => r.1 == fabricWork m) = false
      let x := s.streamIn m
      accepts s port 8 m ∧ quiet ∧ m.order = x.next ∧ x.waiting = [] ∧ s.segPass m = 0 ∧ m.records ≠ []) 1 1 (mm 1 16 0 (List.replicate 70 9)) s0) ∧
    ((fun (port : Nat) (p : Nat) (m : Msg) (c : SegRec) (s : State) =>
      let g := s.region m.region
      let a := g.addr m.offset
      let n := m.order % 2 ^ 10
      let here : Nat → Nat → Prop := fun a n => ∀ q ∈ pieces a n, s.checkMem g.tenancy q.1 q.2 = .mem q.1 ∧ q.1 / 2 ^ 48 ≤ 1
      let served : Bool → Nat → Nat → Prop := fun write a n => here a n ∧ ∃ s', s.regionGate g.tenancy (fabricWork m) write (pieces a n) = .go s'
      let quiet := s.fabric.held = [] ∧ s.fabric.flagWait = [] ∧ s.routePort m.src = some p ∧ s.fabric.excluded = false ∧ sends s p ∧
      s.recalled.any (fun r => r.1 == fabricWork m) = false
      let x := s.streamIn m
      accepts s port 8 m ∧ quiet ∧ m.order = x.next ∧ x.waiting = [] ∧ m.records = [c] ∧ c.passes g m.key = true ∧ ((c.op = 2 ∨ c.op = 3)) ∧ c.data.length = c.len ∧ served true (g.addr c.off) c.len) 1 1 v3 v4 s0) := by
  refine ⟨by decide +kernel, ⟨by decide +kernel, by decide +kernel, by decide +kernel, by decide +kernel, by decide +kernel, by decide +kernel, by decide +kernel, by decide +kernel, ⟨by decide +kernel, gateGo_ (by decide +kernel)⟩⟩⟩

/-- States and operands that meet the premises of `Obligations.SourceDeviceEndsRequests`, part 1. -/
theorem witness_SourceDeviceEndsRequests_1 :
    ((fun (port : Nat) (m : Msg) (r : WlReq) (s : State) =>
      let mine := m.tag = r.tag ∧ m.src = r.rank ∧ r.data = none
      s.fabric.requests = [r] ∧ s.fabric.streams = [] ∧ mine ∧ r.seg = none ∧ r.w < 2 ^ 70 ∧ (r.addr < 2 ^ 80 ∨ m.payload ≠ []) ∧ accepts s port 2 m ∧ r.kind = 1 ∧ (r.cell ≠ none ∨ s.runs.any (fun v => v.w == r.w) = false) ∧ m.status = 0 ∧ bit m.flags 1 = false) 1 v5 ({req0 with kind := 1}) s6) ∧
    ((fun (port : Nat) (m : Msg) (r : WlReq) (s : State) =>
      let mine := m.tag = r.tag ∧ m.src = r.rank ∧ r.data = none
      s.fabric.requests = [r] ∧ s.fabric.streams = [] ∧ mine ∧ r.seg = none ∧ r.w < 2 ^ 70 ∧ (r.addr < 2 ^ 80 ∨ m.payload ≠ []) ∧ accepts s port 6 m ∧ r.kind = 5 ∧ m.status = 0 ∧ bit m.flags 1 = false) 1 v5 ({req0 with kind := 5}) s7) ∧
    ((fun (port : Nat) (m : Msg) (r : WlReq) (s : State) =>
      let mine := m.tag = r.tag ∧ m.src = r.rank ∧ r.data = none
      s.fabric.requests = [r] ∧ s.fabric.streams = [] ∧ mine ∧ r.seg = none ∧ r.w < 2 ^ 70 ∧ (r.addr < 2 ^ 80 ∨ m.payload ≠ []) ∧ accepts s port 4 m ∧ r.kind = 3 ∧ r.cell = none ∧ m.status = 0 ∧ bit m.flags 1 = false) 1 v5 ({req0 with kind := 3}) s8) ∧
    ((fun (port : Nat) (m : Msg) (r : WlReq) (x : Work) (s : State) =>
      let mine := m.tag = r.tag ∧ m.src = r.rank ∧ r.data = none
      s.fabric.requests = [r] ∧ s.fabric.streams = [] ∧ mine ∧ r.seg = none ∧ r.w < 2 ^ 70 ∧ (r.addr < 2 ^ 80 ∨ m.payload ≠ []) ∧ accepts s port 4 m ∧ r.kind = 3 ∧ m.status = 1 ∧ s.isRun r.w = false ∧ s.work r.w = some x ∧ x.result = none) 1 v9 ({req0 with kind := 3}) ((wk 5 0x41 1 [])) s8) ∧
    ((fun (port : Nat) (q : Nat) (m : Msg) (r : WlReq) (st : Stream) (s : State) =>
      let mine := m.tag = r.tag ∧ m.src = r.rank ∧ r.data = none
      accepts s port 9 m ∧ s.fabric.requests = [r] ∧ mine ∧ r.seg = some q ∧ r.kind = 3 ∧ r.cell = none ∧ r.w < 2 ^ 70 ∧ m.status = 0 ∧ bit m.flags 1 = false ∧ fld m.payload 0 4 = 2 ^ 32 - 1 ∧ s.fabric.streams = [st] ∧ st.ctx = r.ctx ∧ st.region = r.region ∧ st.rank = r.rank ∧ st.open_ = [] ∧ st.inFlight = [q]) 1 2 (mm 1 0 0 (toLe 4 0xFFFFFFFF)) ({req0 with kind := 3, seg := some 2}) v10 s11) ∧
    ((fun (ctx : Nat) (region : Nat) (rank : Nat) (s : State) =>
      s.openReqs (s.stream ctx region rank) = []) 0 0 0 s6) := by
  refine ⟨by decide +kernel, by decide +kernel, by decide +kernel, by decide +kernel, by decide +kernel, by decide +kernel⟩

/-- States and operands that meet the premises of `Obligations.SourceDeviceEndsRequests`, part 2. -/
theorem witness_SourceDeviceEndsRequests_2 :
    ((fun (ctx : Nat) (region : Nat) (rank : Nat) (r : WlReq) (s : State) (rs : List WlReq) =>
      s.openReqs (s.stream ctx region rank) = r :: rs ∧ s.time.now < r.born + 64 * s.cclkHalfNs) 1 4 1 v12 s13 []) ∧
    ((fun (ctx : Nat) (region : Nat) (rank : Nat) (p : Nat) (r : WlReq) (st : Stream) (s : State) =>
      s.fabric.requests = [r] ∧ s.stream ctx region rank = st ∧ st.open_ = [r.tag] ∧ st.inFlight.length < 8 ∧ st.ctx = ctx ∧ st.region = region ∧ st.rank = rank ∧ r.born + 64 * s.cclkHalfNs ≤ s.time.now ∧ r.record.length ≤ 4096 ∧ s.unacked ctx rank < 4096 ∧ s.routePort rank = some p ∧ s.fabric.excluded = false ∧ sends s p) 1 4 1 1 v12 v14 s15) ∧
    ((fun (port : Nat) (r : WlReq) (x : Work) (s : State) =>
      s.portClass port = 2 ∧ (s.port port).up = true ∧ s.groups = [] ∧ s.fabric.requests = [r] ∧ r.port = port ∧ r.data = none ∧ r.w < 2 ^ 70 ∧ s.isRun r.w = false ∧ s.work r.w = some x ∧ x.result = none) 1 ({req0 with kind := 1}) ((wk 5 0x41 1 [])) s6) ∧
    ((fun (port : Nat) (s : State) =>
      s.portClass port = 1 ∧ (s.port port).up = true) 0 s13) ∧
    ((fun (port : Nat) (s : State) =>
      (s.port port).up = false) 2 s16) ∧
    ((fun (port : Nat) (s : State) =>
      (s.port port).up = false) 2 s16) := by
  refine ⟨by decide +kernel, by decide +kernel, by decide +kernel, by decide +kernel, by decide +kernel, by decide +kernel⟩

/-- States and operands that meet the premises of `Obligations.RegionsWindowsAndMigration`, part 1. -/
theorem witness_RegionsWindowsAndMigration_1 :
    ((fun (mp : MgmtPort) (id : Nat) (s : State) =>
      id < 4096 ∧ ready s mp .wl) (.a) 4 s17) ∧
    ((fun (mp : MgmtPort) (id : Nat) (s : State) =>
      id < 4096 ∧ ready s mp .wl) (.a) 4 s17) ∧
    ((fun (mp : MgmtPort) (id : Nat) (s : State) =>
      let g := s.region id
      id < 4096 ∧ ready s mp .wl ∧ g.state ≠ 0) (.a) 4 s18) ∧
    ((fun (mp : MgmtPort) (id : Nat) (s : State) =>
      let b := s.image 0x0809000 4
      let g := s.region id
      let new : Region := { state := 1, perm := fld b 1 1, tenancy := fld b 2 2, base := fld b 8 8, length := fld b 16 8, key := fld b 24 8, newKey := none }
      id < 4096 ∧ ready s mp .wl ∧ g.state = 0 ∧ s.ownsAll new.tenancy (new.base % 2 ^ 56) new.length = false) (.a) 4 s19) ∧
    ((fun (mp : MgmtPort) (id : Nat) (s : State) =>
      let b := s.image 0x0809000 4
      let g := s.region id
      let new : Region := { state := 1, perm := fld b 1 1, tenancy := fld b 2 2, base := fld b 8 8, length := fld b 16 8, key := fld b 24 8, newKey := none }
      id < 4096 ∧ ready s mp .wl ∧ g.state = 0 ∧ s.exportOk new = true) (.a) 4 s17) ∧
    ((fun (mp : MgmtPort) (id : Nat) (s : State) =>
      let g := s.region id
      id < 4096 ∧ ready s mp .wl ∧ g.state ≠ 1) (.a) 4 s17) := by
  refine ⟨by decide +kernel, by decide +kernel, by decide +kernel, by decide +kernel, by decide +kernel, by decide +kernel⟩

/-- States and operands that meet the premises of `Obligations.RegionsWindowsAndMigration`, part 2. -/
theorem witness_RegionsWindowsAndMigration_2 :
    ((fun (mp : MgmtPort) (id : Nat) (s : State) =>
      let g := s.region id
      id < 4096 ∧ ready s mp .wl ∧ g.state ≠ 1) (.a) 4 s17) ∧
    ((fun (mp : MgmtPort) (id : Nat) (s : State) =>
      let g := s.region id
      id < 4096 ∧ ready s mp .wl ∧ g.state = 1 ∧ s.regionBusy id = false) (.a) 4 s18) ∧
    ((fun (mp : MgmtPort) (id : Nat) (s : State) =>
      let g := s.region id
      id < 4096 ∧ ready s mp .wl ∧ g.state = 1 ∧ s.regionBusy id = true) (.a) 4 s20) ∧
    ((fun (mp : MgmtPort) (id : Nat) (s : State) =>
      let g := s.region id
      id < 4096 ∧ ready s mp .wl ∧ g.state = 1) (.a) 4 s18) ∧
    ((fun (mp : MgmtPort) (id : Nat) (s : State) =>
      id < 4096 ∧ ready s mp .wl ∧ (s.window id).state = 1) (.a) 4 s21) ∧
    ((fun (mp : MgmtPort) (id : Nat) (s : State) =>
      let b := s.image 0x0809000 4
      let w : Window := { state := 1, homeDen := 0, tenancy := fld b 2 2, rank := fld b 4 2, region := fld b 6 2, offset := fld b 8 8, length := fld b 16 8, key := fld b 24 8 }
      id < 4096 ∧ ready s mp .wl ∧ (s.window id).state ≠ 1 ∧ 0 < w.tenancy ∧ w.tenancy < 512 ∧ w.rank < 4096 ∧ w.region < 4096 ∧ w.length ≤ 2 ^ 30 ∧ s.bound w.tenancy = true ∧ bit (s.route w.rank) 15 = true ∧ w.offset % 4096 = 0 ∧ w.length % 4096 = 0) (.a) 4 s22) := by
  refine ⟨by decide +kernel, by decide +kernel, by decide +kernel, by decide +kernel, by decide +kernel, by decide +kernel⟩

/-- States and operands that meet the premises of `Obligations.RegionsWindowsAndMigration`, part 3. -/
theorem witness_RegionsWindowsAndMigration_3 :
    ((fun (mp : MgmtPort) (id : Nat) (s : State) =>
      id < 4096 ∧ ready s mp .wl ∧ (s.window id).state = 0) (.a) 4 s17) ∧
    ((fun (mp : MgmtPort) (id : Nat) (s : State) =>
      id < 4096 ∧ ready s mp .wl ∧ (s.window id).state ≠ 0) (.a) 4 s21) ∧
    ((fun (mp : MgmtPort) (id : Nat) (v : Reg) (s : State) =>
      let ext := bits v.toNat 12 0
      id < 4096 ∧ setUp s mp ∧ (s.extent ext).state ≠ 1) (.a) 4 0 s17) ∧
    ((fun (mp : MgmtPort) (id : Nat) (v : Reg) (s : State) =>
      let ext := bits v.toNat 12 0
      id < 4096 ∧ setUp s mp ∧ (s.extent ext).state = 1 ∧ s.migration ext = none) (.a) 4 ((2 + 1*65536 + 4*2^32)) s23) ∧
    ((fun (mp : MgmtPort) (id : Nat) (v : Reg) (s : State) =>
      let ext := bits v.toNat 12 0
      id < 4096 ∧ setUp s mp ∧ (s.extent ext).state = 1 ∧ s.migration ext = none ∧ ((∃ h, h < 256 ∧ (s.lease ext h).state = .held)) ∧ (s.recalls.all (fun q => !q.awaiting.isEmpty) = true) ∧ s.fencing = []) (.a) 4 ((2 + 1*65536 + 4*2^32)) s23) := by
  refine ⟨by decide +kernel, by decide +kernel, by decide +kernel, by decide +kernel, by decide +kernel⟩

/-- States and operands that meet the premises of `Obligations.TwoQuorumsShareAMember`. -/
theorem witness_TwoQuorumsShareAMember :
    (fun (view : List Nat) (a : Nat → Bool) (b : Nat → Bool) =>
      view.Nodup ∧ quorum view (view.filter a) = true ∧ quorum view (view.filter b) = true) [0,1,2,3] ((fun r => decide (r < 2))) ((fun r => r % 2 == 0)) := by decide +kernel

/-- States and operands that meet the premises of `Obligations.MembershipInstallsViews`, part 1. -/
theorem witness_MembershipInstallsViews_1 :
    ((fun (port : Nat) (m : Msg) (s : State) =>
      accepts s port 0x11 m ∧ fld m.payload 0 4 ≤ s.fabric.view) 1 v24 s25) ∧
    ((fun (r : Nat) (s : State) =>
      s.isMember = true ∧ (watchers s.fabric.members r).contains s.myRank = true ∧ s.fabric.members.contains r = true ∧ s.fabric.suspects.contains r = false ∧ s.fabric.heldSusp.contains r = false ∧ s.inRound = false ∧ tgetD s.fabric.lastBeat r s.fabric.viewFrame + 65 ≤ s.frame) 2 s26) ∧
    ((fun (r : Nat) (s : State) =>
      s.isMember = true ∧ (watchers s.fabric.members r).contains s.myRank = true ∧ s.fabric.members.contains r = true ∧ s.fabric.suspects.contains r = false ∧ s.fabric.heldSusp.contains r = false ∧ s.inRound = false ∧ s.frame < tgetD s.fabric.lastBeat r s.fabric.viewFrame + 65) 2 s25) ∧
    ((fun (port : Nat) (r : Nat) (m : Msg) (s : State) =>
      accepts s port 0x12 m ∧ s.isMember = true ∧ fld m.payload 0 2 = r ∧ r < 4096 ∧ s.fabric.members.contains r = true ∧ s.fabric.suspects.contains r = false ∧ s.fabric.heldSusp.contains r = false ∧ s.inRound = false) 1 2 v27 s25) ∧
    ((fun (port : Nat) (m : Msg) (s : State) =>
      let lm := memberList (m.payload.drop 64)
      accepts s port 0x13 m ∧ lm.contains s.myRank = true ∧ fld m.payload 0 4 ≤ s.fabric.view) 1 v24 s25) ∧
    ((fun (port : Nat) (m : Msg) (s : State) =>
      let lm := memberList (m.payload.drop 64)
      accepts s port 0x13 m ∧ lm.contains s.myRank = true ∧ s.fabric.view < fld m.payload 0 4 ∧ s.fabric.proposal = none) 1 v28 s25) := by
  refine ⟨by decide +kernel, by decide +kernel, by decide +kernel, by decide +kernel, by decide +kernel, by decide +kernel⟩

/-- States and operands that meet the premises of `Obligations.MembershipInstallsViews`, part 2. -/
theorem witness_MembershipInstallsViews_2 :
    ((fun (port : Nat) (m : Msg) (p : Proposal) (s : State) =>
      accepts s port 0x14 m ∧ s.fabric.proposal = some p ∧ p.proposer = s.myRank ∧ p.view = fld m.payload 0 4 ∧ p.members.contains m.src = true ∧ p.committed = false ∧ fld m.payload 4 1 = 1 ∧ fld m.payload 5 1 = 0) 1 v29 v30 s31) ∧
    ((fun (port : Nat) (m : Msg) (p : Proposal) (s : State) =>
      accepts s port 0x14 m ∧ s.fabric.proposal = some p ∧ p.proposer = s.myRank ∧ p.view = fld m.payload 0 4 ∧ p.members.contains m.src = true ∧ p.committed = false ∧ fld m.payload 4 1 = 1 ∧ fld m.payload 5 1 ≠ 0 ∧ p.accepted.contains m.src = false ∧ p.members.all (p.accepted ++ [m.src]).contains = true) 1 v32 v30 s31) ∧
    ((fun (port : Nat) (m : Msg) (s : State) =>
      let lm := memberList (m.payload.drop 64)
      accepts s port 0x15 m ∧ lm.contains s.myRank = true ∧ fld m.payload 0 4 ≤ s.fabric.view) 1 v24 s25) ∧
    ((fun (port : Nat) (f : Nat) (m : Msg) (s : State) =>
      let lm := memberList (m.payload.drop 64)
      accepts s port 0x15 m ∧ lm.contains s.myRank = true ∧ s.fabric.view < fld m.payload 0 4 ∧ fld m.payload 4 4 = f ∧ (s.frame < f ∧ f < 2 ^ 31) ∧ s.frame < 2 ^ 31) 1 20 v28 s25) ∧
    ((fun (p : Proposal) (s : State) =>
      s.fabric.proposal = some p ∧ p.proposer = s.myRank ∧ p.committed = false ∧ p.members.all p.accepted.contains = false ∧ s.frame < p.frame + 32) v30 s31) ∧
    ((fun (p : Proposal) (s : State) =>
      s.fabric.proposal = some p ∧ p.proposer = s.myRank ∧ p.committed = false ∧ p.members.all p.accepted.contains = false ∧ p.frame + 32 ≤ s.frame ∧ quorum s.fabric.members (p.members.filter p.accepted.contains) = false ∧ s.fabric.noQuorum = false) v33 s34) := by
  refine ⟨by decide +kernel, by decide +kernel, by decide +kernel, by decide +kernel, by decide +kernel, by decide +kernel⟩

/-- States and operands that meet the premises of `Obligations.MembershipInstallsViews`, part 3. -/
theorem witness_MembershipInstallsViews_3 :
    ((fun (f : Nat) (v : Nat) (ms : List Nat) (s : State) =>
      s.fabric.install = some (v, ms, f) ∧ s.frame < f) 9 4 [0,1] s35) ∧
    ((fun (f : Nat) (v : Nat) (ms : List Nat) (s : State) =>
      s.fabric.install = some (v, ms, f) ∧ f ≤ s.frame ∧ s.fabric.owned = [] ∧ s.groups = [] ∧ s.tables = [] ∧ s.fabric.requests = [] ∧ s.fabric.held = []) 9 4 [0,1] s36) ∧
    ((fun (s : State) =>
      s.fabric.noQuorum = true ∧ s.frame < s.fabric.noQuorumSince + 256) s37) ∧
    ((fun (s : State) =>
      s.fabric.noQuorum = true ∧ s.fabric.noQuorumSince + 256 ≤ s.frame ∧ s.fabric.excluded = false) s38) ∧
    ((fun (mp : MgmtPort) (s : State) =>
      setUp s mp) (.a) s25) ∧
    ((fun (mp : MgmtPort) (s : State) =>
      setUp s mp ∧ s.fabric.owned = [] ∧ s.groups = [] ∧ s.tables = [] ∧ s.fabric.requests = [] ∧ s.fabric.held = []) (.a) s25) := by
  refine ⟨by decide +kernel, by decide +kernel, by decide +kernel, by decide +kernel, by decide +kernel, by decide +kernel⟩

/-- States and operands that meet the premises of `Obligations.MembershipInstallsViews`, part 4. -/
theorem witness_MembershipInstallsViews_4 :
    ((fun (r : Nat) (mp : MgmtPort) (s : State) =>
      setUp s mp ∧ r < 4096 ∧ s.fabric.members.contains r = false ∧ (bestBy (fun a b => decide (a < b)) s.fabric.members = some s.myRank)) 7 (.a) s39) ∧
    ((fun (r : Nat) (mp : MgmtPort) (s : State) =>
      setUp s mp ∧ (s.fabric.members.contains r = true ∨ bestBy (fun a b => decide (a < b)) s.fabric.members ≠ some s.myRank)) 0 (.a) s25) := by
  refine ⟨by decide +kernel, by decide +kernel⟩

/-- States and operands that meet the premises of `Obligations.RequestStateIsCopiedAndTakenOver`, part 1. -/
theorem witness_RequestStateIsCopiedAndTakenOver_1 :
    ((fun (port : Nat) (q : Nat) (m : Msg) (s : State) =>
      let p := m.payload
      let id := payloadId p
      accepts s port 0x18 m ∧ s.routePort m.src = some q ∧ sends s q ∧ s.recordOf id = none ∧ fld p 12 2 = 1 ∧ fld p 9 1 ≠ 3) 1 1 v40 s41) ∧
    ((fun (port : Nat) (q : Nat) (m : Msg) (s : State) =>
      let p := m.payload
      let id := payloadId p
      accepts s port 0x18 m ∧ s.routePort m.src = some q ∧ sends s q ∧ s.recordOf id = none ∧ fld p 12 2 = 2) 1 1 v42 s41) ∧
    ((fun (port : Nat) (q : Nat) (m : Msg) (o : Owned) (s : State) =>
      let p := m.payload
      let id := payloadId p
      accepts s port 0x18 m ∧ s.routePort m.src = some q ∧ sends s q ∧ s.recordOf id = some o ∧ o.acquired = false ∧ fld p 9 1 ≤ o.phase) 1 1 v40 ((([own0] : List Owned).getD 0 own0)) s43) ∧
    ((fun (port : Nat) (m : Msg) (o : Owned) (s : State) =>
      let p := m.payload
      let id := payloadId p
      accepts s port 0x19 m ∧ s.recordOf id = some o ∧ o.acquired = true ∧ o.acked = false ∧ o.partner = m.src ∧ o.phase ≠ fld p 8 1) 1 v40 v44 s45) ∧
    ((fun (port : Nat) (m : Msg) (o : Owned) (s : State) =>
      let p := m.payload
      let id := payloadId p
      accepts s port 0x19 m ∧ s.recordOf id = some o ∧ o.acquired = true ∧ o.acked = false ∧ o.partner = m.src ∧ o.phase = fld p 8 1 ∧ o.phase = 3) 1 v46 v47 s48) ∧
    ((fun (port : Nat) (m : Msg) (o : Owned) (s : State) =>
      let p := m.payload
      let id := payloadId p
      accepts s port 0x19 m ∧ s.recordOf id = some o ∧ o.acquired = true ∧ o.acked = false ∧ o.partner = m.src ∧ o.phase = fld p 8 1 ∧ o.phase ≠ 3 ∧ o.kind = 2 ∧ s.tables = []) 1 v49 v44 s45) := by
  refine ⟨by decide +kernel, by decide +kernel, by decide +kernel, by decide +kernel, by decide +kernel, by decide +kernel⟩

/-- States and operands that meet the premises of `Obligations.RequestStateIsCopiedAndTakenOver`, part 2. -/
theorem witness_RequestStateIsCopiedAndTakenOver_2 :
    ((fun (port : Nat) (m : Msg) (o : Owned) (s : State) =>
      let p := m.payload
      let id := payloadId p
      accepts s port 0x1A m ∧ s.recordOf id = some o ∧ o.acquired = true) 1 v40 v44 s45) ∧
    ((fun (port : Nat) (m : Msg) (o : Owned) (s : State) =>
      let p := m.payload
      let id := payloadId p
      accepts s port 0x1A m ∧ s.recordOf id = some o ∧ o.acquired = false ∧ fld p 8 1 = 0) 1 v50 ((([own0] : List Owned).getD 0 own0)) s43) ∧
    ((fun (port : Nat) (m : Msg) (o : Owned) (s : State) =>
      let p := m.payload
      let id := payloadId p
      accepts s port 0x1A m ∧ s.recordOf id = some o ∧ o.acquired = false ∧ fld p 8 1 = 1 ∧ fld p 9 4 = s.fabric.view ∧ o.image ≠ []) 1 v49 ((([own0] : List Owned).getD 0 own0)) s43) ∧
    ((fun (rank : Nat) (serial : Nat) (o : Owned) (s : State) =>
      s.recordOf (rank, serial) = some o ∧ o.acquired = false ∧ o.orphaned < 3) 1 2 ((([own0] : List Owned).getD 0 own0)) s43) ∧
    ((fun (rank : Nat) (serial : Nat) (o : Owned) (s : State) =>
      s.recordOf (rank, serial) = some o ∧ o.acquired = false ∧ 3 ≤ o.orphaned ∧ s.isMember = true ∧ s.fabric.excluded = false ∧ s.myRank < o.partner ∧ o.kind = 3) 1 2 v51 s52) := by
  refine ⟨by decide +kernel, by decide +kernel, by decide +kernel, by decide +kernel, by decide +kernel⟩

end W10


namespace W11

def trainable (p : Port) (port : Nat) (cls : Nat) (lanes : List (Nat × Nat)) (spare : Bool) : State :=
  { base with ports := [(port, p)], regs := [(0x0010020, BitVec.ofNat 64 (cls * 4 ^ port)), (0x0800000 + 8 * port, if spare then 1 else 0)], health := { base.health with lanes := lanes } }
def down : Port := { linked with up := false, width := 0, rate := 0, lanes := [] }

def s3 : State := trainable down 0 2 [] true
def s4 : State := trainable down 0 1 [] true
def s5 : State := trainable down 0 1 [(0,8)] true
def s10 : State := {base with bridgeFails := [(9,3)]}
def s13 : State := {base with test := {base.test with bootFail := 2}}
def s9 : State := trainable {linked with untrained := []} 1 1 [] true
def s8 : State := trainable {linked with untrained := [9]} 1 1 [] true
def s14 : State := {base with power := {base.power with perst := true}}
def s0 : State := {base with regs := [(0x0010020, 8), (portBase 0, 0)]}
def s1 : State := {base with regs := [(0x0010020, 9), (portBase 0, 0)]}
def s7 : State := {base with regs := [(0x0010020, 10), (portBase 0, 0)]}
def s6 : State := {trainable ({linked with spareOk := true}) 0 2 [] true with svcPrev := 0}
def s11 : State := {trainable ({linked with ideSecure := true}) 0 1 [] true with svcPrev := 0}
def s2 : State := { trainable down 1 2 [] true with clock := { Clock.reset with active := some .watch } }
def s12 : State := (let s := trainable linked 0 1 [] true; {s with regs := (portBase 0 + 8, 1) :: s.regs})

/-- States and operands that meet the premises of `Obligations.PortsTrainAndLoseLanes`, part 1. -/
theorem witness_PortsTrainAndLoseLanes_1 :
    ((fun (mp : MgmtPort) (port : Nat) (v : Reg) (s : State) =>
      setUp s mp ∧ port < 12 ∧ ((∀ i, i < 12 → i ≠ port → bits v.toNat (2 * i + 1) (2 * i) = s.portClass i)) ∧ bits v.toNat (2 * port + 1) (2 * port) ≠ s.portClass port ∧ bits v.toNat (2 * port + 1) (2 * port) ≠ 3 ∧ (s.portClass port = 0 ∨ s.held port = true)) (.a) 0 0xA s0) ∧
    ((fun (mp : MgmtPort) (port : Nat) (v : Reg) (s : State) =>
      setUp s mp ∧ port < 12 ∧ ((∀ i, i < 12 → i ≠ port → bits v.toNat (2 * i + 1) (2 * i) = s.portClass i)) ∧ bits v.toNat (2 * port + 1) (2 * port) ≠ s.portClass port ∧ bits v.toNat (2 * port + 1) (2 * port) ≠ 3 ∧ s.portClass port ≠ 0 ∧ s.held port = false) (.a) 0 0xA s1) ∧
    ((fun (port : Nat) (s : State) =>
      let p := s.port port
      port < 12 ∧ s.held port = false ∧ p.up = false ∧ s.power.devReady = true ∧ s.linksRun = false) 1 s2) ∧
    ((fun (port : Nat) (good : List Nat) (partner : Bool) (x128 : Bool) (s : State) =>
      let p := s.port port
      let ok := (List.range 17).filter (fun i => good.contains i && !(s.badLanes port).contains i)
      let usable := if s.spareEnabled port && partner then ok else ok.filter (· != 16)
      port < 12 ∧ s.held port = false ∧ p.up = false ∧ s.power.devReady = true ∧ s.linksRun = true ∧ s.portClass port = 2 ∧ x128 = true ∧ 16 ≤ usable.length ∧ (usable.take 16).contains 16 = false) 0 ((List.range 17)) true true s3) ∧
    ((fun (port : Nat) (good : List Nat) (partner : Bool) (x128 : Bool) (s : State) =>
      let p := s.port port
      let ok := (List.range 17).filter (fun i => good.contains i && !(s.badLanes port).contains i)
      let usable := if s.spareEnabled port && partner then ok else ok.filter (· != 16)
      port < 12 ∧ s.held port = false ∧ p.up = false ∧ s.power.devReady = true ∧ s.linksRun = true ∧ s.portClass port = 2 ∧ ((usable.length < 16 ∨ x128 = false))) 0 ((List.range 17)) true false s3) ∧
    ((fun (port : Nat) (good : List Nat) (s : State) =>
      let p := s.port port
      let ok := (List.range 17).filter (fun i => good.contains i && !(s.badLanes port).contains i)
      port < 12 ∧ s.held port = false ∧ p.up = false ∧ s.power.devReady = true ∧ s.linksRun = true ∧ s.portClass port = 1 ∧ ((List.range 16).all (fun i => ok.contains i) = true)) 0 ((List.range 17)) s4) := by
  refine ⟨by decide +kernel, by decide +kernel, by decide +kernel, by decide +kernel, by decide +kernel, by decide +kernel⟩

/-- States and operands that meet the premises of `Obligations.PortsTrainAndLoseLanes`, part 2. -/
theorem witness_PortsTrainAndLoseLanes_2 :
    ((fun (port : Nat) (good : List Nat) (s : State) =>
      let p := s.port port
      let ok := (List.range 17).filter (fun i => good.contains i && !(s.badLanes port).contains i)
      port < 12 ∧ s.held port = false ∧ p.up = false ∧ s.power.devReady = true ∧ s.linksRun = true ∧ s.portClass port = 1 ∧ ((List.range 8).all (fun i => ok.contains i) = true) ∧ ok.contains 8 = false) 0 ((List.range 17)) s5) ∧
    ((fun (port : Nat) (pair : Nat) (s : State) =>
      let p := s.port port
      s.portClass port = 2 ∧ p.up = true ∧ p.lanes.contains pair = true ∧ s.groups = [] ∧ s.fabric.requests = [] ∧ p.spareUsed = false ∧ p.spareOk = true) 0 3 s6) ∧
    ((fun (port : Nat) (pair : Nat) (s : State) =>
      let p := s.port port
      s.portClass port = 2 ∧ p.up = true ∧ p.lanes.contains pair = true ∧ s.groups = [] ∧ s.fabric.requests = [] ∧ (p.spareUsed = true ∨ p.spareOk = false)) 0 0 s7) ∧
    ((fun (port : Nat) (pair : Nat) (s : State) =>
      let p := s.port port
      s.portClass port = 1 ∧ p.up = true ∧ p.lanes.contains pair = true ∧ s.badLanes port = [] ∧ goodHalf (pair :: p.untrained) = none) 1 2 s8) ∧
    ((fun (port : Nat) (pair : Nat) (s : State) (half : List Nat) =>
      let p := s.port port
      s.portClass port = 1 ∧ p.up = true ∧ p.lanes.contains pair = true ∧ s.badLanes port = [] ∧ goodHalf (pair :: p.untrained) = some half) 1 3 s9 ([8, 9, 10, 11, 12, 13, 14, 15])) ∧
    ((fun (port : Nat) (pair : Nat) (x128 : Bool) (s : State) (half : List Nat) =>
      let p := s.port port
      s.portClass port = 1 ∧ p.up = true ∧ p.lanes.contains pair = true ∧ s.badLanes port = [] ∧ goodHalf (pair :: p.untrained) = some half ∧ x128 = true) 1 3 true s9 ([8, 9, 10, 11, 12, 13, 14, 15])) := by
  refine ⟨by decide +kernel, by decide +kernel, by decide +kernel, by decide +kernel, by decide +kernel, by decide +kernel⟩

/-- States and operands that meet the premises of `Obligations.PortsTrainAndLoseLanes`, part 3. -/
theorem witness_PortsTrainAndLoseLanes_3 :
    ((fun (port : Nat) (pair : Nat) (x128 : Bool) (x64 : Bool) (s : State) (half : List Nat) =>
      let p := s.port port
      s.portClass port = 1 ∧ p.up = true ∧ p.lanes.contains pair = true ∧ s.badLanes port = [] ∧ goodHalf (pair :: p.untrained) = some half ∧ x128 = false ∧ x64 = true) 1 3 false true s9 ([8, 9, 10, 11, 12, 13, 14, 15])) ∧
    ((fun (port : Nat) (pair : Nat) (x128 : Bool) (x64 : Bool) (s : State) (half : List Nat) =>
      let p := s.port port
      s.portClass port = 1 ∧ p.up = true ∧ p.lanes.contains pair = true ∧ s.badLanes port = [] ∧ goodHalf (pair :: p.untrained) = some half ∧ x128 = false ∧ x64 = false) 1 3 false false s9 ([8, 9, 10, 11, 12, 13, 14, 15])) ∧
    ((fun (flit : Nat) (s : State) =>
      tgetD s.bridgeFails flit 0 = 3) 9 s10) ∧
    ((fun (flit : Nat) (s : State) =>
      tgetD s.bridgeFails flit 0 < 3) 0 s0) ∧
    ((fun (port : Nat) (s : State) =>
      let p := s.port port
      s.portClass port = 1 ∧ p.ideSecure = true) 0 s11) ∧
    ((fun (port : Nat) (s : State) =>
      hostPort s port) 0 s1) := by
  refine ⟨by decide +kernel, by decide +kernel, by decide +kernel, by decide +kernel, by decide +kernel, by decide +kernel⟩

/-- States and operands that meet the premises of `Obligations.PortsTrainAndLoseLanes`, part 4. -/
theorem witness_PortsTrainAndLoseLanes_4 :
    ((fun (port : Nat) (s : State) =>
      port < 12 ∧ s.held port = false ∧ s.portClass port ≠ 0 ∧ s.flag (portBase port + 8) 0 = true) 0 s12) ∧
    ((fun (port : Nat) (s : State) =>
      port < 12 ∧ s.held port = false ∧ s.portClass port ≠ 0 ∧ s.flag (portBase port + 8) 0 = false) 0 s1) ∧
    ((fun (port : Nat) (s : State) =>
      hostPort s port ∧ sends s port) 0 s1) ∧
    ((fun (port : Nat) (s : State) =>
      hostPort s port ∧ sends s port) 0 s1) := by
  refine ⟨by decide +kernel, by decide +kernel, by decide +kernel, by decide +kernel⟩

/-- States and operands that meet the premises of `Obligations.StandardRequestsAreAnswered`, part 1. -/
theorem witness_StandardRequestsAreAnswered_1 :
    ((fun (i : Nat) (s : State) =>
      s.power.perst = false ∧ s.power.auxOk = true ∧ s.bootFailed = false ∧ 1 ≤ i ∧ i ≤ 7) 1 base) ∧
    ((fun (s : State) =>
      s.power.perst = false ∧ s.power.auxOk = true ∧ s.bootFailed = false) base) ∧
    ((fun (s : State) =>
      s.power.perst = false ∧ s.power.auxOk = true ∧ s.bootFailed = true) s13) ∧
    ((fun (s : State) =>
      s.power.perst = false ∧ s.power.auxOk = true ∧ s.bootFailed = false) base) ∧
    ((fun (mp : MgmtPort) (s : State) =>
      s.power.perst = false ∧ s.power.auxOk = true ∧ s.holdsSem mp = false) (.b) base) ∧
    ((fun (mp : MgmtPort) (s : State) =>
      s.power.perst = false ∧ s.power.auxOk = true ∧ s.holdsSem mp = true) (.a) base) := by
  refine ⟨by decide +kernel, by decide +kernel, by decide +kernel, by decide +kernel, by decide +kernel, by decide +kernel⟩

/-- States and operands that meet the premises of `Obligations.StandardRequestsAreAnswered`, part 2. -/
theorem witness_StandardRequestsAreAnswered_2 :
    ((fun (s : State) =>
      s.power.perst = false ∧ s.power.auxOk = true) base) ∧
    ((fun (mp : MgmtPort) (off : Nat) (s : State) =>
      s.power.perst = false ∧ s.power.auxOk = true ∧ s.bootFailed = false ∧ s.holdsSem mp = false ∧ off ≠ semOff) (.b) 0x0010020 base) ∧
    ((fun (s : State) =>
      s.power.perst = false ∧ s.power.auxOk = true ∧ s.bootFailed = false) base) ∧
    ((fun (image : Nat) (s : State) =>
      s.power.perst = false ∧ s.power.auxOk = true ∧ 2 ≤ image ∧ image ≤ 5) 2 base) ∧
    ((fun (s : State) =>
      s.power.perst = false ∧ s.power.auxOk = true) base) ∧
    ((fun (s : State) =>
      s.power.perst = true) s14) := by
  refine ⟨by decide +kernel, by decide +kernel, by decide +kernel, by decide +kernel, by decide +kernel, by decide +kernel⟩

/-- States and operands that meet the premises of `Obligations.StandardRequestsAreAnswered`, part 3. -/
theorem witness_StandardRequestsAreAnswered_3 :
    ((fun (s : State) =>
      s.power.perst = true) s14) ∧
    ((fun (p : Nat) (s : State) =>
      s.carries p = true) 0 base) ∧
    ((fun (p : Nat) (s : State) =>
      s.carries p = true) 0 base) ∧
    ((fun (p : Nat) (s : State) =>
      s.carries p = true) 0 base) ∧
    ((fun (p : Nat) (s : State) =>
      s.carries p = true) 0 base) ∧
    ((fun (p : Nat) (s : State) =>
      hostPort s p ∧ sends s p) 0 base) := by
  refine ⟨by decide +kernel, by decide +kernel, by decide +kernel, by decide +kernel, by decide +kernel, by decide +kernel⟩

/-- States and operands that meet the premises of `Obligations.StandardRequestsAreAnswered`, part 4. -/
theorem witness_StandardRequestsAreAnswered_4 :
    ((fun (mp : MgmtPort) (image : Nat) (s : State) =>
      setUp s mp ∧ 2 ≤ image ∧ image ≤ 5) (.a) 2 base) ∧
    ((fun (mp : MgmtPort) (s : State) =>
      setUp s mp) (.a) base) := by
  refine ⟨by decide +kernel, by decide +kernel⟩

end W11


namespace W12a

def m0 : MapEntry := ⟨false,true,0,1,0,0,0⟩
def p0 : Programmed := { ch := 0, target := 1, block := 0, page := 0, plane := 0, data := [1, 2], logical := 10, temp := 0, parity := false, slc := true, tsLow := false, seq := 5, writeTime := 0, tenancy := 3, crcOk := true }
def sb (slc op : Bool) (next : Nat) : SuperBlock := { id := 0, group := 0, block := 0, dies := (List.range 16).map (groupDie 0), tenancy := 3, slc, open_ := op, next, firstAt := some 0 }
def o0 : BgOp := { die := 2, tenancy := 3, deadline := none, suspended := false, grain := 10, src := m0, dst := { m0 with target := 2, slc := false, block := 1 } }
def bad : Badger := { Badger.fresh with cfg := 16 + 64 * 2 ^ 16 + 4 * 2 ^ 32, map := [(10, m0), (11, { m0 with lost := true })], media := [p0], supers := [sb true true 2], nextSuper := 1, seq := 9, slcTarget := 2, loaded := true, mapReady := true, disabled := false }
def fl (b : Badger) (now : Nat) : State := { base with badgers := [(0, b)], live := [lv 3 0x0040120 (2 ^ 35), lv 3 0x00401C0 1000, lv 3 0x00402C0 4], part := { readNs := 60000, programNs := 100000 }, time := { base.time with now := now * 2 ^ 14, windowAt := if now = 1020 then some 1020 else none }, clock := { Clock.reset with active := some .xo } }
def w0 : BufWrite := { tenancy := 3, grain := 10, offset := 0, data := [9], req := 4 }
def qsb : SuperBlock := { sb false false 2 with id := 3 }
def tp (s : State) (slc : Bool) (f : Nat → Bool) : Badger × MapEntry := (s.takePlace 0 3 slc f).getD (Badger.fresh, m0)
def bgf (s : State) : Nat → Bool := fun d => s.bgServes (dieMap 0 d) 3 && !(s.badger 0).bgOps.any (fun o => o.die == d)
def fgf (s : State) : Nat → Bool := fun d => s.firstOnDie (programOp 0 10) 0 3 (dieMap 0 d) && s.nandFits (dieMap 0 d) 3 s.part.programNs && !(s.badger 0).dieBusy d
def goOf (g : Gate) : State := match g with | .go s => s | .hold s => s
def sRd (s : State) (req : Nat) : State := goOf (s.passDie (readOp req) 0 3 (dieMap 0 1) s.part.readNs false)
def sWr : State := fl { bad with wbuf := [w0] } 0
def sFold : State := fl bad 60
def sScr : State := fl { bad with rewrite := [10] } 1020
def sGc : State := fl { bad with supers := [qsb], media := [{ p0 with slc := false }], map := [(10, { m0 with slc := false })] } 60

def s0 : State := fl bad 0
def s5 : State := fl bad 60
def s3 : State := (sRd (fl bad 0) 3)
def s6 : State := fl { bad with bgOps := [o0] } 60
def s1 : State := fl { bad with wbuf := [w0, {w0 with req := 6}] } 0
def s2 : State := fl { bad with wbuf := [{ w0 with grain := 11 }] } 0
def v4 : List Bool := [false, false, false, false, false, false, false, false]
def s7 : State := fl { bad with bgOps := [{o0 with suspended := true}] } 60

/-- States and operands that meet the premises of `Obligations.FlashReadsAndWrites`, part 1. -/
theorem witness_FlashReadsAndWrites_1 :
    ((fun (b : Nat) (tenancy : Nat) (grain : Nat) (off : Nat) (data : Bytes) (s : State) =>
      let x := s.badger b
      let up : Prop := x.disabled = false ∧ x.mapReady = true
      up ∧ data ≠ [] ∧ data.length % 64 = 0 ∧ off % 64 = 0 ∧ off + data.length ≤ 16384 ∧ grain < 2 ^ 31 ∧ s.refusesGrains tenancy b [grain] = false) 0 3 20 64 (List.replicate 64 7) s0) ∧
    ((fun (b : Nat) (tenancy : Nat) (grain : Nat) (off : Nat) (req : Nat) (data : Bytes) (s : State) =>
      let x := s.badger b
      let up : Prop := x.disabled = false ∧ x.mapReady = true
      up ∧ data ≠ [] ∧ data.length % 64 = 0 ∧ off % 64 = 0 ∧ off + data.length ≤ 16384 ∧ grain < 2 ^ 31 ∧ x.shutDone = false ∧ req < 2 ^ 64 ∧ s.refusesGrains tenancy b [grain] = true) 0 5 20 64 6 (List.replicate 64 7) s1) ∧
    ((fun (b : Nat) (tenancy : Nat) (grain : Nat) (off : Nat) (req : Nat) (data : Bytes) (m : MapEntry) (y : Badger) (s : State) (base : Bytes) =>
      let x := s.badger b
      let may := fun d => s.firstOnDie (programOp b grain) 0 tenancy (dieMap b d) && s.nandFits (dieMap b d) tenancy s.part.programNs && !x.dieBusy d
      (x.wbuf.find? (fun w => w.grain == grain) = some { tenancy, grain, offset := off, data, req }) ∧ x.shutDone = false ∧ x.readOnly = false ∧ (s.buffered b tenancy).contains grain = true ∧ x.mergeBase grain = some base ∧ s.takePlace b tenancy true may = some (y, m)) 0 3 10 0 4 [9] ((tp sWr true (fgf sWr)).2) ((tp sWr true (fgf sWr)).1) sWr ([0x01#8, 0x02#8])) ∧
    ((fun (b : Nat) (tenancy : Nat) (grain : Nat) (off : Nat) (req : Nat) (data : Bytes) (m : MapEntry) (y : Badger) (s : State) (base : Bytes) =>
      let x := s.badger b
      let may := fun d => s.firstOnDie (programOp b grain) 0 tenancy (dieMap b d) && s.nandFits (dieMap b d) tenancy s.part.programNs && !x.dieBusy d
      (x.wbuf.find? (fun w => w.grain == grain) = some { tenancy, grain, offset := off, data, req }) ∧ x.shutDone = false ∧ x.readOnly = false ∧ (s.buffered b tenancy).contains grain = true ∧ x.mergeBase grain = some base ∧ s.takePlace b tenancy true may = some (y, m)) 0 3 10 0 4 [9] ((tp sWr true (fgf sWr)).2) ((tp sWr true (fgf sWr)).1) sWr ([0x01#8, 0x02#8])) ∧
    ((fun (b : Nat) (tenancy : Nat) (grain : Nat) (off : Nat) (req : Nat) (data : Bytes) (s : State) =>
      let x := s.badger b
      (x.wbuf.find? (fun w => w.grain == grain) = some { tenancy, grain, offset := off, data, req }) ∧ x.shutDone = false ∧ x.readOnly = false ∧ (s.buffered b tenancy).contains grain = true ∧ x.mergeBase grain = none ∧ req < 2 ^ 64 ∧ ((∀ w ∈ x.wbuf, w.grain = grain → w.req = req))) 0 3 11 0 4 [9] s2) ∧
    ((fun (b : Nat) (req : Nat) (stripe : Nat) (c : SuperBlock) (s : State) =>
      let x := s.badger b
      (x.supers.find? (fun k => k.id == req) = some c) ∧ c.dies ≠ [] ∧ c.dies.Nodup ∧ x.wantsParity c stripe = true) 0 0 0 (sb true true 2) s0) := by
  refine ⟨by decide +kernel, by decide +kernel, by decide +kernel, by decide +kernel, by decide +kernel, by decide +kernel⟩

/-- States and operands that meet the premises of `Obligations.FlashReadsAndWrites`, part 2. -/
theorem witness_FlashReadsAndWrites_2 :
    ((fun (b : Nat) (grain : Nat) (s : State) =>
      let x := s.badger b
      let up : Prop := x.disabled = false ∧ x.mapReady = true
      up ∧ tget x.map grain = none) 0 20 s0) ∧
    ((fun (b : Nat) (grain : Nat) (m : MapEntry) (s : State) =>
      let x := s.badger b
      let up : Prop := x.disabled = false ∧ x.mapReady = true
      up ∧ tget x.map grain = some m ∧ m.lost = true) 0 11 ({m0 with lost := true}) s0) ∧
    ((fun (b : Nat) (grain : Nat) (req : Nat) (ecc : List Bool) (m : MapEntry) (p : Programmed) (s : State) (s' : State) =>
      let x := s.badger b
      let up : Prop := x.disabled = false ∧ x.mapReady = true
      let here : Prop := up ∧ tget x.map grain = some m ∧ m.lost = false ∧ x.programmed m = some p ∧ x.failedDies.contains m.die = false ∧ p.tsLow = false
      here ∧ s.passDie (readOp req) 0 p.tenancy (dieMap b m.die) s.part.readNs (x.dieBusy m.die) = .go s' ∧ ecc.getD 0 true = true) 0 10 3 [] m0 p0 s0 s3) ∧
    ((fun (b : Nat) (grain : Nat) (req : Nat) (ecc : List Bool) (m : MapEntry) (p : Programmed) (s : State) (s' : State) =>
      let x := s.badger b
      let up : Prop := x.disabled = false ∧ x.mapReady = true
      let here : Prop := up ∧ tget x.map grain = some m ∧ m.lost = false ∧ x.programmed m = some p ∧ x.failedDies.contains m.die = false ∧ p.tsLow = false
      here ∧ s.passDie (readOp req) 0 p.tenancy (dieMap b m.die) s.part.readNs (x.dieBusy m.die) = .go s' ∧ ecc = List.replicate ((s.thresholds x p).length + 1) false) 0 10 3 v4 m0 p0 s0 s3) ∧
    ((fun (b : Nat) (grain : Nat) (req : Nat) (m : MapEntry) (p : Programmed) (s : State) =>
      let x := s.badger b
      let up : Prop := x.disabled = false ∧ x.mapReady = true
      let here : Prop := up ∧ tget x.map grain = some m ∧ m.lost = false ∧ x.programmed m = some p ∧ x.failedDies.contains m.die = false ∧ p.tsLow = false
      here ∧ (s.slots.waits.any (fun v => v.w == readOp req) = false) ∧ ((x.dieBusy m.die = true ∨ s.nandFits (dieMap b m.die) p.tenancy s.part.readNs = false))) 0 10 3 m0 p0 s5) ∧
    ((fun (b : Nat) (grain : Nat) (m : MapEntry) (dst : MapEntry) (p : Programmed) (y : Badger) (o : BgOp) (s : State) =>
      let x := s.badger b
      let up : Prop := x.disabled = false ∧ x.mapReady = true
      let here : Prop := up ∧ tget x.map grain = some m ∧ m.lost = false ∧ x.programmed m = some p ∧ x.failedDies.contains m.die = false ∧ p.tsLow = false
      let toCopy : Prop := here ∧ x.readOnly = false ∧ x.copyOf grain = none ∧
      s.takePlace b p.tenancy false (fun d => s.bgServes (dieMap b d) p.tenancy && !x.bgOps.any (fun o => o.die == d)) = some (y, dst)
      toCopy ∧ m.slc = true ∧ s.bgFrames = true) 0 10 m0 ((tp sFold false (bgf sFold)).2) p0 ((tp sFold false (bgf sFold)).1) o0 sFold) := by
  refine ⟨by decide +kernel, by decide +kernel, by decide +kernel, by decide +kernel, by decide +kernel, by decide +kernel⟩

/-- States and operands that meet the premises of `Obligations.FlashReadsAndWrites`, part 3. -/
theorem witness_FlashReadsAndWrites_3 :
    ((fun (b : Nat) (grain : Nat) (m : MapEntry) (dst : MapEntry) (p : Programmed) (y : Badger) (o : BgOp) (s : State) =>
      let x := s.badger b
      let up : Prop := x.disabled = false ∧ x.mapReady = true
      let here : Prop := up ∧ tget x.map grain = some m ∧ m.lost = false ∧ x.programmed m = some p ∧ x.failedDies.contains m.die = false ∧ p.tsLow = false
      let toCopy : Prop := here ∧ x.readOnly = false ∧ x.copyOf grain = none ∧
      s.takePlace b p.tenancy false (fun d => s.bgServes (dieMap b d) p.tenancy && !x.bgOps.any (fun o => o.die == d)) = some (y, dst)
      toCopy ∧ x.rewrite.contains grain = true ∧ s.badgerWindow = true ∧ s.time.valid = true ∧ s.clock.active = some .xo) 0 10 m0 ((tp sScr false (bgf sScr)).2) p0 ((tp sScr false (bgf sScr)).1) o0 sScr) ∧
    ((fun (b : Nat) (grain : Nat) (o : BgOp) (s : State) =>
      let x := s.badger b
      let up : Prop := x.disabled = false ∧ x.mapReady = true
      up ∧ x.readOnly = false ∧ x.copyOf grain = some o ∧ o.suspended = false) 0 10 o0 s6) ∧
    ((fun (b : Nat) (grain : Nat) (o : BgOp) (s : State) =>
      let x := s.badger b
      let up : Prop := x.disabled = false ∧ x.mapReady = true
      up ∧ x.readOnly = false ∧ x.copyOf grain = some o ∧ o.suspended = false) 0 10 o0 s6) ∧
    ((fun (b : Nat) (grain : Nat) (o : BgOp) (s : State) =>
      let x := s.badger b
      let up : Prop := x.disabled = false ∧ x.mapReady = true
      up ∧ x.readOnly = false ∧ x.copyOf grain = some o ∧ o.suspended = true) 0 10 ({o0 with suspended := true}) s7) ∧
    ((fun (b : Nat) (grain : Nat) (o : BgOp) (s : State) =>
      let x := s.badger b
      let up : Prop := x.disabled = false ∧ x.mapReady = true
      up ∧ x.readOnly = false ∧ x.copyOf grain = some o ∧ o.suspended = true) 0 10 ({o0 with suspended := true}) s7) ∧
    ((fun (b : Nat) (grain : Nat) (bitsFixed : Nat) (ecc : List Bool) (m : MapEntry) (p : Programmed) (s : State) =>
      let x := s.badger b
      let up : Prop := x.disabled = false ∧ x.mapReady = true
      let here : Prop := up ∧ tget x.map grain = some m ∧ m.lost = false ∧ x.programmed m = some p ∧ x.failedDies.contains m.die = false ∧ p.tsLow = false
      here ∧ s.bgServes (dieMap b m.die) p.tenancy = true ∧ x.dieBusy m.die = false ∧ ecc.getD 0 true = true ∧ bitsFixed ≤ (s.stored 0x0300148).toNat % 2 ^ 16) 0 10 60 [] m0 p0 s5) := by
  refine ⟨by decide +kernel, by decide +kernel, by decide +kernel, by decide +kernel, by decide +kernel, by decide +kernel⟩

/-- States and operands that meet the premises of `Obligations.FlashReadsAndWrites`, part 4. -/
theorem witness_FlashReadsAndWrites_4 :
    (fun (b : Nat) (grain : Nat) (bitsFixed : Nat) (ecc : List Bool) (m : MapEntry) (p : Programmed) (s : State) =>
      let x := s.badger b
      let up : Prop := x.disabled = false ∧ x.mapReady = true
      let here : Prop := up ∧ tget x.map grain = some m ∧ m.lost = false ∧ x.programmed m = some p ∧ x.failedDies.contains m.die = false ∧ p.tsLow = false
      here ∧ s.bgServes (dieMap b m.die) p.tenancy = true ∧ x.dieBusy m.die = false ∧ ecc.getD 0 true = true ∧ (s.stored 0x0300148).toNat % 2 ^ 16 < bitsFixed ∧ m.block < x.blocks ∧ x.owlBlock m.die m.block = false) 0 10 61 [] m0 p0 s5 := by decide +kernel

end W12a


namespace W12b

def m0 : MapEntry := ⟨false,true,0,1,0,0,0⟩
def p0 : Programmed := { ch := 0, target := 1, block := 0, page := 0, plane := 0, data := [1, 2], logical := 10, temp := 0, parity := false, slc := true, tsLow := false, seq := 5, writeTime := 0, tenancy := 3, crcOk := true }
def sb (slc op : Bool) (next : Nat) : SuperBlock := { id := 0, group := 0, block := 0, dies := (List.range 16).map (groupDie 0), tenancy := 3, slc, open_ := op, next, firstAt := some 0 }
def o0 : BgOp := { die := 2, tenancy := 3, deadline := none, suspended := false, grain := 10, src := m0, dst := { m0 with target := 2, slc := false, block := 1 } }
def bad : Badger := { Badger.fresh with cfg := 16 + 64 * 2 ^ 16 + 4 * 2 ^ 32, map := [(10, m0), (11, { m0 with lost := true })], media := [p0], supers := [sb true true 2], nextSuper := 1, seq := 9, slcTarget := 2, loaded := true, mapReady := true, disabled := false }
def fl (b : Badger) (now : Nat) : State := { base with badgers := [(0, b)], live := [lv 3 0x0040120 (2 ^ 35), lv 3 0x00401C0 1000, lv 3 0x00402C0 4], part := { readNs := 60000, programNs := 100000 }, time := { base.time with now := now * 2 ^ 14, windowAt := if now = 1020 then some 1020 else none }, clock := { Clock.reset with active := some .xo } }
def w0 : BufWrite := { tenancy := 3, grain := 10, offset := 0, data := [9], req := 4 }
def qsb : SuperBlock := { sb false false 2 with id := 3 }
def tp (s : State) (slc : Bool) (f : Nat → Bool) : Badger × MapEntry := (s.takePlace 0 3 slc f).getD (Badger.fresh, m0)
def bgf (s : State) : Nat → Bool := fun d => s.bgServes (dieMap 0 d) 3 && !(s.badger 0).bgOps.any (fun o => o.die == d)
def fgf (s : State) : Nat → Bool := fun d => s.firstOnDie (programOp 0 10) 0 3 (dieMap 0 d) && s.nandFits (dieMap 0 d) 3 s.part.programNs && !(s.badger 0).dieBusy d
def goOf (g : Gate) : State := match g with | .go s => s | .hold s => s
def sRd (s : State) (req : Nat) : State := goOf (s.passDie (readOp req) 0 3 (dieMap 0 1) s.part.readNs false)
def sWr : State := fl { bad with wbuf := [w0] } 0
def sFold : State := fl bad 60
def sScr : State := fl { bad with rewrite := [10] } 1020
def sGc : State := fl { bad with supers := [qsb], media := [{ p0 with slc := false }], map := [(10, { m0 with slc := false })] } 60
def tz : Tensor := { state := 1, tier := 3, elem := 0, homeDen := 0, gen := 1, bytes := 64, name := 0, stored := 64, loc := regionBase 3, thBytes := 0, tenancy := 7, ownerCtx := 5, lastFrame := 0, pasid := 0, port := 0, thAddr := 0, writers := 0 }

def s5 : State := fl bad 0
def v2 : BgOp := { o0 with src := { m0 with slc := false } }
def s6 : State := fl { bad with wbuf := [{w0 with tenancy := 5}] } 0
def s0 : State := fl { bad with supers := [qsb], media := [], map := [] } 0
def s3 : State := fl { bad with supers := [qsb], media := [], map := [] } 1020
def s10 : State := fl { bad with mapReady := false, journal := [.tensor 2 tz 5] } 0
def s7 : State := fl { bad with readOnly := true, heldTrims := [4], supers := [] } 0
def s4 : State := fl { bad with supers := [qsb], media := [], erased := [(7, 201)] } 1020
def s9 : State := fl { bad with loaded := false, mapReady := false, journal := [.trim 10 6] } 0
def s8 : State := fl { bad with loaded := false, mapReady := false, clean := some ([(1,m0)], 44) } 0
def s1 : State := fl { bad with supers := [qsb], media := [{ p0 with slc := false }], map := [(10, { m0 with slc := false })], bgOps := [v2] } 0

/-- States and operands that meet the premises of `Obligations.MediaHealthAndRebuild`, part 1. -/
theorem witness_MediaHealthAndRebuild_1 :
    ((fun (b : Nat) (grp : Nat) (p : Programmed) (dst : MapEntry) (y : Badger) (c : SuperBlock) (s : State) =>
      let x := s.badger b
      let up : Prop := x.disabled = false ∧ x.mapReady = true ∧ x.readOnly = false
      up ∧ grp < x.groups ∧ s.bgFrames = true ∧ s.badgerWindow = false ∧ (bestBy (fun a b => decide ((x.validIn a).length < (x.validIn b).length))
        (x.supers.filter (fun k => k.group == grp && !k.slc && (x.nextSlot k).isNone)) = some c) ∧ x.bgOps = [] ∧ x.validIn c = [p] ∧ x.failedDies.contains p.die = false ∧ p.tsLow = false ∧ (s.takePlace b p.tenancy false (fun d => s.bgServes (dieMap b d) p.tenancy && !x.bgOps.any (fun o => o.die == d)) = some (y, dst))) 0 0 ({p0 with slc := false}) ((tp sGc false (bgf sGc)).2) ((tp sGc false (bgf sGc)).1) qsb sGc) ∧
    ((fun (b : Nat) (grp : Nat) (c : SuperBlock) (s : State) =>
      let x := s.badger b
      let up : Prop := x.disabled = false ∧ x.mapReady = true ∧ x.readOnly = false
      up ∧ grp < x.groups ∧ s.bgFrames = false ∧ (bestBy (fun a b => decide ((x.validIn a).length < (x.validIn b).length))
        (x.supers.filter (fun k => k.group == grp && !k.slc && (x.nextSlot k).isNone)) = some c) ∧ x.bgOps = []) 0 0 qsb s0) ∧
    ((fun (b : Nat) (grp : Nat) (c : SuperBlock) (s : State) (o : BgOp) =>
      let x := s.badger b
      let up : Prop := x.disabled = false ∧ x.mapReady = true ∧ x.readOnly = false
      up ∧ grp < x.groups ∧ s.bgFrames = false ∧ (bestBy (fun a b => decide ((x.validIn a).length < (x.validIn b).length))
        (x.supers.filter (fun k => k.group == grp && !k.slc && (x.nextSlot k).isNone)) = some c) ∧ x.bgOps = [o] ∧ o.suspended = false ∧ x.superOf o.src = some c) 0 0 qsb s1 v2) ∧
    ((fun (b : Nat) (grp : Nat) (s : State) =>
      let x := s.badger b
      let up : Prop := x.disabled = false ∧ x.mapReady = true ∧ x.readOnly = false
      up ∧ grp < x.groups ∧ s.badgerWindow = true ∧ x.bgOps = [] ∧ ((∀ k ∈ x.supers, x.validIn k = []))) 0 0 s3) ∧
    ((fun (b : Nat) (sup : Nat) (c : SuperBlock) (s : State) =>
      let x := s.badger b
      let up : Prop := x.disabled = false ∧ x.mapReady = true ∧ x.readOnly = false
      let most := ((List.range x.blocks).map (x.erases c.group)).foldl max 0
      (x.supers.find? (fun k => k.id == sup) = some c) ∧ up ∧ s.badgerWindow = true ∧ x.nextSlot c = none ∧ x.erases c.group c.block + (s.stored 0x0300160).toNat % 2 ^ 16 < most ∧ x.validIn c = [] ∧ x.bgOps = []) 0 3 qsb s4) ∧
    ((fun (b : Nat) (sup : Nat) (c : SuperBlock) (s : State) =>
      let x := s.badger b
      let most := ((List.range x.blocks).map (x.erases c.group)).foldl max 0
      (x.supers.find? (fun k => k.id == sup) = some c) ∧ most ≤ x.erases c.group c.block + (s.stored 0x0300160).toNat % 2 ^ 16) 0 0 (sb true true 2) s5) := by
  refine ⟨by decide +kernel, by decide +kernel, by decide +kernel, by decide +kernel, by decide +kernel, by decide +kernel⟩

/-- States and operands that meet the premises of `Obligations.MediaHealthAndRebuild`, part 2. -/
theorem witness_MediaHealthAndRebuild_2 :
    ((fun (b : Nat) (s : State) =>
      let x := s.badger b
      let up : Prop := x.disabled = false ∧ x.mapReady = true ∧ x.readOnly = false
      up ∧ s.badgerWindow = true) 0 s3) ∧
    ((fun (b : Nat) (die : Nat) (s : State) =>
      let x := s.badger b
      let onDie : Prop := x.disabled = false ∧ die < 64 ∧ die % 16 < x.diesPerChannel
      onDie) 0 0 s5) ∧
    ((fun (b : Nat) (die : Nat) (block : Nat) (s : State) =>
      let x := s.badger b
      let onDie : Prop := x.disabled = false ∧ die < 64 ∧ die % 16 < x.diesPerChannel
      onDie ∧ block < x.blocks ∧ x.owlBlock die block = false) 0 0 0 s5) ∧
    ((fun (b : Nat) (die : Nat) (s : State) =>
      let x := s.badger b
      let onDie : Prop := x.disabled = false ∧ die < 64 ∧ die % 16 < x.diesPerChannel
      onDie ∧ x.failedDies.contains die = false) 0 0 s5) ∧
    ((fun (b : Nat) (s : State) =>
      let x := s.badger b
      x.disabled = false ∧ x.readOnly = false ∧ s.mediaExhausted b = true) 0 s6) ∧
    ((fun (b : Nat) (s : State) =>
      let x := s.badger b
      x.readOnly = true ∧ ((∀ g, g < x.groups → x.supers.any (fun k => k.group == g && k.open_) = true → 2 ≤ x.freeCount g + x.reclaimable g))) 0 s7) := by
  refine ⟨by decide +kernel, by decide +kernel, by decide +kernel, by decide +kernel, by decide +kernel, by decide +kernel⟩

/-- States and operands that meet the premises of `Obligations.MediaHealthAndRebuild`, part 3. -/
theorem witness_MediaHealthAndRebuild_3 :
    ((fun (mp : MgmtPort) (b : Nat) (s : State) =>
      setUp s mp ∧ b < 8) (.a) 0 s5) ∧
    ((fun (mp : MgmtPort) (s : State) =>
      setUp s mp) (.a) s5) ∧
    ((fun (b : Nat) (cmap : Tab MapEntry) (cseq : Nat) (s : State) =>
      let x := s.badger b
      x.disabled = false ∧ x.loaded = false ∧ x.clean = some (cmap, cseq)) 0 [(1,m0)] 44 s8) ∧
    ((fun (b : Nat) (s : State) =>
      let x := s.badger b
      x.disabled = false ∧ x.loaded = false ∧ x.clean = none) 0 s9) ∧
    ((fun (b : Nat) (s : State) =>
      let x := s.badger b
      x.disabled = false ∧ x.loaded = true ∧ x.mapReady = false) 0 s10) := by
  refine ⟨by decide +kernel, by decide +kernel, by decide +kernel, by decide +kernel, by decide +kernel⟩

end W12b


namespace W13

def tight : State := { base with extents := [], tables := [], burrows := [], images := [(1, { tenancy := 3, setts := 1, iterMax := 1, scratch := 0, prog := [], routes := [], consts := [], bytes := 64, addr := ddrBase 0 })] }
def tight9 : State := { base with tenancies := base.tenancies ++ [(9, Tenancy.fresh)], images := [(1, { tenancy := 9, setts := 1, iterMax := 1, scratch := 0, prog := [], routes := [], consts := [], bytes := 64, addr := ddrBase 0 })] }
def many : List TouchEntry := List.replicate 8192 { region := 1, granule := 900, blocks := [] }
def fi : FillItem := { region := 0, granule := 2, blocks := [5, 6], freedBy := 512 + 3 }
def wait3 : State := { base with fill := [{ fi with granule := 100 }], firstTouch := many, shadow := [lv 3 0x0040120 (2^32 * 200), lv 3 0x0040130 (2^35)], live := base.live.filter (fun e => e.1 / 2^26 != 5) }
def wait9 : State := { base with fill := [{ fi with granule := 100 }], firstTouch := many, shadow := [lv 9 0x0040120 (2^32 * 5 + 100)] }
def wk : Work := { id := 1, desc := [], opcode := 0, ring := 0, origin := none, ctx := 0, tenancy := 3, port := 0, pasid := 0, xltRoot := 0, cls := 0, credits := 0, frame := 0, snap := 0, snapLate := false, burrow := 0, verdict := none, unchecked := false, group := [], queries := [], items := [], routed := false, outcomes := [], firstSeq := 0, lastSeq := 0, codes := none, stalled := false, result := none }
def torn : State := { base with tenancies := [(3, { tenancy 3 true with step := 1 }), (5, tenancy 2 false)], images := tight.images }
def torn4 : State := { base with tenancies := [(3, { tenancy 3 true with step := 4 }), (5, tenancy 2 false)] }
def bgState : State := { base with fill := [fi], time := { base.time with now := 60 * 256 }, memory := [(2 * granule + 5 * 4096 + 3, 7)] }

def s0 : State := {base with shadow := [lv 9 0x0040120 (2^35)]}
def s1 : State := {base with shadow := [lv 3 0x0040120 (2^35 + 16)]}
def s2 : State := {base with cmdTen := {CmdState.reset with busy := true}}
def s3 : State := {base with cmdTen := {CmdState.reset with busy := true, held := some (.tenBind .a 9)}}

/-- States and operands that meet the premises of `Obligations.TenanciesComeAndGo`, part 1. -/
theorem witness_TenanciesComeAndGo_1 :
    ((fun (mp : MgmtPort) (t : Nat) (s : State) =>
      ready s mp .ten ∧ t = 0) (.a) 0 base) ∧
    ((fun (mp : MgmtPort) (t : Nat) (s : State) =>
      ready s mp .ten ∧ t = 0) (.a) 0 base) ∧
    ((fun (mp : MgmtPort) (t : Nat) (s : State) =>
      ready s mp .ten ∧ t = 0) (.a) 0 base) ∧
    ((fun (mp : MgmtPort) (t : Nat) (s : State) =>
      let x := s.ten t
      ready s mp .ten ∧ 0 < t ∧ t < 512 ∧ 2 ≤ x.state) (.a) 3 base) ∧
    ((fun (mp : MgmtPort) (t : Nat) (s : State) =>
      let x := s.ten t
      ready s mp .ten ∧ 0 < t ∧ t < 512 ∧ x.state ≠ 2) (.a) 9 base) ∧
    ((fun (mp : MgmtPort) (t : Nat) (s : State) =>
      let x := s.ten t
      ready s mp .ten ∧ 0 < t ∧ t < 512 ∧ x.state ≠ 1 ∧ x.state ≠ 2) (.a) 9 base) := by
  refine ⟨by decide +kernel, by decide +kernel, by decide +kernel, by decide +kernel, by decide +kernel, by decide +kernel⟩

/-- States and operands that meet the premises of `Obligations.TenanciesComeAndGo`, part 2. -/
theorem witness_TenanciesComeAndGo_2 :
    ((fun (mp : MgmtPort) (t : Nat) (s : State) =>
      let x := s.ten t
      ready s mp .ten ∧ 0 < t ∧ t < 512 ∧ s.tenConflict t = true ∧ x.state ≤ 1) (.a) 9 s0) ∧
    ((fun (mp : MgmtPort) (t : Nat) (s : State) =>
      let x := s.ten t
      ready s mp .ten ∧ 0 < t ∧ t < 512 ∧ s.tenConflict t = true ∧ x.state = 2) (.a) 3 s1) ∧
    ((fun (mp : MgmtPort) (t : Nat) (s : State) =>
      let x := s.ten t
      let u := s.applyShadow t
      ready s mp .ten ∧ 0 < t ∧ t < 512 ∧ s.tenConflict t = false ∧ s.tenShrinks u t = true ∧ x.state ≤ 1) (.a) 9 tight9) ∧
    ((fun (mp : MgmtPort) (t : Nat) (s : State) =>
      let x := s.ten t
      let u := s.applyShadow t
      ready s mp .ten ∧ 0 < t ∧ t < 512 ∧ s.tenConflict t = false ∧ s.tenShrinks u t = true ∧ x.state = 2) (.a) 3 tight) ∧
    ((fun (mp : MgmtPort) (t : Nat) (s : State) =>
      let x := s.ten t
      let u := s.applyShadow t
      let waits := 8192 < s.firstTouch.length + (s.touchNeeds u t).length
      ready s mp .ten ∧ 0 < t ∧ t < 512 ∧ s.tenConflict t = false ∧ s.tenShrinks u t = false ∧ waits ∧ x.state ≤ 1) (.a) 9 wait9) ∧
    ((fun (mp : MgmtPort) (t : Nat) (s : State) =>
      let x := s.ten t
      let u := s.applyShadow t
      let waits := 8192 < s.firstTouch.length + (s.touchNeeds u t).length
      ready s mp .ten ∧ 0 < t ∧ t < 512 ∧ s.tenConflict t = false ∧ s.tenShrinks u t = false ∧ waits ∧ x.state = 2) (.a) 3 wait3) := by
  refine ⟨by decide +kernel, by decide +kernel, by decide +kernel, by decide +kernel, by decide +kernel, by decide +kernel⟩

/-- States and operands that meet the premises of `Obligations.TenanciesComeAndGo`, part 3. -/
theorem witness_TenanciesComeAndGo_3 :
    ((fun (mp : MgmtPort) (t : Nat) (s : State) =>
      let x := s.ten t
      let u := s.applyShadow t
      let waits := 8192 < s.firstTouch.length + (s.touchNeeds u t).length
      ready s mp .ten ∧ 0 < t ∧ t < 512 ∧ s.tenConflict t = false ∧ s.tenShrinks u t = false ∧ ¬ waits ∧ x.state ≤ 1) (.a) 9 base) ∧
    ((fun (mp : MgmtPort) (t : Nat) (s : State) =>
      let x := s.ten t
      let u := s.applyShadow t
      let waits := 8192 < s.firstTouch.length + (s.touchNeeds u t).length
      ready s mp .ten ∧ 0 < t ∧ t < 512 ∧ s.tenConflict t = false ∧ s.tenShrinks u t = false ∧ ¬ waits ∧ x.state = 2) (.a) 3 base) ∧
    ((fun (mp : MgmtPort) (t : Nat) (s : State) =>
      let x := s.ten t
      ready s mp .ten ∧ 0 < t ∧ t < 512 ∧ (x.state = 1 ∨ x.state = 2)) (.a) 3 base) ∧
    ((fun (mp : MgmtPort) (t : Nat) (s : State) =>
      let x := s.ten t
      ready s mp .ten ∧ 0 < t ∧ t < 512 ∧ (x.state = 1 ∨ x.state = 2) ∧ (s.extents.all (fun e => !(e.2.tenancy == t && e.2.state == 1)) = true)) (.a) 3 base) ∧
    ((fun (mp : MgmtPort) (s : State) =>
      setUp s mp ∧ s.cmdTen.busy = true ∧ s.cmdTen.held = none) (.a) s2) ∧
    ((fun (mp : MgmtPort) (s : State) =>
      setUp s mp ∧ s.cmdTen.busy = true ∧ s.cmdTen.held.isSome = true) (.a) s3) := by
  refine ⟨by decide +kernel, by decide +kernel, by decide +kernel, by decide +kernel, by decide +kernel, by decide +kernel⟩

/-- States and operands that meet the premises of `Obligations.TenanciesComeAndGo`, part 4. -/
theorem witness_TenanciesComeAndGo_4 :
    ((fun (t : Nat) (s : State) =>
      let x := s.ten t
      0 < t ∧ t < 512 ∧ x.state = 3 ∧ x.step = 1 ∧ s.tenIdle t = true) 3 torn) ∧
    ((fun (t : Nat) (s : State) =>
      let x := s.ten t
      0 < t ∧ t < 512 ∧ (x.state ≠ 3 ∨ x.step ≠ 1 ∨ s.tenIdle t = false)) 9 base) ∧
    ((fun (t : Nat) (s : State) =>
      let x := s.ten t
      0 < t ∧ t < 512 ∧ x.state = 3 ∧ x.step = 4 ∧ (s.fill.any (fun i => i.freedBy == 512 + t) = false)) 3 torn4) ∧
    ((fun (t : Nat) (s : State) =>
      0 < t ∧ t < 512 ∧ (s.fill.any (fun i => i.freedBy == 512 + t) = true)) 3 wait3) ∧
    ((fun (region : Nat) (g : Nat) (blk : Nat) (f : FillItem) (s : State) =>
      (s.fill.find? (fun i => i.region == region && i.granule == g && i.blocks.contains blk) = some f) ∧ (s.fillUnit region g (if f.freedBy < 512 then f.freedBy else 0)).isSome = true ∧ s.cmdTen.running = none) 0 2 5 fi bgState) := by
  refine ⟨by decide +kernel, by decide +kernel, by decide +kernel, by decide +kernel, by decide +kernel⟩

end W13


namespace W14

def held (p : Power → Power) : State := { base with power := p base.power }
def testing (t : SelfTest → SelfTest) : State := { base with test := t { base.test with running := true, done := false } }
def noTen : State := { base with tenancies := [(7, tenancy 1 false)], regs := [(0x0010020, 9), (0x080C008, 5)] }
def corr (n : Nat) : State := { base with errs := { ErrLog.reset with counts := [(2, 4, n, false)] } }
def withMem (m : Memories) : State := { base with mem := m }
def ringR : Ring := { state := .enabled, cause := 0, configured := true, sqBase := 64, cqBase := 4096, headShadow := 0, pasid := 0, tenancy := 3, port := 0, service := false, sqLog2 := 6, cqLog2 := 6, msix := 0, sqTail := 0, cqHead := 0, sqHead := 0, cqTail := 0, phase := true, reserved := 0, fetched := [], shadowDue := false, shadowSlot := 0 }

def s8 : State := corr 4097
def s9 : State := corr 4096
def s6 : State := testing id
def s13 : State := withMem base.mem
def s7 : State := {noTen with sem := Sem.reset}
def s2 : State := held (fun p => {p with perst := true})
def s14 : State := withMem {base.mem with mapped := true}
def s3 : State := held (fun p => {p with warmOrdered := true})
def s0 : State := held (fun p => {p with perstFor := some 999})
def s1 : State := held (fun p => {p with perstFor := some 1000})
def v15 : Loopback := { iface := 1, index := 2, depth := 0, log2 := 20 }
def v16 : Loopback := { iface := 1, index := 0, depth := 0, log2 := 20 }
def v17 : Loopback := { iface := 1, index := 2, depth := 1, log2 := 20 }
def s19 : State := withMem {base.mem with spare := 11, replaced := some 2}
def s10 : State := withMem {base.mem with copying := some 4, copyFrame := 9}
def s5 : State := held (fun p => {p with auxOk := false, devReady := false})
def s4 : State := held (fun p => {p with mainOk := false, scanArmed := true})
def s12 : State := { corr 4097 with mem := { base.mem with replaced := some 3 } }
def s18 : State := {base with loop := some v17}
def s11 : State := { (withMem {base.mem with copying := some 4, copyFrame := 0}) with time := { Time.reset with now := 5 * 2 ^ 14, valid := true } }

/-- States and operands that meet the premises of `Obligations.ResetsSelfTestAndScan`, part 1. -/
theorem witness_ResetsSelfTestAndScan_1 :
    ((fun (s : State) =>
      let p := s.power
      p.perst = false ∧ p.perstFor = none) base) ∧
    ((fun (low : Nat) (s : State) =>
      let p := s.power
      p.perst = false ∧ p.perstFor = some low) 999 s0) ∧
    ((fun (low : Nat) (s : State) =>
      let p := s.power
      p.perst = false ∧ p.perstFor = some low ∧ low < 1000) 999 s0) ∧
    ((fun (low : Nat) (s : State) =>
      let p := s.power
      p.perst = false ∧ p.perstFor = some low ∧ 1000 ≤ low) 1000 s1) ∧
    ((fun (s : State) =>
      let p := s.power
      p.perst = false) base) ∧
    ((fun (s : State) =>
      let p := s.power
      p.perst = true) s2) := by
  refine ⟨by decide +kernel, by decide +kernel, by decide +kernel, by decide +kernel, by decide +kernel, by decide +kernel⟩

/-- States and operands that meet the premises of `Obligations.ResetsSelfTestAndScan`, part 2. -/
theorem witness_ResetsSelfTestAndScan_2 :
    ((fun (s : State) =>
      let p := s.power
      p.perst = true ∧ p.auxOk = true) s2) ∧
    ((fun (mp : MgmtPort) (v : Reg) (s : State) =>
      setUp s mp ∧ v.toNat % 2 ^ 16 = 0xB007) (.a) 0xB007 base) ∧
    ((fun (mp : MgmtPort) (v : Reg) (s : State) =>
      setUp s mp ∧ v.toNat % 2 ^ 16 ≠ 0xB007) (.a) 0x5CA7 base) ∧
    ((fun (s : State) =>
      let p := s.power
      p.warmOrdered = true) s3) ∧
    ((fun (s : State) =>
      let p := s.power
      p.warmOrdered = false) base) ∧
    ((fun (s : State) =>
      let p := s.power
      p.perst = false ∧ p.mainOk = true) base) := by
  refine ⟨by decide +kernel, by decide +kernel, by decide +kernel, by decide +kernel, by decide +kernel, by decide +kernel⟩

/-- States and operands that meet the premises of `Obligations.ResetsSelfTestAndScan`, part 3. -/
theorem witness_ResetsSelfTestAndScan_3 :
    ((fun (s : State) =>
      let p := s.power
      p.perst = true) s2) ∧
    ((fun (s : State) =>
      let p := s.power
      p.mainOk = false) s4) ∧
    ((fun (s : State) =>
      let p := s.power
      p.auxOk = false) s5) ∧
    ((fun (bankB : Nat) (c : Nat) (k : Nat) (fs : List TestFailure) (s : State) =>
      let p := s.power
      let testRuns : Bool → Bool → Bool → Nat → Bool := fun aux main perst st => aux && main && !perst && bits st 7 6 == 0
      s.test.running = true ∧ testRuns p.auxOk p.mainOk p.perst p.straps = true ∧ s.clock.coast = false ∧ c < 16 ∧ k < 12 ∧ (s.bootBanks bankB).badImage = none ∧ ((fs = [] ∨ fs = [.ddrChannel c] ∨ (fs = [.hbmStack k] ∧ s.health.stack = none)))) 0 3 4 [] s6) ∧
    ((fun (c : Nat) (k : Nat) (s : State) =>
      let p := s.power
      let testRuns : Bool → Bool → Bool → Nat → Bool := fun aux main perst st => aux && main && !perst && bits st 7 6 == 0
      s.test.running = true ∧ testRuns p.auxOk p.mainOk p.perst p.straps = true ∧ s.clock.coast = false ∧ c < 16 ∧ k < 12) 3 4 s6) ∧
    ((fun (s : State) =>
      (s.test.running = false ∨ s.clock.coast = true)) base) := by
  refine ⟨by decide +kernel, by decide +kernel, by decide +kernel, by decide +kernel, by decide +kernel, by decide +kernel⟩

/-- States and operands that meet the premises of `Obligations.ResetsSelfTestAndScan`, part 4. -/
theorem witness_ResetsSelfTestAndScan_4 :
    ((fun (s : State) =>
      let p := s.power
      let testRuns : Bool → Bool → Bool → Nat → Bool := fun aux main perst st => aux && main && !perst && bits st 7 6 == 0
      s.test.done = true ∧ s.test.fail = false ∧ testRuns p.auxOk p.mainOk p.perst p.straps = true ∧ s.clock.coast = false ∧ p.fatal = false ∧ p.scanArmed = false ∧ (s.badgers.all (fun e => e.2.disabled || e.2.mapReady) = true)) base) ∧
    ((fun (s : State) =>
      let p := s.power
      (s.test.done = false ∨ s.clock.coast = true ∨ p.fatal = true ∨ s.badgers.any (fun e => !e.2.disabled && !e.2.mapReady) = true)) s6) ∧
    ((fun (mp : MgmtPort) (v : Reg) (s : State) =>
      let p := s.power
      p.perst = false ∧ v.toNat % 2 ^ 16 = 0x5CA7 ∧ s.holdsSem mp = true ∧ (s.tenancies.all (fun e => e.1 == 0 || decide (e.2.state ≤ 1)) = true)) (.a) 0x5CA7 noTen) ∧
    ((fun (mp : MgmtPort) (v : Reg) (s : State) =>
      let p := s.power
      p.perst = false ∧ v.toNat % 2 ^ 16 = 0x5CA7 ∧ s.holdsSem mp = true ∧ (s.tenancies.any (fun e => e.1 != 0 && decide (2 ≤ e.2.state)) = true)) (.a) 0x5CA7 base) ∧
    ((fun (mp : MgmtPort) (v : Reg) (s : State) =>
      let p := s.power
      p.perst = false ∧ v.toNat % 2 ^ 16 = 0x5CA7 ∧ s.holdsSem mp = false) (.a) 0x5CA7 s7) ∧
    ((fun (mp : MgmtPort) (v : Reg) (s : State) =>
      let p := s.power
      p.perst = false ∧ v.toNat % 2 ^ 16 ≠ 0x5CA7 ∧ s.holdsSem mp = true) (.a) 0xB007 base) := by
  refine ⟨by decide +kernel, by decide +kernel, by decide +kernel, by decide +kernel, by decide +kernel, by decide +kernel⟩

/-- States and operands that meet the premises of `Obligations.HealthHeatAndErrors`, part 1. -/
theorem witness_HealthHeatAndErrors_1 :
    ((fun (k : Nat) (s : State) =>
      let m := s.mem
      m.hbmUp.contains k = true ∧ k ≠ m.spare ∧ s.spareFree = true ∧ m.copying = none ∧ (s.stored 0x0200008).toNat % 2 ^ 32 < s.corrected 2 k) 4 s8) ∧
    ((fun (k : Nat) (s : State) =>
      let m := s.mem
      m.hbmUp.contains k = true ∧ k ≠ m.spare ∧ s.spareFree = true ∧ m.copying = none ∧ s.corrected 2 k ≤ (s.stored 0x0200008).toNat % 2 ^ 32) 4 s9) ∧
    ((fun (k : Nat) (s : State) =>
      let m := s.mem
      m.hbmUp.contains k = true ∧ k ≠ m.spare ∧ s.spareFree = true ∧ m.copying = none) 4 s8) ∧
    ((fun (k : Nat) (s : State) =>
      let m := s.mem
      m.copying = some k ∧ s.frame ≤ m.copyFrame) 4 s10) ∧
    ((fun (k : Nat) (s : State) =>
      let m := s.mem
      m.copying = some k ∧ m.copyFrame < s.frame) 4 s11) ∧
    ((fun (k : Nat) (s : State) =>
      let m := s.mem
      m.hbmUp.contains k = true ∧ ((k = m.spare → m.replaced.isSome = true)) ∧ s.spareFree = false) 4 s12) := by
  refine ⟨by decide +kernel, by decide +kernel, by decide +kernel, by decide +kernel, by decide +kernel, by decide +kernel⟩

/-- States and operands that meet the premises of `Obligations.HealthHeatAndErrors`, part 2. -/
theorem witness_HealthHeatAndErrors_2 :
    ((fun (k : Nat) (s : State) =>
      let m := s.mem
      m.hbmUp.contains k = true ∧ k = m.spare ∧ m.replaced = none) 11 s13) ∧
    ((fun (c : Nat) (s : State) =>
      let m := s.mem
      m.ddrUp.contains c = true) 3 s8) ∧
    ((fun (c : Nat) (s : State) =>
      let m := s.mem
      m.ddrUp.contains c = true ∧ m.noMargin.contains c = false) 3 s8) ∧
    ((fun (mp : MgmtPort) (v : Reg) (s : State) =>
      let m := s.mem
      setUp s mp ∧ m.mapped = false ∧ m.replaced = none ∧ v.toNat % 16 < 12) (.a) 0x14000201 s8) ∧
    ((fun (mp : MgmtPort) (s : State) =>
      let m := s.mem
      setUp s mp ∧ m.mapped = true) (.a) s14) ∧
    ((fun (mp : MgmtPort) (s : State) =>
      setUp s mp) (.a) s8) := by
  refine ⟨by decide +kernel, by decide +kernel, by decide +kernel, by decide +kernel, by decide +kernel, by decide +kernel⟩

/-- States and operands that meet the premises of `Obligations.HealthHeatAndErrors`, part 3. -/
theorem witness_HealthHeatAndErrors_3 :
    ((fun (mp : MgmtPort) (v : Reg) (l : Loopback) (s : State) =>
      setUp s mp ∧ l = { iface := bits v.toNat 3 0, index := bits v.toNat 15 8, depth := bits v.toNat 19 16, log2 := bits v.toNat 31 24 } ∧ l.depth < loopDepths l.iface ∧ l.index < loopCount l.iface ∧ s.idleIface mp l.iface l.index = true ∧ s.loop = none) (.a) 0x14000201 v15 s8) ∧
    ((fun (mp : MgmtPort) (v : Reg) (l : Loopback) (s : State) =>
      setUp s mp ∧ l = { iface := bits v.toNat 3 0, index := bits v.toNat 15 8, depth := bits v.toNat 19 16, log2 := bits v.toNat 31 24 } ∧ (loopDepths l.iface ≤ l.depth ∨ s.idleIface mp l.iface l.index = false)) (.a) 0x14000001 v16 s9) ∧
    ((fun (l : Loopback) (s : State) =>
      s.loop = some l) v17 s18) ∧
    ((fun (maxC : Nat) (s : State) =>
      s.warnC ≤ maxC) 105 s8) ∧
    ((fun (maxC : Nat) =>
      110 ≤ maxC) 115) ∧
    ((fun (maxC : Nat) (s : State) =>
      115 ≤ maxC ∧ s.power.thermTrip = false) 115 s9) := by
  refine ⟨by decide +kernel, by decide +kernel, by decide +kernel, by decide +kernel, by decide +kernel, by decide +kernel⟩

/-- States and operands that meet the premises of `Obligations.HealthHeatAndErrors`, part 4. -/
theorem witness_HealthHeatAndErrors_4 :
    ((fun (maxC : Nat) (s : State) =>
      maxC + 5 < s.warnC) 99 s10) ∧
    ((fun (maxC : Nat) (s : State) =>
      maxC < s.warnC ∧ s.warnC ≤ maxC + 5 ∧ maxC < 105) 100 s19) ∧
    ((fun (a : Nat) =>
      a < 2 * 2 ^ 48) (2^48+128)) ∧
    ((fun (ten : Option Nat) (n : Nat) =>
      ten = some n ∧ 0 < n) (some 3) 3) := by
  refine ⟨by decide +kernel, by decide +kernel, by decide +kernel, by decide +kernel⟩

end W14


namespace W15

def row (off : Nat) : RegRow := (regRow off).getD ⟨0,0,8,.plain,0,0⟩
def fullM : Reg := BitVec.ofNat 64 full
def tcmd (c : CmdState) : State := { base with cmdTen := c }
def keyedS (a : Nat) : State := { base with regs := [(0x0010020, 9), (0x0C00020, BitVec.ofNat 64 (3*2^62 + a))], memory := [(0, 7), (2^48 + 2^40, 9)] }

def s6 : State := keyedS 0
def s7 : State := keyedS (2^40)
def s8 : State := keyedS (2^48 + 2^40)
def s5 : State := {base with power := {base.power with perst := true}}
def s1 : State := {base with regs := [(0x0010020, 9),(0x0040010, 0x501)]}
def s4 : State := {base with cmdCtx := {CmdState.reset with busy := true}}
def s2 : State := tcmd {CmdState.reset with held := some (.tenModify .a 3)}
def s3 : State := {base with cmdCtx := {CmdState.reset with held := some (.ctxRead .b 3)}}
def s0 : State := {base with rings := [(0, { Ring.fresh with configured := true, state := .enabled, port := 0, tenancy := 3, sqTail := 5, cqHead := 2, sqHead := 3, cause := 0 })]}

/-- States and operands that meet the premises of `Obligations.RegistersAndWindows`, part 1. -/
theorem witness_RegistersAndWindows_1 :
    ((fun (offset : Nat) (size : Nat) (s : State) =>
      s.power.auxOk = true ∧ readLanes offset size = none) 12582945 8 base) ∧
    ((fun (offset : Nat) (size : Nat) (off : Nat) (s : State) (h : Nat) =>
      s.power.auxOk = true ∧ readLanes offset size = some (off, h) ∧ ¬ (0x0C00040 ≤ off ∧ off < 0x0C00080)) 12582944 8 12582944 base 2) ∧
    ((fun (offset : Nat) (size : Nat) (off : Nat) (s : State) (h : Nat) =>
      s.power.auxOk = true ∧ readLanes offset size = some (off, h) ∧ ¬ (0x0C00040 ≤ off ∧ off < 0x0C00080)) 12582944 8 12582944 base 2) ∧
    ((fun (i : Nat) (ring : Nat) (s : State) =>
      doorbellOpen s i ring ∧ sends s i) 0 0 s0) ∧
    ((fun (i : Nat) (ring : Nat) (s : State) =>
      doorbellOpen s i ring ∧ sends s i) 0 0 s0) ∧
    ((fun (i : Nat) (ring : Nat) (s : State) =>
      doorbellOpen s i ring ∧ sends s i) 0 0 s0) := by
  refine ⟨by decide +kernel, by decide +kernel, by decide +kernel, by decide +kernel, by decide +kernel, by decide +kernel⟩

/-- States and operands that meet the premises of `Obligations.RegistersAndWindows`, part 2. -/
theorem witness_RegistersAndWindows_2 :
    ((fun (i : Nat) (ring : Nat) (s : State) =>
      doorbellOpen s i ring ∧ sends s i) 0 0 s0) ∧
    ((fun (offset : Nat) (i : Nat) (ring : Nat) (s : State) =>
      doorbellOpen s i ring ∧ sends s i ∧ 0x1C ≤ offset) 32 0 0 s0) ∧
    ((fun (offset : Nat) (i : Nat) (ring : Nat) (s : State) =>
      doorbellOpen s i ring ∧ sends s i ∧ 0x1C ≤ offset) 32 0 0 s0) ∧
    ((fun (offset : Nat) (size : Nat) (i : Nat) (ring : Nat) (s : State) =>
      doorbellOpen s i ring ∧ sends s i ∧ size ≠ 4 ∧ offset < 4 ∧ 0 < size) 2 2 0 0 s0) ∧
    ((fun (mp : MgmtPort) (offset : Nat) (size : Nat) (value : Reg) (s : State) =>
      setUp s mp ∧ s.power.auxOk = true ∧ writeLanes offset size value = none) (.a) 12582945 8 1 base) ∧
    ((fun (mp : MgmtPort) (offset : Nat) (size : Nat) (off : Nat) (m : Reg) (v : Reg) (value : Reg) (s : State) =>
      setUp s mp ∧ s.power.auxOk = true ∧ writeLanes offset size value = some (off, m, v) ∧ off = semOff ∧ offset % 8 = 0) (.a) 65536 8 65536 fullM 5 5 base) := by
  refine ⟨by decide +kernel, by decide +kernel, by decide +kernel, by decide +kernel, by decide +kernel, by decide +kernel⟩

/-- States and operands that meet the premises of `Obligations.RegistersAndWindows`, part 3. -/
theorem witness_RegistersAndWindows_3 :
    ((fun (mp : MgmtPort) (offset : Nat) (size : Nat) (off : Nat) (m : Reg) (v : Reg) (value : Reg) (s : State) =>
      setUp s mp ∧ s.power.auxOk = true ∧ writeLanes offset size value = some (off, m, v) ∧ off = semOff ∧ offset % 8 = 4) (.a) 65540 4 65536 0xFFFFFFFF00000000 0x0000000500000000#64 5 base) ∧
    ((fun (mp : MgmtPort) (offset : Nat) (size : Nat) (off : Nat) (m : Reg) (v : Reg) (value : Reg) (s : State) =>
      setUp s mp ∧ s.power.auxOk = true ∧ writeLanes offset size value = some (off, m, v) ∧ off ≠ semOff ∧ regRow off = none ∧ off ∉ [0x0040008, 0x0080040, 0x0601080, 0x0809020, 0x0900000]) (.a) 1193040 8 1193040 fullM 1 1 base) ∧
    ((fun (mp : MgmtPort) (offset : Nat) (size : Nat) (off : Nat) (m : Reg) (v : Reg) (value : Reg) (r : RegRow) (s : State) =>
      let hold : Prop := 0x0100000 ≤ off ∧ off < 0x0100C00 ∧ off % 0x100 = 0
      setUp s mp ∧ s.power.auxOk = true ∧ writeLanes offset size value = some (off, m, v) ∧ off ≠ semOff ∧ regRow off = some r ∧ hold ∧ (v &&& m).getLsbD 0 = true) (.a) 1048832 8 1048832 fullM 1 1 (row 1048832) base) ∧
    ((fun (mp : MgmtPort) (offset : Nat) (size : Nat) (off : Nat) (m : Reg) (v : Reg) (value : Reg) (r : RegRow) (s : State) =>
      let hold : Prop := 0x0100000 ≤ off ∧ off < 0x0100C00 ∧ off % 0x100 = 0
      setUp s mp ∧ s.power.auxOk = true ∧ writeLanes offset size value = some (off, m, v) ∧ off ≠ semOff ∧ regRow off = some r ∧ r.kind = .plain ∧ r.w1c = 0 ∧ off ≠ 0x0020000 ∧ ¬ hold ∧ ((regRows.find? (fun q => q.covers off)).isSome = true)) (.a) 12582944 8 12582944 fullM 291 291 (row 12582944) base) ∧
    ((fun (mp : MgmtPort) (offset : Nat) (size : Nat) (off : Nat) (i : Nat) (m : Reg) (v : Reg) (value : Reg) (hwSet : Reg) (r : RegRow) (s : State) =>
      setUp s mp ∧ s.power.auxOk = true ∧ writeLanes offset size value = some (off, m, v) ∧ off ≠ semOff ∧ regRow off = some r ∧ r.kind = .plain ∧ hwSet = 0 ∧ r.w1c ≠ 0 ∧ bit r.w1c i = true ∧ i < 64) (.a) 262160 8 262160 8 fullM 256 256 0 (row 262160) s1) ∧
    ((fun (mp : MgmtPort) (offset : Nat) (size : Nat) (off : Nat) (i : Nat) (m : Reg) (v : Reg) (value : Reg) (hwSet : Reg) (r : RegRow) (s : State) =>
      setUp s mp ∧ s.power.auxOk = true ∧ writeLanes offset size value = some (off, m, v) ∧ off ≠ semOff ∧ regRow off = some r ∧ r.kind = .plain ∧ hwSet = BitVec.ofNat 64 (2 ^ i) ∧ i < 64 ∧ bit r.w1c i = true ∧ (v &&& m).getLsbD i = true) (.a) 262160 8 262160 8 fullM 256 256 0x100 (row 262160) s1) := by
  refine ⟨by decide +kernel, by decide +kernel, by decide +kernel, by decide +kernel, by decide +kernel, by decide +kernel⟩

/-- States and operands that meet the premises of `Obligations.RegistersAndWindows`, part 4. -/
theorem witness_RegistersAndWindows_4 :
    ((fun (mp : MgmtPort) (offset : Nat) (size : Nat) (off : Nat) (i : Nat) (m : Reg) (v : Reg) (value : Reg) (r : RegRow) (s : State) =>
      setUp s mp ∧ s.power.auxOk = true ∧ writeLanes offset size value = some (off, m, v) ∧ off ≠ semOff ∧ regRow off = some r ∧ ((regRows.find? (fun q => q.covers off)).isNone = true) ∧ i < 64 ∧ bit r.rw i = true ∧ s.stored off = 0 ∧ m = BitVec.ofNat 64 full ∧ v = BitVec.ofNat 64 (2 ^ i)) (.a) 262168 8 262168 0 fullM 1 1 (row 262168) s1) ∧
    ((fun (mp : MgmtPort) (offset : Nat) (size : Nat) (off : Nat) (m : Reg) (v : Reg) (value : Reg) (r : RegRow) (s : State) =>
      setUp s mp ∧ s.power.auxOk = true ∧ writeLanes offset size value = some (off, m, v) ∧ off ≠ semOff ∧ regRow off = some r ∧ r.kind = .staged) (.a) 262400 8 262400 fullM 1 1 (row 262400) base) ∧
    ((fun (mp : MgmtPort) (offset : Nat) (size : Nat) (off : Nat) (m : Reg) (v : Reg) (value : Reg) (r : RegRow) (s : State) =>
      setUp s mp ∧ s.power.auxOk = true ∧ writeLanes offset size value = some (off, m, v) ∧ off ≠ semOff ∧ regRow off = some r ∧ r.kind = .owner) (.a) 294912 8 294912 fullM 32771 32771 (row 294912) base) ∧
    ((fun (mp : MgmtPort) (offset : Nat) (size : Nat) (off : Nat) (m : Reg) (v : Reg) (value : Reg) (r : RegRow) (s : State) =>
      setUp s mp ∧ s.power.auxOk = true ∧ writeLanes offset size value = some (off, m, v) ∧ off ≠ semOff ∧ regRow off = some r ∧ (r.kind = .bgMap ∨ (r.kind = .slotMap ∧ (off - 0x0050000) / 8 % 16 ≠ 15))) (.a) 327680 8 327680 fullM 32771 32771 (row 327680) base) ∧
    ((fun (mp : MgmtPort) (offset : Nat) (size : Nat) (off : Nat) (m : Reg) (v : Reg) (value : Reg) (r : RegRow) (s : State) =>
      setUp s mp ∧ s.power.auxOk = true ∧ writeLanes offset size value = some (off, m, v) ∧ off ≠ semOff ∧ regRow off = some r ∧ r.kind = .slotMap ∧ (off - 0x0050000) / 8 % 16 = 15) (.a) 327800 8 327800 fullM 32771 32771 (row 327800) base) ∧
    ((fun (mp : MgmtPort) (offset : Nat) (size : Nat) (off : Nat) (m : Reg) (v : Reg) (value : Reg) (r : RegRow) (s : State) =>
      setUp s mp ∧ s.power.auxOk = true ∧ writeLanes offset size value = some (off, m, v) ∧ off ≠ semOff ∧ regRow off = some r ∧ r.kind = .burGroup) (.a) 4202504 8 4202504 fullM 16842756 16842756 (row 4202504) base) := by
  refine ⟨by decide +kernel, by decide +kernel, by decide +kernel, by decide +kernel, by decide +kernel, by decide +kernel⟩

/-- States and operands that meet the premises of `Obligations.RegistersAndWindows`, part 5. -/
theorem witness_RegistersAndWindows_5 :
    ((fun (mp : MgmtPort) (offset : Nat) (size : Nat) (off : Nat) (m : Reg) (v : Reg) (value : Reg) (r : RegRow) (s : State) =>
      setUp s mp ∧ s.power.auxOk = true ∧ writeLanes offset size value = some (off, m, v) ∧ off ≠ semOff ∧ regRow off = some r ∧ r.kind = .embGroup) (.a) 4206600 8 4206600 fullM 16777219 16777219 (row 4206600) base) ∧
    ((fun (mp : MgmtPort) (offset : Nat) (size : Nat) (off : Nat) (m : Reg) (v : Reg) (value : Reg) (s : State) =>
      setUp s mp ∧ s.power.auxOk = true ∧ writeLanes offset size value = some (off, m, v) ∧ off = 0x0040008 ∧ (4 ≤ bits v.toNat 19 16 ∨ bits v.toNat 8 0 = 0)) (.a) 262152 8 262152 fullM 262147 262147 base) ∧
    ((fun (mp : MgmtPort) (offset : Nat) (size : Nat) (off : Nat) (m : Reg) (v : Reg) (value : Reg) (s : State) =>
      setUp s mp ∧ s.power.auxOk = true ∧ writeLanes offset size value = some (off, m, v) ∧ off = 0x0601080 ∧ 5 ≤ bits v.toNat 27 24) (.a) 6295680 8 6295680 fullM 83886080 83886080 base) ∧
    ((fun (mp : MgmtPort) (offset : Nat) (size : Nat) (off : Nat) (m : Reg) (v : Reg) (value : Reg) (s : State) =>
      setUp s mp ∧ s.power.auxOk = true ∧ writeLanes offset size value = some (off, m, v) ∧ off = 0x0900000 ∧ 3 ≤ bits v.toNat 15 0) (.a) 9437184 8 9437184 fullM 3 3 base) ∧
    ((fun (mp : MgmtPort) (s : State) =>
      setUp s mp ∧ s.power.auxOk = true) (.a) base) ∧
    ((fun (mp : MgmtPort) (s : State) =>
      setUp s mp ∧ s.power.auxOk = true) (.a) base) := by
  refine ⟨by decide +kernel, by decide +kernel, by decide +kernel, by decide +kernel, by decide +kernel, by decide +kernel⟩

/-- States and operands that meet the premises of `Obligations.RegistersAndWindows`, part 6. -/
theorem witness_RegistersAndWindows_6 :
    ((fun (mp : MgmtPort) (w : Reg) (s : State) =>
      let gap := fun (n : Nat) => (n + 8192 - s.errs.head) % 8192
      setUp s mp ∧ s.power.auxOk = true ∧ gap (w.toNat % 8192) ≤ gap s.errs.tail) (.a) 0 base) ∧
    ((fun (mp : MgmtPort) (w : Reg) (s : State) =>
      let gap := fun (n : Nat) => (n + 8192 - s.errs.head) % 8192
      setUp s mp ∧ s.power.auxOk = true ∧ gap s.errs.tail < gap (w.toNat % 8192)) (.a) 5 base) ∧
    ((fun (mp : MgmtPort) (ctx : Nat) (s : State) =>
      setUp s mp ∧ s.power.auxOk = true ∧ s.cmdTen.busy = false ∧ s.cmdTen.held = some (.tenModify mp ctx)) (.a) 3 s2) ∧
    ((fun (mp : MgmtPort) (ctx : Nat) (s : State) =>
      (s.block .ctx).busy = false ∧ (s.block .ctx).held = some (.ctxRead mp ctx) ∧ s.power.perst = false) MgmtPort.b 3 s3) ∧
    ((fun (s : State) =>
      (s.block .ctx).busy = true) s4) ∧
    ((fun (mp : MgmtPort) (s : State) =>
      ready s mp .ctx) (.a) base) := by
  refine ⟨by decide +kernel, by decide +kernel, by decide +kernel, by decide +kernel, by decide +kernel, by decide +kernel⟩

/-- States and operands that meet the premises of `Obligations.RegistersAndWindows`, part 7. -/
theorem witness_RegistersAndWindows_7 :
    ((fun (mp : MgmtPort) (s : State) =>
      ready s mp .ring) (.a) base) ∧
    ((fun (mp : MgmtPort) (offset : Nat) (s : State) =>
      s.power.perst = false ∧ s.power.auxOk = true ∧ s.holdsSem mp = false ∧ offset / 8 * 8 ≠ semOff) MgmtPort.b 0 s3) ∧
    ((fun (s : State) =>
      s.power.perst = true) s5) ∧
    ((fun (s : State) =>
      s.power.perst = true) s5) ∧
    ((fun (word : Nat) (s : State) =>
      let a := (s.stored 0x0C00020).toNat % 2 ^ 62 / 64 * 64 + 8 * (word % 8)
      s.power.perst = false ∧ s.flag 0x0C00028 63 = false ∧ (s.stored 0x0C00020).toNat / 2 ^ 62 = 3 ∧ a < 2 ^ 48 ∧ s.keyedAt (a / 64 * 64) = true) 0 s6) ∧
    ((fun (word : Nat) (s : State) =>
      let a := (s.stored 0x0C00020).toNat % 2 ^ 62 / 64 * 64 + 8 * (word % 8)
      s.power.perst = false ∧ s.flag 0x0C00028 63 = false ∧ (s.stored 0x0C00020).toNat / 2 ^ 62 = 3 ∧ a < 2 ^ 48 ∧ s.keyedAt (a / 64 * 64) = false) 1 s7) := by
  refine ⟨by decide +kernel, by decide +kernel, by decide +kernel, by decide +kernel, by decide +kernel, by decide +kernel⟩

/-- States and operands that meet the premises of `Obligations.RegistersAndWindows`, part 8. -/
theorem witness_RegistersAndWindows_8 :
    (fun (word : Nat) (s : State) (b : Bytes) =>
      let a := (s.stored 0x0C00020).toNat % 2 ^ 62 / 64 * 64 + 8 * (word % 8)
      let u := a / 64 * 64
      s.power.perst = false ∧ s.flag 0x0C00028 63 = false ∧ (s.stored 0x0C00020).toNat / 2 ^ 62 = 3 ∧ 2 ^ 48 ≤ a ∧ a < 2 * 2 ^ 48 ∧ s.ddrPlain u = some b) 0 s8 (9 :: List.replicate 63 0) := by decide +kernel

end W15

end Sys2Proof.Tests
end

section
/-!
SUPPORT. Tables by number, bit fields, registers and flags: what a read gives after a write, and what the operations that set flags leave.
-/

namespace Sys2Proof.Machine

/-! ### Tables by number -/

section
variable {α : Type}

theorem tget_tset (m : Tab α) (i j : Nat) (x : α) : tget (tset m i x) j = if j = i then some x else tget m j := by
  induction m with
  | nil =>
    by_cases h : j = i
    · simp [tset, tget, h]
    · simp [tset, tget, h, Ne.symm h]
  | cons e t ih =>
    obtain ⟨k, v⟩ := e
    unfold tset
    by_cases hk : k = i
    · subst hk
      by_cases h : j = k
      · simp [tget, h]
      · simp [tget, h, Ne.symm h]
    · rw [if_neg hk]
      by_cases hlt : i < k
      · rw [if_pos hlt]
        by_cases h : j = i
        · simp [tget, h]
        · simp [tget, h, Ne.symm h]
      · rw [if_neg hlt]
        by_cases h : j = i
        · subst h
          simpa [tget, hk] using ih
        · simp [tget, ih, h]

@[simp] theorem tget_tset_same (m : Tab α) (i : Nat) (x : α) : tget (tset m i x) i = some x := by simp [tget_tset]

theorem tget_tset_ne (m : Tab α) {i j : Nat} (h : j ≠ i) (x : α) : tget (tset m i x) j = tget m j := by simp [tget_tset, h]

@[simp] theorem tgetD_tset_same (m : Tab α) (i : Nat) (x d : α) : tgetD (tset m i x) i d = x := by simp [tgetD]

theorem tgetD_tset_ne (m : Tab α) {i j : Nat} (h : j ≠ i) (x d : α) : tgetD (tset m i x) j d = tgetD m j d := by
  simp [tgetD, tget_tset_ne m h]

theorem mem_tset (m : Tab α) (i : Nat) (x : α) : (i, x) ∈ tset m i x := by
  induction m with
  | nil => simp [tset]
  | cons e t ih =>
    unfold tset
    split_ifs <;> simp [ih]

end

/-! ### Folds -/

/-- A fold whose steps, but for one element that occurs once, leave the state as it is. -/
theorem foldl_one {α β : Type} {f : β → α → β} {l : List α} {a : α} {s : β} (hn : l.Nodup) (ha : a ∈ l)
    (hb : ∀ x ∈ l, x ≠ a → f s x = s) (hf : ∀ x ∈ l, x ≠ a → f (f s a) x = f s a) : l.foldl f s = f s a := by
  have fixed : ∀ (u : β) (k : List α), (∀ x ∈ k, f u x = u) → k.foldl f u = u := by
    intro u k
    induction k with
    | nil => intro _; rfl
    | cons y t ih =>
      intro h
      rw [List.foldl_cons, h y List.mem_cons_self]
      exact ih (fun x hx => h x (List.mem_cons_of_mem y hx))
  obtain ⟨l₁, l₂, rfl⟩ := List.append_of_mem ha
  obtain ⟨-, h₂, hd⟩ := List.nodup_append.mp hn
  rw [List.foldl_append, List.foldl_cons, fixed s l₁ (fun x hx => hb x (by simp [hx]) (hd x hx a List.mem_cons_self))]
  exact fixed _ l₂ (fun x hx => hf x (by simp [hx]) (fun h => (List.nodup_cons.mp h₂).1 (h ▸ hx)))

/-! ### Bit fields -/

theorem bit_eq_testBit (v i : Nat) : bit v i = v.testBit i := by
  simp [bit, Nat.testBit_eq_decide_div_mod_eq, beq_eq_decide]

theorem bit_toNat (v : Reg) (i : Nat) : bit v.toNat i = v.getLsbD i := by rw [bit_eq_testBit]; rfl

theorem bit_two_pow (i j : Nat) : bit (2 ^ i) j = decide (i = j) := by rw [bit_eq_testBit, Nat.testBit_two_pow]

theorem getLsbD_two_pow (i j : Nat) (hi : i < 64) : (BitVec.ofNat 64 (2 ^ i)).getLsbD j = decide (i = j) := by
  rw [← bit_toNat, BitVec.toNat_ofNat, Nat.mod_eq_of_lt (Nat.pow_lt_pow_right (by decide) hi), bit_two_pow]

theorem mem_onBits (v i : Nat) : i ∈ onBits v ↔ i < 64 ∧ bit v i = true := by simp [onBits]

theorem onBits_nodup (v : Nat) : (onBits v).Nodup := List.nodup_range.filter _

theorem getLsbD_merge (old m v : Reg) (i : Nat) : (merge old m v).getLsbD i = if m.getLsbD i then v.getLsbD i else old.getLsbD i := by
  rw [merge, BitVec.getLsbD_or, BitVec.getLsbD_and, BitVec.getLsbD_and, BitVec.getLsbD_not]
  by_cases hi : i < 64
  · cases m.getLsbD i <;> simp [hi]
  · have off (x : Reg) : x.getLsbD i = false := BitVec.getLsbD_of_ge x i (by omega)
    simp [off]

/-! ### Registers and flags -/

section
variable (s : State)

theorem State.stored_congr {s t : State} (h : s.regs = t.regs) (k : Nat) : t.stored k = s.stored k := by
  unfold State.stored
  rw [h]

theorem State.flag_congr {s t : State} {k : Nat} (h : t.stored k = s.stored k) (i : Nat) : t.flag k i = s.flag k i := by
  unfold State.flag
  rw [h]

/-- What a register holds after a write of one. -/
theorem State.stored_tset (o k : Nat) (v : Reg) :
    ({ s with regs := tset s.regs o v } : State).stored k = if k = o then v else s.stored k := by
  unfold State.stored
  split_ifs with h
  · rw [h]; exact tgetD_tset_same _ _ _ _
  · exact tgetD_tset_ne _ h _ _

theorem State.emit_stored (o : Output) (k : Nat) : (s.emit o).stored k = s.stored k :=
  State.stored_congr (s.emit_only o .regs (by decide)) k

theorem State.stored_setBit (o i k : Nat) :
    (s.setBit o i).stored k = if k = o then s.stored o ||| BitVec.ofNat 64 (2 ^ i) else s.stored k := s.stored_tset o k _

theorem State.stored_setFlag (o i k : Nat) :
    (s.setFlag o i).stored k = if k = o then s.stored o ||| BitVec.ofNat 64 (2 ^ i) else s.stored k := by
  unfold State.setFlag
  dsimp only
  split
  · rw [State.emit_stored]; exact s.stored_tset o k _
  · exact s.stored_tset o k _

theorem State.flag_setBit (o : Nat) {i : Nat} (hi : i < 64) (k j : Nat) :
    (s.setBit o i).flag k j = (s.flag k j || (decide (k = o) && decide (i = j))) := by
  unfold State.flag
  rw [State.stored_setBit]
  by_cases h : k = o
  · rw [if_pos h, BitVec.getLsbD_or, getLsbD_two_pow i j hi]
    simp [h]
  · simp [h]

theorem State.flag_setFlag (o : Nat) {i : Nat} (hi : i < 64) (k j : Nat) :
    (s.setFlag o i).flag k j = (s.flag k j || (decide (k = o) && decide (i = j))) := by
  unfold State.flag
  rw [State.stored_setFlag]
  by_cases h : k = o
  · rw [if_pos h, BitVec.getLsbD_or, getLsbD_two_pow i j hi]
    simp [h]
  · simp [h]

/-- A flag that hardware sets reads 1. -/
theorem State.flag_setFlag_same (o : Nat) {i : Nat} (hi : i < 64) : (s.setFlag o i).flag o i = true := by simp [s.flag_setFlag o hi]

theorem State.flag_raiseNmi {c : Nat} (hc : c < 64) : (s.raiseNmi c).flag nmiOff c = true := by
  unfold State.raiseNmi
  rw [State.flag_congr (State.emit_stored _ _ _), s.flag_setBit nmiOff hc]
  simp

/-- A counter incremented once. -/
theorem State.counted_bump (o : Nat) : counted s (s.bump o 1) o := tgetD_tset_same _ _ _ _

theorem counted_congr {s t u : State} {o : Nat} (h : counted s t o) (hc : t.counters = u.counters) : counted s u o := by
  unfold counted at *
  rw [← hc, h]

end

/-! ### Commands by their next state -/

section
variable {c : Instr} {s t u : State}

/-- A command whose next state another expression gives. -/
theorem Does.of_eq {ps : List Part} {P : State → Prop} (he : exec c s = .next t) (e : t = u) (ho : Only ps s u) (hp : P u) :
    Does c s ps P := ⟨u, e ▸ he, ho, hp⟩

/-- A command that changes nothing. -/
theorem Does.nothing (he : exec c s = .next t) (e : t = s) : Does c s [] (fun _ => True) := Does.of_eq he e (Only.refl _ s) trivial

/-- A command that sends one output. -/
theorem Does.emits {o : Output} (he : exec c s = .next t) (e : t = s.emit o) (ho : s.emit o = { s with out := s.out ++ [o] }) :
    Does c s [.out] (fun t => t.out = s.out ++ [o]) := Does.of_eq he e (s.emit_only o) (by rw [ho])

end

/-! ### Plain updates -/

section
variable (s : State)

theorem State.power_only (x : Power) : Only [.power] s { s with power := x } := by
  intro p hp; cases p
  case power => simp at hp
  all_goals rfl

theorem State.health_only (x : Health) : Only [.health] s { s with health := x } := by
  intro p hp; cases p
  case health => simp at hp
  all_goals rfl

theorem State.svcPrev_only (n : Nat) : Only [.svcPrev] s { s with svcPrev := n } := by
  intro p hp; cases p
  case svcPrev => simp at hp
  all_goals rfl

theorem State.bridgeFails_only (m : Tab Nat) : Only [.bridgeFails] s { s with bridgeFails := m } := by
  intro p hp; cases p
  case bridgeFails => simp at hp
  all_goals rfl

theorem State.fabric_only (f : Fabric) : Only [.fabric] s { s with fabric := f } := by
  intro p hp; cases p
  case fabric => simp at hp
  all_goals rfl

theorem State.errs_only (e : ErrLog) : Only [.errs] s { s with errs := e } := by
  intro p hp; cases p
  case errs => simp at hp
  all_goals rfl

theorem State.deviceFatal_only : Only [.out, .regs, .power] s s.deviceFatal :=
  ((s.raiseNmi_only 1).mono rfl).trans ((State.power_only _ _).mono rfl)

theorem State.reviewSvc_only : Only [.out, .regs, .svcPrev] s s.reviewSvc := by
  unfold State.reviewSvc
  exact ((s.svcPrev_only _).mono rfl).trans (Only.foldl (fun u i => (u.setFlag_only _ _).mono rfl) _ _)

end

end Sys2Proof.Machine
end

section
/-!
Ports: what each command of a port does, one law per case, and the statement of O53 put together from them.
-/

namespace Sys2Proof.Machine

/-! ### The fields of MGMT_PORT_CLASS -/

/-- A field of two bits of a number. -/
theorem bits_pair (v p : Nat) : bits v (2 * p + 1) (2 * p) = v / 4 ^ p % 4 := by
  have h : 2 * p + 1 + 1 - 2 * p = 2 := by omega
  rw [bits, h, pow_mul]
  norm_num

/-- What stands above a digit of base 4 does not count for it. -/
theorem digit_below {i p : Nat} (h : i < p) (x r : Nat) : (4 ^ p * x + r) / 4 ^ i % 4 = r / 4 ^ i % 4 := by
  obtain ⟨d, rfl⟩ := Nat.exists_eq_add_of_lt h
  have e : 4 ^ (i + d + 1) * x = 4 ^ i * (4 * (4 ^ d * x)) := by ring
  rw [e, Nat.mul_add_div (by positivity), Nat.mul_add_mod]

/-- What stands below a digit of base 4 does not count for it. -/
theorem digit_above {r p : Nat} (h : r < 4 ^ p) (d x : Nat) : (4 ^ p * x + r) / 4 ^ (p + d) % 4 = x / 4 ^ d % 4 := by
  rw [pow_add, ← Nat.div_div_eq_div_mul, Nat.mul_add_div (by positivity), Nat.div_eq_of_lt h, Nat.add_zero]

/-- The digits of a number in base 4 when one is replaced. -/
theorem digit_replace (v p n i : Nat) (hn : n < 4) :
    (v - v / 4 ^ p % 4 * 4 ^ p + n * 4 ^ p) / 4 ^ i % 4 = if i = p then n else v / 4 ^ i % 4 := by
  have hr : v % 4 ^ p < 4 ^ p := Nat.mod_lt _ (by positivity)
  have hv : v = 4 ^ p * (v / 4 ^ p) + v % 4 ^ p := (Nat.div_add_mod v (4 ^ p)).symm
  generalize v / 4 ^ p = q at hv ⊢
  generalize v % 4 ^ p = r at hv hr
  have new : v - q % 4 * 4 ^ p + n * 4 ^ p = 4 ^ p * (4 * (q / 4) + n) + r := by
    have hq : 4 ^ p * q = 4 ^ p * (4 * (q / 4)) + q % 4 * 4 ^ p := by
      conv_lhs => rw [← Nat.div_add_mod q 4]
      ring
    rw [Nat.mul_add, Nat.mul_comm n]
    omega
  rw [new]
  rcases lt_trichotomy i p with h | h | h
  · rw [if_neg h.ne, digit_below h, hv, digit_below h]
  · have k := digit_above hr 0 (4 * (q / 4) + n)
    rw [Nat.add_zero] at k
    rw [if_pos h, h, k]
    omega
  · obtain ⟨d, rfl⟩ := Nat.exists_eq_add_of_lt h
    rw [if_neg h.ne', Nat.add_assoc, digit_above hr, hv, digit_above hr, pow_succ', ← Nat.div_div_eq_div_mul,
      ← Nat.div_div_eq_div_mul]
    congr 2
    omega

section
variable (s : State)

theorem State.portClass_congr {s t : State} (h : t.stored 0x0010020 = s.stored 0x0010020) (i : Nat) : t.portClass i = s.portClass i := by
  unfold State.portClass
  rw [h]

/-- The classes after the write of one field of MGMT_PORT_CLASS. -/
theorem State.portClass_replace {p n : Nat} (hp : p < 12) (hn : n < 4) (i : Nat) :
    ({ s with regs := tset s.regs 0x0010020 (BitVec.ofNat 64 ((s.stored 0x0010020).toNat - s.portClass p * 4 ^ p + n * 4 ^ p)) } : State).portClass i =
      if i = p then n else s.portClass i := by
  unfold State.portClass
  rw [State.stored_tset, if_pos rfl, BitVec.toNat_ofNat, if_pos hp]
  simp only [bits_pair]
  by_cases hi : i < 12
  · have low (v : Nat) : v % 2 ^ 64 / 4 ^ i % 4 = v / 4 ^ i % 4 := by
      conv_rhs => rw [← Nat.div_add_mod v (4 ^ 32)]
      rw [digit_below (by omega)]
      norm_num
    rw [if_pos hi, low, digit_replace _ _ _ _ hn, if_pos hi]
  · rw [if_neg hi, if_neg hi, if_neg (by omega)]

theorem State.port_setPort (p i : Nat) (x : Port) : (s.setPort p x).port i = if i = p then x else s.port i := by
  unfold State.port State.setPort
  split_ifs with h
  · rw [h]; exact tgetD_tset_same _ _ _ _
  · exact tgetD_tset_ne _ h _ _

theorem State.port_congr {s t : State} (h : s.ports = t.ports) (i : Nat) : t.port i = s.port i := by
  unfold State.port
  rw [h]

/-- One field of a write of MGMT_PORT_CLASS. -/
def State.writeClass (value : Reg) (s : State) (p : Nat) : State :=
  let new := bits value.toNat (2 * p + 1) (2 * p)
  let old := s.portClass p
  if new = old ∨ new = 3 then s
  else if old = 0 ∨ s.held p = true then
    let v := (s.stored 0x0010020).toNat - old * 4 ^ p + new * 4 ^ p
    ({ s with regs := tset s.regs 0x0010020 (BitVec.ofNat 64 v) } : State).setPort p { s.port p with ideSecure := false, farEnd := false }
  else s.setFlag 0x0010028 0

theorem State.writeClass_same {value : Reg} {p : Nat} (h : bits value.toNat (2 * p + 1) (2 * p) = s.portClass p) :
    s.writeClass value p = s := by
  unfold State.writeClass
  simp [h]

/-- The classes that one field's write leaves, where it names a new class. -/
theorem State.portClass_writeClass {value : Reg} {p : Nat} (hp : p < 12) (i : Nat) (hi : i ≠ p) :
    (s.writeClass value p).portClass i = s.portClass i := by
  unfold State.writeClass
  dsimp only
  have hn : bits value.toNat (2 * p + 1) (2 * p) < 4 := by rw [bits_pair]; omega
  split_ifs with h1 h2
  · rfl
  · exact (s.portClass_replace hp hn i).trans (if_neg hi)
  · exact State.portClass_congr ((s.stored_setFlag _ _ _).trans (if_neg (by decide))) i

/-- A write of MGMT_PORT_CLASS that names a new class for one port only is that field's write. -/
theorem mgmtPortClassWriteSt_one {mp : MgmtPort} {v : Reg} {port : Nat} (hs : setUp s mp) (hp : port < 12)
    (ho : ∀ i, i < 12 → i ≠ port → bits v.toNat (2 * i + 1) (2 * i) = s.portClass i) :
    mgmtPortClassWriteSt mp v s = s.writeClass v port := by
  unfold mgmtPortClassWriteSt
  rw [State.setup_of hs]
  refine foldl_one (f := State.writeClass v) List.nodup_range (List.mem_range.mpr hp) (fun i hi hne => ?_) (fun i hi hne => ?_)
  · exact s.writeClass_same (ho i (List.mem_range.mp hi) hne)
  · refine State.writeClass_same _ ?_
    rw [s.portClass_writeClass hp i hne]
    exact ho i (List.mem_range.mp hi) hne

theorem mgmtPortClassWrite_does {mp : MgmtPort} {v : Reg} {port : Nat} (hs : setUp s mp) (hp : port < 12)
    (ho : ∀ i, i < 12 → i ≠ port → bits v.toNat (2 * i + 1) (2 * i) = s.portClass i)
    (hn : bits v.toNat (2 * port + 1) (2 * port) ≠ s.portClass port) (h3 : bits v.toNat (2 * port + 1) (2 * port) ≠ 3)
    (hc : s.portClass port = 0 ∨ s.held port = true) :
    Does (.mgmtPortClassWrite mp v) s [.regs, .ports] (fun t => t.portClass port = bits v.toNat (2 * port + 1) (2 * port) ∧
      (∀ i, i ≠ port → t.portClass i = s.portClass i) ∧ t.port port = { s.port port with ideSecure := false, farEnd := false } ∧
      ∀ i, i ≠ port → t.port i = s.port i) := by
  refine Does.of_eq rfl (mgmtPortClassWriteSt_one s hs hp ho) ?_ ?_
  · unfold State.writeClass
    rw [if_neg (not_or.mpr ⟨hn, h3⟩), if_pos hc]
    exact ((s.regs_only _).mono rfl).trans ((State.setPort_only _ _ _).mono rfl)
  · refine ⟨?_, s.portClass_writeClass hp, ?_⟩ <;> unfold State.writeClass <;> rw [if_neg (not_or.mpr ⟨hn, h3⟩), if_pos hc]
    · exact (s.portClass_replace hp (by rw [bits_pair]; omega) port).trans (if_pos rfl)
    · exact ⟨(State.port_setPort _ _ _ _).trans (if_pos rfl), fun i hi => (State.port_setPort _ _ _ _).trans (if_neg hi)⟩

theorem mgmtPortClassWrite_refused {mp : MgmtPort} {v : Reg} {port : Nat} (hs : setUp s mp) (hp : port < 12)
    (ho : ∀ i, i < 12 → i ≠ port → bits v.toNat (2 * i + 1) (2 * i) = s.portClass i)
    (hn : bits v.toNat (2 * port + 1) (2 * port) ≠ s.portClass port) (h3 : bits v.toNat (2 * port + 1) (2 * port) ≠ 3)
    (hc : s.portClass port ≠ 0) (hh : s.held port = false) :
    Does (.mgmtPortClassWrite mp v) s [.out, .regs] (fun t => t.flag 0x0010028 0 = true ∧ ∀ i, t.portClass i = s.portClass i) := by
  have e : s.writeClass v port = s.setFlag 0x0010028 0 := by
    unfold State.writeClass
    rw [if_neg (not_or.mpr ⟨hn, h3⟩), if_neg (by simp [hc, hh])]
  refine Does.of_eq rfl ((mgmtPortClassWriteSt_one s hs hp ho).trans e) ?_ ?_
  · exact s.setFlag_only _ _
  · exact ⟨s.flag_setFlag_same _ (by decide),
      fun i => State.portClass_congr ((s.stored_setFlag _ _ _).trans (if_neg (by decide))) i⟩

/-! ### Training (R508, R32) -/

/-- The pairs of a port that pass training: good, and not recorded as failed (R638). -/
def State.trainable (s : State) (port : Nat) (good : List Nat) : List Nat :=
  (List.range 17).filter (fun i => good.contains i && !(s.badLanes port).contains i)

/-- The pairs of which an F-port takes sixteen: the spare only where both partners enable it. -/
def State.usableLanes (s : State) (port : Nat) (good : List Nat) (partner : Bool) : List Nat :=
  if s.spareEnabled port && partner then s.trainable port good else (s.trainable port good).filter (· != 16)

/-- A port trained at a width onto lanes, without its spare in use. -/
def State.trained (s : State) (port : Nat) (good : List Nat) (partner x128 : Bool) (width : Nat) (lanes : List Nat) : State :=
  s.setPort port { s.port port with
    up := true, width, rate := if x128 then 2 else 1, lanes, untrained := (List.range 17).filter (fun i => !good.contains i)
    spareUsed := false, spareOk := s.spareEnabled port && partner, farEnd := false }

/-- A port whose link is down and may come up: it is not held, and DEV_READY is high. -/
structure State.idlePort (s : State) (port : Nat) : Prop where
  lt    : port < 12
  held  : s.held port = false
  down  : (s.port port).up = false
  ready : s.power.devReady = true

theorem portLinkUpSt_stopped {port : Nat} (h : s.linksRun = false) (good : List Nat) (partner x128 : Bool) :
    portLinkUpSt port good partner x128 s = s := by
  unfold portLinkUpSt
  simp [h]

variable {s}

theorem State.idlePort.blocked {port : Nat} (h : s.idlePort port) (hl : s.linksRun = true) (hc : s.portClass port ≠ 0) :
    ¬ (12 ≤ port ∨ s.portClass port = 0 ∨ s.held port = true ∨ (s.port port).up = true ∨ s.power.devReady = false ∨
      s.linksRun = false) := by
  obtain ⟨lt, held, down, ready⟩ := h
  simp [hl, hc, held, down, ready, lt]

/-- An F-port takes sixteen usable pairs at 128 GT/s. -/
theorem portLinkUpSt_fport {port : Nat} (h : s.idlePort port) (hl : s.linksRun = true) (hc : s.portClass port = 2)
    {good : List Nat} {partner : Bool} (hn : 16 ≤ (s.usableLanes port good partner).length)
    (hs : ((s.usableLanes port good partner).take 16).contains 16 = false) :
    portLinkUpSt port good partner true s = s.trained port good partner true 2 ((s.usableLanes port good partner).take 16) := by
  have hlen : ¬ ((true : Bool) = false ∨ ((s.usableLanes port good partner).take 16).length < 16) := by
    simp only [List.length_take, Bool.true_eq_false, false_or]
    omega
  unfold State.usableLanes State.trainable at hs hlen
  unfold portLinkUpSt State.trained State.usableLanes State.trainable
  rw [if_neg (h.blocked hl (by omega)), if_pos hc, if_neg hlen]
  simp only [hs, Bool.false_eq_true, if_false, if_true]

/-- With fewer than sixteen usable pairs, or at a lower rate, an F-port stays down. -/
theorem portLinkUpSt_fport_down {port : Nat} (h : s.idlePort port) (hl : s.linksRun = true) (hc : s.portClass port = 2)
    {good : List Nat} {partner x128 : Bool} (hn : (s.usableLanes port good partner).length < 16 ∨ x128 = false) :
    portLinkUpSt port good partner x128 s = s := by
  have hlen : x128 = false ∨ ((s.usableLanes port good partner).take 16).length < 16 := by
    rw [List.length_take]
    exact hn.symm.imp_right (fun h => by omega)
  unfold portLinkUpSt
  rw [if_neg (h.blocked hl (by omega)), if_pos hc]
  exact if_pos hlen

/-- The lanes of an H-port that training leaves out. -/
def State.failedLanes (s : State) (port : Nat) (good : List Nat) : List Nat :=
  (List.range 16).filter (fun i => !(s.trainable port good).contains i)

/-- An H-port all of whose sixteen lanes train comes up at x16. -/
theorem portLinkUpSt_x16 {port : Nat} (h : s.idlePort port) (hl : s.linksRun = true) (hc : s.portClass port = 1)
    {good : List Nat} (partner x128 : Bool) (ha : (List.range 16).all (fun i => (s.trainable port good).contains i) = true) :
    portLinkUpSt port good partner x128 s = s.trained port good partner x128 2 (List.range 16) := by
  have hb : s.failedLanes port good = [] :=
    List.filter_eq_nil_iff.mpr (fun i hi => by simpa using List.all_eq_true.mp ha i hi)
  unfold portLinkUpSt
  rw [if_neg (h.blocked hl (by omega)), if_neg (by omega)]
  exact if_pos hb

/-- An H-port of which a lane of the upper half fails, and none of the lower, comes up at x8 on the lower half. -/
theorem portLinkUpSt_x8 {port : Nat} (h : s.idlePort port) (hl : s.linksRun = true) (hc : s.portClass port = 1)
    {good : List Nat} (partner x128 : Bool) (ha : (List.range 8).all (fun i => (s.trainable port good).contains i) = true)
    (h8 : (s.trainable port good).contains 8 = false) :
    portLinkUpSt port good partner x128 s = s.trained port good partner x128 1 (List.range 8) := by
  have hmem : 8 ∈ s.failedLanes port good := List.mem_filter.mpr ⟨by decide, by rw [h8]; rfl⟩
  have hhalf : goodHalf (s.failedLanes port good) = some (List.range 8) := by
    refine if_pos (List.all_eq_true.mpr (fun i hi => ?_))
    have hok := List.all_eq_true.mp ha i hi
    simp only [State.failedLanes, Bool.not_eq_true', List.contains_eq_mem, List.mem_filter, decide_eq_false_iff_not]
    simp only [List.contains_eq_mem, decide_eq_true_eq] at hok
    simp [hok]
  unfold portLinkUpSt
  rw [if_neg (h.blocked hl (by omega)), if_neg (by omega)]
  refine (if_neg (List.ne_nil_of_mem hmem)).trans ?_
  show (match goodHalf (s.failedLanes port good) with | some h => _ | none => s) = _
  rw [hhalf]
  rfl

theorem portLinkUp_trains {port width : Nat} {good lanes : List Nat} {partner x128 : Bool}
    (h : portLinkUpSt port good partner x128 s = s.trained port good partner x128 width lanes) :
    Does (.portLinkUp port good partner x128) s [.ports] (fun t => t.port port = (s.trained port good partner x128 width lanes).port port ∧
      ∀ i, i ≠ port → t.port i = s.port i) := by
  refine Does.of_eq rfl h ?_ ?_
  · exact s.setPort_only _ _
  · exact ⟨rfl, fun i hi => (s.port_setPort port i _).trans (if_neg hi)⟩

variable (s)

theorem State.trained_port (port : Nat) (good : List Nat) (partner x128 : Bool) (width : Nat) (lanes : List Nat) :
    (s.trained port good partner x128 width lanes).port port = { s.port port with
      up := true, width, rate := if x128 then 2 else 1, lanes, untrained := (List.range 17).filter (fun i => !good.contains i)
      spareUsed := false, spareOk := s.spareEnabled port && partner, farEnd := false } := (s.port_setPort _ _ _).trans (if_pos rfl)

end

end Sys2Proof.Machine
end

section
/-!
Ports, continued: lanes that fail in service, the bridge, IDE, loopbacks and configuration accesses; and O53 from the laws of its commands.
-/

namespace Sys2Proof.Machine

section
variable (s : State)

/-! ### Lanes that fail in service (R32, R509, R510) -/

theorem State.addBadLane_only (port pair : Nat) : Only [.health] s (s.addBadLane port pair) := by
  unfold State.addBadLane
  exact Only.ite (fun _ => Only.refl _ s) (fun _ => s.health_only _)

theorem State.mem_addBadLane (port pair : Nat) : (s.addBadLane port pair).health.lanes.contains (port, pair) = true := by
  unfold State.addBadLane
  split_ifs with h
  · exact h
  · simp

/-- The state in which a port's failed lane has been noted and recorded. -/
def State.laneNoted (s : State) (port pair : Nat) : State := (s.addBadLane port pair).logError 0 5 2 none port 0 0 0 pair

theorem State.laneNoted_only (port pair : Nat) : Only [.out, .regs, .counters, .errs, .health] s (s.laneNoted port pair) :=
  ((s.addBadLane_only _ _).mono rfl).trans ((State.logError_only _ _ _ _ _ _ _ _ _ _).mono rfl)

theorem State.laneNoted_port (port pair i : Nat) : (s.laneNoted port pair).port i = s.port i :=
  State.port_congr (s.laneNoted_only port pair .ports (by decide)) i

theorem State.laneNoted_health (port pair : Nat) : (s.laneNoted port pair).health = (s.addBadLane port pair).health :=
  (State.logError_only _ _ _ _ _ _ _ _ _ _ .health (by decide)).symm

/-- The lanes of a port that had none failed before. -/
theorem State.badLanes_laneNoted {port : Nat} (h : s.badLanes port = []) (pair : Nat) : (s.laneNoted port pair).badLanes port = [pair] := by
  have hf : s.health.lanes.filter (fun l => l.1 == port) = [] := List.map_eq_nil_iff.mp h
  have hn : s.health.lanes.contains (port, pair) = false := by
    rw [Bool.eq_false_iff]
    intro hm
    have := List.filter_eq_nil_iff.mp hf _ (List.contains_iff_mem.mp hm)
    simp at this
  unfold State.badLanes
  rw [State.laneNoted_health]
  unfold State.addBadLane
  rw [hn]
  simp [hf]

/-- The cause LANE of the replace-me conditions: a port uses its spare. -/
theorem State.svcCauses_lane : bit s.svcCauses 4 = s.ports.any (fun p => p.2.spareUsed) := by
  have one (b : Bool) : b2n b ≤ 1 := by cases b <;> decide
  have low (a b c d : Nat) (x : Bool) (ha : a ≤ 1) (hb : b ≤ 1) (hc : c ≤ 1) (hd : d ≤ 1) :
      bit (a + 2 * b + 4 * c + 8 * d + 16 * b2n x) 4 = x := by
    have hq : (a + 2 * b + 4 * c + 8 * d + 16 * b2n x) / 2 ^ 4 = b2n x := by omega
    unfold bit
    rw [hq]
    cases x <;> rfl
  exact low _ _ _ _ _ (one _) (one _) (one _) (one _)

/-- The spare takes the place of a failed pair. -/
def Port.useSpare (p : Port) (pair : Nat) : Port := { p with lanes := p.lanes.filter (· != pair) ++ [16], spareUsed := true }

variable {s}

theorem laneFail_spare {port pair : Nat} (hc : s.portClass port = 2) (hu : (s.port port).up = true)
    (hl : (s.port port).lanes.contains pair = true) (hs : (s.port port).spareUsed = false) (ho : (s.port port).spareOk = true) :
    Does (.laneFail port pair) s [.out, .regs, .counters, .ports, .errs, .health, .svcPrev] (fun t =>
      t.port port = (s.port port).useSpare pair ∧ (∀ i, i ≠ port → t.port i = s.port i) ∧ bit t.svcCauses 4 = true) := by
  let u := (s.laneNoted port pair).setPort port ((s.port port).useSpare pair)
  have e : laneFailSt port pair s = (u.logError 0 5 3 none port 0 0 0 pair).reviewSvc := by
    unfold laneFailSt
    dsimp only
    rw [if_neg (by rw [hc, hu, hl]; decide), if_neg (by simp [hs, ho])]
    rfl
  have hu' : Only [.out, .regs, .counters, .ports, .errs, .health, .svcPrev] s u :=
    ((s.laneNoted_only _ _).mono rfl).trans ((State.setPort_only _ _ _).mono rfl)
  have ht : Only [.out, .regs, .counters, .errs, .svcPrev] u (u.logError 0 5 3 none port 0 0 0 pair).reviewSvc :=
    ((u.logError_only _ _ _ _ _ _ _ _ _).mono rfl).trans ((State.reviewSvc_only _).mono rfl)
  have hports := ht .ports (by decide)
  refine Does.of_eq rfl e ?_ ?_
  · exact hu'.trans (ht.mono rfl)
  · refine ⟨?_, fun i hi => ?_, ?_⟩
    · exact (State.port_congr hports port).trans ((State.port_setPort _ _ _ _).trans (if_pos rfl))
    · exact (State.port_congr hports i).trans (((State.port_setPort _ _ _ _).trans (if_neg hi)).trans (s.laneNoted_port _ _ _))
    · rw [State.svcCauses_lane, ← hports]
      exact List.any_eq_true.mpr ⟨_, mem_tset _ _ _, rfl⟩

/-- A port that is down. -/
def Port.fallen (p : Port) : Port := { p with up := false, width := 0, rate := 0 }

/-- The shards whose answers went through ports that went down, as R511 gives. -/
def State.failShards (s : State) (ranks : List Nat) : State :=
  s.groups.foldl (fun s g =>
    (g.sentTo.filter (fun p => ranks.contains p.2 && !g.partials.any (fun q => q.shard == p.1))).foldl
      (fun s p => s.keepPartial g.w (Partial.failed p.1 0x50)) s) s

/-- Every group search taken as far as it can go. -/
def State.advanceGroups (s : State) : State := s.groups.foldl (fun s g => s.advanceGroup g.w) s

/-- An F-port that goes down: its state, the requests sent by it, the shards it led to, and what the group searches do next. -/
theorem State.fportDown_eq (s : State) (port : Nat) : ∃ ranks, s.fportDown port =
    (((s.setPort port (s.port port).fallen).loseRequests (fun r => r.port == port)).failShards ranks).advanceGroups := ⟨_, rfl⟩

theorem State.loseRequests_quiet {s : State} (h : s.fabric.requests = []) (lost : WlReq → Bool) : Only [.fabric] s (s.loseRequests lost) := by
  unfold State.loseRequests
  rw [h]
  exact (s.setRequests_only _).trans (State.fabric_only _ _)

/-- An F-port goes down with no request outstanding and no group search: nothing but the port, and the fabric's streams. -/
theorem State.fportDown_quiet {s : State} {port : Nat} (hg : s.groups = []) (hr : s.fabric.requests = []) :
    Only [.fabric] (s.setPort port (s.port port).fallen) (s.fportDown port) := by
  obtain ⟨ranks, e⟩ := s.fportDown_eq port
  rw [e]
  have hl := State.loseRequests_quiet (s := s.setPort port (s.port port).fallen) hr (fun r => r.port == port)
  generalize (s.setPort port (s.port port).fallen).loseRequests (fun r => r.port == port) = u at hl ⊢
  have hu : u.groups = [] := (hl .groups (by decide)).symm.trans hg
  unfold State.failShards
  rw [hu]
  unfold State.advanceGroups
  rw [List.foldl_nil, hu]
  exact hl

theorem laneFail_down {port pair : Nat} (hc : s.portClass port = 2) (hu : (s.port port).up = true)
    (hl : (s.port port).lanes.contains pair = true) (hg : s.groups = []) (hr : s.fabric.requests = [])
    (hs : (s.port port).spareUsed = true ∨ (s.port port).spareOk = false) :
    Does (.laneFail port pair) s [.out, .regs, .counters, .ports, .errs, .health, .fabric] (fun t =>
      (t.port port).up = false ∧ (t.port port).width = 0 ∧ (∀ i, i ≠ port → t.port i = s.port i) ∧
        t.health.lanes.contains (port, pair) = true) := by
  have e : laneFailSt port pair s = (s.laneNoted port pair).fportDown port := by
    have hd : ((s.port port).spareUsed || !(s.port port).spareOk) = true := by rcases hs with h | h <;> simp [h]
    unfold laneFailSt
    dsimp only
    rw [if_neg (by rw [hc, hu, hl]; decide), if_pos hd]
    rfl
  have hn := s.laneNoted_only port pair
  have hd := State.fportDown_quiet (port := port) ((hn .groups (by decide)).symm.trans hg)
    ((congrArg Fabric.requests (hn .fabric (by decide))).symm.trans hr)
  have hport := State.port_congr (hd .ports (by decide))
  refine Does.of_eq rfl e ?_ ?_
  · exact (hn.mono rfl).trans (((State.setPort_only _ _ _).mono rfl).trans (hd.mono rfl))
  · have hself := (hport port).trans ((State.port_setPort _ _ _ _).trans (if_pos rfl))
    refine ⟨by rw [hself]; rfl, by rw [hself]; rfl, fun i hi => ?_, ?_⟩
    · exact (hport i).trans (((State.port_setPort _ _ _ _).trans (if_neg hi)).trans (s.laneNoted_port _ _ _))
    · rw [← hd .health (by decide)]
      show (s.laneNoted port pair).health.lanes.contains (port, pair) = true
      rw [State.laneNoted_health]
      exact s.mem_addBadLane _ _

/-- The half that an H-port falls to holds no failed lane. -/
theorem goodHalf_avoids {bad half : List Nat} (h : goodHalf bad = some half) : ∀ i ∈ half, i ∉ bad := by
  intro i hi hb
  unfold goodHalf at h
  dsimp only at h
  split_ifs at h with h1 h2
  · cases h
    simpa [hb] using List.all_eq_true.mp h1 i hi
  · cases h
    simpa [hb] using List.all_eq_true.mp h2 i hi

/-- What a lane fault leaves of an H-port: x8 on a half without a failed lane, at the faster rate the partner accepts, or down. -/
def Port.afterFault (p : Port) (half : Option (List Nat)) (x128 x64 : Bool) : Port :=
  match half with
  | some h =>
    if x128 then { p with width := 1, rate := 2, lanes := h } else if x64 then { p with width := 1, rate := 1, lanes := h } else p.fallen
  | none => p.fallen

theorem hportLaneFault_does {port pair : Nat} (hc : s.portClass port = 1) (hu : (s.port port).up = true)
    (hl : (s.port port).lanes.contains pair = true) (hb : s.badLanes port = []) (x128 x64 : Bool) :
    Does (.hportLaneFault port pair x128 x64) s [.out, .regs, .counters, .ports, .errs, .health] (fun t =>
      t.port port = (s.port port).afterFault (goodHalf (pair :: (s.port port).untrained)) x128 x64 ∧
        ∀ i, i ≠ port → t.port i = s.port i) := by
  have e : hportLaneFaultSt port pair x128 x64 s = (s.laneNoted port pair).setPort port
      ((s.port port).afterFault (goodHalf (pair :: (s.port port).untrained)) x128 x64) := by
    have hbad : ((s.addBadLane port pair).logError 0 5 2 none port 0 0 0 pair).badLanes port = [pair] := s.badLanes_laneNoted hb pair
    unfold hportLaneFaultSt Port.afterFault
    dsimp only
    rw [if_neg (by rw [hc, hu, hl]; decide), hbad, List.singleton_append]
    cases goodHalf (pair :: (s.port port).untrained) with
    | none => rfl
    | some half =>
      dsimp only
      split_ifs <;> rfl
  refine Does.of_eq rfl e ?_ ?_
  · exact ((s.laneNoted_only _ _).mono rfl).trans ((State.setPort_only _ _ _).mono rfl)
  · exact ⟨(State.port_setPort _ _ _ _).trans (if_pos rfl),
      fun i hi => ((State.port_setPort _ _ _ _).trans (if_neg hi)).trans (s.laneNoted_port _ _ _)⟩

/-! ### The bridge (R27, R28) -/

theorem bridgeCrcFail_fatal {flit : Nat} (h : tgetD s.bridgeFails flit 0 = 3) :
    Does (.bridgeCrcFail flit) s [.out, .regs, .counters, .errs, .power, .bridgeFails] (fun t =>
      t.power.devReady = false ∧ t.power.fatal = true ∧ t.flag nmiOff 1 = true) := by
  have e : bridgeCrcFailSt flit s =
      (({ s with bridgeFails := tset s.bridgeFails flit 4 } : State).logError 3 6 2 none 0 0 0 0 flit).deviceFatal := by
    unfold bridgeCrcFailSt
    rw [h]
    rfl
  refine Does.of_eq rfl e ?_ ?_
  · exact ((s.bridgeFails_only _).mono rfl).trans (((State.logError_only _ _ _ _ _ _ _ _ _ _).mono rfl).trans
      ((State.deviceFatal_only _).mono rfl))
  · exact ⟨rfl, rfl, State.flag_raiseNmi _ (by decide)⟩

theorem bridgeCrcFail_counts {flit : Nat} (h : tgetD s.bridgeFails flit 0 < 3) :
    Does (.bridgeCrcFail flit) s [.out, .regs, .counters, .errs, .bridgeFails] (fun t =>
      tgetD t.bridgeFails flit 0 = tgetD s.bridgeFails flit 0 + 1) := by
  let u : State := { s with bridgeFails := tset s.bridgeFails flit (tgetD s.bridgeFails flit 0 + 1) }
  have e : bridgeCrcFailSt flit s = u.logError 0 6 1 none 0 0 0 0 flit := if_neg (by omega)
  have hu := u.logError_only 0 6 1 none 0 0 0 0 flit
  refine Does.of_eq rfl e ?_ ?_
  · exact ((s.bridgeFails_only _).mono rfl).trans (hu.mono rfl)
  · rw [← hu .bridgeFails (by decide)]
    exact tgetD_tset_same _ _ _ _

/-! ### IDE, loopbacks, configuration space (R124, R625, R626, R643) -/

theorem ideCheckFail_does {port : Nat} (hc : s.portClass port = 1) (hi : (s.port port).ideSecure = true) :
    Does (.ideCheckFail port) s [.out, .regs, .counters, .ports] (fun t =>
      t.port port = { s.port port with ideSecure := false } ∧ (∀ i, i ≠ port → t.port i = s.port i) ∧
        counted s t (portBase port + 0x38) ∧ t.flag (portBase port + 0x20) 10 = true) := by
  let b := s.bump (portBase port + 0x38) 1
  let u := b.setPort port { s.port port with ideSecure := false }
  have e : ideCheckFailSt port s = u.setFlag (portBase port + 0x20) 10 := if_pos ⟨hc, hi⟩
  have ht := u.setFlag_only (portBase port + 0x20) 10
  have hport := State.port_congr (ht .ports (by decide))
  refine Does.of_eq rfl e ?_ ?_
  · exact ((s.bump_only _ _).mono rfl).trans (((b.setPort_only _ _).mono rfl).trans (ht.mono rfl))
  · refine ⟨?_, fun i hne => ?_, ?_, u.flag_setFlag_same _ (by decide)⟩
    · exact (hport port).trans ((State.port_setPort _ _ _ _).trans (if_pos rfl))
    · exact (hport i).trans ((State.port_setPort _ _ _ _).trans (if_neg hne))
    · exact counted_congr (t := u) (tgetD_tset_same _ _ _ _) (ht .counters (by decide))

theorem ideKeyProg_does {port : Nat} (h : hostPort s port) :
    Does (.ideKeyProg port) s [.ports] (fun t => t.port port = { s.port port with ideSecure := true } ∧
      ∀ i, i ≠ port → t.port i = s.port i) := by
  have e : ideKeyProgSt port s = s.setPort port { s.port port with ideSecure := true } := State.arrive_of h.1 h.2 _
  refine Does.of_eq rfl e ?_ ?_
  · exact s.setPort_only _ _
  · exact ⟨(s.port_setPort _ _ _).trans (if_pos rfl), fun i hi => (s.port_setPort _ _ _).trans (if_neg hi)⟩

theorem loopbackRequestRemote_does {port : Nat} (hp : port < 12) (hh : s.held port = false) (hc : s.portClass port ≠ 0)
    (ha : s.flag (portBase port + 8) 0 = true) :
    Does (.loopbackRequestRemote port) s [.ports] (fun t => t.port port = { s.port port with farEnd := true } ∧
      ∀ i, i ≠ port → t.port i = s.port i) := by
  have e : loopbackRequestRemoteSt port s = s.setPort port { s.port port with farEnd := true } := if_pos ⟨hp, ha, hh, hc⟩
  refine Does.of_eq rfl e ?_ ?_
  · exact s.setPort_only _ _
  · exact ⟨(s.port_setPort _ _ _).trans (if_pos rfl), fun i hi => (s.port_setPort _ _ _).trans (if_neg hi)⟩

theorem loopbackRequestRemote_ignored {port : Nat} (ha : s.flag (portBase port + 8) 0 = false) :
    Does (.loopbackRequestRemote port) s [] (fun _ => True) :=
  Does.nothing rfl (if_neg (by simp [ha]))

/-- The bit that would advertise CXL.cache reads 0 (R2). -/
theorem configRead_cache (port : Nat) : bit (configRead port Config.cacheCapable.1) Config.cacheCapable.2 = false := by
  generalize hb : Config.cacheCapable.2 = b
  unfold configRead
  rw [hb]
  generalize Config.configSpace port Config.cacheCapable.1 % 2 ^ 32 = v
  dsimp only
  split_ifs with h
  · have h1 : v / 2 ^ b % 2 = 1 := by simpa [bit] using h.2
    have hq : (v - 2 ^ b) / 2 ^ b = v / 2 ^ b - 1 := by
      simpa using Nat.sub_mul_div v (2 ^ b) 1
    unfold bit
    rw [hq]
    simp only [beq_eq_false_iff_ne]
    omega
  · simpa using h

theorem configAccess_does {port : Nat} (h : hostPort s port) (off : Nat) (wr : Option Nat) :
    Does (.configAccess port off wr) s [.out] (fun t => t.out =
      s.out ++ [Output.reply (.port port) 0 (match wr with | some _ => [] | none => toLe 4 (configRead port off))]) := by
  have e : configAccessSt port off wr s = s.emit (.reply (.port port) 0 (match wr with | some _ => [] | none => toLe 4 (configRead port off))) :=
    State.arrive_of h.1 h.2 _
  refine Does.of_eq rfl e ?_ ?_
  · exact s.emit_only _
  · rw [State.emit_free _ rfl]

end

/-- Settles O53: each clause is the law of its command. -/
theorem portsTrainAndLoseLanes : Obligations.PortsTrainAndLoseLanes := by
  unfold Obligations.PortsTrainAndLoseLanes
  intro mp port pair flit off v good partner x128 x64 wr s
  dsimp only
  refine ⟨?_, ?_, ?_, ?_, ?_, bridgeCrcFail_fatal, bridgeCrcFail_counts, ideCheckFail_does, ideKeyProg_does, ?_, ?_⟩
  · intro hs hp ho hn h3
    exact ⟨mgmtPortClassWrite_does s hs hp ho hn h3, mgmtPortClassWrite_refused s hs hp ho hn h3⟩
  · intro _ _ _ _ hl
    exact Does.nothing rfl (portLinkUpSt_stopped s hl good partner x128)
  · intro hp hh hd hr hl
    have h : s.idlePort port := ⟨hp, hh, hd, hr⟩
    refine ⟨fun hc hx hn h16 => ?_, fun hc hn => ?_, fun hc ha => ?_, fun hc ha h8 => ?_⟩
    · subst hx
      obtain ⟨t, he, ho, hself, hothers⟩ := portLinkUp_trains (portLinkUpSt_fport h hl hc hn h16)
      exact ⟨t, he, ho, hself.trans (State.trained_port _ _ _ _ _ _ _), hothers⟩
    · exact Does.nothing rfl (portLinkUpSt_fport_down h hl hc hn)
    · obtain ⟨t, he, ho, hself, hothers⟩ := portLinkUp_trains (portLinkUpSt_x16 h hl hc partner x128 ha)
      rw [State.trained_port] at hself
      exact ⟨t, he, ho, by rw [hself], by rw [hself], by rw [hself], hothers⟩
    · obtain ⟨t, he, ho, hself, hothers⟩ := portLinkUp_trains (portLinkUpSt_x8 h hl hc partner x128 ha h8)
      rw [State.trained_port] at hself
      exact ⟨t, he, ho, by rw [hself], by rw [hself], by rw [hself], hothers⟩
  · intro hc hu hl hg hr
    exact ⟨laneFail_spare hc hu hl, laneFail_down hc hu hl hg hr⟩
  · intro hc hu hl hb
    have fault (a b : Bool) := hportLaneFault_does hc hu hl hb a b
    refine ⟨fun hn => ?_, fun half hh => ⟨fun i hi => ?_, fun h1 => ?_, fun h1 h2 => ?_, fun h1 h2 => ?_⟩⟩
    · obtain ⟨t, he, ho, hself, hothers⟩ := fault x128 x64
      rw [hn] at hself
      exact ⟨t, he, ho, by rw [hself]; rfl, by rw [hself]; rfl, hothers⟩
    · simpa using goodHalf_avoids hh i hi
    · obtain ⟨t, he, ho, hself, hothers⟩ := fault x128 x64
      exact ⟨t, he, ho, by rw [hself, hh, h1]; rfl, hothers⟩
    · obtain ⟨t, he, ho, hself, hothers⟩ := fault x128 x64
      exact ⟨t, he, ho, by rw [hself, hh, h1, h2]; rfl, hothers⟩
    · obtain ⟨t, he, ho, hself, hothers⟩ := fault x128 x64
      exact ⟨t, he, ho, by rw [hself, hh, h1, h2]; rfl, hothers⟩
  · intro hp hh hc
    exact ⟨loopbackRequestRemote_does hp hh hc, loopbackRequestRemote_ignored⟩
  · intro h _
    exact ⟨configAccess_does h off wr, configRead_cache port⟩

end Sys2Proof.Machine
end

section
/-!
SUPPORT. What requests at a home den, the accesses of works and the group searches leave as it was: the parts they touch, and the only
registers they write, which are status registers.
-/

namespace Sys2Proof.Machine

/-! ### Frames with the registers that may change -/

/-- From `s` to `t` nothing changes but the parts named, and of the registers only those named. -/
structure Keeps (ps : List Part) (ks : List Nat) (s t : State) : Prop where
  only : Only ps s t
  regs : ∀ k, k ∉ ks → t.stored k = s.stored k

section
variable {ps qs : List Part} {ks ls : List Nat} {s t u : State}

theorem Keeps.refl (s : State) : Keeps ps ks s s := ⟨Only.refl ps s, fun _ _ => rfl⟩

theorem Keeps.trans (h : Keeps ps ks s t) (k : Keeps ps ks t u) : Keeps ps ks s u :=
  ⟨h.only.trans k.only, fun i hi => (k.regs i hi).trans (h.regs i hi)⟩

/-- What leaves the registers keeps all of them. -/
theorem Keeps.of_only (h : Only qs s t) (hq : qs.all (fun p => ps.contains p && p != .regs) = true) : Keeps ps ks s t := by
  have hin : qs.all ps.contains = true :=
    List.all_eq_true.mpr (fun p hp => ((Bool.and_eq_true _ _).mp (List.all_eq_true.mp hq p hp)).1)
  have hregs : Part.regs ∉ qs := fun hm => by simpa using List.all_eq_true.mp hq _ hm
  exact ⟨h.mono hin, fun k _ => State.stored_congr (h .regs hregs) k⟩

theorem Keeps.mono (h : Keeps ps ks s t) (hp : ps.all qs.contains = true) (hk : ks.all ls.contains = true) : Keeps qs ls s t :=
  ⟨h.only.mono hp, fun k hn => h.regs k (fun hm => hn (List.contains_iff_mem.mp (List.all_eq_true.mp hk k hm)))⟩

theorem Keeps.ite {c : Prop} [Decidable c] (h : c → Keeps ps ks s t) (k : ¬ c → Keeps ps ks s u) :
    Keeps ps ks s (if c then t else u) := by
  split
  · exact h ‹_›
  · exact k ‹_›

theorem Keeps.foldl {α : Type} {f : State → α → State} (h : ∀ s x, Keeps ps ks s (f s x)) (l : List α) (s : State) :
    Keeps ps ks s (l.foldl f s) := by
  induction l generalizing s with
  | nil => exact Keeps.refl s
  | cons x t ih => exact (h s x).trans (ih (f s x))

/-- A flag that hardware sets. -/
theorem State.setFlag_keeps (s : State) {o : Nat} (i : Nat) (hp : [.out, .regs].all ps.contains = true) (hk : ks.contains o = true) :
    Keeps ps ks s (s.setFlag o i) :=
  ⟨(s.setFlag_only o i).mono hp, fun k hn =>
    (s.stored_setFlag o i k).trans (if_neg (fun h => hn (by rw [h]; exact List.contains_iff_mem.mp hk)))⟩

end

/-! ### Plain updates -/

section
variable (s : State)

theorem State.dir_only (x : Tab DirEntry) : Only [.dir] s { s with dir := x } := by
  intro p hp; cases p
  case dir => simp at hp
  all_goals rfl

theorem State.ddrUnder_only (x : Tab Bytes) : Only [.ddrUnder] s { s with ddrUnder := x } := by
  intro p hp; cases p
  case ddrUnder => simp at hp
  all_goals rfl

theorem State.denCache_only (x : List (Nat × Bool)) : Only [.denCache] s { s with denCache := x } := by
  intro p hp; cases p
  case denCache => simp at hp
  all_goals rfl

theorem State.hbmCache_only (x : List Nat) : Only [.hbmCache] s { s with hbmCache := x } := by
  intro p hp; cases p
  case hbmCache => simp at hp
  all_goals rfl

theorem State.recalls_only (x : List Recall) : Only [.recalls] s { s with recalls := x } := by
  intro p hp; cases p
  case recalls => simp at hp
  all_goals rfl

theorem State.waiting_only (x : List LineReq) : Only [.waiting] s { s with waiting := x } := by
  intro p hp; cases p
  case waiting => simp at hp
  all_goals rfl

theorem State.recalled_only (x : List (Nat × Nat)) : Only [.recalled] s { s with recalled := x } := by
  intro p hp; cases p
  case recalled => simp at hp
  all_goals rfl

theorem State.fencing_only (x : List (Nat × Nat)) : Only [.fencing] s { s with fencing := x } := by
  intro p hp; cases p
  case fencing => simp at hp
  all_goals rfl

theorem State.groups_only (x : List GroupSearch) : Only [.groups] s { s with groups := x } := by
  intro p hp; cases p
  case groups => simp at hp
  all_goals rfl

theorem State.runs_only (x : List Run) : Only [.runs] s { s with runs := x } := by
  intro p hp; cases p
  case runs => simp at hp
  all_goals rfl

theorem State.xltWaits_only (x : List XltWait) : Only [.xltWaits] s { s with xltWaits := x } := by
  intro p hp; cases p
  case xltWaits => simp at hp
  all_goals rfl

end

/-! ### Requests at a home den -/

/-- The registers that requests at a home den and accesses of works write: ERR_STATUS. -/
def homeRegs : List Nat := [0x0A20010]

section
variable (s : State)

/-- An error record, with its flags in ERR_STATUS. -/
theorem State.logError_keeps (cls source code : Nat) (ten : Option Nat) (unit addr kind id info : Nat) :
    Keeps homeParts homeRegs s (s.logError cls source code ten unit addr kind id info) := by
  have h (u : State) (e : ErrLog) : Keeps homeParts homeRegs u { u with errs := e } := .of_only (u.errs_only e) rfl
  have hf (u : State) (i : Nat) : Keeps homeParts homeRegs u (u.setFlag 0x0A20010 i) := u.setFlag_keeps i rfl rfl
  have h0 : Keeps homeParts homeRegs s (if cls = 0 then s.countCorrected source unit else s) :=
    Keeps.ite (fun _ => .of_only (s.countCorrected_only _ _) rfl) (fun _ => .refl s)
  unfold State.logError
  refine h0.trans ?_
  generalize (if cls = 0 then s.countCorrected source unit else s) = u
  dsimp only
  split
  · exact h u _
  · refine Keeps.ite (fun _ => (h u _).trans (hf _ _)) (fun _ => Keeps.ite (fun _ => .of_only (u.bump_only _ _) rfl) (fun _ => ?_))
    split
    · exact (h u _).trans (hf _ _)
    · exact hf u _

theorem State.setEntry_only (line : Nat) (e : DirEntry) : Only [.dir] s (s.setEntry line e) := by
  unfold State.setEntry
  split
  · exact Only.ite (fun _ => s.dir_only _) (fun _ => s.dir_only _)
  · refine Only.ite (fun _ => Only.refl _ s) (fun _ => ?_)
    split
    · exact s.dir_only _
    · exact Only.refl _ s

theorem State.keepUnder_only (line : Nat) : Only [.ddrUnder] s (s.keepUnder line) := by
  unfold State.keepUnder
  exact Only.ite (fun _ => Only.refl _ s) (fun _ => s.ddrUnder_only _)

theorem State.useHbmc_only (line : Nat) : Only [.hbmCache] s (s.useHbmc line) := by
  unfold State.useHbmc
  dsimp only
  split
  · exact Only.refl _ s
  · exact s.hbmCache_only _

theorem State.touchLine_only (line : Nat) (dirty : Bool) : Only [.denCache, .hbmCache] s (s.touchLine line dirty) := by
  unfold State.touchLine
  dsimp only
  exact Only.ite (fun _ => (s.denCache_only _).mono rfl)
    (fun _ => ((s.denCache_only _).mono rfl).trans ((State.useHbmc_only _ _).mono rfl))

theorem State.answer_only (q : LineReq) : Only [.out] s (s.answer q) := by
  unfold State.answer
  exact Only.ite (fun _ => Only.ite (fun _ => s.emit_only _) (fun _ => s.emit_only _)) (fun _ => s.emit_only _)

theorem State.applyWrite_only (q : LineReq) : Only [.memory, .poison, .fill, .firstTouch] s (s.applyWrite q) := by
  unfold State.applyWrite
  exact Only.ite (fun _ => s.writeLine_only _ _) (fun _ => s.writeLine_only _ _)

theorem State.complete_only (q : LineReq) (e : DirEntry) (kept : Bool) :
    Only [.out, .memory, .poison, .fill, .firstTouch, .dir, .denCache, .ddrUnder, .hbmCache] s (s.complete q e kept) := by
  unfold State.complete
  have hw : Only [.out, .memory, .poison, .fill, .firstTouch, .dir, .denCache, .ddrUnder, .hbmCache] s
      (if q.cls = .wrI ∨ q.cls = .wrS ∨ q.cls = .devWr then (s.keepUnder q.line).applyWrite q else s) :=
    Only.ite (fun _ => ((s.keepUnder_only _).mono rfl).trans ((State.applyWrite_only _ _).mono rfl)) (fun _ => Only.refl _ s)
  refine hw.trans ?_
  generalize (if q.cls = .wrI ∨ q.cls = .wrS ∨ q.cls = .devWr then (s.keepUnder q.line).applyWrite q else s) = u
  have ht := ((u.setEntry_only q.line (u.nextEntry q e kept)).mono (qs := [.out, .memory, .poison, .fill, .firstTouch, .dir, .denCache,
    .ddrUnder, .hbmCache]) rfl).trans ((State.touchLine_only _ q.line (!q.cls.reads && q.cls != .evict)).mono rfl)
  dsimp only
  split
  · exact ht
  · exact ht
  · exact ht.trans ((State.answer_only _ _).mono rfl)

theorem State.startRecall_only (line : Nat) (e : DirEntry) (hosts : List Nat) (kind : Nat) (q : Option LineReq)
    (device : Option (ReqClass × Nat)) (victim : Bool) :
    Only [.out, .dir, .recalls] s (s.startRecall line e hosts kind q device victim) := by
  unfold State.startRecall
  exact (((s.setEntry_only _ _).mono rfl).trans ((State.recalls_only _ _).mono rfl)).trans
    (Only.foldl (fun u h => (u.emit_only _).mono rfl) _ _)

theorem State.serveDir_keeps (q : LineReq) : Keeps homeParts homeRegs s (s.serveDir q) := by
  have start (u : State) (line : Nat) (e : DirEntry) (hosts : List Nat) (kind : Nat) (r : Option LineReq)
      (device : Option (ReqClass × Nat)) (victim : Bool) : Keeps homeParts homeRegs u (u.startRecall line e hosts kind r device victim) :=
    .of_only (u.startRecall_only line e hosts kind r device victim) rfl
  have wait (u : State) : Keeps homeParts homeRegs u { u with waiting := u.waiting ++ [q] } := .of_only (u.waiting_only _) rfl
  unfold State.serveDir
  dsimp only
  split
  · refine Keeps.ite (fun _ => ?_) (fun _ => wait s)
    split
    · exact start ..
    · exact start ..
  · split
    · exact .of_only (s.recalled_only _) rfl
    · refine Keeps.ite (fun _ => ?_) (fun _ => .of_only (s.complete_only _ _ _) rfl)
      split
      · exact Keeps.ite (fun _ => ((start ..).trans (.of_only (State.waiting_only _ _) rfl)).trans (.of_only (State.bump_only _ _ _) rfl))
          (fun _ => wait s)
      · exact wait s

theorem State.takeTurn_only (line : Nat) : Only [.recalled] s (s.takeTurn line) := s.recalled_only _

/-- A request at a home den, up to the recalls that its turn lets end. -/
theorem State.serve_keeps (q : LineReq) : Keeps homeParts homeRegs s (s.serve q) := by
  have wait (u : State) : Keeps homeParts homeRegs u { u with waiting := u.waiting ++ [q] } := .of_only (u.waiting_only _) rfl
  have page (u : State) (ext : Nat) (x : Extent) : Keeps homeParts homeRegs u ((u.setExtent ext x).serveDir q) :=
    (Keeps.of_only (u.setExtent_only _ _) rfl).trans (State.serveDir_keeps _ q)
  unfold State.serve
  dsimp only
  refine Keeps.ite (fun _ => wait s) (fun _ => ?_)
  have turn : Keeps homeParts homeRegs s
      (((s.lineUnits q).foldl (fun u m => u.claim m (s.extent (lineExt q.line)).tenancy) s).takeTurn q.line) :=
    (Keeps.foldl (fun u m => .of_only (u.claim_only _ _) rfl) _ s).trans (.of_only (State.takeTurn_only _ _) rfl)
  refine turn.trans ?_
  generalize ((s.lineUnits q).foldl (fun u m => u.claim m (s.extent (lineExt q.line)).tenancy) s).takeTurn q.line = u
  refine Keeps.ite (fun _ => u.serveDir_keeps q) (fun _ => Keeps.ite (fun _ => page ..) (fun _ => ?_))
  split
  · exact Keeps.ite (fun _ => wait u) (fun _ => page ..)
  · refine Keeps.ite (fun _ => Keeps.trans ?_ (State.logError_keeps _ _ _ _ _ _ _ _ _ _)) (fun _ => wait u)
    split
    · exact .of_only (u.recalled_only _) rfl
    · exact .of_only (u.emit_only _) rfl

theorem State.serveWaiting_keeps : Keeps homeParts homeRegs s s.serveWaiting :=
  (Keeps.of_only (s.waiting_only []) rfl).trans (Keeps.foldl (fun u q => u.serve_keeps q) _ _)

theorem State.endRecall_only (r : Recall) :
    Only [.out, .memory, .poison, .fill, .firstTouch, .dir, .recalls, .recalled, .denCache, .ddrUnder, .hbmCache] s (s.endRecall r) := by
  unfold State.endRecall
  dsimp only
  refine ((s.recalls_only (s.recalls.filter (fun x => x.line != r.line))).mono rfl).trans ?_
  generalize ({ s with recalls := s.recalls.filter (fun x => x.line != r.line) } : State) = u
  split
  · exact (u.complete_only _ _ _).mono rfl
  · exact ((u.setEntry_only _ _).mono rfl).trans ((State.recalled_only _ _).mono rfl)
  · exact (u.setEntry_only _ _).mono rfl

theorem State.fenceLine_only (f : Nat × Nat) : Only [.out, .dir, .recalls, .fencing] s (s.fenceLine f) := by
  unfold State.fenceLine
  exact Only.ite (fun _ => Only.refl _ s) (fun _ => Only.ite (fun _ => (s.fencing_only _).mono rfl)
    (fun _ => Only.ite (fun _ => ((s.fencing_only _).mono rfl).trans ((State.startRecall_only _ _ _ _ _ _ _ _).mono rfl))
      (fun _ => Only.refl _ s)))

theorem State.fenceWalk_only : Only [.out, .dir, .recalls, .fencing] s s.fenceWalk := Only.foldl (fun u f => u.fenceLine_only f) _ s

theorem State.settleN_keeps (fuel : Nat) : Keeps homeParts homeRegs s (s.settleN fuel) := by
  induction fuel generalizing s with
  | zero => exact .refl s
  | succ n ih =>
    unfold State.settleN
    exact Keeps.ite (fun _ => .refl s) (fun _ =>
      (((Keeps.foldl (fun u r => .of_only (u.endRecall_only r) rfl) _ s).trans (State.serveWaiting_keeps _)).trans
        (.of_only (State.fenceWalk_only _) rfl)).trans (ih _))

/-- Recalls that end, and what follows. -/
theorem State.settle_keeps : Keeps homeParts homeRegs s s.settle :=
  (Keeps.of_only s.fenceWalk_only rfl).trans (State.settleN_keeps _ _)

theorem State.resume_keeps : Keeps homeParts homeRegs s s.resume := s.serveWaiting_keeps.trans (State.settle_keeps _)

/-- A request at a home den, with what follows it. -/
theorem State.homeReq_keeps (q : LineReq) : Keeps homeParts homeRegs s (s.homeReq q) := (s.serve_keeps q).trans (State.settle_keeps _)

theorem State.devTouch_only (cls : ReqClass) (line : Nat) : Only [.denCache, .ddrUnder, .hbmCache] s (s.devTouch cls line) := by
  unfold State.devTouch
  exact (Only.ite (fun _ => (s.keepUnder_only _).mono rfl) (fun _ => Only.refl _ s)).trans ((State.touchLine_only _ _ _).mono rfl)

/-- What a device access to a line leaves. -/
def DevLine.state : DevLine → State
  | .ready s => s
  | .blocked s => s

theorem State.devLine_keeps (cls : ReqClass) (w line : Nat) : Keeps homeParts homeRegs s (s.devLine cls w line).state := by
  have touch (u : State) : Keeps homeParts homeRegs u (u.devTouch cls line) := .of_only (u.devTouch_only _ _) rfl
  have turn : Keeps homeParts homeRegs s (s.serve (ownReq cls w line)).settle := s.homeReq_keeps _
  unfold State.devLine
  dsimp only
  split_ifs
  · exact touch s
  · exact .refl s
  · exact turn.trans (touch _)
  · exact turn

theorem State.useRecalled_keeps (w : Nat) : Keeps homeParts homeRegs s (s.useRecalled w) := by
  have marks : Keeps homeParts homeRegs s
      { s with recalled := s.recalled.filter (fun r => r.1 != w), waiting := s.waiting.filter (fun q => q.own != some w) } :=
    (Keeps.of_only (s.recalled_only (s.recalled.filter (fun r => r.1 != w))) rfl).trans (.of_only (State.waiting_only _ _) rfl)
  unfold State.useRecalled
  exact Keeps.ite (fun _ => marks.trans (State.resume_keeps _)) (fun _ => marks)

/-! ### Accesses of works -/

theorem State.locate_only (t root a n : Nat) (write : Bool) : Only [.atc] s (s.locate t root a n write).2 := by
  unfold State.locate
  split
  · exact Only.refl _ s
  · split
    · exact Only.refl _ s
    · dsimp only
      split
      · exact s.atcUse_only _
      · split
        · exact Only.refl _ s
        · split
          · exact Only.refl _ s
          · exact s.atcUse_only _

theorem State.requestPage_only (x : Work) (who : Option (Nat × Nat)) (page addr : Nat) (write : Bool) :
    Only [.out, .xltWaits] s (s.requestPage x who page addr write) := by
  unfold State.requestPage
  exact Only.ite (fun _ => Only.refl _ s) (fun _ => Only.ite (fun _ => (s.xltWaits_only _).mono rfl)
    (fun _ => ((s.xltWaits_only _).mono rfl).trans ((State.emit_only _ _).mono rfl)))

theorem State.endAccess_only (x : Work) (who : Option (Nat × Nat)) (status : Nat) :
    Only [.works, .waits, .runs] s (s.endAccess x who status) := by
  unfold State.endAccess
  exact Only.ite (fun _ => (s.finish_only _ _).mono rfl) (fun _ => (s.runs_only _).mono rfl)

theorem State.gatePiece_keeps (x : Work) (who : Option (Nat × Nat)) (write : Bool) (p : Nat × Nat) :
    Keeps waitParts homeRegs s (s.gatePiece x who write p).state := by
  have hl := s.locate_only x.tenancy x.xltRoot p.1 p.2 write
  have pass (u : State) (ms : List Nat) : Keeps waitParts homeRegs u (u.passUnit x.id (accessCell who) x.tenancy ms).state :=
    .of_only (u.passUnit_only x.id (accessCell who) x.tenancy ms) rfl
  unfold State.gatePiece
  split
  · rename_i c l u hu
    rw [hu] at hl
    exact (Keeps.of_only hl rfl).trans (.of_only (u.raiseFault_only _ _ _ _ _ _ _) rfl)
  · rename_i u hu
    rw [hu] at hl
    exact (Keeps.of_only hl rfl).trans (.of_only (u.endAccess_only _ _ _) rfl)
  · rename_i a u hu
    rw [hu] at hl
    refine (Keeps.of_only hl rfl).trans ?_
    have hp := pass u (u.unitsOf a)
    split
    · rename_i v hv
      rwa [hv] at hp
    · rename_i v hv
      rw [hv] at hp
      refine hp.trans ?_
      have hd := (v.devLine_keeps (if write then .devWr else .devRd) x.id (a % 2 ^ 48 / 64)).mono (qs := waitParts) (ls := homeRegs) rfl rfl
      split
      · split
        · rename_i z hz
          rwa [hz] at hd
        · rename_i z hz
          rwa [hz] at hd
      · exact .refl v
  · rename_i a u hu
    rw [hu] at hl
    refine (Keeps.of_only hl rfl).trans ?_
    split
    · rename_i w _ _ _
      have hp := pass u [denMap (u.window w).homeDen]
      split
      · rename_i v hv
        rwa [hv] at hp
      · rename_i v hv
        rw [hv] at hp
        refine hp.trans ?_
        split
        · exact .of_only (v.endAccess_only _ _ _) rfl
        · split
          · exact .refl v
          · split
            · exact .refl v
            · split
              · exact .refl v
              · exact .of_only (v.sendWindow_only _ _ _ _ _ _ _) rfl
    · exact .refl u

theorem State.gatePieces_keeps (x : Work) (who : Option (Nat × Nat)) (l : List (Bool × Nat × Nat)) :
    Keeps waitParts homeRegs s (s.gatePieces x who l).state := by
  induction l generalizing s with
  | nil => exact .refl s
  | cons e t ih =>
    obtain ⟨wr, p⟩ := e
    have hp := s.gatePiece_keeps x who wr p
    unfold State.gatePieces
    split
    · rename_i u hu
      rw [hu] at hp
      exact hp.trans (ih u)
    · rename_i u hu
      rwa [hu] at hp

/-- Accesses of a work or of a cell of its run, let through or held. -/
theorem State.gateBy_keeps (x : Work) (who : Option (Nat × Nat)) (accs : List (Nat × Nat × Bool)) :
    Keeps waitParts homeRegs s (s.gateBy x who accs).state := by
  unfold State.gateBy
  dsimp only
  split_ifs
  · exact .refl s
  · exact Keeps.foldl (fun u p => .of_only (u.requestPage_only _ _ _ _ _) rfl) _ s
  · exact s.gatePieces_keeps _ _ _

theorem State.gate_keeps (x : Work) (accs : List (Nat × Nat × Bool)) : Keeps waitParts homeRegs s (s.gate x accs).state :=
  s.gateBy_keeps x none accs

theorem State.writeBy_only (x : Work) (who : Option (Nat × Nat)) (a : Nat) (b : Bytes) :
    Only [.out, .works, .waits, .memory, .poison, .fill, .firstTouch, .runs, .fabric] s (s.writeBy x who a b) := by
  unfold State.writeBy
  refine Only.ite (fun _ => Only.refl _ s) (fun _ => Only.ite (fun _ => (s.emit_only _).mono rfl) (fun _ => ?_))
  refine Only.foldl (fun u p => ?_) _ s
  dsimp only
  split
  · exact (u.put_only _ _).mono rfl
  · exact (u.sendWindow_only _ _ _ _ _ _ _).mono rfl
  · exact Only.refl _ u

theorem State.writeAt_only (x : Work) (a : Nat) (b : Bytes) :
    Only [.out, .works, .waits, .memory, .poison, .fill, .firstTouch, .runs, .fabric] s (s.writeAt x a b) := s.writeBy_only x none a b

theorem State.usedBy_keeps (w : Nat) (who : Option (Nat × Nat)) : Keeps waitParts homeRegs s (s.usedBy w who) := by
  unfold State.usedBy
  dsimp only
  have h : Keeps waitParts homeRegs s ((s.useRecalled w).leaveUnits w (accessCell who)) :=
    ((s.useRecalled_keeps w).mono rfl rfl).trans (.of_only (State.leaveUnits_only _ _ _) rfl)
  refine h.trans ?_
  generalize (s.useRecalled w).leaveUnits w (accessCell who) = u
  exact (Keeps.of_only (u.xltWaits_only (u.xltWaits.filter (fun v => !(v.w == w && v.granted)))) rfl).trans (.of_only (State.fabric_only _ _) rfl)

/-- An act of a work behind its accesses changes what it changes by itself, and what the accesses do. -/
theorem State.withAccess_keeps {ps : List Part} {ks : List Nat} (hp : waitParts.all ps.contains = true)
    (hk : homeRegs.all ks.contains = true) {f : State → State} (h : ∀ u, Keeps ps ks u (f u)) (x : Work)
    (accs : List (Nat × Nat × Bool)) : Keeps ps ks s (s.withAccess x accs f) := by
  have hg := (s.gate_keeps x accs).mono hp hk
  unfold State.withAccess
  split
  · rename_i u hu
    rwa [hu] at hg
  · rename_i u hu
    rw [hu] at hg
    exact (hg.trans (h u)).trans ((State.usedBy_keeps _ _ _).mono hp hk)

/-! ### Requests in phases and group searches -/

/-- What a group search touches when it goes on, besides its accesses. -/
def groupParts : List Part := .groups :: waitParts

/-- The registers that a group search writes when it goes on: ERR_STATUS and MBR_STATUS. -/
def groupRegs : List Nat := [0x0A20010, mbrStatus]

theorem State.endRequest_only (kind w : Nat) : Only [.fabric] s (s.endRequest kind w) := s.fabric_only _

theorem State.sendCopy_only (o : Owned) (image : Bytes) : Only [.out] s (s.sendCopy o image) := by
  unfold State.sendCopy
  exact Only.foldl (fun u i => u.sendTo_only _ _ _) _ s

theorem State.endPhase_only (kind w phase : Nat) (image : Bytes) : Only [.out, .fabric] s (s.endPhase kind w phase image) := by
  have set (o : Owned) : Only [.out, .fabric] s (s.setRequest o) := (s.fabric_only _).mono rfl
  unfold State.endPhase
  split
  · dsimp only
    exact Only.ite (fun _ => set _) (fun _ => (set _).trans ((State.sendCopy_only _ _ _).mono rfl))
  · exact Only.refl _ s

theorem State.logTakeover_keeps (kind w phase status count : Nat) :
    Keeps groupParts groupRegs s (s.logTakeover kind w phase status count) := by
  unfold State.logTakeover
  split
  · exact (Keeps.of_only (s.fabric_only _) rfl).trans (State.setFlag_keeps _ _ rfl rfl)
  · exact .refl s

theorem State.keepPartial_only (w : Nat) (p : Partial) : Only [.groups] s (s.keepPartial w p) := by
  unfold State.keepPartial
  split
  · exact Only.ite (fun _ => Only.refl _ s) (fun _ => s.setGroup_only _)
  · exact Only.refl _ s

theorem State.mergeGroup_keeps (g : GroupSearch) (x : Work) : Keeps groupParts groupRegs s (s.mergeGroup g x) := by
  unfold State.mergeGroup
  refine Keeps.ite (fun _ => .of_only (s.finish_only _ _) rfl) (fun _ => s.withAccess_keeps rfl rfl (fun u => ?_) _ _)
  exact ((Keeps.of_only (u.writeAt_only _ _ _) rfl).trans (.of_only (State.writeAt_only _ _ _ _) rfl)).trans
    (.of_only (State.finish_only _ _ _) rfl)

theorem State.endGroup_only (g : GroupSearch) : Only [.out, .groups, .fabric] s (s.endGroup g) := by
  unfold State.endGroup
  dsimp only
  refine ((s.endPhase_only 1 g.w 3 ({ g with phase := 2 } : GroupSearch).image).mono rfl).trans ?_
  generalize s.endPhase 1 g.w 3 ({ g with phase := 2 } : GroupSearch).image = u
  exact (Only.ite (fun _ => (u.endRequest_only _ _).mono rfl) (fun _ => Only.refl _ u)).trans ((State.groups_only _ _).mono rfl)

theorem State.finishGroup_keeps (g : GroupSearch) : Keeps groupParts groupRegs s (s.finishGroup g) := by
  have close (u : State) : Keeps groupParts groupRegs u (u.endGroup g) := .of_only (u.endGroup_only g) rfl
  unfold State.finishGroup
  split
  · dsimp only
    exact Keeps.ite (fun _ => close s) (fun _ => Keeps.ite (fun _ => (s.mergeGroup_keeps g _).trans (close _)) (fun _ => s.mergeGroup_keeps g _))
  · exact (s.logTakeover_keeps _ _ _ _ _).trans (close _)

/-- A group search taken as far as it can go. -/
theorem State.advanceGroup_keeps (w : Nat) : Keeps groupParts groupRegs s (s.advanceGroup w) := by
  unfold State.advanceGroup
  split
  · exact .refl s
  · rename_i g _
    have merge : Keeps groupParts groupRegs s (if g.phase = 0 && g.complete && s.mayGoOn 1 w then
        (s.setGroup { g with phase := 1 }).endPhase 1 w 2 ({ g with phase := 1 } : GroupSearch).image else s) :=
      Keeps.ite (fun _ => (Keeps.of_only (s.setGroup_only _) rfl).trans (.of_only (State.endPhase_only _ _ _ _ _) rfl)) (fun _ => .refl s)
    refine merge.trans ?_
    generalize (if g.phase = 0 && g.complete && s.mayGoOn 1 w then
      (s.setGroup { g with phase := 1 }).endPhase 1 w 2 ({ g with phase := 1 } : GroupSearch).image else s) = u
    dsimp only
    split
    · exact Keeps.ite (fun _ => u.finishGroup_keeps _) (fun _ => .refl u)
    · exact .refl u

/-! ### Links that go down (R511, R673) -/

theorem State.failMigration_only (ext : Nat) : Only [.fabric] s (s.failMigration ext) :=
  (s.endRequest_only _ _).trans (State.fabric_only _ _)

theorem State.loseRequests_only (lost : WlReq → Bool) : Only [.works, .waits, .runs, .fabric] s (s.loseRequests lost) := by
  unfold State.loseRequests
  dsimp only
  refine (((s.setRequests_only _).mono rfl).trans ((State.fabric_only _ _).mono rfl)).trans (Only.foldl (fun u r => ?_) _ _)
  exact Only.ite (fun _ => (u.failMigration_only _).mono rfl) (fun _ => (u.accessFails_only _ _ _).mono rfl)

theorem State.failShards_only (ranks : List Nat) : Only [.groups] s (s.failShards ranks) :=
  Only.foldl (fun u _ => Only.foldl (fun v _ => v.keepPartial_only _ _) _ u) _ s

theorem State.advanceGroups_keeps : Keeps groupParts groupRegs s s.advanceGroups :=
  Keeps.foldl (f := fun u (g : GroupSearch) => u.advanceGroup g.w) (fun u g => u.advanceGroup_keeps g.w) _ s

/-- What an F-port's fall leaves once the port is down. -/
theorem State.fportDown_keeps (port : Nat) : Keeps groupParts groupRegs (s.setPort port (s.port port).fallen) (s.fportDown port) := by
  obtain ⟨ranks, e⟩ := s.fportDown_eq port
  rw [e]
  exact ((Keeps.of_only (State.loseRequests_only _ _) rfl).trans (.of_only (State.failShards_only _ _) rfl)).trans
    (State.advanceGroups_keeps _)

/-- A link that goes down touches its port, and what waited for the F-port's answers. -/
theorem State.linkDown_keeps (p : Nat) : Keeps linkParts groupRegs s (s.linkDown p) := by
  have down : Keeps linkParts groupRegs s (s.setPort p (s.port p).fallen) := .of_only (s.setPort_only _ _) rfl
  unfold State.linkDown
  exact Keeps.ite (fun _ => .refl s) (fun _ => Keeps.ite (fun _ => down.trans ((s.fportDown_keeps p).mono rfl rfl)) (fun _ => down))

/-- After that its port is down. -/
theorem State.linkDown_down (p : Nat) : ((s.linkDown p).port p).up = false := by
  have down : ((s.setPort p (s.port p).fallen).port p).up = false := by rw [State.port_setPort, if_pos rfl]; rfl
  unfold State.linkDown
  split_ifs with h
  · exact h
  · rw [State.port_congr ((s.fportDown_keeps p).only .ports (by decide))]
    exact down
  · exact down

end

end Sys2Proof.Machine
end

section
/-!
SUPPORT. Writes of registers: which row a register has, what each kind of row keeps of a write, and how flag registers take one.
-/

namespace Sys2Proof.Machine

/-! ### Rows of the register tables -/

/-- The command registers, which no row of the register tables covers. -/
def cmdOffsets : List Nat := [0x0040008, 0x0080040, 0x0601080, 0x0809020, 0x0900000]

/-- PORT_CTL of a port. -/
def isHold (off : Nat) : Prop := 0x0100000 ≤ off ∧ off < 0x0100C00 ∧ off % 0x100 = 0

theorem isHold.port {off : Nat} (h : isHold off) : ∃ p < 12, off = portBase p := by
  obtain ⟨h1, h2, h3⟩ := h
  exact ⟨(off - 0x0100000) / 0x100, by omega, by unfold portBase; omega⟩

theorem regRow_command : ∀ off ∈ cmdOffsets, regRow off = none := by decide

theorem regRow_portCtl : ∀ p < 12, regRow (portBase p) = some ⟨0x0100000, 12, 0x100, .plain, 1, 0⟩ := by decide

theorem regRow_clkCtl : regRow 0x0020000 = some ⟨0x0020000, 1, 8, .plain, 1, 0⟩ := by decide

theorem regRows_portCtl : ∀ p < 12, (regRows.find? (fun q => q.covers (portBase p))).isSome = true := by decide

theorem regRows_clkCtl : (regRows.find? (fun q => q.covers 0x0020000)).isSome = true := by decide

/-- A row with flags is kept by offset, and its flags are none of its RW bits. -/
theorem regRows_flags : ∀ q ∈ regRows, q.w1c ≠ 0 → q.kind = .plain ∧ q.rw &&& q.w1c = 0 := by decide

/-- A register has the row that covers it; without one it may be the companion of a flag register (R661). -/
theorem regRow_some {off : Nat} {r : RegRow} (h : regRow off = some r) :
    (regRows.find? (fun q => q.covers off) = some r ∧ r ∈ regRows) ∨
      (regRows.find? (fun q => q.covers off) = none ∧ 8 ≤ off ∧ r.kind = .plain ∧ r.w1c = 0) := by
  unfold regRow at h
  split at h
  · rename_i q hq
    obtain rfl : q = r := by simpa using h
    exact .inl ⟨hq, List.mem_of_find?_eq_some hq⟩
  · rename_i hnone
    split at h
    · rename_i q hq
      obtain rfl : ({ q with base := off, count := 1, rw := q.w1c, w1c := 0 } : RegRow) = r := by simpa using h
      have hc := List.find?_some hq
      simp only [Bool.and_eq_true, bne_iff_ne, ne_eq, decide_eq_true_eq] at hc
      exact .inr ⟨hnone, hc.2, (regRows_flags q (List.mem_of_find?_eq_some hq) hc.1.2).1, rfl⟩
    · cases h

/-- The row of a port's PORT_CTL or of CLK_CTL is kept by offset and has no flags. -/
theorem regRow_acting {off : Nat} {r : RegRow} (h : regRow off = some r) (ha : off = 0x0020000 ∨ isHold off) :
    r.kind = .plain ∧ r.w1c = 0 ∧ (regRows.find? (fun q => q.covers off)).isSome = true := by
  rcases ha with rfl | hh
  · rw [regRow_clkCtl] at h
    cases h
    exact ⟨rfl, rfl, regRows_clkCtl⟩
  · obtain ⟨p, hp, rfl⟩ := hh.port
    rw [regRow_portCtl p hp] at h
    cases h
    exact ⟨rfl, rfl, regRows_portCtl p hp⟩

/-! ### The effects of a write on the register -/

section
variable (s : State)

theorem State.undefinedCmd_other {off : Nat} (h : off ∉ cmdOffsets) (v : Nat) : s.undefinedCmd off v = s := by
  simp only [cmdOffsets, List.mem_cons, List.not_mem_nil, or_false, not_or] at h
  obtain ⟨h1, h2, h3, h4, h5⟩ := h
  unfold State.undefinedCmd
  rw [if_neg h1, if_neg h2, if_neg h3, if_neg h4, if_neg h5]

theorem State.afterWrite_other {off : Nat} (h : off ≠ 0x0020000) (hh : ¬ isHold off) : s.afterWrite off = s := by
  unfold State.afterWrite
  rw [if_neg h]
  exact if_neg hh

theorem State.writePlain_rw {off : Nat} {r : RegRow} (hw : r.w1c = 0) (hc : (regRows.find? (fun q => q.covers off)).isSome = true)
    (m v hwSet : Reg) : s.writePlain off r m v hwSet =
      { s with regs := tset s.regs off (merge (s.stored off) (BitVec.ofNat 64 r.rw &&& m) v) } := by
  have hn : ¬ (regRows.find? (fun q => q.covers off)).isNone = true := by simpa using hc
  unfold State.writePlain
  dsimp only
  rw [if_pos hw, if_neg hn]

theorem State.writePlain_flags {off : Nat} {r : RegRow} (hw : r.w1c ≠ 0) (hc : (regRows.find? (fun q => q.covers off)).isSome = true)
    (m v hwSet : Reg) : s.writePlain off r m v hwSet =
      ({ s with regs := tset s.regs off (merge (s.stored off) (BitVec.ofNat 64 r.rw &&& m) v) } : State).w1c off r.w1c (v &&& m).toNat
        hwSet.toNat := by
  have hn : ¬ (regRows.find? (fun q => q.covers off)).isNone = true := by simpa using hc
  unfold State.writePlain
  dsimp only
  rw [if_neg hw, if_neg hn]

theorem State.writePlain_enable {off : Nat} {r : RegRow} (hw : r.w1c = 0) (hc : (regRows.find? (fun q => q.covers off)).isNone = true)
    (m v hwSet : Reg) : s.writePlain off r m v hwSet =
      ({ s with regs := tset s.regs off (merge (s.stored off) (BitVec.ofNat 64 r.rw &&& m) v) } : State).enableEvents off (s.stored off)
        (merge (s.stored off) (BitVec.ofNat 64 r.rw &&& m) v) := by
  unfold State.writePlain
  dsimp only
  rw [if_pos hw, if_pos hc]

/-! ### Flags that a write clears (R13, R654) -/

/-- What a write does to one W1C bit. -/
def State.w1cBit (off written hwSet : Nat) (s : State) (i : Nat) : State :=
  let clr := bit written i
  let set := bit hwSet i
  if set then
    let race := clr
    let s' := if bit (nonMaskable off) i then s.setBit off i else s.setFlag off i
    if race then
      let s'' := s'.bump (flagRace off) 1
      if s.flag off i && s.enabled off i && !bit (nonMaskable off) i then s''.emit (.event off i) else s''
    else s'
  else if clr then { s with regs := tset s.regs off (s.stored off &&& ~~~(BitVec.ofNat 64 (2 ^ i))) } else s

theorem State.w1c_eq_foldl (off w1c written hwSet : Nat) :
    s.w1c off w1c written hwSet = (onBits w1c).foldl (State.w1cBit off written hwSet) s := rfl

/-- Only `off` of the registers changes. -/
theorem State.stored_w1cBit {off written hwSet i k : Nat} (hk : k ≠ off) : (s.w1cBit off written hwSet i).stored k = s.stored k := by
  unfold State.w1cBit
  dsimp only
  split_ifs <;> simp only [State.emit_stored, State.stored_tset, if_neg hk, State.stored_setBit, State.stored_setFlag,
    State.stored_congr (State.bump_only _ _ _ .regs (by decide))]

/-- Bits that hardware does not set in the cycle: each 1 of the write clears its bit. -/
theorem State.w1c_clears {off written hwSet : Nat} {l : List Nat} (hl : ∀ j ∈ l, j < 64 ∧ bit hwSet j = false) :
    Only [.regs] s (l.foldl (State.w1cBit off written hwSet) s) ∧
      (∀ k, k ≠ off → (l.foldl (State.w1cBit off written hwSet) s).stored k = s.stored k) ∧
      ∀ j, (l.foldl (State.w1cBit off written hwSet) s).flag off j = (s.flag off j && !(decide (j ∈ l) && bit written j)) := by
  induction l generalizing s with
  | nil => exact ⟨Only.refl _ s, fun _ _ => rfl, fun j => by simp⟩
  | cons i t ih =>
    obtain ⟨hi, hset⟩ := hl i List.mem_cons_self
    obtain ⟨ho, hk, hf⟩ := ih (s.w1cBit off written hwSet i) (fun j hj => hl j (List.mem_cons_of_mem i hj))
    have step : s.w1cBit off written hwSet i =
        if bit written i then { s with regs := tset s.regs off (s.stored off &&& ~~~(BitVec.ofNat 64 (2 ^ i))) } else s := by
      unfold State.w1cBit
      simp only [hset, Bool.false_eq_true, if_false]
    have flag (j : Nat) : (s.w1cBit off written hwSet i).flag off j = (s.flag off j && !(decide (j = i) && bit written j)) := by
      rw [step]
      by_cases hw : bit written i = true
      · rw [if_pos hw]
        unfold State.flag
        rw [State.stored_tset, if_pos rfl, BitVec.getLsbD_and, BitVec.getLsbD_not, getLsbD_two_pow i j hi]
        by_cases hj : j = i
        · subst hj; simp [hw]
        · by_cases h64 : j < 64
          · simp [hj, Ne.symm hj, h64]
          · simp [BitVec.getLsbD_of_ge (s.stored off) j (by omega)]
      · rw [if_neg hw]
        by_cases hj : j = i
        · subst hj; simp [hw]
        · simp [hj]
    refine ⟨?_, fun k hne => ?_, fun j => ?_⟩
    · refine Only.trans ?_ ho
      rw [step]
      exact Only.ite (fun _ => s.regs_only _) (fun _ => Only.refl _ s)
    · exact (hk k hne).trans (s.stored_w1cBit hne)
    · rw [List.foldl_cons, hf j, flag j]
      by_cases hj : j = i
      · subst hj; cases bit written j <;> simp
      · simp [hj]

/-- A bit that hardware sets in the cycle of its clearing stays set, and the race is counted (R13). -/
theorem State.w1cBit_race {off written hwSet i : Nat} (hi : i < 64) (hw : bit written i = true) (hs : bit hwSet i = true) :
    Only [.out, .regs, .counters] s (s.w1cBit off written hwSet i) ∧ (s.w1cBit off written hwSet i).flag off i = true ∧
      counted s (s.w1cBit off written hwSet i) (flagRace off) := by
  let u : State := if bit (nonMaskable off) i then s.setBit off i else s.setFlag off i
  have hu : Only [.out, .regs] s u := Only.ite (fun _ => (s.setBit_only _ _).mono rfl) (fun _ => s.setFlag_only _ _)
  have hf : u.flag off i = true := by
    unfold u
    split_ifs
    · simp [s.flag_setBit off hi]
    · exact s.flag_setFlag_same off hi
  have ht : ∃ b : Bool, s.w1cBit off written hwSet i =
      if b then (u.bump (flagRace off) 1).emit (.event off i) else u.bump (flagRace off) 1 := by
    refine ⟨s.flag off i && s.enabled off i && !bit (nonMaskable off) i, ?_⟩
    unfold State.w1cBit
    dsimp only
    rw [if_pos hs, if_pos hw]
  obtain ⟨b, e⟩ := ht
  rw [e]
  have hb : Only [.out] (u.bump (flagRace off) 1) (if b then (u.bump (flagRace off) 1).emit (.event off i) else u.bump (flagRace off) 1) :=
    Only.ite (fun _ => State.emit_only _ _) (fun _ => Only.refl _ _)
  refine ⟨(hu.mono rfl).trans (((u.bump_only _ _).mono rfl).trans (hb.mono rfl)), ?_, ?_⟩
  · rw [State.flag_congr (State.stored_congr (hb .regs (by decide)) off)]
    exact hf
  · refine counted_congr (t := u.bump (flagRace off) 1) ?_ (hb .counters (by decide))
    unfold counted
    rw [hu .counters (by decide)]
    exact u.counted_bump _

/-- A write of a flag register while hardware sets one of the flags that it clears. -/
theorem State.w1c_race {off w1c written i : Nat} (hi : i < 64) (hb : bit w1c i = true) (hw : bit written i = true) :
    Only [.out, .regs, .counters] s (s.w1c off w1c written (2 ^ i)) ∧ (∀ k, k ≠ off → (s.w1c off w1c written (2 ^ i)).stored k = s.stored k) ∧
      (s.w1c off w1c written (2 ^ i)).flag off i = true ∧ counted s (s.w1c off w1c written (2 ^ i)) (flagRace off) := by
  rw [State.w1c_eq_foldl]
  have hbits (j : Nat) (hj : j ∈ onBits w1c) : j < 64 := ((mem_onBits w1c j).mp hj).1
  have hnodup := onBits_nodup w1c
  obtain ⟨l₁, l₂, hl⟩ := List.append_of_mem ((mem_onBits w1c i).mpr ⟨hi, hb⟩)
  rw [hl] at hbits hnodup ⊢
  obtain ⟨-, h2, hd⟩ := List.nodup_append.mp hnodup
  have out1 (j : Nat) (hj : j ∈ l₁) : j < 64 ∧ bit (2 ^ i) j = false :=
    ⟨hbits j (by simp [hj]), by simpa [bit_two_pow] using (hd j hj i List.mem_cons_self).symm⟩
  have hi2 : i ∉ l₂ := (List.nodup_cons.mp h2).1
  have out2 (j : Nat) (hj : j ∈ l₂) : j < 64 ∧ bit (2 ^ i) j = false :=
    ⟨hbits j (by simp [hj]), by simpa [bit_two_pow] using fun h : i = j => hi2 (h ▸ hj)⟩
  rw [List.foldl_append, List.foldl_cons]
  obtain ⟨ho1, hk1, -⟩ := s.w1c_clears (off := off) (written := written) out1
  generalize l₁.foldl (State.w1cBit off written (2 ^ i)) s = u at ho1 hk1 ⊢
  obtain ⟨ho, hf, hc⟩ := u.w1cBit_race (off := off) hi hw ((bit_two_pow i i).trans (decide_eq_true rfl))
  have hk (k : Nat) (hne : k ≠ off) := u.stored_w1cBit (written := written) (hwSet := 2 ^ i) (i := i) hne
  generalize u.w1cBit off written (2 ^ i) i = z at ho hf hc hk ⊢
  obtain ⟨ho2, hk2, hf2⟩ := z.w1c_clears (off := off) (written := written) out2
  refine ⟨((ho1.mono rfl).trans ho).trans (ho2.mono rfl), fun k hne => ((hk2 k hne).trans (hk k hne)).trans (hk1 k hne), ?_, ?_⟩
  · rw [hf2, hf]
    simp [hi2]
  · refine counted_congr (t := z) ?_ (ho2 .counters (by decide))
    unfold counted at hc ⊢
    rw [ho1 .counters (by decide)]
    exact hc

/-! ### Enable bits (R654) -/

/-- The positions of a word with one bit at most. -/
theorem onBits_one {x i : Nat} (hi : i < 64) (h : ∀ j, j ≠ i → bit x j = false) : onBits x = if bit x i then [i] else [] := by
  unfold onBits
  split_ifs with hx
  · have e : bit x = fun j => decide (j = i) := by
      funext j
      by_cases hj : j = i
      · subst hj; simp [hx]
      · simp [hj, h j hj]
    rw [e, List.filter_eq, List.count_eq_one_of_mem List.nodup_range (List.mem_range.mpr hi)]
    rfl
  · refine List.filter_eq_nil_iff.mpr (fun j _ => ?_)
    by_cases hj : j = i
    · subst hj; exact hx
    · simp [h j hj]

/-- One enable bit that becomes 1, in a register that held zero: its event is raised if its flag is 1. -/
theorem State.enableEvents_one {off i : Nat} (hi : i < 64) :
    s.enableEvents off 0 (BitVec.ofNat 64 (2 ^ i)) = { s with out := s.out ++ if s.flag (off - 8) i then [Output.event (off - 8) i] else [] } := by
  have hbit (j : Nat) : bit ((BitVec.ofNat 64 (2 ^ i) &&& ~~~(0 : Reg)) &&& s.stored (off - 8)).toNat j =
      (decide (i = j) && s.flag (off - 8) j) := by
    rw [bit_toNat, BitVec.getLsbD_and, BitVec.getLsbD_and, getLsbD_two_pow i j hi, BitVec.getLsbD_not]
    by_cases hj : i = j
    · subst hj; simp [hi, State.flag]
    · simp [hj]
  unfold State.enableEvents
  rw [onBits_one hi (fun j hj => (hbit j).trans (by simp [Ne.symm hj])), hbit]
  cases hfl : s.flag (off - 8) i with
  | true =>
    rw [decide_eq_true rfl]
    exact State.emit_free s (o := .event (off - 8) i) rfl
  | false =>
    rw [decide_eq_true rfl]
    simp

/-- One RW bit written to a register that held zero. -/
theorem merge_one {rw i : Nat} (hi : i < 64) (hb : bit rw i = true) :
    merge 0 (BitVec.ofNat 64 rw &&& BitVec.ofNat 64 full) (BitVec.ofNat 64 (2 ^ i)) = BitVec.ofNat 64 (2 ^ i) := by
  refine BitVec.eq_of_getLsbD_eq (fun j hj => ?_)
  rw [getLsbD_merge, getLsbD_two_pow i j hi]
  by_cases hij : i = j
  · subst hij
    have h1 : (BitVec.ofNat 64 rw).getLsbD i = true := by
      rw [BitVec.getLsbD_ofNat, ← bit_eq_testBit, hb]
      simp [hi]
    have h2 : (BitVec.ofNat 64 full).getLsbD i = true := by
      have e : BitVec.ofNat 64 full = BitVec.allOnes 64 := rfl
      rw [e, BitVec.getLsbD_allOnes]
      simp [hi]
    simp [h1, h2]
  · simp [hij]

end

end Sys2Proof.Machine
end

section
/-!
Accesses to registers and doorbell pages, register windows, held commands and debug reads: what each does, one law per case, and the
statement of O60 put together from them.
-/

namespace Sys2Proof.Machine

/-! ### Lanes of an access (R658) -/

/-- The aligned offset that a write reaches. -/
theorem writeLanes_offset {offset size off : Nat} {value m v : Reg} (h : writeLanes offset size value = some (off, m, v)) :
    off = offset / 8 * 8 ∧ offset / 8 * 8 + offset % 8 = offset := by
  have e : offset / 8 * 8 + offset % 8 = offset := by omega
  unfold writeLanes at h
  split_ifs at h <;> (obtain ⟨rfl, -, -⟩ : _ ∧ _ ∧ _ := by simpa using h) <;> exact ⟨by omega, e⟩

/-! ### Reads (R141, R659) -/

section
variable {s : State} {mp : MgmtPort}

theorem registerRead_undecoded {offset size : Nat} (ha : s.power.auxOk = true) (h : readLanes offset size = none) :
    Does (.registerWrite (.mgmt mp) (.register offset) size none 0) s [.out] (fun t => t.out = s.out ++ [.undecoded (.mgmt mp)]) := by
  refine Does.emits rfl ?_ (State.emit_free s rfl)
  simp only [registerWriteSt, ha, State.readAccess, h]
  rfl

theorem registerRead_data {offset size off half : Nat} (ha : s.power.auxOk = true) (h : readLanes offset size = some (off, half))
    (hd : ¬ (0x0C00040 ≤ off ∧ off < 0x0C00080)) :
    Does (.registerWrite (.mgmt mp) (.register offset) size none 0) s [.out] (fun t =>
      t.out = s.out ++ [.readData (.mgmt mp) offset (halfOf (s.readReg off) half)]) := by
  refine Does.emits rfl ?_ (State.emit_free s rfl)
  simp only [registerWriteSt, ha, State.readAccess, h, if_neg hd]
  rfl

theorem State.readReg_plain {off : Nat} {q : RegRow} (hq : regRow off = some q) (hk : q.kind = .plain) (hp : s.power.perst = false) :
    s.readReg off = BitVec.ofNat 64 (((s.stored off).toNat &&& (q.rw ||| q.w1c)) ||| s.status off) := by
  unfold State.readReg State.storedBits
  simp [hp, hq, hk]

theorem State.readReg_none {off : Nat} (hq : regRow off = none) (hk : keptWhole off = false) (hs : s.status off = 0) : s.readReg off = 0 := by
  unfold State.readReg State.storedBits
  simp [hq, hk, hs]

/-! ### Doorbell pages (R98–R100) -/

/-- On a ring's own port its page is reached. -/
theorem State.pageAccess_open {port ring : Nat} (h : doorbellOpen s port ring) (offset size : Nat) (value : Option Reg) :
    s.pageAccess port ring offset size value =
      if pageFieldAt offset size then
        if size ≠ 4 ∨ offset % 8 ≠ 0 then s.undecoded port
        else match value with
          | none => s.emit (.readData (.port port) offset (BitVec.ofNat 64 ((s.ring ring).pageField offset)))
          | some _ => if offset ≤ 8 then s else s.undecoded port
      else match value with
        | none => s.emit (.readData (.port port) offset 0)
        | some _ => s := by
  obtain ⟨hport, hconf, hown, hide⟩ := h
  unfold State.pageAccess
  rw [State.arrive_of hport.1 hport.2]
  simp only [hide, hconf, hown, Bool.false_eq_true, if_false, Bool.not_true, Bool.false_or, bne_self_eq_false] <;> rfl

theorem pageRead_field {port ring offset : Nat} (h : doorbellOpen s port ring) (hf : offset ∈ [0, 8, 0x10, 0x18]) :
    Does (.registerWrite (.port port) (.page ring offset) 4 none 0) s [.out] (fun t =>
      t.out = s.out ++ [.readData (.port port) offset (BitVec.ofNat 64 ((s.ring ring).pageField offset))]) := by
  have hfield : pageFieldAt offset 4 = true ∧ ¬ ((4 : Nat) ≠ 4 ∨ offset % 8 ≠ 0) := by
    revert hf offset
    decide
  refine Does.emits rfl ?_ (State.emit_free s rfl)
  exact (State.pageAccess_open h offset 4 none).trans (by rw [if_pos hfield.1, if_neg hfield.2])

theorem pageFieldAt_beyond {offset size : Nat} (h : 0x1C ≤ offset) : pageFieldAt offset size = false := by
  simp only [pageFieldAt, List.any_cons, List.any_nil, Bool.or_false, Bool.or_eq_false_iff, decide_eq_false_iff_not]
  omega

theorem pageRead_beyond {port ring offset : Nat} (h : doorbellOpen s port ring) (hf : 0x1C ≤ offset) :
    Does (.registerWrite (.port port) (.page ring offset) 4 none 0) s [.out] (fun t =>
      t.out = s.out ++ [.readData (.port port) offset (BitVec.ofNat 64 0)]) := by
  refine Does.emits rfl ?_ (State.emit_free s rfl)
  exact (State.pageAccess_open h offset 4 none).trans (if_neg (by simp [pageFieldAt_beyond hf]))

theorem pageWrite_beyond {port ring offset : Nat} (h : doorbellOpen s port ring) (hf : 0x1C ≤ offset) (value : Reg) :
    Does (.registerWrite (.port port) (.page ring offset) 4 (some value) 0) s [] (fun _ => True) :=
  Does.nothing rfl ((State.pageAccess_open h offset 4 (some value)).trans (if_neg (by simp [pageFieldAt_beyond hf])))

theorem pageRead_undecoded {port ring offset size : Nat} (h : doorbellOpen s port ring) (hs : sends s port) (h4 : size ≠ 4)
    (hf : offset < 4) (h0 : 0 < size) :
    Does (.registerWrite (.port port) (.page ring offset) size none 0) s [.out] (fun t => t.out = s.out ++ [.undecoded (.port port)]) := by
  have hfield : pageFieldAt offset size = true := by
    simp only [pageFieldAt, List.any_cons, Bool.or_eq_true, decide_eq_true_eq]
    omega
  refine Does.emits rfl ?_ (State.emit_port s rfl hs)
  exact (State.pageAccess_open h offset size none).trans (by rw [if_pos hfield, if_pos (.inl h4)]; rfl)

/-! ### Writes of registers (R140, R658, R659) -/

variable {offset size off : Nat} {value hwSet m v : Reg}

theorem registerWriteSt_mgmt (ha : s.power.auxOk = true) : registerWriteSt (.mgmt mp) (.register offset) size (some value) hwSet s =
    s.writeAccess mp offset size value hwSet := by
  simp [registerWriteSt, ha]

theorem registerWrite_undecoded (hs : setUp s mp) (ha : s.power.auxOk = true) (hl : writeLanes offset size value = none) :
    Does (.registerWrite (.mgmt mp) (.register offset) size (some value) hwSet) s [.out] (fun t => t.out = s.out ++ [.undecoded (.mgmt mp)]) := by
  refine Does.emits rfl ?_ (State.emit_free s rfl)
  rw [registerWriteSt_mgmt ha]
  unfold State.writeAccess
  rw [hl]
  exact State.setup_of hs _

/-- A write of MGMT_SEM (R140): its lower half is a MGMT_SEM_WRITE, its upper half holds nothing to write. -/
theorem State.writeAccess_sem (hl : writeLanes offset size value = some (off, m, v)) (hsem : off = semOff) :
    s.writeAccess mp offset size value hwSet = if offset % 8 = 4 then s else mgmtSemWriteSt mp v none hwSet s := by
  unfold State.writeAccess
  rw [hl]
  exact if_pos hsem

/-- Bits of a register, not MGMT_SEM, that a set-up write reaches. -/
structure RegWrite (s : State) (mp : MgmtPort) (offset size : Nat) (value : Reg) (off : Nat) (m v : Reg) : Prop where
  setUp : setUp s mp
  aux   : s.power.auxOk = true
  lanes : writeLanes offset size value = some (off, m, v)
  other : off ≠ semOff

variable (h : RegWrite s mp offset size value off m v)
include h

theorem RegWrite.eq : registerWriteSt (.mgmt mp) (.register offset) size (some value) hwSet s =
    ((s.writeReg off m v hwSet).undefinedCmd off v.toNat).afterWrite off := by
  obtain ⟨hs, ha, hl, hne⟩ := h
  rw [registerWriteSt_mgmt ha]
  unfold State.writeAccess
  rw [hl]
  exact (if_neg hne).trans (State.setup_of hs _)

/-- The write of a register that no row covers and that is no command register. -/
theorem RegWrite.ignored (hr : regRow off = none) (hc : off ∉ cmdOffsets) :
    Does (.registerWrite (.mgmt mp) (.register offset) size (some value) hwSet) s [] (fun _ => True) := by
  have quiet : ∀ r, regRow off ≠ some r := by simp [hr]
  have hclk : off ≠ 0x0020000 := fun e => quiet _ (e ▸ regRow_clkCtl)
  have hhold : ¬ isHold off := fun hh => by
    obtain ⟨p, hp, e⟩ := hh.port
    exact quiet _ (e ▸ regRow_portCtl p hp)
  have hw : s.writeReg off m v hwSet = s := by
    unfold State.writeReg
    rw [hr]
  exact Does.nothing rfl (by rw [h.eq, hw, s.undefinedCmd_other hc, s.afterWrite_other hclk hhold])

/-- The write of a register that acts on nothing else is the write of its row. -/
theorem RegWrite.does {r : RegRow} (hr : regRow off = some r) (hclk : off ≠ 0x0020000) (hhold : ¬ isHold off) {ps : List Part}
    {P : State → Prop} (ho : Only ps s (s.writeReg off m v hwSet)) (hp : P (s.writeReg off m v hwSet)) :
    Does (.registerWrite (.mgmt mp) (.register offset) size (some value) hwSet) s ps P := by
  have hc : off ∉ cmdOffsets := fun hm => by simp [regRow_command off hm] at hr
  have e : registerWriteSt (.mgmt mp) (.register offset) size (some value) hwSet s = s.writeReg off m v hwSet := by
    rw [h.eq, State.undefinedCmd_other _ hc, State.afterWrite_other _ hclk hhold]
  exact Does.of_eq rfl e ho hp

/-- A row of another kind than `plain`, or with flags, is that of no register that acts on something else. -/
theorem RegWrite.does_row {r : RegRow} (hr : regRow off = some r) (hk : r.kind ≠ .plain ∨ r.w1c ≠ 0) {ps : List Part}
    {P : State → Prop} (ho : Only ps s (s.writeReg off m v hwSet)) (hp : P (s.writeReg off m v hwSet)) :
    Does (.registerWrite (.mgmt mp) (.register offset) size (some value) hwSet) s ps P := by
  have quiet : ¬ (off = 0x0020000 ∨ isHold off) := fun ha => by
    obtain ⟨h1, h2, -⟩ := regRow_acting hr ha
    exact hk.elim (· h1) (· h2)
  exact h.does hr (fun e => quiet (.inl e)) (fun e => quiet (.inr e)) ho hp

omit h

theorem State.writeReg_plain {r : RegRow} (hr : regRow off = some r) (hk : r.kind = .plain) :
    s.writeReg off m v hwSet = s.writePlain off r m v hwSet := by
  unfold State.writeReg
  rw [hr]
  simp only [hk]

theorem State.writeReg_staged {r : RegRow} (hr : regRow off = some r) (hk : r.kind = .staged) :
    s.writeReg off m v hwSet = s.writeShadow (s.tenSel * 2 ^ 26 + off) (BitVec.ofNat 64 r.rw &&& m) v := by
  unfold State.writeReg
  rw [hr]
  simp only [hk]

theorem State.writeReg_owner {r : RegRow} (hr : regRow off = some r) (hk : r.kind = .owner) :
    s.writeReg off m v hwSet = s.writeShadow off (BitVec.ofNat 64 r.rw &&& m) v := by
  unfold State.writeReg
  rw [hr]
  simp only [hk]

theorem State.writeReg_map {r : RegRow} (hr : regRow off = some r)
    (hk : r.kind = .bgMap ∨ (r.kind = .slotMap ∧ (off - 0x0050000) / 8 % 16 ≠ 15)) :
    s.writeReg off m v hwSet = s.writeSlotReg off (BitVec.ofNat 64 r.rw &&& m) v := by
  unfold State.writeReg
  rw [hr]
  rcases hk with hk | ⟨hk, hb⟩
  · simp only [hk]
  · simp only [hk, if_neg hb]

/-- The last register of a slot map's row holds the background entries, which are fixed. -/
theorem State.writeReg_background {r : RegRow} (hr : regRow off = some r) (hk : r.kind = .slotMap)
    (hb : (off - 0x0050000) / 8 % 16 = 15) : s.writeReg off m v hwSet = s := by
  unfold State.writeReg
  rw [hr]
  simp only [hk, if_pos hb]

theorem State.writeReg_burGroup {r : RegRow} (hr : regRow off = some r) (hk : r.kind = .burGroup) :
    s.writeReg off m v hwSet = s.writeBank (groupKey ((s.stored 0x0402000).toNat % 4096) off) (BitVec.ofNat 64 r.rw &&& m) v := by
  unfold State.writeReg
  rw [hr]
  simp only [hk]

theorem State.writeReg_embGroup {r : RegRow} (hr : regRow off = some r) (hk : r.kind = .embGroup) :
    s.writeReg off m v hwSet = s.writeBank (groupKey ((s.stored 0x0403000).toNat % 4096) off) (BitVec.ofNat 64 r.rw &&& m) v := by
  unfold State.writeReg
  rw [hr]
  simp only [hk]

theorem State.writeShadow_only (s : State) (k : Nat) (rw v : Reg) : Only [.shadow] s (s.writeShadow k rw v) := by
  intro p hp; cases p
  case shadow => simp at hp
  all_goals rfl

theorem State.writeSlotReg_only (s : State) (k : Nat) (rw v : Reg) : Only [.slots] s (s.writeSlotReg k rw v) := by
  intro p hp; cases p
  case slots => simp at hp
  all_goals rfl

theorem State.writeShadow_at (s : State) (k : Nat) (rw v : Reg) :
    tgetD (s.writeShadow k rw v).shadow k 0 = merge (tgetD s.shadow k 0) rw v ∧
      ∀ j, j ≠ k → tgetD (s.writeShadow k rw v).shadow j 0 = tgetD s.shadow j 0 :=
  ⟨tgetD_tset_same _ _ _ _, fun _ hj => tgetD_tset_ne _ hj _ _⟩

theorem State.writeBank_at (s : State) (k : Nat) (rw v : Reg) :
    tgetD (s.writeBank k rw v).regs k 0 = merge (tgetD s.regs k 0) rw v ∧ ∀ j, j ≠ k → (s.writeBank k rw v).stored j = s.stored j :=
  ⟨tgetD_tset_same _ _ _ _, fun j hj => (s.stored_tset k j _).trans (if_neg hj)⟩

include h

/-- A register without flags keeps the RW bits of a write. -/
theorem RegWrite.rw_bits {r : RegRow} (hr : regRow off = some r) (hk : r.kind = .plain) (hw : r.w1c = 0) (hclk : off ≠ 0x0020000)
    (hhold : ¬ isHold off) (hc : (regRows.find? (fun q => q.covers off)).isSome = true) :
    Does (.registerWrite (.mgmt mp) (.register offset) size (some value) hwSet) s [.regs] (fun t =>
      t.stored off = merge (s.stored off) (BitVec.ofNat 64 r.rw &&& m) v ∧ ∀ j, j ≠ off → t.stored j = s.stored j) := by
  have e : s.writeReg off m v hwSet = _ := (State.writeReg_plain hr hk).trans (s.writePlain_rw hw hc m v hwSet)
  refine h.does hr hclk hhold ?_ ?_ <;> rw [e]
  · exact s.regs_only _
  · exact ⟨(s.stored_tset _ _ _).trans (if_pos rfl), fun j hj => (s.stored_tset _ _ _).trans (if_neg hj)⟩

omit h

/-- The RW bits of a register leave its flags. -/
theorem State.flag_rw_bits {r : RegRow} (hr : r ∈ regRows) (hw : r.w1c ≠ 0) {i : Nat} (hb : bit r.w1c i = true) :
    ({ s with regs := tset s.regs off (merge (s.stored off) (BitVec.ofNat 64 r.rw &&& m) v) } : State).flag off i = s.flag off i := by
  have hrw : r.rw.testBit i = false := by
    have := congrArg (Nat.testBit · i) (regRows_flags r hr hw).2
    rwa [Nat.testBit_and, ← bit_eq_testBit r.w1c, hb, Bool.and_true, Nat.zero_testBit] at this
  unfold State.flag
  rw [State.stored_tset, if_pos rfl, getLsbD_merge, BitVec.getLsbD_and, BitVec.getLsbD_ofNat, hrw]
  simp

include h

/-- A flag register takes a write: each 1 clears its flag, while hardware sets none (R13). -/
theorem RegWrite.clears {r : RegRow} (hr : regRow off = some r) (hw : r.w1c ≠ 0) {i : Nat} (hb : bit r.w1c i = true) (hi : i < 64) :
    Does (.registerWrite (.mgmt mp) (.register offset) size (some value) 0) s [.regs] (fun t =>
      t.flag off i = (s.flag off i && !(v &&& m).getLsbD i) ∧ ∀ j, j ≠ off → t.stored j = s.stored j) := by
  obtain ⟨hc, hmem⟩ : regRows.find? (fun q => q.covers off) = some r ∧ r ∈ regRows :=
    (regRow_some hr).resolve_right (fun hn => hw hn.2.2.2)
  have e : s.writeReg off m v 0 = _ :=
    (State.writeReg_plain hr (regRows_flags r hmem hw).1).trans (s.writePlain_flags hw (by simp [hc]) m v 0)
  have hf := s.flag_rw_bits (off := off) (m := m) (v := v) hmem hw hb
  have hk (j : Nat) (hj : j ≠ off) := (s.stored_tset off j (merge (s.stored off) (BitVec.ofNat 64 r.rw &&& m) v)).trans (if_neg hj)
  have ho := s.regs_only (tset s.regs off (merge (s.stored off) (BitVec.ofNat 64 r.rw &&& m) v))
  generalize ({ s with regs := tset s.regs off (merge (s.stored off) (BitVec.ofNat 64 r.rw &&& m) v) } : State) = u at e hf hk ho
  obtain ⟨ho', hk', hf'⟩ := u.w1c_clears (off := off) (written := (v &&& m).toNat) (hwSet := (0 : Reg).toNat) (l := onBits r.w1c)
    (fun j hj => ⟨((mem_onBits _ j).mp hj).1, by simp [bit]⟩)
  refine h.does_row hr (.inr hw) ?_ ?_ <;> rw [e, State.w1c_eq_foldl]
  · exact ho.trans ho'
  · refine ⟨?_, fun j hj => (hk' j hj).trans (hk j hj)⟩
    rw [hf', hf, bit_toNat, decide_eq_true ((mem_onBits _ _).mpr ⟨hi, hb⟩), Bool.true_and]

/-- A flag that hardware sets in the cycle in which a write clears it stays set, and FLAG_RACE counts (R13). -/
theorem RegWrite.races {r : RegRow} (hr : regRow off = some r) {i : Nat} (hb : bit r.w1c i = true) (hi : i < 64)
    (hv : (v &&& m).getLsbD i = true) :
    Does (.registerWrite (.mgmt mp) (.register offset) size (some value) (BitVec.ofNat 64 (2 ^ i))) s [.out, .regs, .counters] (fun t =>
      t.flag off i = true ∧ counted s t (flagRace off) ∧ ∀ j, j ≠ off → t.stored j = s.stored j) := by
  have hw : r.w1c ≠ 0 := fun h0 => by simp [h0, bit] at hb
  obtain ⟨hc, hmem⟩ : regRows.find? (fun q => q.covers off) = some r ∧ r ∈ regRows :=
    (regRow_some hr).resolve_right (fun hn => hw hn.2.2.2)
  have hset : (BitVec.ofNat 64 (2 ^ i)).toNat = 2 ^ i := by
    rw [BitVec.toNat_ofNat, Nat.mod_eq_of_lt (Nat.pow_lt_pow_right (by decide) hi)]
  have e : s.writeReg off m v (BitVec.ofNat 64 (2 ^ i)) = _ :=
    (State.writeReg_plain hr (regRows_flags r hmem hw).1).trans (s.writePlain_flags hw (by simp [hc]) m v _)
  rw [hset] at e
  have hk (j : Nat) (hj : j ≠ off) := (s.stored_tset off j (merge (s.stored off) (BitVec.ofNat 64 r.rw &&& m) v)).trans (if_neg hj)
  have ho := s.regs_only (tset s.regs off (merge (s.stored off) (BitVec.ofNat 64 r.rw &&& m) v))
  generalize ({ s with regs := tset s.regs off (merge (s.stored off) (BitVec.ofNat 64 r.rw &&& m) v) } : State) = u at e hk ho
  obtain ⟨ho', hk', hf', hc'⟩ := u.w1c_race (off := off) hi hb ((bit_toNat (v &&& m) i).trans hv)
  refine h.does_row hr (.inr hw) ?_ ?_ <;> rw [e]
  · exact (ho.mono rfl).trans ho'
  · refine ⟨hf', ?_, fun j hj => (hk' j hj).trans (hk j hj)⟩
    unfold counted at hc' ⊢
    rw [ho .counters (by decide)]
    exact hc'

/-- An enable bit that becomes 1, in a companion register that held zero: its event is raised if its flag is 1 (R654). -/
theorem RegWrite.enables {r : RegRow} (hr : regRow off = some r) (hc : (regRows.find? (fun q => q.covers off)).isNone = true) {i : Nat}
    (hi : i < 64) (hb : bit r.rw i = true) (h0 : s.stored off = 0) (hm : m = BitVec.ofNat 64 full) (hv : v = BitVec.ofNat 64 (2 ^ i)) :
    Does (.registerWrite (.mgmt mp) (.register offset) size (some value) hwSet) s [.out, .regs] (fun t =>
      t.stored off = v ∧ (∀ j, j ≠ off → t.stored j = s.stored j) ∧
        t.out = s.out ++ (if s.flag (off - 8) i then [Output.event (off - 8) i] else [])) := by
  have hnone : regRows.find? (fun q => q.covers off) = none := by simpa using hc
  obtain ⟨-, h8, hk, hw⟩ := (regRow_some hr).resolve_left (fun hs => by simp [hnone] at hs)
  have quiet : ¬ (off = 0x0020000 ∨ isHold off) := fun ha => by
    have := (regRow_acting hr ha).2.2
    simp [hnone] at this
  have e : s.writeReg off m v hwSet = _ := (State.writeReg_plain hr hk).trans (s.writePlain_enable hw hc m v hwSet)
  rw [h0, hm, hv, merge_one hi hb, State.enableEvents_one _ hi] at e
  have hflag : ({ s with regs := tset s.regs off (BitVec.ofNat 64 (2 ^ i)) } : State).flag (off - 8) i = s.flag (off - 8) i :=
    State.flag_congr ((s.stored_tset _ _ _).trans (if_neg (by omega))) i
  rw [hflag] at e
  refine h.does hr (fun hx => quiet (.inl hx)) (fun hx => quiet (.inr hx)) ?_ ?_ <;> rw [hm, hv, e]
  · exact ((s.regs_only _).mono rfl).trans ((State.out_only _ _).mono rfl)
  · exact ⟨(s.stored_tset _ _ _).trans (if_pos rfl), fun j hj => (s.stored_tset _ _ _).trans (if_neg hj), rfl⟩

/-- A port whose HOLD is written 1 goes down, and is held (R673). -/
theorem RegWrite.holds (hhold : isHold off) (hv : (v &&& m).getLsbD 0 = true) :
    Does (.registerWrite (.mgmt mp) (.register offset) size (some value) hwSet) s (.regs :: linkParts) (fun t =>
      t.held ((off - 0x0100000) / 0x100) = true ∧ (t.port ((off - 0x0100000) / 0x100)).up = false) := by
  obtain ⟨p, hp, rfl⟩ := hhold.port
  have hport : (portBase p - 0x0100000) / 0x100 = p := by unfold portBase; omega
  have hr := regRow_portCtl p hp
  have hc : portBase p ∉ cmdOffsets := fun hm => by simp [regRow_command _ hm] at hr
  have hclk : portBase p ≠ 0x0020000 := by unfold portBase; omega
  have hregs : portBase p ∉ groupRegs := by simp [groupRegs, portBase, mbrStatus]; omega
  let u : State := { s with regs := tset s.regs (portBase p) (merge (s.stored (portBase p)) (BitVec.ofNat 64 1 &&& m) v) }
  have hw : s.writeReg (portBase p) m v hwSet = u := (State.writeReg_plain hr rfl).trans (s.writePlain_rw rfl (regRows_portCtl p hp) m v hwSet)
  have held : u.held p = true := by
    rw [BitVec.getLsbD_and, Bool.and_eq_true] at hv
    show (u.stored (portBase p)).getLsbD 0 = true
    rw [State.stored_tset, if_pos rfl, getLsbD_merge, BitVec.getLsbD_and, hv.1, hv.2]
    rfl
  have e : registerWriteSt (.mgmt mp) (.register offset) size (some value) hwSet s = u.linkDown p := by
    rw [h.eq, hw, u.undefinedCmd_other hc]
    unfold State.afterWrite
    rw [if_neg hclk]
    exact (if_pos hhold).trans (by rw [hport, if_pos held])
  have down := u.linkDown_keeps p
  rw [hport]
  refine Does.of_eq rfl e ?_ ⟨?_, u.linkDown_down p⟩
  · exact ((s.regs_only _).mono rfl).trans (down.only.mono rfl)
  · exact (State.flag_congr (down.regs _ hregs) 0).trans held

/-! ### Undefined CMD values (R709) -/

/-- The write of a command register is judged by its CMD value alone. -/
theorem RegWrite.command (hc : off ∈ cmdOffsets) :
    registerWriteSt (.mgmt mp) (.register offset) size (some value) hwSet s = s.undefinedCmd off v.toNat := by
  have hw : s.writeReg off m v hwSet = s := by
    unfold State.writeReg
    rw [regRow_command off hc]
  have quiet : off ≠ 0x0020000 ∧ ¬ isHold off := by
    unfold isHold
    simp only [cmdOffsets, List.mem_cons, List.not_mem_nil, or_false] at hc
    omega
  rw [h.eq, hw, State.afterWrite_other _ quiet.1 quiet.2]

theorem RegWrite.tenCmd (hoff : off = 0x0040008) (hv : 4 ≤ bits v.toNat 19 16 ∨ bits v.toNat 8 0 = 0) :
    Does (.registerWrite (.mgmt mp) (.register offset) size (some value) hwSet) s [.out, .regs, .cmdTen] (fun t =>
      t.cmdTen.cause = 5 ∧ t.flag 0x0040010 0 = true) := by
  have e : s.undefinedCmd off v.toNat = s.cmdFail .ten 5 := (if_pos hoff).trans (if_pos (.inr hv))
  refine Does.of_eq rfl ((h.command (by simp [cmdOffsets, hoff])).trans e) (s.cmdFail_only .ten 5) ⟨?_, State.flag_setFlag_same _ _ (by decide)⟩
  exact congrArg CmdState.cause (State.setFlag_only { s with cmdTen := { s.cmdTen with cause := 5 } } 0x0040010 0 .cmdTen (by decide)).symm

theorem RegWrite.extCmd (hoff : off = 0x0601080) (hv : 5 ≤ bits v.toNat 27 24) :
    Does (.registerWrite (.mgmt mp) (.register offset) size (some value) hwSet) s [.out, .regs, .cmdExt] (fun t =>
      t.cmdExt.cause = 5 ∧ t.flag 0x0601088 0 = true) := by
  have e : s.undefinedCmd off v.toNat = s.cmdFail .ext 5 := by
    unfold State.undefinedCmd
    rw [if_neg (by omega), if_neg (by omega), if_pos hoff, if_pos hv]
  refine Does.of_eq rfl ((h.command (by simp [cmdOffsets, hoff])).trans e) (s.cmdFail_only .ext 5) ⟨?_, State.flag_setFlag_same _ _ (by decide)⟩
  exact congrArg CmdState.cause (State.setFlag_only { s with cmdExt := { s.cmdExt with cause := 5 } } 0x0601088 0 .cmdExt (by decide)).symm

omit h in
theorem State.owl_only (s : State) (x : Owl) : Only [.owl] s { s with owl := x } := by
  intro p hp; cases p
  case owl => simp at hp
  all_goals rfl

theorem RegWrite.mboxCmd (hoff : off = 0x0900000) (hv : 3 ≤ bits v.toNat 15 0) :
    Does (.registerWrite (.mgmt mp) (.register offset) size (some value) hwSet) s [.out, .regs, .owl] (fun t =>
      t.owl.mboxResult = 1 ∧ t.flag 0x0900008 1 = true) := by
  have e : s.undefinedCmd off v.toNat = s.mbox 1 := by
    unfold State.undefinedCmd
    rw [if_neg (by omega), if_neg (by omega), if_neg (by omega), if_neg (by omega), if_pos hoff, if_pos (by omega)]
    rfl
  have hset := State.setFlag_only { s with owl := { s.owl with mboxResult := 1 } } 0x0900008 1
  refine Does.of_eq rfl ((h.command (by simp [cmdOffsets, hoff])).trans e) (((s.owl_only _).mono rfl).trans (hset.mono rfl))
    ⟨?_, State.flag_setFlag_same _ _ (by decide)⟩
  exact congrArg Owl.mboxResult (hset .owl (by decide)).symm

omit h

/-! ### Writes that do not take effect (R140, R146, R701) -/

theorem State.flag_semError (s : State) (mp : MgmtPort) : (s.semError mp).flag 0x010000 (7 + mpId mp) = true :=
  State.flag_setFlag_same _ _ (by cases mp <;> decide)

theorem registerWrite_semError (hp : s.power.perst = false) (ha : s.power.auxOk = true) (hn : s.holdsSem mp = false)
    (hoff : offset / 8 * 8 ≠ semOff) :
    Does (.registerWrite (.mgmt mp) (.register offset) size (some value) hwSet) s [.out, .regs, .counters] (fun t =>
      counted s t (0x010010 + 8 * (mpId mp - 1)) ∧ t.flag 0x010000 (7 + mpId mp) = true ∧ ∀ j, j ≠ 0x010000 → t.stored j = s.stored j) := by
  have e : registerWriteSt (.mgmt mp) (.register offset) size (some value) hwSet s = s.semError mp := by
    rw [registerWriteSt_mgmt ha]
    unfold State.writeAccess
    split
    · exact State.setup_error hp hn _
    · rename_i hl
      rw [if_neg ((writeLanes_offset hl).1 ▸ hoff)]
      exact State.setup_error hp hn _
  have hset := State.setFlag_only (s.bump (0x010010 + 8 * (mpId mp - 1)) 1) 0x010000 (7 + mpId mp)
  refine Does.of_eq rfl e (s.semError_only mp) ⟨counted_congr (s.counted_bump _) (hset .counters (by decide)), s.flag_semError mp,
    fun j hj => ?_⟩
  exact (State.stored_setFlag _ _ _ _).trans ((if_neg hj).trans (State.stored_congr (s.bump_only _ _ .regs (by decide)) j))

theorem registerWrite_perst (hp : s.power.perst = true) :
    Does (.registerWrite (.mgmt mp) (.register offset) size (some value) hwSet) s [] (fun _ => True) := by
  refine Does.nothing rfl ?_
  cases ha : s.power.auxOk with
  | false => simp [registerWriteSt, ha]
  | true =>
    rw [registerWriteSt_mgmt ha]
    unfold State.writeAccess
    split
    · exact State.setup_perst hp _ _
    · split_ifs
      · rfl
      · exact if_pos hp
      · exact State.setup_perst hp _ _

end

/-! ### Register windows (R671) -/

section
variable {s : State} {mp : MgmtPort}

theorem State.loadImage_only (s : State) (off : Nat) (b : Bytes) (n : Nat) : Only [.regs] s (s.loadImage off b n) := by
  induction n generalizing s off b with
  | zero => exact Only.refl _ s
  | succ n ih => exact (s.regs_only _).trans (ih _ _ _)

/-- A window loaded leaves every other register. -/
theorem State.stored_loadImage_out (s : State) (off : Nat) (b : Bytes) (n : Nat) {k : Nat} (h : k < off) :
    (s.loadImage off b n).stored k = s.stored k := by
  induction n generalizing s off b with
  | zero => rfl
  | succ n ih => exact (ih _ _ _ (by omega)).trans ((s.stored_tset _ _ _).trans (if_neg (by omega)))

theorem fld_drop (b : Bytes) (k off size : Nat) : fld (b.drop k) off size = fld b (k + off) size := by
  unfold fld
  rw [List.drop_drop]

/-- A window loaded shows the words of the bytes. -/
theorem State.stored_loadImage (s : State) (off : Nat) (b : Bytes) (n : Nat) {j : Nat} (h : j < n) :
    (s.loadImage off b n).stored (off + 8 * j) = BitVec.ofNat 64 (fld b (8 * j) 8) := by
  induction n generalizing s off b j with
  | zero => omega
  | succ n ih =>
    unfold State.loadImage
    cases j with
    | zero => exact (State.stored_loadImage_out _ _ _ _ (by omega)).trans ((s.stored_tset _ _ _).trans (if_pos rfl))
    | succ j =>
      have e : off + 8 * (j + 1) = off + 8 + 8 * j := by omega
      rw [e, ih _ _ _ (by omega), fld_drop]
      congr 2
      omega

theorem burrowSelect_does (hs : setUp s mp) (w : Reg) :
    Does (.objectWindowSelect mp 0x0400000 w) s [.regs] (fun t => t.stored 0x0400000 = w &&& 0xFFF ∧
      ∀ j, j < 16 → t.stored (0x0400080 + 8 * j) = BitVec.ofNat 64 (fld (burrowHeader (s.burrow (w &&& 0xFFF).toNat)) (8 * j) 8)) := by
  let u : State := { s with regs := tset s.regs 0x0400000 (w &&& 0xFFF) }
  have e : objectWindowSelectSt mp 0x0400000 w s = u.loadImage 0x0400080 (burrowHeader (s.burrow (w &&& 0xFFF).toNat)) 16 :=
    (State.setup_of hs _).trans (if_pos rfl)
  refine Does.of_eq rfl e ((s.regs_only _).trans (State.loadImage_only _ _ _ _)) ⟨?_, fun j hj => State.stored_loadImage _ _ _ _ hj⟩
  exact (State.stored_loadImage_out _ _ _ _ (by decide)).trans ((s.stored_tset _ _ _).trans (if_pos rfl))

theorem tensorSelect_does (hs : setUp s mp) (w : Reg) :
    Does (.objectWindowSelect mp 0x0500000 w) s [.regs] (fun t => t.stored 0x0500000 = w &&& 0xFFFFF ∧
      ∀ x, tget s.tensors (w &&& 0xFFFFF).toNat = some x → ∀ j, j < 8 →
        t.stored (0x0500040 + 8 * j) = BitVec.ofNat 64 (fld (tensorRecord (w &&& 0xFFFFF).toNat x) (8 * j) 8)) := by
  let u : State := { s with regs := tset s.regs 0x0500000 (w &&& 0xFFFFF) }
  let b : Bytes := match tget s.tensors (w &&& 0xFFFFF).toNat with | some x => tensorRecord (w &&& 0xFFFFF).toNat x | none => []
  have e : objectWindowSelectSt mp 0x0500000 w s = u.loadImage 0x0500040 b 8 :=
    (State.setup_of hs _).trans ((if_neg (by decide)).trans (if_pos rfl))
  refine Does.of_eq rfl e ((s.regs_only _).trans (State.loadImage_only _ _ _ _)) ⟨?_, fun x hx j hj => ?_⟩
  · exact (State.stored_loadImage_out _ _ _ _ (by decide)).trans ((s.stored_tset _ _ _).trans (if_pos rfl))
  · have hb : b = tensorRecord (w &&& 0xFFFFF).toNat x := by
      unfold b
      rw [hx]
    rw [State.stored_loadImage _ _ _ _ hj, hb]

theorem ctxRead_does (h : ready s mp .ctx) (ctx : Nat) :
    Does (.ctxRead mp ctx) s [.regs] (fun t =>
      ∀ j, j < 32 → t.stored (0x0040800 + 8 * j) = BitVec.ofNat 64 (fld (ctxImage (s.ctx ctx)) (8 * j) 8)) :=
  Does.of_eq rfl (State.command_of h _ _) (s.loadImage_only _ _ _) (fun _ hj => s.stored_loadImage _ _ _ hj)

theorem ringRead_does (h : ready s mp .ring) (ring : Nat) :
    Does (.ringRead mp ring) s [.regs] (fun t =>
      ∀ j, j < 8 → t.stored (0x0080000 + 8 * j) = BitVec.ofNat 64 (fld (ringImage (s.ring ring)) (8 * j) 8)) :=
  Does.of_eq rfl (State.command_of h _ _) (s.loadImage_only _ _ _) (fun _ hj => s.stored_loadImage _ _ _ hj)

/-! ### ERR_HEAD (R682) -/

theorem errHeadWrite_moves (hs : setUp s mp) {w : Reg}
    (h : (w.toNat % 8192 + 8192 - s.errs.head) % 8192 ≤ (s.errs.tail + 8192 - s.errs.head) % 8192) :
    Does (.errHeadWrite mp w) s [.errs] (fun t => t.errs = { s.errs with head := w.toNat % 8192 }) :=
  Does.of_eq rfl ((State.setup_of hs _).trans (if_pos h)) (s.errs_only _) rfl

theorem errHeadWrite_ignored (hs : setUp s mp) {w : Reg}
    (h : (s.errs.tail + 8192 - s.errs.head) % 8192 < (w.toNat % 8192 + 8192 - s.errs.head) % 8192) :
    Does (.errHeadWrite mp w) s [] (fun _ => True) :=
  Does.nothing rfl ((State.setup_of hs _).trans (if_neg (by omega)))

/-! ### Held commands (R685) -/

theorem heldCommandStartSt_runs {b : CmdBlock} {i : Instr} (hb : (s.block b).busy = false) (hh : (s.block b).held = some i) :
    heldCommandStartSt b s = (s.setBlock b { s.block b with held := none }).runCommand i := by
  unfold heldCommandStartSt
  simp only [hh, hb]
  rfl

theorem heldCommandStart_busy {b : CmdBlock} (hb : (s.block b).busy = true) : Does (.heldCommandStart b) s [] (fun _ => True) := by
  refine Does.nothing rfl ?_
  unfold heldCommandStartSt
  dsimp only
  split
  · exact if_pos hb
  · rfl

/-- A MODIFY that the tenancy block holds runs as if written now. -/
theorem heldCommandStart_tenModify (hs : setUp s mp) {ctx : Nat} (hb : s.cmdTen.busy = false) (hh : s.cmdTen.held = some (.tenModify mp ctx)) :
    exec (.heldCommandStart .ten) s = exec (.tenModify mp ctx) (s.setBlock .ten { s.cmdTen with held := none }) := by
  have hr : ready (s.setBlock .ten { s.cmdTen with held := none }) mp .ten := ⟨hs, hb⟩
  refine congrArg Host.Outcome.next ((heldCommandStartSt_runs (b := .ten) hb hh).trans ?_)
  unfold tenModifySt
  rw [State.command_of hr]
  rfl

theorem State.sem_only (s : State) (x : Sem) : Only [.sem] s { s with sem := x } := by
  intro p hp; cases p
  case sem => simp at hp
  all_goals rfl

/-- The state as a port sees it that holds the semaphore. -/
def State.heldBy (s : State) (mp : MgmtPort) : State := { s with sem := { s.sem with holder := mpId mp } }

/-- A command run for the port that wrote it leaves the semaphore as it was. -/
theorem State.asHolder_only (s : State) (mp : MgmtPort) {ps : List Part} {f : State → State} (h : Only ps (s.heldBy mp) (f (s.heldBy mp))) :
    Only ps s (s.asHolder mp f) := by
  have e : s.asHolder mp f = { f (s.heldBy mp) with sem := s.sem } := rfl
  have taken : Only [.sem] s (s.heldBy mp) := s.sem_only _
  rw [e]
  generalize f (s.heldBy mp) = u at h ⊢
  have back := u.sem_only s.sem
  intro p hp
  by_cases hsem : p = .sem
  · subst hsem; rfl
  · have hn : p ∉ [Part.sem] := by simpa using hsem
    exact State.agree_trans p (State.agree_trans p (taken p hn) (h p hp)) (back p hn)

/-- A READ that the context block holds runs, whoever holds the semaphore now. -/
theorem heldCommandStart_ctxRead {ctx : Nat} (hb : (s.block .ctx).busy = false) (hh : (s.block .ctx).held = some (.ctxRead mp ctx))
    (hp : s.power.perst = false) :
    Does (.heldCommandStart .ctx) s [.regs, .cmdCtx] (fun t => t.cmdCtx = { s.cmdCtx with held := none } ∧
      ∀ j, j < 32 → t.stored (0x0040800 + 8 * j) = BitVec.ofNat 64 (fld (ctxImage (s.ctx ctx)) (8 * j) 8)) := by
  let u : State := s.setBlock .ctx { s.cmdCtx with held := none }
  have e : heldCommandStartSt .ctx s = u.asHolder mp (ctxReadSt mp ctx) := heldCommandStartSt_runs hb hh
  have hready : ready (u.heldBy mp) mp .ctx := ⟨⟨hp, beq_self_eq_true _⟩, hb⟩
  have hread : ctxReadSt mp ctx (u.heldBy mp) = (u.heldBy mp).loadImage 0x0040800 (ctxImage (s.ctx ctx)) 32 := State.command_of hready _ _
  have ho : Only [.regs] u (u.asHolder mp (ctxReadSt mp ctx)) := u.asHolder_only mp (by rw [hread]; exact State.loadImage_only _ _ _ _)
  refine Does.of_eq rfl e (((s.setBlock_only .ctx _).mono rfl).trans (ho.mono rfl)) ⟨(ho .cmdCtx (by decide)).symm, fun j hj => ?_⟩
  have hstored : (u.asHolder mp (ctxReadSt mp ctx)).stored (0x0040800 + 8 * j) = (ctxReadSt mp ctx (u.heldBy mp)).stored (0x0040800 + 8 * j) := rfl
  rw [hstored, hread, State.stored_loadImage _ _ _ _ hj]

/-! ### Debug reads (R632) -/

/-- A word of DBG_MEM_WIN with the address that DBG_MEM_SEL gives it. -/
def State.debugAddr (s : State) (word : Nat) : Nat := (s.stored 0x0C00020).toNat % 2 ^ 62 / 64 * 64 + 8 * (word % 8)

/-- A debug read of memory, outside PERST. -/
theorem State.debugWord_mem (hp : s.power.perst = false) (hr : s.flag 0x0C00028 63 = false)
    (h3 : (s.stored 0x0C00020).toNat / 2 ^ 62 = 3) (word : Nat) :
    s.debugWord word = match s.memSeen (s.debugAddr word) with
      | .data b => (s, BitVec.ofNat 64 (leNat b))
      | .denied => (s.setFlag 0x0C00008 0, 0)
      | .unknown => (s.drawn, BitVec.ofNat 64 s.freeVal) := by
  have hraw : bit (s.stored 0x0C00028).toNat 63 = false := (bit_toNat _ _).trans hr
  unfold State.debugWord
  simp only [hp, hraw, h3, Bool.false_eq_true, if_false, if_true]
  rfl

theorem debugMemReadSt_data {word : Nat} {b : Bytes} (hp : s.power.perst = false) (hr : s.flag 0x0C00028 63 = false)
    (h3 : (s.stored 0x0C00020).toNat / 2 ^ 62 = 3) (hb : s.memSeen (s.debugAddr word) = .data b) :
    Does (.debugMemRead mp word) s [.out] (fun t =>
      t.out = s.out ++ [Output.readData (.mgmt mp) (0x0C00040 + 8 * (word % 8)) (BitVec.ofNat 64 (leNat b))]) := by
  refine Does.emits rfl ?_ (State.emit_free s rfl)
  unfold debugMemReadSt
  rw [State.debugWord_mem hp hr h3, hb]

theorem debugMemRead_perst (hp : s.power.perst = true) (word : Nat) :
    Does (.debugMemRead mp word) s [.out] (fun t =>
      t.out = s.out ++ [Output.readData (.mgmt mp) (0x0C00040 + 8 * (word % 8)) (BitVec.ofNat 64 0)]) := by
  refine Does.emits rfl ?_ (State.emit_free s rfl)
  unfold debugMemReadSt State.debugWord
  simp only [hp, if_true]
  rfl

theorem debugMemRead_denied {word : Nat} (hp : s.power.perst = false) (hr : s.flag 0x0C00028 63 = false)
    (h3 : (s.stored 0x0C00020).toNat / 2 ^ 62 = 3) (ha : s.debugAddr word < 2 ^ 48)
    (hk : s.keyedAt (s.debugAddr word / 64 * 64) = true) :
    Does (.debugMemRead mp word) s [.out, .regs] (fun t =>
      Output.readData (.mgmt mp) (0x0C00040 + 8 * (word % 8)) (BitVec.ofNat 64 0) ∈ t.out ∧ t.flag 0x0C00008 0 = true) := by
  have hseen : s.memSeen (s.debugAddr word) = .denied := by
    unfold State.memSeen
    simp only [Nat.div_eq_of_lt ha, hk, if_true]
  have e : debugMemReadSt mp word s = (s.setFlag 0x0C00008 0).emit (.readData (.mgmt mp) (0x0C00040 + 8 * (word % 8)) 0) := by
    unfold debugMemReadSt
    rw [State.debugWord_mem hp hr h3, hseen]
  refine Does.of_eq rfl e ((s.setFlag_only _ _).trans ((State.emit_only _ _).mono rfl)) ⟨?_, ?_⟩
  · rw [State.emit_free _ rfl]
    exact List.mem_append_right _ List.mem_cons_self
  · exact (State.flag_congr (State.emit_stored _ _ _) 0).trans (s.flag_setFlag_same _ (by decide))

theorem State.memSeen_hbm {a : Nat} (ha : a < 2 ^ 48) (hk : s.keyedAt (a / 64 * 64) = false) : s.memSeen a = .data (s.read a 8) := by
  unfold State.memSeen
  simp only [Nat.div_eq_of_lt ha, hk, Bool.false_eq_true, if_false]

theorem State.memSeen_ddr {a : Nat} {b : Bytes} (ha : 2 ^ 48 ≤ a) (ha' : a < 2 * 2 ^ 48) (hb : s.ddrPlain (a / 64 * 64) = some b) :
    s.memSeen a = .data (slice (s.enciphered (((s.tenancies.find? (fun e => e.1 != 0 && s.ownsRange e.1 (a / 64 * 64) 64)).map (·.1)).getD 0)
      ddrSpace (logical (a / 64 * 64)) b) (a % 64) 8) := by
  have h1 : a / 2 ^ 48 = 1 := by omega
  unfold State.memSeen State.ddrSeen
  simp only [h1, hb]

end

/-- Settles O60: each clause is the law of its access or command. -/
theorem registersAndWindows : Obligations.RegistersAndWindows := by
  unfold Obligations.RegistersAndWindows
  intro mp offset size off i ctx ring word m v w value hwSet r s
  dsimp only
  refine ⟨fun ha => ⟨registerRead_undecoded ha, fun _ hl hd =>
      ⟨registerRead_data ha hl hd, fun _ => State.readReg_plain, State.readReg_none⟩⟩,
    ?_, ?_, heldCommandStart_ctxRead, heldCommandStart_busy, fun h => ctxRead_does h ctx, fun h => ringRead_does h ring,
    registerWrite_semError, registerWrite_perst, fun hp => debugMemRead_perst hp word, ?_⟩
  · intro h hs
    refine ⟨pageRead_field h (by decide), pageRead_field h (by decide), pageRead_field h (by decide), pageRead_field h (by decide),
      fun hf => ⟨pageRead_beyond h hf, pageWrite_beyond h hf value⟩, pageRead_undecoded h hs⟩
  · intro hs ha
    refine ⟨registerWrite_undecoded hs ha, ?_, ?_, ?_, burrowSelect_does hs w, tensorSelect_does hs w,
      ⟨errHeadWrite_moves hs, errHeadWrite_ignored hs⟩, heldCommandStart_tenModify hs⟩
    · intro hl hsem
      have e := fun hw => State.writeAccess_sem (s := s) (mp := mp) (hwSet := hw) hl hsem
      refine ⟨fun h0 => congrArg Host.Outcome.next ?_, fun h4 => Does.nothing rfl ?_⟩
      · rw [registerWriteSt_mgmt ha, e, if_neg (by omega)]
      · rw [registerWriteSt_mgmt ha, e, if_pos h4]
    · intro hl hne
      have h : RegWrite s mp offset size value off m v := ⟨hs, ha, hl, hne⟩
      refine ⟨h.ignored, fun hr => ⟨h.holds, h.rw_bits hr, ?_, ?_, fun hc => h.enables hr hc, ?_, ?_, ?_, ?_, ?_, ?_⟩⟩
      · rintro - rfl hw hb hi
        exact h.clears hr hw hb hi
      · rintro - rfl hi hb hv
        exact h.races hr hb hi hv
      · intro hk
        refine h.does_row hr (.inl (by simp [hk])) ?_ ?_ <;> rw [State.writeReg_staged hr hk]
        · exact s.writeShadow_only _ _ _
        · exact s.writeShadow_at _ _ _
      · intro hk
        refine h.does_row hr (.inl (by simp [hk])) ?_ ?_ <;> rw [State.writeReg_owner hr hk]
        · exact s.writeShadow_only _ _ _
        · exact s.writeShadow_at _ _ _
      · intro hk
        refine h.does_row hr (.inl (by rcases hk with hk | hk <;> simp [hk])) ?_ ?_ <;> rw [State.writeReg_map hr hk]
        · exact s.writeSlotReg_only _ _ _
        · rfl
      · intro hk hb
        exact h.does_row hr (.inl (by simp [hk])) (Only.of_eq (State.writeReg_background hr hk hb)) trivial
      · intro hk
        refine h.does_row hr (.inl (by simp [hk])) ?_ ?_ <;> rw [State.writeReg_burGroup hr hk]
        · exact s.regs_only _
        · exact s.writeBank_at _ _ _
      · intro hk
        refine h.does_row hr (.inl (by simp [hk])) ?_ ?_ <;> rw [State.writeReg_embGroup hr hk]
        · exact s.regs_only _
        · exact s.writeBank_at _ _ _
    · intro hl
      have h (k : Nat) (hk : off = k) (hne : k ≠ semOff) : RegWrite s mp offset size value off m v := ⟨hs, ha, hl, hk ▸ hne⟩
      exact ⟨fun ho => (h _ ho (by decide)).tenCmd ho, fun ho => (h _ ho (by decide)).extCmd ho, fun ho => (h _ ho (by decide)).mboxCmd ho⟩
  · intro hp hr h3
    exact ⟨debugMemRead_denied hp hr h3, fun ha hk => debugMemReadSt_data hp hr h3 (State.memSeen_hbm ha hk),
      fun b ha ha' hb => debugMemReadSt_data hp hr h3 (State.memSeen_ddr ha ha' hb)⟩

end Sys2Proof.Machine
end

section
/-!
SUPPORT. Health and errors: the plain updates of their parts, poison, the replace-me conditions, rings that fail with their tenancy, and
what the losses of stacks and channels leave as it was.
-/

namespace Sys2Proof.Machine

/-! ### Plain updates -/

section
variable (s : State)

theorem State.mem_only (x : Memories) : Only [.mem] s { s with mem := x } := by
  intro p hp; cases p
  case mem => simp at hp
  all_goals rfl

theorem State.poison_only (x : List Nat) : Only [.poison] s { s with poison := x } := by
  intro p hp; cases p
  case poison => simp at hp
  all_goals rfl

theorem State.freeCount_only (n : Nat) : Only [.freeCount] s { s with freeCount := n } := by
  intro p hp; cases p
  case freeCount => simp at hp
  all_goals rfl

theorem State.extents_only (x : Tab Extent) : Only [.extents] s { s with extents := x } := by
  intro p hp; cases p
  case extents => simp at hp
  all_goals rfl

theorem State.tenancies_only (x : Tab Tenancy) : Only [.tenancies] s { s with tenancies := x } := by
  intro p hp; cases p
  case tenancies => simp at hp
  all_goals rfl

theorem State.ringErr_only (n : Nat) : Only [.ringErr] s { s with ringErr := n } := by
  intro p hp; cases p
  case ringErr => simp at hp
  all_goals rfl

/-- Memories and the health record updated together. -/
theorem State.memHealth_only (m : Memories) (h : Health) : Only [.mem, .health] s { s with mem := m, health := h } := by
  intro p hp; cases p
  case mem | health => simp at hp
  all_goals rfl

/-- A loopback and its result updated together. -/
theorem State.loopResult_only (l : Option Loopback) (x : Reg) : Only [.loop, .lbResult] s { s with loop := l, lbResult := x } := by
  intro p hp; cases p
  case loop | lbResult => simp at hp
  all_goals rfl

/-- A record written, and the replace-me conditions reviewed after it. -/
theorem State.logReview_only (cls source code : Nat) (ten : Option Nat) (unit addr kind id info : Nat) :
    Only [.out, .regs, .counters, .errs, .svcPrev] s (s.logError cls source code ten unit addr kind id info).reviewSvc :=
  ((s.logError_only _ _ _ _ _ _ _ _ _).mono rfl).trans ((State.reviewSvc_only _).mono rfl)

/-! ### Replace-me conditions (R652) -/

/-- The second and the third bit of five that are put together to a number. -/
theorem bit_b2n_sum : ∀ a b c d e : Bool,
    bit (b2n a + 2 * b2n b + 4 * b2n c + 8 * b2n d + 16 * b2n e) 1 = b ∧
      bit (b2n a + 2 * b2n b + 4 * b2n c + 8 * b2n d + 16 * b2n e) 2 = c := by decide

/-- The cause HBM: a stack is being copied to the spare, or has been replaced by it. -/
theorem State.svcCauses_hbm : bit s.svcCauses 1 = (s.mem.replaced.isSome || s.mem.copying.isSome) := (bit_b2n_sum _ _ _ _ _).1

/-- The cause DDR: a channel has lost its margin, or has failed. -/
theorem State.svcCauses_ddr : bit s.svcCauses 2 = (!s.mem.noMargin.isEmpty || !s.health.ddrOut.isEmpty) := (bit_b2n_sum _ _ _ _ _).2

/-! ### Poison -/

theorem mem_insertBy_self {α : Type} (lt : α → α → Bool) (x : α) (l : List α) : x ∈ insertBy lt x l := by
  induction l with
  | nil => exact List.mem_cons_self
  | cons y t ih =>
    unfold insertBy
    split
    · exact List.mem_cons_self
    · exact List.mem_cons_of_mem y ih

theorem State.addPoison_only (line : Nat) : Only [.poison] s (s.addPoison line) :=
  Only.ite (fun _ => Only.refl _ s) (fun _ => s.poison_only _)

theorem State.addPoison_contains (line : Nat) : (s.addPoison line).poison.contains line = true := by
  unfold State.addPoison
  split
  · assumption
  · exact List.contains_iff_mem.mpr (mem_insertBy_self _ _ _)

/-! ### Rings that fail with their tenancy (R647) -/

/-- A ring that fails: one that is disabled, or in error already, stays as it is. -/
theorem State.ringFail_rings (ring cause : Nat) : (s.ringFail ring cause).rings =
    if (s.ring ring).state = .disabled ∨ (s.ring ring).state = .error then s.rings
    else tset s.rings ring { s.ring ring with state := .error, cause, fetched := [] } := by
  have flagged (u : State) : (u.setFlag 0x0080048 8).rings = u.rings := (u.setFlag_only _ _ .rings (by decide)).symm
  unfold State.ringFail
  cases h : (s.ring ring).state <;> simp [h, flagged, State.setRing]

theorem State.ringFail_only (ring cause : Nat) : Only [.out, .regs, .rings, .ringErr] s (s.ringFail ring cause) := by
  have flagged (u : State) : Only [.out, .regs, .rings, .ringErr] u (u.setFlag 0x0080048 8) := (u.setFlag_only _ _).mono rfl
  have failed (x : Ring) : Only [.out, .regs, .rings, .ringErr] s { s.setRing ring x with ringErr := ring } :=
    ((s.setRing_only _ _).mono rfl).trans ((State.ringErr_only _ _).mono rfl)
  unfold State.ringFail
  dsimp only
  split
  · exact Only.refl _ s
  · exact flagged s
  · exact (failed _).trans (flagged _)

variable {s}

theorem State.ring_of_tget {i : Nat} {r : Ring} (h : tget s.rings i = some r) : s.ring i = r := by
  unfold State.ring tgetD
  rw [h]
  rfl

theorem State.ringFail_other {i j : Nat} (h : i ≠ j) (cause : Nat) : tget (s.ringFail j cause).rings i = tget s.rings i := by
  rw [State.ringFail_rings]
  split
  · rfl
  · exact tget_tset_ne _ h _

/-- A ring in error keeps its cause, whichever ring fails. -/
theorem State.ringFail_error {i j : Nat} {q : Ring} (h : tget s.rings i = some q) (he : q.state = .error) (cause : Nat) :
    tget (s.ringFail j cause).rings i = some q := by
  by_cases hij : i = j
  · subst hij
    rw [State.ringFail_rings, State.ring_of_tget h, if_pos (.inr he), h]
  · rw [State.ringFail_other hij, h]

theorem State.ringFail_self {i : Nat} {r : Ring} (h : tget s.rings i = some r) (hr : r.state = .enabled ∨ r.state = .draining)
    (cause : Nat) : tget (s.ringFail i cause).rings i = some { r with state := .error, cause, fetched := [] } := by
  have hn : ¬ (r.state = .disabled ∨ r.state = .error) := by rcases hr with hr | hr <;> simp [hr]
  rw [State.ringFail_rings, State.ring_of_tget h, if_neg hn, tget_tset_same]

/-- The rings of a list fail one after another. -/
def State.ringsFail (s : State) (l : List Nat) (cause : Nat) : State := l.foldl (fun s r => s.ringFail r cause) s

theorem State.ringsFail_error {i : Nat} {q : Ring} (h : tget s.rings i = some q) (he : q.state = .error) (l : List Nat) (cause : Nat) :
    tget (s.ringsFail l cause).rings i = some q := by
  induction l generalizing s with
  | nil => exact h
  | cons j t ih => exact ih (State.ringFail_error h he cause)

/-- Every ring of the list that was in service is in error, with the cause given. -/
theorem State.ringsFail_mem {i : Nat} {r : Ring} {l : List Nat} (hi : i ∈ l) (h : tget s.rings i = some r)
    (hr : r.state = .enabled ∨ r.state = .draining) (cause : Nat) :
    ∃ q, tget (s.ringsFail l cause).rings i = some q ∧ q.state = .error ∧ q.cause = cause := by
  induction l generalizing s with
  | nil => exact absurd hi List.not_mem_nil
  | cons j t ih =>
    by_cases hij : i = j
    · subst hij
      exact ⟨_, State.ringsFail_error (State.ringFail_self h hr cause) rfl t cause, rfl, rfl⟩
    · exact ih ((List.mem_cons.mp hi).resolve_left hij) ((State.ringFail_other hij cause).trans h)

variable (s)

theorem State.ringsFail_only (l : List Nat) (cause : Nat) : Only [.out, .regs, .rings, .ringErr] s (s.ringsFail l cause) :=
  Only.foldl (fun u r => u.ringFail_only r cause) l s

theorem mem_of_tget {α : Type} {m : Tab α} {i : Nat} {x : α} (h : tget m i = some x) : (i, x) ∈ m := by
  induction m with
  | nil => cases h
  | cons e t ih =>
    obtain ⟨k, v⟩ := e
    unfold tget at h
    split at h
    · next hk =>
      cases h
      exact hk ▸ List.mem_cons_self
    · exact List.mem_cons_of_mem _ (ih h)

/-! ### A tenancy's fatal error (R647) -/

theorem State.ten_congr {s t : State} (h : s.tenancies = t.tenancies) (i : Nat) : t.ten i = s.ten i := by
  unfold State.ten
  rw [h]

/-- The tenancies after one of them has been replaced. -/
theorem State.ten_tset {n : Nat} (hn : 0 < n) (x : Tenancy) (i : Nat) :
    ({ s with tenancies := tset s.tenancies n x } : State).ten i = if i = n then x else s.ten i := by
  unfold State.ten
  by_cases h : i = n
  · subst h
    rw [if_neg (by omega), if_pos rfl, tgetD_tset_same]
  · rw [tgetD_tset_ne _ h, if_neg h]

/-- The rings of a tenancy. -/
def State.ringsOf (s : State) (n : Nat) : List Nat := (s.rings.filter (fun r => r.2.tenancy == n)).map (·.1)

variable {s}

theorem State.mem_ringsOf {i n : Nat} {r : Ring} (h : tget s.rings i = some r) (hr : r.tenancy = n) : i ∈ s.ringsOf n :=
  List.mem_map.mpr ⟨(i, r), List.mem_filter.mpr ⟨mem_of_tget h, beq_iff_eq.mpr hr⟩, rfl⟩

/-- A tenancy marked fatal. -/
def State.markFatal (s : State) (n : Nat) : State := { s with tenancies := tset s.tenancies n { s.ten n with fatal := true } }

theorem State.tenancyFatal_eq {n : Nat} (hn : 0 < n) :
    s.tenancyFatal n = ((s.ringsFail (s.ringsOf n) 4).markFatal n).setFlag 0x0040010 10 := if_neg (by omega)

/-- What a fatal error of a tenancy does: its rings in service are in error with cause 4, the tenancy is fatal, the others stay. -/
structure State.FatalOf (n : Nat) (s t : State) : Prop where
  only   : Only [.out, .regs, .tenancies, .rings, .ringErr] s t
  ten    : t.ten n = { s.ten n with fatal := true }
  flag   : t.flag 0x0040010 10 = true
  others : ∀ i, i ≠ n → t.ten i = s.ten i
  rings  : ∀ i r, tget s.rings i = some r → r.tenancy = n → r.state = .enabled ∨ r.state = .draining →
    ∃ q, tget t.rings i = some q ∧ q.state = .error ∧ q.cause = 4

theorem State.fatalOf_tenancyFatal (s : State) {n : Nat} (hn : 0 < n) : State.FatalOf n s (s.tenancyFatal n) := by
  rw [State.tenancyFatal_eq hn]
  have hu := s.ringsFail_only (s.ringsOf n) 4
  have hten := State.ten_congr (hu .tenancies (by decide))
  have hrings (i : Nat) (r : Ring) (h : tget s.rings i = some r) (hr : r.tenancy = n) (hs : r.state = .enabled ∨ r.state = .draining) :=
    State.ringsFail_mem (State.mem_ringsOf h hr) h hs 4
  generalize s.ringsFail (s.ringsOf n) 4 = u at hu hten hrings ⊢
  have hset := (u.markFatal n).setFlag_only 0x0040010 10
  have hmark (i : Nat) : ((u.markFatal n).setFlag 0x0040010 10).ten i = if i = n then { s.ten n with fatal := true } else s.ten i := by
    rw [State.ten_congr (hset .tenancies (by decide)), ← hten i, ← hten n]
    exact u.ten_tset hn _ i
  exact {
    only := (hu.mono rfl).trans (((u.tenancies_only _).mono rfl).trans (hset.mono rfl))
    ten := (hmark n).trans (if_pos rfl)
    flag := State.flag_setFlag_same _ _ (by decide)
    others := fun i hi => (hmark i).trans (if_neg hi)
    rings := fun i r h hr hs => by
      rw [← hset .rings (by decide)]
      exact hrings i r h hr hs }

variable (s)

/-! ### Stacks and channels that are lost (R446–R448) -/

theorem State.takeSpare_only (stack : Nat) : Only [.mem, .health] s (s.takeSpare stack) :=
  s.memHealth_only _ _

/-- A stack that is out of service without a spare in its place. -/
def State.dropStack (s : State) (stack : Nat) : State := { s with mem := { s.mem with hbmUp := s.mem.hbmUp.filter (· != stack) } }

theorem State.loseStack_only (stack : Nat) : Only [.freeCount, .poison, .hbmCache] s (s.loseStack stack) := by
  intro p hp; cases p
  case freeCount | poison | hbmCache => simp at hp
  all_goals rfl

/-- Of a stack that was not being copied, every line is poison. -/
theorem State.loseStack_poison {stack : Nat} (h : s.mem.copying ≠ some stack) {i : Nat} (hi : i < stackLines) :
    (s.loseStack stack).poison.contains ((stackRange (s.logicalStack stack)).1 / 64 + i) = true := by
  have hc : (s.mem.copying == some stack) = false := beq_eq_false_iff_ne.mpr h
  unfold State.loseStack
  rw [hc]
  simp only [List.contains_iff_mem, List.mem_append, List.mem_filterMap]
  exact .inl (.inr ⟨i, List.mem_range.mpr hi, rfl⟩)

/-- What the loss of lines touches: their poison, and the error log. -/
def lossParts : List Part := [.out, .regs, .counters, .poison, .errs]

theorem State.losePlain_only (ext stripe : Nat) : Only lossParts s (s.losePlain ext stripe) :=
  Only.foldl (fun u _ => Only.ite (fun _ => Only.refl _ u)
    (fun _ => ((u.addPoison_only _).mono rfl).trans ((State.logError_only _ _ _ _ _ _ _ _ _ _).mono rfl))) _ s

theorem State.loseCopies_only (ch ext copy : Nat) : Only (.freeCount :: .extents :: lossParts) s (s.loseCopies ch ext copy) := by
  have stripes (u : State) (l : List Nat) : Only (.freeCount :: .extents :: lossParts) u (l.foldl (fun s i => s.losePlain ext i) u) :=
    Only.foldl (fun u i => (u.losePlain_only ext i).mono rfl) l u
  unfold State.loseCopies
  dsimp only
  refine ((s.freeCount_only _).mono rfl).trans (((State.drawn_only _).mono rfl).trans ((stripes _ _).trans
    (((State.extents_only _ _).mono rfl).trans (Only.ite (fun _ => Only.refl _ _) (fun _ => (State.logError_only _ _ _ _ _ _ _ _ _ _).mono rfl)))))

theorem State.loseOthers_only (ch : Nat) : Only [.freeCount, .poison] s (s.loseOthers ch) :=
  ((s.freeCount_only _).mono rfl).trans (Only.foldl (fun u l => (u.addPoison_only l).mono rfl) _ _)

end

end Sys2Proof.Machine
end

section
/-!
Health, heat and errors: what each of their commands does, one law per case, and the statement of O59 put together from them.
-/

namespace Sys2Proof.Machine

/-- What a record in the error log touches. -/
def loggedParts : List Part := [.out, .regs, .counters, .errs]

section
variable {s : State}

/-! ### HBM stacks (R20, R446, R447) -/

/-- The state in which a stack has begun to be copied to the spare. -/
def State.copyBegun (s : State) (stack : Nat) : State := { s with mem := { s.mem with copying := some stack, copyFrame := s.frame } }

theorem hbmRetire_starts {k : Nat} (hu : s.mem.hbmUp.contains k = true) (hk : k ≠ s.mem.spare) (hf : s.spareFree = true)
    (hc : s.mem.copying = none) (ht : (s.stored 0x0200008).toNat % 2 ^ 32 < s.corrected 2 k) :
    Does (.hbmRetire k) s (plus [.mem, .svcPrev] loggedParts) (fun t =>
      t.mem = { s.mem with copying := some k, copyFrame := s.frame } ∧ bit t.svcCauses 1 = true) := by
  have e : hbmRetireSt k s = ((s.copyBegun k).logError 0 2 3 none k 0 0 0 s.mem.spare).reviewSvc :=
    if_pos (by rw [hu, bne_iff_ne.mpr hk, hf, hc, decide_eq_true ht]; rfl)
  have ho := (s.copyBegun k).logReview_only 0 2 3 none k 0 0 0 s.mem.spare
  have hmem := (ho .mem (by decide)).symm
  refine Does.of_eq rfl e (((s.mem_only _).mono rfl).trans (ho.mono rfl)) ⟨hmem, ?_⟩
  rw [State.svcCauses_hbm, hmem]
  exact Bool.or_true _

theorem hbmRetire_below {k : Nat} (ht : s.corrected 2 k ≤ (s.stored 0x0200008).toNat % 2 ^ 32) :
    Does (.hbmRetire k) s [] (fun _ => True) :=
  Does.nothing rfl (if_neg (by rw [decide_eq_false (Nat.not_lt.mpr ht), Bool.and_false]; decide))

theorem spareTakeover_early {k : Nat} (hc : s.mem.copying = some k) (hf : s.frame ≤ s.mem.copyFrame) :
    Does .spareTakeover s [] (fun _ => True) := by
  refine Does.nothing rfl ?_
  unfold spareTakeoverSt
  rw [hc]
  exact if_neg (Nat.not_lt.mpr hf)

/-- Once the spare stands for a stack, the cause HBM holds. -/
theorem State.svcCauses_replaced {t : State} {k : Nat} (h : t.mem.replaced = some k) : bit t.svcCauses 1 = true := by
  rw [State.svcCauses_hbm, h]
  rfl

theorem spareTakeover_ends {k : Nat} (hc : s.mem.copying = some k) (hf : s.mem.copyFrame < s.frame) :
    Does .spareTakeover s [.out, .regs, .mem, .health, .svcPrev] (fun t =>
      t.mem = { s.mem with replaced := some k, copying := none, hbmUp := s.mem.hbmUp.filter (· != k) } ∧
        t.health.stack = some (k, s.mem.spare) ∧ bit t.svcCauses 1 = true) := by
  have e : spareTakeoverSt s = (s.takeSpare k).reviewSvc := by
    unfold spareTakeoverSt
    rw [hc]
    exact if_pos hf
  have ho := (s.takeSpare k).reviewSvc_only
  have hmem := (ho .mem (by decide)).symm
  have hhealth := (ho .health (by decide)).symm
  refine Does.of_eq rfl e (((s.takeSpare_only k).mono rfl).trans (ho.mono rfl))
    ⟨hmem, ?_, State.svcCauses_replaced (congrArg Memories.replaced hmem)⟩
  rw [hhealth]
  rfl

/-- A stack in service fails that is not an unused spare: its lines are lost, and the spare takes its place where it can. -/
theorem hbmStackFailSt_lost {k : Nat} (hu : s.mem.hbmUp.contains k = true) (hk : k = s.mem.spare → s.mem.replaced.isSome = true) :
    hbmStackFailSt k s = ((if s.spareFree then (s.loseStack k).takeSpare k else (s.loseStack k).dropStack k).logError
      1 2 4 none k 0 0 0 0).reviewSvc := by
  have hn : ¬ (k = s.mem.spare ∧ s.mem.replaced.isNone = true) := fun ⟨h, hr⟩ => by
    simpa [Option.isNone_iff_eq_none.mp hr] using hk h
  unfold hbmStackFailSt
  rw [if_neg (by rw [hu]; decide)]
  exact if_neg hn

theorem hbmStackFail_spared {k : Nat} (hu : s.mem.hbmUp.contains k = true) (hk : k ≠ s.mem.spare) (hf : s.spareFree = true)
    (hc : s.mem.copying = none) :
    Does (.hbmStackFail k) s (plus [.freeCount, .poison, .hbmCache, .mem, .health, .svcPrev] loggedParts) (fun t =>
      t.mem = { s.mem with replaced := some k, copying := none, hbmUp := s.mem.hbmUp.filter (· != k) } ∧
        t.health.stack = some (k, s.mem.spare) ∧ bit t.svcCauses 1 = true ∧
        ∀ i, i < stackLines → t.poison.contains ((stackRange (s.logicalStack k)).1 / 64 + i) = true) := by
  have e := hbmStackFailSt_lost hu (fun h => absurd h hk)
  rw [hf, if_pos rfl] at e
  have hl := s.loseStack_only k
  have ht := (s.loseStack k).takeSpare_only k
  have ho := ((s.loseStack k).takeSpare k).logReview_only 1 2 4 none k 0 0 0 0
  have hmem := (ho .mem (by decide)).symm
  have hhealth := (ho .health (by decide)).symm
  have hpoison := (ho .poison (by decide)).symm
  refine Does.of_eq rfl e ((hl.mono rfl).trans ((ht.mono rfl).trans (ho.mono rfl))) ⟨hmem, ?_,
    State.svcCauses_replaced (congrArg Memories.replaced hmem), fun i hi => ?_⟩
  · rw [hhealth]
    rfl
  · rw [hpoison]
    exact s.loseStack_poison (by simp [hc]) hi

theorem hbmStackFail_unspared {k : Nat} (hu : s.mem.hbmUp.contains k = true) (hk : k = s.mem.spare → s.mem.replaced.isSome = true)
    (hf : s.spareFree = false) :
    Does (.hbmStackFail k) s (plus [.freeCount, .poison, .hbmCache, .mem, .svcPrev] loggedParts) (fun t =>
      t.mem = { s.mem with hbmUp := s.mem.hbmUp.filter (· != k) }) := by
  have e := hbmStackFailSt_lost hu hk
  rw [hf, if_neg (by decide)] at e
  have ho := ((s.loseStack k).dropStack k).logReview_only 1 2 4 none k 0 0 0 0
  exact Does.of_eq rfl e (((s.loseStack_only k).mono rfl).trans (((State.mem_only _ _).mono rfl).trans (ho.mono rfl)))
    (ho .mem (by decide)).symm

/-- An unused spare that has failed. -/
def State.spareLost (s : State) (k : Nat) : State :=
  { s with mem := { s.mem with copying := none, hbmUp := s.mem.hbmUp.filter (· != k) }, health := { s.health with stack := some (k, k) } }

theorem hbmStackFail_unused {k : Nat} (hu : s.mem.hbmUp.contains k = true) (hk : k = s.mem.spare) (hr : s.mem.replaced = none) :
    Does (.hbmStackFail k) s (plus [.mem, .health] loggedParts) (fun t =>
      t.mem = { s.mem with copying := none, hbmUp := s.mem.hbmUp.filter (· != k) } ∧ t.health.stack = some (k, k)) := by
  have e : hbmStackFailSt k s = (s.spareLost k).logError 1 2 4 none k 0 0 0 0 := by
    unfold hbmStackFailSt
    rw [if_neg (by rw [hu]; decide)]
    exact if_pos ⟨hk, by rw [hr]; rfl⟩
  have ho := (s.spareLost k).logError_only 1 2 4 none k 0 0 0 0
  refine Does.of_eq rfl e (((s.memHealth_only _ _).mono rfl).trans (ho.mono rfl)) ⟨(ho .mem (by decide)).symm, ?_⟩
  rw [← ho .health (by decide)]
  rfl

theorem hbmSpareWrite_takes {mp : MgmtPort} {v : Reg} (hs : setUp s mp) (hm : s.mem.mapped = false) (hr : s.mem.replaced = none)
    (hv : v.toNat % 16 < 12) :
    Does (.hbmSpareWrite mp v) s [.mem] (fun t => t.mem = { s.mem with spare := v.toNat % 16 }) :=
  Does.of_eq rfl ((State.setup_of hs _).trans (if_neg (by simp [hm, hr, hv]))) (s.mem_only _) rfl

theorem hbmSpareWrite_closed {mp : MgmtPort} {v : Reg} (hs : setUp s mp) (hm : s.mem.mapped = true) :
    Does (.hbmSpareWrite mp v) s [] (fun _ => True) :=
  Does.nothing rfl ((State.setup_of hs _).trans (if_pos (by simp [hm])))

/-! ### DDR channels (R448) -/

/-- The state in which a failed channel has left service. -/
def State.channelOut (s : State) (c : Nat) : State :=
  { s with
    mem := { s.mem with ddrUp := s.mem.ddrUp.filter (· != c), noMargin := s.mem.noMargin.filter (· != c) }
    health := { s.health with ddrOut := s.health.ddrOut ++ [c] } }

/-- What a failed channel held of every extent lost, and of what else lies in its die's DDR. -/
def State.loseChannel (s : State) (c : Nat) : State :=
  ((s.extents.map (·.1)).foldl (fun s e => (s.loseCopies c e 0).loseCopies c e 1) s).loseOthers c

theorem State.loseChannel_only (s : State) (c : Nat) : Only (.freeCount :: .extents :: lossParts) s (s.loseChannel c) :=
  (Only.foldl (fun u e => (u.loseCopies_only c e 0).trans (State.loseCopies_only _ c e 1)) _ s).trans ((State.loseOthers_only _ c).mono rfl)

theorem ddrChannelFail_out {c : Nat} (hu : s.mem.ddrUp.contains c = true) :
    Does (.ddrChannelFail c true) s (plus [.freeCount, .poison, .extents, .mem, .health, .svcPrev] loggedParts) (fun t =>
      t.mem = { s.mem with ddrUp := s.mem.ddrUp.filter (· != c), noMargin := s.mem.noMargin.filter (· != c) } ∧
        t.health.ddrOut = s.health.ddrOut ++ [c] ∧ bit t.svcCauses 2 = true) := by
  let u := ((s.channelOut c).logError 1 3 4 none c 0 0 0 0).loseChannel c
  have e : ddrChannelFailSt c true s = u.reviewSvc := by
    unfold ddrChannelFailSt
    rw [if_neg (by rw [hu]; decide)]
    rfl
  have ho : Only [.freeCount, .poison, .extents, .svcPrev, .out, .regs, .counters, .errs] (s.channelOut c) u.reviewSvc :=
    ((State.logError_only _ _ _ _ _ _ _ _ _ _).mono rfl).trans (((State.loseChannel_only _ _).mono rfl).trans
      ((State.reviewSvc_only _).mono rfl))
  have hout : u.reviewSvc.health.ddrOut = s.health.ddrOut ++ [c] := by
    rw [← ho .health (by decide)]
    rfl
  refine Does.of_eq rfl e (((s.memHealth_only _ _).mono rfl).trans (ho.mono rfl)) ⟨(ho .mem (by decide)).symm, hout, ?_⟩
  rw [State.svcCauses_ddr, hout]
  simp

/-- The state in which a channel has lost its margin. -/
def State.marginLost (s : State) (c : Nat) : State := { s with mem := { s.mem with noMargin := s.mem.noMargin ++ [c] } }

theorem ddrChannelFail_margin {c : Nat} (hu : s.mem.ddrUp.contains c = true) (hn : s.mem.noMargin.contains c = false) :
    Does (.ddrChannelFail c false) s (plus [.mem, .svcPrev] loggedParts) (fun t =>
      t.mem = { s.mem with noMargin := s.mem.noMargin ++ [c] } ∧ bit t.svcCauses 2 = true) := by
  have e : ddrChannelFailSt c false s = ((s.marginLost c).logError 0 3 3 none c 0 0 0 0).reviewSvc := by
    unfold ddrChannelFailSt
    rw [if_neg (by rw [hu]; decide), if_neg (by decide)]
    exact if_neg (by rw [hn]; decide)
  have ho := (s.marginLost c).logReview_only 0 3 3 none c 0 0 0 0
  have hmem := (ho .mem (by decide)).symm
  refine Does.of_eq rfl e (((s.mem_only _).mono rfl).trans (ho.mono rfl)) ⟨hmem, ?_⟩
  rw [State.svcCauses_ddr, hmem]
  simp [State.marginLost]

/-! ### Heat (R657, R703, R704) -/

theorem State.warnC_le (s : State) : s.warnC ≤ 105 := min_le_left _ _

/-- The sensors' reading taken, without the flag of its event. -/
def State.reading (s : State) (maxC : Nat) : State := { s with power := { s.power with maxC, thermWarn := decide (s.warnC ≤ maxC) } }

theorem State.heat_only (s : State) (maxC : Nat) : Only [.out, .regs] (s.reading maxC) (s.heat maxC) := by
  unfold State.heat
  dsimp only
  exact Only.ite (fun _ => State.setFlag_only _ _ _) (fun _ => Only.refl _ _)

/-- Below WARN_C a reading is all that is taken. -/
theorem State.heat_cool {maxC : Nat} (h : maxC < s.warnC) : s.heat maxC = s.reading maxC :=
  if_neg (by simp [Nat.not_le.mpr h])

/-- At WARN_C and above, THERM_WARN is set; the flag is set when it had been clear. -/
theorem State.heat_warm {maxC : Nat} (h : s.warnC ≤ maxC) : (s.heat maxC).power = { s.power with maxC, thermWarn := true } := by
  rw [← s.heat_only maxC .power (by decide)]
  unfold State.reading
  rw [decide_eq_true h]

theorem State.heat_flag {maxC : Nat} (h : s.warnC ≤ maxC) (hw : s.power.thermWarn = false) : (s.heat maxC).flag hltTherm 9 = true := by
  have e : s.heat maxC = (s.reading maxC).setFlag hltTherm 9 := if_pos (by simp [h, hw])
  rw [e]
  exact State.flag_setFlag_same _ _ (by decide)

/-- A reading taken, and the throttle raised to a degree. -/
theorem State.throttled_only (s : State) (maxC n : Nat) : Only [.out, .power, .regs] s ((s.heat maxC).throttleTo n) :=
  ((s.power_only _).mono rfl).trans (((s.heat_only maxC).mono rfl).trans ((State.power_only _ _).mono rfl))

theorem State.throttled_power {maxC : Nat} (h : s.warnC ≤ maxC) (n : Nat) : ((s.heat maxC).throttleTo n).power =
    { s.power with maxC, thermWarn := true, throttle := max n s.power.throttle } := by
  unfold State.throttleTo
  rw [State.heat_warm h]

theorem thermWarn_does {maxC : Nat} (h : s.warnC ≤ maxC) :
    Does (.thermWarn maxC) s [.out, .power, .regs] (fun t =>
      t.power = { s.power with maxC, thermWarn := true, throttle := max 1 s.power.throttle } ∧
        (s.power.thermWarn = false → t.flag hltTherm 9 = true)) :=
  Does.of_eq rfl (if_pos h) (s.throttled_only maxC 1) ⟨State.throttled_power h 1, State.heat_flag h⟩

/-- At 110 °C and above the throttle is raised to its second degree, with the event when it had been lower. -/
theorem thermEscalateSt_eq {maxC : Nat} (h : 110 ≤ maxC) : thermEscalateSt maxC s =
    if s.power.throttle < 2 then ((s.heat maxC).throttleTo 2).raiseNmi 2 else (s.heat maxC).throttleTo 2 := if_pos h

theorem thermEscalateSt_nmi {maxC : Nat} (h : 110 ≤ maxC) : Only [.out, .regs] ((s.heat maxC).throttleTo 2) (thermEscalateSt maxC s) := by
  rw [thermEscalateSt_eq h]
  exact Only.ite (fun _ => State.raiseNmi_only _ 2) (fun _ => Only.refl _ _)

theorem thermEscalateSt_only {maxC : Nat} (h : 110 ≤ maxC) : Only [.out, .power, .regs] s (thermEscalateSt maxC s) :=
  (s.throttled_only maxC 2).trans ((thermEscalateSt_nmi h).mono rfl)

theorem thermEscalate_does {maxC : Nat} (h : 110 ≤ maxC) :
    Does (.thermEscalate maxC) s [.out, .power, .regs] (fun t =>
      t.power = { s.power with maxC, thermWarn := true, throttle := max 2 s.power.throttle } ∧
        (s.power.throttle < 2 → t.flag nmiOff 2 = true)) := by
  refine Does.of_eq rfl rfl (thermEscalateSt_only h) ⟨?_, fun ht => ?_⟩
  · have hw : s.warnC ≤ maxC := by have := s.warnC_le; omega
    rw [← thermEscalateSt_nmi h .power (by decide)]
    exact State.throttled_power hw 2
  · rw [thermEscalateSt_eq h, if_pos ht]
    exact State.flag_raiseNmi _ (by decide)

/-- THERM_TRIP_N asserted. -/
def State.tripped (s : State) : State := { s with power := { s.power with thermTrip := true } }

theorem thermTrip_does {maxC : Nat} (h : 115 ≤ maxC) (ht : s.power.thermTrip = false) :
    Does (.thermTrip maxC) s (plus [.power] loggedParts) (fun t =>
      t.power.thermTrip = true ∧ t.power.fatal = true ∧ t.power.devReady = false ∧ t.flag nmiOff 1 = true) := by
  let u := (thermEscalateSt maxC s).tripped.logError 3 13 3 none 0 0 0 0 0
  have e : thermTripSt maxC s = u.deviceFatal := if_pos ⟨h, ht⟩
  have hu : Only loggedParts (thermEscalateSt maxC s).tripped u := State.logError_only _ _ _ _ _ _ _ _ _ _
  have hnmi : Only [.out, .regs] u (u.raiseNmi 1) := u.raiseNmi_only 1
  refine Does.of_eq rfl e ?_ ⟨?_, rfl, rfl, State.flag_raiseNmi _ (by decide)⟩
  · exact ((thermEscalateSt_only (by omega)).mono rfl).trans (((State.power_only _ _).mono rfl).trans
      ((hu.mono rfl).trans (u.deviceFatal_only.mono rfl)))
  · exact congrArg Power.thermTrip ((hu .power (by decide)).trans (hnmi .power (by decide))).symm

/-- Below WARN_C the throttle ends, or falls by a degree. -/
theorem thermClear_cool {maxC n : Nat} (h : maxC < s.warnC) (hn : n = if maxC + 5 < s.warnC then 0 else min 1 s.power.throttle) :
    Does (.thermClear maxC) s [.power] (fun t => t.power = { s.power with maxC, thermWarn := false, throttle := n }) := by
  have hw := s.warnC_le
  have hcool : ¬ (s.power.throttle = 2 ∧ 105 ≤ maxC) := by omega
  have hwarn : decide (s.warnC ≤ maxC) = false := decide_eq_false (by omega)
  have e : thermClearSt maxC s = { s with power := { s.power with maxC, thermWarn := false, throttle := n } } := by
    unfold thermClearSt
    simp only [State.heat_cool h, State.reading, hwarn, if_neg hcool, hn, decide_eq_true_eq]
  exact Does.of_eq rfl e (s.power_only _) rfl

/-! ### Detected errors (R646–R650) -/

section
variable (source code unit kind id info : Nat) (ten : Option Nat)

theorem errorDetected_corrected (a : Nat) :
    Does (.errorDetected 0 source code ten unit a kind id info) s loggedParts (fun _ => True) :=
  Does.of_eq rfl rfl (s.logError_only _ _ _ _ _ _ _ _ _) trivial

theorem State.spoil_memory (s : State) {a : Nat} (ha : a < 2 * 2 ^ 48) : s.spoil (logical a) = s.addPoison (lineOf a) := by
  have hsub : logical a - 3 * 2 ^ 62 = a := Nat.add_sub_cancel_left _ _
  unfold State.spoil
  dsimp only
  rw [hsub, if_neg (by unfold logical; omega), if_neg (by omega)]

theorem errorDetected_poisons {a : Nat} (ha : a < 2 * 2 ^ 48) :
    Does (.errorDetected 1 source code ten unit (logical a) kind id info) s (plus [.poison] loggedParts)
      (fun t => t.poison.contains (lineOf a) = true) := by
  let u := s.logError 1 source code ten unit (logical a) kind id info
  have e : errorDetectedSt 1 source code ten unit (logical a) kind id info s =
      (u.addPoison (lineOf a)).emit (.corrEvent source unit) := congrArg (fun w => w.emit (.corrEvent source unit)) (u.spoil_memory ha)
  have ho := (u.addPoison (lineOf a)).emit_only (.corrEvent source unit)
  refine Does.of_eq rfl e ?_ ?_
  · exact ((s.logError_only _ _ _ _ _ _ _ _ _).mono rfl).trans (((u.addPoison_only _).mono rfl).trans (ho.mono rfl))
  · rw [← ho .poison (by decide)]
    exact u.addPoison_contains _

theorem errorDetected_tenancy {n : Nat} (hn : 0 < n) (a : Nat) :
    Does (.errorDetected 2 source code (some n) unit a kind id info) s (plus [.tenancies, .rings, .ringErr] loggedParts) (fun t =>
      t.ten n = { s.ten n with fatal := true } ∧ t.flag 0x0040010 10 = true ∧ (∀ i, i ≠ n → t.ten i = s.ten i) ∧
        ∀ i r, tget s.rings i = some r → r.tenancy = n → r.state = .enabled ∨ r.state = .draining →
          ∃ q, tget t.rings i = some q ∧ q.state = .error ∧ q.cause = 4) := by
  have hlog := s.logError_only 2 source code (some n) unit a kind id info
  let u := s.logError 2 source code (some n) unit a kind id info
  obtain ⟨only, ten, flag, others, rings⟩ := u.fatalOf_tenancyFatal hn
  have hemit := (u.tenancyFatal n).emit_only (.corrEvent source unit)
  have hten (i : Nat) : ((u.tenancyFatal n).emit (.corrEvent source unit)).ten i = (u.tenancyFatal n).ten i :=
    State.ten_congr (hemit .tenancies (by decide)) i
  have hten' (i : Nat) : u.ten i = s.ten i := State.ten_congr (hlog .tenancies (by decide)) i
  refine Does.of_eq (u := (u.tenancyFatal n).emit (.corrEvent source unit)) rfl rfl ?_ ⟨?_, ?_, fun i hi => ?_, ?_⟩
  · exact (hlog.mono rfl).trans ((only.mono rfl).trans (hemit.mono rfl))
  · rw [hten, ten, hten']
  · exact (State.flag_congr (State.emit_stored _ _ _) 10).trans flag
  · rw [hten, others i hi, hten']
  · intro i r h
    rw [← hemit .rings (by decide)]
    exact rings i r ((congrArg (tget · i) (hlog .rings (by decide))).symm.trans h)

theorem errorDetected_device (a : Nat) :
    Does (.errorDetected 3 source code ten unit a kind id info) s (plus [.power] loggedParts) (fun t =>
      t.power.devReady = false ∧ t.power.fatal = true ∧ t.flag nmiOff 1 = true) :=
  Does.of_eq rfl rfl (((s.logError_only _ _ _ _ _ _ _ _ _).mono rfl).trans ((State.deviceFatal_only _).mono rfl))
    ⟨rfl, rfl, State.flag_raiseNmi _ (by decide)⟩

end

/-! ### Loopbacks and repairs (R639–R642) -/

/-- The loopback that a value of HLT_LB_CMD asks for. -/
def loopbackOf (v : Reg) : Loopback :=
  { iface := bits v.toNat 3 0, index := bits v.toNat 15 8, depth := bits v.toNat 19 16, log2 := bits v.toNat 31 24 }

theorem hltLbCmd_starts {mp : MgmtPort} {v : Reg} {l : Loopback} (hs : setUp s mp) (hl : l = loopbackOf v)
    (hd : l.depth < loopDepths l.iface) (hi : l.index < loopCount l.iface) (hidle : s.idleIface mp l.iface l.index = true)
    (hn : s.loop = none) :
    Does (.hltLbCmd mp v) s [.loop, .lbResult] (fun t => t.loop = some l ∧ t.lbResult = 0) := by
  subst hl
  have hc : (decide ((loopbackOf v).depth < loopDepths (loopbackOf v).iface) && decide ((loopbackOf v).index < loopCount (loopbackOf v).iface) &&
      s.idleIface mp (loopbackOf v).iface (loopbackOf v).index && s.loop.isNone) = true := by
    rw [decide_eq_true hd, decide_eq_true hi, hidle, hn]
    rfl
  exact Does.of_eq rfl ((State.setup_of hs _).trans (if_pos hc)) (s.loopResult_only _ _) ⟨rfl, rfl⟩

theorem hltLbCmd_refused {mp : MgmtPort} {v : Reg} {l : Loopback} (hs : setUp s mp) (hl : l = loopbackOf v)
    (h : loopDepths l.iface ≤ l.depth ∨ s.idleIface mp l.iface l.index = false) :
    Does (.hltLbCmd mp v) s [.out, .regs] (fun t => t.flag 0x0A00060 0 = true) := by
  subst hl
  have hc : ¬ ((decide ((loopbackOf v).depth < loopDepths (loopbackOf v).iface) &&
      decide ((loopbackOf v).index < loopCount (loopbackOf v).iface) &&
      s.idleIface mp (loopbackOf v).iface (loopbackOf v).index && s.loop.isNone) = true) := by
    simp only [Bool.and_eq_true, decide_eq_true_eq]
    rintro ⟨⟨⟨hd, -⟩, hi⟩, -⟩
    rcases h with h | h
    · omega
    · rw [hi] at h
      cases h
  exact Does.of_eq rfl ((State.setup_of hs _).trans (if_neg hc)) (s.setFlag_only _ _) (s.flag_setFlag_same _ (by decide))

theorem loopbackEnd_does {l : Loopback} (h : s.loop = some l) (compared errors : Nat) :
    Does (.loopbackEnd compared errors) s [.loop, .lbResult] (fun t => t.loop = none ∧
      t.lbResult.toNat % 4 = (if l.passes compared errors then 1 else 2) ∧ t.lbResult.toNat / 2 ^ 32 = min errors (2 ^ 32 - 1)) := by
  have hs : loopbackEndSt compared errors s = { s with
      loop := none
      lbResult := BitVec.ofNat 64
        (min errors (2 ^ 32 - 1) * 2 ^ 32 + compared % 256 * 2 ^ 8 + (if l.passes compared errors then 1 else 2)) } := by
    unfold loopbackEndSt
    rw [h]
  have hv : (if l.passes compared errors then 1 else 2) < 4 := by split <;> decide
  refine Does.of_eq rfl hs (s.loopResult_only _ _) ⟨rfl, ?_, ?_⟩
  all_goals
    rw [BitVec.toNat_ofNat]
    omega

theorem hltRepairClr_does {mp : MgmtPort} {v : Reg} (hs : setUp s mp) :
    Does (.hltRepairClr mp v) s [.health] (fun t => t.health = { s.health with clearDdr := t.health.clearDdr } ∧
      ∀ i, i < 16 → (t.health.clearDdr.contains i = true ↔ s.health.clearDdr.contains i = true ∨ bit v.toNat i = true)) := by
  refine Does.of_eq rfl (State.setup_of hs _) (s.health_only _) ⟨rfl, fun i hi => ?_⟩
  simp [hi]

end

/-- Settles O59: each clause is the law of its command. -/
theorem healthHeatAndErrors : Obligations.HealthHeatAndErrors := by
  unfold Obligations.HealthHeatAndErrors
  intro mp k c maxC source code unit a kind id info compared errors ten v l s
  dsimp only
  refine ⟨fun hu hk hf hc => ⟨hbmRetire_starts hu hk hf hc, hbmRetire_below, hbmStackFail_spared hu hk hf hc⟩,
    spareTakeover_early, spareTakeover_ends, hbmStackFail_unspared, hbmStackFail_unused,
    fun hu => ⟨ddrChannelFail_out hu, ddrChannelFail_margin hu⟩,
    fun hs => ⟨hbmSpareWrite_takes hs, hbmSpareWrite_closed hs, hltRepairClr_does hs,
      fun hl => ⟨hltLbCmd_starts hs hl, hltLbCmd_refused hs hl⟩⟩,
    fun h => loopbackEnd_does h compared errors, thermWarn_does, thermEscalate_does, thermTrip_does,
    fun h => thermClear_cool (by omega) (if_pos h).symm, fun h h5 _ => thermClear_cool h (if_neg (by omega)).symm,
    errorDetected_corrected source code unit kind id info ten a, errorDetected_poisons source code unit kind id info ten,
    ?_, errorDetected_device source code unit kind id info ten a⟩
  · rintro n rfl hn
    exact errorDetected_tenancy source code unit kind id info hn a

end Sys2Proof.Machine
end

section
/-!
SUPPORT. Lending: what the start of a period can do, whom a unit serves, and the statement of O11 put together from them.
-/

namespace Sys2Proof.Machine

section
variable {s : State} {m o t : Nat} {queued : List Nat}

theorem mem_of_foldl_better {α : Type} (lt : α → α → Bool) (l : List α) (x : α) :
    l.foldl (fun b y => if lt y b then y else b) x ∈ x :: l := by
  induction l generalizing x with
  | nil => exact List.mem_singleton_self x
  | cons y l ih =>
    have hin := ih (if lt y x then y else x)
    by_cases h : lt y x = true
    · rw [if_pos h] at hin
      exact List.mem_cons_of_mem x (by rwa [List.foldl_cons, if_pos h])
    · rw [if_neg h] at hin
      rw [List.foldl_cons, if_neg h]
      exact (List.mem_cons.mp hin).elim (fun e => List.mem_cons.mpr (Or.inl e))
        (fun e => List.mem_cons_of_mem x (List.mem_cons_of_mem y e))

/-- The best of a list is one of it. -/
theorem mem_of_bestBy {α : Type} {lt : α → α → Bool} {l : List α} {x : α} (h : bestBy lt l = some x) : x ∈ l := by
  cases l with
  | nil => exact absurd h nofun
  | cons y l => exact Option.some.inj h ▸ mem_of_foldl_better lt l y

theorem State.nextBorrower_shared {b : Nat} (h : s.nextBorrower m queued = some b) : s.isShared b = true :=
  (List.mem_filter.mp (mem_of_bestBy h)).2

/-- All that the start of a period can do (R67): nothing, or lend it to a SHARED tenancy. -/
theorem State.startPeriod_cases (s : State) (m : Nat) (queued : List Nat) :
    s.startPeriod m queued = s ∨ ∃ b, s.isShared b = true ∧ s.startPeriod m queued = s.claim m b := by
  have borrow : (match s.nextBorrower m queued with | some b => s.claim m b | none => s) = s ∨
      ∃ b, s.isShared b = true ∧ (match s.nextBorrower m queued with | some b => s.claim m b | none => s) = s.claim m b := by
    cases h : s.nextBorrower m queued with
    | none => exact Or.inl rfl
    | some b => exact Or.inr ⟨b, State.nextBorrower_shared h, rfl⟩
  unfold State.startPeriod
  split
  · exact Or.inl rfl
  · split
    next o _ =>
      by_cases ho : s.isShared o = false
      · exact Or.inl (if_pos ho)
      · rw [if_neg ho]
        split
        · exact Or.inr ⟨o, Bool.eq_true_of_not_eq_false ho, rfl⟩
        · exact borrow
    next => exact borrow

/-- Who has taken a period keeps it until it ends. -/
theorem State.lentTo_claim (h : s.lentTo m = none) : (s.claim m o).lentTo m = some o := by
  have lent (u : State) (hl : u.slots.lent = tset s.slots.lent m (s.period m, o)) (ht : u.time = s.time) : u.lentTo m = some o := by
    have hp : u.period m = s.period m := by simp only [State.period, State.frame, ht]
    simp [State.lentTo, hl, hp]
  unfold State.claim
  rw [if_neg (by simp [h])]
  dsimp only
  split
  · exact lent _ rfl rfl
  · exact lent _ (by simp) (by simp)

/-- A STRICT owner's period serves nobody else (R70). -/
theorem State.serves_strict_owner (hl : s.lentTo m = none) (hm : s.mapOwner m (s.mapIndex m) = some o) (ho : s.isShared o = false)
    (ht : t ≠ o) : s.serves m t = false := by
  simp [State.serves, hl, hm, ho, Ne.symm ht]

/-- A STRICT tenancy borrows no period (R67). -/
theorem State.serves_strict_borrower (hl : s.lentTo m = none) (hm : s.mapOwner m (s.mapIndex m) ≠ some t) (ht : s.isShared t = false) :
    s.serves m t = false := by
  cases h : s.mapOwner m (s.mapIndex m) with
  | none => simp [State.serves, hl, h, ht]
  | some o =>
    have ho : o ≠ t := fun e => hm (e ▸ h)
    simp [State.serves, hl, h, ht, ho]

theorem State.startPeriod_strict_owner (hm : s.mapOwner m (s.mapIndex m) = some o) (ho : s.isShared o = false) :
    s.startPeriod m queued = s := by
  simp [State.startPeriod, hm, ho]

theorem State.startPeriod_strict_borrower (hl : s.lentTo m = none) (ht : s.isShared t = false) :
    (s.startPeriod m queued).lentTo m ≠ some t := by
  obtain h | ⟨b, hb, h⟩ := s.startPeriod_cases m queued
  · simp [h, hl]
  · rw [h, State.lentTo_claim hl]
    exact fun e => absurd (Option.some.inj e ▸ hb) (by simp [ht])

end

/-- Settles O11: a STRICT owner's period serves and is lent to nobody else, and a STRICT tenancy neither is served in nor takes a period
that it does not own. -/
theorem strictPeriodsAreNeverLent : Obligations.StrictPeriodsAreNeverLent := fun _ _ _ _ _ hl =>
  ⟨fun hm ho ht => ⟨State.serves_strict_owner hl hm ho ht, State.startPeriod_strict_owner hm ho⟩,
    fun hm ht => ⟨State.serves_strict_borrower hl hm ht, State.startPeriod_strict_borrower hl ht⟩⟩

end Sys2Proof.Machine
end

section
/-!
SUPPORT. Commits of the slot maps: what SLOT_COMMIT and SLOT_MAP_SWITCH do, one law per case, and the statement of O10 put together from
them.
-/

namespace Sys2Proof.Machine

section
variable {s : State} {mp : MgmtPort} {value : Reg} {c : Commit} {f : Nat}

/-- A table whose entries have been changed one by one. -/
theorem tget_map {α β : Type} (g : Nat → α → β) (m : Tab α) (i : Nat) : tget (m.map (fun e => (e.1, g e.1 e.2))) i = (tget m i).map (g i) := by
  induction m with
  | nil => rfl
  | cons e m ih =>
    by_cases h : e.1 = i
    · simp [tget, h]
    · simp [tget, h, ih]

/-- A change of the slot maps and the tenancies that leaves the waiting accesses. -/
theorem State.slotMaps_only {t : State} (ht : t = { s with slots := t.slots, tenancies := t.tenancies })
    (hw : t.slots.waits = s.slots.waits) : Only [.slots, .tenancies] s t := by
  rw [ht]
  intro p hp; cases p
  case slots => simp at hp
  case tenancies => simp at hp
  case waits => exact hw.symm
  all_goals rfl

/-- A frame that names neither the slot maps nor the waiting accesses keeps all of them. -/
theorem Only.slots_eq {ps : List Part} {t : State} (h : Only ps s t) (hs : .slots ∉ ps) (hw : .waits ∉ ps) : t.slots = s.slots := by
  have maps : { s.slots with waits := [] } = { t.slots with waits := [] } := h .slots hs
  have waits : s.slots.waits = t.slots.waits := h .waits hw
  calc t.slots = { { t.slots with waits := [] } with waits := t.slots.waits } := rfl
    _ = { { s.slots with waits := [] } with waits := s.slots.waits } := by rw [maps, waits]
    _ = s.slots := rfl

theorem State.modesOf_congr {t : State} (hs : t.slots = s.slots) (ht : t.tenancies = s.tenancies) : t.modesOf = s.modesOf := by
  unfold State.modesOf
  rw [hs, ht]

theorem State.frame_congr {t : State} (h : t.time = s.time) : t.frame = s.frame := by
  unfold State.frame
  rw [h]

/-! ### SLOT_COMMIT (R72, R73, R599) -/

/-- A tenancy that shadow maps may not name. -/
def State.badTenancy (s : State) (n : Nat) : Bool := n != 0 && (s.ten n).state != 2 && (s.ten n).state != 3

/-- The shadow maps committed with a target of the present maps' own numbering. -/
def State.commitAt (s : State) (F : Int) : State :=
  let late := decide (F ≤ (s.frame : Int))
  let s := if late then s.setFlag slotStatus 1 else s
  let c : Commit :=
    { maps := s.slots.shadow, target := if late then s.frame + 1 else F.toNat, modes := s.modesOf, slotDone := false, frameDone := false }
  { s with
    slots := { s.slots with pending := some c }
    tenancies := s.tenancies.map (fun e => (e.1, { e.2 with newMode := none })) }

theorem slotCommitSt_eq : slotCommitSt mp value s = s.setup mp fun s =>
    if (namedTenancies s.slots.shadow).any s.badTenancy then s.setFlag slotStatus 2
    else s.commitAt (extendFrame s.frame (value.toNat % 2 ^ 32)) := rfl

theorem slotCommitSt_good (hs : setUp s mp)
    (hn : (namedTenancies s.slots.shadow).all (fun t => t == 0 || (s.ten t).state == 2 || (s.ten t).state == 3) = true) :
    slotCommitSt mp value s = s.commitAt (extendFrame s.frame (value.toNat % 2 ^ 32)) := by
  have good : ¬ (namedTenancies s.slots.shadow).any s.badTenancy = true := by
    rw [List.any_eq_true]
    rintro ⟨n, hin, hbad⟩
    have hok := List.all_eq_true.mp hn n hin
    revert hok hbad
    simp +contextual [State.badTenancy]
  rw [slotCommitSt_eq, State.setup_of hs, if_neg good]

theorem State.commitAt_early {F : Int} (h : (s.frame : Int) < F) :
    Only [.slots, .tenancies] s (s.commitAt F) ∧ (s.commitAt F).slots.live = s.slots.live ∧ (s.commitAt F).slots.pending = some
      { maps := s.slots.shadow, target := F.toNat, modes := s.modesOf, slotDone := false, frameDone := false } := by
  unfold State.commitAt
  rw [decide_eq_false (Int.not_le.mpr h)]
  exact ⟨State.slotMaps_only rfl rfl, rfl, rfl⟩

theorem State.commitAt_late {F : Int} (h : F ≤ (s.frame : Int)) :
    Only [.out, .regs, .slots, .tenancies] s (s.commitAt F) ∧ (s.commitAt F).slots.live = s.slots.live ∧
      (s.commitAt F).flag slotStatus 1 = true ∧ (s.commitAt F).slots.pending = some
        { maps := s.slots.shadow, target := s.frame + 1, modes := s.modesOf, slotDone := false, frameDone := false } := by
  have ho := s.setFlag_only slotStatus 1
  have hslots := ho.slots_eq (by decide) (by decide)
  have htens := (ho .tenancies (by decide)).symm
  have htime := (ho .time (by decide)).symm
  unfold State.commitAt
  rw [decide_eq_true h]
  refine ⟨(ho.mono rfl).trans (Only.mono (State.slotMaps_only (by rfl) (by rfl)) rfl), ?_, s.flag_setFlag_same slotStatus (by decide), ?_⟩
  · exact (congrArg Slots.live hslots :)
  · change some (Commit.mk (s.setFlag slotStatus 1).slots.shadow ((s.setFlag slotStatus 1).frame + 1) (s.setFlag slotStatus 1).modesOf
      false false) = _
    rw [State.modesOf_congr hslots htens, State.frame_congr htime, hslots]

theorem slotCommit_early (hs : setUp s mp)
    (hn : (namedTenancies s.slots.shadow).all (fun t => t == 0 || (s.ten t).state == 2 || (s.ten t).state == 3) = true)
    (h : (s.frame : Int) < extendFrame s.frame (value.toNat % 2 ^ 32)) :
    Does (.slotCommit mp value) s [.slots, .tenancies] (fun t => t.slots.live = s.slots.live ∧ t.slots.pending = some
      { maps := s.slots.shadow, target := (extendFrame s.frame (value.toNat % 2 ^ 32)).toNat, modes := s.modesOf
        slotDone := false, frameDone := false }) :=
  Does.of_eq rfl (slotCommitSt_good hs hn) (State.commitAt_early h).1 (State.commitAt_early h).2

theorem slotCommit_late (hs : setUp s mp)
    (hn : (namedTenancies s.slots.shadow).all (fun t => t == 0 || (s.ten t).state == 2 || (s.ten t).state == 3) = true)
    (h : extendFrame s.frame (value.toNat % 2 ^ 32) ≤ (s.frame : Int)) :
    Does (.slotCommit mp value) s [.out, .regs, .slots, .tenancies] (fun t => t.slots.live = s.slots.live ∧ t.flag slotStatus 1 = true ∧
      t.slots.pending = some
        { maps := s.slots.shadow, target := s.frame + 1, modes := s.modesOf, slotDone := false, frameDone := false }) :=
  Does.of_eq rfl (slotCommitSt_good hs hn) (State.commitAt_late h).1 (State.commitAt_late h).2

/-- A shadow map names a tenancy that is neither bound nor tearing down. -/
theorem slotCommit_refused (hs : setUp s mp) {n : Nat} (hn : n ∈ namedTenancies s.slots.shadow) (h0 : n ≠ 0)
    (h2 : (s.ten n).state ≠ 2) (h3 : (s.ten n).state ≠ 3) :
    Does (.slotCommit mp value) s [.out, .regs] (fun t => t.flag slotStatus 2 = true) := by
  have bad : (namedTenancies s.slots.shadow).any s.badTenancy = true :=
    List.any_eq_true.mpr ⟨n, hn, by simp [State.badTenancy, h0, h2, h3]⟩
  exact Does.of_eq rfl (slotCommitSt_eq.trans ((State.setup_of hs _).trans (if_pos bad))) (s.setFlag_only _ _)
    (s.flag_setFlag_same slotStatus (by decide))

/-! ### SLOT_MAP_SWITCH (R57, R72, R596) -/

/-- A tenancy once a commit that carries a mode for it, or none, has been applied. -/
def Tenancy.moded (x : Tenancy) : Option Bool → Tenancy
  | some m => if x.state = 2 then { x with shared := m, unmoded := false } else x
  | none => x

theorem State.applyModes_tenancies (modes : Tab Bool) :
    (s.applyModes modes).tenancies = s.tenancies.map (fun e => (e.1, e.2.moded (tget modes e.1))) := rfl

/-- The mode a commit carries for a BOUND tenancy is in force once it has been applied (R596). -/
theorem State.ten_applyModes {u : State} {modes : Tab Bool} {n : Nat} {m : Bool} (hu : u.tenancies = (s.applyModes modes).tenancies)
    (hn : 0 < n) (h2 : (s.ten n).state = 2) (hm : tget modes n = some m) : u.isShared n = m ∧ (u.ten n).unmoded = false := by
  have h0 : n ≠ 0 := Nat.pos_iff_ne_zero.mp hn
  obtain ⟨x, hx, hx2⟩ : ∃ x, tget s.tenancies n = some x ∧ x.state = 2 := by
    unfold State.ten at h2
    rw [if_neg h0] at h2
    cases hx : tget s.tenancies n with
    | none => simp [tgetD, hx, Tenancy.fresh] at h2
    | some x => exact ⟨x, rfl, by simpa [tgetD, hx] using h2⟩
  have hten : u.ten n = { x with shared := m, unmoded := false } := by
    unfold State.ten
    rw [hu, if_neg h0, State.applyModes_tenancies, tgetD, tget_map (fun n x => Tenancy.moded x (tget modes n)), hx, Option.map_some, Option.getD_some, hm]
    exact if_pos hx2
  simp [State.isShared, hten, hx2]

/-- The maps of a commit taken, as far as the boundary asks for: the slot-granular ones, and the frame-granular ones. -/
def State.switched (s : State) (f : Nat) (c : Commit) (slotNow frameNow : Bool) : State :=
  let s := if slotNow then { s with slots := { s.slots with live := takeMaps s.slots.live c.maps false } }.applyModes c.modes else s
  let s := if frameNow then { s with slots := { s.slots with live := takeMaps s.slots.live c.maps true } } else s
  let c := { c with slotDone := c.slotDone || slotNow, frameDone := c.frameDone || frameNow }
  if c.slotDone && c.frameDone then { s with slots := { s.slots with pending := none, lastFrame := f % 2 ^ 32 } }
  else { s with slots := { s.slots with pending := some c } }

theorem State.switchMaps_eq (hp : s.slots.pending = some c) (f : Nat) : s.switchMaps f =
    s.switched f c (!c.slotDone && decide (c.target ≤ f)) (!c.frameDone && decide (c.target ≤ f) && f % 64 == 0) := by
  unfold State.switchMaps
  rw [hp]
  rfl

/-- Before its target a commit waits. -/
theorem State.switchMaps_early (hp : s.slots.pending = some c) (hs : c.slotDone = false) (hf : c.frameDone = false) (ht : f < c.target) :
    s.switchMaps f = s := by
  obtain ⟨maps, target, modes, slotDone, frameDone⟩ := c
  subst hs hf
  rw [State.switchMaps_eq hp, decide_eq_false (Nat.not_le.mpr ht)]
  change { s with slots := { s.slots with pending := some ⟨maps, target, modes, false, false⟩ } } = s
  rw [← hp]

/-- At its target the slot-granular maps are taken, and with a superframe the frame-granular ones. -/
theorem State.switchMaps_due (hp : s.slots.pending = some c) (hs : c.slotDone = false) (hf : c.frameDone = false) (ht : c.target ≤ f) :
    s.switchMaps f = s.switched f c true (f % 64 == 0) := by
  rw [State.switchMaps_eq hp, hs, hf, decide_eq_true ht]
  rfl

/-- Both switches keep the waiting accesses, and give the tenancies their modes. -/
theorem State.switched_only (b : Bool) :
    Only [.slots, .tenancies] s (s.switched f c true b) ∧ (s.switched f c true b).tenancies = (s.applyModes c.modes).tenancies := by
  obtain ⟨maps, target, modes, slotDone, frameDone⟩ := c
  cases slotDone <;> cases frameDone <;> cases b <;> exact ⟨State.slotMaps_only (by rfl) (by rfl), rfl⟩

theorem slotMapSwitch_early (hp : s.slots.pending = some c) (hs : c.slotDone = false) (hf : c.frameDone = false) (ht : s.frame < c.target) :
    Does .slotMapSwitch s [.slots] (fun t => t.slots = s.slots) :=
  Does.of_eq rfl (State.switchMaps_early hp hs hf ht) (Only.refl _ s) rfl

theorem slotMapSwitch_frame (hp : s.slots.pending = some c) (hs : c.slotDone = false) (hf : c.frameDone = false) (ht : c.target ≤ s.frame)
    (h64 : s.frame % 64 ≠ 0) :
    Does .slotMapSwitch s [.slots, .tenancies] (fun t => t.slots.live = takeMaps s.slots.live c.maps false ∧
      (∀ n m, 0 < n → (s.ten n).state = 2 → tget c.modes n = some m → t.isShared n = m ∧ (t.ten n).unmoded = false) ∧
      t.slots.pending = some { c with slotDone := true }) := by
  have e : slotMapSwitchSt s = s.switched s.frame c true false := by
    rw [slotMapSwitchSt, State.switchMaps_due hp hs hf ht, beq_eq_false_iff_ne.mpr h64]
  obtain ⟨ho, htens⟩ := State.switched_only (s := s) (c := c) (f := s.frame) false
  obtain ⟨maps, target, modes, slotDone, frameDone⟩ := c
  subst hs hf
  exact Does.of_eq rfl e ho ⟨rfl, fun _ _ hn h2 hm => State.ten_applyModes htens hn h2 hm, rfl⟩

theorem slotMapSwitch_superframe (hp : s.slots.pending = some c) (hs : c.slotDone = false) (hf : c.frameDone = false) (ht : c.target ≤ s.frame)
    (h64 : s.frame % 64 = 0) :
    Does .slotMapSwitch s [.slots, .tenancies] (fun t =>
      t.slots.live = takeMaps (takeMaps s.slots.live c.maps false) c.maps true ∧ t.slots.pending = none ∧
      t.slots.lastFrame = s.frame % 2 ^ 32) := by
  have e : slotMapSwitchSt s = s.switched s.frame c true true := by
    rw [slotMapSwitchSt, State.switchMaps_due hp hs hf ht, beq_iff_eq.mpr h64]
  obtain ⟨ho, -⟩ := State.switched_only (s := s) (c := c) (f := s.frame) true
  obtain ⟨maps, target, modes, slotDone, frameDone⟩ := c
  subst hs hf
  exact Does.of_eq rfl e ho ⟨rfl, rfl, rfl⟩

end

/-- Settles O10: each clause is the law of its command. -/
theorem slotMapsCommitAndSwitch : Obligations.SlotMapsCommitAndSwitch :=
  ⟨fun _ _ _ hs => ⟨fun hn => ⟨slotCommit_early hs hn, slotCommit_late hs hn⟩, fun _ hn h0 h2 h3 => slotCommit_refused hs hn h0 h2 h3⟩,
    fun _ _ hp hs hf => ⟨slotMapSwitch_early hp hs hf, slotMapSwitch_frame hp hs hf, slotMapSwitch_superframe hp hs hf⟩⟩

end Sys2Proof.Machine
end

section
/-!
SUPPORT. The refutation of O6: a switch of the reference source takes the port links down also onto the crystal, where the core PLLs are
said to coast although a source is active.
-/

namespace Sys2Proof.Machine

/-- A device in service whose clock coasts although a source is active, with the crystal usable and the link of PORT0 up. -/
def coastingOnPort : State :=
  { State.reset with
    power := { Power.reset with devReady := true }
    clock := { Clock.reset with xo := { stable := true, eligible := true, failed := false }, active := some .port0, coast := true }
    ports := [(0, { Port.fresh with up := true })] }

/-- PORT0 fails as the source: the device switches to the crystal. -/
theorem coastingOnPort_best :
    ({ coastingOnPort with clock := coastingOnPort.clock.setSrc .port0 { stable := false, eligible := false, failed := true } } :
      State).bestSource = some .xo := by decide +kernel

/-- While the clock coasts that switch takes the link of PORT0 down (Table 2.8). -/
theorem coastingOnPort_linkDown : ((sourceFailSt .port0 coastingOnPort).port 0).up = false := by decide +kernel

/-- Refutes O6: of an active source that fails in service the statement says that ports change only if the watch oscillator follows, but
not that the clock does not coast. Where it does, the switch to the crystal takes every link down too. -/
theorem not_clockSources : ¬ Obligations.ClockSources := by
  unfold Obligations.ClockSources
  rintro ⟨-, hfail, -⟩
  obtain ⟨hdoes, -⟩ := hfail .port0 .xo coastingOnPort rfl rfl
  obtain ⟨t, ht, -, -, honly, -⟩ := hdoes coastingOnPort_best
  have hports : coastingOnPort.ports = t.ports := honly (by decide) .ports (by decide)
  have hup : (coastingOnPort.port 0).up = false := by
    rw [← State.port_congr hports, ← Host.Outcome.next.inj ht]
    exact coastingOnPort_linkDown
  exact absurd hup (by decide)

end Sys2Proof.Machine
end

section
/-!
SUPPORT. How Rack Time is first set: the write of TIME_CTL and the first valid beacon, one law per case, and the statement of O7 put
together from them.
-/

namespace Sys2Proof.Machine

section
variable {s : State} {mp : MgmtPort} {value : Reg}

theorem State.time_only (x : Time) : Only [.time] s { s with time := x } := by
  intro p hp; cases p
  case time => simp at hp
  all_goals rfl

theorem State.sDie_only : Only [.freeCount, .time] s s.sDie := by
  intro p hp; cases p
  case freeCount => simp at hp
  case time => simp at hp
  all_goals rfl

theorem State.startTime_only (n : Nat) : Only [.freeCount, .time] s (s.startTime n) :=
  ((s.time_only _).mono rfl).trans State.sDie_only

/-- The register as it is once TIME_CTL has been written. -/
def State.withTimeCtl (s : State) (value : Reg) : State := { s with regs := tset s.regs timeCtl (value &&& 0xF03) }

theorem State.withTimeCtl_stored (k : Nat) : (s.withTimeCtl value).stored k = if k = timeCtl then value &&& 0xF03 else s.stored k :=
  s.stored_tset timeCtl k _

theorem State.withTimeCtl_set : (s.withTimeCtl value).stored 0x0020108 = s.stored 0x0020108 :=
  State.withTimeCtl_stored _ |>.trans (if_neg (by decide))

/-- MASTER is the bit written. -/
theorem State.withTimeCtl_master {t : State} (ht : t.regs = (s.withTimeCtl value).regs) : t.timeMaster = value.getLsbD 0 := by
  have h : t.stored timeCtl = value &&& 0xF03 := (State.stored_congr ht.symm timeCtl).trans ((State.withTimeCtl_stored _).trans (if_pos rfl))
  unfold State.timeMaster State.flag
  rw [h, BitVec.getLsbD_and]
  exact Bool.and_true _

/-- The counter loaded with the value of TIME_SET, which never moves it backward (R39, R45). -/
def State.timeLoaded (s : State) (set : Nat) : State :=
  if !s.time.valid then s.startTime set
  else if s.time.now ≤ set then s.stepTo set
  else { s with time := { s.time with slewLeft := 0 } }

/-- The timing master of its view. -/
def State.asMaster (s : State) : State := { s with time := { s.time with stratum := 0, ahead := false, holdover := false } }

/-- MASTER rises: the counter is loaded from TIME_SET. -/
theorem timeCtlWriteSt_rises (hs : setUp s mp) (hm : s.timeMaster = false) (hv : value.getLsbD 0 = true) :
    timeCtlWriteSt mp value s = ((s.withTimeCtl value).timeLoaded (s.stored 0x0020108).toNat).asMaster := by
  rw [← State.withTimeCtl_set (value := value)]
  unfold timeCtlWriteSt
  rw [State.setup_of hs]
  dsimp only
  rw [hm, hv]
  rfl

theorem timeCtlWrite_starts (hs : setUp s mp) (hm : s.timeMaster = false) (hv : value.getLsbD 0 = true) (hvalid : s.time.valid = false) :
    Does (.timeCtlWrite mp value) s [.freeCount, .time, .regs] (fun t => t.timeMaster = true ∧ t.time.valid = true ∧
      t.time.now = (s.stored 0x0020108).toNat) := by
  have e := timeCtlWriteSt_rises hs hm hv
  have hload : (s.withTimeCtl value).timeLoaded (s.stored 0x0020108).toNat = (s.withTimeCtl value).startTime (s.stored 0x0020108).toNat :=
    if_pos (by simp [State.withTimeCtl, hvalid])
  rw [hload] at e
  exact Does.of_eq rfl e (((s.regs_only _).mono rfl).trans (((State.startTime_only _).mono rfl).trans ((State.time_only _).mono rfl)))
    ⟨(State.withTimeCtl_master rfl).trans hv, rfl, rfl⟩

theorem timeCtlWrite_keeps (hs : setUp s mp) (hm : s.timeMaster = false) (hv : value.getLsbD 0 = true) (hvalid : s.time.valid = true)
    (hlow : (s.stored 0x0020108).toNat < s.time.now) :
    Does (.timeCtlWrite mp value) s [.time, .regs] (fun t => t.timeMaster = true ∧ t.time.now = s.time.now) := by
  have e := timeCtlWriteSt_rises hs hm hv
  have hload : (s.withTimeCtl value).timeLoaded (s.stored 0x0020108).toNat =
      { s.withTimeCtl value with time := { s.time with slewLeft := 0 } } :=
    (if_neg (by simp [State.withTimeCtl, hvalid])).trans (if_neg (Nat.not_le.mpr hlow))
  rw [hload] at e
  exact Does.of_eq rfl e (((s.regs_only _).mono rfl).trans (((State.time_only _).mono rfl).trans ((State.time_only _).mono rfl)))
    ⟨(State.withTimeCtl_master rfl).trans hv, rfl⟩

theorem timeCtlWrite_same (hs : setUp s mp) (hv : value.getLsbD 0 = s.timeMaster) :
    Does (.timeCtlWrite mp value) s [.regs] (fun t => t.stored timeCtl = value &&& 0xF03) := by
  have e : timeCtlWriteSt mp value s = s.withTimeCtl value := by
    unfold timeCtlWriteSt
    rw [State.setup_of hs]
    dsimp only
    rw [hv]
    cases s.timeMaster <;> rfl
  exact Does.of_eq rfl e (s.regs_only _) ((State.withTimeCtl_stored _).trans (if_pos rfl))

/-! ### The first valid beacon (R43, R537, R538) -/

/-- An echo noted for the next beacon sent on a port. -/
def State.echoed (s : State) (port : Nat) (p : Bytes) : State :=
  { s with time := { s.time with
      echo := tset s.time.echo port (fld p 0 8, s.time.now, fld p 0x18 4)
      portBeacon := if s.meetsR538 p then tset s.time.portBeacon port s.time.now else s.time.portBeacon } }

theorem State.learnView_old {view frame : Nat} (ms : List Nat) (h : view ≤ s.fabric.view) : s.learnView view frame ms = s := if_pos h

theorem State.disciplinePort_of {port : Nat} (hp : bits (s.stored timeCtl).toNat 11 8 = port) (hc : s.portClass port = 2)
    (hu : (s.port port).up = true) : s.disciplinePort = some port := by
  unfold State.disciplinePort
  simp [hp, hc, hu]

/-- The runs of beacons are counted apart from the counter. -/
theorem Time.count_valid (x : Time) (near : Bool) : (x.count near).valid = x.valid := by cases near <;> rfl

theorem Time.count_now (x : Time) (near : Bool) : (x.count near).now = x.now := by cases near <;> rfl

/-- The counter is set to the corrected value. -/
theorem State.discipline_starts {off2 : Int} {stratum : Nat} (he : off2 % 2 = 0) (hv : s.time.valid = false) :
    Only [.freeCount, .time] s (s.discipline off2 stratum) ∧ (s.discipline off2 stratum).time.valid = true ∧
      (s.discipline off2 stratum).time.now = ((s.time.now : Int) + off2 / 2).toNat := by
  unfold State.discipline
  rw [if_pos he, if_pos he]
  dsimp only
  unfold State.correct
  rw [if_pos (by simp [hv])]
  exact ⟨((s.time_only _).mono rfl).trans (((State.startTime_only _).mono rfl).trans ((State.time_only _).mono rfl)), Time.count_valid _ _,
    Time.count_now _ _⟩

theorem beacon_starts {port : Nat} {m : Msg} (ha : accepts s port 0x10 m) (hm : s.timeMaster = false) (hv : s.time.valid = false)
    (hp : bits (s.stored timeCtl).toNat 11 8 = port) (hu : (s.port port).up = true) (h538 : s.meetsR538 m.payload = true)
    (hview : fld m.payload 0x20 4 ≤ s.fabric.view) (he : offset2 m.payload s.time.now % 2 = 0) :
    Does (.beacon port m) s [.freeCount, .time] (fun t => t.time.valid = true ∧
      t.time.now = ((s.time.now : Int) + offset2 m.payload s.time.now / 2).toNat) := by
  have e : beaconSt port m s = (s.echoed port m.payload).discipline (offset2 m.payload s.time.now) (fld m.payload 0x1E 1 + 1) := by
    unfold beaconSt
    rw [State.message_of ha]
    have hlearn := State.learnView_old (s := s.echoed port m.payload) (frame := fld m.payload 0x24 4) (memberList (m.payload.drop 64)) hview
    have hd : (s.echoed port m.payload).disciplinePort = some port := State.disciplinePort_of hp ha.2.1 hu
    have hmaster : (s.echoed port m.payload).timeMaster = false := hm
    change (if ((s.echoed port m.payload).learnView _ _ _).timeMaster || ((s.echoed port m.payload).learnView _ _ _).disciplinePort != some port
      then (s.echoed port m.payload).learnView _ _ _
      else if s.meetsR538 m.payload then ((s.echoed port m.payload).learnView _ _ _).discipline _ _ else _) = _
    rw [hlearn, hmaster, hd, if_neg (by simp), if_pos h538]
  obtain ⟨ho, hvalid, hnow⟩ := (s.echoed port m.payload).discipline_starts (stratum := fld m.payload 0x1E 1 + 1) he hv
  exact Does.of_eq rfl e (((State.time_only _).mono rfl).trans ho) ⟨hvalid, hnow⟩

end

/-- Settles O7: each clause is the law of its command. -/
theorem rackTimeIsSet : Obligations.RackTimeIsSet :=
  ⟨fun _ _ _ hs => ⟨timeCtlWrite_starts hs, timeCtlWrite_keeps hs, timeCtlWrite_same hs⟩,
    fun _ _ _ ha hm hv hp hu h538 hview he => beacon_starts ha hm hv hp hu h538 hview he⟩

end Sys2Proof.Machine
end

section
/-!
SUPPORT. RT_PPS and holdover, one law per case, with what a record of the error log holds, and the statement of O8 put together from them.
-/

namespace Sys2Proof.Machine

section
variable {s : State} {o : Output}

/-! ### RT_PPS (R49) -/

/-- An edge of RT_PPS at a distance `d` from the whole second `k`, the nearest to the counter. -/
def State.ppsEdge (s : State) (k : Nat) (d : Int) : State :=
  let t := s.time
  if d < -1000 ∨ 1000 < d then { s with time := { t with ppsGoodRun := 0 } }.bump timePpsErr 1
  else if t.ppsSecond = some k then s.bump timePpsErr 1
  else
    let good := t.ppsGoodRun + 1
    let ok := t.ppsValid || decide (3 ≤ good)
    let t := { t with ppsSecond := some k, ppsGoodRun := good, ppsBadRun := 0, ppsValid := ok }
    { s with time := if ok && t.valid && !s.timeMaster then { t with slewLeft := -d } else t }

theorem rtPpsEdgeSt_enabled (hen : s.flag timeCtl 1 = true) :
    rtPpsEdgeSt s = s.ppsEdge (nearSecond s.time.now) (secondOff s.time.now) := if_neg (by simp [hen])

theorem State.ppsEdge_outside {d : Int} (k : Nat) (hd : d < -1000 ∨ 1000 < d) :
    s.ppsEdge k d = { s with time := { s.time with ppsGoodRun := 0 } }.bump timePpsErr 1 := if_pos hd

/-- An edge that begins the window of a second after two valid ones: RT_PPS is valid, and its distance is what remains to slew. -/
theorem State.ppsEdge_inside {k : Nat} {d : Int} (hlow : -1000 ≤ d) (hhigh : d ≤ 1000) (hk : s.time.ppsSecond ≠ some k)
    (hv : s.time.valid = true) (hm : s.timeMaster = false) (hrun : 2 ≤ s.time.ppsGoodRun) :
    Only [.time] s (s.ppsEdge k d) ∧ (s.ppsEdge k d).time.ppsValid = true ∧ (s.ppsEdge k d).time.slewLeft = -d ∧
      (s.ppsEdge k d).time.now = s.time.now ∧ (s.ppsEdge k d).time.ppsGoodRun = s.time.ppsGoodRun + 1 := by
  have hok : (s.time.ppsValid || decide (3 ≤ s.time.ppsGoodRun + 1)) = true := by simp; omega
  have e : s.ppsEdge k d = { s with time := { s.time with
      ppsSecond := some k, ppsGoodRun := s.time.ppsGoodRun + 1, ppsBadRun := 0, ppsValid := true, slewLeft := -d } } := by
    unfold State.ppsEdge
    dsimp only
    rw [if_neg (by omega), if_neg hk, hok, hv, hm]
    rfl
  rw [e]
  exact ⟨s.time_only _, rfl, rfl, rfl, rfl⟩

theorem rtPpsEdge_outside (hen : s.flag timeCtl 1 = true) (hd : secondOff s.time.now < -1000 ∨ 1000 < secondOff s.time.now) :
    Does .rtPpsEdge s [.time, .counters] (fun t => counted s t timePpsErr ∧ t.time = { s.time with ppsGoodRun := 0 }) :=
  Does.of_eq rfl ((rtPpsEdgeSt_enabled hen).trans (State.ppsEdge_outside _ hd))
    (((s.time_only _).mono rfl).trans ((State.bump_only _ _ _).mono rfl)) ⟨State.counted_bump _ _, rfl⟩

theorem rtPpsEdge_inside (hen : s.flag timeCtl 1 = true) (hlow : -1000 ≤ secondOff s.time.now) (hhigh : secondOff s.time.now ≤ 1000)
    (hk : s.time.ppsSecond ≠ some (nearSecond s.time.now)) (hv : s.time.valid = true) (hm : s.timeMaster = false)
    (hrun : 2 ≤ s.time.ppsGoodRun) :
    Does .rtPpsEdge s [.time] (fun t => t.time.ppsValid = true ∧ t.time.slewLeft = -secondOff s.time.now ∧
      t.time.now = s.time.now ∧ t.time.ppsGoodRun = s.time.ppsGoodRun + 1) := by
  obtain ⟨ho, hp⟩ := State.ppsEdge_inside hlow hhigh hk hv hm hrun
  exact Does.of_eq rfl (rtPpsEdgeSt_enabled hen) ho hp

theorem ppsMissing_third (hen : s.flag timeCtl 1 = true) (hk : s.time.ppsSecond = none) (h0 : lastSecond s.time.now ≠ 0)
    (hrun : s.time.ppsBadRun = 2) :
    Does .ppsMissing s [.time] (fun t => t.time.ppsValid = false ∧ t.time.ppsGoodRun = 0 ∧ t.time.now = s.time.now) := by
  have e : ppsMissingSt s = { s with time := { s.time with
      ppsSecond := some (lastSecond s.time.now), ppsGoodRun := 0, ppsBadRun := 3, ppsValid := false } } := by
    unfold ppsMissingSt
    dsimp only
    rw [hk, if_neg (by simp [hen, h0]), hrun]
    simp
  exact Does.of_eq rfl e (s.time_only _) ⟨rfl, rfl, rfl⟩

/-! ### What has been sent stays sent -/

theorem State.mem_emit (p : Output) (h : o ∈ s.out) : o ∈ (s.emit p).out := by
  obtain e | e := s.emit_out p
  · exact e ▸ List.mem_append_left _ h
  · exact e ▸ h

theorem State.mem_ite {c : Prop} [Decidable c] {t u : State} (ht : c → o ∈ t.out) (hu : ¬ c → o ∈ u.out) : o ∈ (if c then t else u).out := by
  split
  · exact ht ‹_›
  · exact hu ‹_›

theorem State.mem_setFlag (off i : Nat) (h : o ∈ s.out) : o ∈ (s.setFlag off i).out := by
  unfold State.setFlag
  exact State.mem_ite (fun _ => State.mem_emit _ (by exact h)) (fun _ => h)

/-- The event of a flag that goes from 0 to 1 with its enable bit set (R654). -/
theorem State.event_mem_setFlag {off i : Nat} (h0 : s.flag off i = false) (hen : s.enabled off i = true) :
    Output.event off i ∈ (s.setFlag off i).out := by
  unfold State.setFlag
  rw [if_pos (by rw [h0, hen]; rfl), State.emit_free _ rfl]
  exact List.mem_append_right _ (List.mem_singleton_self _)

theorem State.mem_countCorrected (source unit : Nat) (h : o ∈ s.out) : o ∈ (s.countCorrected source unit).out := by
  unfold State.countCorrected
  dsimp only
  exact State.mem_ite (fun _ => State.mem_emit _ (by exact h)) (fun _ => h)

theorem State.mem_logError (cls source code : Nat) (ten : Option Nat) (unit addr kind id info : Nat) (h : o ∈ s.out) :
    o ∈ (s.logError cls source code ten unit addr kind id info).out := by
  have hc : o ∈ (if cls = 0 then s.countCorrected source unit else s).out :=
    State.mem_ite (fun _ => State.mem_countCorrected _ _ h) (fun _ => h)
  unfold State.logError
  generalize (if cls = 0 then s.countCorrected source unit else s) = u at hc
  dsimp only
  split
  · exact hc
  · refine State.mem_ite (fun _ => State.mem_setFlag _ _ (by exact hc)) (fun _ => State.mem_ite (fun _ => hc) (fun _ => ?_))
    split
    · exact State.mem_setFlag _ _ (by exact hc)
    · exact State.mem_setFlag _ _ hc

/-! ### The record of an empty log -/

/-- Counting a corrected error leaves the records. -/
theorem State.countCorrected_log (source unit : Nat) : ∃ counts superframe,
    (s.countCorrected source unit).errs = { s.errs with counts, superframe } := by
  unfold State.countCorrected
  dsimp only
  rw [apply_ite State.errs]
  exact ⟨_, _, (ite_eq_right_iff.mpr (fun _ => (State.emit_only _ _ .errs (by decide)).symm))⟩

/-- With nothing to coalesce with, a corrected error's record stands at the tail. -/
theorem State.logError_empty (source code : Nat) (ten : Option Nat) (unit addr kind id info : Nat) (hr : s.errs.recs = [])
    (ht : s.errs.head = s.errs.tail) :
    ∃ r, tget (s.logError 0 source code ten unit addr kind id info).errs.recs s.errs.tail = some r ∧ r.cls = 0 ∧ r.source = source ∧
      r.code = code ∧ r.time = s.time.now := by
  obtain ⟨counts, superframe, he⟩ := s.countCorrected_log source unit
  have htime : (s.countCorrected source unit).time = s.time := (s.countCorrected_only source unit .time (by decide)).symm
  unfold State.logError
  rw [if_pos rfl]
  generalize s.countCorrected source unit = u at he htime
  have hroom : (s.errs.tail + 8192 - u.errs.head) % 8192 < 4096 := by simp [he, ht]
  have hrecs : u.errs.recs = [] := by rw [he, ← hr]
  have htail : u.errs.tail = s.errs.tail := by rw [he]
  have hflag (v : State) : (v.setFlag 0x0A20010 1).errs = v.errs := (v.setFlag_only _ _ .errs (by decide)).symm
  simp only [hrecs, if_pos hroom, List.filter_nil, List.find?_nil, ite_self, hflag, htail]
  exact ⟨_, tget_tset_same _ _ _, rfl, rfl, rfl, congrArg Time.now htime⟩

/-! ### Holdover (R50, R51) -/

/-- HOLDOVER_ENTRY before its record is written. -/
def State.heldOver (s : State) : State :=
  { s with time := { s.time with holdover := true, freq := s.time.slewLeft.sign, slewLeft := 0 } }.setFlag timeStatus 8

theorem holdoverEntrySt_due (hh : s.time.holdover = false) (hm : s.timeMaster = false) (ht : s.time.lastBeacon + 1000000000 ≤ s.time.now) :
    holdoverEntrySt s = s.heldOver.timeRecord 3 := if_pos (by simp [hh, hm, ht])

theorem holdoverEntry_due (hh : s.time.holdover = false) (hm : s.timeMaster = false) (ht : s.time.lastBeacon + 1000000000 ≤ s.time.now) :
    Does .holdoverEntry s [.out, .time, .regs, .counters, .errs] (fun t =>
      t.time = { s.time with holdover := true, freq := s.time.slewLeft.sign, slewLeft := 0 } ∧
      t.flag timeStatus 8 = true ∧
      (s.flag timeStatus 8 = false → s.enabled timeStatus 8 = true → Output.event timeStatus 8 ∈ t.out) ∧
      (s.errs.recs = [] → s.errs.head = s.errs.tail →
        ∃ r, tget t.errs.recs s.errs.tail = some r ∧ r.cls = 0 ∧ r.source = 11 ∧ r.code = 3 ∧ r.time = s.time.now)) := by
  have hset (u : State) : Only [.out, .regs] u (u.setFlag timeStatus 8) := u.setFlag_only _ _
  have htime : s.heldOver.time = { s.time with holdover := true, freq := s.time.slewLeft.sign, slewLeft := 0 } :=
    (hset _ .time (by decide)).symm
  have herrs : s.heldOver.errs = s.errs := (hset _ .errs (by decide)).symm
  have hlog := s.heldOver.logError_keeps 0 11 3 none 0 0 0 0 0
  have ho : Only [.out, .regs, .counters, .errs] s.heldOver (s.heldOver.timeRecord 3) := s.heldOver.logError_only 0 11 3 none 0 0 0 0 0
  refine Does.of_eq rfl (holdoverEntrySt_due hh hm ht) (((s.time_only _).mono rfl).trans (((hset _).mono rfl).trans (ho.mono rfl)))
    ⟨(ho .time (by decide)).symm.trans htime, ?_, fun h0 hen => ?_, fun hr hl => ?_⟩
  · exact (State.flag_congr (hlog.regs timeStatus (by decide)) 8).trans (State.flag_setFlag_same _ timeStatus (by decide))
  · exact State.mem_logError 0 11 3 none 0 0 0 0 0 (State.event_mem_setFlag h0 hen)
  · obtain ⟨r, hget, hcls, hsrc, hcode, hat⟩ :=
      s.heldOver.logError_empty 11 3 none 0 0 0 0 0 (herrs ▸ hr) (herrs ▸ hl)
    exact ⟨r, herrs ▸ hget, hcls, hsrc, hcode, hat.trans (by rw [htime])⟩

end

/-- Settles O8: each clause is the law of its command. -/
theorem phaseAndHoldover : Obligations.PhaseAndHoldover :=
  ⟨fun _ hen => ⟨rtPpsEdge_outside hen, rtPpsEdge_inside hen, ppsMissing_third hen⟩, fun _ hh hm ht => holdoverEntry_due hh hm ht⟩

end Sys2Proof.Machine
end

section
/-!
SUPPORT. The refutation of O9: a slot boundary tries the held requests of other devices again, and one whose unit does not serve its
tenancy joins the accesses that wait for the unit.
-/

namespace Sys2Proof.Machine

/-- A LOAD of one byte from a region, as another device sends it. -/
def heldLoad : Held :=
  { port := 0, type := 1, pass := 0
    msg := { flags := 0, src := 0, dst := 0, tag := 0, order := 1, target := 0, key := 0, ctx := 0, status := 0, atomicOp := 0, view := 0
             reserved := 0, payload := [] } }

/-- A device that holds that LOAD, of an extent of a tenancy which no unit serves. -/
def holdingLoad : State :=
  { State.reset with
    extents := [(0, { Extent.free with state := 1, tenancy := 1 })]
    fabric := { Fabric.reset with
      held := [heldLoad]
      regions := [(0, { state := 1, perm := 0, tenancy := 1, base := 2 ^ 49, length := 64, key := 0, newKey := none })] } }

theorem holdingLoad_waits : (slotBoundarySt holdingLoad).slots.waits ≠ holdingLoad.slots.waits := by decide +kernel

/-- Refutes O9: the statement lets a slot boundary change nothing of the accesses that wait for units, but a held request that is tried
again and not served is queued on its unit. -/
theorem not_boundariesAdvanceRackTime : ¬ Obligations.BoundariesAdvanceRackTime := by
  unfold Obligations.BoundariesAdvanceRackTime
  intro h
  obtain ⟨⟨t, ht, honly, -⟩, -⟩ := h holdingLoad
  have hwaits : holdingLoad.slots.waits = t.slots.waits := honly .waits (by decide)
  exact holdingLoad_waits ((congrArg (fun u : State => u.slots.waits) (Host.Outcome.next.inj ht)).trans hwaits.symm)

end Sys2Proof.Machine
end

section
/-!
SUPPORT. The refutation of O58: a tick also tries the held requests of other devices again, and one that meets a line its region's tenancy
does not own is fatal to the device.
-/

namespace Sys2Proof.Machine

/-- A device with PERST_N low for 0 ns that holds a LOAD of a line no tenancy owns. -/
def holdingMismatch : State :=
  { State.reset with
    power := { Power.reset with perstFor := some 0 }
    fabric := { Fabric.reset with
      held := [heldLoad]
      regions := [(0, { state := 1, perm := 0, tenancy := 1, base := 2 ^ 49, length := 64, key := 0, newKey := none })] } }

theorem holdingMismatch_fatal : (tick holdingMismatch).power.fatal = true := by decide +kernel

/-- Refutes O58: the statement says that a tick counts for how long PERST_N has been low and changes nothing else of the power state, but a
held request that is tried again may be fatal to the device. -/
theorem not_resetsSelfTestAndScan : ¬ Obligations.ResetsSelfTestAndScan := by
  unfold Obligations.ResetsSelfTestAndScan
  intro h
  obtain ⟨hpulse, -⟩ := h .a 0 0 0 0 0 0 false [] 0 .bypass holdingMismatch
  obtain ⟨-, htick, -⟩ := hpulse rfl
  have hfatal : (tick holdingMismatch).power.fatal = false := congrArg Power.fatal (htick rfl)
  exact absurd (holdingMismatch_fatal.symm.trans hfatal) (by decide)

end Sys2Proof.Machine
end

section
/-!
SUPPORT. What every operation but those of the clock leaves alone: the queue and Rack Time, the pair `State.flow`. One law per operation of
the model, in the order of its files; an operation that takes a continuation keeps the pair where the continuation does.
-/

namespace Sys2Proof.Machine

section

/-- What only the queue and Rack Time move. -/
def State.flow (s : State) : List Instr × Time := (s.pending, s.time)

/-! ### The pair, and branches, folds and gates that keep it -/

@[simp] theorem State.flow_mk (pending : List Instr) (time : Time)
    {out freeCount clock power sem regs counters shadow live slots tenancies ctxs rings ringErr works nextWork lastCredit ports cmdTen
      cmdCtx cmdRing cmdExt cmdWl memory poison fill firstTouch burrows rotation groups images runs tables tensors tensorGen jobs trails
      holds lateFree vcache extents leases dir recalls waiting recalled fencing denCache ddrUnder hbmCache lastDrain atc xltWaits invalWait
      faults faultNext logNext logGain batchWait fabric badgers part mem settMap failedSetts settWait resident health svcPrev test owl errs
      loop lbResult bridgeFails trace} :
    (State.mk pending out freeCount time clock power sem regs counters shadow live slots tenancies ctxs rings ringErr works nextWork
      lastCredit ports cmdTen cmdCtx cmdRing cmdExt cmdWl memory poison fill firstTouch burrows rotation groups images runs tables tensors
      tensorGen jobs trails holds lateFree vcache extents leases dir recalls waiting recalled fencing denCache ddrUnder hbmCache lastDrain
      atc xltWaits invalWait faults faultNext logNext logGain batchWait fabric badgers part mem settMap failedSetts settWait resident health
      svcPrev test owl errs loop lbResult bridgeFails trace).flow = (pending, time) := rfl

@[simp] theorem State.flow_eta (s : State) : (s.pending, s.time) = s.flow := rfl

theorem Only.flow {ps : List Part} {s t : State} (h : Only ps s t) (hp : (ps.contains .pending || ps.contains .time) = false) :
    t.flow = s.flow := by
  simp only [Bool.or_eq_false_iff, List.contains_eq_mem, decide_eq_false_iff_not] at hp
  obtain ⟨hpending, htime⟩ := hp
  exact congrArg₂ Prod.mk (h .pending hpending).symm (h .time htime).symm

theorem Keeps.flow {ps : List Part} {ks : List Nat} {s t : State} (h : Keeps ps ks s t)
    (hp : (ps.contains .pending || ps.contains .time) = false) : t.flow = s.flow := h.only.flow hp

@[simp] theorem State.flow_ite {c : Prop} [Decidable c] (t u : State) : (if c then t else u).flow = if c then t.flow else u.flow :=
  apply_ite State.flow c t u

theorem State.flow_cases {c : Prop} [Decidable c] {t u v : State} (ht : c → t.flow = v.flow) (hu : ¬ c → u.flow = v.flow) :
    (if c then t else u).flow = v.flow := by
  split
  · exact ht ‹_›
  · exact hu ‹_›

theorem State.flow_foldl {α : Type} {f : State → α → State} (h : ∀ u x, (f u x).flow = u.flow) (l : List α) (s : State) :
    (l.foldl f s).flow = s.flow := by
  induction l generalizing s with
  | nil => rfl
  | cons x t ih => exact (ih (f s x)).trans (h s x)

@[simp] theorem Gate.state_go (u : State) : (Gate.go u).state = u := rfl
@[simp] theorem Gate.state_hold (u : State) : (Gate.hold u).state = u := rfl

@[simp] theorem Gate.state_ite {c : Prop} [Decidable c] (g k : Gate) : (if c then g else k).state = if c then g.state else k.state :=
  apply_ite Gate.state c g k

/-- A gate lets a state through, or holds one, in which queue and time are as before. -/
theorem Gate.flow_cases {g : Gate} {s : State} (h : g.state.flow = s.flow) :
    (∃ u, g = .go u ∧ u.flow = s.flow) ∨ ∃ u, g = .hold u ∧ u.flow = s.flow := by
  cases g with
  | go u => exact .inl ⟨u, rfl, h⟩
  | hold u => exact .inr ⟨u, rfl, h⟩

theorem Gate.flow_foldl {α : Type} {f : Gate → α → Gate} (h : ∀ g x, (f g x).state.flow = g.state.flow) (l : List α) (g : Gate) :
    (l.foldl f g).state.flow = g.state.flow := by
  induction l generalizing g with
  | nil => rfl
  | cons x t ih => exact (ih (f g x)).trans (h g x)

variable (s : State)

/-! ### Ops -/

@[simp] theorem State.write_flow (a : Nat) (b : Bytes) : (s.write a b).flow = s.flow := (s.write_only a b).flow rfl
@[simp] theorem State.zero_flow (a n : Nat) : (s.zero a n).flow = s.flow := (s.zero_only a n).flow rfl
@[simp] theorem State.drawn_flow : (s.drawn).flow = s.flow := (s.drawn_only).flow rfl
@[simp] theorem State.bump_flow (off n : Nat) : (s.bump off n).flow = s.flow := (s.bump_only off n).flow rfl
@[simp] theorem State.setPort_flow (p : Nat) (x : Port) : (s.setPort p x).flow = s.flow := (s.setPort_only p x).flow rfl
@[simp] theorem State.emit_flow (o : Output) : (s.emit o).flow = s.flow := (s.emit_only o).flow rfl
@[simp] theorem State.setFlag_flow (off i : Nat) : (s.setFlag off i).flow = s.flow := (s.setFlag_only off i).flow rfl
@[simp] theorem State.setBit_flow (off i : Nat) : (s.setBit off i).flow = s.flow := (s.setBit_only off i).flow rfl
@[simp] theorem State.raiseNmi_flow (cause : Nat) : (s.raiseNmi cause).flow = s.flow := (s.raiseNmi_only cause).flow rfl

@[simp] theorem State.cmdFail_flow (b : CmdBlock) (cause : Nat) : (s.cmdFail b cause).flow = s.flow := by
  unfold State.cmdFail
  split <;> simp

@[simp] theorem State.setBlock_flow (b : CmdBlock) (c : CmdState) : (s.setBlock b c).flow = s.flow := by
  unfold State.setBlock
  split <;> simp

@[simp] theorem State.countCorrected_flow (source unit : Nat) : (s.countCorrected source unit).flow = s.flow :=
  (s.countCorrected_only source unit).flow rfl

@[simp] theorem State.logError_flow (cls source code : Nat) (tenancy : Option Nat) (unit addr objKind objId info : Nat) :
    (s.logError cls source code tenancy unit addr objKind objId info).flow = s.flow :=
  (s.logError_only cls source code tenancy unit addr objKind objId info).flow rfl

@[simp] theorem State.semError_flow (mp : MgmtPort) : (s.semError mp).flow = s.flow := (s.semError_only mp).flow rfl

@[simp] theorem State.setup_flow {f : State → State} (hf : ∀ u : State, (f u).flow = u.flow) (mp : MgmtPort) :
    (s.setup mp f).flow = s.flow := by
  unfold State.setup
  split
  · rfl
  · split
    · exact hf s
    · simp

@[simp] theorem State.command_flow {f : State → State} (hf : ∀ u : State, (f u).flow = u.flow) (mp : MgmtPort) (b : CmdBlock) (i : Instr) :
    (s.command mp b i f).flow = s.flow := by
  refine s.setup_flow (fun u => ?_) mp
  split
  · exact hf u
  · split <;> simp

@[simp] theorem State.setWork_flow (x : Work) : (s.setWork x).flow = s.flow := (s.setWork_only x).flow rfl
@[simp] theorem State.finish_flow (w : Nat) (r : Result) : (s.finish w r).flow = s.flow := (s.finish_only w r).flow rfl

/-! ### Clocks -/

@[simp] theorem State.timeRecord_flow (code : Nat) : (s.timeRecord code).flow = s.flow := by simp [State.timeRecord]
@[simp] theorem State.setActive_flow (r : Option RefSource) : (s.setActive r).flow = s.flow := by simp [State.setActive]
@[simp] theorem sourceStableSt_flow (r : RefSource) : (sourceStableSt r s).flow = s.flow := by simp [sourceStableSt]

/-! ### Regs -/

@[simp] theorem State.enableEvents_flow (off : Nat) (old new : Reg) : (s.enableEvents off old new).flow = s.flow :=
  State.flow_foldl (fun u _ => u.emit_flow _) _ s

@[simp] theorem State.w1c_flow (off w1c written hwSet : Nat) : (s.w1c off w1c written hwSet).flow = s.flow :=
  State.flow_foldl (fun u i => by simp) _ s

@[simp] theorem State.writePlain_flow (off : Nat) (r : RegRow) (m v hwSet : Reg) : (s.writePlain off r m v hwSet).flow = s.flow := by
  simp [State.writePlain]

@[simp] theorem State.writeSlotReg_flow (off : Nat) (rw v : Reg) : (s.writeSlotReg off rw v).flow = s.flow :=
  (s.writeSlotReg_only off rw v).flow rfl

@[simp] theorem State.writeBank_flow (k : Nat) (rw v : Reg) : (s.writeBank k rw v).flow = s.flow := by simp [State.writeBank]
@[simp] theorem State.writeShadow_flow (k : Nat) (rw v : Reg) : (s.writeShadow k rw v).flow = s.flow := (s.writeShadow_only k rw v).flow rfl

@[simp] theorem State.writeReg_flow (off : Nat) (m v hwSet : Reg) : (s.writeReg off m v hwSet).flow = s.flow := by
  unfold State.writeReg
  (repeat' split) <;> simp

@[simp] theorem State.loadImage_flow (off : Nat) (b : Bytes) (n : Nat) : (s.loadImage off b n).flow = s.flow :=
  (s.loadImage_only off b n).flow rfl

/-! ### Ports -/

@[simp] theorem State.classDrop_flow (p : Nat) : (s.classDrop p).flow = s.flow := (s.classDrop_only p).flow rfl
@[simp] theorem State.undecoded_flow (p : Nat) : (s.undecoded p).flow = s.flow := by simp [State.undecoded]

@[simp] theorem State.arrive_flow {f : State → State} (hf : ∀ u : State, (f u).flow = u.flow) (p cls : Nat) :
    (s.arrive p cls f).flow = s.flow := by
  unfold State.arrive
  split
  · rfl
  · split
    · simp
    · exact hf s

/-! ### Semaphore -/

@[simp] theorem State.semHolder_flow (mp : MgmtPort) (v : Nat) : (s.semHolder mp v).flow = s.flow := by simp [State.semHolder]
@[simp] theorem State.semClear_flow (mp : MgmtPort) (v hwSet : Nat) : (s.semClear mp v hwSet).flow = s.flow := by simp [State.semClear]
@[simp] theorem State.semWrite_flow (mp : MgmtPort) (v hwSet : Nat) : (s.semWrite mp v hwSet).flow = s.flow := by simp [State.semWrite]

@[simp] theorem mgmtSemWriteSt_flow (mp : MgmtPort) (value : Reg) (other : Option Reg) (hwSet : Reg) :
    (mgmtSemWriteSt mp value other hwSet s).flow = s.flow := by
  unfold mgmtSemWriteSt
  (repeat' split) <;> simp

@[simp] theorem State.semLapse_flow : (s.semLapse).flow = s.flow := by simp [State.semLapse]
@[simp] theorem semLeaseExpireSt_flow : (semLeaseExpireSt s).flow = s.flow := by simp [semLeaseExpireSt]

@[simp] theorem mgmtLinkDownSt_flow (mp : MgmtPort) : (mgmtLinkDownSt mp s).flow = s.flow := by
  unfold mgmtLinkDownSt
  split <;> simp

/-! ### Rings -/

@[simp] theorem State.setRing_flow (r : Nat) (x : Ring) : (s.setRing r x).flow = s.flow := (s.setRing_only r x).flow rfl

@[simp] theorem ringReadSt_flow (mp : MgmtPort) (ring : Nat) : (ringReadSt mp ring s).flow = s.flow :=
  s.command_flow (fun u => by simp) mp .ring _

@[simp] theorem ringConfigureSt_flow (mp : MgmtPort) (ring : Nat) : (ringConfigureSt mp ring s).flow = s.flow := by simp [ringConfigureSt]
@[simp] theorem ringEnableSt_flow (mp : MgmtPort) (ring : Nat) : (ringEnableSt mp ring s).flow = s.flow := by simp [ringEnableSt]
@[simp] theorem State.drainRing_flow (ring : Nat) : (s.drainRing ring).flow = s.flow := by simp [State.drainRing]

@[simp] theorem ringDisableSt_flow (mp : MgmtPort) (ring : Nat) : (ringDisableSt mp ring s).flow = s.flow :=
  s.command_flow (fun u => by split <;> simp) mp .ring _

@[simp] theorem ringDrainEndSt_flow (ring : Nat) : (ringDrainEndSt ring s).flow = s.flow := by simp [ringDrainEndSt]
@[simp] theorem State.ringFail_flow (ring cause : Nat) : (s.ringFail ring cause).flow = s.flow := (s.ringFail_only ring cause).flow rfl
@[simp] theorem ringErrorSt_flow (ring : Nat) (why : RingFault) : (ringErrorSt ring why s).flow = s.flow := by simp [ringErrorSt]

@[simp] theorem State.doorbell_flow {f : Ring → State → State} (hf : ∀ r, ∀ u : State, (f r u).flow = u.flow) (port ring size : Nat) :
    (s.doorbell port ring size f).flow = s.flow :=
  s.arrive_flow (fun u => by simp [hf]) port 1

@[simp] theorem sqTailWriteSt_flow (port ring size value : Nat) (fetched : List Bytes) :
    (sqTailWriteSt port ring size value fetched s).flow = s.flow :=
  s.doorbell_flow (fun r u => by simp [State.flow_foldl State.emit_flow]) port ring size

@[simp] theorem cqHeadWriteSt_flow (port ring size value : Nat) : (cqHeadWriteSt port ring size value s).flow = s.flow :=
  s.doorbell_flow (fun r u => by simp) port ring size

@[simp] theorem headShadowWriteSt_flow (ring : Nat) : (headShadowWriteSt ring s).flow = s.flow := by simp [headShadowWriteSt]

@[simp] theorem State.postEntry_flow (ring : Nat) (b : Bool → Bytes) : (s.postEntry ring b).flow = s.flow :=
  (s.postEntry_only ring b).flow rfl

@[simp] theorem State.postCompletion_flow (ring : Nat) (desc : Bytes) (r : Result) : (s.postCompletion ring desc r).flow = s.flow :=
  (s.postCompletion_only ring desc r).flow rfl

@[simp] theorem State.setCtx_flow (c : Nat) (x : Ctx) : (s.setCtx c x).flow = s.flow := (s.setCtx_only c x).flow rfl

@[simp] theorem ctxReadSt_flow (mp : MgmtPort) (ctx : Nat) : (ctxReadSt mp ctx s).flow = s.flow :=
  s.command_flow (fun u => by simp) mp .ctx _

@[simp] theorem ctxCreateSt_flow (mp : MgmtPort) (ctx : Nat) : (ctxCreateSt mp ctx s).flow = s.flow := by simp [ctxCreateSt]
@[simp] theorem State.abandon_flow (f : FaultRec) (status : Nat) : (s.abandon f status).flow = s.flow := by simp [State.abandon]

@[simp] theorem State.abortCtx_flow (c : Nat) : (s.abortCtx c).flow = s.flow :=
  State.flow_foldl (fun u f => u.abandon_flow f _) _ s

@[simp] theorem ctxModifySt_flow (mp : MgmtPort) (ctx : Nat) : (ctxModifySt mp ctx s).flow = s.flow := by simp [ctxModifySt]
@[simp] theorem State.freeCtx_flow (c : Nat) : (s.freeCtx c).flow = s.flow := by simp [State.freeCtx]
@[simp] theorem State.drainCtx_flow (c : Nat) : (s.drainCtx c).flow = s.flow := by simp [State.drainCtx]
@[simp] theorem ctxDrainSt_flow (mp : MgmtPort) (ctx : Nat) : (ctxDrainSt mp ctx s).flow = s.flow := by simp [ctxDrainSt]
@[simp] theorem contextFreeSt_flow (ctx : Nat) : (contextFreeSt ctx s).flow = s.flow := by simp [contextFreeSt]
@[simp] theorem pinExpireSt_flow (ctx : Nat) : (pinExpireSt ctx s).flow = s.flow := by simp [pinExpireSt]

/-! ### Storage -/

@[simp] theorem State.freeStorage_flow (a n t : Nat) : (s.freeStorage a n t).flow = s.flow := by simp [State.freeStorage]

@[simp] theorem State.clearBlock_flow (region g block : Nat) : (s.clearBlock region g block).flow = s.flow :=
  (s.clearBlock_only region g block).flow rfl

@[simp] theorem State.writeBlock_flow (a : Nat) (b : Bytes) : (s.writeBlock a b).flow = s.flow := (s.writeBlock_only a b).flow rfl
@[simp] theorem State.writeLine_flow (a : Nat) (b : Bytes) : (s.writeLine a b).flow = s.flow := (s.writeLine_only a b).flow rfl

@[simp] theorem State.writeDev_flow (a : Nat) (b : Bytes) (fuel : Nat) : (s.writeDev a b fuel).flow = s.flow := by
  induction fuel generalizing s a b with
  | zero => rfl
  | succ n ih =>
    unfold State.writeDev
    simp [ih]

@[simp] theorem State.put_flow (a : Nat) (b : Bytes) : (s.put a b).flow = s.flow := (s.put_only a b).flow rfl

/-! ### Media -/

@[simp] theorem State.setBadger_flow (b : Nat) (x : Badger) : (s.setBadger b x).flow = s.flow := (s.setBadger_only b x).flow rfl

@[simp] theorem State.flashWrite_flow (t a : Nat) (data : Bytes) (req : Nat) : (s.flashWrite t a data req).flow = s.flow :=
  State.flow_foldl (fun u _ => u.setBadger_flow _ _) _ s

@[simp] theorem State.trim_flow (a n : Nat) : (s.trim a n).flow = s.flow := by simp [State.trim]

@[simp] theorem State.journalTensor_flow (index : Nat) (x : Tensor) (present : Bool) : (s.journalTensor index x present).flow = s.flow := by
  simp [State.journalTensor]

/-! ### Errors -/

@[simp] theorem State.deviceFatal_flow : (s.deviceFatal).flow = s.flow := (s.deviceFatal_only).flow rfl

@[simp] theorem State.tenancyFatal_flow (t : Nat) : (s.tenancyFatal t).flow = s.flow := by
  unfold State.tenancyFatal
  simp [State.flow_foldl (fun (u : State) r => u.ringFail_flow r 4)]

@[simp] theorem State.addPoison_flow (line : Nat) : (s.addPoison line).flow = s.flow := (s.addPoison_only line).flow rfl
@[simp] theorem State.ownerMismatch_flow (t a : Nat) : (s.ownerMismatch t a).flow = s.flow := by simp [State.ownerMismatch]
@[simp] theorem State.reviewSvc_flow : (s.reviewSvc).flow = s.flow := (s.reviewSvc_only).flow rfl

/-! ### Slots -/

@[simp] theorem State.claim_flow (m t : Nat) : (s.claim m t).flow = s.flow := (s.claim_only m t).flow rfl

@[simp] theorem State.startPeriod_flow (m : Nat) (queued : List Nat) : (s.startPeriod m queued).flow = s.flow := by
  unfold State.startPeriod
  (repeat' split) <;> simp

@[simp] theorem State.passUnit_flow (w cell t : Nat) (ms : List Nat) : (s.passUnit w cell t ms).state.flow = s.flow :=
  (s.passUnit_only w cell t ms).flow rfl

@[simp] theorem State.passAll_flow (w cell t : Nat) (ms : List (List Nat)) : (s.passAll w cell t ms).state.flow = s.flow :=
  (s.passAll_only w cell t ms).flow rfl

@[simp] theorem State.leaveUnits_flow (w cell : Nat) : (s.leaveUnits w cell).flow = s.flow := (s.leaveUnits_only w cell).flow rfl
@[simp] theorem State.leaveAll_flow (w : Nat) : (s.leaveAll w).flow = s.flow := by simp [State.leaveAll]

@[simp] theorem State.onUnits_flow {f : State → State} (hf : ∀ u : State, (f u).flow = u.flow) (w cell t : Nat) (ms : List (List Nat)) :
    (s.onUnits w cell t ms f).flow = s.flow := by
  have hg := s.passAll_flow w cell t ms
  unfold State.onUnits
  generalize s.passAll w cell t ms = g at hg ⊢
  cases g with
  | go u => simpa [hf] using hg
  | hold u => exact hg

@[simp] theorem State.claimRun_flow (m t ns : Nat) : (s.claimRun m t ns).flow = s.flow := by simp [State.claimRun]
@[simp] theorem State.queueDie_flow (w cell t m : Nat) : (s.queueDie w cell t m).flow = s.flow := by simp [State.queueDie]

@[simp] theorem State.passDie_flow (w cell t m ns : Nat) (busy : Bool) : (s.passDie w cell t m ns busy).state.flow = s.flow := by
  unfold State.passDie
  split
  · rfl
  · dsimp only
    split <;> simp

@[simp] theorem State.passDies_flow (w cell t : Nat) (l : List (Nat × Bool)) : (s.passDies w cell t l).state.flow = s.flow := by
  induction l generalizing s with
  | nil => rfl
  | cons p l ih =>
    have hd := s.passDie_flow w cell t p.1 s.part.readNs p.2
    unfold State.passDies
    generalize s.passDie w cell t p.1 s.part.readNs p.2 = g at hd ⊢
    cases g with
    | go u => exact (ih u).trans hd
    | hold u =>
      have hl := ih u
      dsimp only
      generalize u.passDies w cell t l = k at hl ⊢
      cases k <;> exact hl.trans hd

@[simp] theorem State.onMedia_flow {f : State → State} (hf : ∀ u : State, (f u).flow = u.flow) (w cell t : Nat) (dies : List (Nat × Bool))
    (ms : List (List Nat)) : (s.onMedia w cell t dies ms f).flow = s.flow := by
  have hd := s.passDies_flow w cell t dies
  unfold State.onMedia
  generalize s.passDies w cell t dies = g at hd ⊢
  cases g with
  | go u => exact (u.onUnits_flow hf w cell t ms).trans hd
  | hold u =>
    have hu := u.passAll_flow w cell t ms
    dsimp only
    generalize u.passAll w cell t ms = k at hu ⊢
    cases k <;> exact hu.trans hd

@[simp] theorem State.loseGrain_flow (g : Nat × Nat) : (s.loseGrain g).flow = s.flow := by
  simp only [State.loseGrain]
  split <;> simp

@[simp] theorem State.bgServed_flow (m t : Nat) : (s.bgServed m t).flow = s.flow := (s.bgServed_only m t).flow rfl

@[simp] theorem State.commitAt_flow (F : Int) : (s.commitAt F).flow = s.flow := by
  unfold State.commitAt
  dsimp only
  split <;> simp

@[simp] theorem slotCommitSt_flow (mp : MgmtPort) (value : Reg) : (slotCommitSt mp value s).flow = s.flow :=
  s.setup_flow (f := fun s => if (namedTenancies s.slots.shadow).any s.badTenancy then s.setFlag slotStatus 2
    else s.commitAt (extendFrame s.frame (value.toNat % 2 ^ 32))) (fun u => by simp) mp

@[simp] theorem State.applyModes_flow (modes : Tab Bool) : (s.applyModes modes).flow = s.flow := by simp [State.applyModes]

@[simp] theorem State.switchMaps_flow (f : Nat) : (s.switchMaps f).flow = s.flow := by
  unfold State.switchMaps
  split <;> simp

@[simp] theorem slotMapSwitchSt_flow : (slotMapSwitchSt s).flow = s.flow := by simp [slotMapSwitchSt]

/-! ### Flash -/

@[simp] theorem State.retireBlock_flow (b die block : Nat) : (s.retireBlock b die block).flow = s.flow := by simp [State.retireBlock]
@[simp] theorem State.failDie_flow (b die : Nat) : (s.failDie b die).flow = s.flow := by simp [State.failDie]
@[simp] theorem State.dieResult_flow (b die : Nat) (pass : Bool) : (s.dieResult b die pass).flow = s.flow := by simp [State.dieResult]
@[simp] theorem dieFailSt_flow (badger die : Nat) : (dieFailSt badger die s).flow = s.flow := by simp [dieFailSt]

@[simp] theorem blockRetireSt_flow (badger die block : Nat) (_why : RetireCause) : (blockRetireSt badger die block _why s).flow = s.flow := by
  simp [blockRetireSt]

@[simp] theorem dieTempReadSt_flow (badger die : Nat) (temp : Int) : (dieTempReadSt badger die temp s).flow = s.flow := by
  simp [dieTempReadSt]

@[simp] theorem State.readGrain_flow (b grain : Nat) (m : MapEntry) (p : Programmed) (ecc : List Bool) :
    (s.readGrain b grain m p ecc).2.flow = s.flow := by
  unfold State.readGrain
  dsimp only
  split
  · simp
  · simp
  · split <;> simp

@[simp] theorem flashReadSt_flow (badger grain : Nat) (ecc : List Bool) (req : Nat) : (flashReadSt badger grain ecc req s).flow = s.flow := by
  have read (u : State) (m : MapEntry) (p : Programmed) : (match u.readGrain badger grain m p ecc with
      | (some d, s) => s.emit (.flashData req 0 d)
      | (none, s) => s.emit (.flashData req 0x31 [])).flow = u.flow := by
    have hr := u.readGrain_flow badger grain m p ecc
    split <;> simp_all
  unfold flashReadSt
  dsimp only
  split
  · rfl
  · split
    · simp
    · split
      · simp
      · split
        · simp
        · next m _ _ _ p _ =>
          have hg : (if (s.badger badger).failedDies.contains m.die then Gate.go s
              else s.passDie (readOp req) 0 p.tenancy (dieMap badger m.die) s.part.readNs ((s.badger badger).dieBusy m.die)).state.flow = s.flow := by
            split <;> simp
          split
          · next u hu =>
            rw [hu] at hg
            exact hg
          · next u hu =>
            rw [hu] at hg
            exact (read _ m p).trans ((u.leaveAll_flow _).trans hg)

@[simp] theorem State.dropWrite_flow (req : Nat) : (s.dropWrite req).flow = s.flow := by simp [State.dropWrite]

@[simp] theorem State.failVectors_flow (w status : Nat) : (s.failVectors w status).flow = s.flow := by
  unfold State.failVectors
  split <;> simp

@[simp] theorem State.failWrite_flow (req status : Nat) : (s.failWrite req status).flow = s.flow := by simp [State.failWrite]
@[simp] theorem State.exhaustWrite_flow (req : Nat) : (s.exhaustWrite req).flow = s.flow := by simp [State.exhaustWrite]
@[simp] theorem State.ackWrite_flow (req : Nat) : (s.ackWrite req).flow = s.flow := by simp [State.ackWrite]

@[simp] theorem grainWriteSt_flow (badger tenancy grain offset req : Nat) (data : Bytes) :
    (grainWriteSt badger tenancy grain offset req data s).flow = s.flow := by
  simp [grainWriteSt]

@[simp] theorem programDoneSt_flow (badger grain : Nat) (pass : Bool) : (programDoneSt badger grain pass s).flow = s.flow := by
  unfold programDoneSt
  dsimp only
  split
  · rfl
  · split
    · rfl
    · split
      · exact State.flow_foldl (fun u r => u.failWrite_flow r _) _ s
      · split
        · split
          · simp only [State.queueDie_flow, State.flow_ite, State.leaveAll_flow, ite_self]
          · rfl
        · split
          · simp [State.flow_foldl State.ackWrite_flow]
          · simp

@[simp] theorem State.parityDue_flow : (s.parityDue).flow = s.flow := by simp [State.parityDue]

@[simp] theorem stripeParityWriteSt_flow (badger superblock stripe : Nat) : (stripeParityWriteSt badger superblock stripe s).flow = s.flow := by
  simp only [stripeParityWriteSt]
  split <;> simp

@[simp] theorem State.beginCopy_flow (b grain : Nat) (m : MapEntry) (p : Programmed) (data : Bytes) (deadline : Option Nat) :
    (s.beginCopy b grain m p data deadline).flow = s.flow := by
  unfold State.beginCopy
  split <;> simp

@[simp] theorem foldSt_flow (badger grain : Nat) : (foldSt badger grain s).flow = s.flow := by
  have read (m : MapEntry) (p : Programmed) (d : State → Option Nat) : (match s.readGrain badger grain m p [] with
      | (some b, u) => u.beginCopy badger grain m p b (d u)
      | (none, u) => u).flow = s.flow := by
    have hr := s.readGrain_flow badger grain m p []
    split <;> simp_all
  unfold foldSt
  dsimp only
  split
  · rfl
  · split
    · split <;> simp
    · split
      · rfl
      · split
        · rfl
        · split
          · rfl
          · exact read _ _ _

@[simp] theorem scrubReadSt_flow (badger grain : Nat) (ecc : List Bool) (correctedBits : Nat) :
    (scrubReadSt badger grain ecc correctedBits s).flow = s.flow := by
  unfold scrubReadSt
  dsimp only
  split
  · rfl
  · split
    · rfl
    · simp

@[simp] theorem scrubRewriteSt_flow (badger grain : Nat) : (scrubRewriteSt badger grain s).flow = s.flow := by
  have read (m : MapEntry) (p : Programmed) : (match s.readGrain badger grain m p [] with
      | (some b, u) => u.beginCopy badger grain m p b none
      | (none, u) => u).flow = s.flow := by
    have hr := s.readGrain_flow badger grain m p []
    split <;> simp_all
  unfold scrubRewriteSt
  dsimp only
  generalize (s.time.valid && _) = timed
  split
  · rfl
  · split
    · split <;> simp
    · split
      · rfl
      · split
        · rfl
        · split
          · rfl
          · exact read _ _

@[simp] theorem bgOpSuspendSt_flow (badger die : Nat) : (bgOpSuspendSt badger die s).flow = s.flow := by simp [bgOpSuspendSt]
@[simp] theorem bgOpResumeSt_flow (badger die : Nat) : (bgOpResumeSt badger die s).flow = s.flow := by simp [bgOpResumeSt]
@[simp] theorem State.bgBoundary_flow : (s.bgBoundary).flow = s.flow := by simp [State.bgBoundary]

@[simp] theorem State.copyOut_flow (b : Nat) (sb : SuperBlock) (begins : Bool) (deadline : Option Nat) :
    (s.copyOut b sb begins deadline).flow = s.flow := by
  unfold State.copyOut
  dsimp only
  split
  · simp
  · refine (State.flow_foldl (fun u p => ?_) _ _).trans (s.setBadger_flow _ _)
    split
    · next m _ =>
      have hr := u.readGrain_flow b p.logical m p []
      split
      · rfl
      · split <;> simp_all
    · rfl

@[simp] theorem garbageCollectSt_flow (badger group : Nat) : (garbageCollectSt badger group s).flow = s.flow := by
  simp only [garbageCollectSt, State.flow_ite]
  (repeat' split) <;> simp

@[simp] theorem wearLevelSt_flow (badger superblock : Nat) : (wearLevelSt badger superblock s).flow = s.flow := by
  simp only [wearLevelSt]
  split <;> simp

@[simp] theorem slcResizeSt_flow (badger : Nat) : (slcResizeSt badger s).flow = s.flow := by simp [slcResizeSt]

@[simp] theorem readOnlyEnterSt_flow (badger : Nat) : (readOnlyEnterSt badger s).flow = s.flow := by
  unfold readOnlyEnterSt
  simp [State.flow_foldl State.exhaustWrite_flow]

@[simp] theorem readOnlyLeaveSt_flow (badger : Nat) : (readOnlyLeaveSt badger s).flow = s.flow := by simp [readOnlyLeaveSt]

@[simp] theorem nfCfgWriteSt_flow (mp : MgmtPort) (badger : Nat) (value : Reg) : (nfCfgWriteSt mp badger value s).flow = s.flow := by
  simp [nfCfgWriteSt]

@[simp] theorem shutdownSt_flow (mp : MgmtPort) : (shutdownSt mp s).flow = s.flow := s.setup_flow (fun u => by simp) mp
@[simp] theorem mapRebuildSt_flow (badger : Nat) : (mapRebuildSt badger s).flow = s.flow := by simp [mapRebuildSt]

@[simp] theorem checkpointLoadSt_flow (badger : Nat) : (checkpointLoadSt badger s).flow = s.flow := by
  simp only [checkpointLoadSt, State.flow_ite]
  (repeat' split) <;> simp

@[simp] theorem mapReadySt_flow (badger : Nat) : (mapReadySt badger s).flow = s.flow := by
  unfold mapReadySt
  dsimp only
  split
  · rfl
  · exact (State.setBadger_flow _ _ _).trans (State.flow_foldl (fun _ _ => by rfl) _ s)

/-! ### Hosted -/

@[simp] theorem State.setExtent_flow (e : Nat) (x : Extent) : (s.setExtent e x).flow = s.flow := (s.setExtent_only e x).flow rfl
@[simp] theorem State.setLease_flow (e h : Nat) (l : Lease) : (s.setLease e h l).flow = s.flow := (s.setLease_only e h l).flow rfl
@[simp] theorem State.setEntry_flow (line : Nat) (e : DirEntry) : (s.setEntry line e).flow = s.flow := (s.setEntry_only line e).flow rfl
@[simp] theorem State.poisonLine_flow (line code host : Nat) : (s.poisonLine line code host).flow = s.flow := by simp [State.poisonLine]
@[simp] theorem State.useHbmc_flow (line : Nat) : (s.useHbmc line).flow = s.flow := (s.useHbmc_only line).flow rfl
@[simp] theorem State.keepUnder_flow (line : Nat) : (s.keepUnder line).flow = s.flow := (s.keepUnder_only line).flow rfl

@[simp] theorem State.touchLine_flow (line : Nat) (dirty : Bool) : (s.touchLine line dirty).flow = s.flow :=
  (s.touchLine_only line dirty).flow rfl

@[simp] theorem State.deny_flow (port rid dpa : Nat) (read : Bool) : (s.deny port rid dpa read).flow = s.flow := by simp [State.deny]
@[simp] theorem State.answer_flow (q : LineReq) : (s.answer q).flow = s.flow := (s.answer_only q).flow rfl
@[simp] theorem State.applyWrite_flow (q : LineReq) : (s.applyWrite q).flow = s.flow := (s.applyWrite_only q).flow rfl

@[simp] theorem State.complete_flow (q : LineReq) (e : DirEntry) (kept : Bool) : (s.complete q e kept).flow = s.flow :=
  (s.complete_only q e kept).flow rfl

@[simp] theorem State.startRecall_flow (line : Nat) (e : DirEntry) (hosts : List Nat) (kind : Nat) (q : Option LineReq) (device : Option
    (ReqClass × Nat)) (victim : Bool) :
    (s.startRecall line e hosts kind q device victim).flow = s.flow :=
  (s.startRecall_only line e hosts kind q device victim).flow rfl

@[simp] theorem State.serveDir_flow (q : LineReq) : (s.serveDir q).flow = s.flow := by
  simp only [State.serveDir]
  (repeat' split) <;> simp

@[simp] theorem State.takeTurn_flow (line : Nat) : (s.takeTurn line).flow = s.flow := (s.takeTurn_only line).flow rfl
@[simp] theorem State.serve_flow (q : LineReq) : (s.serve q).flow = s.flow := (s.serve_keeps q).flow rfl
@[simp] theorem State.serveWaiting_flow : s.serveWaiting.flow = s.flow := s.serveWaiting_keeps.flow rfl
@[simp] theorem State.endRecall_flow (r : Recall) : (s.endRecall r).flow = s.flow := (s.endRecall_only r).flow rfl
@[simp] theorem State.fenceLine_flow (f : Nat × Nat) : (s.fenceLine f).flow = s.flow := (s.fenceLine_only f).flow rfl
@[simp] theorem State.fenceWalk_flow : (s.fenceWalk).flow = s.flow := (s.fenceWalk_only).flow rfl
@[simp] theorem State.settleN_flow (fuel : Nat) : (s.settleN fuel).flow = s.flow := (s.settleN_keeps fuel).flow rfl
@[simp] theorem State.settle_flow : s.settle.flow = s.flow := s.settle_keeps.flow rfl
@[simp] theorem State.resume_flow : (s.resume).flow = s.flow := by simp [State.resume]
@[simp] theorem State.homeReq_flow (q : LineReq) : (s.homeReq q).flow = s.flow := by simp [State.homeReq]

@[simp] theorem State.hostReq_flow {f : Nat → State → State} (hf : ∀ h, ∀ u : State, (f h u).flow = u.flow) (port rid dpa : Nat) (read : Bool) :
    (s.hostReq port rid dpa read f).flow = s.flow := by
  refine s.arrive_flow (fun u => ?_) port 1
  split
  · simp
  · split <;> simp [hf]

@[simp] theorem State.leaseLine_flow (port rid dpa ext : Nat) : (s.leaseLine port rid dpa ext).flow = s.flow := by
  refine s.arrive_flow (fun u => ?_) port 1
  split
  · simp
  · split <;> simp

@[simp] theorem leaseReadSt_flow (port rid dpa : Nat) : (leaseReadSt port rid dpa s).flow = s.flow := by
  unfold leaseReadSt
  split <;> simp

@[simp] theorem State.memRd_flow (cls : ReqClass) (port rid dpa : Nat) : (s.memRd cls port rid dpa).flow = s.flow := by
  unfold State.memRd
  split
  · simp
  · exact s.hostReq_flow (fun h u => u.homeReq_flow _) port rid dpa true

@[simp] theorem State.memWr_flow (cls : ReqClass) (port rid dpa : Nat) (full : Bool) (data : Bytes) :
    (s.memWr cls port rid dpa full data).flow = s.flow := by
  unfold State.memWr
  generalize (if s.carries port && s.portClass port == 1 then s.recallWriteback port rid dpa else none) = back
  split
  · simp
  · split
    · exact s.arrive_flow (fun u => by simp) port 1
    · exact s.hostReq_flow (fun h u => u.homeReq_flow _) port rid dpa false

@[simp] theorem evictSt_flow (port rid dpa : Nat) : (evictSt port rid dpa s).flow = s.flow := by
  unfold evictSt
  split
  · exact s.arrive_flow (fun u => by simp) port 1
  · exact s.hostReq_flow (fun h u => u.homeReq_flow _) port rid dpa false

@[simp] theorem State.biRsp_flow (port rid dpa : Nat) (kept : Bool) : (s.biRsp port rid dpa kept).flow = s.flow := by
  refine s.arrive_flow (fun u => ?_) port 1
  split <;> simp

@[simp] theorem birspeSt_flow (port rid dpa : Nat) : (birspeSt port rid dpa s).flow = s.flow := by simp [birspeSt]

@[simp] theorem State.devTouch_flow (cls : ReqClass) (line : Nat) : (s.devTouch cls line).flow = s.flow :=
  (s.devTouch_only cls line).flow rfl

@[simp] theorem State.useRecalled_flow (w : Nat) : (s.useRecalled w).flow = s.flow := by simp [State.useRecalled]

@[simp] theorem extReadSt_flow (mp : MgmtPort) (ext : Nat) : (extReadSt mp ext s).flow = s.flow :=
  s.command_flow (fun u => by simp) mp .ext _

theorem State.mapStorage_flow {x : Extent} {t : State} {a m f : Nat} (h : s.mapStorage x = some (t, a, m, f)) : t.flow = s.flow := by
  unfold State.mapStorage at h
  split at h
  · cases h
  · dsimp only at h
    split at h
    · cases h
    · split at h
      · cases h
      · cases h
        simp

@[simp] theorem extMapSt_flow (mp : MgmtPort) (ext : Nat) : (extMapSt mp ext s).flow = s.flow := by
  refine s.command_flow (fun u => ?_) mp .ext _
  dsimp only
  split
  · rfl
  · split
    · simp
    · split
      · simp
      · split
        · next hm =>
          simpa using u.mapStorage_flow hm
        · simp

@[simp] theorem extGrantSt_flow (mp : MgmtPort) (ext host : Nat) : (extGrantSt mp ext host s).flow = s.flow := by simp [extGrantSt]
@[simp] theorem State.fence_flow (ext host : Nat) : (s.fence ext host).flow = s.flow := by simp [State.fence]

@[simp] theorem extRevokeSt_flow (mp : MgmtPort) (ext host : Nat) : (extRevokeSt mp ext host s).flow = s.flow := by
  refine s.command_flow (fun u => ?_) mp .ext _
  split
  · split <;> simp
  · simp

@[simp] theorem State.unmap_flow (ext : Nat) : (s.unmap ext).flow = s.flow :=
  (State.flow_foldl (fun u h => u.fence_flow ext h) _ _).trans (s.setExtent_flow _ _)

@[simp] theorem extUnmapSt_flow (mp : MgmtPort) (ext : Nat) : (extUnmapSt mp ext s).flow = s.flow := by simp [extUnmapSt]

@[simp] theorem State.giveUp_flow (ext host code : Nat) : (s.giveUp ext host code).flow = s.flow :=
  (State.settle_flow _).trans (State.flow_foldl (fun u r => by simp) _ s)

@[simp] theorem State.resolveHost_flow (ext host code : Nat) : (s.resolveHost ext host code).flow = s.flow := by
  unfold State.resolveHost
  dsimp only
  rw [State.serveWaiting_flow, State.giveUp_flow]
  exact State.flow_foldl (fun u le => by simp) _ _

@[simp] theorem leaseExpireSt_flow (ext host : Nat) : (leaseExpireSt ext host s).flow = s.flow := by simp [leaseExpireSt]

@[simp] theorem State.releaseExtent_flow (ext : Nat) : (s.releaseExtent ext).flow = s.flow := by
  unfold State.releaseExtent
  simp [State.flow_foldl (fun (u : State) (le : Nat × DirEntry) => u.setEntry_flow le.1 .invalid),
    State.flow_foldl (fun (u : State) p => u.dropWrite_flow (pageReq ext p))]

@[simp] theorem drainEndSt_flow (ext : Nat) : (drainEndSt ext s).flow = s.flow := by
  unfold drainEndSt
  generalize ((s.extent ext).state == 2 && _) = un
  dsimp only
  split
  · rfl
  · have hosts (l : List Nat) : (l.foldl (fun s h =>
        { s.resolveHost ext h 2 with leases := tdel (s.resolveHost ext h 2).leases (ext * 256 + h) }) s).flow = s.flow :=
      State.flow_foldl (fun u h => by simp) l s
    simp [hosts]

@[simp] theorem dirHostWriteSt_flow (mp : MgmtPort) (host : Nat) (value : Reg) : (dirHostWriteSt mp host value s).flow = s.flow := by
  simp [dirHostWriteSt]

@[simp] theorem State.fillPage_flow (x : Extent) (ext page : Nat) : (s.fillPage x ext page).flow = s.flow := by
  unfold State.fillPage
  split
  · exact State.flow_foldl (fun u i => u.addPoison_flow _) _ s
  · exact State.flow_foldl (fun u i => by simp) _ s

@[simp] theorem pageInDoneSt_flow (ext page : Nat) (ok : Bool) : (pageInDoneSt ext page ok s).flow = s.flow := by
  unfold pageInDoneSt
  dsimp only
  split
  · split
    · have hd := s.passDies_flow (pageReq ext page) 0 (s.extent ext).tenancy (s.readDies [grainAt ((s.extent ext).pageStore page)])
      split <;> simp_all
    · rfl
  · rfl

@[simp] theorem pageWriteOutSt_flow (ext page : Nat) : (pageWriteOutSt ext page s).flow = s.flow := by simp [pageWriteOutSt]

/-! ### Wire -/

@[simp] theorem State.sendOn_flow (port type : Nat) (m : Msg) : (s.sendOn port type m).flow = s.flow := (s.sendOn_only port type m).flow rfl
@[simp] theorem State.sendTo_flow (rank type : Nat) (m : Msg) : (s.sendTo rank type m).flow = s.flow := (s.sendTo_only rank type m).flow rfl
@[simp] theorem State.setRequests_flow (rs : List WlReq) : (s.setRequests rs).flow = s.flow := (s.setRequests_only rs).flow rfl
@[simp] theorem State.setStream_flow (x : Stream) : (s.setStream x).flow = s.flow := (s.setStream_only x).flow rfl

@[simp] theorem State.accessFails_flow (w : Nat) (who : Option (Nat × Nat)) (status : Nat) : (s.accessFails w who status).flow = s.flow :=
  (s.accessFails_only w who status).flow rfl

@[simp] theorem State.closeSegment_flow (ctx region rank : Nat) : (s.closeSegment ctx region rank).flow = s.flow :=
  (s.closeSegment_only ctx region rank).flow rfl

@[simp] theorem State.pumpStream_flow (ctx region rank : Nat) : (s.pumpStream ctx region rank).flow = s.flow :=
  (s.pumpStream_only ctx region rank).flow rfl

@[simp] theorem State.markSent_flow (tag : Nat) : (s.markSent tag).flow = s.flow := (s.markSent_only tag).flow rfl
@[simp] theorem State.sendStore_flow (r : WlReq) : (s.sendStore r).flow = s.flow := (s.sendStore_only r).flow rfl
@[simp] theorem State.sendStores_flow (ctx rank : Nat) : (s.sendStores ctx rank).flow = s.flow := (s.sendStores_only ctx rank).flow rfl
@[simp] theorem State.addRequest_flow (r : WlReq) : (s.addRequest r).flow = s.flow := by simp [State.addRequest]
@[simp] theorem State.packRequest_flow (r : WlReq) : (s.packRequest r).flow = s.flow := (s.packRequest_only r).flow rfl
@[simp] theorem State.sendRemote_flow (r : WlReq) : (s.sendRemote r).flow = s.flow := (s.sendRemote_only r).flow rfl

@[simp] theorem State.sendWindow_flow (w : Nat) (cell : Option (Nat × Nat)) (ctx kind addr len : Nat) (out : Bytes) :
    (s.sendWindow w cell ctx kind addr len out).flow = s.flow :=
  (s.sendWindow_only w cell ctx kind addr len out).flow rfl

/-! ### Operands -/

@[simp] theorem State.atcUse_flow (e : AtcEntry) : (s.atcUse e).flow = s.flow := (s.atcUse_only e).flow rfl

@[simp] theorem State.locate_flow (t xltRoot a n : Nat) (write : Bool) : (s.locate t xltRoot a n write).2.flow = s.flow :=
  (s.locate_only t xltRoot a n write).flow rfl

@[simp] theorem State.setFault_flow (f : FaultRec) : (s.setFault f).flow = s.flow := (s.setFault_only f).flow rfl
@[simp] theorem State.postFault_flow (f : FaultRec) : (s.postFault f).flow = s.flow := (s.postFault_only f).flow rfl

@[simp] theorem State.raiseFault_flow (x : Work) (addr : Nat) (write run : Bool) (cell : Nat) (cause : FaultCause) (level : Nat) :
    (s.raiseFault x addr write run cell cause level).flow = s.flow :=
  (s.raiseFault_only x addr write run cell cause level).flow rfl

@[simp] theorem State.requestPage_flow (x : Work) (who : Option (Nat × Nat)) (page addr : Nat) (write : Bool) :
    (s.requestPage x who page addr write).flow = s.flow :=
  (s.requestPage_only x who page addr write).flow rfl

@[simp] theorem State.endAccess_flow (x : Work) (who : Option (Nat × Nat)) (status : Nat) : (s.endAccess x who status).flow = s.flow :=
  (s.endAccess_only x who status).flow rfl

@[simp] theorem State.gatePiece_flow (x : Work) (who : Option (Nat × Nat)) (write : Bool) (p : Nat × Nat) :
    (s.gatePiece x who write p).state.flow = s.flow := (s.gatePiece_keeps x who write p).flow rfl

@[simp] theorem State.gatePieces_flow (x : Work) (who : Option (Nat × Nat)) (l : List (Bool × Nat × Nat)) :
    (s.gatePieces x who l).state.flow = s.flow := (s.gatePieces_keeps x who l).flow rfl

@[simp] theorem State.gateBy_flow (x : Work) (who : Option (Nat × Nat)) (accs : List (Nat × Nat × Bool)) :
    (s.gateBy x who accs).state.flow = s.flow := (s.gateBy_keeps x who accs).flow rfl

@[simp] theorem State.gate_flow (x : Work) (accs : List (Nat × Nat × Bool)) : (s.gate x accs).state.flow = s.flow :=
  (s.gate_keeps x accs).flow rfl

@[simp] theorem State.writeBy_flow (x : Work) (who : Option (Nat × Nat)) (a : Nat) (b : Bytes) : (s.writeBy x who a b).flow = s.flow :=
  (s.writeBy_only x who a b).flow rfl

@[simp] theorem State.writeAt_flow (x : Work) (a : Nat) (b : Bytes) : (s.writeAt x a b).flow = s.flow := (s.writeAt_only x a b).flow rfl
@[simp] theorem State.usedBy_flow (w : Nat) (who : Option (Nat × Nat)) : (s.usedBy w who).flow = s.flow := by simp [State.usedBy]
@[simp] theorem State.used_flow (w : Nat) : (s.used w).flow = s.flow := s.usedBy_flow w none

@[simp] theorem State.withWork_flow {f : Work → State → State} (hf : ∀ x, ∀ u : State, (f x u).flow = u.flow) (w : Nat) (op : Nat → Bool) :
    (s.withWork w op f).flow = s.flow := by
  unfold State.withWork
  split
  · split
    · split
      · simp
      · split
        · rfl
        · exact hf _ s
    · rfl
  · rfl

@[simp] theorem State.withAccess_flow {f : State → State} (hf : ∀ u : State, (f u).flow = u.flow) (x : Work) (accs : List (Nat × Nat × Bool)) :
    (s.withAccess x accs f).flow = s.flow := by
  have hg := s.gate_flow x accs
  unfold State.withAccess
  generalize s.gate x accs = g at hg ⊢
  cases g with
  | go u => simpa [hf] using hg
  | hold u => exact hg

@[simp] theorem State.withReads_flow {f : State → State} (hf : ∀ u : State, (f u).flow = u.flow) (x : Work) (reads : List (Nat × Nat)) :
    (s.withReads x reads f).flow = s.flow :=
  s.withAccess_flow (fun u => by simp [hf]) x _

/-! ### Burrow -/

@[simp] theorem State.setBurrow_flow (i : Nat) (b : Burrow) : (s.setBurrow i b).flow = s.flow := (s.setBurrow_only i b).flow rfl

@[simp] theorem State.putLeaf_flow (bi a : Nat) (l : Leaf) : (s.putLeaf bi a l).flow = s.flow := by
  unfold State.putLeaf
  simp [State.flow_foldl (fun (u : State) (c : Nat × Bytes) => u.put_flow c.1 c.2)]

@[simp] theorem State.putNode_flow (bi a : Nat) (n : Node) : (s.putNode bi a n).flow = s.flow := by simp [State.putNode]

theorem State.placeLeaf_flow {t n l a : Nat} {u : State} (h : s.placeLeaf t n = some (l, a, u)) : u.flow = s.flow := by
  unfold State.placeLeaf at h
  dsimp only at h
  split at h
  · cases h
    simp
  · cases h

theorem State.place_flow {r : Nat × Nat} {n al a : Nat} {u : State} (h : s.place r n al = some (a, u)) : u.flow = s.flow := by
  obtain ⟨b, -, hb⟩ := Option.map_eq_some_iff.mp h
  cases hb
  exact s.drawn_flow

theorem State.placeBurrow_flow {bi : Nat} {b : Burrow} {t : State} (h : s.placeBurrow bi b = some t) : t.flow = s.flow := by
  obtain ⟨⟨cb, u⟩, hu, h⟩ := Option.bind_eq_some_iff.mp h
  obtain ⟨⟨dd, v⟩, hv, h⟩ := Option.bind_eq_some_iff.mp h
  have hdir : v.flow = s.flow := (State.place_flow _ hv).trans ((State.setBurrow_flow _ _ _).trans (s.place_flow hu))
  dsimp only at h
  split at h
  · obtain ⟨⟨vs, w⟩, hw, h⟩ := Option.bind_eq_some_iff.mp h
    cases hw
    dsimp only at h
    split at h
    · cases h
    · obtain ⟨sb, -, h⟩ := Option.bind_eq_some_iff.mp h
      cases h
      simpa using hdir
  · obtain ⟨⟨vs, w⟩, hw, h⟩ := Option.bind_eq_some_iff.mp h
    have hvec := State.place_flow _ hw
    dsimp only at h
    split at h
    · cases h
    · obtain ⟨sb, -, h⟩ := Option.bind_eq_some_iff.mp h
      cases h
      simpa using hvec.trans ((State.setBurrow_flow _ _ _).trans hdir)

theorem State.newLeaves_flow {bi n : Nat} {as : List Nat} {t : State} (h : s.newLeaves bi n = some (as, t)) : t.flow = s.flow := by
  induction n generalizing s as with
  | zero =>
    cases h
    rfl
  | succ n ih =>
    obtain ⟨⟨l, a, u⟩, hu, h⟩ := Option.bind_eq_some_iff.mp h
    obtain ⟨⟨rest, v⟩, hv, h⟩ := Option.bind_eq_some_iff.mp h
    cases h
    exact (ih _ hv).trans ((State.putLeaf_flow _ _ _ _).trans (s.placeLeaf_flow hu))

theorem State.newNodes_flow {bi : Nat} {ns : List SkelNode} {as : List Nat} {t : State} (h : s.newNodes bi ns = some (as, t)) :
    t.flow = s.flow := by
  induction ns generalizing s as with
  | nil =>
    cases h
    rfl
  | cons n ns ih =>
    obtain ⟨⟨a, u⟩, hu, h⟩ := Option.bind_eq_some_iff.mp h
    obtain ⟨⟨rest, v⟩, hv, h⟩ := Option.bind_eq_some_iff.mp h
    cases h
    exact (ih _ hv).trans ((State.setBurrow_flow _ _ _).trans (s.place_flow hu))

theorem State.plantTree_flow {bi : Nat} {sk : Option Skeleton} {t : State} (h : s.plantTree bi sk = some t) : t.flow = s.flow := by
  cases sk with
  | none =>
    obtain ⟨⟨as, u⟩, hu, h⟩ := Option.bind_eq_some_iff.mp h
    cases h
    simpa using s.newLeaves_flow hu
  | some k =>
    obtain ⟨⟨ls, u⟩, hu, h⟩ := Option.bind_eq_some_iff.mp h
    obtain ⟨⟨ns, v⟩, hv, h⟩ := Option.bind_eq_some_iff.mp h
    cases h
    refine (State.flow_foldl (fun u p => by simp) _ _).trans ((State.flow_foldl (fun u p => by simp) _ _).trans ?_)
    simpa using (u.newNodes_flow hv).trans (s.newLeaves_flow hu)

theorem State.buildBurrow_flow {x : Work} {sk : Option Skeleton} {book : Bytes} {t : State} (h : s.buildBurrow x sk book = some t) :
    t.flow = s.flow := by
  obtain ⟨u, hu, rfl⟩ := Option.map_eq_some_iff.mp h
  obtain ⟨v, hv, hu⟩ := Option.bind_eq_some_iff.mp hu
  simpa using (v.plantTree_flow hu).trans (s.placeBurrow_flow hv)

@[simp] theorem burrowCreateSt_flow (w : Nat) (codebook skel : Bytes) : (burrowCreateSt w codebook skel s).flow = s.flow := by
  refine s.withWork_flow (fun x u => ?_) w _
  split
  · simp
  · refine u.withReads_flow (fun v => ?_) x _
    dsimp only
    split
    · simp
    · split
      · next hb => simpa using v.buildBurrow_flow hb
      · simp

@[simp] theorem burrowFreezeSt_flow (w : Nat) : (burrowFreezeSt w s).flow = s.flow := s.withWork_flow (fun x u => by simp) w _
@[simp] theorem burrowThawSt_flow (w : Nat) : (burrowThawSt w s).flow = s.flow := s.withWork_flow (fun x u => by simp) w _
@[simp] theorem State.clearPins_flow (burrow : Nat) : (s.clearPins burrow).flow = s.flow := by simp [State.clearPins]
@[simp] theorem State.denyAfter_flow (w burrow : Nat) : (s.denyAfter w burrow).flow = s.flow := by simp [State.denyAfter]
@[simp] theorem burrowDropSt_flow (w : Nat) : (burrowDropSt w s).flow = s.flow := s.withWork_flow (fun x u => by simp) w _

/-! ### L1 -/

@[simp] theorem State.setRun_flow (r : Run) : (s.setRun r).flow = s.flow := (s.setRun_only r).flow rfl

@[simp] theorem State.flushLine_flow (x : Work) (l : L1Line) : (s.flushLine x l).2.flow = s.flow := by
  have put (u : State) (rs : List (Nat × Bytes)) : (rs.foldl (fun s r => s.put (l.addr + r.1) r.2) u).flow = u.flow :=
    State.flow_foldl (fun u r => u.put_flow _ _) rs u
  unfold State.flushLine
  dsimp only
  split
  · rfl
  · split
    · exact State.flow_foldl (fun u r => u.emit_flow _) _ s
    · split
      · exact State.flow_foldl (fun u r => u.sendWindow_flow _ _ _ _ _ _ _) _ s
      · split
        · have hd := (s.devLine_keeps .devWr x.id (l.addr % 2 ^ 48 / 64)).flow rfl
          generalize s.devLine .devWr x.id (l.addr % 2 ^ 48 / 64) = d at hd ⊢
          cases d with
          | ready u => exact ((State.useRecalled_keeps _ x.id).flow rfl).trans ((put u (dirtyRuns 0 (l.data.zip l.dirty))).trans hd)
          | blocked u => exact hd
        · exact put s _

@[simp] theorem State.flushL1_flow (x : Work) (run sett : Nat) (pick : L1Line → Bool) : (s.flushL1 x run sett pick).flow = s.flow := by
  unfold State.flushL1
  split
  · rfl
  · refine State.flow_foldl (fun u l => ?_) _ s
    split
    · rfl
    · dsimp only
      split
      · split <;> simp
      · simp

@[simp] theorem State.flushRun_flow (w : Nat) : (s.flushRun w).flow = s.flow := by
  unfold State.flushRun
  split
  · exact State.flow_foldl (fun u k => u.flushL1_flow _ _ _ _) _ s
  · rfl

@[simp] theorem State.unissue_flow (w : Nat) : (s.unissue w).flow = s.flow := by
  unfold State.unissue
  split <;> simp

@[simp] theorem State.saveRun_flow (w : Nat) : (s.saveRun w).flow = s.flow := by simp [State.saveRun]

@[simp] theorem State.saveThere_flow (den w : Nat) (ks : List Nat) : (s.saveThere den w ks).flow = s.flow :=
  State.flow_foldl (fun u _ => u.saveRun_flow _) _ s

@[simp] theorem State.awaitSett_flow (w den t : Nat) : (s.awaitSett w den t).flow = s.flow := by simp [State.awaitSett]

@[simp] theorem State.takeResident_flow (den t k : Nat) : (s.takeResident den t k).state.flow = s.flow := by
  unfold State.takeResident
  split
  · rfl
  · dsimp only
    split <;> simp

@[simp] theorem State.onSett_flow {f : State → State} (hf : ∀ u : State, (f u).flow = u.flow) (w den t : Nat) :
    (s.onSett w den t f).flow = s.flow := by
  unfold State.onSett
  split
  · next k _ =>
    have hg := s.takeResident_flow den t k
    generalize s.takeResident den t k = g at hg ⊢
    cases g with
    | go u => simpa [hf] using hg
    | hold u => simpa using hg
  · simp

/-! ### Search -/

@[simp] theorem walkStartSt_flow (w query : Nat) : (walkStartSt w query s).flow = s.flow := by
  refine s.withWork_flow (fun x u => ?_) w _
  dsimp only
  split
  · split
    · split <;> simp
    · rfl
  · rfl

@[simp] theorem State.scanWork_flow (x : Work) (vecs : List (List Nat)) (sets : List Nat) : (s.scanWork x vecs sets).flow = s.flow := by
  unfold State.scanWork
  refine (State.flow_foldl (fun u p => ?_) _ _).trans (s.setWork_flow _)
  split
  · rfl
  · split
    · split
      · exact u.onUnits_flow (fun v => v.setWork_flow _) _ _ _ _
      · rfl
    · rfl

@[simp] theorem State.searchLocal_flow (x : Work) (query setVals : Bytes) : (s.searchLocal x query setVals).flow = s.flow := by
  unfold State.searchLocal
  dsimp only
  split
  · simp
  · refine s.withReads_flow (fun u => ?_) x _
    split <;> simp

@[simp] theorem searchBatchSt_flow (w : Nat) (query setVals : Bytes) : (searchBatchSt w query setVals s).flow = s.flow :=
  s.withWork_flow (fun x u => u.searchLocal_flow x query setVals) w _

@[simp] theorem State.cacheVec_flow (burrow slot : Nat) : (s.cacheVec burrow slot).flow = s.flow := by simp [State.cacheVec]

@[simp] theorem State.lookupVec_flow (burrow : Nat) (readable : Bool) (slot : Nat) : (s.lookupVec burrow readable slot).flow = s.flow := by
  simp [State.lookupVec]

@[simp] theorem State.rerankQuery_flow (x : Work) (query : Nat) (q : Query) (unreadable poisoned : List Nat) :
    (s.rerankQuery x query q unreadable poisoned).flow = s.flow := by
  unfold State.rerankQuery
  dsimp only
  rw [State.setWork_flow]
  exact (State.flow_foldl (fun u c => u.lookupVec_flow _ _ _) _ _).trans
    (State.flow_foldl (fun u c => State.flow_foldl State.loseGrain_flow _ u) _ s)

@[simp] theorem rerankStartSt_flow (w query : Nat) (unreadable poisoned : List Nat) :
    (rerankStartSt w query unreadable poisoned s).flow = s.flow := by
  refine s.withWork_flow (fun x u => ?_) w _
  dsimp only
  split
  · split
    · exact u.onSett_flow (fun v => v.onMedia_flow (fun r => r.rerankQuery_flow _ _ _ _ _) _ _ _ _ _) _ _ _
    · rfl
  · rfl

@[simp] theorem State.selectLocal_flow (x : Work) (query : Nat) (q : Query) : (s.selectLocal x query q).flow = s.flow := by
  simp [State.selectLocal]

@[simp] theorem topkSt_flow (w : Nat) (scores indices : Bytes) : (topkSt w scores indices s).flow = s.flow := by
  refine s.withWork_flow (fun x u => ?_) w _
  split
  · rfl
  · next den _ =>
    have hg := u.passUnit_flow w topkCell x.tenancy [denMap den]
    dsimp only
    split
    · rfl
    · generalize u.passUnit w topkCell x.tenancy [denMap den] = g at hg ⊢
      cases g with
      | hold v => exact hg
      | go v =>
        refine (v.withAccess_flow (fun r => State.flow_cases (fun _ => r.finish_flow _ _) (fun _ => ?_)) _ _).trans hg
        exact (State.finish_flow _ _ _).trans (State.flow_foldl (fun u p => u.writeAt_flow _ _ _) _ r)

/-! ### Updates -/

@[simp] theorem State.writeVector_flow (w bi slot : Nat) (vec : Bytes) : (s.writeVector w bi slot vec).flow = s.flow := by
  simp [State.writeVector]

theorem State.routeItems_flow {w bi : Nat} {items out : List UpdItem} {t : State} (h : s.routeItems w bi items = some (out, t)) :
    t.flow = s.flow := by
  induction items generalizing s out with
  | nil =>
    cases h
    rfl
  | cons i items ih =>
    unfold State.routeItems at h
    split at h
    · obtain ⟨⟨rest, u⟩, hu, h⟩ := Option.bind_eq_some_iff.mp h
      cases h
      exact ih s hu
    · obtain ⟨⟨k, b⟩, -, h⟩ := Option.bind_eq_some_iff.mp h
      obtain ⟨⟨rest, u⟩, hu, h⟩ := Option.bind_eq_some_iff.mp h
      cases h
      simpa using ih _ hu

@[simp] theorem State.returnSlot_flow (bi : Nat) (i : UpdItem) : (s.returnSlot bi i).flow = s.flow := by simp [State.returnSlot]

theorem State.appendEntry_flow {bi a : Nat} {e : SideEntry} {t : State} (h : s.appendEntry bi a e = some t) : t.flow = s.flow := by
  unfold State.appendEntry at h
  dsimp only at h
  split at h
  · cases h
    simp
  · split at h
    · cases h
    · obtain ⟨c, -, rfl⟩ := Option.map_eq_some_iff.mp h
      simp

theorem State.appendTomb_flow {bi key seq : Nat} {t : State} (h : s.appendTomb bi key seq = some t) : t.flow = s.flow := by
  unfold State.appendTomb at h
  split at h
  · exact s.appendEntry_flow h
  · cases h

theorem State.appendInsert_flow {bi seq : Nat} {i : UpdItem} {t : State} (h : s.appendInsert bi seq i = some t) : t.flow = s.flow :=
  s.appendEntry_flow h

theorem State.applyItem_flow {bi o : Nat} {i : UpdItem} {t : State} (h : s.applyItem bi i o = some t) : t.flow = s.flow := by
  unfold State.applyItem at h
  dsimp only at h
  by_cases ht : o = 1 ∨ o = 2
  · rw [if_pos ht] at h
    obtain ⟨u, hu, h⟩ := Option.bind_eq_some_iff.mp h
    have htomb := s.appendTomb_flow hu
    by_cases hs : takesSlot o = true
    · rw [if_pos hs] at h
      obtain ⟨v, hv, h⟩ := Option.bind_eq_some_iff.mp h
      cases h
      simpa using (u.appendInsert_flow hv).trans htomb
    · rw [if_neg hs] at h
      cases h
      simpa using htomb
  · rw [if_neg ht] at h
    obtain ⟨u, hu, h⟩ := Option.bind_eq_some_iff.mp h
    cases hu
    by_cases hs : takesSlot o = true
    · rw [if_pos hs] at h
      obtain ⟨v, hv, h⟩ := Option.bind_eq_some_iff.mp h
      cases h
      simpa using State.appendInsert_flow _ hv
    · rw [if_neg hs] at h
      cases h
      simp

@[simp] theorem State.applyItems_flow (x : Work) (l : List (UpdItem × Nat)) : (s.applyItems x l).2.flow = s.flow := by
  induction l generalizing s x with
  | nil => rfl
  | cons p l ih =>
    unfold State.applyItems
    split
    · simp [ih]
    · split
      · rfl
      · next h => exact (ih _ _).trans (s.applyItem_flow h)

@[simp] theorem State.applyUpdate_flow (x : Work) : (s.applyUpdate x).flow = s.flow := by
  unfold State.applyUpdate
  have hitems := s.applyItems_flow x (s.remaining x)
  simp [hitems]

@[simp] theorem State.changeBurrow_flow (x : Work) : (s.changeBurrow x).flow = s.flow := by simp [State.changeBurrow]

@[simp] theorem State.routeUpdate_flow (x : Work) (codes : List Bytes) : (s.routeUpdate x codes).flow = s.flow := by
  unfold State.routeUpdate
  dsimp only
  split
  · simp
  · split
    · simp
    · split
      · rfl
      · split
        · rfl
        · refine s.onUnits_flow (fun u => ?_) _ _ _ _
          split
          · simp
          · split
            · rfl
            · next hr =>
              have hu := u.routeItems_flow hr
              split <;> simp [hu]

@[simp] theorem State.advanceUpdate_flow (x : Work) : (s.advanceUpdate x).flow = s.flow := by
  unfold State.advanceUpdate
  (repeat' split) <;> simp

@[simp] theorem State.readUpdate_flow (x : Work) (records vectors : Bytes) : (s.readUpdate x records vectors).flow = s.flow := by
  simp only [State.readUpdate]
  split <;> simp

@[simp] theorem State.updateStep_flow (x : Work) (records vectors : Bytes) : (s.updateStep x records vectors).flow = s.flow := by
  simp [State.updateStep]

@[simp] theorem insertSt_flow (w : Nat) (records vectors : Bytes) : (insertSt w records vectors s).flow = s.flow :=
  s.withWork_flow (fun x u => u.updateStep_flow x records vectors) w _

@[simp] theorem deleteSt_flow (w : Nat) (ids : Bytes) : (deleteSt w ids s).flow = s.flow :=
  s.withWork_flow (fun x u => u.updateStep_flow x ids []) w _

@[simp] theorem upsertSt_flow (w : Nat) (records vectors : Bytes) : (upsertSt w records vectors s).flow = s.flow :=
  s.withWork_flow (fun x u => u.updateStep_flow x records vectors) w _

@[simp] theorem appendResumeSt_flow (w : Nat) : (appendResumeSt w s).flow = s.flow := s.withWork_flow (fun x u => by simp) w _

@[simp] theorem pqEncodeRunSt_flow (w : Nat) : (pqEncodeRunSt w s).flow = s.flow := by
  refine s.withWork_flow (fun x u => ?_) w _
  split <;> simp

/-! ### Beaver -/

@[simp] theorem beaverMergeStartSt_flow (burrow leaf : Nat) : (beaverMergeStartSt burrow leaf s).flow = s.flow := by
  simp [beaverMergeStartSt]

theorem State.putChunks_flow {bi a : Nat} {cs : List (List SideEntry)} {t : State} (h : s.putChunks bi a cs = some t) : t.flow = s.flow := by
  induction cs generalizing s with
  | nil =>
    cases h
    rfl
  | cons c cs ih =>
    obtain ⟨c, -, h⟩ := Option.bind_eq_some_iff.mp h
    simpa using ih _ h

theorem State.writeLeaf_flow {bi old seq a : Nat} {body : List (Spot × BodyItem)} {carried : List (Nat × SideEntry)} {t : State}
    (h : s.writeLeaf bi old body carried seq = some (a, t)) : t.flow = s.flow := by
  obtain ⟨keys, -, h⟩ := Option.bind_eq_some_iff.mp h
  obtain ⟨⟨l, b, u⟩, hu, h⟩ := Option.bind_eq_some_iff.mp h
  obtain ⟨v, hv, h⟩ := Option.bind_eq_some_iff.mp h
  cases h
  simpa using (State.putChunks_flow _ hv).trans ((State.putLeaf_flow _ _ _ _).trans (State.placeLeaf_flow _ hu))

theorem State.writeNode_flow {bi a : Nat} {n : Node} {t : State} (h : s.writeNode bi n = some (a, t)) : t.flow = s.flow := by
  obtain ⟨⟨b, u⟩, hu, h⟩ := Option.bind_eq_some_iff.mp h
  cases h
  exact (State.flow_foldl (fun v c => by split <;> simp) _ _).trans ((State.putNode_flow _ _ _ _).trans (s.place_flow hu))

@[simp] theorem State.logSwap_flow (bi installed replaced : Nat) : (s.logSwap bi installed replaced).flow = s.flow := by
  simp [State.logSwap]

@[simp] theorem State.deepen_flow (bi : Nat) : (s.deepen bi).flow = s.flow := State.flow_foldl (fun u _ => u.putNode_flow _ _ _) _ s

theorem State.graft_flow {bi fuel old : Nat} {new : List ((Bool × Nat) × List Nat)} {t : State} (h : s.graft bi fuel old new = some t) :
    t.flow = s.flow := by
  induction fuel generalizing s old new with
  | zero => cases h
  | succ fuel ih =>
    unfold State.graft at h
    dsimp only at h
    split at h
    · cases h
      simp
    · obtain ⟨⟨r, u⟩, hu, h⟩ := Option.bind_eq_some_iff.mp h
      cases h
      refine Eq.trans (b := u.flow) (by simp) ((State.writeNode_flow _ hu).trans ?_)
      exact (State.flow_foldl (fun v c => v.putNode_flow _ _ _) _ _).trans (s.deepen_flow bi)
    · cases h
      simp
    · split at h
      · obtain ⟨⟨a, u⟩, hu, h⟩ := Option.bind_eq_some_iff.mp h
        simpa using (ih _ h).trans (State.writeNode_flow _ hu)
      · obtain ⟨⟨a, u⟩, hu, h⟩ := Option.bind_eq_some_iff.mp h
        obtain ⟨⟨b, v⟩, hv, h⟩ := Option.bind_eq_some_iff.mp h
        simpa using (ih _ h).trans ((State.writeNode_flow _ hv).trans (State.writeNode_flow _ hu))

@[simp] theorem State.settleMerge_flow (bi old : Nat) (dropped : List BodyItem) (news : List Nat) :
    (s.settleMerge bi old dropped news).flow = s.flow := by
  simp [State.settleMerge]

@[simp] theorem State.markMerged_flow (bi : Nat) : (s.markMerged bi).flow = s.flow := by simp [State.markMerged]

theorem State.installOne_flow {bi old : Nat} {f : Fold} {t : State} (h : s.installOne bi old f = some t) : t.flow = s.flow := by
  obtain ⟨⟨a, u⟩, hu, h⟩ := Option.bind_eq_some_iff.mp h
  obtain ⟨v, hv, h⟩ := Option.bind_eq_some_iff.mp h
  cases h
  simpa using (u.graft_flow hv).trans (s.writeLeaf_flow hu)

theorem State.installTwo_flow {bi old : Nat} {f : Fold} {t : State} (h : s.installTwo bi old f = some t) : t.flow = s.flow := by
  unfold State.installTwo at h
  dsimp only at h
  split at h
  · cases h
  · obtain ⟨⟨a, u⟩, hu, h⟩ := Option.bind_eq_some_iff.mp h
    obtain ⟨⟨b, v⟩, hv, h⟩ := Option.bind_eq_some_iff.mp h
    obtain ⟨w, hw, h⟩ := Option.bind_eq_some_iff.mp h
    cases h
    simpa using (v.graft_flow hw).trans ((u.writeLeaf_flow hv).trans (s.writeLeaf_flow hu))

theorem State.installMerge_flow {bi : Nat} {m : Merge} {t : State} (h : s.installMerge bi m = some t) : t.flow = s.flow := by
  have full (h : ((((s.burrow bi).leaf m.leaf).foldFull m.point).bind (s.installOne bi m.leaf)) = some t) : t.flow = s.flow := by
    obtain ⟨f, -, h⟩ := Option.bind_eq_some_iff.mp h
    exact s.installOne_flow h
  unfold State.installMerge at h
  dsimp only at h
  split at h
  · exact s.installOne_flow h
  · split at h
    · cases htwo : s.installTwo bi m.leaf (((s.burrow bi).leaf m.leaf).fold m.point) with
      | none => exact full (by simpa [htwo] using h)
      | some u => exact s.installTwo_flow (htwo.trans (by simpa [htwo] using h))
    · exact full h

@[simp] theorem State.swapLeaf_flow (bi a : Nat) : (s.swapLeaf bi a).flow = s.flow := by
  unfold State.swapLeaf
  dsimp only
  split
  · rfl
  · split
    · rfl
    · split
      · next h => simpa using State.installMerge_flow _ h
      · simp

@[simp] theorem State.swapAll_flow : s.swapAll.flow = s.flow := State.flow_foldl (fun u _ => u.swapLeaf_flow _ _) _ s
@[simp] theorem tombstoneFoldSt_flow (burrow leaf : Nat) : (tombstoneFoldSt burrow leaf s).flow = s.flow := by simp [tombstoneFoldSt]

@[simp] theorem leafVersionFreeSt_flow (burrow addr : Nat) : (leafVersionFreeSt burrow addr s).flow = s.flow := by
  unfold leafVersionFreeSt
  dsimp only
  split
  · split
    · rfl
    · exact (State.flow_foldl (fun u r => u.freeStorage_flow _ _ _) _ _).trans (by simp)
  · rfl

/-! ### Requests -/

@[simp] theorem State.badMsg_flow : (s.badMsg).flow = s.flow := by simp [State.badMsg]
@[simp] theorem State.refuse_flow (t : Nat) : (s.refuse t).flow = s.flow := by simp [State.refuse]

@[simp] theorem State.message_flow {f : State → State} (hf : ∀ u : State, (f u).flow = u.flow) (port type : Nat) (m : Msg) :
    (s.message port type m f).flow = s.flow :=
  s.arrive_flow (fun u => by simp [hf]) port 2

@[simp] theorem State.createRequest_flow (kind w : Nat) : (s.createRequest kind w).flow = s.flow := by simp [State.createRequest]
@[simp] theorem State.setRequest_flow (o : Owned) : (s.setRequest o).flow = s.flow := by simp [State.setRequest]
@[simp] theorem State.endRequest_flow (kind w : Nat) : (s.endRequest kind w).flow = s.flow := (s.endRequest_only kind w).flow rfl
@[simp] theorem State.sendCopy_flow (o : Owned) (image : Bytes) : (s.sendCopy o image).flow = s.flow := (s.sendCopy_only o image).flow rfl

@[simp] theorem State.endPhase_flow (kind w phase : Nat) (image : Bytes) : (s.endPhase kind w phase image).flow = s.flow :=
  (s.endPhase_only kind w phase image).flow rfl

@[simp] theorem State.logTakeover_flow (kind w phase status count : Nat) : (s.logTakeover kind w phase status count).flow = s.flow := by
  unfold State.logTakeover
  split <;> simp

/-! ### Groups -/

@[simp] theorem State.setBank_flow (id base : Nat) (b : Tab Reg) : (s.setBank id base b).flow = s.flow := by simp [State.setBank]
@[simp] theorem State.asAdmitted_flow (x : Work) (id base : Nat) : (s.asAdmitted x id base).flow = s.flow := by simp [State.asAdmitted]

@[simp] theorem State.underGroup_flow {f : State → State} (hf : ∀ u : State, (f u).flow = u.flow) (x : Work) (id base : Nat) :
    (s.underGroup x id base f).flow = s.flow := by
  unfold State.underGroup
  split <;> simp [hf]

@[simp] theorem State.admitForward_flow (port src tag shard bi t : Nat) (payload : Bytes) :
    (s.admitForward port src tag shard bi t payload).flow = s.flow := by
  simp [State.admitForward]

@[simp] theorem State.answerPartial_flow (port src tag bi : Nat) (payload : Bytes) : (s.answerPartial port src tag bi payload).flow = s.flow := by
  simp [State.answerPartial]

@[simp] theorem State.takeForward_flow (port : Nat) (m : Msg) : (s.takeForward port m).flow = s.flow := by
  simp only [State.takeForward]
  (repeat' split) <;> simp

@[simp] theorem fwdQuerySt_flow (port : Nat) (m : Msg) : (fwdQuerySt port m s).flow = s.flow := by simp [fwdQuerySt]
@[simp] theorem cancelSt_flow (port : Nat) (m : Msg) : (cancelSt port m s).flow = s.flow := by simp [cancelSt]

@[simp] theorem State.searchForward_flow (x : Work) : (s.searchForward x).flow = s.flow := by
  simp only [State.searchForward]
  split <;> simp

@[simp] theorem State.setGroup_flow (g : GroupSearch) : (s.setGroup g).flow = s.flow := (s.setGroup_only g).flow rfl
@[simp] theorem State.keepPartial_flow (w : Nat) (p : Partial) : (s.keepPartial w p).flow = s.flow := (s.keepPartial_only w p).flow rfl

@[simp] theorem State.sendQuery_flow (g : GroupSearch) (shard rank : Nat) : (s.sendQuery g shard rank).flow = s.flow := by
  unfold State.sendQuery
  (repeat' split) <;> simp

@[simp] theorem State.fanOut_flow (x : Work) (message : Bytes) : (s.fanOut x message).flow = s.flow := by
  unfold State.fanOut
  exact (State.flow_foldl (fun u p => u.sendQuery_flow _ _ _) _ _).trans (by simp)

@[simp] theorem State.mergeGroup_flow (g : GroupSearch) (x : Work) : (s.mergeGroup g x).flow = s.flow := by simp [State.mergeGroup]
@[simp] theorem State.endGroup_flow (g : GroupSearch) : (s.endGroup g).flow = s.flow := (s.endGroup_only g).flow rfl

@[simp] theorem State.finishGroup_flow (g : GroupSearch) : (s.finishGroup g).flow = s.flow := by
  unfold State.finishGroup
  split <;> simp

@[simp] theorem State.advanceGroup_flow (w : Nat) : (s.advanceGroup w).flow = s.flow := by
  simp only [State.advanceGroup]
  (repeat' split) <;> simp

@[simp] theorem searchSt_flow (w : Nat) (query setVals : Bytes) : (searchSt w query setVals s).flow = s.flow := by
  refine s.withWork_flow (fun x u => ?_) w _
  dsimp only
  split
  · simp
  · split
    · simp
    · split
      · split
        · simp
        · split
          · simp
          · refine State.flow_cases (fun _ => u.searchLocal_flow x query setVals) (fun _ => ?_)
            split <;> simp
      · simp

@[simp] theorem topkSelectSt_flow (w query : Nat) : (topkSelectSt w query s).flow = s.flow := by
  refine s.withWork_flow (fun x u => ?_) w _
  split
  · rfl
  · have hg := u.passUnit_flow w (topkCell + 1 + query) x.tenancy [denMap (u.burrow x.burrow).homeDen]
    dsimp only
    split
    · rfl
    · generalize u.passUnit w (topkCell + 1 + query) x.tenancy [denMap (u.burrow x.burrow).homeDen] = g at hg ⊢
      cases g with
      | hold v => exact hg
      | go v =>
        refine Eq.trans ?_ hg
        dsimp only
        split
        · simp
        · split
          · simp
          · split <;> simp

@[simp] theorem State.takePartial_flow (src tag status : Nat) (p : Bytes) : (s.takePartial src tag status p).flow = s.flow := by
  unfold State.takePartial
  split <;> simp

@[simp] theorem partialListSt_flow (port : Nat) (m : Msg) : (partialListSt port m s).flow = s.flow := by simp [partialListSt]

@[simp] theorem State.answerForward_flow (x : Work) (o : Origin) (r : Result) : (s.answerForward x o r).flow = s.flow := by
  simp [State.answerForward]

@[simp] theorem State.reviewGroups_flow : s.reviewGroups.flow = s.flow := by
  refine State.flow_foldl (fun u g => ?_) _ s
  dsimp only
  rw [State.advanceGroup_flow]
  refine State.flow_foldl (fun v p => ?_) _ u
  split
  · rfl
  · split <;> simp

@[simp] theorem State.resumeGroup_flow (g : GroupSearch) : (s.resumeGroup g).flow = s.flow := by
  unfold State.resumeGroup
  dsimp only
  rw [State.advanceGroup_flow]
  split
  · exact State.flow_foldl (fun u p => u.sendQuery_flow _ _ _) _ _
  · rfl

@[simp] theorem mergePartialSt_flow (w : Nat) (lists : Bytes) : (mergePartialSt w lists s).flow = s.flow := by
  refine s.withWork_flow (fun x u => ?_) w _
  dsimp only
  split
  · rfl
  · next den _ =>
    have hg := u.passUnit_flow w topkCell x.tenancy [denMap den]
    split
    · rfl
    · generalize u.passUnit w topkCell x.tenancy [denMap den] = g at hg ⊢
      cases g with
      | hold v => exact hg
      | go v => exact (v.withAccess_flow (fun r => by simp) _ _).trans hg

/-! ### Cells -/

@[simp] theorem State.cellOp_flow {f : Work → Run → Cell → Nat → State → State} (hf : ∀ x r c w, ∀ u : State, (f x r c w u).flow = u.flow)
    (run sett cell op : Nat) : (s.cellOp run sett cell op f).flow = s.flow := by
  unfold State.cellOp
  split
  · dsimp only
    split
    · exact hf _ _ _ _ s
    · rfl
  · rfl

@[simp] theorem State.retire_flow (r : Run) (sett cell : Nat) (c : Cell) : (s.retire r sett cell c).flow = s.flow := by simp [State.retire]

@[simp] theorem State.cellOnly_flow (run sett cell op : Nat) (f : Nat → Cell → Cell) : (s.cellOnly run sett cell op f).flow = s.flow :=
  s.cellOp_flow (fun _ _ _ _ u => u.retire_flow _ _ _ _) run sett cell op

@[simp] theorem State.laneOp_flow (run sett cell op : Nat) (f : Nat → Nat → Nat → LaneOut) : (s.laneOp run sett cell op f).flow = s.flow :=
  s.cellOp_flow (fun _ _ _ _ u => u.retire_flow _ _ _ _) run sett cell op

@[simp] theorem nopOpSt_flow (run sett cell : Nat) : (nopOpSt run sett cell s).flow = s.flow := by simp [nopOpSt]

@[simp] theorem loopSt_flow (run sett cell : Nat) : (loopSt run sett cell s).flow = s.flow :=
  s.cellOp_flow (fun _ _ _ _ u => u.setRun_flow _) run sett cell 0x01

@[simp] theorem syncSt_flow (run sett cell : Nat) : (syncSt run sett cell s).flow = s.flow :=
  s.cellOp_flow (fun x r c w u => by simp) run sett cell 0x02

@[simp] theorem haltSt_flow (run sett cell : Nat) : (haltSt run sett cell s).flow = s.flow :=
  s.cellOp_flow (fun _ _ _ _ u => u.setRun_flow _) run sett cell 0x03

@[simp] theorem ldsSt_flow (run sett cell : Nat) : (ldsSt run sett cell s).flow = s.flow :=
  s.cellOp_flow (fun _ _ _ _ u => u.retire_flow _ _ _ _) run sett cell 0x06

@[simp] theorem stsSt_flow (run sett cell : Nat) : (stsSt run sett cell s).flow = s.flow :=
  s.cellOp_flow (fun _ _ _ _ u => u.retire_flow _ _ _ _) run sett cell 0x07

@[simp] theorem aclrSt_flow (run sett cell : Nat) : (aclrSt run sett cell s).flow = s.flow := by simp [aclrSt]
@[simp] theorem amovSt_flow (run sett cell : Nat) : (amovSt run sett cell s).flow = s.flow := by simp [amovSt]
@[simp] theorem addSt_flow (run sett cell : Nat) : (addSt run sett cell s).flow = s.flow := by simp [addSt]
@[simp] theorem subSt_flow (run sett cell : Nat) : (subSt run sett cell s).flow = s.flow := by simp [subSt]
@[simp] theorem mulSt_flow (run sett cell : Nat) : (mulSt run sett cell s).flow = s.flow := by simp [mulSt]

@[simp] theorem fmaSt_flow (run sett cell : Nat) : (fmaSt run sett cell s).flow = s.flow :=
  s.cellOp_flow (fun _ _ _ _ u => u.retire_flow _ _ _ _) run sett cell 0x23

@[simp] theorem maxSt_flow (run sett cell : Nat) : (maxSt run sett cell s).flow = s.flow := by simp [maxSt]
@[simp] theorem minSt_flow (run sett cell : Nat) : (minSt run sett cell s).flow = s.flow := by simp [minSt]

@[simp] theorem addiSt_flow (run sett cell : Nat) : (addiSt run sett cell s).flow = s.flow :=
  s.cellOp_flow (fun _ _ _ _ u => u.retire_flow _ _ _ _) run sett cell 0x27

@[simp] theorem logicSt_flow (run sett cell : Nat) : (logicSt run sett cell s).flow = s.flow := by simp [logicSt]

@[simp] theorem reduceSt_flow (run sett cell : Nat) : (reduceSt run sett cell s).flow = s.flow :=
  s.cellOp_flow (fun _ _ _ _ u => u.retire_flow _ _ _ _) run sett cell 0x29

@[simp] theorem dotSt_flow (run sett cell : Nat) : (dotSt run sett cell s).flow = s.flow :=
  s.cellOp_flow (fun _ _ _ _ u => u.retire_flow _ _ _ _) run sett cell 0x10

@[simp] theorem popcSt_flow (run sett cell : Nat) : (popcSt run sett cell s).flow = s.flow :=
  s.cellOp_flow (fun _ _ _ _ u => u.retire_flow _ _ _ _) run sett cell 0x11

@[simp] theorem cvtSt_flow (run sett cell : Nat) : (cvtSt run sett cell s).flow = s.flow :=
  s.cellOp_flow (fun _ _ _ _ u => State.flow_cases (fun _ => u.retire_flow _ _ _ _) (fun _ => u.retire_flow _ _ _ _)) run sett cell 0x26

@[simp] theorem sendSt_flow (run sett cell : Nat) : (sendSt run sett cell s).flow = s.flow :=
  s.cellOp_flow (fun _ _ _ _ u => State.flow_cases (fun _ => u.retire_flow _ _ _ _) (fun _ => rfl)) run sett cell 0x30

@[simp] theorem recvSt_flow (run sett cell : Nat) : (recvSt run sett cell s).flow = s.flow :=
  s.cellOp_flow (fun x r c w u => by dsimp only; split <;> simp) run sett cell 0x31

@[simp] theorem State.evictFor_flow (x : Work) (run sett key : Nat) : (s.evictFor x run sett key).flow = s.flow := by
  simp only [State.evictFor]
  (repeat' split) <;> simp

@[simp] theorem State.fillLine_flow (x : Work) (run sett cell a : Nat) (host : Bytes) : (s.fillLine x run sett cell a host).state.flow = s.flow := by
  unfold State.fillLine
  dsimp only
  obtain ⟨u, hu, hf⟩ | ⟨u, hu, hf⟩ := Gate.flow_cases (s.gateBy_flow x (some (sett, cell)) [(a, 64, false)])
  · rw [hu]
    dsimp only
    split
    · exact hf
    · split
      · simpa using hf
      · split
        · split <;> simpa using hf
        · simpa using hf
  · rw [hu]
    exact hf

@[simp] theorem State.throughL1_flow {f : State → State} (hf : ∀ u : State, (f u).flow = u.flow) (x : Work) (run sett cell a : Nat) (host : Bytes)
    (write : Bool) : (s.throughL1 x run sett cell a host write f).flow = s.flow := by
  unfold State.throughL1
  dsimp only
  obtain ⟨u, hu, hs⟩ | ⟨u, hu, hs⟩ := Gate.flow_cases (s.gateBy_flow x (some (sett, cell))
    (if write then (touched a).map (fun l => (l.1 + l.2.1, l.2.2, true)) else []))
  · rw [hu]
    dsimp only
    generalize hg : List.foldl _ _ _ = g
    have hlines : g.state.flow = u.flow := by
      rw [← hg]
      refine Gate.flow_foldl (fun k l => ?_) _ _
      cases k with
      | hold v => rfl
      | go v => simp
    cases g with
    | hold v => exact hlines.trans hs
    | go v => exact (hf _).trans ((v.usedBy_flow _ _).trans (hlines.trans hs))
  · rw [hu]
    exact hs

@[simp] theorem ldmSt_flow (run sett cell : Nat) (hostData : Bytes) : (ldmSt run sett cell hostData s).flow = s.flow :=
  s.cellOp_flow (fun x r c w u => u.throughL1_flow (fun v => by split <;> simp) _ _ _ _ _ _ _) run sett cell 0x04

@[simp] theorem State.allocLine_flow (x : Work) (run sett cell a : Nat) : (s.allocLine x run sett cell a).state.flow = s.flow := by
  unfold State.allocLine
  obtain ⟨u, hu, hf⟩ | ⟨u, hu, hf⟩ := Gate.flow_cases (s.gateBy_flow x (some (sett, cell)) (if addrClass a = 0 then [(a, 64, true)] else []))
  · rw [hu]
    dsimp only
    have hl := u.locate_flow x.tenancy x.xltRoot a 64 true
    split
    · split <;> simp_all
    · simp_all
    · next p v _ _ hv =>
      rw [hv] at hl
      refine Eq.trans ?_ (hl.trans hf)
      split
      · rfl
      · split
        · split <;> simp
        · simp
  · rw [hu]
    exact hf

@[simp] theorem State.storeL1_flow (x : Work) (run sett cell a : Nat) (c : Cell) (b : Bytes) : (s.storeL1 x run sett cell a c b).flow = s.flow := by
  unfold State.storeL1
  split <;> simp

@[simp] theorem stmSt_flow (run sett cell : Nat) : (stmSt run sett cell s).flow = s.flow := by
  refine s.cellOp_flow (fun x r c w u => ?_) run sett cell 0x05
  dsimp only
  split
  · obtain ⟨v, hv, hf⟩ | ⟨v, hv, hf⟩ := Gate.flow_cases (u.allocLine_flow x run sett cell (wrap 64 ((c.pair (wA w) (wC w) : Int) + wImmS w)))
    · rw [hv]
      simpa using hf
    · rw [hv]
      exact hf
  · exact u.throughL1_flow (fun v => v.storeL1_flow _ _ _ _ _ _ _) _ _ _ _ _ _ _

@[simp] theorem l1WriteBackSt_flow (run sett line : Nat) : (l1WriteBackSt run sett line s).flow = s.flow := by
  unfold l1WriteBackSt
  split <;> simp

@[simp] theorem State.clearRange_flow (x : Work) (run sett a n : Nat) : (s.clearRange x run sett a n).state.flow = s.flow := by
  unfold State.clearRange
  dsimp only
  split <;> simp

@[simp] theorem mcpySt_flow (run sett cell : Nat) (hostData : Bytes) : (mcpySt run sett cell hostData s).flow = s.flow := by
  refine s.cellOp_flow (fun x r c w u => ?_) run sett cell 0x08
  dsimp only
  obtain ⟨v, hv, hf⟩ | ⟨v, hv, hf⟩ := Gate.flow_cases (u.clearRange_flow x run sett (c.pair (wA w) (wC w)) (64 * wImm w))
  · rw [hv]
    dsimp only
    obtain ⟨t, ht, hg⟩ | ⟨t, ht, hg⟩ := Gate.flow_cases (v.gateBy_flow x (some (sett, cell)) [(c.pair (wA w) (wC w), 64 * wImm w, false)])
    · rw [ht]
      refine Eq.trans ?_ (hg.trans hf)
      dsimp only
      split
      · simp
      · split <;> simp
    · rw [ht]
      exact hg.trans hf
  · rw [hv]
    exact hf

@[simp] theorem mputSt_flow (run sett cell : Nat) : (mputSt run sett cell s).flow = s.flow := by
  refine s.cellOp_flow (fun x r c w u => ?_) run sett cell 0x09
  dsimp only
  refine State.flow_cases (fun _ => ?_) (fun _ => ?_)
  · split <;> simp
  · obtain ⟨v, hv, hf⟩ | ⟨v, hv, hf⟩ := Gate.flow_cases (u.gateBy_flow x (some (sett, cell)) [(c.pair (wA w) (wC w), 64 * wImm w, true)])
    · rw [hv]
      dsimp only
      obtain ⟨t, ht, hg⟩ | ⟨t, ht, hg⟩ := Gate.flow_cases (v.clearRange_flow x run sett (c.pair (wA w) (wC w)) (64 * wImm w))
      · rw [ht]
        refine Eq.trans ?_ (hg.trans hf)
        dsimp only
        split
        · split <;> simp
        · rfl
      · rw [ht]
        exact hg.trans hf
    · rw [hv]
      exact hf

@[simp] theorem State.sendAtomic_flow (x : Work) (who : Option (Nat × Nat)) (m op n : Nat) (operand : Bytes) :
    (s.sendAtomic x who m op n operand).flow = s.flow := by
  unfold State.sendAtomic
  split <;> simp

@[simp] theorem amoSt_flow (run sett cell : Nat) : (amoSt run sett cell s).flow = s.flow := by
  refine s.cellOp_flow (fun x r c w u => ?_) run sett cell 0x0A
  dsimp only
  generalize (if bit w 4 then 8 else 4) = n
  refine State.flow_cases (fun _ => u.raiseFault_flow _ _ _ _ _ _ _) (fun _ => ?_)
  split
  · split <;> simp
  · obtain ⟨v, hv, hf⟩ | ⟨v, hv, hf⟩ := Gate.flow_cases (u.gateBy_flow x (some (sett, cell)) [(c.pair (wA w) (wC w), n, true)])
    · rw [hv]
      dsimp only
      obtain ⟨t, ht, hg⟩ | ⟨t, ht, hg⟩ := Gate.flow_cases (v.clearRange_flow x run sett (c.pair (wA w) (wC w)) n)
      · rw [ht]
        refine Eq.trans ?_ (hg.trans hf)
        dsimp only
        split
        · simp
        · split
          · simp
          · split <;> simp
        · rfl
      · rw [ht]
        exact hg.trans hf
    · rw [hv]
      exact hf

/-! ### Kernels -/

@[simp] theorem State.dropImage_flow (id : Nat) : (s.dropImage id).flow = s.flow := by
  unfold State.dropImage
  split <;> simp

@[simp] theorem kernelLoadSt_flow (w : Nat) (image : Bytes) : (kernelLoadSt w image s).flow = s.flow := by
  refine s.withWork_flow (fun x u => ?_) w _
  dsimp only
  refine State.flow_cases (fun _ => rfl) (fun _ => u.withReads_flow (fun v => ?_) x _)
  split
  · simp
  · split <;> simp

@[simp] theorem kernelUnloadSt_flow (w : Nat) : (kernelUnloadSt w s).flow = s.flow := s.withWork_flow (fun x u => by simp) w _

@[simp] theorem kernelRunSt_flow (w : Nat) : (kernelRunSt w s).flow = s.flow := by
  refine s.withWork_flow (fun x u => State.flow_cases (fun _ => rfl) (fun _ => ?_)) w _
  split
  · simp
  · dsimp only
    split
    · simp
    · split <;> simp

@[simp] theorem iterationEndSt_flow (run : Nat) : (iterationEndSt run s).flow = s.flow := by
  unfold iterationEndSt
  split <;> simp

@[simp] theorem State.takeSetts_flow (w : Nat) : (s.takeSetts w).flow = s.flow := by
  unfold State.takeSetts
  split
  · rfl
  · next r _ =>
    dsimp only
    refine State.flow_cases (fun _ => rfl) (fun _ => ?_)
    generalize (s.openSetts r.tenancy r.den).take r.image.setts = setts
    have hsave : (if r.home = setts then s.saveThere r.den w setts else (s.saveThere r.den w setts).saveRun w).flow = s.flow := by simp
    generalize (if r.home = setts then s.saveThere r.den w setts else (s.saveThere r.den w setts).saveRun w) = u at hsave ⊢
    refine Eq.trans ?_ hsave
    split
    · refine State.flow_cases (fun _ => rfl) (fun _ => ?_)
      exact (State.setRun_flow _ _).trans (State.flow_foldl (fun v k => v.claim_flow _ _) _ u)
    · rfl

@[simp] theorem State.takeRank_flow (den t : Nat) : (s.takeRank den t).flow = s.flow := by
  unfold State.takeRank
  split
  · next k _ =>
    obtain ⟨u, hu, hf⟩ | ⟨u, hu, hf⟩ := Gate.flow_cases (s.takeResident_flow den t k)
    · rw [hu]
      exact hf
    · rw [hu]
      exact hf
  · rfl

@[simp] theorem State.assignSetts_flow (res : List (Nat × Nat)) : (s.assignSetts res).flow = s.flow := by
  have saved (u : State) (l : List Run) : (l.foldl (fun s r => s.saveRun r.w) u).flow = u.flow :=
    State.flow_foldl (fun v r => v.saveRun_flow _) l u
  have taken (u : State) (l : List Run) : (l.foldl (fun s r => s.takeSetts r.w) u).flow = u.flow :=
    State.flow_foldl (fun v r => v.takeSetts_flow _) l u
  have ranked (u : State) : (res.foldl (fun s e => s.takeRank e.1 e.2) u).flow = u.flow :=
    State.flow_foldl (fun v e => v.takeRank_flow _ _) res u
  unfold State.assignSetts
  dsimp only
  refine State.flow_cases (fun _ => saved _ _) (fun _ => ?_)
  exact (taken _ _).trans ((ranked _).trans ((State.flow_foldl (fun v u => v.startPeriod_flow _ _) _ _).trans (saved _ _)))

/-! ### Emb -/

@[simp] theorem State.setTable_flow (t : Nat) (x : Table) : (s.setTable t x).flow = s.flow := (s.setTable_only t x).flow rfl

theorem State.tableAreas_flow {t tier den rows pend stride dim : Nat} {areas : List (Nat × Nat)} {u : State}
    (h : s.tableAreas t tier den rows pend stride dim = some (areas, u)) : u.flow = s.flow := by
  unfold State.tableAreas at h
  dsimp only at h
  split at h
  · cases h
  · split at h
    · cases h
    · split at h
      · cases h
        simp
      · cases h

@[simp] theorem tableLoadSt_flow (w : Nat) (image : Bytes) : (tableLoadSt w image s).flow = s.flow := by
  refine s.withWork_flow (fun x u => State.flow_cases (fun _ => u.finish_flow _ _) (fun _ => u.withReads_flow (fun v => ?_) x _)) w _
  refine State.flow_cases (fun _ => v.finish_flow _ _) (fun _ => ?_)
  dsimp only
  split
  · simp
  · split
    · simp
    · next h => simpa using v.tableAreas_flow h

@[simp] theorem tableSwitchSt_flow (w : Nat) : (tableSwitchSt w s).flow = s.flow := by
  refine s.withWork_flow (fun x u => ?_) w _
  dsimp only
  split
  · simp
  · refine State.flow_cases (fun _ => rfl) (fun _ => State.flow_cases (fun _ => u.finish_flow _ _) (fun _ => u.setTable_flow _ _))

@[simp] theorem State.freeVersions_flow (t : Nat) : (s.freeVersions t).flow = s.flow := by
  unfold State.freeVersions
  split <;> simp

@[simp] theorem tableSwitchApplySt_flow (t : Nat) : (tableSwitchApplySt t s).flow = s.flow := by
  unfold tableSwitchApplySt
  (repeat' split) <;> simp

@[simp] theorem State.sendRowRead_flow (w t : Nat) (x : Table) (row rank frame step : Nat) (replicate : Bool) :
    (s.sendRowRead w t x row rank frame step replicate).flow = s.flow :=
  State.flow_foldl (fun u p => by simp) _ s

@[simp] theorem State.sendEmb_flow (t rank shard type : Nat) (payload : Bytes) : (s.sendEmb t rank shard type payload).flow = s.flow := by
  simp [State.sendEmb]

@[simp] theorem State.sendCopies_flow (t rank shard step stride : Nat) (rows : List (Nat × Bytes)) :
    (s.sendCopies t rank shard step stride rows).flow = s.flow := State.flow_foldl (fun u _ => u.sendEmb_flow _ _ _ _ _) _ s

@[simp] theorem State.addHolder_flow (t : Nat) (x : Table) (row rank : Nat) : (s.addHolder t x row rank).flow = s.flow := by
  unfold State.addHolder
  refine State.flow_cases (fun _ => rfl) (fun _ => ?_)
  exact (State.flow_foldl (fun u c => u.sendCopies_flow _ _ _ _ _ _) _ _).trans (s.setTable_flow _ _)

theorem State.answerRowRead_flow {m : Msg} {b : Bytes} {t : State} (h : s.answerRowRead m = some (b, t)) : t.flow = s.flow := by
  unfold State.answerRowRead at h
  dsimp only at h
  split at h
  · split at h
    · split at h
      · cases h
        rfl
      · cases h
        simp
    · cases h
  · cases h

@[simp] theorem State.replicaArrived_flow (t row : Nat) : (s.replicaArrived t row).flow = s.flow := by simp [State.replicaArrived]
@[simp] theorem State.rowMissing_flow (r : WlReq) : (s.rowMissing r).flow = s.flow := by simp [State.rowMissing]

@[simp] theorem State.askRows_flow (w : Work) (t : Nat) (x : Table) (idx : List Nat) : (s.askRows w t x idx).flow = s.flow :=
  State.flow_foldl (fun u r => by split <;> simp) _ s

@[simp] theorem State.writeGather_flow (w : Work) (t : Nat) (x : Table) (idx offs weights : List Nat) :
    (s.writeGather w t x idx offs weights).flow = s.flow := by
  refine s.onSett_flow (fun u => u.withAccess_flow (fun v => ?_) _ _) _ _ _
  simp only [State.freeVersions_flow, State.finish_flow, State.setTable_flow]
  exact State.flow_foldl (fun r b => r.writeAt_flow _ _ _) _ v

@[simp] theorem State.runGather_flow (x : Work) (indices offsets : Bytes) : (s.runGather x indices offsets).flow = s.flow := by
  unfold State.runGather
  dsimp only
  split
  · simp
  · next y _ =>
    obtain ⟨u, hu, hf⟩ | ⟨u, hu, hf⟩ := Gate.flow_cases (s.gate_flow x (((descOp0 x.desc, gatherBytes x.desc) ::
      (if fld x.desc 34 1 = 0 then [] else [(descOp1 x.desc, 4 * (fld x.desc 36 2 + 1))])).map (fun r => (r.1, r.2, false))))
    · rw [hu]
      dsimp only
      refine Eq.trans ?_ hf
      have hdraw : (if y.areas.any (fun a => u.poisonedIn a.1 a.2) then u.drawn else u).flow = u.flow := by simp
      generalize (if y.areas.any (fun a => u.poisonedIn a.1 a.2) then u.drawn else u) = v at hdraw ⊢
      refine Eq.trans ?_ hdraw
      refine State.flow_cases (fun _ => v.finish_flow _ _) (fun _ => State.flow_cases (fun _ => v.finish_flow _ _)
        (fun _ => State.flow_cases (fun _ => v.finish_flow _ _) (fun _ => State.flow_cases (fun _ => ?_) (fun _ => v.askRows_flow _ _ _ _))))
      exact (State.writeGather_flow _ _ _ _ _ _ _).trans (v.askRows_flow _ _ _ _)
    · rw [hu]
      exact hf

@[simp] theorem embGatherSt_flow (w : Nat) (indices offsets : Bytes) : (embGatherSt w indices offsets s).flow = s.flow :=
  s.withWork_flow (fun x u => u.underGroup_flow (fun v => v.runGather_flow x indices offsets) _ _ _) w _

@[simp] theorem embUpdateSt_flow (w : Nat) (records vectors : Bytes) : (embUpdateSt w records vectors s).flow = s.flow := by
  refine s.withWork_flow (fun x u => ?_) w _
  dsimp only
  split
  · simp
  · refine State.flow_cases (fun _ => rfl) (fun _ => u.withReads_flow (fun v => ?_) x _)
    refine State.flow_cases (fun _ => v.finish_flow _ _) (fun _ => State.flow_cases (fun _ => v.finish_flow _ _)
      (fun _ => State.flow_cases (fun _ => v.finish_flow _ _) (fun _ => ?_)))
    exact (State.finish_flow _ _ _).trans (v.setTable_flow _ _)

@[simp] theorem State.sendPend_flow (t rank step dim : Nat) (ps : List PendRow) : (s.sendPend t rank step dim ps).flow = s.flow :=
  State.flow_foldl (fun u _ => u.sendEmb_flow _ _ _ _ _) _ s

@[simp] theorem State.sendMarkers_flow (t step phase : Nat) : (s.sendMarkers t step phase).flow = s.flow :=
  State.flow_foldl (fun u _ => u.sendEmb_flow _ _ _ _ _) _ s

@[simp] theorem State.pushCopies_flow (t step stride : Nat) (rows : List (Nat × Bytes × List Nat)) :
    (s.pushCopies t step stride rows).flow = s.flow :=
  State.flow_foldl (fun u _ => State.flow_foldl (fun v _ => v.sendCopies_flow _ _ _ _ _ _) _ u) _ s

@[simp] theorem State.combineStep_flow (t : Nat) (x : Table) (e : StepEnd) : (s.combineStep t x e).flow = s.flow := by
  simp [State.combineStep]

@[simp] theorem State.completeStep_flow (t : Nat) (x : Table) (e : StepEnd) : (s.completeStep t x e).flow = s.flow := by
  simp [State.completeStep]

@[simp] theorem State.advanceStep_flow (t : Nat) : (s.advanceStep t).flow = s.flow := by
  unfold State.advanceStep
  (repeat' split) <;> simp

@[simp] theorem embStepEndSt_flow (w : Nat) : (embStepEndSt w s).flow = s.flow := by
  refine s.withWork_flow (fun x u => ?_) w _
  dsimp only
  split
  · simp
  · split
    · simp
    · refine State.flow_cases (fun _ => u.finish_flow _ _) (fun _ => State.flow_cases (fun _ => rfl) (fun _ => ?_))
      simp only [State.advanceStep_flow, State.endPhase_flow, State.sendMarkers_flow]
      exact (State.flow_foldl (fun v r => v.sendPend_flow _ _ _ _ _) _ _).trans (by simp)

@[simp] theorem embPublishSt_flow (t : Nat) : (embPublishSt t s).flow = s.flow := by
  unfold embPublishSt
  (repeat' split) <;> simp

@[simp] theorem State.embMessage_flow {f : Nat → Table → State → State} (hf : ∀ t x, ∀ u : State, (f t x u).flow = u.flow)
    (port type : Nat) (m : Msg) :
    (s.embMessage port type m f).flow = s.flow := by
  refine s.message_flow (fun u => ?_) port type m
  dsimp only
  split <;> simp [hf]

@[simp] theorem embPendSt_flow (port : Nat) (m : Msg) : (embPendSt port m s).flow = s.flow :=
  s.embMessage_flow (fun _ _ u => u.setTable_flow _ _) port 0x28 m

@[simp] theorem embMarkerSt_flow (port : Nat) (m : Msg) : (embMarkerSt port m s).flow = s.flow :=
  s.embMessage_flow (fun t x u => by simp) port 0x29 m

@[simp] theorem embCopySt_flow (port : Nat) (m : Msg) : (embCopySt port m s).flow = s.flow :=
  s.embMessage_flow (fun _ _ u => u.setTable_flow _ _) port 0x2A m

@[simp] theorem rowReplicateSt_flow (t row : Nat) : (rowReplicateSt t row s).flow = s.flow := by
  unfold rowReplicateSt
  (repeat' split) <;> simp

@[simp] theorem rowPromoteSt_flow (t row : Nat) : (rowPromoteSt t row s).flow = s.flow := by
  unfold rowPromoteSt
  split <;> simp

@[simp] theorem rowDirectorySwitchSt_flow (t row : Nat) : (rowDirectorySwitchSt t row s).flow = s.flow := by
  unfold rowDirectorySwitchSt
  (repeat' split) <;> simp

@[simp] theorem State.resetReads_flow : (s.resetReads).flow = s.flow := by simp [State.resetReads]
@[simp] theorem State.dropMarkers_flow (lost : List Nat) : (s.dropMarkers lost).flow = s.flow := by simp [State.dropMarkers]

@[simp] theorem State.resumeStep_flow (owner : Nat) (image : Bytes) : (s.resumeStep owner image).flow = s.flow := by
  unfold State.resumeStep
  dsimp only
  split
  · exact (State.flow_foldl (fun u r => u.sendEmb_flow _ _ _ _ _) _ _).trans (by simp)
  · rfl

@[simp] theorem State.tablesAtBoundary_flow : s.tablesAtBoundary.flow = s.flow := by
  refine State.flow_foldl (fun u e => ?_) _ s
  rw [tableSwitchApplySt_flow]
  refine Eq.trans ?_ (embPublishSt_flow u e.1)
  cases (embPublishSt e.1 u).table e.1 with
  | none => rfl
  | some x => exact State.flow_foldl (fun v p => rowDirectorySwitchSt_flow v _ _) _ _

/-! ### Fabric -/

@[simp] theorem State.setRegion_flow (i : Nat) (g : Region) : (s.setRegion i g).flow = s.flow := (s.setRegion_only i g).flow rfl
@[simp] theorem State.settleRegion_flow (i : Nat) : (s.settleRegion i).flow = s.flow := by simp [State.settleRegion]

@[simp] theorem State.respond_flow (m : Msg) (type status flags : Nat) (payload : Bytes) :
    (s.respond m type status flags payload).flow = s.flow :=
  (s.respond_only m type status flags payload).flow rfl

@[simp] theorem State.regionPut_flow (a : Nat) (b : Bytes) (poison : Bool) : (s.regionPut a b poison).flow = s.flow := by
  unfold State.regionPut
  exact State.flow_cases (fun _ => (State.flow_foldl (fun u p => u.addPoison_flow _) _ _).trans (s.put_flow a b)) (fun _ => s.put_flow a b)

@[simp] theorem State.storeDone_flow (m : Msg) : (s.storeDone m).flow = s.flow := by simp [State.storeDone]
@[simp] theorem State.setStreamIn_flow (x : StreamIn) : (s.setStreamIn x).flow = s.flow := by simp [State.setStreamIn]
@[simp] theorem State.hold_flow (h : Held) : (s.hold h).flow = s.flow := by simp [State.hold]

/-- The state in which a request of another device goes on or waits. -/
def RegionGate.state (s : State) : RegionGate → State
  | .go u => u
  | .wait u => u
  | .revoked u => u
  | .mismatch _ => s

/-- The state in which a request of another device has been served, or waits. -/
def Served.state : Served → State
  | .done u => u
  | .wait u => u

theorem State.devLine_flow (cls : ReqClass) (w line : Nat) : (s.devLine cls w line).state.flow = s.flow :=
  (s.devLine_keeps cls w line).flow rfl

theorem State.regionGate_flow (v : State) (hv : v.flow = s.flow) (t w : Nat) (write : Bool) (l : List (Nat × Nat)) :
    ((s.regionGate t w write l).state v).flow = s.flow := by
  induction l generalizing s with
  | nil => rfl
  | cons p l ih =>
    obtain ⟨a, n⟩ := p
    unfold State.regionGate
    split
    · next b _ =>
      obtain ⟨u, hu, hf⟩ | ⟨u, hu, hf⟩ := Gate.flow_cases (s.passUnit_flow w 0 t (s.unitsOf b))
      · rw [hu]
        dsimp only
        split
        · have hd := u.devLine_flow (if write then .devWr else .devRd) w (b % 2 ^ 48 / 64)
          generalize u.devLine (if write then .devWr else .devRd) w (b % 2 ^ 48 / 64) = d at hd ⊢
          cases d with
          | ready r => exact (ih r (hv.trans (hd.trans hf).symm)).trans (hd.trans hf)
          | blocked r => exact hd.trans hf
        · exact (ih u (hv.trans hf.symm)).trans hf
      · rw [hu]
        exact hf
    · rfl
    · exact hv

theorem State.serveLines_flow {f : State → State} (hf : ∀ u : State, (f u).flow = u.flow) (m : Msg) (g : Region) (write : Bool) (n type : Nat) :
    (s.serveLines m g write n type f).state.flow = s.flow := by
  have hg := s.regionGate_flow s rfl g.tenancy (fabricWork m) write (pieces (g.addr m.offset) n)
  unfold State.serveLines
  generalize s.regionGate g.tenancy (fabricWork m) write (pieces (g.addr m.offset) n) = k at hg ⊢
  cases k with
  | go u => exact (State.leaveAll_flow _ _).trans (((State.useRecalled_keeps _ _).flow rfl).trans ((hf u).trans hg))
  | wait u => exact hg
  | revoked u => exact (u.respond_flow _ _ _ _ _).trans hg
  | mismatch a => exact s.ownerMismatch_flow _ _

theorem State.serveLoad_flow (m : Msg) (g : Region) : (s.serveLoad m g).state.flow = s.flow :=
  s.serveLines_flow (fun u => u.respond_flow _ _ _ _ _) m g false _ 2

theorem State.serveStore_flow (m : Msg) (g : Region) : (s.serveStore m g).state.flow = s.flow := by
  have hl := s.serveLines_flow (f := fun u => (u.regionPut (g.addr m.offset) m.payload (bit m.flags 1)).respond m 4 0 0 [])
    (fun u => by simp) m g true m.payload.length 4
  unfold State.serveStore
  generalize State.serveLines _ _ _ _ _ _ _ = k at hl ⊢
  cases k with
  | done u => exact (u.storeDone_flow m).trans hl
  | wait u => exact hl

theorem State.serveAtomic_flow (m : Msg) (g : Region) : (s.serveAtomic m g).state.flow = s.flow :=
  s.serveLines_flow (fun u => State.flow_cases (fun _ => u.respond_flow _ _ _ _ _) (fun _ => by simp)) m g true _ 6

theorem SegRun.apply_flow (g : Region) (r : SegRun) (c : SegRec) : (r.apply g c).state.flow = r.state.flow := by
  unfold SegRun.apply
  split
  · rfl
  · dsimp only
    split
    · rfl
    · split
      · split <;> rfl
      · exact State.regionPut_flow _ _ _ _

theorem SegRun.applyAll_flow (g : Region) (rs : List SegRec) (r : SegRun) : (rs.foldl (SegRun.apply g) r).state.flow = r.state.flow := by
  induction rs generalizing r with
  | nil => rfl
  | cons c rs ih => exact (ih _).trans (SegRun.apply_flow g r c)

/-- The lines of a segment's records, one record after the other. -/
theorem State.segmentGate_flow (t w : Nat) (f : SegRec → Bool) (p : SegRec → List (Nat × Nat)) (rs : List SegRec) (acc : RegionGate)
    (h : (acc.state s).flow = s.flow) :
    ((rs.foldl (fun acc r =>
      match acc with
      | .go s =>
        (match s.regionGate t w (f r) (p r) with
         | .revoked s => .go s
         | x => x)
      | x => x) acc).state s).flow = s.flow := by
  induction rs generalizing acc with
  | nil => exact h
  | cons r rs ih =>
    refine ih _ ?_
    cases acc with
    | go u =>
      have hg := u.regionGate_flow s h.symm t w (f r) (p r)
      dsimp only
      generalize u.regionGate t w (f r) (p r) = k at hg ⊢
      cases k <;> exact hg.trans h
    | wait u => exact h
    | revoked u => exact h
    | mismatch a => exact h

theorem State.serveSegment_flow (h : Held) (g : Region) : (s.serveSegment h g).state.flow = s.flow := by
  unfold State.serveSegment
  dsimp only
  have hg := s.segmentGate_flow g.tenancy (fabricWork h.msg) (fun r => r.op != 1) (fun r => pieces (g.addr r.off) r.len)
    (h.msg.records.take h.pass) (.go s) rfl
  generalize hk : List.foldl _ (RegionGate.go s) _ = k
  have hks : (k.state s).flow = s.flow := by
    rw [← hk]
    exact hg
  cases k with
  | go u =>
    dsimp only [Served.state]
    have hrun := SegRun.applyAll_flow g (h.msg.records.take h.pass) { state := u, index := 0, data := [], fail := none }
    generalize (h.msg.records.take h.pass).foldl (SegRun.apply g) { state := u, index := 0, data := [], fail := none } = run at hrun ⊢
    generalize (if run.fail.isNone && decide (h.pass < h.msg.records.length) then some (h.pass, 1) else run.fail) = fail
    have hfail : (match fail with | some (_, 1) => run.state.refuse g.tenancy | _ => run.state).flow = run.state.flow := by
      split <;> simp
    refine (State.respond_flow _ _ _ _ _ _).trans ((State.leaveAll_flow _ _).trans (((State.useRecalled_keeps _ _).flow rfl).trans ?_))
    exact (State.setStreamIn_flow _ _).trans (hfail.trans (hrun.trans hks))
  | wait u => exact hks
  | revoked u => exact hks
  | mismatch a => exact s.ownerMismatch_flow _ _

@[simp] theorem State.serveHeld_flow (h : Held) : (s.serveHeld h).state.flow = s.flow := by
  unfold State.serveHeld
  split
  · exact s.serveLoad_flow _ _
  · exact s.serveStore_flow _ _
  · exact s.serveAtomic_flow _ _
  · exact s.serveSegment_flow _ _

theorem Served.flow_cases {g : Served} {s : State} (h : g.state.flow = s.flow) :
    (∃ u, g = .done u ∧ u.flow = s.flow) ∨ ∃ u, g = .wait u ∧ u.flow = s.flow := by
  cases g with
  | done u => exact .inl ⟨u, rfl, h⟩
  | wait u => exact .inr ⟨u, rfl, h⟩

@[simp] theorem State.pumpFlags_flow (src ctx fuel : Nat) : (s.pumpFlags src ctx fuel).flow = s.flow := by
  induction fuel generalizing s with
  | zero => rfl
  | succ n ih =>
    unfold State.pumpFlags
    split
    · next h _ =>
      dsimp only
      obtain ⟨u, hu, hf⟩ | ⟨u, hu, hf⟩ := Served.flow_cases
        (State.serveHeld_flow { s with fabric := { s.fabric with flagWait := s.fabric.flagWait.filter (· != h) } } h)
      · rw [hu]
        exact (ih _).trans ((u.settleRegion_flow _).trans hf)
      · rw [hu]
        exact (u.hold_flow h).trans hf
    · rfl

@[simp] theorem State.pumpSegments_flow (m : Msg) (fuel : Nat) : (s.pumpSegments m fuel).flow = s.flow := by
  induction fuel generalizing s with
  | zero => rfl
  | succ n ih =>
    unfold State.pumpSegments
    dsimp only
    split
    · next h _ =>
      obtain ⟨u, hu, hf⟩ | ⟨u, hu, hf⟩ := Served.flow_cases
        ((s.setStreamIn { s.streamIn m with waiting := (s.streamIn m).waiting.filter (· != h) }).serveHeld_flow h)
      · rw [hu]
        exact (ih _).trans ((u.settleRegion_flow _).trans (hf.trans (s.setStreamIn_flow _)))
      · rw [hu]
        exact (u.hold_flow h).trans (hf.trans (s.setStreamIn_flow _))
    · rfl

@[simp] theorem State.afterServe_flow (h : Held) : (s.afterServe h).flow = s.flow := by
  unfold State.afterServe
  simp

@[simp] theorem State.acceptHeld_flow (h : Held) : (s.acceptHeld h).flow = s.flow := by
  unfold State.acceptHeld
  refine State.flow_cases (fun _ => s.hold_flow h) (fun _ => ?_)
  obtain ⟨u, hu, hf⟩ | ⟨u, hu, hf⟩ := Served.flow_cases (s.serveHeld_flow h)
  · rw [hu]
    exact (u.afterServe_flow h).trans hf
  · rw [hu]
    exact (u.hold_flow h).trans hf

@[simp] theorem State.retryHeld_flow : s.retryHeld.flow = s.flow := State.flow_foldl State.acceptHeld_flow _ _
@[simp] theorem State.refuseReq_flow (m : Msg) (type : Nat) : (s.refuseReq m type).flow = s.flow := (s.refuseReq_only m type).flow rfl

@[simp] theorem loadSt_flow (port : Nat) (m : Msg) : (loadSt port m s).flow = s.flow := by
  refine s.message_flow (fun u => ?_) port 1 m
  split
  · next h => simpa using u.answerRowRead_flow h
  · simp

@[simp] theorem storeSt_flow (port : Nat) (m : Msg) : (storeSt port m s).flow = s.flow := by simp [storeSt]
@[simp] theorem atomicSt_flow (port : Nat) (m : Msg) : (atomicSt port m s).flow = s.flow := by simp [atomicSt]
@[simp] theorem segmentSt_flow (port : Nat) (m : Msg) : (segmentSt port m s).flow = s.flow := by simp [segmentSt]
@[simp] theorem State.setMigration_flow (g : Migration) : (s.setMigration g).flow = s.flow := by simp [State.setMigration]
@[simp] theorem State.dropMigration_flow (ext : Nat) : (s.dropMigration ext).flow = s.flow := by simp [State.dropMigration]
@[simp] theorem State.failMigration_flow (ext : Nat) : (s.failMigration ext).flow = s.flow := (s.failMigration_only ext).flow rfl

@[simp] theorem State.migrateLine_flow (ext : Nat) : (s.migrateLine ext).flow = s.flow := by
  unfold State.migrateLine
  split <;> simp

@[simp] theorem State.advanceMigration_flow (ext : Nat) : (s.advanceMigration ext).flow = s.flow := by
  have lines (l : List Nat) : (l.foldl (fun s _ => s.migrateLine ext) s).flow = s.flow := State.flow_foldl (fun u _ => u.migrateLine_flow ext) l s
  unfold State.advanceMigration
  split
  · rfl
  · dsimp only
    refine State.flow_cases (fun _ => rfl) (fun _ => State.flow_cases (fun _ => ?_) (fun _ => State.flow_cases (fun _ => ?_) (fun _ => ?_)))
    · exact State.flow_cases (fun _ => rfl) (fun _ => by simp)
    · refine State.flow_cases (fun _ => s.failMigration_flow ext) (fun _ => Eq.trans ?_ (lines (List.range
        (4096 - (s.fabric.requests.filter (fun r => r.w == migWork ext)).length))))
      split
      · exact State.flow_cases (fun _ => by simp) (fun _ => rfl)
      · rfl
    · simp

@[simp] theorem State.driveMigration_flow (ext : Nat) : (s.driveMigration ext).flow = s.flow := by simp [State.driveMigration]

@[simp] theorem wlMigrateCmdSt_flow (mp : MgmtPort) (value : Reg) : (wlMigrateCmdSt mp value s).flow = s.flow := by
  refine s.setup_flow (fun u => State.flow_cases (fun _ => rfl) (fun _ => ?_)) mp
  exact (State.driveMigration_flow _ _).trans ((State.createRequest_flow _ _ _).trans (State.flow_foldl (fun v h => v.fence_flow _ h) _ u))

@[simp] theorem State.afterAnswer_flow (r : WlReq) : (s.afterAnswer r).flow = s.flow := by
  unfold State.afterAnswer
  simp [State.flow_foldl (fun (u : State) (x : Stream) => u.pumpStream_flow x.ctx x.region x.rank)]

@[simp] theorem State.endReq_flow (r : WlReq) (status : Nat) (data : Bytes) : (s.endReq r status data).flow = s.flow := by
  simp [State.endReq]

@[simp] theorem State.response_flow (port type kind : Nat) (m : Msg) : (s.response port type kind m).flow = s.flow := by
  refine s.message_flow (fun u => ?_) port type m
  split
  · exact State.flow_cases (fun _ => u.rowMissing_flow _) (fun _ => by simp)
  · rfl

@[simp] theorem State.endRecords_flow (fail status i : Nat) (l : List WlReq) (data : Bytes) : (s.endRecords fail status i l data).flow = s.flow := by
  induction l generalizing s i data with
  | nil => rfl
  | cons r l ih =>
    unfold State.endRecords
    simp [ih]

@[simp] theorem segmentDataSt_flow (port : Nat) (m : Msg) : (segmentDataSt port m s).flow = s.flow := by
  refine s.message_flow (fun u => ?_) port 9 m
  split <;> simp

@[simp] theorem segmentTimeoutSt_flow (ctx region rank : Nat) : (segmentTimeoutSt ctx region rank s).flow = s.flow := by
  unfold segmentTimeoutSt
  split <;> simp

@[simp] theorem State.loseRequests_flow (lost : WlReq → Bool) : (s.loseRequests lost).flow = s.flow := (s.loseRequests_only lost).flow rfl

@[simp] theorem State.fportDown_flow (port : Nat) : (s.fportDown port).flow = s.flow :=
  ((s.fportDown_keeps port).flow rfl).trans (s.setPort_flow _ _)

@[simp] theorem fportLinkDownSt_flow (port : Nat) : (fportLinkDownSt port s).flow = s.flow := by simp [fportLinkDownSt]

@[simp] theorem State.wlCommand_flow {f : Bytes → State → State} (hf : ∀ b, ∀ u : State, (f b u).flow = u.flow) (mp : MgmtPort)
    (i : Instr) (id : Nat) :
    (s.wlCommand mp i id f).flow = s.flow :=
  s.command_flow (fun u => State.flow_cases (fun _ => rfl) (fun _ => hf _ u)) mp .wl i

@[simp] theorem wlReadRegionSt_flow (mp : MgmtPort) (id : Nat) : (wlReadRegionSt mp id s).flow = s.flow :=
  s.wlCommand_flow (fun _ u => u.loadImage_flow _ _ _) mp _ id

@[simp] theorem wlReadWindowSt_flow (mp : MgmtPort) (id : Nat) : (wlReadWindowSt mp id s).flow = s.flow :=
  s.wlCommand_flow (fun _ u => u.loadImage_flow _ _ _) mp _ id

@[simp] theorem wlExportSt_flow (mp : MgmtPort) (id : Nat) : (wlExportSt mp id s).flow = s.flow :=
  s.wlCommand_flow (fun b u => by simp) mp _ id

@[simp] theorem State.withdraw_flow (id : Nat) : (s.withdraw id).flow = s.flow := by simp [State.withdraw]

@[simp] theorem wlWithdrawSt_flow (mp : MgmtPort) (id : Nat) : (wlWithdrawSt mp id s).flow = s.flow :=
  s.wlCommand_flow (fun b u => by simp) mp _ id

@[simp] theorem wlRekeySt_flow (mp : MgmtPort) (id : Nat) : (wlRekeySt mp id s).flow = s.flow :=
  s.wlCommand_flow (fun b u => by simp) mp _ id

@[simp] theorem State.applyRekeys_flow : (s.applyRekeys).flow = s.flow := by simp [State.applyRekeys]

@[simp] theorem wlImportSt_flow (mp : MgmtPort) (id : Nat) : (wlImportSt mp id s).flow = s.flow := by
  refine s.wlCommand_flow (fun b u => ?_) mp _ id
  dsimp only
  refine State.flow_cases (fun _ => u.cmdFail_flow _ _) (fun _ => ?_)
  split
  · rfl
  · exact u.cmdFail_flow _ _

@[simp] theorem wlUnbindSt_flow (mp : MgmtPort) (id : Nat) : (wlUnbindSt mp id s).flow = s.flow :=
  s.wlCommand_flow (fun b u => by simp) mp _ id

/-! ### Members -/

@[simp] theorem State.sendControl_flow (rank type : Nat) (payload : Bytes) : (s.sendControl rank type payload).flow = s.flow := by
  simp [State.sendControl]

@[simp] theorem State.sendHeartbeats_flow : s.sendHeartbeats.flow = s.flow :=
  State.flow_cases (fun _ => State.flow_foldl (fun u _ => u.sendControl_flow _ _ _) _ s) (fun _ => rfl)

@[simp] theorem State.exclude_flow : (s.exclude).flow = s.flow := by simp [State.exclude]

@[simp] theorem State.learnView_flow (view frame : Nat) (ms : List Nat) : (s.learnView view frame ms).flow = s.flow := by
  simp [State.learnView]

@[simp] theorem heartbeatSt_flow (port : Nat) (m : Msg) : (heartbeatSt port m s).flow = s.flow := by simp [heartbeatSt]

@[simp] theorem State.suspectRank_flow (r : Nat) : (s.suspectRank r).flow = s.flow :=
  State.flow_cases (fun _ => rfl) (fun _ => (State.flow_foldl (fun u q => u.sendControl_flow _ _ _) _ _).trans (by simp))

@[simp] theorem suspectTimeoutSt_flow (r : Nat) : (suspectTimeoutSt r s).flow = s.flow := by simp [suspectTimeoutSt]
@[simp] theorem suspectSt_flow (port : Nat) (m : Msg) : (suspectSt port m s).flow = s.flow := by simp [suspectSt]
@[simp] theorem State.lackQuorum_flow : (s.lackQuorum).flow = s.flow := by simp [State.lackQuorum]

@[simp] theorem State.tryCommit_flow : s.tryCommit.flow = s.flow := by
  unfold State.tryCommit
  split
  · exact State.flow_cases (fun _ => State.flow_foldl (fun u r => u.sendControl_flow _ _ _) _ _) (fun _ => rfl)
  · rfl

@[simp] theorem State.proposeTo_flow (ms : List Nat) : (s.proposeTo ms).flow = s.flow :=
  State.flow_cases (fun _ => (State.tryCommit_flow _).trans (State.flow_foldl (fun u _ => u.sendControl_flow _ _ _) _ _))
    (fun _ => s.lackQuorum_flow)

@[simp] theorem State.tryPropose_flow : (s.tryPropose).flow = s.flow := by simp [State.tryPropose]

@[simp] theorem State.vote_flow (rank view round : Nat) (accept : Bool) : (s.vote rank view round accept).flow = s.flow := by
  simp [State.vote]

@[simp] theorem proposeSt_flow (port : Nat) (m : Msg) : (proposeSt port m s).flow = s.flow := by simp [proposeSt]

@[simp] theorem voteSt_flow (port : Nat) (m : Msg) : (voteSt port m s).flow = s.flow := by
  refine s.message_flow (fun u => ?_) port 0x14 m
  split <;> simp

@[simp] theorem commitSt_flow (port : Nat) (m : Msg) : (commitSt port m s).flow = s.flow := by simp [commitSt]

@[simp] theorem proposeTimeoutSt_flow : (proposeTimeoutSt s).flow = s.flow := by
  unfold proposeTimeoutSt
  split <;> simp

@[simp] theorem noQuorumExcludeSt_flow : (noQuorumExcludeSt s).flow = s.flow := by simp [noQuorumExcludeSt]

@[simp] theorem State.acquire_flow (o : Owned) : (s.acquire o).flow = s.flow := by
  simp only [State.acquire]
  split <;> simp

@[simp] theorem State.reviewRequests_flow (lost : List Nat) : (s.reviewRequests lost).flow = s.flow :=
  State.flow_foldl (fun u o => by simp) _ s

@[simp] theorem State.departures_flow (lost : List Nat) : (s.departures lost).flow = s.flow := by
  unfold State.departures
  dsimp only
  refine (State.flow_foldl (fun u e => u.settleRegion_flow _) _ _).trans ?_
  split <;> simp

@[simp] theorem State.installView_flow (view frame : Nat) (ms : List Nat) : (s.installView view frame ms).flow = s.flow := by
  unfold State.installView
  dsimp only
  refine (State.flow_foldl (fun u e => u.advanceStep_flow _) _ _).trans ?_
  simp

@[simp] theorem viewInstallSt_flow : (viewInstallSt s).flow = s.flow := by
  unfold viewInstallSt
  split <;> simp

@[simp] theorem mbrInitSt_flow (mp : MgmtPort) : (mbrInitSt mp s).flow = s.flow := by simp [mbrInitSt]
@[simp] theorem mbrJoinSt_flow (mp : MgmtPort) (rank : Nat) : (mbrJoinSt mp rank s).flow = s.flow := by simp [mbrJoinSt]

@[simp] theorem State.ackCopy_flow (rank : Nat) (o : Owned) (phase : Nat) : (s.ackCopy rank o phase).flow = s.flow := by
  simp [State.ackCopy]

@[simp] theorem stateCopySt_flow (port : Nat) (m : Msg) : (stateCopySt port m s).flow = s.flow := by simp [stateCopySt]

@[simp] theorem stateAckSt_flow (port : Nat) (m : Msg) : (stateAckSt port m s).flow = s.flow := by
  refine s.message_flow (fun u => ?_) port 0x19 m
  split
  · next o _ =>
    refine State.flow_cases (fun _ => rfl) (fun _ => State.flow_cases (fun _ => u.endRequest_flow _ _) (fun _ => ?_))
    refine Eq.trans ?_ (u.setRequest_flow { o with acked := true })
    dsimp only
    split
    · simp
    · refine State.flow_foldl (fun v e => ?_) _ _
      split
      · split <;> simp
      · rfl
    · simp
  · rfl

@[simp] theorem ownSt_flow (port : Nat) (m : Msg) : (ownSt port m s).flow = s.flow := by
  refine s.message_flow (fun u => ?_) port 0x1A m
  split
  · exact State.flow_cases (fun _ => rfl) (fun _ => State.flow_cases (fun _ => State.flow_cases (fun _ => rfl) (fun _ => u.setRequest_flow _))
      (fun _ => u.setRequest_flow _))
  · rfl

@[simp] theorem State.sendOwns_flow : s.sendOwns.flow = s.flow :=
  State.flow_foldl (fun u o => State.flow_cases (fun _ => rfl) (fun _ => by simp)) _ s

@[simp] theorem ownTakeoverSt_flow (rank serial : Nat) : (ownTakeoverSt rank serial s).flow = s.flow := by
  unfold ownTakeoverSt
  split <;> simp

/-! ### Sources -/

@[simp] theorem State.linkDown_flow (p : Nat) : (s.linkDown p).flow = s.flow := by simp [State.linkDown]

@[simp] theorem State.linksDown_flow : s.linksDown.flow = s.flow :=
  State.flow_foldl (fun u p => u.linkDown_flow p) _ s

@[simp] theorem State.useSource_flow (r : Option RefSource) : (s.useSource r).flow = s.flow := by simp [State.useSource]

@[simp] theorem State.switchTo_flow (r : RefSource) : (s.switchTo r).flow = s.flow := by
  unfold State.switchTo
  split <;> simp

@[simp] theorem sourceEligibleSt_flow (r : RefSource) : (sourceEligibleSt r s).flow = s.flow := by
  simp only [sourceEligibleSt, State.flow_ite]
  (repeat' split) <;> simp

@[simp] theorem sourceFailSt_flow (r : RefSource) : (sourceFailSt r s).flow = s.flow := by
  simp only [sourceFailSt, State.flow_ite]
  (repeat' split) <;> simp

@[simp] theorem sourceSwitchBackSt_flow : (sourceSwitchBackSt s).flow = s.flow := by
  unfold sourceSwitchBackSt
  split <;> simp

@[simp] theorem clkCoastSt_flow : (clkCoastSt s).flow = s.flow := by
  unfold clkCoastSt
  split <;> simp

@[simp] theorem coastRelockSt_flow : (coastRelockSt s).flow = s.flow := by
  unfold coastRelockSt
  split <;> simp

@[simp] theorem State.obeyPrimary_flow : (s.obeyPrimary).flow = s.flow := by
  unfold State.obeyPrimary
  split <;> simp

/-! ### PortRows -/

@[simp] theorem mgmtPortClassWriteSt_flow (mp : MgmtPort) (value : Reg) : (mgmtPortClassWriteSt mp value s).flow = s.flow := by
  refine s.setup_flow (fun u => ?_) mp
  refine State.flow_foldl (fun v p => ?_) _ u
  dsimp only
  refine State.flow_cases (fun _ => rfl) (fun _ => ?_)
  split <;> simp

@[simp] theorem State.addBadLane_flow (p pair : Nat) : (s.addBadLane p pair).flow = s.flow := (s.addBadLane_only p pair).flow rfl

@[simp] theorem portLinkUpSt_flow (port : Nat) (good : List Nat) (partnerSpare at128 : Bool) :
    (portLinkUpSt port good partnerSpare at128 s).flow = s.flow := by
  simp only [portLinkUpSt, State.flow_ite]
  (repeat' split) <;> simp

@[simp] theorem laneFailSt_flow (port pair : Nat) : (laneFailSt port pair s).flow = s.flow := by simp [laneFailSt]

@[simp] theorem hportLaneFaultSt_flow (port pair : Nat) (x8at128 x8at64 : Bool) : (hportLaneFaultSt port pair x8at128 x8at64 s).flow = s.flow := by
  simp only [hportLaneFaultSt, State.flow_ite]
  (repeat' split) <;> simp

@[simp] theorem hportLinkDownSt_flow (port : Nat) : (hportLinkDownSt port s).flow = s.flow := by simp [hportLinkDownSt]

@[simp] theorem loopbackRequestRemoteSt_flow (port : Nat) : (loopbackRequestRemoteSt port s).flow = s.flow := by
  simp [loopbackRequestRemoteSt]

@[simp] theorem bridgeCrcFailSt_flow (flit : Nat) : (bridgeCrcFailSt flit s).flow = s.flow := by simp [bridgeCrcFailSt]
@[simp] theorem ideCheckFailSt_flow (port : Nat) : (ideCheckFailSt port s).flow = s.flow := by simp [ideCheckFailSt]
@[simp] theorem ideKeyProgSt_flow (port : Nat) : (ideKeyProgSt port s).flow = s.flow := by simp [ideKeyProgSt]

@[simp] theorem configAccessSt_flow (port offset : Nat) (write : Option Nat) : (configAccessSt port offset write s).flow = s.flow := by
  simp [configAccessSt]

@[simp] theorem spdmRequestSt_flow (port : PortRef) (req : SpdmReq) : (spdmRequestSt port req s).flow = s.flow := by
  unfold spdmRequestSt
  split <;> simp

@[simp] theorem State.mbox_flow (result : Nat) : (s.mbox result).flow = s.flow := by simp [State.mbox]
@[simp] theorem activateSvnSt_flow (mp : MgmtPort) (image : Nat) : (activateSvnSt mp image s).flow = s.flow := by simp [activateSvnSt]
@[simp] theorem copyMeasurementsSt_flow (mp : MgmtPort) : (copyMeasurementsSt mp s).flow = s.flow := by simp [copyMeasurementsSt]

/-! ### Resident -/

@[simp] theorem State.endRun_flow (w : Nat) (res : Result) : (s.endRun w res).flow = s.flow := by
  simp only [State.endRun]
  split <;> simp

@[simp] theorem State.residentReads_flow {f : State → State} (hf : ∀ u : State, (f u).flow = u.flow) (x : Work) (reads writes : List (Nat × Nat)) :
    (s.residentReads x reads writes f).flow = s.flow := by
  unfold State.residentReads
  obtain ⟨u, hu, hs⟩ | ⟨u, hu, hs⟩ := Gate.flow_cases (s.gateBy_flow x residentWho
    (reads.map (fun r => (r.1, r.2, false)) ++ writes.map (fun r => (r.1, r.2, true))))
  · rw [hu]
    exact (State.flow_cases (fun _ => u.endRun_flow _ _) (fun _ => ((f u).usedBy_flow _ _).trans (hf u))).trans hs
  · rw [hu]
    exact hs

@[simp] theorem State.vecReduce_flow (x : Work) (r : Run) (data0 : Bytes) : (s.vecReduce x r data0).flow = s.flow := by
  simp [State.vecReduce]

@[simp] theorem State.exactScores_flow (x : Work) (data0 data1 : Bytes) : (s.exactScores x data0 data1).flow = s.flow := by
  simp [State.exactScores]

/-- The state in which the blocks have been decoded, or an access waits. -/
def Unpacked.state : Unpacked → State
  | .hold s => s
  | .done s _ _ => s

theorem State.unpack_flow (x : Work) (data0 : Bytes) (n i off pos : Nat) (out : List Bytes) :
    (s.unpack x data0 n i off pos out).state.flow = s.flow := by
  induction n generalizing s i off pos out with
  | zero => rfl
  | succ n ih =>
    unfold State.unpack
    dsimp only
    obtain ⟨u, hu, hs⟩ | ⟨u, hu, hs⟩ := Gate.flow_cases (s.gateBy_flow x residentWho [(descOp0 x.desc + off, 16, false)])
    · rw [hu]
      refine Eq.trans ?_ hs
      dsimp only
      generalize min _ 65600 = size
      obtain ⟨v, hv, hs⟩ | ⟨v, hv, hs⟩ := Gate.flow_cases (u.gateBy_flow x residentWho [(descOp0 x.desc + off, size, false)])
      · rw [hv]
        refine Eq.trans ?_ hs
        dsimp only
        split
        · rfl
        split
        · rfl
        · next raw _ =>
          obtain ⟨t, ht, hs⟩ | ⟨t, ht, hs⟩ := Gate.flow_cases (v.gateBy_flow x residentWho [(descRes x.desc + pos, raw.length, true)])
          · rw [ht]
            exact (ih t _ _ _ _).trans hs
          · rw [ht]
            exact hs
      · rw [hv]
        exact hs
    · rw [hu]
      exact hs

@[simp] theorem State.tierDecode_flow (x : Work) (data0 : Bytes) : (s.tierDecode x data0).flow = s.flow := by
  unfold State.tierDecode
  have h := s.unpack_flow x data0 (fld x.desc 40 4) 0 0 0 []
  generalize s.unpack x data0 (fld x.desc 40 4) 0 0 0 [] = r at h
  cases r with
  | hold u => exact h
  | done u out bad =>
    refine Eq.trans ?_ h
    dsimp only
    split
    · simp [Unpacked.state]
    · split <;> simp [Unpacked.state]

@[simp] theorem runCompleteSt_flow (run : Nat) (data0 data1 : Bytes) : (runCompleteSt run data0 data1 s).flow = s.flow := by
  unfold runCompleteSt
  (repeat' split) <;> simp

/-! ### Tensors -/

@[simp] theorem State.setTensor_flow (h : Nat) (x : Tensor) : (s.setTensor h x).flow = s.flow := (s.setTensor_only h x).flow rfl

@[simp] theorem State.loseBlocks_flow (x : Tensor) (first : Nat) (bad : List Nat) : (s.loseBlocks x first bad).flow = s.flow :=
  State.flow_cases (fun _ => rfl) (fun _ => State.flow_foldl (fun u a => u.loseGrain_flow a) _ s)

@[simp] theorem State.putCopy_flow (x : Tensor) (a : Nat) (raw stream : Bytes) : (s.putCopy x a raw stream).flow = s.flow := by
  unfold State.putCopy
  split <;> simp

@[simp] theorem State.vacate_flow (index : Nat) (x : Tensor) (before : Nat) : (s.vacate index x before).flow = s.flow := by
  unfold State.vacate
  split <;> simp

@[simp] theorem State.setJob_flow (j k : TensorJob) : (s.setJob j k).flow = s.flow := by simp [State.setJob]
@[simp] theorem State.queueJobs_flow : (s.queueJobs).flow = s.flow := by simp [State.queueJobs]
@[simp] theorem State.addJob_flow (j : TensorJob) : (s.addJob j).flow = s.flow := by simp [State.addJob]

@[simp] theorem State.undoMove_flow (j : TensorJob) : (s.undoMove j).flow = s.flow := by
  simp only [State.undoMove]
  split <;> simp

@[simp] theorem State.dropJob_flow (j : TensorJob) : (s.dropJob j).flow = s.flow := by simp [State.dropJob]

@[simp] theorem State.endJobs_flow (w : Nat) : (s.endJobs w).flow = s.flow :=
  State.flow_foldl (fun u j => u.undoMove_flow j) _ s

@[simp] theorem State.setTrailEntry_flow (w entry : Nat) (f : TrailEntry → TrailEntry) : (s.setTrailEntry w entry f).flow = s.flow := by
  simp [State.setTrailEntry]

@[simp] theorem State.trailEnd_flow (w : Nat) : (s.trailEnd w).flow = s.flow := by
  unfold State.trailEnd
  split <;> simp

@[simp] theorem State.outcome_flow (w entry code : Nat) : (s.outcome w entry code).flow = s.flow := by simp [State.outcome]

@[simp] theorem State.beginMove_flow (j : TensorJob) (x : Tensor) (a n : Nat) : (s.beginMove j x a n).flow = s.flow := by
  simp [State.beginMove]

@[simp] theorem State.startTrailMove_flow (j : TensorJob) (entry : Nat) : (s.startTrailMove j entry).flow = s.flow := by
  unfold State.startTrailMove
  (repeat' split) <;> simp

@[simp] theorem State.returnFails_flow (j : TensorJob) : (s.returnFails j).flow = s.flow := by simp [State.returnFails]

@[simp] theorem State.startReturn_flow (j : TensorJob) (h : TrailHold) : (s.startReturn j h).flow = s.flow := by
  unfold State.startReturn
  (repeat' split) <;> simp

@[simp] theorem State.startBare_flow (j : TensorJob) : (s.startBare j).flow = s.flow := by
  unfold State.startBare
  split <;> simp

@[simp] theorem State.startNever_flow (j : TensorJob) : (s.startNever j).flow = s.flow := by
  unfold State.startNever
  split <;> simp

@[simp] theorem State.startMove_flow (j : TensorJob) : (s.startMove j).flow = s.flow := by
  unfold State.startMove
  (repeat' split) <;> simp

@[simp] theorem State.startJob_flow (before : List TensorJob) (j : TensorJob) : (s.startJob before j).flow = s.flow := by
  unfold State.startJob
  (repeat' split) <;> simp

@[simp] theorem moveStartSt_flow (handle w : Nat) : (moveStartSt handle w s).flow = s.flow := by
  unfold moveStartSt
  split <;> simp

@[simp] theorem State.withJob_flow {f : TensorJob → State → State} (hf : ∀ j, ∀ u : State, (f j u).flow = u.flow) (w : Nat) :
    (s.withJob w f).flow = s.flow := by
  unfold State.withJob
  dsimp only
  split
  · rfl
  · next before j _ =>
    have hstart : (if j.started then s else s.startJob before j).flow = s.flow :=
      State.flow_cases (fun _ => rfl) (fun _ => s.startJob_flow _ _)
    generalize (if j.started then s else s.startJob before j) = u at hstart
    refine Eq.trans ?_ hstart
    split
    · exact State.flow_cases (fun _ => hf _ u) (fun _ => rfl)
    · rfl

@[simp] theorem State.withTensor_flow {f : Work → Tensor → TensorJob → State → State} (hf : ∀ x t j, ∀ u : State, (f x t j u).flow = u.flow)
    (w op : Nat) : (s.withTensor w op f).flow = s.flow := by
  refine s.withWork_flow (fun x u => ?_) w _
  split
  · refine State.flow_cases (fun _ => u.finish_flow _ _) (fun _ => u.withJob_flow (fun j v => ?_) w)
    split
    · simp
    · exact hf _ _ _ v
  · rfl

@[simp] theorem tensorMoveSt_flow (w : Nat) : (tensorMoveSt w s).flow = s.flow := by
  refine s.withTensor_flow (fun x t j u => State.flow_cases (fun _ => rfl) (fun _ => ?_)) w 0x21
  split <;> simp

@[simp] theorem State.gateTH_flow {f : State → State} (hf : ∀ u : State, (f u).flow = u.flow) (y : Work) (accs : List (Nat × Nat × Bool))
    (th : List (Tensor × Nat × Bool)) : (s.gateTH y accs th f).flow = s.flow := by
  induction th generalizing s with
  | nil => exact s.withAccess_flow hf y accs
  | cons h l ih =>
    obtain ⟨x, n, wr⟩ := h
    unfold State.gateTH
    obtain ⟨u, hu, hs⟩ | ⟨u, hu, hs⟩ := Gate.flow_cases (s.gate_flow (y.under x) [(x.thAddr, n, wr)])
    · rw [hu]
      exact (ih u).trans hs
    · rw [hu]
      exact hs

@[simp] theorem State.placeCopy_flow {f : State → State} (hf : ∀ u : State, (f u).flow = u.flow) (j : TensorJob) (new : Tensor)
    (raw stream : Bytes) : (s.placeCopy j new raw stream f).flow = s.flow :=
  State.flow_cases (fun _ => (hf _).trans (s.putCopy_flow _ _ _ _)) (fun _ => by simp)

@[simp] theorem State.afterFlash_flow {fails : Nat → State → State} {f : Tensor → State → State} (hfails : ∀ n, ∀ u : State,
    (fails n u).flow = u.flow)
    (hf : ∀ x, ∀ u : State, (f x u).flow = u.flow) (j : TensorJob) (new : Tensor) : (s.afterFlash j new fails f).flow = s.flow := by
  unfold State.afterFlash
  split
  · exact hfails _ s
  · exact State.flow_cases (fun _ => rfl) (fun _ => hf _ s)

@[simp] theorem State.noteRecord_flow (h : Nat) (x : Tensor) : (s.noteRecord h x).flow = s.flow := by simp [State.noteRecord]
@[simp] theorem State.landMove_flow (j : TensorJob) (x new : Tensor) : (s.landMove j x new).flow = s.flow := by simp [State.landMove]

@[simp] theorem State.endMove_flow (w : Nat) (j : TensorJob) (x : Tensor) : (s.endMove w j x).flow = s.flow := by
  unfold State.endMove
  (repeat' split) <;> simp

@[simp] theorem State.moveFails_flow (w : Nat) (j : TensorJob) (r : Result) : (s.moveFails w j r).flow = s.flow := by
  unfold State.moveFails
  split <;> simp

@[simp] theorem State.onMove_flow {f : State → State} (hf : ∀ u : State, (f u).flow = u.flow) (j : TensorJob) (x new : Tensor) :
    (s.onMove j x new f).flow = s.flow := by
  unfold State.onMove
  dsimp only
  split
  · exact State.flow_cases (fun _ => s.onMedia_flow hf _ _ _ _ _) (fun _ => s.gateTH_flow (fun u => u.onMedia_flow hf _ _ _ _ _) _ _ _)
  · exact s.onMedia_flow hf _ _ _ _ _

@[simp] theorem moveCompleteSt_flow (handle w : Nat) (buffer : Bytes) (bad : List Nat) : (moveCompleteSt handle w buffer bad s).flow = s.flow := by
  unfold moveCompleteSt
  split
  · rfl
  split
  · rfl
  refine State.flow_cases (fun _ => rfl) (fun _ => ?_)
  split
  · exact s.afterFlash_flow (fun _ u => by simp) (fun _ u => by simp) _ _
  · refine s.onMove_flow (fun u => ?_) _ _ _
    dsimp only
    split
    · simp
    · exact u.placeCopy_flow (fun v => by simp) _ _ _ _

@[simp] theorem State.landCreate_flow (w : Nat) (j : TensorJob) (new : Tensor) : (s.landCreate w j new).flow = s.flow := by
  simp [State.landCreate]

@[simp] theorem State.makeTensor_flow (x : Work) (j : TensorJob) (contents : Bytes) : (s.makeTensor x j contents).flow = s.flow := by
  refine s.withAccess_flow (fun u => ?_) x _
  split
  · simp
  split
  · simp
  · refine u.onMedia_flow (fun v => ?_) _ _ _ _ _
    exact (State.placeCopy_flow _ (fun t => by simp) _ _ _ _).trans (by simp)

@[simp] theorem tensorCreateSt_flow (w : Nat) (contents : Bytes) : (tensorCreateSt w contents s).flow = s.flow := by
  refine s.withWork_flow (fun x u => State.flow_cases (fun _ => rfl) (fun _ => ?_)) w _
  split
  · simp
  · refine u.withJob_flow (fun j v => ?_) w
    split
    · exact v.afterFlash_flow (fun _ t => by simp) (fun _ t => by simp) _ _
    · exact v.makeTensor_flow _ _ _

@[simp] theorem tensorReleaseSt_flow (w : Nat) : (tensorReleaseSt w s).flow = s.flow := by
  refine s.withWork_flow (fun x u => State.flow_cases (fun _ => rfl) (fun _ => ?_)) w _
  dsimp only
  split
  · rfl
  refine State.flow_cases (fun _ => rfl) (fun _ => ?_)
  split <;> simp

@[simp] theorem State.writeGood_flow (y : Work) (res n i : Nat) (bs : List Decoded) : (s.writeGood y res n i bs).flow = s.flow := by
  induction bs generalizing s i with
  | nil => rfl
  | cons b l ih => cases b <;> simp [State.writeGood, ih]

@[simp] theorem tensorGetSt_flow (w : Nat) (buffer : Bytes) (bad : List Nat) : (tensorGetSt w buffer bad s).flow = s.flow := by
  refine s.withTensor_flow (fun y x j u => ?_) w 0x22
  split
  · simp
  · refine u.gateTH_flow (fun v => v.onMedia_flow (fun t => ?_) _ _ _ _ _) _ _ _
    dsimp only
    split <;> simp

@[simp] theorem State.landPut_flow (w : Nat) (j : TensorJob) (x new : Tensor) (n : Nat) : (s.landPut w j x new n).flow = s.flow := by
  simp [State.landPut]

@[simp] theorem State.rewriteStream_flow (w : Nat) (j : TensorJob) (x : Tensor) (first n : Nat) (old blocks : List Bytes) :
    (s.rewriteStream w j x first n old blocks).flow = s.flow := by
  simp only [State.rewriteStream, State.flow_ite]
  (repeat' split) <;> simp

@[simp] theorem tensorPutSt_flow (w : Nat) (contents buffer : Bytes) (bad : List Nat) : (tensorPutSt w contents buffer bad s).flow = s.flow := by
  refine s.withTensor_flow (fun y x j u => ?_) w 0x23
  split
  · simp
  · exact u.afterFlash_flow (fun _ t => by simp) (fun _ t => by simp) _ _
  · refine u.gateTH_flow (fun v => v.onMedia_flow (fun t => ?_) _ _ _ _ _) _ _ _
    dsimp only
    split
    · simp
    · simp
    · split <;> simp

@[simp] theorem State.trailEntries_flow (t : Nat) (b : Bytes) (n i prev : Nat) : (s.trailEntries t b n i prev).2.flow = s.flow := by
  induction n generalizing s i prev with
  | zero => rfl
  | succ n ih => simp [State.trailEntries, ih]

@[simp] theorem trailPostSt_flow (w : Nat) (entries : Bytes) : (trailPostSt w entries s).flow = s.flow := by
  refine s.withWork_flow (fun x u => State.flow_cases (fun _ => u.trailEnd_flow w) (fun _ => ?_)) w _
  refine u.withReads_flow (fun v => ?_) x _
  dsimp only
  exact State.flow_cases (fun _ => v.finish_flow _ _) (fun _ => v.trailEntries_flow _ _ _ _ _)

@[simp] theorem trailMoveStartSt_flow (w entry : Nat) : (trailMoveStartSt w entry s).flow = s.flow := by
  unfold trailMoveStartSt
  (repeat' split) <;> simp

@[simp] theorem trailReturnSt_flow (handle w : Nat) : (trailReturnSt handle w s).flow = s.flow := by
  unfold trailReturnSt
  (repeat' split) <;> simp

/-! ### Admission -/

@[simp] theorem State.traceWork_flow (x : Work) (event status : Nat) : (s.traceWork x event status).flow = s.flow := by
  simp [State.traceWork]

@[simp] theorem State.passHead_flow (ring : Nat) : (s.passHead ring).flow = s.flow := by simp [State.passHead]

@[simp] theorem State.onAdmit_flow (x : Work) : (s.onAdmit x).flow = s.flow := by
  simp only [State.onAdmit]
  (repeat' split) <;> simp

@[simp] theorem State.admitHead_flow (ring : Nat) (d : Bytes) : (s.admitHead ring d).flow = s.flow := by simp [State.admitHead]

@[simp] theorem admissionSt_flow (ring : Nat) : (admissionSt ring s).flow = s.flow := by
  simp only [admissionSt]
  (repeat' split) <;> simp

@[simp] theorem State.handOut_flow (t cls fuel : Nat) : (s.handOut t cls fuel).flow = s.flow := by
  induction fuel generalizing s with
  | zero => rfl
  | succ n ih =>
    unfold State.handOut
    dsimp only
    split
    · rfl
    split
    · exact State.flow_cases (fun _ => (ih _).trans (s.admitHead_flow _ _)) (fun _ => rfl)
    · rfl

@[simp] theorem State.forwardWaiting_flow : s.forwardWaiting.flow = s.flow :=
  State.flow_foldl (fun u _ => u.takeForward_flow _ _) _ _

@[simp] theorem State.creditsFreed_flow (t cls : Nat) : (s.creditsFreed t cls).flow = s.flow := by
  unfold State.creditsFreed
  refine State.flow_cases (fun _ => rfl) (fun _ => ?_)
  split <;> split <;> simp

@[simp] theorem State.releaseLate_flow (w : Nat) : (s.releaseLate w).flow = s.flow :=
  State.flow_foldl (fun u _ => u.freeStorage_flow _ _ _) _ _

@[simp] theorem State.dropWork_flow (w : Nat) : (s.dropWork w).flow = s.flow := by simp [State.dropWork]

@[simp] theorem descriptorCompleteSt_flow (w : Nat) : (descriptorCompleteSt w s).flow = s.flow := by
  unfold descriptorCompleteSt
  (repeat' split) <;> simp

@[simp] theorem leafSwapSt_flow (burrow leaf : Nat) : (leafSwapSt burrow leaf s).flow = s.flow := by simp [leafSwapSt]

@[simp] theorem nopSt_flow (w : Nat) : (nopSt w s).flow = s.flow :=
  s.withWork_flow (fun _ u => u.finish_flow _ _) w _

@[simp] theorem fenceSt_flow (w : Nat) : (fenceSt w s).flow = s.flow :=
  s.withWork_flow (fun x u => State.flow_cases (fun _ => u.finish_flow _ _) (fun _ => u.withAccess_flow (fun v => by simp) x _)) w _

@[simp] theorem snapshotPinSt_flow (w : Nat) : (snapshotPinSt w s).flow = s.flow :=
  s.withWork_flow (fun x u => State.flow_cases (fun _ => u.finish_flow _ _)
    (fun _ => State.flow_cases (fun _ => u.finish_flow _ _) (fun _ => by simp))) w _

@[simp] theorem snapshotReleaseSt_flow (w : Nat) : (snapshotReleaseSt w s).flow = s.flow :=
  s.withWork_flow (fun x u => State.flow_cases (fun _ => u.finish_flow _ _) (fun _ => by simp)) w _

/-! ### Tenancies -/

@[simp] theorem State.applyShadow_flow (t : Nat) : (s.applyShadow t).flow = s.flow := by simp [State.applyShadow]
@[simp] theorem State.keyTenancy_flow (t : Nat) : (s.keyTenancy t).flow = s.flow := by simp [State.keyTenancy]

@[simp] theorem State.tenSet_flow (t : Nat) (bind : Bool) (i : Instr) : (s.tenSet t bind i).flow = s.flow := by
  simp only [State.tenSet, State.flow_ite]
  (repeat' split) <;> simp

@[simp] theorem State.runBind_flow (t : Nat) (i : Instr) : (s.runBind t i).flow = s.flow := by simp [State.runBind]
@[simp] theorem State.runModify_flow (t : Nat) (i : Instr) : (s.runModify t i).flow = s.flow := by simp [State.runModify]
@[simp] theorem tenBindSt_flow (mp : MgmtPort) (tenancy : Nat) : (tenBindSt mp tenancy s).flow = s.flow := by simp [tenBindSt]
@[simp] theorem tenModifySt_flow (mp : MgmtPort) (tenancy : Nat) : (tenModifySt mp tenancy s).flow = s.flow := by simp [tenModifySt]

@[simp] theorem State.runTeardown_flow (t : Nat) : (s.runTeardown t).flow = s.flow := by
  unfold State.runTeardown
  refine State.flow_cases (fun _ => s.cmdFail_flow _ _) (fun _ => State.flow_cases (fun _ => rfl)
    (fun _ => State.flow_cases (fun _ => s.cmdFail_flow _ _) (fun _ => ?_)))
  dsimp only
  simp only [State.flow_mk]
  refine (State.flow_foldl (fun u e => u.withdraw_flow e) _ _).trans ?_
  refine (State.flow_foldl (fun u e => u.unmap_flow e) _ _).trans ?_
  refine (State.flow_foldl (fun u e => u.drainCtx_flow e) _ _).trans ?_
  exact State.flow_foldl (fun u e => u.drainRing_flow e) _ _

@[simp] theorem tenTeardownSt_flow (mp : MgmtPort) (tenancy : Nat) : (tenTeardownSt mp tenancy s).flow = s.flow := by simp [tenTeardownSt]

@[simp] theorem State.dropObjects_flow (t : Nat) : (s.dropObjects t).flow = s.flow :=
  State.flow_foldl (fun u _ => u.journalTensor_flow _ _ _) _ s

@[simp] theorem State.trimTenancy_flow (t : Nat) : (s.trimTenancy t).flow = s.flow := by simp [State.trimTenancy]
@[simp] theorem State.returnGranules_flow (t : Nat) : (s.returnGranules t).flow = s.flow := by simp [State.returnGranules]
@[simp] theorem teardownKeyDestroySt_flow (tenancy : Nat) : (teardownKeyDestroySt tenancy s).flow = s.flow := by simp [teardownKeyDestroySt]
@[simp] theorem tenancyFreedSt_flow (tenancy : Nat) : (tenancyFreedSt tenancy s).flow = s.flow := by simp [tenancyFreedSt]

@[simp] theorem State.zeroBlock_flow (a : Nat) : (s.zeroBlock a).flow = s.flow :=
  State.flow_foldl (fun u _ => u.zero_flow _ _) _ s

@[simp] theorem State.retryTen_flow : (s.retryTen).flow = s.flow := by
  unfold State.retryTen
  split <;> simp

@[simp] theorem zeroFillSt_flow (region granule block : Nat) : (zeroFillSt region granule block s).flow = s.flow := by
  simp only [zeroFillSt]
  (repeat' split) <;> simp

@[simp] theorem State.asHolder_flow {f : State → State} (hf : ∀ u : State, (f u).flow = u.flow) (mp : MgmtPort) : (s.asHolder mp f).flow = s.flow :=
  hf _

@[simp] theorem State.runCommand_flow (i : Instr) : (s.runCommand i).flow = s.flow := by
  cases i <;> simp [State.runCommand]

@[simp] theorem heldCommandStartSt_flow (block : CmdBlock) : (heldCommandStartSt block s).flow = s.flow := by
  unfold heldCommandStartSt
  dsimp only
  split
  · split <;> simp
  · rfl

/-! ### Translate -/

@[simp] theorem translationCompletionSt_flow (port pasid addr size : Nat) (read write : Bool) :
    (translationCompletionSt port pasid addr size read write s).flow = s.flow := by
  refine State.flow_foldl (fun u v => ?_) _ s
  split
  · rfl
  · exact State.flow_cases (fun _ => State.flow_cases (fun _ => rfl) (fun _ => by simp)) (fun _ => by simp)

@[simp] theorem atsInvalidateSt_flow (port pasid addr size : Nat) : (atsInvalidateSt port pasid addr size s).flow = s.flow :=
  s.arrive_flow (fun _ => by rfl) port 1

@[simp] theorem invalidationCompletionSt_flow (port : Nat) : (invalidationCompletionSt port s).flow = s.flow := by
  simp [invalidationCompletionSt]

@[simp] theorem State.replay_flow (f : FaultRec) : (s.replay f).flow = s.flow := (s.replay_only f).flow rfl

@[simp] theorem prgResponseSt_flow (port index : Nat) (success : Bool) : (prgResponseSt port index success s).flow = s.flow := by
  unfold prgResponseSt
  split <;> simp

@[simp] theorem atsDisableSt_flow (port : Nat) : (atsDisableSt port s).flow = s.flow :=
  (State.flow_foldl (fun u f => u.abandon_flow f _) _ _).trans (s.setPort_flow _ _)

@[simp] theorem faultSt_flow (w addr : Nat) (write : Bool) (cause : FaultCause) (level : Nat) :
    (faultSt w addr write cause level s).flow = s.flow := by
  unfold faultSt
  split <;> simp

@[simp] theorem State.postBatch_flow (t p : Nat) : (s.postBatch t p).flow = s.flow := by
  unfold State.postBatch
  split <;> simp

@[simp] theorem State.postBatches_flow : s.postBatches.flow = s.flow :=
  State.flow_foldl (fun u g => by simp) _ _

@[simp] theorem faultRecordPostSt_flow (tenancy port : Nat) : (faultRecordPostSt tenancy port s).flow = s.flow := by
  simp only [faultRecordPostSt]
  split <;> simp

@[simp] theorem faultTimeoutSt_flow (tenancy port id : Nat) : (faultTimeoutSt tenancy port id s).flow = s.flow := by
  unfold faultTimeoutSt
  split <;> simp

@[simp] theorem faultResumeRetrySt_flow (w : Nat) : (faultResumeRetrySt w s).flow = s.flow :=
  s.withWork_flow (fun _ u => State.flow_cases
    (fun _ => (State.finish_flow _ _ _).trans (State.flow_foldl (fun v f => v.replay_flow f) _ u)) (fun _ => rfl)) w _

@[simp] theorem faultResumeAbortSt_flow (w : Nat) : (faultResumeAbortSt w s).flow = s.flow :=
  s.withWork_flow (fun _ u => State.flow_cases
    (fun _ => (State.finish_flow _ _ _).trans (State.flow_foldl (fun v f => v.abandon_flow f _) _ u)) (fun _ => rfl)) w _

@[simp] theorem mirrorSyncSt_flow (w : Nat) (records : Bytes) : (mirrorSyncSt w records s).flow = s.flow := by
  refine s.withWork_flow (fun x u => u.withAccess_flow (fun v => State.flow_cases (fun _ => v.finish_flow _ _) (fun _ => ?_)) x _) w _
  refine (State.finish_flow _ _ _).trans ?_
  simp only [State.flow_mk]
  exact State.flow_foldl (fun t r => t.put_flow _ _) _ v

@[simp] theorem xltFaultRingWriteSt_flow (mp : MgmtPort) (tenancy port : Nat) (value logAddr : Reg) :
    (xltFaultRingWriteSt mp tenancy port value logAddr s).flow = s.flow := by
  simp [xltFaultRingWriteSt]

/-! ### Frames -/

@[simp] theorem State.packDen_flow (den : Nat) : (s.packDen den).flow = s.flow := by simp [State.packDen]

@[simp] theorem State.replaceSett_flow (den k phys : Nat) : (s.replaceSett den k phys).flow = s.flow := by
  unfold State.replaceSett
  split <;> simp

@[simp] theorem State.settleSetts_flow : s.settleSetts.flow = s.flow :=
  State.flow_foldl (fun u _ => u.replaceSett_flow _ _ _) _ _

@[simp] theorem State.boundaryMaps_flow : s.boundaryMaps.flow = s.flow :=
  (State.flow_foldl (fun u e => drainEndSt_flow u e) _ _).trans
    ((State.flow_foldl (fun u _ => leaseExpireSt_flow u _ _) _ _).trans (s.switchMaps_flow _))

@[simp] theorem State.boundarySwaps_flow : s.boundarySwaps.flow = s.flow := by
  unfold State.boundarySwaps
  dsimp only
  generalize hv : List.foldl _ _ _ = v
  have hfold : v.flow = s.flow := by
    rw [← hv]
    exact (State.flow_foldl (fun u t => u.creditsFreed_flow t 2) _ _).trans s.swapAll_flow
  split <;> simpa using hfold

/-! ### Health -/

@[simp] theorem State.loseSett_flow (den k : Nat) : (s.loseSett den k).flow = s.flow := by simp [State.loseSett]

@[simp] theorem settFailSt_flow (den phys : Nat) : (settFailSt den phys s).flow = s.flow := by
  simp only [settFailSt, State.flow_ite]
  (repeat' split) <;> simp

@[simp] theorem State.loseStack_flow (stack : Nat) : (s.loseStack stack).flow = s.flow := (s.loseStack_only stack).flow rfl
@[simp] theorem hbmRetireSt_flow (stack : Nat) : (hbmRetireSt stack s).flow = s.flow := by simp [hbmRetireSt]
@[simp] theorem State.takeSpare_flow (stack : Nat) : (s.takeSpare stack).flow = s.flow := (s.takeSpare_only stack).flow rfl

@[simp] theorem spareTakeoverSt_flow : (spareTakeoverSt s).flow = s.flow := by
  unfold spareTakeoverSt
  split <;> simp

@[simp] theorem hbmStackFailSt_flow (stack : Nat) : (hbmStackFailSt stack s).flow = s.flow := by simp [hbmStackFailSt]
@[simp] theorem hbmSpareWriteSt_flow (mp : MgmtPort) (value : Reg) : (hbmSpareWriteSt mp value s).flow = s.flow := by simp [hbmSpareWriteSt]

@[simp] theorem State.losePlain_flow (ext : Nat) (stripe : Nat) : (s.losePlain ext stripe).flow = s.flow :=
  (s.losePlain_only ext stripe).flow rfl

@[simp] theorem State.loseCopies_flow (ch ext copy : Nat) : (s.loseCopies ch ext copy).flow = s.flow :=
  (s.loseCopies_only ch ext copy).flow rfl

@[simp] theorem State.loseOthers_flow (ch : Nat) : (s.loseOthers ch).flow = s.flow := (s.loseOthers_only ch).flow rfl

@[simp] theorem ddrChannelFailSt_flow (ch : Nat) (failed : Bool) : (ddrChannelFailSt ch failed s).flow = s.flow := by
  refine State.flow_cases (fun _ => rfl) (fun _ => State.flow_cases (fun _ => ?_)
    (fun _ => State.flow_cases (fun _ => rfl) (fun _ => by simp)))
  refine (State.reviewSvc_flow _).trans ((State.loseOthers_flow _ _).trans ?_)
  exact (State.flow_foldl (fun u e => by simp) _ _).trans (by simp)

@[simp] theorem State.spoil_flow (addr : Nat) : (s.spoil addr).flow = s.flow := by simp [State.spoil]

@[simp] theorem errorDetectedSt_flow (cls source code : Nat) (tenancy : Option Nat) (unit addr objKind objId info : Nat) :
    (errorDetectedSt cls source code tenancy unit addr objKind objId info s).flow = s.flow := by
  unfold errorDetectedSt
  split <;> simp

@[simp] theorem errHeadWriteSt_flow (mp : MgmtPort) (value : Reg) : (errHeadWriteSt mp value s).flow = s.flow := by simp [errHeadWriteSt]
@[simp] theorem State.heat_flow (maxC : Nat) : (s.heat maxC).flow = s.flow := (s.heat_only maxC).flow rfl
@[simp] theorem State.throttleTo_flow (n : Nat) : (s.throttleTo n).flow = s.flow := by simp [State.throttleTo]
@[simp] theorem thermWarnSt_flow (maxC : Nat) : (thermWarnSt maxC s).flow = s.flow := by simp [thermWarnSt]
@[simp] theorem thermEscalateSt_flow (maxC : Nat) : (thermEscalateSt maxC s).flow = s.flow := by simp [thermEscalateSt]
@[simp] theorem thermTripSt_flow (maxC : Nat) : (thermTripSt maxC s).flow = s.flow := by simp [thermTripSt]
@[simp] theorem thermClearSt_flow (maxC : Nat) : (thermClearSt maxC s).flow = s.flow := by simp [thermClearSt]
@[simp] theorem hltLbCmdSt_flow (mp : MgmtPort) (value : Reg) : (hltLbCmdSt mp value s).flow = s.flow := by simp [hltLbCmdSt]

@[simp] theorem loopbackEndSt_flow (compared errors : Nat) : (loopbackEndSt compared errors s).flow = s.flow := by
  unfold loopbackEndSt
  split <;> simp

@[simp] theorem hltRepairClrSt_flow (mp : MgmtPort) (value : Reg) : (hltRepairClrSt mp value s).flow = s.flow :=
  s.setup_flow (fun _ => by rfl) mp

/-! ### Power -/

@[simp] theorem State.beginTest_flow : (s.beginTest).flow = s.flow := by simp [State.beginTest]
@[simp] theorem perstNDeassertSt_flow (straps : Nat) : (perstNDeassertSt straps s).flow = s.flow := by simp [perstNDeassertSt]
@[simp] theorem glbResetSt_flow (mp : MgmtPort) (value : Reg) : (glbResetSt mp value s).flow = s.flow := by simp [glbResetSt]
@[simp] theorem mainRailRestoreSt_flow : (mainRailRestoreSt s).flow = s.flow := by simp [mainRailRestoreSt]
@[simp] theorem auxPowerOnSt_flow : (auxPowerOnSt s).flow = s.flow := by simp [auxPowerOnSt]

@[simp] theorem State.layoutSetts_flow : s.layoutSetts.flow = s.flow := by
  refine State.flow_foldl (fun u f => ?_) _ _
  split
  · split <;> simp
  · rfl

@[simp] theorem State.testSetts_flow (new : List (Nat × Nat)) : (s.testSetts new).flow = s.flow :=
  (State.layoutSetts_flow _).trans (State.flow_foldl (fun u _ => u.logError_flow _ _ _ _ _ _ _ _ _) _ s)

@[simp] theorem State.testStacks_flow (new : List Nat) : (s.testStacks new).flow = s.flow := by
  unfold State.testStacks
  split <;> simp

@[simp] theorem State.testChannels_flow (new : List Nat) : (s.testChannels new).flow = s.flow := by simp [State.testChannels]

@[simp] theorem State.testParts_flow (fs : List TestFailure) (hbmBad : List Nat) : (s.testParts fs hbmBad).flow = s.flow :=
  (State.flow_foldl (fun u d => dieFailSt_flow u _ _) _ _).trans ((State.flow_foldl (fun u l => u.addBadLane_flow _ _) _ _).trans (by simp))

@[simp] theorem State.bootBanks_flow (bankB : Nat) : (s.bootBanks bankB).flow = s.flow := by simp [State.bootBanks]
@[simp] theorem State.failTest_flow (stage unit : Nat) : (s.failTest stage unit).flow = s.flow := by simp [State.failTest]
@[simp] theorem State.passTest_flow : (s.passTest).flow = s.flow := by simp [State.passTest]

@[simp] theorem selfTestSt_flow (failures : List TestFailure) (bankB : Nat) (shadow : Bool) : (selfTestSt failures bankB shadow s).flow = s.flow := by
  simp only [selfTestSt, State.flow_ite]
  (repeat' split) <;> simp

@[simp] theorem devReadyRiseSt_flow : (devReadyRiseSt s).flow = s.flow := by simp [devReadyRiseSt]
@[simp] theorem State.armScan_flow : (s.armScan).flow = s.flow := by simp [State.armScan]
@[simp] theorem dbgScanReqSt_flow (mp : MgmtPort) (value : Reg) : (dbgScanReqSt mp value s).flow = s.flow := by simp [dbgScanReqSt]
@[simp] theorem tapInstructionSt_flow (ins : TapIns) : (tapInstructionSt ins s).flow = s.flow := by simp [tapInstructionSt]

/-! ### Windows -/

@[simp] theorem objectWindowSelectSt_flow (mp : MgmtPort) (offset : Nat) (value : Reg) : (objectWindowSelectSt mp offset value s).flow = s.flow :=
  s.setup_flow (fun u => State.flow_cases (fun _ => by simp) (fun _ => State.flow_cases (fun _ => by simp) (fun _ => rfl))) mp

@[simp] theorem State.debugWord_flow (word : Nat) : (s.debugWord word).1.flow = s.flow := by
  unfold State.debugWord
  dsimp only
  split
  · rfl
  · split <;> simp

@[simp] theorem debugMemReadSt_flow (mp : MgmtPort) (word : Nat) : (debugMemReadSt mp word s).flow = s.flow := by
  simp [debugMemReadSt]

/-! ### Access -/

@[simp] theorem State.readAccess_flow (mp : MgmtPort) (offset size : Nat) : (s.readAccess mp offset size).flow = s.flow := by
  unfold State.readAccess
  split
  · simp
  · split <;> simp

@[simp] theorem State.undefinedCmd_flow (off : Nat) (v : Nat) : (s.undefinedCmd off v).flow = s.flow := by simp [State.undefinedCmd]
@[simp] theorem State.afterWrite_flow (off : Nat) : (s.afterWrite off).flow = s.flow := by simp [State.afterWrite]

@[simp] theorem State.writeAccess_flow (mp : MgmtPort) (offset size : Nat) (value hwSet : Reg) :
    (s.writeAccess mp offset size value hwSet).flow = s.flow := by
  unfold State.writeAccess
  split <;> simp

@[simp] theorem State.pageAccess_flow (port ring offset size : Nat) (value : Option Reg) :
    (s.pageAccess port ring offset size value).flow = s.flow := by
  unfold State.pageAccess
  (repeat' split) <;> simp

@[simp] theorem registerWriteSt_flow (port : PortRef) (target : Target) (size : Nat) (value : Option Reg) (hwSet : Reg) :
    (registerWriteSt port target size value hwSet s).flow = s.flow := by
  unfold registerWriteSt
  (repeat' split) <;> simp

@[simp] theorem State.onMgmt_flow {f : MgmtPort → State → State} (hf : ∀ mp, ∀ u : State, (f mp u).flow = u.flow) (port : PortRef) :
    (s.onMgmt port f).flow = s.flow := by
  cases port with
  | mgmt mp => exact hf mp s
  | port p => exact State.flow_cases (fun _ => s.classDrop_flow p) (fun _ => rfl)

@[simp] theorem mctpMessageSt_flow (port : PortRef) (setUp : Bool) : (mctpMessageSt port setUp s).flow = s.flow :=
  s.onMgmt_flow (fun mp u => State.flow_cases (fun _ => rfl) (fun _ => State.flow_cases (fun _ => by simp) (fun _ => u.emit_flow _))) port

@[simp] theorem State.pldmControl_flow (mp : MgmtPort) (offset : Nat) (value : Reg) : (s.pldmControl mp offset value).flow = s.flow := by
  simp [State.pldmControl]

@[simp] theorem pldmRequestSt_flow (port : PortRef) (req : PldmReq) : (pldmRequestSt port req s).flow = s.flow := by
  refine s.onMgmt_flow (fun mp u => State.flow_cases (fun _ => rfl) (fun _ => ?_)) port
  split
  · split <;> simp
  · split <;> simp
  · split <;> simp
  · simp

end

end Sys2Proof.Machine
end

section
/-!
SUPPORT. Rack Time runs on: each operation of the clock leaves a valid counter valid and at or above its value, every other operation leaves
the clock alone (`State.flow`), and a reset clears TIME_VALID. O5 is put together from these, one case per command.
-/

namespace Sys2Proof.Machine

section

/-! ### Running on -/

/-- Rack Time runs on from `s` to `t`: where it is valid it stays so, and its counter does not move backward. -/
def Onward (s t : State) : Prop := s.time.valid = true → t.time.valid = true ∧ s.time.now ≤ t.time.now

theorem State.time_of_flow {s t : State} (h : t.flow = s.flow) : t.time = s.time := congrArg Prod.snd h

theorem Onward.of_flow {s t : State} (h : t.flow = s.flow) : Onward s t := fun hv => by
  rw [State.time_of_flow h]
  exact ⟨hv, le_refl _⟩

theorem Onward.of_now {s t : State} (hv : t.time.valid = s.time.valid) (hn : s.time.now ≤ t.time.now) : Onward s t :=
  fun h => ⟨hv.trans h, hn⟩

theorem Onward.trans {s t u : State} (h : Onward s t) (k : Onward t u) : Onward s u := fun hv =>
  ⟨(k (h hv).1).1, (h hv).2.trans (k (h hv).1).2⟩

theorem Onward.flow_trans {s t u : State} (h : Onward s t) (k : u.flow = t.flow) : Onward s u := h.trans (.of_flow k)

theorem Onward.ite {s t u : State} {c : Prop} [Decidable c] (ht : c → Onward s t) (hu : ¬ c → Onward s u) :
    Onward s (if c then t else u) := by
  split
  · exact ht ‹_›
  · exact hu ‹_›

variable (s : State)

theorem State.onward_foldl {α : Type} {f : State → α → State} (h : ∀ u x, Onward u (f u x)) (l : List α) : Onward s (l.foldl f s) := by
  induction l generalizing s with
  | nil => exact .of_flow rfl
  | cons x l ih => exact (h s x).trans (ih _)

theorem State.setup_onward {f : State → State} (hf : Onward s (f s)) (mp : MgmtPort) : Onward s (s.setup mp f) :=
  .ite (fun _ => .of_flow rfl) (fun _ => .ite (fun _ => hf) (fun _ => .of_flow (s.semError_flow mp)))

theorem State.message_onward {f : State → State} (hf : Onward s (f s)) (port type : Nat) (m : Msg) : Onward s (s.message port type m f) := by
  have hbad : Onward s s.badMsg := .of_flow s.badMsg_flow
  unfold State.message State.arrive
  exact .ite (fun _ => .of_flow rfl) (fun _ => .ite (fun _ => .of_flow (s.classDrop_flow port))
    (fun _ => .ite (fun _ => hbad) (fun _ => .ite (fun _ => hbad) (fun _ => .ite (fun _ => hbad) (fun _ => hf)))))

/-! ### Ticks, slot boundaries and frame boundaries -/

/-- The counter of the S die follows that of the N die, which it leaves alone. -/
theorem State.sDie_onward : Onward s s.sDie := .of_now rfl (le_refl _)

theorem Time.tick_valid (x : Time) : x.tick.valid = x.valid := by
  unfold Time.tick
  split <;> rfl

/-- A tick adds a nanosecond, or at its correction a natural number of them. -/
theorem Time.now_le_tick (x : Time) : x.now ≤ x.tick.now := by
  unfold Time.tick
  split
  · exact Nat.le_succ _
  · exact Nat.le_add_right _ _

theorem tick_onward : Onward s (tick s) := by
  have htime : Onward s { s with
      time := s.time.tick, sem := { s.sem with lease := s.sem.lease - 1 }, power := s.power.lowFor 1 } :=
    .of_now (Time.tick_valid _) (Time.now_le_tick _)
  exact (htime.trans (State.sDie_onward _)).flow_trans ((State.retryHeld_flow _).trans (State.resume_flow _))

theorem State.passTo_onward (goal : Nat) : Onward s (s.passTo goal) := by
  unfold State.passTo
  dsimp only
  refine .trans ?_ (State.sDie_onward _)
  exact .of_now rfl (le_max_left _ _)

theorem State.setNow_onward {n : Nat} (h : s.time.now ≤ n) : Onward s (s.setNow n) := .of_now rfl h

theorem State.startSlot_onward : Onward s s.startSlot := by
  have hunits : Onward s ((List.range 116).foldl (fun (s : State) m => s.startPeriod m (s.queuedOn m)) s) :=
    .of_flow (State.flow_foldl (fun u m => u.startPeriod_flow _ _) _ _)
  unfold State.startSlot
  refine .flow_trans ?_ ((State.retryHeld_flow _).trans (State.resume_flow _))
  exact .trans hunits (.of_now rfl (le_refl _))

theorem slotBoundarySt_onward : Onward s (slotBoundarySt s) :=
  .trans (.ite (fun _ => .of_flow rfl) (fun _ => s.passTo_onward _)) (State.startSlot_onward _)

theorem State.boundaryUnits_onward : Onward s s.boundaryUnits := by
  refine Onward.trans (.of_flow ?_) (State.startSlot_onward _)
  refine (State.parityDue_flow _).trans ((State.bgBoundary_flow _).trans ?_)
  refine (State.flow_foldl (fun u b => ?_) _ _).trans (by simp)
  exact State.flow_cases (fun _ => rfl) (fun _ => State.flow_foldl (fun v d => v.startPeriod_flow _ _) _ _)

theorem State.beaconRuns_onward (p : Option Nat) : Onward s (s.beaconRuns p) := by
  unfold State.beaconRuns
  exact .ite (fun _ => .of_flow rfl) (fun _ => .of_now rfl (le_refl _))

theorem State.openWindow_onward : Onward s s.openWindow := .ite (fun _ => .of_now rfl (le_refl _)) (fun _ => .of_flow rfl)

theorem State.boundary_onward : Onward s s.boundary := by
  have hswaps : Onward s (viewInstallSt s.boundaryMaps).boundarySwaps := .of_flow (by simp)
  generalize hu : (viewInstallSt s.boundaryMaps).boundarySwaps = u at hswaps
  have hheld : Onward s u.boundaryUnits.applyRekeys.postBatches.retryHeld :=
    (hswaps.trans u.boundaryUnits_onward).flow_trans (by simp)
  unfold State.boundary
  dsimp only
  rw [hu]
  exact ((hheld.trans (State.beaconRuns_onward _ _)).trans (State.openWindow_onward _)).trans (.of_now rfl (le_refl _))

theorem State.sendBeacons_flow : s.sendBeacons.flow = s.flow :=
  State.flow_foldl (fun u p => State.flow_cases (fun _ => by simp) (fun _ => rfl)) _ s

theorem frameBoundarySt_onward : Onward s (frameBoundarySt s) := by
  have hpass : Onward s (if s.time.lastFrame < s.frame then s else s.passTo ((s.frame + 1) * 2 ^ 14)) :=
    .ite (fun _ => .of_flow rfl) (fun _ => s.passTo_onward _)
  refine (hpass.trans (State.boundary_onward _)).flow_trans ?_
  refine (State.flow_foldl (fun u e => u.driveMigration_flow e) _ _).trans ?_
  simp [State.sendBeacons_flow]

/-! ### The counter set by TIME_CTL and by a beacon -/

/-- A counter that is set forward passes over the boundaries in between in ascending order. -/
theorem State.stepTo_onward (goal : Nat) : Onward s (s.stepTo goal) := by
  have hframes := s.onward_foldl (fun (u : State) (i : Nat) =>
    (u.setNow_onward (le_max_left _ ((s.time.lastFrame + 1 + i) * 2 ^ 14))).trans (State.boundary_onward _))
    (List.range (goal / 2 ^ 14 + 1 - (s.time.lastFrame + 1)))
  have hgoal := hframes.trans (State.setNow_onward _ (le_max_left _ goal))
  exact (hgoal.trans (.of_now rfl (le_refl _))).trans (State.sDie_onward _)

/-- TIME_SET below the counter is not loaded. -/
theorem timeCtlWriteSt_onward (mp : MgmtPort) (value : Reg) : Onward s (timeCtlWriteSt mp value s) := by
  refine s.setup_onward (fun hv => ?_) mp
  dsimp only
  split
  · rw [if_neg (by simp [hv])]
    split
    · exact ((State.stepTo_onward _ _).trans (.of_now rfl (le_refl _))) hv
    · exact ⟨hv, le_refl _⟩
  · split
    · exact ⟨hv, le_refl _⟩
    · exact ⟨hv, le_refl _⟩

/-- Ahead of its source by more than the limit, the device slews. -/
theorem State.timeAhead_onward (off : Int) : Onward s (s.timeAhead off) := by
  have hslew : Onward s { s with time := { s.time with slewLeft := off, ahead := true, locked := false } } := .of_now rfl (le_refl _)
  exact .ite (fun _ => hslew) (fun _ => hslew.flow_trans ((State.timeRecord_flow _ _).trans (State.setFlag_flow _ _ _)))

theorem State.correct_onward (off2 off : Int) : Onward s (s.correct off2 off) := by
  intro hv
  unfold State.correct
  rw [if_neg (by simp [hv])]
  split
  · exact s.stepTo_onward _ hv
  · split
    · exact s.timeAhead_onward _ hv
    · exact ⟨hv, le_refl _⟩

theorem State.discipline_onward (off2 : Int) (stratum : Nat) : Onward s (s.discipline off2 stratum) := by
  unfold State.discipline
  dsimp only
  have hdrawn : Onward s (if off2 % 2 = 0 then s else s.drawn) := .ite (fun _ => .of_flow rfl) (fun _ => .of_flow s.drawn_flow)
  generalize (if off2 % 2 = 0 then s else s.drawn) = u at hdrawn
  refine .trans ?_ (.of_now (Time.count_valid _ _) (Time.count_now _ _).ge)
  refine .trans (.trans hdrawn ?_) (State.correct_onward _ _ _)
  exact .of_now rfl (le_refl _)

theorem State.learnView_echoed_onward (port : Nat) (p : Bytes) (view frame : Nat) (ms : List Nat) :
    Onward s ((s.echoed port p).learnView view frame ms) := by
  refine .flow_trans ?_ (State.learnView_flow _ _ _ _)
  exact .of_now rfl (le_refl _)

theorem beaconSt_onward (port : Nat) (m : Msg) : Onward s (beaconSt port m s) := by
  refine s.message_onward ?_ port 0x10 m
  have hheard := s.learnView_echoed_onward port m.payload (fld m.payload 0x20 4) (fld m.payload 0x24 4) (memberList (m.payload.drop 64))
  refine .ite (fun _ => hheard) (fun _ => .ite (fun _ => hheard.trans (State.discipline_onward _ _ _)) (fun _ => hheard.trans ?_))
  exact .of_now rfl (le_refl _)

/-! ### RT_PPS and holdover -/

theorem State.ppsEdge_onward (k : Nat) (d : Int) : Onward s (s.ppsEdge k d) := by
  refine .ite (fun _ => ?_) (fun _ => .ite (fun _ => .of_flow (s.bump_flow _ _)) (fun _ => ?_))
  · refine .flow_trans ?_ (State.bump_flow _ _ _)
    exact .of_now rfl (le_refl _)
  · dsimp only
    split
    · exact .of_now rfl (le_refl _)
    · exact .of_now rfl (le_refl _)

theorem rtPpsEdgeSt_onward : Onward s (rtPpsEdgeSt s) := .ite (fun _ => .of_flow rfl) (fun _ => s.ppsEdge_onward _ _)

theorem ppsMissingSt_onward : Onward s (ppsMissingSt s) := by
  unfold ppsMissingSt
  exact .ite (fun _ => .of_flow rfl) (fun _ => .of_now rfl (le_refl _))

theorem holdoverEntrySt_onward : Onward s (holdoverEntrySt s) := by
  refine .ite (fun _ => ?_) (fun _ => .of_flow rfl)
  refine .flow_trans ?_ ((State.timeRecord_flow _ _).trans (State.setFlag_flow _ _ _))
  exact .of_now rfl (le_refl _)

/-! ### Resets -/

/-- What the statement says of a step: it clears TIME_VALID, or Rack Time runs on. -/
def Forward (s t : State) : Prop := t.time.valid = false ∨ Onward s t

theorem Forward.of_next {s t u : State} (h : (Host.Outcome.next u : Out) = .next t) (hu : Forward s u) : Forward s t := by
  cases h
  exact hu

theorem Forward.of_flow {s t u : State} (h : (Host.Outcome.next u : Out) = .next t) (hu : u.flow = s.flow) : Forward s t :=
  .of_next h (.inr (.of_flow hu))

theorem State.blockReset_invalid : s.blockReset.time.valid = false := rfl

theorem perstNAssertSt_forward : Forward s (perstNAssertSt s) := by
  have hsame : Forward s s := .inr (.of_flow rfl)
  unfold perstNAssertSt
  split
  · exact hsame
  · split
    · exact .inr (.of_flow rfl)
    · split
      · exact hsame
      · exact .inl s.blockReset_invalid

theorem warmResetSt_forward : Forward s (warmResetSt s) := by
  unfold warmResetSt
  split
  · refine .inl ?_
    rw [State.time_of_flow (State.beginTest_flow _)]
    exact s.blockReset_invalid
  · exact .inr (.of_flow rfl)

theorem mainRailFaultSt_forward : Forward s (mainRailFaultSt s) := by
  unfold mainRailFaultSt
  dsimp only
  split
  · exact .inr (.of_flow rfl)
  · exact .inl s.blockReset_invalid

theorem auxPowerLossSt_forward : Forward s (auxPowerLossSt s) := .inl s.blockReset_invalid

/-! ### Every command -/

/-- The commands of the clock and the resets by name; every other command leaves the clock alone. -/
theorem exec_forward {t : State} (c : Instr) (h : exec c s = .next t) : Forward s t := by
  cases c
  case slotBoundary => exact .of_next h (.inr (slotBoundarySt_onward s))
  case frameBoundary => exact .of_next h (.inr (frameBoundarySt_onward s))
  case timeCtlWrite mp v => exact .of_next h (.inr (timeCtlWriteSt_onward s mp v))
  case beacon p m => exact .of_next h (.inr (beaconSt_onward s p m))
  case rtPpsEdge => exact .of_next h (.inr (rtPpsEdgeSt_onward s))
  case ppsMissing => exact .of_next h (.inr (ppsMissingSt_onward s))
  case holdoverEntry => exact .of_next h (.inr (holdoverEntrySt_onward s))
  case perstNAssert => exact .of_next h (perstNAssertSt_forward s)
  case warmReset => exact .of_next h (warmResetSt_forward s)
  case mainRailFault => exact .of_next h (mainRailFaultSt_forward s)
  case auxPowerLoss => exact .of_next h (auxPowerLossSt_forward s)
  all_goals exact .of_flow h (by simp)

theorem step_forward {t : State} (h : step s = .next t) : Forward s t := by
  unfold step at h
  split at h
  · have hexec := exec_forward _ _ h
    exact hexec
  · exact .of_next h (.inr (tick_onward s))

end

/-- Settles O5: a step runs Rack Time on or clears TIME_VALID, and the premise excludes the second. -/
theorem rackTimeNeverMovesBackward : Obligations.RackTimeNeverMovesBackward := by
  intro s t hv h ht
  rcases step_forward s h with hinvalid | honward
  · exact absurd (ht.symm.trans hinvalid) (by decide)
  · exact (honward hv).2

end Sys2Proof.Machine
end

section
/-!
SUPPORT. Works, rings and contexts: what a lookup finds after an update, what an admitted descriptor's step comes to, and the statements of
O12 and O13 put together from them.
-/

namespace Sys2Proof.Machine

/-! ### Lookups after an update -/

section
variable (s : State)

theorem State.ctx_setCtx (c i : Nat) (x : Ctx) : (s.setCtx c x).ctx i = if i = c then x else s.ctx i := by
  unfold State.ctx State.setCtx
  split_ifs with h
  · rw [h]; exact tgetD_tset_same _ _ _ _
  · exact tgetD_tset_ne _ h _ _

theorem State.ctx_congr {s t : State} (h : s.ctxs = t.ctxs) (i : Nat) : t.ctx i = s.ctx i := by
  unfold State.ctx
  rw [h]

theorem State.ring_setRing (r i : Nat) (x : Ring) : (s.setRing r x).ring i = if i = r then x else s.ring i := by
  unfold State.ring State.setRing
  split_ifs with h
  · rw [h]; exact tgetD_tset_same _ _ _ _
  · exact tgetD_tset_ne _ h _ _

theorem State.ring_congr {s t : State} (h : s.rings = t.rings) (i : Nat) : t.ring i = s.ring i := by
  unfold State.ring
  rw [h]

theorem State.work_congr {s t : State} (h : s.works = t.works) (w : Nat) : t.work w = s.work w := by
  unfold State.work
  rw [h]

theorem State.work_id {w : Nat} {x : Work} (h : s.work w = some x) : x.id = w := by simpa using List.find?_some h

/-- A work's result replaces none of the works, and is found under the work's number. -/
theorem State.work_finish (w v : Nat) (r : Result) :
    (s.finish w r).work v = (s.work v).map (fun y => if y.id == w then { y with result := some r } else y) := by
  have hid : (fun x : Work => x.id == v) ∘ (fun y : Work => if y.id == w then { y with result := some r } else y) = fun x => x.id == v := by
    funext y
    simp only [Function.comp_apply]
    split <;> rfl
  exact List.find?_map.trans (by rw [hid]; rfl)

variable {s}

/-- A work that is finished has the result. -/
theorem State.hasResult_finish {w : Nat} {x : Work} (h : s.work w = some x) (r : Result) : hasResult (s.finish w r) w r := by
  refine ⟨{ x with result := some r }, ?_, rfl⟩
  rw [State.work_finish, h, Option.map_some, if_pos (beq_iff_eq.mpr (State.work_id s h))]

theorem hasResult_congr {s t : State} {w : Nat} {r : Result} (h : hasResult s w r) (hw : s.works = t.works) : hasResult t w r := by
  obtain ⟨y, hy, hr⟩ := h
  exact ⟨y, (State.work_congr hw w).trans hy, hr⟩

/-! ### The step of a work -/

/-- A work that may start takes the step of its opcode. -/
theorem State.withWork_startable {w op : Nat} {x : Work} (h : startable s w x op) (f : Work → State → State) :
    s.withWork w (· == op) f = f x s := by
  obtain ⟨hw, hop, hr, hm, hv, hst⟩ := h
  simp [State.withWork, hw, hop, hr, hm, hv, hst]

/-- A work that an earlier one holds back waits. -/
theorem State.withWork_heldBack {w : Nat} {x : Work} (h : s.work w = some x) (hm : s.mayStart x = false) (op : Nat → Bool)
    (f : Work → State → State) : s.withWork w op f = s := by
  simp [State.withWork, h, hm]

/-- The step of a work that ends it with a result. -/
theorem Does.finishes {c : Instr} {t : State} {w op : Nat} {x : Work} {r : Result} (hx : startable s w x op) (he : exec c s = .next t)
    (e : t = s.finish w r) : Does c s [.works, .waits] (fun t => hasResult t w r) :=
  Does.of_eq he e (s.finish_only w r) (State.hasResult_finish hx.1 r)

/-! ### NOP and FENCE (R131–R134) -/

section
variable {w : Nat} {x : Work}

theorem nop_does (hx : startable s w x 0x01) : Does (.nop w) s [.works, .waits] (fun t => hasResult t w (Result.done 0)) :=
  Does.finishes hx rfl (State.withWork_startable hx _)

theorem fence_does (hx : startable s w x 0x02) (hres : descRes x.desc = 0) :
    Does (.fence w) s [.works, .waits] (fun t => hasResult t w (Result.done 0)) :=
  Does.finishes hx rfl ((State.withWork_startable hx _).trans (if_pos hres))

theorem fence_heldBack (hw : s.work w = some x) (hm : s.mayStart x = false) : Does (.fence w) s [] (fun _ => True) :=
  Does.nothing rfl (State.withWork_heldBack hw hm _ _)

/-- A host access of a work whose pages are all translated is let through, and nothing has been used yet. -/
theorem State.gate_host {a n : Nat} {wr : Bool} (hst : x.stalled = false) (ha : addrClass a = 0)
    (hp : ∀ p ∈ pagesOf a n, s.pageGranted x p wr = true) : s.gate x [(a, n, wr)] = .go s := by
  unfold State.gate State.gateBy
  have hmissing : ((pagesOf a n).map (fun p => (p, max a (p * 4096), wr))).filter (fun p => !s.pageGranted x p.1 p.2.2) = [] := by
    rw [List.filter_eq_nil_iff]
    intro q hq
    obtain ⟨p, hpm, rfl⟩ := List.mem_map.mp hq
    simp [hp p hpm]
  simp [hst, ha, hmissing, State.gatePieces]

theorem slice_ne_nil (b : Bytes) (off : Nat) {n : Nat} (h : 0 < n) : slice b off n ≠ [] := by
  intro hnil
  have hlen := congrArg List.length hnil
  simp [slice] at hlen
  omega

/-- Bytes that a work writes into host memory go out as one message. -/
theorem State.writeAt_host {a : Nat} {b : Bytes} (ha : addrClass a = 0) (hb : b ≠ []) :
    s.writeAt x a b = s.emit (.dma x.port x.pasid a b) := by
  unfold State.writeAt State.writeBy
  rw [if_neg hb, if_pos ha]

/-- Marks on lines used up by a work that has none: nothing waits behind them. -/
theorem State.useRecalled_clear (s : State) {w : Nat} (h : s.recalled.any (fun r => r.1 == w) = false) :
    s.useRecalled w = { s with waiting := s.waiting.filter (fun q => q.own != some w) } := by
  have hkept : s.recalled.filter (fun r => r.1 != w) = s.recalled := by
    rw [List.filter_eq_self]
    intro r hr
    have := List.any_eq_false.mp h r hr
    simpa using this
  unfold State.useRecalled
  simp only [h, hkept, Bool.false_eq_true, if_false]

theorem State.useRecalled_only (s : State) (x : Work) : Only (accessParts x s) s (s.useRecalled x.id) := by
  by_cases h : s.recalled.any (fun r => r.1 == x.id)
  · rw [accessParts, if_pos h]
    exact (s.useRecalled_keeps x.id).only.append_left _
  · rw [Bool.not_eq_true] at h
    rw [s.useRecalled_clear h]
    exact ((s.waiting_only _).mono (qs := [.atc, .slots, .waits, .counters, .waiting, .xltWaits, .fabric]) rfl).append_right _

/-- What is used up behind the accesses of a work itself. -/
theorem State.used_only (s : State) (x : Work) : Only (accessParts x s) s (s.used x.id) := by
  have rest (u v : State) (hv : Only [.waits] u v) (q : List XltWait) (f : Fabric) :
      Only [.atc, .slots, .waits, .counters, .waiting, .xltWaits, .fabric] u { v with xltWaits := q, fabric := f } :=
    (hv.mono rfl).trans (((v.xltWaits_only q).mono rfl).trans ((State.fabric_only _ f).mono rfl))
  exact (s.useRecalled_only x).trans ((rest _ _ (State.leaveUnits_only _ _ _) _ _).append_right _)

theorem accessParts_congr {s t : State} (h : s.recalled = t.recalled) (x : Work) : accessParts x t = accessParts x s := by
  unfold accessParts
  rw [h]

theorem State.used_out (s : State) {x : Work} (h : clear x s) : (s.used x.id).out = s.out := by
  unfold State.used State.usedBy
  rw [s.useRecalled_clear h]
  rfl

theorem State.used_works (s : State) (w : Nat) : (s.used w).works = s.works := ((s.useRecalled_keeps w).only .works (by decide)).symm

/-- A FENCE with a result address in host memory writes FENCE_VALUE there first (R134). -/
theorem fence_writes (hx : startable s w x 0x02) (hres : descRes x.desc ≠ 0) (hcls : addrClass (descRes x.desc) = 0)
    (hpages : ∀ p ∈ pagesOf (descRes x.desc) 8, s.pageGranted x p true = true) (hs : sends s x.port) :
    Does (.fence w) s (plus [.out, .works] (accessParts x s)) (fun t => hasResult t w (Result.done 0) ∧
      (clear x s → t.out = s.out ++ [Output.dma x.port x.pasid (descRes x.desc) (slice x.desc 40 8)])) := by
  obtain ⟨hw, -, -, -, -, hst⟩ := id hx
  have hsent := s.emit_port (o := .dma x.port x.pasid (descRes x.desc) (slice x.desc 40 8)) rfl hs
  generalize hu : s.emit (.dma x.port x.pasid (descRes x.desc) (slice x.desc 40 8)) = u at hsent
  have ho : Only [.out] s u := hu ▸ s.emit_only _
  have e : fenceSt w s = (u.finish w (Result.done 0)).used x.id := by
    refine (State.withWork_startable hx _).trans ((if_neg hres).trans ?_)
    unfold State.withAccess
    rw [State.gate_host hst hcls hpages]
    exact congrArg (fun y : State => (y.finish w (Result.done 0)).used x.id)
      ((State.writeAt_host hcls (slice_ne_nil _ _ (by decide))).trans hu)
  have hf := u.finish_only w (Result.done 0)
  have hr : s.recalled = (u.finish w (Result.done 0)).recalled := (ho .recalled (by decide)).trans (hf .recalled (by decide))
  have hused := State.used_only (u.finish w (Result.done 0)) x
  rw [accessParts_congr hr] at hused
  have hacts : Only ([.out, .works] ++ [.atc, .slots, .waits, .counters, .waiting, .xltWaits, .fabric]) s (u.finish w (Result.done 0)) :=
    (ho.mono rfl).trans (hf.mono rfl)
  have hacts' : Only ([.out, .works] ++ accessParts x s) s (u.finish w (Result.done 0)) := hacts.append_right _
  refine Does.of_eq rfl e (hacts'.trans (hused.append_left _)) ⟨?_, fun hclear => ?_⟩
  · have hwu : u.work w = some x := (State.work_congr (ho .works (by decide)) w).trans hw
    exact hasResult_congr (State.hasResult_finish hwu _) (State.used_works _ _).symm
  · have hclear' : clear x (u.finish w (Result.done 0)) := by
      unfold clear
      rw [← hr]
      exact hclear
    rw [State.used_out _ hclear']
    exact congrArg State.out hsent

end

/-! ### Pins (R136–R138) -/

section
variable {w : Nat} {x : Work}

/-- A context that takes a pin. -/
def Ctx.pinAt (c : Ctx) (seq burrow frame : Nat) : Ctx :=
  { c with pinned := true, pinSeq := seq, pinBurrow := burrow, pinFrame := frame, pinLife := c.pinFramesMax }

/-- A context whose pin is released. -/
def Ctx.unpin (c : Ctx) : Ctx := { c with pinned := false, pinSeq := 0, pinBurrow := 0, pinFrame := 0, pinLife := 0 }

theorem State.setCtx_other (s : State) (c : Nat) (y : Ctx) : (s.setCtx c y).ctx c = y ∧ ∀ d, d ≠ c → (s.setCtx c y).ctx d = s.ctx d :=
  ⟨by rw [State.ctx_setCtx, if_pos rfl], fun d hd => by rw [State.ctx_setCtx, if_neg hd]⟩

/-- A work that replaces its context ends with the result. -/
theorem Does.finishes_ctx {c : Instr} {t : State} {op : Nat} {y : Ctx} {r : Result} {P : State → Prop} (hx : startable s w x op)
    (he : exec c s = .next t) (e : t = (s.setCtx x.ctx y).finish w r)
    (hP : ∀ t, t.ctx x.ctx = y → (∀ d, d ≠ x.ctx → t.ctx d = s.ctx d) → hasResult t w r → P t) :
    Does c s [.ctxs, .works, .waits] P := by
  have hf := (s.setCtx x.ctx y).finish_only w r
  have hc (d : Nat) : ((s.setCtx x.ctx y).finish w r).ctx d = (s.setCtx x.ctx y).ctx d := State.ctx_congr (hf .ctxs (by decide)) d
  obtain ⟨hsame, hother⟩ := s.setCtx_other x.ctx y
  have hw : (s.setCtx x.ctx y).work w = some x := (State.work_congr rfl w).trans hx.1
  exact Does.of_eq he e (((s.setCtx_only _ _).mono rfl).trans (hf.mono rfl))
    (hP _ ((hc _).trans hsame) (fun d hd => (hc d).trans (hother d hd)) (State.hasResult_finish hw r))

theorem snapshotPin_pinned (hx : startable s w x 0x03) (hp : (s.ctx x.ctx).pinned = true) :
    Does (.snapshotPin w) s [.works, .waits] (fun t => hasResult t w (Result.err 0x10 4)) :=
  Does.finishes hx rfl ((State.withWork_startable hx _).trans (if_pos hp))

theorem snapshotPin_refused (hx : startable s w x 0x03) (hp : (s.ctx x.ctx).pinned = false) (h1 : (s.burrow x.burrow).state ≠ 1)
    (h2 : (s.burrow x.burrow).state ≠ 2) : Does (.snapshotPin w) s [.works, .waits] (fun t => hasResult t w (Result.err 0x10 32)) :=
  Does.finishes hx rfl ((State.withWork_startable hx _).trans ((if_neg (by simp [hp])).trans (if_pos ⟨h1, h2⟩)))

theorem snapshotRelease_unpinned (hx : startable s w x 0x04) (hp : (s.ctx x.ctx).pinned = false) :
    Does (.snapshotRelease w) s [.works, .waits] (fun t => hasResult t w (Result.err 0x10 4)) :=
  Does.finishes hx rfl ((State.withWork_startable hx _).trans (if_pos hp))

theorem snapshotRelease_pinned (hx : startable s w x 0x04) (hp : (s.ctx x.ctx).pinned = true) :
    Does (.snapshotRelease w) s [.ctxs, .works, .waits] (fun t => (t.ctx x.ctx).pinned = false ∧ (t.ctx x.ctx).state = (s.ctx x.ctx).state ∧
      (∀ d, d ≠ x.ctx → t.ctx d = s.ctx d) ∧ hasResult t w (Result.done 0)) := by
  have e : snapshotReleaseSt w s = (s.setCtx x.ctx (s.ctx x.ctx).unpin).finish w (Result.done 0) :=
    (State.withWork_startable hx _).trans (if_neg (by simp [hp]))
  refine Does.finishes_ctx hx rfl e (fun t hctx hother hres => ?_)
  rw [hctx]
  exact ⟨rfl, rfl, hother, hres⟩

theorem pinExpire_due {c : Nat} (hp : (s.ctx c).pinned = true) (hdue : (s.ctx c).pinFrame + (s.ctx c).pinLife ≤ s.frame) :
    Does (.pinExpire c) s [.ctxs] (fun t => (t.ctx c).pinned = false ∧ (t.ctx c).state = (s.ctx c).state ∧ (∀ d, d ≠ c → t.ctx d = s.ctx d)) := by
  have e : pinExpireSt c s = s.setCtx c (s.ctx c).unpin := if_pos ⟨hp, hdue⟩
  obtain ⟨hsame, hother⟩ := s.setCtx_other c (s.ctx c).unpin
  refine Does.of_eq rfl e (s.setCtx_only _ _) ?_
  rw [hsame]
  exact ⟨rfl, rfl, hother⟩

theorem pinExpire_early {c : Nat} (h : s.frame < (s.ctx c).pinFrame + (s.ctx c).pinLife) : Does (.pinExpire c) s [] (fun _ => True) :=
  Does.nothing rfl (if_neg (fun hdue => absurd hdue.2 (by omega)))

end
end

/-- Settles O12: a step that starts ends by its opcode's own branch, and a pin ends by release or by its bound. -/
theorem nopFenceAndPins : Obligations.NopFenceAndPins :=
  ⟨fun _ _ _ => ⟨nop_does, fence_does, fence_writes, fun hw _ hm => fence_heldBack hw hm⟩,
   fun _ _ _ _ => ⟨snapshotPin_pinned, snapshotPin_refused, snapshotRelease_unpinned, snapshotRelease_pinned, pinExpire_due, pinExpire_early⟩⟩

/-- Settles O13: the pin is taken at the burrow's sequence and the present frame. -/
theorem snapshotPinTakesThePin : Obligations.SnapshotPinTakesThePin := by
  intro w x s hx hp hb
  have hlive : ¬ ((s.burrow x.burrow).state ≠ 1 ∧ (s.burrow x.burrow).state ≠ 2) := by tauto
  have e : snapshotPinSt w s = (s.setCtx x.ctx ((s.ctx x.ctx).pinAt (s.burrow x.burrow).snapSeq x.burrow s.frame)).finish w
      { status := 0, flags := 0, count := 0, snap := (s.burrow x.burrow).snapSeq, detail := 0, b24 := s.frame } :=
    (State.withWork_startable hx _).trans ((if_neg (by simp [hp])).trans (if_neg hlive))
  exact Does.finishes_ctx hx rfl e (fun t hctx hother hres => ⟨hctx, hother, hres⟩)

end Sys2Proof.Machine
end

section
/-!
SUPPORT. Admission and completion entries: what the descriptor at the head of a ring leaves when it fails, waits or is admitted, and the
statements of O15 and O16 put together from them.
-/

namespace Sys2Proof.Machine

/-! ### Completion entries (R109, R110, R113) -/

section
variable {s t : State}

/-- A port that sends goes on sending while power, registers and ports stay as they are. -/
theorem Only.sends {ps : List Part} (h : Only ps s t) (hp : [Part.power, .regs, .ports].all (fun p => !ps.contains p) = true) {p : Nat}
    (hs : sends s p) : sends t p := by
  have same (q : Part) (hq : q ∈ [Part.power, .regs, .ports]) : s.agree t q :=
    h q (fun hm => by simpa [hm] using List.all_eq_true.mp hp q hq)
  have hpower : s.power = t.power := same .power (by decide)
  have hregs : s.regs = t.regs := same .regs (by decide)
  obtain ⟨hready, hheld, hclass, hup⟩ := hs
  exact ⟨hpower ▸ hready, (State.flag_congr (State.stored_congr hregs _) _).trans hheld,
    by rwa [State.portClass_congr (State.stored_congr hregs _)], by rwa [State.port_congr (same .ports (by decide))]⟩

/-- A ring whose completion queue has taken an entry. -/
def Ring.posted (r : Ring) : Ring :=
  { r with cqTail := (r.cqTail + 1) % 2 ^ r.cqLog2, phase := if (r.cqTail + 1) % 2 ^ r.cqLog2 = 0 then !r.phase else r.phase }

/-- What a completion sends: the entry, and the ring's message after it if IRQ is set. -/
def completionOut (q : Ring) (d : Bytes) (r : Result) (now : Nat) : List Output :=
  .dma q.port q.pasid (q.cqBase + 32 * q.cqTail) (completion d r q.phase now) :: (if bit (fld d 1 1) 0 then [.msix q.port q.msix] else [])

theorem State.emit_ring (s : State) (o : Output) (i : Nat) : (s.emit o).ring i = s.ring i := State.ring_congr (s.emit_only o .rings (by decide)) i

theorem State.postEntry_ring (s : State) (ring : Nat) (b : Bool → Bytes) : (s.postEntry ring b).ring ring = (s.ring ring).posted :=
  (State.emit_ring _ _ _).trans ((s.ring_setRing _ _ _).trans (if_pos rfl))

theorem State.postCompletion_ring (s : State) (ring : Nat) (d : Bytes) (r : Result) :
    (s.postCompletion ring d r).ring ring = (s.ring ring).posted := by
  unfold State.postCompletion
  dsimp only
  split
  · exact (State.emit_ring _ _ _).trans (s.postEntry_ring _ _)
  · exact s.postEntry_ring _ _

theorem State.postCompletion_out {ring : Nat} (hs : sends s (s.ring ring).port) (d : Bytes) (r : Result) :
    (s.postCompletion ring d r).out = s.out ++ completionOut (s.ring ring) d r s.time.now := by
  have hentry : (s.postEntry ring (fun ph => completion d r ph s.time.now)).out = s.out ++ [.dma (s.ring ring).port (s.ring ring).pasid
      ((s.ring ring).cqBase + 32 * (s.ring ring).cqTail) (completion d r (s.ring ring).phase s.time.now)] :=
    congrArg State.out (State.emit_port _ rfl ((s.setRing_only _ _).sends rfl hs))
  unfold State.postCompletion completionOut
  dsimp only
  split
  · rw [State.emit_port _ (p := (s.ring ring).port) rfl ((s.postEntry_only _ _).sends rfl hs)]
    exact (congrArg (· ++ _) hentry).trans (by simp)
  · exact hentry

end

/-! ### Waiting and failing at the head (R102, R111, R117) -/

section
variable {s : State} {ring : Nat} {d : Bytes} {rest : List Bytes}

/-- A ring whose head descriptor has been passed. -/
def Ring.passed (r : Ring) : Ring :=
  { r with sqHead := (r.sqHead + 1) % 2 ^ r.sqLog2, fetched := r.fetched.drop 1, shadowDue := true }

theorem State.passHead_ring (s : State) (ring : Nat) : (s.passHead ring).ring ring = (s.ring ring).passed :=
  (s.ring_setRing _ _ _).trans (if_pos rfl)

theorem admission_invalid (hv : s.time.valid = false) : Does (.admission ring) s [] (fun _ => True) := by
  refine Does.nothing rfl ?_
  unfold admissionSt
  dsimp only
  split
  · rfl
  · exact if_pos (.inr (.inr hv))

section
variable (hf : (s.ring ring).fetched = d :: rest) (he : (s.ring ring).state = .enabled) (hr : s.power.devReady = true)
  (hv : s.time.valid = true)
include hf he hr hv

/-- With TIME_VALID on an ENABLED ring the checks decide about the head descriptor. -/
theorem admissionSt_eq : admissionSt ring s =
    match s.admitFails (s.ring ring) d with
    | some f => if (s.ring ring).cqFree = 0 then s else (s.passHead ring).postCompletion ring d f
    | none => if s.paced d && s.affordable (s.ring ring) d && s.creditTurn ring (s.ring ring) d then s.admitHead ring d else s := by
  unfold admissionSt
  dsimp only
  rw [hf]
  exact if_neg (by simp [he, hr, hv])

theorem admission_full {f : Result} (hfail : s.admitFails (s.ring ring) d = some f) (hfree : (s.ring ring).cqFree = 0) :
    Does (.admission ring) s [] (fun _ => True) := by
  refine Does.nothing rfl ((admissionSt_eq hf he hr hv).trans ?_)
  rw [hfail]
  exact if_pos hfree

theorem admission_fails {f : Result} (hfail : s.admitFails (s.ring ring) d = some f) (hfree : (s.ring ring).cqFree ≠ 0)
    (hs : sends s (s.ring ring).port) :
    Does (.admission ring) s [.out, .rings] (fun t => (t.ring ring).fetched = rest ∧
      (t.ring ring).sqHead = ((s.ring ring).sqHead + 1) % 2 ^ (s.ring ring).sqLog2 ∧
      .dma (s.ring ring).port (s.ring ring).pasid ((s.ring ring).cqBase + 32 * (s.ring ring).cqTail)
        (completion d f (s.ring ring).phase s.time.now) ∈ t.out) := by
  have e : admissionSt ring s = (s.passHead ring).postCompletion ring d f := by
    refine (admissionSt_eq hf he hr hv).trans ?_
    rw [hfail]
    exact if_neg hfree
  have hpass : Only [.rings] s (s.passHead ring) := s.setRing_only _ _
  have hs' : sends (s.passHead ring) ((s.passHead ring).ring ring).port := by
    rw [State.passHead_ring]
    exact hpass.sends rfl hs
  refine Does.of_eq rfl e ((hpass.mono rfl).trans (State.postCompletion_only _ _ _ _)) ⟨?_, ?_, ?_⟩
  · rw [State.postCompletion_ring, State.passHead_ring]
    exact congrArg (List.drop 1) hf
  · rw [State.postCompletion_ring, State.passHead_ring]
    rfl
  · rw [State.postCompletion_out hs', State.passHead_ring]
    exact List.mem_append_right _ List.mem_cons_self

theorem admission_waits (hpass : s.admitFails (s.ring ring) d = none)
    (hwait : s.paced d = false ∨ s.affordable (s.ring ring) d = false ∨ s.creditTurn ring (s.ring ring) d = false) :
    Does (.admission ring) s [] (fun _ => True) := by
  refine Does.nothing rfl ((admissionSt_eq hf he hr hv).trans ?_)
  rw [hpass]
  exact if_neg (by rcases hwait with h | h | h <;> simp [h])

end

/-! ### What admission does to the object named -/

section
variable (s)

theorem State.works_only (l : List Work) : Only [.works] s { s with works := l } := by
  intro p hp; cases p
  case works => simp at hp
  all_goals rfl

theorem State.nextWork_only (n : Nat) : Only [.nextWork] s { s with nextWork := n } := by
  intro p hp; cases p
  case nextWork => simp at hp
  all_goals rfl

theorem State.lastCredit_only (m : Tab Nat) : Only [.lastCredit] s { s with lastCredit := m } := by
  intro p hp; cases p
  case lastCredit => simp at hp
  all_goals rfl

theorem State.jobs_only (l : List TensorJob) : Only [.jobs] s { s with jobs := l } := by
  intro p hp; cases p
  case jobs => simp at hp
  all_goals rfl

theorem State.tables_only (m : Tab Table) : Only [.tables] s { s with tables := m } := by
  intro p hp; cases p
  case tables => simp at hp
  all_goals rfl

theorem State.ctxs_only (m : Tab Ctx) : Only [.ctxs] s { s with ctxs := m } := by
  intro p hp; cases p
  case ctxs => simp at hp
  all_goals rfl

theorem State.trace_only (l : List TraceRec) : Only [.trace] s { s with trace := l } := by
  intro p hp; cases p
  case trace => simp at hp
  all_goals rfl

theorem State.clearPins_only (burrow : Nat) : Only [.ctxs] s (s.clearPins burrow) := s.ctxs_only _

theorem State.queueJobs_only : Only [.jobs] s s.queueJobs := s.jobs_only _

theorem State.addJob_only (j : TensorJob) : Only [.jobs] s (s.addJob j) := (s.jobs_only _).trans (State.queueJobs_only _)

theorem State.traceWork_only (x : Work) (event status : Nat) : Only [.trace] s (s.traceWork x event status) := by
  unfold State.traceWork
  exact Only.ite (fun _ => s.trace_only _) (fun _ => Only.refl _ s)

/-- A thaw changes nothing, or ends its work with a result, beside its burrow. -/
theorem burrowThawSt_cases (w : Nat) :
    burrowThawSt w s = s ∨ ∃ (u : State) (r : Result), Only [.burrows] s u ∧ burrowThawSt w s = u.finish w r := by
  unfold burrowThawSt State.withWork
  split
  · rename_i x _
    split
    · split
      · exact .inr ⟨s, _, Only.refl _ s, rfl⟩
      · split
        · exact .inl rfl
        · dsimp only
          split
          · exact .inr ⟨s, _, Only.refl _ s, rfl⟩
          · exact .inr ⟨_, _, s.setBurrow_only _ _, rfl⟩
    · exact .inl rfl
  · exact .inl rfl

theorem burrowThawSt_only (w : Nat) : Only [.burrows, .works, .waits] s (burrowThawSt w s) := by
  obtain e | ⟨u, r, hu, e⟩ := burrowThawSt_cases s w
  · exact Only.of_eq e
  · rw [e]
    exact (hu.mono rfl).trans ((u.finish_only w r).mono rfl)

/-- The items of a work counted for its context's frame (Q_UPDATES). -/
def State.countItems (s : State) (x : Work) : State :=
  if pacedItems x.desc = 0 then s
  else s.setCtx x.ctx { s.ctx x.ctx with
    updFrame := s.frame
    updCount := (if (s.ctx x.ctx).updFrame = s.frame then (s.ctx x.ctx).updCount else 0) + pacedItems x.desc }

theorem State.countItems_only (x : Work) : Only [.ctxs] s (s.countItems x) := by
  unfold State.countItems
  exact Only.ite (fun _ => Only.refl _ s) (fun _ => s.setCtx_only _ _)

variable {s}

theorem State.onAdmit_thaw {x : Work} (h : x.opcode = 0x17) : s.onAdmit x = burrowThawSt x.id (s.countItems x) := by
  unfold State.onAdmit
  rw [h]
  rfl

theorem State.onAdmit_plain {x : Work} (h : x.opcode ≠ 0x17) : Only [.ctxs, .tables, .jobs] s (s.onAdmit x) := by
  have hc : Only [.ctxs, .tables, .jobs] s (s.countItems x) := (s.countItems_only x).mono rfl
  unfold State.onAdmit
  dsimp only
  split
  · exact Only.ite (fun _ => hc.trans ((State.clearPins_only _ _).mono rfl)) (fun _ => hc)
  · exact absurd ‹_› h
  · exact Only.ite (fun _ => hc) (fun _ => hc.trans ((State.tables_only _ _).mono rfl))
  case h_8 => exact hc
  all_goals
    split
    · exact hc.trans ((State.addJob_only _ _).mono rfl)
    · exact hc

/-! ### The descriptor at the head admitted -/

/-- The head descriptor taken in: its completion entry reserved, its work the last of the admitted ones. -/
def State.takeHead (s : State) (ring : Nat) (d : Bytes) : State :=
  { (s.passHead ring).setRing ring { (s.passHead ring).ring ring with reserved := ((s.passHead ring).ring ring).reserved + 1 } with
    works := s.works ++ [s.newWork ring (s.ring ring) d]
    nextWork := s.nextWork + 1
    lastCredit := if (s.newWork ring (s.ring ring) d).cls = 0 then s.lastCredit
      else tset s.lastCredit ((s.ring ring).tenancy * 8 + (s.newWork ring (s.ring ring) d).cls) ring }

theorem State.takeHead_only (ring : Nat) (d : Bytes) : Only [.rings, .works, .nextWork, .lastCredit] s (s.takeHead ring d) := by
  intro p hp; cases p
  case rings | works | nextWork | lastCredit => simp at hp
  all_goals rfl

theorem State.takeHead_ring (ring : Nat) (d : Bytes) :
    (s.takeHead ring d).ring ring = { (s.ring ring).passed with reserved := (s.ring ring).reserved + 1 } := by
  have h : (s.takeHead ring d).ring ring =
      { (s.passHead ring).ring ring with reserved := ((s.passHead ring).ring ring).reserved + 1 } :=
    (State.ring_setRing _ _ _ _).trans (if_pos rfl)
  rw [h, State.passHead_ring]
  rfl

/-- The admission counted and traced. -/
def State.tookHead (s : State) (ring : Nat) (d : Bytes) : State :=
  ((s.takeHead ring d).bump (0x0B00030 + 0x100 * (s.ring ring).tenancy) 1).traceWork (s.newWork ring (s.ring ring) d) 0 0

theorem State.admitHead_eq (ring : Nat) (d : Bytes) : s.admitHead ring d = (s.tookHead ring d).onAdmit (s.newWork ring (s.ring ring) d) := rfl

theorem State.tookHead_tail (ring : Nat) (d : Bytes) : Only [.counters, .trace] (s.takeHead ring d) (s.tookHead ring d) :=
  ((State.bump_only _ _ _).mono rfl).trans ((State.traceWork_only _ _ _ _).mono rfl)

theorem State.tookHead_only (ring : Nat) (d : Bytes) : Only [.counters, .rings, .works, .nextWork, .lastCredit, .trace] s (s.tookHead ring d) :=
  ((s.takeHead_only ring d).mono rfl).trans ((s.tookHead_tail ring d).mono rfl)

theorem State.tookHead_works (ring : Nat) (d : Bytes) : (s.tookHead ring d).works = s.works ++ [s.newWork ring (s.ring ring) d] :=
  (s.tookHead_tail ring d .works (by decide)).symm

theorem State.tookHead_nextWork (ring : Nat) (d : Bytes) : (s.tookHead ring d).nextWork = s.nextWork + 1 :=
  (s.tookHead_tail ring d .nextWork (by decide)).symm

theorem State.tookHead_ring (ring : Nat) (d : Bytes) :
    (s.tookHead ring d).ring ring = { (s.ring ring).passed with reserved := (s.ring ring).reserved + 1 } :=
  (State.ring_congr (s.tookHead_tail ring d .rings (by decide)) ring).trans (s.takeHead_ring ring d)

/-- Admission of a descriptor that thaws no burrow. -/
theorem State.admitHead_plain {ring : Nat} {d : Bytes} (h : descOpcode d ≠ 0x17) : Only [.ctxs, .tables, .jobs] (s.tookHead ring d) (s.admitHead ring d) :=
  State.onAdmit_plain h

/-- Admission of any descriptor. -/
theorem State.onAdmit_only (x : Work) : Only [.ctxs, .works, .waits, .burrows, .tables, .jobs] s (s.onAdmit x) := by
  by_cases h : x.opcode = 0x17
  · rw [State.onAdmit_thaw h]
    exact ((s.countItems_only x).mono rfl).trans ((burrowThawSt_only _ _).mono rfl)
  · exact (State.onAdmit_plain h).mono rfl

theorem State.admitHead_only (ring : Nat) (d : Bytes) :
    Only [.counters, .ctxs, .rings, .works, .waits, .nextWork, .lastCredit, .burrows, .tables, .jobs, .trace] s (s.admitHead ring d) :=
  ((s.tookHead_only ring d).mono rfl).trans ((State.onAdmit_only _).mono rfl)

/-- A result given to the last of the works, whose number no other has. -/
theorem State.finish_last {l : List Work} {x : Work} {w : Nat} (hl : ∀ y ∈ l, y.id ≠ w) (hs : s.works = l ++ [x]) (r : Result) :
    (s.finish w r).works = l ++ [if x.id == w then { x with result := some r } else x] := by
  have hkept : l.map (fun y => if y.id == w then { y with result := some r } else y) = l := by
    conv_rhs => rw [← List.map_id l]
    exact List.map_congr_left (fun y hy => if_neg (by simpa using hl y hy))
  refine (congrArg (List.map _) hs).trans ?_
  rw [List.map_append, hkept]
  rfl

/-- A BURROW_THAW is the last of the works, with or without its result (R195). -/
theorem State.admitHead_thaw {ring : Nat} {d : Bytes} (h : descOpcode d = 0x17) (hn : s.work s.nextWork = none) :
    ∃ res, (s.admitHead ring d).works = s.works ++ [{ s.newWork ring (s.ring ring) d with result := res }] := by
  have hx : (s.newWork ring (s.ring ring) d).opcode = 0x17 := h
  have hother : ∀ y ∈ s.works, y.id ≠ s.nextWork := by simpa using List.find?_eq_none.mp hn
  rw [State.admitHead_eq, State.onAdmit_thaw hx]
  have hworks : ((s.tookHead ring d).countItems (s.newWork ring (s.ring ring) d)).works = s.works ++ [s.newWork ring (s.ring ring) d] :=
    (State.countItems_only _ _ .works (by decide)).symm.trans (s.tookHead_works ring d)
  generalize (s.tookHead ring d).countItems (s.newWork ring (s.ring ring) d) = u at hworks
  obtain e | ⟨v, r, hv, e⟩ := burrowThawSt_cases u (s.newWork ring (s.ring ring) d).id
  · exact ⟨none, (congrArg State.works e).trans hworks⟩
  · refine ⟨some r, (congrArg State.works e).trans ?_⟩
    exact (State.finish_last hother ((hv .works (by decide)).symm.trans hworks) r).trans
      (congrArg (fun y => s.works ++ [y]) (if_pos (beq_self_eq_true _)))

theorem admission_admits (hf : (s.ring ring).fetched = d :: rest) (he : (s.ring ring).state = .enabled) (hr : s.power.devReady = true)
    (hv : s.time.valid = true) (hpass : s.admitFails (s.ring ring) d = none) (hpaced : s.paced d = true)
    (haff : s.affordable (s.ring ring) d = true) (hturn : s.creditTurn ring (s.ring ring) d = true) :
    Does (.admission ring) s [.counters, .ctxs, .rings, .works, .waits, .nextWork, .lastCredit, .burrows, .tables, .jobs, .trace] (fun t =>
      (descOpcode d ≠ 0x17 → t.works = s.works ++ [s.newWork ring (s.ring ring) d] ∧
        Only [.counters, .ctxs, .rings, .works, .nextWork, .lastCredit, .tables, .jobs, .trace] s t) ∧
      (descOpcode d = 0x17 → s.work s.nextWork = none → ∃ res, t.works = s.works ++ [{ s.newWork ring (s.ring ring) d with result := res }]) ∧
      t.nextWork = s.nextWork + 1 ∧ (t.ring ring).fetched = rest ∧ (t.ring ring).reserved = (s.ring ring).reserved + 1 ∧
      (t.ring ring).sqHead = ((s.ring ring).sqHead + 1) % 2 ^ (s.ring ring).sqLog2) := by
  have e : admissionSt ring s = s.admitHead ring d := by
    refine (admissionSt_eq hf he hr hv).trans ?_
    rw [hpass, hpaced, haff, hturn]
    rfl
  have hact : Only [.ctxs, .works, .waits, .burrows, .tables, .jobs] (s.tookHead ring d) (s.admitHead ring d) := State.onAdmit_only _
  have hring : (s.admitHead ring d).ring ring = { (s.ring ring).passed with reserved := (s.ring ring).reserved + 1 } :=
    (State.ring_congr (hact .rings (by decide)) ring).trans (s.tookHead_ring ring d)
  refine Does.of_eq rfl e (s.admitHead_only ring d) ⟨fun hop => ⟨?_, ?_⟩, State.admitHead_thaw, ?_, ?_, ?_, ?_⟩
  · exact (State.admitHead_plain hop .works (by decide)).symm.trans (s.tookHead_works ring d)
  · exact ((s.tookHead_only ring d).mono rfl).trans ((State.admitHead_plain hop).mono rfl)
  · exact (hact .nextWork (by decide)).symm.trans (s.tookHead_nextWork ring d)
  · rw [hring]
    exact congrArg (List.drop 1) hf
  · rw [hring]
  · rw [hring]
    rfl

end
end

/-- Settles O15: the step of admission by the outcome of its checks, of pacing and of credits. -/
theorem admissionOfTheHeadDescriptor : Obligations.AdmissionOfTheHeadDescriptor := by
  intro ring d rest s hf
  exact ⟨admission_invalid, fun he hr hv => ⟨fun _ hfail => ⟨admission_full hf he hr hv hfail, admission_fails hf he hr hv hfail⟩,
    fun hpass => ⟨admission_waits hf he hr hv hpass, admission_admits hf he hr hv hpass⟩⟩⟩

/-! ### The checks in their order (R117, R710) -/

section
variable {s : State} {r : Ring} {d : Bytes}

theorem State.admitFails_opcode (h : opcodeClass (descOpcode d) = none) : s.admitFails r d = some (Result.err 0x11 0) :=
  if_pos (by rw [h]; rfl)

section
variable (hop : opcodeClass (descOpcode d) ≠ none)
include hop

theorem State.admitFails_service (hsvc : r.service = true) (h : serviceOpcode (descOpcode d) = false) :
    s.admitFails r d = some (Result.err 0x10 0) :=
  (if_neg (by simpa using hop)).trans (if_pos (by rw [hsvc, h]; rfl))

variable (hsvc : r.service = false ∨ serviceOpcode (descOpcode d) = true)
include hsvc

/-- An opcode that the ring takes goes on to the checks of its fields and objects. -/
theorem State.admitFails_taken : s.admitFails r d =
    match lowestCheck (reservedChecks d) with
    | some x => some x
    | none =>
      if (s.ctx (descCtx d)).state ≠ 1 ∨ (s.ctx (descCtx d)).tenancy ≠ r.tenancy then some (Result.err 0x21 0)
      else if (s.ctx (descCtx d)).port ≠ r.port then some (Result.err 0x20 0)
      else match lowestCheck (addressChecks d ++ s.fieldChecks r.tenancy d) with
        | some x => some x
        | none => if s.namesOwn r.tenancy d = false then some (Result.err 0x21 0) else s.quotaFails r.tenancy r.port d := by
  have htaken : ¬ (r.service && !serviceOpcode (descOpcode d)) = true := by rcases hsvc with h | h <;> simp [h]
  exact (if_neg (by simpa using hop)).trans (if_neg htaken)

theorem State.admitFails_reserved {x : Result} (h : lowestCheck (reservedChecks d) = some x) : s.admitFails r d = some x := by
  rw [State.admitFails_taken hop hsvc, h]

variable (hres : reservedChecks d = [])
include hres

theorem State.admitFails_ctx (h : (s.ctx (descCtx d)).state ≠ 1 ∨ (s.ctx (descCtx d)).tenancy ≠ r.tenancy) :
    s.admitFails r d = some (Result.err 0x21 0) := by
  rw [State.admitFails_taken hop hsvc, hres]
  exact if_pos h

variable (hact : (s.ctx (descCtx d)).state = 1) (hten : (s.ctx (descCtx d)).tenancy = r.tenancy)
include hact hten

theorem State.admitFails_port (h : (s.ctx (descCtx d)).port ≠ r.port) : s.admitFails r d = some (Result.err 0x20 0) := by
  rw [State.admitFails_taken hop hsvc, hres]
  exact (if_neg (by simp [hact, hten])).trans (if_pos h)

variable (hport : (s.ctx (descCtx d)).port = r.port)
include hport

theorem State.admitFails_own : s.admitFails r d =
    match lowestCheck (addressChecks d ++ s.fieldChecks r.tenancy d) with
    | some x => some x
    | none => if s.namesOwn r.tenancy d = false then some (Result.err 0x21 0) else s.quotaFails r.tenancy r.port d := by
  rw [State.admitFails_taken hop hsvc, hres]
  exact (if_neg (by simp [hact, hten])).trans (if_neg (by simp [hport]))

theorem State.admitFails_field {x : Result} (h : lowestCheck (addressChecks d ++ s.fieldChecks r.tenancy d) = some x) :
    s.admitFails r d = some x := by
  rw [State.admitFails_own hop hsvc hres hact hten hport, h]

theorem State.admitFails_object (hf : s.fieldChecks r.tenancy d = []) (ha : addressChecks d = []) (h : s.namesOwn r.tenancy d = false) :
    s.admitFails r d = some (Result.err 0x21 0) := by
  rw [State.admitFails_own hop hsvc hres hact hten hport, hf, ha]
  exact if_pos h

end
end

/-- Settles O16: each check of Table 3.9 decides once those before it pass. -/
theorem admissionChecksInOrder : Obligations.AdmissionChecksInOrder := by
  intro r d s
  refine ⟨State.admitFails_opcode, fun hop => ⟨State.admitFails_service hop, fun hsvc => ⟨fun _ => State.admitFails_reserved hop hsvc,
    fun hres => ⟨State.admitFails_ctx hop hsvc hres, fun hact hten => ⟨State.admitFails_port hop hsvc hres hact hten, ?_, ?_⟩⟩⟩⟩⟩
  · exact fun hport _ => State.admitFails_field hop hsvc hres hact hten hport
  · exact fun hport => State.admitFails_object hop hsvc hres hact hten hport

end Sys2Proof.Machine
end

section
/-!
SUPPORT. The numbers of works: no operation gives a work a number again that has been taken, so a work that has left the machine stays away
while credits are handed out and forwarded queries are answered.
-/

namespace Sys2Proof.Machine

/-! ### Numbers of works -/

/-- The numbers of the admitted works. -/
def State.workIds (s : State) : List Nat := s.works.map (·.id)

theorem State.work_eq_none {s : State} {w : Nat} : s.work w = none ↔ w ∉ s.workIds := by
  simp [State.work, State.workIds]

/-- From `s` to `t` every number of a work was there, or is new. -/
structure Numbered (s t : State) : Prop where
  next : s.nextWork ≤ t.nextWork
  ids : ∀ v ∈ t.workIds, v ∈ s.workIds ∨ s.nextWork ≤ v

section
variable {s t u : State}

theorem Numbered.refl (s : State) : Numbered s s := ⟨le_refl _, fun _ h => .inl h⟩

theorem Numbered.trans (h : Numbered s t) (k : Numbered t u) : Numbered s u :=
  ⟨h.next.trans k.next, fun v hv => (k.ids v hv).elim (h.ids v) (fun hn => .inr (h.next.trans hn))⟩

theorem Numbered.of_eq (hw : s.works = t.works) (hn : s.nextWork = t.nextWork) : Numbered s t :=
  ⟨hn.le, fun v hv => .inl (by rwa [State.workIds, hw])⟩

/-- What leaves works and the next number as they are. -/
theorem Numbered.of_only {ps : List Part} (h : Only ps s t) (hp : (ps.contains .works || ps.contains .nextWork) = false) : Numbered s t := by
  obtain ⟨hw, hn⟩ := Bool.or_eq_false_iff.mp hp
  exact .of_eq (h .works (fun hm => by simp [hm] at hw)) (h .nextWork (fun hm => by simp [hm] at hn))

/-- What replaces works under their numbers. -/
theorem Numbered.of_map {f : Work → Work} (hw : t.works = s.works.map f) (hn : t.nextWork = s.nextWork) (hf : ∀ x, (f x).id = x.id) :
    Numbered s t := by
  refine ⟨hn.ge, fun v hv => .inl ?_⟩
  have hid : (Work.id ∘ f) = Work.id := funext hf
  rwa [State.workIds, hw, List.map_map, hid] at hv

theorem Work.id_ite {c : Prop} [Decidable c] {x y : Work} (h : y.id = x.id) : (if c then y else x).id = x.id := by
  split
  · exact h
  · rfl

theorem Numbered.ite {c : Prop} [Decidable c] (h : c → Numbered s t) (k : ¬ c → Numbered s u) : Numbered s (if c then t else u) := by
  split
  · exact h ‹_›
  · exact k ‹_›

theorem Numbered.foldl {α : Type} {f : State → α → State} (h : ∀ s x, Numbered s (f s x)) (l : List α) (s : State) :
    Numbered s (l.foldl f s) := by
  induction l generalizing s with
  | nil => exact .refl s
  | cons x t ih => exact (h s x).trans (ih (f s x))

/-- A number that has been taken and left is not given again. -/
theorem Numbered.absent (h : Numbered s t) {w : Nat} (hw : s.work w = none) (hn : w < s.nextWork) : t.work w = none := by
  rw [State.work_eq_none] at hw ⊢
  exact fun hm => (h.ids w hm).elim hw (fun hle => absurd hle (by omega))

end

/-! ### Accesses and group searches -/

section
variable (s : State)

theorem State.finish_numbered (w : Nat) (r : Result) : Numbered s (s.finish w r) :=
  .of_map rfl rfl (fun _ => Work.id_ite rfl)

theorem State.endAccess_numbered (x : Work) (who : Option (Nat × Nat)) (status : Nat) : Numbered s (s.endAccess x who status) := by
  unfold State.endAccess
  exact Numbered.ite (fun _ => s.finish_numbered _ _) (fun _ => .of_only (s.runs_only _) rfl)

theorem State.raiseFault_numbered (x : Work) (addr : Nat) (write run : Bool) (cell : Nat) (cause : FaultCause) (level : Nat) :
    Numbered s (s.raiseFault x addr write run cell cause level) := by
  unfold State.raiseFault
  refine Numbered.trans (Numbered.trans ?stalls (Numbered.ite (fun _ => ?counts) (fun _ => .refl _))) (.of_only (State.postFault_only _ _) rfl)
  case stalls => exact .of_map (f := fun y => if y.id == x.id then { y with stalled := true } else y) rfl rfl (fun _ => Work.id_ite rfl)
  case counts => exact (Numbered.of_only (State.bump_only _ _ _) rfl).trans (.of_only (State.emit_only _ _) rfl)

theorem State.accessFails_numbered (w : Nat) (who : Option (Nat × Nat)) (status : Nat) : Numbered s (s.accessFails w who status) := by
  unfold State.accessFails
  refine Numbered.ite (fun _ => .of_only (s.runs_only _) rfl) (fun _ => ?_)
  exact .of_map rfl rfl (fun _ => Work.id_ite rfl)

theorem State.sendRemote_numbered (r : WlReq) : Numbered s (s.sendRemote r) := by
  have taken (q : WlReq) : Numbered s (s.addRequest q) := .of_only (s.fabric_only _) rfl
  unfold State.sendRemote
  refine Numbered.ite (fun _ => s.accessFails_numbered _ _ _)
    (fun _ => (taken { r with tag := s.fabric.nextTag, port := bits (s.route r.rank) 3 0 }).trans ?_)
  refine Numbered.ite (fun _ => .of_only (State.packRequest_only _ _) rfl)
    (fun _ => Numbered.ite (fun _ => ?_) (fun _ => .of_only (State.sendStores_only _ _ _) rfl))
  exact (Numbered.of_only (State.markSent_only _ _) rfl).trans (.of_only (State.sendTo_only _ _ _ _) rfl)

theorem State.sendWindow_numbered (w : Nat) (cell : Option (Nat × Nat)) (ctx kind addr len : Nat) (b : Bytes) :
    Numbered s (s.sendWindow w cell ctx kind addr len b) := by
  unfold State.sendWindow
  split
  · exact .refl s
  · exact s.sendRemote_numbered _

theorem State.gatePiece_numbered (x : Work) (who : Option (Nat × Nat)) (write : Bool) (p : Nat × Nat) :
    Numbered s (s.gatePiece x who write p).state := by
  have hl := s.locate_only x.tenancy x.xltRoot p.1 p.2 write
  have pass (u : State) (ms : List Nat) : Numbered u (u.passUnit x.id (accessCell who) x.tenancy ms).state :=
    .of_only (u.passUnit_only x.id (accessCell who) x.tenancy ms) rfl
  unfold State.gatePiece
  split
  · rename_i hu
    rw [hu] at hl
    exact (Numbered.of_only hl rfl).trans (State.raiseFault_numbered _ _ _ _ _ _ _ _)
  · rename_i hu
    rw [hu] at hl
    exact (Numbered.of_only hl rfl).trans (State.endAccess_numbered _ _ _ _)
  · rename_i a u hu
    rw [hu] at hl
    refine (Numbered.of_only hl rfl).trans ?_
    have hp := pass u (u.unitsOf a)
    split
    · rename_i hv
      rwa [hv] at hp
    · rename_i v hv
      rw [hv] at hp
      refine hp.trans ?_
      have hd := Numbered.of_only (v.devLine_keeps (if write then .devWr else .devRd) x.id (a % 2 ^ 48 / 64)).only rfl
      split
      · split
        · rename_i hz
          rwa [hz] at hd
        · rename_i hz
          rwa [hz] at hd
      · exact .refl v
  · rename_i a u hu
    rw [hu] at hl
    refine (Numbered.of_only hl rfl).trans ?_
    split
    · rename_i w _ _ _
      have hp := pass u [denMap (u.window w).homeDen]
      split
      · rename_i hv
        rwa [hv] at hp
      · rename_i v hv
        rw [hv] at hp
        refine hp.trans ?_
        split
        · exact v.endAccess_numbered _ _ _
        · split
          · exact .refl v
          · split
            · exact .refl v
            · split
              · exact .refl v
              · exact v.sendWindow_numbered _ _ _ _ _ _ _
    · exact .refl u

theorem State.gatePieces_numbered (x : Work) (who : Option (Nat × Nat)) (l : List (Bool × Nat × Nat)) :
    Numbered s (s.gatePieces x who l).state := by
  induction l generalizing s with
  | nil => exact .refl s
  | cons e t ih =>
    obtain ⟨wr, p⟩ := e
    have hp := s.gatePiece_numbered x who wr p
    unfold State.gatePieces
    split
    · rename_i u hu
      rw [hu] at hp
      exact hp.trans (ih u)
    · rename_i hu
      rwa [hu] at hp

theorem State.gate_numbered (x : Work) (accs : List (Nat × Nat × Bool)) : Numbered s (s.gate x accs).state := by
  unfold State.gate State.gateBy
  dsimp only
  split_ifs
  · exact .refl s
  · exact Numbered.foldl (fun u p => .of_only (u.requestPage_only _ _ _ _ _) rfl) _ s
  · exact s.gatePieces_numbered _ _ _

theorem State.writeAt_numbered (x : Work) (a : Nat) (b : Bytes) : Numbered s (s.writeAt x a b) := by
  unfold State.writeAt State.writeBy
  refine Numbered.ite (fun _ => .refl s) (fun _ => Numbered.ite (fun _ => .of_only (s.emit_only _) rfl) (fun _ => ?_))
  refine Numbered.foldl (fun u p => ?_) _ s
  dsimp only
  split
  · exact .of_only (u.put_only _ _) rfl
  · exact u.sendWindow_numbered _ _ _ _ _ _ _
  · exact .refl u

theorem State.withAccess_numbered {f : State → State} (h : ∀ u, Numbered u (f u)) (x : Work) (accs : List (Nat × Nat × Bool)) :
    Numbered s (s.withAccess x accs f) := by
  have hg := s.gate_numbered x accs
  unfold State.withAccess
  split
  · rename_i hu
    rwa [hu] at hg
  · rename_i u hu
    rw [hu] at hg
    exact (hg.trans (h u)).trans (.of_eq (State.used_works _ _).symm ((State.usedBy_keeps _ _ _).only .nextWork (by decide)))

theorem State.mergeGroup_numbered (g : GroupSearch) (x : Work) : Numbered s (s.mergeGroup g x) := by
  unfold State.mergeGroup
  refine Numbered.ite (fun _ => s.finish_numbered _ _) (fun _ => s.withAccess_numbered (fun u => ?_) _ _)
  exact ((u.writeAt_numbered _ _ _).trans (State.writeAt_numbered _ _ _ _)).trans (State.finish_numbered _ _ _)

theorem State.finishGroup_numbered (g : GroupSearch) : Numbered s (s.finishGroup g) := by
  have close (u : State) : Numbered u (u.endGroup g) := .of_only (u.endGroup_only g) rfl
  unfold State.finishGroup
  split
  · dsimp only
    exact Numbered.ite (fun _ => close s)
      (fun _ => Numbered.ite (fun _ => (s.mergeGroup_numbered g _).trans (close _)) (fun _ => s.mergeGroup_numbered g _))
  · refine Numbered.trans ?_ (close _)
    unfold State.logTakeover
    split
    · exact (Numbered.of_only (s.fabric_only _) rfl).trans (.of_only (State.setFlag_only _ _ _) rfl)
    · exact .refl s

theorem State.advanceGroup_numbered (w : Nat) : Numbered s (s.advanceGroup w) := by
  unfold State.advanceGroup
  split
  · exact .refl s
  · rename_i g _
    have merge : Numbered s (if g.phase = 0 && g.complete && s.mayGoOn 1 w then
        (s.setGroup { g with phase := 1 }).endPhase 1 w 2 ({ g with phase := 1 } : GroupSearch).image else s) :=
      Numbered.ite (fun _ => (Numbered.of_only (s.setGroup_only _) rfl).trans (.of_only (State.endPhase_only _ _ _ _ _) rfl)) (fun _ => .refl s)
    refine merge.trans ?_
    generalize (if g.phase = 0 && g.complete && s.mayGoOn 1 w then
      (s.setGroup { g with phase := 1 }).endPhase 1 w 2 ({ g with phase := 1 } : GroupSearch).image else s) = u
    dsimp only
    split
    · exact Numbered.ite (fun _ => u.finishGroup_numbered _) (fun _ => .refl u)
    · exact .refl u

end

end Sys2Proof.Machine
end

section
/-!
SUPPORT. Completion: what leaves with a work, what the credits it returns start, and the statement of O17 put together from them.
-/

namespace Sys2Proof.Machine

/-! ### A work leaves (R110, R126, R378) -/

section
variable (s : State)

theorem State.badgers_only (x : Tab Badger) : Only [.badgers] s { s with badgers := x } := by
  intro p hp; cases p
  case badgers => simp at hp
  all_goals rfl

theorem State.tensors_only (x : Tab Tensor) : Only [.tensors] s { s with tensors := x } := by
  intro p hp; cases p
  case tensors => simp at hp
  all_goals rfl

theorem State.fill_only (x : List FillItem) : Only [.fill] s { s with fill := x } := by
  intro p hp; cases p
  case fill => simp at hp
  all_goals rfl

theorem State.lateFree_only (x : List (Nat × Nat × Nat × List Nat)) : Only [.lateFree] s { s with lateFree := x } := by
  intro p hp; cases p
  case lateFree => simp at hp
  all_goals rfl

theorem State.trim_only (a n : Nat) : Only [.badgers] s (s.trim a n) := s.badgers_only _

theorem State.dropWrite_only (req : Nat) : Only [.badgers, .waits] s (s.dropWrite req) :=
  ((s.badgers_only (s.badgers.map (fun e => (e.1, { e.2 with wbuf := e.2.wbuf.filter (fun w => w.req != req) })))).mono rfl).trans
    ((State.waits_only _ _).mono rfl)

theorem State.undoMove_only (j : TensorJob) : Only [.tensors, .badgers, .waits] s (s.undoMove j) := by
  have back : Only [.tensors, .badgers, .waits] s (if j.started && j.writer && j.target != 0 then
      { s with tensors := tmap s.tensors (handleIx j.handle) (fun x => if x.state = 2 then { x with state := 1 } else x) } else s) :=
    Only.ite (fun _ => (s.tensors_only _).mono rfl) (fun _ => Only.refl _ s)
  unfold State.undoMove
  dsimp only
  split
  · exact (back.trans ((State.dropWrite_only _ _).mono rfl)).trans ((State.trim_only _ _ _).mono rfl)
  · exact back

theorem State.endJobs_only (w : Nat) : Only [.tensors, .badgers, .waits, .jobs] s (s.endJobs w) :=
  (Only.foldl (fun u j => (u.undoMove_only j).mono rfl) _ s).trans ((State.jobs_only _ _).mono rfl)

theorem State.releaseLate_only (w : Nat) : Only [.fill, .lateFree] s (s.releaseLate w) :=
  ((s.lateFree_only _).mono rfl).trans (Only.foldl (fun u _ => (u.fill_only _).mono rfl) _ _)

/-- The work of a number, and what names it, taken out of the lists. -/
def State.without (s : State) (w : Nat) : State :=
  { s with
    works := s.works.filter (fun x => x.id != w)
    trails := s.trails.filter (fun (r : Trail) => r.w != w)
    recalled := s.recalled.filter (fun r => r.1 != w)
    waiting := s.waiting.filter (fun q => q.own != some w)
    slots := { s.slots with waits := s.slots.waits.filter (fun v => v.w != w) }
    xltWaits := s.xltWaits.filter (fun v => v.w != w) }

theorem State.without_only (w : Nat) : Only [.works, .trails, .recalled, .waiting, .waits, .xltWaits] s (s.without w) := by
  intro p hp; cases p
  case works | trails | recalled | waiting | waits | xltWaits => simp at hp
  all_goals rfl

theorem State.dropWork_eq (w : Nat) : s.dropWork w = (((s.endJobs w).releaseLate w).without w).queueJobs := rfl

/-- What leaves with a work. -/
def dropParts : List Part := [.tensors, .badgers, .waits, .jobs, .fill, .lateFree, .works, .trails, .recalled, .waiting, .xltWaits]

theorem State.dropWork_only (w : Nat) : Only dropParts s (s.dropWork w) := by
  rw [State.dropWork_eq]
  exact ((((s.endJobs_only w).mono rfl).trans ((State.releaseLate_only _ w).mono rfl)).trans ((State.without_only _ w).mono rfl)).trans
    ((State.queueJobs_only _).mono rfl)

theorem State.without_work (w : Nat) : (s.without w).work w = none :=
  List.find?_eq_none.mpr (fun x hx => by simpa using (List.mem_filter.mp hx).2)

theorem State.dropWork_work (w : Nat) : (s.dropWork w).work w = none := by
  rw [State.dropWork_eq]
  exact (State.work_congr ((State.queueJobs_only _) .works (by decide)) w).trans (State.without_work _ w)

theorem State.dropWork_next (w : Nat) : (s.dropWork w).nextWork = s.nextWork := ((s.dropWork_only w) .nextWork (by decide)).symm

/-! ### Credits handed out (R127, R274) -/

theorem State.answerPartial_only (port src tag bi : Nat) (payload : Bytes) : Only [.out] s (s.answerPartial port src tag bi payload) :=
  s.sendOn_only _ _ _

theorem State.admitForward_only (port src tag shard bi t : Nat) (payload : Bytes) :
    Only [.works, .nextWork] s (s.admitForward port src tag shard bi t payload) := by
  intro p hp; cases p
  case works | nextWork => simp at hp
  all_goals rfl

/-- A forwarded query is answered, admitted, or waits. -/
theorem State.takeForward_only (port : Nat) (m : Msg) : Only [.out, .works, .nextWork, .fabric] s (s.takeForward port m) := by
  unfold State.takeForward
  dsimp only
  split
  · exact (s.answerPartial_only _ _ _ _ _).mono rfl
  · split
    · exact (s.answerPartial_only _ _ _ _ _).mono rfl
    · exact Only.ite (fun _ => (s.admitForward_only _ _ _ _ _ _ _).mono rfl) (fun _ => (s.fabric_only _).mono rfl)

/-- A work that joins with the next number. -/
theorem Numbered.of_append {s t : State} {x : Work} (hw : t.works = s.works ++ [x]) (hx : x.id = s.nextWork) (hn : t.nextWork = s.nextWork + 1) :
    Numbered s t := by
  refine ⟨by omega, fun v hv => ?_⟩
  rw [State.workIds, hw, List.map_append, List.mem_append] at hv
  exact hv.imp_right (fun h => by simp at h; omega)

theorem State.takeForward_numbered (port : Nat) (m : Msg) : Numbered s (s.takeForward port m) := by
  unfold State.takeForward
  dsimp only
  split
  · exact .of_only (s.answerPartial_only _ _ _ _ _) rfl
  · split
    · exact .of_only (s.answerPartial_only _ _ _ _ _) rfl
    · exact Numbered.ite (fun _ => .of_append rfl rfl rfl) (fun _ => .of_only (s.fabric_only _) rfl)

theorem State.admitHead_numbered (ring : Nat) (d : Bytes) : Numbered s (s.admitHead ring d) := by
  have hin : Numbered s (s.tookHead ring d) := .of_append (s.tookHead_works ring d) rfl (s.tookHead_nextWork ring d)
  refine hin.trans ?_
  by_cases h : descOpcode d = 0x17
  · rw [State.admitHead_eq, State.onAdmit_thaw h]
    refine (Numbered.of_only (State.countItems_only _ (s.newWork ring (s.ring ring) d)) rfl).trans ?_
    generalize (s.tookHead ring d).countItems (s.newWork ring (s.ring ring) d) = u
    obtain e | ⟨v, r, hv, e⟩ := burrowThawSt_cases u (s.newWork ring (s.ring ring) d).id
    · rw [e]; exact .refl u
    · rw [e]; exact (Numbered.of_only hv rfl).trans (v.finish_numbered _ _)
  · exact .of_only (State.admitHead_plain h) rfl

/-- What admission at the head of a ring touches. -/
def admitParts : List Part := [.counters, .ctxs, .rings, .works, .waits, .nextWork, .lastCredit, .burrows, .tables, .jobs, .trace]

/-- What the credits of a class start: admissions, nothing sent but answers to forwarded queries. -/
structure HandsOut (s t : State) : Prop where
  only : Only (admitParts ++ [.out, .fabric]) s t
  numbered : Numbered s t
  out : s.out <+: t.out

theorem HandsOut.refl (s : State) : HandsOut s s := ⟨Only.refl _ s, .refl s, List.prefix_rfl⟩

theorem HandsOut.trans {s t u : State} (h : HandsOut s t) (k : HandsOut t u) : HandsOut s u :=
  ⟨h.only.trans k.only, h.numbered.trans k.numbered, h.out.trans k.out⟩

theorem HandsOut.foldl {α : Type} {f : State → α → State} (h : ∀ s x, HandsOut s (f s x)) (l : List α) (s : State) :
    HandsOut s (l.foldl f s) := by
  induction l generalizing s with
  | nil => exact .refl s
  | cons x t ih => exact (h s x).trans (ih (f s x))

theorem State.emit_prefix (o : Output) : s.out <+: (s.emit o).out := by
  obtain e | e := s.emit_out o
  · rw [e]; exact List.prefix_append _ _
  · rw [e]

theorem State.sendOn_prefix (p type : Nat) (m : Msg) : s.out <+: (s.sendOn p type m).out := by
  unfold State.sendOn
  split
  · exact List.prefix_rfl
  · exact State.emit_prefix _ _

theorem State.takeForward_prefix (port : Nat) (m : Msg) : s.out <+: (s.takeForward port m).out := by
  unfold State.takeForward
  dsimp only
  split
  · exact s.sendOn_prefix _ _ _
  · split
    · exact s.sendOn_prefix _ _ _
    · split
      · exact List.prefix_rfl
      · exact List.prefix_rfl

theorem State.takeForward_handsOut (port : Nat) (m : Msg) : HandsOut s (s.takeForward port m) :=
  ⟨(s.takeForward_only port m).mono rfl, s.takeForward_numbered port m, s.takeForward_prefix port m⟩

theorem State.admitHead_handsOut (ring : Nat) (d : Bytes) : HandsOut s (s.admitHead ring d) :=
  ⟨(s.admitHead_only ring d).mono rfl, s.admitHead_numbered ring d, (s.admitHead_only ring d .out (by decide)) ▸ List.prefix_rfl⟩

theorem State.handOut_handsOut (t cls fuel : Nat) : HandsOut s (s.handOut t cls fuel) := by
  induction fuel generalizing s with
  | zero => exact .refl s
  | succ n ih =>
    unfold State.handOut
    dsimp only
    split
    · exact .refl s
    · split
      · split
        · exact (s.admitHead_handsOut _ _).trans (ih _)
        · exact .refl s
      · exact .refl s

theorem State.forwardWaiting_handsOut : HandsOut s s.forwardWaiting := by
  have answer (u : State) (f : Nat × Msg) : HandsOut u (u.takeForward f.1 f.2) := u.takeForward_handsOut f.1 f.2
  have cleared (f : Fabric) : HandsOut s { s with fabric := f } :=
    ⟨(s.fabric_only f).mono rfl, .of_only (s.fabric_only f) rfl, List.prefix_rfl⟩
  unfold State.forwardWaiting
  exact (cleared _).trans (HandsOut.foldl answer _ _)

theorem State.creditsFreed_handsOut (t cls : Nat) : HandsOut s (s.creditsFreed t cls) := by
  have rings : HandsOut s (if cls = 0 then s else s.handOut t cls 4096) := by
    split
    · exact .refl s
    · exact s.handOut_handsOut _ _ _
  unfold State.creditsFreed
  split
  · exact .refl s
  · dsimp only
    split
    · exact rings.trans (State.forwardWaiting_handsOut _)
    · exact rings

/-! ### Answers to forwarded queries (R275–R281) -/

/-- What a partial that reaches its coordinator here touches. -/
def partialParts : List Part := .freeCount :: groupParts

theorem State.takePartial_only (src tag status : Nat) (p : Bytes) : Only partialParts s (s.takePartial src tag status p) := by
  have drawn (c : Bool) : Only partialParts s (if c then s.drawn else s) := Only.ite (fun _ => s.drawn_only.mono rfl) (fun _ => Only.refl _ s)
  unfold State.takePartial
  dsimp only
  split
  · refine Only.ite (fun _ => Only.refl _ s) (fun _ => ?_)
    exact ((drawn _).trans ((State.keepPartial_only _ _ _).mono rfl)).trans ((State.advanceGroup_keeps _ _).only.mono rfl)
  · exact Only.refl _ s

theorem State.takePartial_numbered (src tag status : Nat) (p : Bytes) : Numbered s (s.takePartial src tag status p) := by
  have drawn (c : Bool) : Numbered s (if c then s.drawn else s) := Numbered.ite (fun _ => .of_only s.drawn_only rfl) (fun _ => .refl s)
  unfold State.takePartial
  dsimp only
  split
  · refine Numbered.ite (fun _ => .refl s) (fun _ => ?_)
    exact ((drawn _).trans (.of_only (State.keepPartial_only _ _ _) rfl)).trans (State.advanceGroup_numbered _ _)
  · exact .refl s

theorem State.answerForward_only (x : Work) (o : Origin) (r : Result) : Only partialParts s (s.answerForward x o r) := by
  unfold State.answerForward
  exact Only.ite (fun _ => s.takePartial_only _ _ _ _) (fun _ => (s.answerPartial_only _ _ _ _ _).mono rfl)

theorem State.answerForward_numbered (x : Work) (o : Origin) (r : Result) : Numbered s (s.answerForward x o r) := by
  unfold State.answerForward
  exact Numbered.ite (fun _ => s.takePartial_numbered _ _ _ _) (fun _ => .of_only (s.answerPartial_only _ _ _ _ _) rfl)

end

/-! ### The completion (R110–R113) -/

/-- What DESCRIPTOR_COMPLETE may touch. -/
def completeParts : List Part :=
  plus [.freeCount, .ctxs, .nextWork, .lastCredit, .burrows, .groups, .tables, .tensors, .jobs, .trails, .lateFree, .badgers, .trace] waitParts

section
variable {s : State} {w : Nat} {x : Work} {r : Result}

/-- The state in which the completion of a work of a ring has been written, and its reserved entry given up. -/
def State.entryGiven (s : State) (x : Work) (r : Result) : State :=
  (s.setRing x.ring { s.ring x.ring with reserved := (s.ring x.ring).reserved - 1 }).postCompletion x.ring x.desc r

theorem State.entryGiven_only (s : State) (x : Work) (r : Result) : Only [.out, .rings] s (s.entryGiven x r) :=
  ((s.setRing_only _ _).mono rfl).trans (State.postCompletion_only _ _ _ _)

theorem State.entryGiven_out (s : State) (x : Work) (r : Result) (hs : sends s (s.ring x.ring).port) :
    (s.entryGiven x r).out = s.out ++ completionOut (s.ring x.ring) x.desc r s.time.now := by
  have hring : (s.setRing x.ring { s.ring x.ring with reserved := (s.ring x.ring).reserved - 1 }).ring x.ring =
      { s.ring x.ring with reserved := (s.ring x.ring).reserved - 1 } := (s.ring_setRing _ _ _).trans (if_pos rfl)
  have hs' : sends (s.setRing x.ring { s.ring x.ring with reserved := (s.ring x.ring).reserved - 1 })
      ((s.setRing x.ring { s.ring x.ring with reserved := (s.ring x.ring).reserved - 1 }).ring x.ring).port := by
    rw [hring]
    exact (s.setRing_only _ _).sends rfl hs
  refine (State.postCompletion_out hs' _ _).trans ?_
  rw [hring]
  rfl

/-- What follows the completion of a work of a ring. -/
def State.ringCompleted (s : State) (w : Nat) (x : Work) (r : Result) : State :=
  ((((s.dropWork w).entryGiven x r).bump (0x0B00038 + 0x100 * x.tenancy) 1).traceWork x 1 r.status).creditsFreed x.tenancy x.cls

theorem State.ringCompleted_only (s : State) (w : Nat) (x : Work) (r : Result) : Only completeParts s (s.ringCompleted w x r) := by
  have hentry : Only completeParts s ((s.dropWork w).entryGiven x r) := ((s.dropWork_only w).mono rfl).trans ((State.entryGiven_only _ _ _).mono rfl)
  exact ((hentry.trans ((State.bump_only _ _ _).mono rfl)).trans ((State.traceWork_only _ _ _ _).mono rfl)).trans
    ((State.creditsFreed_handsOut _ _ _).only.mono rfl)

theorem State.ringCompleted_numbered (s : State) (w : Nat) (x : Work) (r : Result) : Numbered (s.dropWork w) (s.ringCompleted w x r) :=
  (((Numbered.of_only (State.entryGiven_only _ _ _) rfl).trans (.of_only (State.bump_only _ _ _) rfl)).trans
    (.of_only (State.traceWork_only _ _ _ _) rfl)).trans (State.creditsFreed_handsOut _ _ _).numbered

/-- The completion goes out after everything sent before it, and ahead of the answers that its credits start. -/
theorem State.ringCompleted_out (hs : sends s (s.ring x.ring).port) (r : Result) :
    s.out ++ completionOut (s.ring x.ring) x.desc r s.time.now <+: (s.ringCompleted w x r).out := by
  have hdrop := s.dropWork_only w
  have hring : (s.dropWork w).ring x.ring = s.ring x.ring := State.ring_congr (hdrop .rings (by decide)) _
  have hout : s.out = (s.dropWork w).out := hdrop .out (by decide)
  have htime : s.time = (s.dropWork w).time := hdrop .time (by decide)
  have hentry := (s.dropWork w).entryGiven_out x r (by rw [hring]; exact hdrop.sends rfl hs)
  rw [hring, ← hout, ← htime] at hentry
  rw [← hentry]
  have tail (u : State) :
      u.out <+: (((u.bump (0x0B00038 + 0x100 * x.tenancy) 1).traceWork x 1 r.status).creditsFreed x.tenancy x.cls).out := by
    have hcount : Only [.counters, .trace] u ((u.bump (0x0B00038 + 0x100 * x.tenancy) 1).traceWork x 1 r.status) :=
      ((u.bump_only _ _).mono rfl).trans ((State.traceWork_only _ _ _ _).mono rfl)
    rw [hcount .out (by decide)]
    exact (State.creditsFreed_handsOut _ _ _).out
  exact tail _

section
variable (hw : s.work w = some x)
include hw

theorem descriptorComplete_unfinished (hr : x.result = none) : Does (.descriptorComplete w) s [] (fun _ => True) := by
  refine Does.nothing rfl ?_
  unfold descriptorCompleteSt
  rw [hw]
  dsimp only
  rw [hr]

variable (hr : x.result = some r)
include hr

/-- A work with a result stays while a store of it is outstanding, and then leaves. -/
theorem descriptorCompleteSt_eq : descriptorCompleteSt w s =
    if s.allVisible w = false then s
    else match x.origin with
      | some o => ((s.dropWork w).answerForward x o r).creditsFreed x.tenancy x.cls
      | none => s.ringCompleted w x r := by
  unfold descriptorCompleteSt
  rw [hw]
  dsimp only
  rw [hr]
  rfl

theorem descriptorComplete_outstanding (hv : s.allVisible w = false) : Does (.descriptorComplete w) s [] (fun _ => True) :=
  Does.nothing rfl ((descriptorCompleteSt_eq hw hr).trans (if_pos hv))

/-- A work with a result, all of whose stores are acknowledged, leaves and does not come back. -/
theorem descriptorComplete_does (hv : s.allVisible w = true) (hn : w < s.nextWork) :
    Does (.descriptorComplete w) s completeParts (fun t => t.work w = none ∧
      (x.origin = none → sends s (s.ring x.ring).port → s.out ++ completionOut (s.ring x.ring) x.desc r s.time.now <+: t.out)) := by
  have gone {t : State} (ht : Numbered (s.dropWork w) t) : t.work w = none :=
    ht.absent (s.dropWork_work w) (by rwa [State.dropWork_next])
  have e := (descriptorCompleteSt_eq hw hr).trans (if_neg (by simp [hv]))
  cases ho : x.origin with
  | none =>
    rw [ho] at e
    exact Does.of_eq rfl e (s.ringCompleted_only w x r) ⟨gone (s.ringCompleted_numbered w x r), fun _ hs => State.ringCompleted_out hs r⟩
  | some o =>
    rw [ho] at e
    have hcredits := State.creditsFreed_handsOut ((s.dropWork w).answerForward x o r) x.tenancy x.cls
    refine Does.of_eq rfl e ?_ ⟨gone ((State.answerForward_numbered _ _ _ _).trans hcredits.numbered), nofun⟩
    exact (((s.dropWork_only w).mono rfl).trans ((State.answerForward_only _ _ _ _).mono rfl)).trans (hcredits.only.mono rfl)

end
end

/-- What a completion sends lies together in everything sent. -/
theorem completionOut_sent {q : Ring} {d : Bytes} {r : Result} {now : Nat} {pre out : List Output}
    (h : pre ++ completionOut q d r now <+: out) :
    let entry : Output := .dma q.port q.pasid (q.cqBase + 32 * q.cqTail) (completion d r q.phase now)
    if bit (fld d 1 1) 0 then [entry, .msix q.port q.msix] <:+: out else entry ∈ out := by
  have hsent : completionOut q d r now <:+: out := (List.suffix_append _ _).isInfix.trans h.isInfix
  unfold completionOut at hsent
  dsimp only
  split at hsent
  · rename_i hirq
    rwa [if_pos hirq]
  · rename_i hirq
    rw [if_neg hirq]
    exact hsent.subset List.mem_cons_self

/-- Settles O17: what a completion touches is followed part by part, the outputs by what follows them, the work by its number. -/
theorem descriptorCompletes : Obligations.DescriptorCompletes := by
  intro w x s hw
  refine ⟨descriptorComplete_unfinished hw, fun r hr => ⟨descriptorComplete_outstanding hw hr, fun hv hn => ?_⟩⟩
  obtain ⟨t, ht, honly, hgone, hout⟩ := descriptorComplete_does hw hr hv hn
  exact ⟨t, ht, honly, hgone, fun ho hs => completionOut_sent (hout ho hs)⟩

end Sys2Proof.Machine
end

section
/-!
SUPPORT. The management semaphore: what one write comes to, how a lapse is reported, and the statement of O19 put together from them.
-/

namespace Sys2Proof.Machine

/-! ### One write of MGMT_SEM (R142, R146, R665) -/

section
variable {s : State} {mp : MgmtPort}

theorem mpId_ne_zero (mp : MgmtPort) : mpId mp ≠ 0 := by cases mp <;> decide

theorem mpId_otherMp (mp : MgmtPort) : mpId (otherMp mp) ≠ 0 ∧ mpId (otherMp mp) ≠ mpId mp := by cases mp <;> decide

section
variable {v hw : Nat} (hflags : v &&& 0x310 = 0)
include hflags

/-- A write without flag bits only has its effect on HOLDER. -/
theorem State.semClear_none : s.semClear mp v hw = s := by
  unfold State.semClear
  rw [hflags]
  rfl

/-- The own id takes a free semaphore, or renews the lease (R142, R143). -/
theorem State.semWrite_take (hv : bits v 1 0 = mpId mp) (hh : s.sem.holder = 0 ∨ s.sem.holder = mpId mp) :
    s.semWrite mp v hw = { s with sem := { s.sem with holder := mpId mp, lease := 1000000000 } } := by
  have hfree : ¬ (s.sem.holder ≠ 0 ∧ s.sem.holder ≠ mpId mp) := by tauto
  unfold State.semWrite
  rw [if_neg (by simp [hv, hfree]), State.semClear_none hflags]
  unfold State.semHolder
  rw [if_pos hv, if_pos hh]
  rfl

/-- The holder's 0 releases the semaphore. -/
theorem State.semWrite_release (hv : bits v 1 0 = 0) (hh : s.sem.holder = mpId mp) :
    s.semWrite mp v hw = { s with sem := { s.sem with holder := 0, lease := 0 } } := by
  have hid := mpId_ne_zero mp
  unfold State.semWrite
  rw [if_neg (by simp [hv, hh, hid]), State.semClear_none hflags]
  unfold State.semHolder
  rw [hv, if_neg hid.symm, if_pos rfl, hh, if_neg hid, if_pos rfl]

/-- A 0 written to a free semaphore. -/
theorem State.semWrite_free (hv : bits v 1 0 = 0) (hh : s.sem.holder = 0) : s.semWrite mp v hw = s := by
  have hid := mpId_ne_zero mp
  unfold State.semWrite
  rw [if_neg (by simp [hv, hh, hid]), State.semClear_none hflags]
  unfold State.semHolder
  rw [hv, if_neg hid.symm, if_pos rfl, if_pos hh]

end

/-- Neither the own id nor 0. -/
theorem State.semWrite_value {v : Nat} (h0 : bits v 1 0 ≠ 0) (hv : bits v 1 0 ≠ mpId mp) (hw : Nat) : s.semWrite mp v hw = s.semError mp :=
  if_pos (.inl ⟨hv.symm, fun h => h0 h.1⟩)

/-- Any write while the other port holds the semaphore. -/
theorem State.semWrite_held (hh : s.sem.holder = mpId (otherMp mp)) (v hw : Nat) : s.semWrite mp v hw = s.semError mp := by
  obtain ⟨hid, hne⟩ := mpId_otherMp mp
  have hnot : s.sem.holder ≠ 0 ∧ s.sem.holder ≠ mpId mp := hh ▸ ⟨hid, hne⟩
  refine if_pos ?_
  by_cases hv : mpId mp = bits v 1 0
  · exact .inr ⟨hv, hnot⟩
  · exact .inl ⟨hv, fun h => h.2.elim hnot.1 hnot.2⟩

theorem mgmtSemWriteSt_alone (hp : s.power.perst = false) (value hw : Reg) :
    mgmtSemWriteSt mp value none hw s = s.semWrite mp value.toNat hw.toNat := if_neg (by simp [hp])

/-- A write that is a semaphore error alone. -/
theorem mgmtSemWrite_error {value hw : Reg} (hp : s.power.perst = false) (e : s.semWrite mp value.toNat hw.toNat = s.semError mp) :
    Does (.mgmtSemWrite mp value ⟨none, hw⟩) s [.out, .regs, .counters] (fun t => t = s.semError mp ∧ t.flag 0x0010000 (7 + mpId mp) = true) :=
  Does.of_eq rfl ((mgmtSemWriteSt_alone hp value hw).trans e) (s.semError_only mp) ⟨rfl, s.flag_semError mp⟩

/-! ### Ties (R144) -/

/-- The port that TIE_NEXT names. -/
def Sem.winner (x : Sem) : MgmtPort := if x.tieNext = 0 then .a else .b

/-- The state after a tie that a port has won: it holds the semaphore, TIE_NEXT names the other, whose write was an error. -/
def State.tied (s : State) (win : MgmtPort) : State :=
  ({ s with sem := { s.sem with holder := mpId win, lease := 1000000000, tieNext := 2 - mpId win } } : State).semError (otherMp win)

theorem State.tied_only (s : State) (win : MgmtPort) : Only [.out, .sem, .regs, .counters] s (s.tied win) :=
  ((s.sem_only _).mono rfl).trans ((State.semError_only _ _).mono rfl)

theorem State.tied_sem (s : State) (win : MgmtPort) :
    (s.tied win).sem = { s.sem with holder := mpId win, lease := 1000000000, tieNext := 2 - mpId win } :=
  ((State.semError_only _ (otherMp win)) .sem (by decide)).symm

/-- The winner takes the semaphore and then the other port's write finds it held. -/
theorem State.semWrite_tie {win : MgmtPort} {v hw : Nat} (hh : s.sem.holder = 0) (hflags : v &&& 0x310 = 0) (hv : bits v 1 0 = mpId win) (l k : Nat) :
    ({ s.semWrite win v hw with sem := { (s.semWrite win v hw).sem with tieNext := 2 - mpId win } } : State).semWrite (otherMp win) l k = s.tied win := by
  have hback : otherMp (otherMp win) = win := by cases win <;> rfl
  rw [State.semWrite_take hflags hv (.inl hh), State.semWrite_held (by rw [hback])]
  rfl

theorem mgmtSemWriteSt_tie {v w : Reg} (hp : s.power.perst = false) (hh : s.sem.holder = 0) (hvf : v.toNat &&& 0x310 = 0)
    (hwf : w.toNat &&& 0x310 = 0) (hv : bits v.toNat 1 0 = 1) (hw : bits w.toNat 1 0 = 2) (hset : Reg) :
    mgmtSemWriteSt .a v (some w) hset s = s.tied s.sem.winner := by
  unfold mgmtSemWriteSt Sem.winner
  rw [if_neg (by simp [hp])]
  dsimp only
  rw [if_pos ⟨hv, hw, hh⟩]
  by_cases ht : s.sem.tieNext = 0
  · rw [if_pos ht]
    exact State.semWrite_tie (win := .a) hh hvf hv _ _
  · rw [if_neg ht]
    exact State.semWrite_tie (win := .b) hh hwf hw _ _

theorem mgmtSemWrite_tie {v w : Reg} (hset : Reg) (hp : s.power.perst = false) (hh : s.sem.holder = 0) (hvf : v.toNat &&& 0x310 = 0)
    (hwf : w.toNat &&& 0x310 = 0) (hv : bits v.toNat 1 0 = 1) (hw : bits w.toNat 1 0 = 2) :
    Does (.mgmtSemWrite .a v ⟨some w, hset⟩) s [.out, .sem, .regs, .counters] (fun t =>
      (s.sem.tieNext = 0 → t.sem.holder = 1 ∧ t.sem.tieNext = 1 ∧ t.flag 0x0010000 9 = true) ∧
      (s.sem.tieNext ≠ 0 → t.sem.holder = 2 ∧ t.sem.tieNext = 0 ∧ t.flag 0x0010000 8 = true)) := by
  refine Does.of_eq rfl (mgmtSemWriteSt_tie hp hh hvf hwf hv hw hset) (s.tied_only _) ⟨fun ht => ?_, fun ht => ?_⟩
  · have hwin : s.sem.winner = .a := if_pos ht
    rw [hwin, s.tied_sem]
    exact ⟨rfl, rfl, State.flag_semError _ .b⟩
  · have hwin : s.sem.winner = .b := if_neg ht
    rw [hwin, s.tied_sem]
    exact ⟨rfl, rfl, State.flag_semError _ .a⟩

/-! ### Lapses (R143) -/

theorem State.semLapse_only (s : State) : Only [.out, .sem, .regs] s s.semLapse := ((s.sem_only _).mono rfl).trans ((State.setFlag_only _ _ _).mono rfl)

theorem State.semLapse_lapsed (s : State) : s.semLapse.sem.holder = 0 ∧ s.semLapse.flag 0x0010000 4 = true := by
  have hsem : s.semLapse.sem = { s.sem with holder := 0, lease := 0 } := ((State.setFlag_only _ _ _) .sem (by decide)).symm
  exact ⟨by rw [hsem], State.flag_setFlag_same _ _ (by decide)⟩

theorem semLeaseExpire_due (hh : s.sem.holder ≠ 0) (hl : s.sem.lease = 0) :
    Does .semLeaseExpire s [.out, .sem, .regs] (fun t => t.sem.holder = 0 ∧ t.flag 0x0010000 4 = true) :=
  Does.of_eq rfl (if_pos ⟨hh, hl⟩) s.semLapse_only s.semLapse_lapsed

theorem semLeaseExpire_early (hl : s.sem.lease ≠ 0) : Does .semLeaseExpire s [] (fun _ => True) := Does.nothing rfl (if_neg (fun h => hl h.2))

/-- A management port's link marked down. -/
def State.mgmtDown (s : State) : MgmtPort → State
  | .a => { s with power := { s.power with linkA := false } }
  | .b => { s with power := { s.power with linkB := false } }

theorem State.mgmtDown_only (s : State) (mp : MgmtPort) : Only [.power] s (s.mgmtDown mp) := by
  cases mp
  · exact s.power_only _
  · exact s.power_only _

theorem mgmtLinkDownSt_eq (mp : MgmtPort) (s : State) :
    mgmtLinkDownSt mp s = if s.holdsSem mp then (s.mgmtDown mp).semLapse else s.mgmtDown mp := by
  cases mp <;> rfl

theorem mgmtLinkDown_holder (h : s.holdsSem mp = true) :
    Does (.mgmtLinkDown mp) s [.out, .power, .sem, .regs] (fun t => t.sem.holder = 0 ∧ t.flag 0x0010000 4 = true) :=
  Does.of_eq rfl ((mgmtLinkDownSt_eq mp s).trans (if_pos h))
    (((s.mgmtDown_only mp).mono rfl).trans ((State.semLapse_only _).mono rfl)) (State.semLapse_lapsed _)

theorem mgmtLinkDown_other (h : s.holdsSem mp = false) : Does (.mgmtLinkDown mp) s [.power] (fun _ => True) :=
  Does.of_eq rfl ((mgmtLinkDownSt_eq mp s).trans (if_neg (by simp [h]))) (s.mgmtDown_only mp) trivial

end

/-- Settles O19: by the value written and the holder, and by what lets the semaphore lapse. -/
theorem semaphore : Obligations.Semaphore := by
  refine ⟨fun mp value hw s hp hf => ⟨fun hv hh => ?_, fun hv hh => ?_, fun hv hh => ?_, fun h0 hv => ?_, fun hh => ?_⟩,
    fun s => semLeaseExpire_due, fun s => semLeaseExpire_early, fun mp s => ⟨mgmtLinkDown_holder, mgmtLinkDown_other⟩,
    fun v w hw s hp hh hvf hwf hv hw' => mgmtSemWrite_tie hw hp hh hvf hwf hv hw'⟩
  · exact Does.of_eq rfl ((mgmtSemWriteSt_alone hp value hw).trans (State.semWrite_take hf hv hh)) (s.sem_only _) rfl
  · exact Does.of_eq rfl ((mgmtSemWriteSt_alone hp value hw).trans (State.semWrite_release hf hv hh)) (s.sem_only _) rfl
  · exact Does.nothing rfl ((mgmtSemWriteSt_alone hp value hw).trans (State.semWrite_free hf hv hh))
  · exact mgmtSemWrite_error hp (State.semWrite_value h0 hv _)
  · exact mgmtSemWrite_error hp (State.semWrite_held hh _ _)

end Sys2Proof.Machine
end

section
/-!
SUPPORT. Doorbells, ring errors, the end of a drain and the head shadow: one law per case, and the statement of O14 put together from them.
-/

namespace Sys2Proof.Machine

section
variable {s : State}

/-! ### A ring that fails (R104) -/

/-- What is said of a ring that has entered ERROR. -/
def State.failedWith (t : State) (ring cause : Nat) : Prop :=
  (t.ring ring).state = .error ∧ (t.ring ring).cause = cause ∧ t.ringErr = ring ∧ t.flag 0x0080048 8 = true

theorem State.ringFail_failed {ring : Nat} (h : (s.ring ring).state = .enabled ∨ (s.ring ring).state = .draining) (cause : Nat) :
    (s.ringFail ring cause).failedWith ring cause := by
  have e : s.ringFail ring cause =
      ({ s.setRing ring { s.ring ring with state := .error, cause, fetched := [] } with ringErr := ring } : State).setFlag 0x0080048 8 := by
    unfold State.ringFail
    rcases h with h | h <;> (dsimp only; rw [h])
  have hset (u : State) := u.setFlag_only 0x0080048 8
  have hring : (s.ringFail ring cause).ring ring = { s.ring ring with state := .error, cause, fetched := [] } := by
    rw [e]
    exact (State.ring_congr (hset _ .rings (by decide)) ring).trans ((s.ring_setRing _ _ _).trans (if_pos rfl))
  refine ⟨by rw [hring], by rw [hring], ?_, ?_⟩
  · rw [e]
    exact (hset _ .ringErr (by decide)).symm
  · rw [e]
    exact State.flag_setFlag_same _ _ (by decide)

theorem State.ringFail_again {ring : Nat} (h : (s.ring ring).state = .error) (cause : Nat) :
    s.ringFail ring cause = s.setFlag 0x0080048 8 := by
  unfold State.ringFail
  dsimp only
  rw [h]

/-- RING_ERROR's cause (R480). -/
theorem ringErrorSt_eq (ring : Nat) (why : RingFault) (s : State) :
    ringErrorSt ring why s = s.ringFail ring (if why = .translation then 2 else 3) := by
  cases why <;> rfl

theorem ringError_fails {ring : Nat} {why : RingFault} (h : (s.ring ring).state = .enabled ∨ (s.ring ring).state = .draining) :
    Does (.ringError ring why) s [.out, .regs, .rings, .ringErr] (fun t => t.failedWith ring (if why = .translation then 2 else 3)) :=
  Does.of_eq rfl (ringErrorSt_eq ring why s) (s.ringFail_only _ _) (State.ringFail_failed h _)

theorem ringError_again {ring : Nat} {why : RingFault} (h : (s.ring ring).state = .error) :
    Does (.ringError ring why) s [.out, .regs] (fun t => t.flag 0x0080048 8 = true) :=
  Does.of_eq rfl ((ringErrorSt_eq ring why s).trans (State.ringFail_again h _)) (s.setFlag_only _ _) (s.flag_setFlag_same _ (by decide))

/-! ### Doorbells (R98–R101) -/

/-- The submission entries that a new tail covers (R101). -/
def Ring.covered (r : Ring) (v : Nat) : Nat := (v + 2 ^ r.sqLog2 - r.sqTail) % 2 ^ r.sqLog2

/-- A ring whose tail has moved, with the entries read for it. -/
def Ring.tailTo (r : Ring) (v : Nat) (entries : List Bytes) : Ring :=
  { r with sqTail := v, fetched := r.fetched ++ (List.range (r.covered v)).map (fun i => slice (entries.getD i []) 0 64) }

/-- The requests that a new tail sends. -/
def Ring.fetches (r : Ring) (ring v : Nat) : List Output := fetchRequests ring (2 ^ r.sqLog2) (r.covered v) r.sqTail (r.covered v)

/-- A write of an index that is not below the queue's size (R104). -/
theorem index_beyond {c : Instr} {t : State} {ring : Nat} {y : Ring} (h : y.state = .enabled ∨ y.state = .draining)
    (he : exec c s = .next t) (e : t = (s.setRing ring y).ringFail ring 1) :
    Does c s [.out, .regs, .rings, .ringErr] (fun t => t.failedWith ring 1) := by
  have hy : (s.setRing ring y).ring ring = y := (s.ring_setRing _ _ _).trans (if_pos rfl)
  exact Does.of_eq he e (((s.setRing_only _ _).mono rfl).trans (State.ringFail_only _ _ _)) (State.ringFail_failed (by rwa [hy]) 1)

section
variable {port ring v size : Nat} {entries : List Bytes} (hopen : doorbellOpen s port ring)
include hopen

/-- On the ring's own port a write reaches the doorbell if it has 4 bytes and the ring is not DISABLED. -/
theorem State.doorbell_open (size : Nat) (f : Ring → State → State) : s.doorbell port ring size f =
    if size ≠ 4 then s.undecoded port else if (s.ring ring).state = .disabled then s else f (s.ring ring) s := by
  obtain ⟨hport, hconf, hown, hide⟩ := hopen
  unfold State.doorbell
  rw [State.arrive_of hport.1 hport.2]
  dsimp only
  rw [hide, hconf, hown, if_neg Bool.false_ne_true]
  simp

theorem State.doorbell_served (hon : (s.ring ring).state ≠ .disabled) (f : Ring → State → State) :
    s.doorbell port ring 4 f = f (s.ring ring) s :=
  (State.doorbell_open hopen 4 f).trans ((if_neg (by simp)).trans (if_neg hon))

theorem State.doorbell_disabled (hoff : (s.ring ring).state = .disabled) (f : Ring → State → State) : s.doorbell port ring 4 f = s :=
  (State.doorbell_open hopen 4 f).trans ((if_neg (by simp)).trans (if_pos hoff))

theorem State.doorbell_size (hsize : size ≠ 4) (f : Ring → State → State) : s.doorbell port ring size f = s.emit (.undecoded (.port port)) :=
  (State.doorbell_open hopen size f).trans (if_pos hsize)

/-- A port that carries traffic sends. -/
theorem doorbellOpen.sends : sends s port := by
  obtain ⟨⟨hcarries, -⟩, -⟩ := hopen
  simp only [State.carries, Bool.and_eq_true, decide_eq_true_eq, bne_iff_ne, Bool.not_eq_true'] at hcarries
  obtain ⟨⟨⟨⟨⟨hready, -⟩, hclass⟩, hheld⟩, hup⟩, -⟩ := hcarries
  exact ⟨hready, hheld, hclass, hup⟩

theorem doorbell_undecoded {c : Instr} {f : Ring → State → State} (hsize : size ≠ 4) (he : exec c s = .next (s.doorbell port ring size f)) :
    Does c s [.out] (fun t => t.out = s.out ++ [Output.undecoded (.port port)]) :=
  Does.emits he (State.doorbell_size hopen hsize f) (s.emit_port rfl hopen.sends)

variable (hv : v < 2 ^ 32)
include hv

/-- The write of SQ_TAIL on a ring in service, by the value written. -/
theorem sqTailWriteSt_open (hon : (s.ring ring).state ≠ .disabled) : sqTailWriteSt port ring 4 v entries s =
    if v = (s.ring ring).sqTail then s
    else if 2 ^ (s.ring ring).sqLog2 ≤ v then
      if (s.ring ring).state = .error then s.ringFail ring 1 else (s.setRing ring { s.ring ring with sqTail := v }).ringFail ring 1
    else if (s.ring ring).state = .enabled then
      (((s.ring ring).fetches ring v).foldl State.emit s).setRing ring ((s.ring ring).tailTo v entries)
    else s.setRing ring { s.ring ring with sqTail := v } := by
  refine (State.doorbell_served hopen hon _).trans ?_
  dsimp only
  rw [Nat.mod_eq_of_lt hv]
  rfl

theorem cqHeadWriteSt_open (hon : (s.ring ring).state ≠ .disabled) : cqHeadWriteSt port ring 4 v s =
    if v = (s.ring ring).cqHead then s
    else if 2 ^ (s.ring ring).cqLog2 ≤ v then
      if (s.ring ring).state = .error then s.ringFail ring 1 else (s.setRing ring { s.ring ring with cqHead := v }).ringFail ring 1
    else s.setRing ring { s.ring ring with cqHead := v } := by
  refine (State.doorbell_served hopen hon _).trans ?_
  dsimp only
  rw [Nat.mod_eq_of_lt hv]

theorem sqTailWrite_moves (hen : (s.ring ring).state = .enabled) (hlt : v < 2 ^ (s.ring ring).sqLog2) (hne : v ≠ (s.ring ring).sqTail) :
    Does (.sqTailWrite port ring 4 v entries) s [.out, .rings] (fun t => (t.ring ring).sqTail = v ∧ (t.ring ring).state = .enabled ∧
      (t.ring ring).sqHead = (s.ring ring).sqHead ∧ (t.ring ring).fetched.length = (s.ring ring).fetched.length +
        (v + 2 ^ (s.ring ring).sqLog2 - (s.ring ring).sqTail) % 2 ^ (s.ring ring).sqLog2 ∧ (∀ r, r ≠ ring → t.ring r = s.ring r)) := by
  have e := (sqTailWriteSt_open (entries := entries) hopen hv (by simp [hen])).trans
    ((if_neg hne).trans ((if_neg (by omega)).trans (if_pos hen)))
  have hemit : Only [.out] s (((s.ring ring).fetches ring v).foldl State.emit s) := Only.foldl (fun u o => u.emit_only o) _ s
  generalize ((s.ring ring).fetches ring v).foldl State.emit s = u at e hemit
  have hsame : (u.setRing ring ((s.ring ring).tailTo v entries)).ring ring = (s.ring ring).tailTo v entries :=
    (u.ring_setRing _ _ _).trans (if_pos rfl)
  refine Does.of_eq rfl e ((hemit.mono rfl).trans ((State.setRing_only _ _ _).mono rfl)) ?_
  rw [hsame]
  refine ⟨rfl, hen, rfl, ?_, fun r hr => ?_⟩
  · simp [Ring.tailTo, Ring.covered]
  · exact (u.ring_setRing _ _ _).trans ((if_neg hr).trans (State.ring_congr (hemit .rings (by decide)) r))

theorem cqHeadWrite_moves (hen : (s.ring ring).state = .enabled) (hlt : v < 2 ^ (s.ring ring).cqLog2) :
    Does (.cqHeadWrite port ring 4 v) s [.rings] (fun t => (t.ring ring) = { s.ring ring with cqHead := v } ∧
      (∀ r, r ≠ ring → t.ring r = s.ring r)) := by
  have hopened := cqHeadWriteSt_open hopen hv (by simp [hen])
  by_cases hv' : v = (s.ring ring).cqHead
  · exact Does.of_eq rfl (hopened.trans (if_pos hv')) (Only.refl _ s) ⟨by rw [hv'], fun _ _ => rfl⟩
  · refine Does.of_eq rfl (hopened.trans ((if_neg hv').trans (if_neg (by omega)))) (s.setRing_only _ _)
      ⟨(s.ring_setRing _ _ _).trans (if_pos rfl), fun r hr => (s.ring_setRing _ _ _).trans (if_neg hr)⟩

section
variable (hon : (s.ring ring).state = .enabled ∨ (s.ring ring).state = .draining)
include hon

theorem sqTailWrite_beyond (hge : 2 ^ (s.ring ring).sqLog2 ≤ v) (hne : v ≠ (s.ring ring).sqTail) :
    Does (.sqTailWrite port ring 4 v entries) s [.out, .regs, .rings, .ringErr] (fun t => t.failedWith ring 1) := by
  have hoff : (s.ring ring).state ≠ .disabled ∧ (s.ring ring).state ≠ .error := by rcases hon with h | h <;> simp [h]
  exact index_beyond (y := { s.ring ring with sqTail := v }) hon rfl
    ((sqTailWriteSt_open hopen hv hoff.1).trans ((if_neg hne).trans ((if_pos hge).trans (if_neg hoff.2))))

theorem cqHeadWrite_beyond (hge : 2 ^ (s.ring ring).cqLog2 ≤ v) (hne : v ≠ (s.ring ring).cqHead) :
    Does (.cqHeadWrite port ring 4 v) s [.out, .regs, .rings, .ringErr] (fun t => t.failedWith ring 1) := by
  have hoff : (s.ring ring).state ≠ .disabled ∧ (s.ring ring).state ≠ .error := by rcases hon with h | h <;> simp [h]
  exact index_beyond (y := { s.ring ring with cqHead := v }) hon rfl
    ((cqHeadWriteSt_open hopen hv hoff.1).trans ((if_neg hne).trans ((if_pos hge).trans (if_neg hoff.2))))

end
end

/-! ### The end of a drain and the head shadow (R97, R102) -/

section
variable {ring : Nat}

theorem ringDrainEnd_ends (hd : (s.ring ring).state = .draining) (hb : s.ringBusy ring = false) :
    Does (.ringDrainEnd ring) s [.rings] (fun t => t.ring ring = { s.ring ring with state := .disabled }) :=
  Does.of_eq rfl (if_pos ⟨hd, hb⟩) (s.setRing_only _ _) ((s.ring_setRing _ _ _).trans (if_pos rfl))

theorem ringDrainEnd_busy (hb : s.ringBusy ring = true) : Does (.ringDrainEnd ring) s [] (fun _ => True) :=
  Does.nothing rfl (if_neg (by simp [hb]))

theorem headShadowWrite_due (hdue : (s.ring ring).shadowDue = true) (haddr : (s.ring ring).headShadow ≠ 0)
    (hslot : (s.ring ring).shadowSlot ≠ s.time.now / 256 + 1) (hs : sends s (s.ring ring).port) :
    Does (.headShadowWrite ring) s [.out, .rings] (fun t => (t.ring ring).shadowDue = false ∧
      t.out = s.out ++ [Output.dma (s.ring ring).port (s.ring ring).pasid (s.ring ring).headShadow (toLe 4 (s.ring ring).sqHead)]) := by
  let u : State := s.setRing ring { s.ring ring with shadowDue := false, shadowSlot := s.time.now / 256 + 1 }
  have hu : Only [.rings] s u := s.setRing_only _ _
  have e : headShadowWriteSt ring s =
      u.emit (.dma (s.ring ring).port (s.ring ring).pasid (s.ring ring).headShadow (toLe 4 (s.ring ring).sqHead)) :=
    if_pos (by simp [hdue, haddr, hslot])
  refine Does.of_eq rfl e ((hu.mono rfl).trans ((u.emit_only _).mono rfl)) ⟨?_, congrArg State.out (u.emit_port rfl (hu.sends rfl hs))⟩
  rw [State.emit_ring, State.ring_setRing, if_pos rfl]

theorem headShadowWrite_none (haddr : (s.ring ring).headShadow = 0) : Does (.headShadowWrite ring) s [] (fun _ => True) :=
  Does.nothing rfl (if_neg (by simp [haddr]))

end
end

/-- Settles O14: by the ring's state and the value written, and by the occasion of each event of a ring. -/
theorem doorbellsErrorsAndShadows : Obligations.DoorbellsErrorsAndShadows := by
  refine ⟨fun port ring v size entries s hopen hv => ⟨?_, ?_, fun hon => ⟨?_, ?_⟩, fun hoff => ⟨?_, ?_⟩, fun hsize _ => ⟨?_, ?_⟩⟩,
    fun ring why s => ⟨ringError_fails, ringError_again, ringDrainEnd_ends, ringDrainEnd_busy, headShadowWrite_due, headShadowWrite_none⟩⟩
  · exact sqTailWrite_moves hopen hv
  · exact cqHeadWrite_moves hopen hv
  · exact sqTailWrite_beyond hopen hv hon
  · exact cqHeadWrite_beyond hopen hv hon
  · exact Does.nothing rfl (State.doorbell_disabled hopen hoff _)
  · exact Does.nothing rfl (State.doorbell_disabled hopen hoff _)
  · exact doorbell_undecoded hopen hsize rfl
  · exact doorbell_undecoded hopen hsize rfl

end Sys2Proof.Machine
end

section
/-!
SUPPORT. The refutation of O18: MODIFY with another PASID ends the stalled accesses of the context (R500), and with them what their works
still waited for at a unit.
-/

namespace Sys2Proof.Machine

/-- A translation fault of work 5 of context 0, which stalls. -/
def stalledFault : FaultRec :=
  { tenancy := 1, port := 0, id := 0, w := 5, ctx := 0, addr := 0, write := false, run := false, cell := 0, cause := .notPresent, level := 0
    time := 0, frame := 0, batched := false, posted := true, prg := none, logIdx := none }

/-- A device whose semaphore port .a holds, with context 0 ACTIVE under a PASID other than the image's 0, and a work of it that has a stalled
fault and an access that waits for a unit. -/
def stalledContext : State :=
  { State.reset with
    sem := { State.reset.sem with holder := 1 }
    ctxs := [(0, { Ctx.free with state := 1, tenancy := 1, pasid := 1 })]
    faults := [stalledFault]
    slots := { State.reset.slots with waits := [{ w := 5, cell := 0, tenancy := 1, unit := 0, served := false }] } }

theorem stalledContext_ready : ready stalledContext .a .ctx := by decide +kernel

theorem stalledContext_waits : (ctxModifySt .a 0 stalledContext).slots.waits ≠ stalledContext.slots.waits := by decide +kernel

/-- Refutes O18: the statement lets MODIFY change nothing of the accesses that wait for units, but a change of the PASID ends the works with a
stalled fault of the context, and their waiting accesses go with them. -/
theorem not_contextAndRingStates : ¬ Obligations.ContextAndRingStates := by
  unfold Obligations.ContextAndRingStates
  rintro ⟨hctx, -⟩
  obtain ⟨-, hmodify, -⟩ := hctx .a 0 stalledContext stalledContext_ready
  obtain ⟨t, ht, honly, -⟩ := hmodify rfl
  have hwaits : stalledContext.slots.waits = t.slots.waits := honly .waits (by decide)
  exact stalledContext_waits ((congrArg (fun u : State => u.slots.waits) (Host.Outcome.next.inj ht)).trans hwaits.symm)

end Sys2Proof.Machine
end

section
/-!
SUPPORT. O54: standard requests, each by the law of its path: what a management port answers, what a data port drops, and what Owl's
mailbox commands keep (R124, R141, R146, R614–R616, R680, R701).
-/

namespace Sys2Proof.Machine

/-! ### Answers -/

section
variable (s : State) (port : PortRef) (code : Nat) (b : Bytes)

/-- An answer to a standard request always leaves. -/
theorem State.emit_reply : s.emit (.reply port code b) = { s with out := s.out ++ [.reply port code b] } := s.emit_free rfl

variable {s port code b} {c : Instr} {t : State}

/-- A command that answers a standard request and does nothing else. -/
theorem Does.replies (he : exec c s = .next t) (e : t = s.emit (.reply port code b)) :
    Does c s [.out] (fun t => t.out = s.out ++ [.reply port code b]) := Does.emits he e (s.emit_reply port code b)

/-- A command that is a semaphore error, and is answered so. -/
theorem Does.refuses {mp : MgmtPort} (he : exec c s = .next t) (e : t = (s.semError mp).emit (.reply port code b)) :
    Does c s [.out, .regs, .counters] (fun t => Output.reply port code b ∈ t.out) := by
  refine Does.of_eq he e ((s.semError_only mp).trans ((State.emit_only _ _).mono rfl)) ?_
  rw [State.emit_reply]
  exact List.mem_append_right _ (List.mem_singleton_self _)

end

/-! ### Management ports -/

section
variable {s : State} {mp : MgmtPort}

theorem State.mgmtAnswers_of (hp : s.power.perst = false) (ha : s.power.auxOk = true) : s.mgmtAnswers = true := by
  simp [State.mgmtAnswers, hp, ha]

theorem State.mgmtAnswers_perst (hp : s.power.perst = true) : s.mgmtAnswers = false := by simp [State.mgmtAnswers, hp]

theorem spdmRequestSt_booted (h : s.mgmtAnswers = true) (hb : s.bootFailed = false) (req : SpdmReq) :
    spdmRequestSt (.mgmt mp) req s = s.emit (.reply (.mgmt mp) (s.spdm false req).1 (s.spdm false req).2) := by
  simp [spdmRequestSt, h, hb]

/-- After a failed boot mutual authentication is not even refused (R614). -/
theorem spdmRequestSt_mutualAuth_failed (hb : s.bootFailed = true) : spdmRequestSt (.mgmt mp) .mutualAuth s = s := by
  simp [spdmRequestSt, hb]

theorem spdmRequestSt_silent (h : s.mgmtAnswers = false) (req : SpdmReq) : spdmRequestSt (.mgmt mp) req s = s := by
  simp [spdmRequestSt, h]

theorem State.spdm_measurement {i : Nat} (h1 : 1 ≤ i) (h7 : i ≤ 7) (onPort : Bool) :
    s.spdm onPort (.getMeasurements i) = (0, s.measurement i) := if_pos (.inl ⟨h1, h7⟩)

/-- The set-up digest is not given through an H-port. -/
theorem State.spdm_setUpDigest_onPort : s.spdm true (.getMeasurements 0x10) = (4, []) := by simp [State.spdm]

theorem mctpMessageSt_refused (hp : s.power.perst = false) (ha : s.power.auxOk = true) (hn : s.holdsSem mp = false) :
    mctpMessageSt (.mgmt mp) true s = (s.semError mp).emit (.reply (.mgmt mp) 1 []) := by
  simp [mctpMessageSt, State.onMgmt, hp, ha, hn]

theorem mctpMessageSt_answered {change : Bool} (hp : s.power.perst = false) (ha : s.power.auxOk = true)
    (hs : change = true → s.holdsSem mp = true) :
    mctpMessageSt (.mgmt mp) change s = s.emit (.reply (.mgmt mp) 0 (Config.standardAnswer 7)) := by
  cases change with
  | false => simp [mctpMessageSt, State.onMgmt, ha]
  | true => simp [mctpMessageSt, State.onMgmt, ha, hp, hs rfl]

theorem pldmRequestSt_silent (h : s.mgmtAnswers = false) (req : PldmReq) : pldmRequestSt (.mgmt mp) req s = s := by
  simp [pldmRequestSt, State.onMgmt, h]

variable (h : s.mgmtAnswers = true)
include h

theorem pldmRequestSt_monitor (hb : s.bootFailed = false) (i : Nat) :
    pldmRequestSt (.mgmt mp) (.monitor i) s =
      s.emit (.reply (.mgmt mp) 0 (Config.sensor i s.power.maxC s.power.throttle s.svcCauses)) := by
  simp [pldmRequestSt, State.onMgmt, h, hb]

/-- A PLDM write of a register other than MGMT_SEM fails from a port without the semaphore. -/
theorem pldmRequestSt_control_refused (hb : s.bootFailed = false) (hn : s.holdsSem mp = false) {off : Nat} (ho : off ≠ semOff) (v : Reg) :
    pldmRequestSt (.mgmt mp) (.control off v) s = (s.semError mp).emit (.reply (.mgmt mp) 1 []) := by
  simp [pldmRequestSt, State.onMgmt, State.pldmControl, h, hb, hn, ho]

theorem pldmRequestSt_update_signed {image : Nat} (h2 : 2 ≤ image) (h5 : image ≤ 5) (svn : Nat) :
    pldmRequestSt (.mgmt mp) (.update image svn true) s =
      ({ s with owl := { s.owl with otherBank := tset s.owl.otherBank image svn } } : State).emit (.reply (.mgmt mp) 0 []) := by
  simp [pldmRequestSt, State.onMgmt, h, h2, h5]

theorem pldmRequestSt_update_unsigned (image svn : Nat) :
    pldmRequestSt (.mgmt mp) (.update image svn false) s = s.emit (.reply (.mgmt mp) 1 []) := by
  simp [pldmRequestSt, State.onMgmt, h]

/-- A signed image is kept for the other bank; the fused numbers stay. -/
theorem Does.updates {image : Nat} (h2 : 2 ≤ image) (h5 : image ≤ 5) (svn : Nat) :
    Does (.pldmRequest (.mgmt mp) (.update image svn true)) s [.out, .owl] (fun t => tget t.owl.otherBank image = some svn ∧
      t.owl.svn = s.owl.svn ∧ t.out = s.out ++ [.reply (.mgmt mp) 0 []]) := by
  refine Does.of_eq rfl ((pldmRequestSt_update_signed h h2 h5 svn).trans (State.emit_reply _ _ _ _)) ?_ ⟨tget_tset_same _ _ _, rfl, rfl⟩
  exact ((s.owl_only _).mono rfl).trans ((State.out_only _ _).mono rfl)

end

/-! ### Ports that take no such request (R124, R125) -/

section
variable {s : State} {c : Instr} {t : State} {p : Nat}

theorem State.onMgmt_drop (h : s.carries p = true) (f : MgmtPort → State → State) : s.onMgmt (.port p) f = s.classDrop p := if_pos h

/-- A request dropped for the class of its port is counted and reported. -/
theorem Does.drops (he : exec c s = .next t) (e : t = s.classDrop p) :
    Does c s [.out, .regs, .counters] (fun t => counted s t (portBase p + 0x30) ∧ t.flag (portBase p + 0x20) 9 = true) := by
  refine Does.of_eq he e (s.classDrop_only p) ⟨?_, ?_⟩
  · have hrest : Only [.out, .regs] (s.bump (portBase p + 0x30) 1) (s.classDrop p) :=
      (State.setFlag_only _ _ _).trans ((State.emit_only _ _).mono rfl)
    exact counted_congr (s.counted_bump _) (hrest .counters (by decide))
  · exact (State.flag_congr (State.emit_stored _ _ _) 9).trans (State.flag_setFlag_same _ _ (by decide))

/-- An H-port serves a request through its DOE mailbox (R616). -/
theorem spdmRequestSt_port (h : hostPort s p) (req : SpdmReq) :
    spdmRequestSt (.port p) req s = s.emit (.reply (.port p) (s.spdm true req).1 (s.spdm true req).2) :=
  State.arrive_of h.1 h.2 (fun s => s.emit (.reply (.port p) (s.spdm true req).1 (s.spdm true req).2))

end

/-! ### Owl's mailbox -/

section
variable (s : State) {mp : MgmtPort}

theorem State.mbox_only (r : Nat) : Only [.out, .regs, .owl] s (s.mbox r) :=
  ((s.owl_only _).mono rfl).trans ((State.setFlag_only _ _ _).mono rfl)

/-- A mailbox command leaves its result, and of the rest of Owl's state all as it was. -/
theorem State.mbox_owl (r : Nat) : (s.mbox r).owl = { s.owl with mboxResult := r } :=
  (State.setFlag_only { s with owl := { s.owl with mboxResult := r } } 0x0900008 1 .owl (by decide)).symm

theorem State.mbox_done (r : Nat) : (s.mbox r).flag 0x0900008 1 = true := State.flag_setFlag_same _ _ (by decide)

variable {s}

/-- ACTIVATE_SVN raises the fused number of its image to the one in use, never lowers it, and leaves every other. -/
theorem Does.activates {image : Nat} (hs : setUp s mp) (h2 : 2 ≤ image) (h5 : image ≤ 5) :
    Does (.activateSvn mp image) s [.out, .regs, .owl] (fun t => t.fusedSvn image = max (s.fusedSvn image) (s.imageSvn image) ∧
      (∀ k, k ≠ image → t.fusedSvn k = s.fusedSvn k) ∧ t.owl.mboxResult = 0 ∧ t.flag 0x0900008 1 = true) := by
  refine Does.of_eq rfl ((State.setup_of hs _).trans (if_pos ⟨h2, h5⟩)) (((s.owl_only _).mono rfl).trans (State.mbox_only _ 0))
    ⟨?_, fun k hk => ?_, congrArg Owl.mboxResult (State.mbox_owl _ 0), State.mbox_done _ 0⟩
  · unfold State.fusedSvn
    rw [State.mbox_owl]
    exact tgetD_tset_same _ _ _ _
  · unfold State.fusedSvn
    rw [State.mbox_owl]
    exact tgetD_tset_ne _ hk _ _

theorem Does.copiesMeasurements (hs : setUp s mp) :
    Does (.copyMeasurements mp) s [.out, .regs, .owl] (fun t => t.owl.mboxResult = 0 ∧ t.flag 0x0900008 1 = true ∧
      t.owl.mboxData = slice (([1, 2, 3, 4, 5, 6, 7, 0x10].map s.measurement).flatten) 0 4096) :=
  Does.of_eq rfl (State.setup_of hs _) (((s.owl_only _).mono rfl).trans (State.mbox_only _ 0))
    ⟨congrArg Owl.mboxResult (State.mbox_owl _ 0), State.mbox_done _ 0, congrArg Owl.mboxData (State.mbox_owl _ 0)⟩

end

/-- Settles O54: each clause is the law of its path. -/
theorem standardRequestsAreAnswered : Obligations.StandardRequestsAreAnswered := by
  unfold Obligations.StandardRequestsAreAnswered
  intro mp i p off image svn v s port
  refine ⟨fun hp ha => ?_, fun hp => ?_, fun hc => ?_, fun hh _ => ?_, Does.activates, Does.copiesMeasurements⟩
  · have h := State.mgmtAnswers_of hp ha
    refine ⟨fun hb h1 h7 => ?_, fun hb => Does.replies rfl (spdmRequestSt_booted h hb _),
      fun hb => Does.nothing rfl (spdmRequestSt_mutualAuth_failed hb), fun hb => Does.replies rfl (spdmRequestSt_booted h hb _),
      fun hn => Does.refuses rfl (mctpMessageSt_refused hp ha hn),
      fun hs => Does.replies rfl (mctpMessageSt_answered hp ha fun _ => hs),
      Does.replies rfl (mctpMessageSt_answered hp ha (by simp)),
      fun hb hn ho => Does.refuses rfl (pldmRequestSt_control_refused h hb hn ho v),
      fun hb => Does.replies rfl (pldmRequestSt_monitor h hb i), fun h2 h5 => Does.updates h h2 h5 svn,
      Does.replies rfl (pldmRequestSt_update_unsigned h image svn)⟩
    refine Does.replies rfl ((spdmRequestSt_booted h hb _).trans ?_)
    rw [State.spdm_measurement h1 h7]
  · have h := State.mgmtAnswers_perst hp
    exact ⟨Does.nothing rfl (spdmRequestSt_silent h _), Does.nothing rfl (pldmRequestSt_silent h _)⟩
  · exact ⟨Does.drops rfl (State.onMgmt_drop hc _), Does.drops rfl (State.onMgmt_drop hc _), Does.drops rfl (State.onMgmt_drop hc _),
      Does.drops rfl (if_pos hc)⟩
  · refine Does.replies rfl ((spdmRequestSt_port hh _).trans ?_)
    rw [State.spdm_setUpDigest_onPort]

end Sys2Proof.Machine
end

section
/-!
SUPPORT. Device memory as it is read, and the places Erord chooses: a write leaves every byte outside it, also where it zeroes a block that
the zero-on-first-touch table marks (R630), and a chosen place overlaps no storage in use (R713).
-/

namespace Sys2Proof.Machine

/-! ### Bytes outside a write -/

section
variable {s t u : State} {rs qs : List (Nat × Nat)} {ps : List Part}

theorem State.byteAt_eq (s : State) (a : Nat) : s.byteAt a = if s.firstTouchMarked a then 0 else memByte s.memory a := rfl

theorem memOnly.refl (s : State) (rs : List (Nat × Nat)) : memOnly s s rs := fun _ _ => rfl

theorem memOnly.trans (h : memOnly s t rs) (k : memOnly t u rs) : memOnly s u rs := fun a ha => (k a ha).trans (h a ha)

theorem memOnly.mono (h : memOnly s t rs) (hs : ∀ r ∈ rs, r ∈ qs) : memOnly s t qs := fun a ha => h a (fun r hr => ha r (hs r hr))

/-- What leaves memory and the marks of its blocks leaves every byte. -/
theorem memOnly.of_only (h : Only ps s t) (hm : Part.memory ∉ ps) (hf : Part.firstTouch ∉ ps) (rs : List (Nat × Nat)) : memOnly s t rs := by
  have hmem : s.memory = t.memory := h .memory hm
  have hmarks : s.firstTouch = t.firstTouch := h .firstTouch hf
  intro a _
  rw [State.byteAt_eq, State.byteAt_eq, ← hmem]
  unfold State.firstTouchMarked
  rw [hmarks]

theorem State.firstTouchMarked_iff (s : State) (x : Nat) : s.firstTouchMarked x = true ↔
    ∃ e ∈ s.firstTouch, (e.region = x / 2 ^ 48 ∧ e.granule = x % 2 ^ 48 / granule) ∧ x % granule / 4096 ∈ e.blocks := by
  simp only [State.firstTouchMarked, List.any_eq_true, Bool.and_eq_true, beq_iff_eq, List.contains_iff_mem]

/-- A 4 KiB block by its number, and by region, granule and place in the granule. -/
theorem block_eq_iff (x a : Nat) : x / 4096 = a / 4096 ↔
    (x / 2 ^ 48 = a / 2 ^ 48 ∧ x % 2 ^ 48 / granule = a % 2 ^ 48 / granule) ∧ x % granule / 4096 = a % granule / 4096 := by
  unfold granule
  omega

/-- A block is marked as a whole. -/
theorem State.firstTouchMarked_block (s : State) {x a : Nat} (h : x / 4096 = a / 4096) : s.firstTouchMarked x = s.firstTouchMarked a := by
  obtain ⟨⟨hr, hg⟩, hk⟩ := (block_eq_iff x a).mp h
  unfold State.firstTouchMarked
  rw [hr, hg, hk]

/-- A block cleared loses its mark, and no other block does. -/
theorem State.firstTouchMarked_clearBlock (s : State) (a x : Nat) :
    (s.clearBlock (a / 2 ^ 48) (a % 2 ^ 48 / granule) (a % granule / 4096)).firstTouchMarked x = true ↔
      s.firstTouchMarked x = true ∧ x / 4096 ≠ a / 4096 := by
  rw [State.firstTouchMarked_iff, State.firstTouchMarked_iff, ne_eq, block_eq_iff]
  simp only [State.clearBlock, List.mem_filter, List.mem_map]
  constructor
  · rintro ⟨_, ⟨⟨e, he, rfl⟩, -⟩, hplace, hk⟩
    by_cases hc : e.region = a / 2 ^ 48 ∧ e.granule = a % 2 ^ 48 / granule
    · rw [if_pos hc] at hplace hk
      obtain ⟨hk, hne⟩ := List.mem_filter.mp hk
      exact ⟨⟨e, he, hplace, hk⟩, fun h => by simp [h.2] at hne⟩
    · rw [if_neg hc] at hplace hk
      exact ⟨⟨e, he, hplace, hk⟩, fun h => hc ⟨hplace.1.trans h.1.1, hplace.2.trans h.1.2⟩⟩
  · rintro ⟨⟨e, he, hplace, hk⟩, hne⟩
    by_cases hc : e.region = a / 2 ^ 48 ∧ e.granule = a % 2 ^ 48 / granule
    · have hkeep : x % granule / 4096 ∈ e.blocks.filter (· != a % granule / 4096) :=
        List.mem_filter.mpr ⟨hk, by simpa using fun h => hne ⟨⟨hplace.1.symm.trans hc.1, hplace.2.symm.trans hc.2⟩, h⟩⟩
      refine ⟨{ e with blocks := e.blocks.filter (· != a % granule / 4096) }, ⟨⟨e, he, if_pos hc⟩, ?_⟩, hplace, hkeep⟩
      simpa using List.ne_nil_of_mem hkeep
    · exact ⟨e, ⟨⟨e, he, if_neg hc⟩, by simpa using List.ne_nil_of_mem hk⟩, hplace, hk⟩

/-- A write within one block, which a marked block first zeroes, changes no byte outside the bytes written. -/
theorem State.byteAt_writeBlock_out (s : State) {a x : Nat} {b : Bytes} (hx : x < a ∨ a + b.length ≤ x) :
    (s.writeBlock a b).byteAt x = s.byteAt x := by
  unfold State.writeBlock
  split
  · next hm =>
    rw [State.byteAt_eq, State.byteAt_eq]
    have hmem : memByte (((s.zero (a / 4096 * 4096) 4096).clearBlock (a / 2 ^ 48) (a % 2 ^ 48 / granule) (a % granule / 4096)).write a b).memory x =
        if x / 4096 = a / 4096 then 0 else memByte s.memory x := by
      refine (memByte_memWrite_out _ b hx).trans ((memByte_memZero s.memory _ _ _).trans ?_)
      congr 1
      exact propext (by omega)
    have hmark : (((s.zero (a / 4096 * 4096) 4096).clearBlock (a / 2 ^ 48) (a % 2 ^ 48 / granule) (a % granule / 4096)).write a b).firstTouchMarked x =
        true ↔ s.firstTouchMarked x = true ∧ x / 4096 ≠ a / 4096 := State.firstTouchMarked_clearBlock (s.zero (a / 4096 * 4096) 4096) a x
    rw [hmem]
    by_cases hb : x / 4096 = a / 4096
    · rw [if_pos hb, ite_self, s.firstTouchMarked_block hb, if_pos hm]
    · rw [if_neg hb]
      congr 1
      exact propext (hmark.trans (and_iff_left hb))
  · rw [State.byteAt_eq, State.byteAt_eq]
    exact congrArg (fun y => if s.firstTouchMarked x then 0 else y) (memByte_memWrite_out s.memory b hx)

theorem State.byteAt_writeLine_out (s : State) {a x : Nat} {b : Bytes} (hx : x < a ∨ a + b.length ≤ x) :
    (s.writeLine a b).byteAt x = s.byteAt x := by
  unfold State.writeLine
  split_ifs
  · rfl
  · exact State.byteAt_writeBlock_out { s with poison := s.poison.filter (· != lineOf a) } hx
  · rfl
  · exact s.byteAt_writeBlock_out hx

theorem State.byteAt_writeDev_out (s : State) {a x : Nat} {b : Bytes} (fuel : Nat) (hx : x < a ∨ a + b.length ≤ x) :
    (s.writeDev a b fuel).byteAt x = s.byteAt x := by
  induction fuel generalizing s a b with
  | zero => rfl
  | succ n ih =>
    unfold State.writeDev
    split_ifs
    · rfl
    · exact (ih _ (by rw [List.length_drop]; omega)).trans (s.byteAt_writeLine_out (by rw [List.length_take]; omega))

/-- Bytes stored in a range leave device memory outside it as it reads. -/
theorem State.put_memOnly (s : State) {a n : Nat} {b : Bytes} (hr : (a, n) ∈ rs) (hb : b.length ≤ n) : memOnly s (s.put a b) rs := by
  intro x hx
  have hout : x < a ∨ a + n ≤ x := hx _ hr
  exact s.byteAt_writeDev_out _ (by omega)

/-- No byte stored changes nothing. -/
theorem State.put_nil (s : State) (a : Nat) : s.put a [] = s := rfl

end

/-! ### Places chosen -/

section
variable {α : Type} {f : α → Nat} {lt : α → α → Bool}

theorem mem_insertBy {x y : α} {l : List α} : y ∈ insertBy lt x l ↔ y = x ∨ y ∈ l := by
  induction l with
  | nil => simp [insertBy]
  | cons z t ih =>
    unfold insertBy
    split
    · simp
    · rw [List.mem_cons, List.mem_cons, ih]
      tauto

theorem mem_sortBy {y : α} {l : List α} : y ∈ sortBy lt l ↔ y ∈ l := by
  have mem (acc : List α) : y ∈ l.foldl (fun acc x => insertBy lt x acc) acc ↔ y ∈ acc ∨ y ∈ l := by
    induction l generalizing acc with
    | nil => simp
    | cons z t ih =>
      rw [List.foldl_cons, ih, mem_insertBy, List.mem_cons]
      tauto
  exact (mem []).trans (by simp)

theorem pairwise_insertBy (x : α) {l : List α} (h : l.Pairwise (fun a b => f a ≤ f b)) :
    (insertBy (fun a b => decide (f a < f b)) x l).Pairwise (fun a b => f a ≤ f b) := by
  induction l with
  | nil => exact List.pairwise_singleton _ _
  | cons z t ih =>
    obtain ⟨hz, ht⟩ := List.pairwise_cons.mp h
    unfold insertBy
    split
    · next hlt =>
      have hxz : f x < f z := of_decide_eq_true hlt
      refine List.pairwise_cons.mpr ⟨fun y hy => ?_, h⟩
      obtain rfl | hy := List.mem_cons.mp hy
      · omega
      · have := hz y hy
        omega
    · next hle =>
      have hzx : ¬ f x < f z := fun hlt => hle (decide_eq_true hlt)
      refine List.pairwise_cons.mpr ⟨fun y hy => ?_, ih ht⟩
      obtain rfl | hy := mem_insertBy.mp hy
      · omega
      · exact hz y hy

theorem pairwise_sortBy (l : List α) : (sortBy (fun a b => decide (f a < f b)) l).Pairwise (fun a b => f a ≤ f b) := by
  have sorted (acc : List α) (h : acc.Pairwise (fun a b => f a ≤ f b)) :
      (l.foldl (fun acc x => insertBy (fun a b => decide (f a < f b)) x acc) acc).Pairwise (fun a b => f a ≤ f b) := by
    induction l generalizing acc with
    | nil => exact h
    | cons z t ih => exact ih _ (pairwise_insertBy z h)
  exact sorted [] List.Pairwise.nil

end

/-- A free part of a range overlaps none of the occupied ranges between which it lies. -/
theorem sweep_free {lo hi : Nat} {l : List (Nat × Nat)} {g : Nat × Nat} (hl : l.Pairwise (fun a b => a.1 ≤ b.1)) (hg : g ∈ sweep lo hi l) :
    lo ≤ g.1 ∧ ∀ r ∈ l, g.1 + g.2 ≤ r.1 ∨ r.1 + r.2 ≤ g.1 := by
  induction l generalizing lo with
  | nil =>
    unfold sweep at hg
    split at hg
    · obtain rfl := List.mem_singleton.mp hg
      exact ⟨le_rfl, by simp⟩
    · simp at hg
  | cons q t ih =>
    obtain ⟨b, n⟩ := q
    obtain ⟨hb, ht⟩ := List.pairwise_cons.mp hl
    have later {lo' : Nat} (hlo : lo ≤ lo') (hend : b + n ≤ lo') (hg : g ∈ sweep lo' hi t) :
        lo ≤ g.1 ∧ ∀ r ∈ (b, n) :: t, g.1 + g.2 ≤ r.1 ∨ r.1 + r.2 ≤ g.1 := by
      obtain ⟨hge, hout⟩ := ih ht hg
      refine ⟨hlo.trans hge, fun r hr => ?_⟩
      obtain rfl | hr := List.mem_cons.mp hr
      · exact .inr (hend.trans hge)
      · exact hout r hr
    have before {m : Nat} (hm : lo + m ≤ b) : lo ≤ (lo, m).1 ∧ ∀ r ∈ (b, n) :: t, lo + m ≤ r.1 ∨ r.1 + r.2 ≤ lo := by
      refine ⟨le_rfl, fun r hr => .inl ?_⟩
      obtain rfl | hr := List.mem_cons.mp hr
      · exact hm
      · exact hm.trans (hb r hr)
    unfold sweep at hg
    split at hg
    · exact later le_rfl (by assumption) hg
    · split at hg
      · split at hg
        · obtain rfl := List.mem_singleton.mp hg
          exact before (by omega)
        · simp at hg
      · split at hg
        · obtain rfl | hg := List.mem_cons.mp hg
          · exact before (by omega)
          · exact later (by omega) (by omega) hg
        · exact later (by omega) (by omega) hg

theorem le_roundup (n : Nat) {m : Nat} (h : 0 < m) : n ≤ roundup n m := by
  unfold roundup
  have hdiv := Nat.div_add_mod' (n + (m - 1)) m
  have hmod := Nat.mod_lt (n + (m - 1)) h
  omega

/-- A place lies in one of the gaps. -/
theorem nthPlace_mem {n al k a : Nat} {gs : List (Nat × Nat)} (hal : 0 < al) (h : nthPlace n al gs k = some a) :
    ∃ g ∈ gs, g.1 ≤ a ∧ a + n ≤ g.1 + g.2 := by
  induction gs generalizing k with
  | nil => simp [nthPlace] at h
  | cons g t ih =>
    unfold nthPlace at h
    split at h
    · next hk =>
      obtain rfl := Option.some.inj h
      have hstart := le_roundup g.1 hal
      refine ⟨g, List.mem_cons_self, by omega, ?_⟩
      unfold places at hk
      dsimp only at hk
      split at hk
      · have hlast := (Nat.le_div_iff_mul_le hal).mp (Nat.lt_succ_iff.mp hk)
        omega
      · omega
    · obtain ⟨g', hg', hin⟩ := ih h
      exact ⟨g', List.mem_cons_of_mem _ hg', hin⟩

/-- The place chosen overlaps no storage in use (R713). -/
theorem State.pick_free {s : State} {r : Nat × Nat} {n al a : Nat} (hal : 0 < al) (h : s.pick r n al = some a) :
    ∀ q ∈ s.usedRanges, a + n ≤ q.1 ∨ q.1 + q.2 ≤ a := by
  unfold State.pick at h
  dsimp only at h
  split at h
  · cases h
  · obtain ⟨g, hg, hlo, hhi⟩ := nthPlace_mem hal h
    obtain ⟨-, hout⟩ := sweep_free (pairwise_sortBy (f := fun q : Nat × Nat => q.1) s.usedRanges) hg
    intro q hq
    have := hout q (mem_sortBy.mpr hq)
    omega

theorem State.place_eq_some {s u : State} {r : Nat × Nat} {n al a : Nat} (h : s.place r n al = some (a, u)) :
    s.pick r n al = some a ∧ u = s.drawn := by
  obtain ⟨b, hb, he⟩ := Option.map_eq_some_iff.mp h
  cases he
  exact ⟨hb, rfl⟩

end Sys2Proof.Machine
end

section
/-!
SUPPORT. Accesses that are let through: the marks a work has on lines of extents stay until it uses them, so the state in which its accesses
are made shows whether a home den was asked on the way.
-/

namespace Sys2Proof.Machine

/-! ### Marks on lines (R24) -/

/-- A work is admitted and not stalled. -/
def State.unstalled (s : State) (w : Nat) : Prop := ∃ x ∈ s.works, x.id = w ∧ x.stalled = false

/-- From `s` to `t` no work changes, and the marks of an unstalled work on lines stay. -/
structure KeepsMarks (w : Nat) (s t : State) : Prop where
  works : s.works = t.works
  marks : s.unstalled w → ∀ line, (w, line) ∈ s.recalled → (w, line) ∈ t.recalled

section
variable {s t u : State} {w : Nat} {ps : List Part}

theorem State.unstalled_congr (h : s.works = t.works) (hs : s.unstalled w) : t.unstalled w := by
  unfold State.unstalled at *
  rwa [← h]

theorem KeepsMarks.refl (w : Nat) (s : State) : KeepsMarks w s s := ⟨rfl, fun _ _ h => h⟩

theorem KeepsMarks.trans (h : KeepsMarks w s t) (k : KeepsMarks w t u) : KeepsMarks w s u :=
  ⟨h.works.trans k.works, fun hs line hl => k.marks (State.unstalled_congr h.works hs) line (h.marks hs line hl)⟩

theorem KeepsMarks.of_only (h : Only ps s t) (hp : ps.all (fun p => p != .works && p != .recalled) = true) : KeepsMarks w s t := by
  have out {p : Part} (hne : (p != .works && p != .recalled) = false) : p ∉ ps := fun hm => by
    have := List.all_eq_true.mp hp p hm
    exact absurd this (by rw [hne]; decide)
  have hrec : s.recalled = t.recalled := h .recalled (out rfl)
  exact ⟨h .works (out rfl), fun _ line hl => hrec ▸ hl⟩

theorem KeepsMarks.ite {c : Prop} [Decidable c] (h : c → KeepsMarks w s t) (k : ¬ c → KeepsMarks w s u) :
    KeepsMarks w s (if c then t else u) := by
  split
  · exact h ‹_›
  · exact k ‹_›

theorem KeepsMarks.foldl {α : Type} {f : State → α → State} (h : ∀ s x, KeepsMarks w s (f s x)) (l : List α) (s : State) :
    KeepsMarks w s (l.foldl f s) := by
  induction l generalizing s with
  | nil => exact .refl w s
  | cons x t ih => exact (h s x).trans (ih (f s x))

end

section
variable (s : State) (w : Nat)

/-- A device access takes its place in the order of a line. -/
theorem State.mark_keepsMarks (e : Nat × Nat) : KeepsMarks w s { s with recalled := e :: s.recalled } :=
  ⟨rfl, fun _ _ h => List.mem_cons_of_mem e h⟩

/-- A line on which an unstalled work has a mark counts as granted. -/
theorem State.granted_of_mark {s : State} {w line : Nat} (hs : s.unstalled w) (hm : (w, line) ∈ s.recalled) : s.granted line = true := by
  obtain ⟨x, hx, rfl, hst⟩ := hs
  unfold State.granted
  refine List.any_eq_true.mpr ⟨_, hm, ?_⟩
  have hlive : s.works.any (fun y => y.id == x.id && !y.stalled) = true := List.any_eq_true.mpr ⟨x, hx, by simp [hst]⟩
  simp [hlive]

/-- A turn taken at a line that is not granted ends no mark of an unstalled work. -/
theorem State.takeTurn_keepsMarks {line : Nat} (h : s.granted line = false) : KeepsMarks w s (s.takeTurn line) := by
  refine ⟨rfl, fun hs l hl => List.mem_filter.mpr ⟨hl, ?_⟩⟩
  have hne : l ≠ line := fun he => by simp [State.granted_of_mark hs (he ▸ hl)] at h
  simpa using hne

theorem State.serveDir_keepsMarks (q : LineReq) : KeepsMarks w s (s.serveDir q) := by
  have start (u : State) (line : Nat) (e : DirEntry) (hosts : List Nat) (kind : Nat) (r : Option LineReq)
      (device : Option (ReqClass × Nat)) (victim : Bool) : KeepsMarks w u (u.startRecall line e hosts kind r device victim) :=
    .of_only (u.startRecall_only line e hosts kind r device victim) rfl
  have wait (u : State) : KeepsMarks w u { u with waiting := u.waiting ++ [q] } := .of_only (u.waiting_only _) rfl
  unfold State.serveDir
  dsimp only
  split
  · refine KeepsMarks.ite (fun _ => ?_) (fun _ => wait s)
    split
    · exact start ..
    · exact start ..
  · split
    · exact s.mark_keepsMarks w _
    · refine KeepsMarks.ite (fun _ => ?_) (fun _ => .of_only (s.complete_only _ _ _) rfl)
      split
      · exact KeepsMarks.ite (fun _ => ((start ..).trans (.of_only (State.waiting_only _ _) rfl)).trans (.of_only (State.bump_only _ _ _) rfl))
          (fun _ => wait s)
      · exact wait s

theorem State.serve_keepsMarks (q : LineReq) : KeepsMarks w s (s.serve q) := by
  have wait (u : State) : KeepsMarks w u { u with waiting := u.waiting ++ [q] } := .of_only (u.waiting_only _) rfl
  have page (u : State) (ext : Nat) (x : Extent) : KeepsMarks w u ((u.setExtent ext x).serveDir q) :=
    (KeepsMarks.of_only (u.setExtent_only _ _) rfl).trans (State.serveDir_keepsMarks _ w q)
  have logs (u : State) (cls source code : Nat) (ten : Option Nat) (unit addr kind id info : Nat) :
      KeepsMarks w u (u.logError cls source code ten unit addr kind id info) := .of_only (u.logError_only _ _ _ _ _ _ _ _ _) rfl
  unfold State.serve
  dsimp only
  refine KeepsMarks.ite (fun _ => wait s) (fun hfree => ?_)
  have turn : KeepsMarks w s
      (((s.lineUnits q).foldl (fun u m => u.claim m (s.extent (lineExt q.line)).tenancy) s).takeTurn q.line) := by
    have claimed : Only [.slots, .counters] s ((s.lineUnits q).foldl (fun u m => u.claim m (s.extent (lineExt q.line)).tenancy) s) :=
      Only.foldl (fun u m => u.claim_only _ _) _ s
    have hrec := claimed .recalled (by decide)
    have hworks := claimed .works (by decide)
    refine (KeepsMarks.of_only claimed rfl).trans (State.takeTurn_keepsMarks _ w ?_)
    generalize (s.lineUnits q).foldl (fun u m => u.claim m (s.extent (lineExt q.line)).tenancy) s = v at hrec hworks
    have hgranted : v.granted q.line = s.granted q.line := by
      unfold State.granted
      rw [show v.recalled = s.recalled from hrec.symm, show v.works = s.works from hworks.symm]
    rw [hgranted]
    simp only [Bool.or_eq_true, not_or, Bool.not_eq_true] at hfree
    exact hfree.1.2
  refine turn.trans ?_
  generalize ((s.lineUnits q).foldl (fun u m => u.claim m (s.extent (lineExt q.line)).tenancy) s).takeTurn q.line = u
  refine KeepsMarks.ite (fun _ => u.serveDir_keepsMarks w q) (fun _ => KeepsMarks.ite (fun _ => page ..) (fun _ => ?_))
  split
  · exact KeepsMarks.ite (fun _ => wait u) (fun _ => page ..)
  · refine KeepsMarks.ite (fun _ => KeepsMarks.trans ?_ (logs ..)) (fun _ => wait u)
    split
    · exact u.mark_keepsMarks w _
    · exact .of_only (u.emit_only _) rfl

theorem State.serveWaiting_keepsMarks : KeepsMarks w s s.serveWaiting :=
  (KeepsMarks.of_only (s.waiting_only []) rfl).trans (KeepsMarks.foldl (fun u q => u.serve_keepsMarks w q) _ _)

theorem State.endRecall_keepsMarks (r : Recall) : KeepsMarks w s (s.endRecall r) := by
  unfold State.endRecall
  dsimp only
  have ended : KeepsMarks w s { s with recalls := s.recalls.filter (fun x => x.line != r.line) } := .of_only (s.recalls_only _) rfl
  have entry (e : DirEntry) : s.works = (State.setEntry { s with recalls := s.recalls.filter (fun x => x.line != r.line) } r.line e).works :=
    State.setEntry_only { s with recalls := s.recalls.filter (fun x => x.line != r.line) } r.line e .works (by decide)
  split
  · exact ended.trans (.of_only (State.complete_only _ _ _ _) rfl)
  · exact ⟨entry _, fun _ _ h => List.mem_cons_of_mem _ h⟩
  · exact ended.trans (.of_only (State.setEntry_only _ _ _) rfl)

theorem State.settle_keepsMarks : KeepsMarks w s s.settle := by
  have rounds (u : State) (fuel : Nat) : KeepsMarks w u (u.settleN fuel) := by
    induction fuel generalizing u with
    | zero => exact .refl w u
    | succ n ih =>
      unfold State.settleN
      exact KeepsMarks.ite (fun _ => .refl w u) (fun _ =>
        (((KeepsMarks.foldl (fun v r => v.endRecall_keepsMarks w r) _ u).trans (State.serveWaiting_keepsMarks _ w)).trans
          (.of_only (State.fenceWalk_only _) rfl)).trans (ih _))
  exact (KeepsMarks.of_only s.fenceWalk_only rfl).trans (rounds _ _)

end

/-- A device access that may be made has its mark, and what was asked of the home den left the marks there were. -/
theorem State.devLine_ready {s t : State} {cls : ReqClass} {w line : Nat} (h : s.devLine cls w line = .ready t) :
    KeepsMarks w s t ∧ (w, line) ∈ t.recalled := by
  have touch (u : State) (hm : u.recalled.contains (w, line) = true) : KeepsMarks w u (u.devTouch cls line) ∧ (w, line) ∈ (u.devTouch cls line).recalled := by
    have ho := u.devTouch_only cls line
    have hrec : u.recalled = (u.devTouch cls line).recalled := ho .recalled (by decide)
    exact ⟨.of_only ho rfl, hrec ▸ List.contains_iff_mem.mp hm⟩
  unfold State.devLine at h
  dsimp only at h
  split at h
  · next hm =>
    obtain rfl := DevLine.ready.inj h
    exact touch s ((Bool.and_eq_true _ _).mp hm).1
  · split at h
    · cases h
    · split at h
      · next hm =>
        obtain rfl := DevLine.ready.inj h
        obtain ⟨hk, hin⟩ := touch _ hm
        exact ⟨((s.serve_keepsMarks w _).trans (State.settle_keepsMarks _ w)).trans hk, hin⟩
      · cases h

/-! ### What accesses that are let through change -/

/-- What accesses of a work that reach no line of an extent use up or touch. -/
def accessBase : List Part := [.atc, .slots, .waits, .counters, .waiting, .xltWaits, .fabric]

/-- A work has a mark on some line. -/
def State.hasMark (s : State) (x : Work) : Bool := s.recalled.any (fun r => r.1 == x.id)

theorem accessParts_eq (x : Work) (s : State) : accessParts x s = accessBase ++ (if s.hasMark x then homeParts else []) := rfl

section
variable {s t u v : State} {x : Work} {ps qs : List Part}

theorem State.hasMark_iff (s : State) (x : Work) : s.hasMark x = true ↔ ∃ line, (x.id, line) ∈ s.recalled := by
  unfold State.hasMark
  rw [List.any_eq_true]
  constructor
  · rintro ⟨⟨w, line⟩, hm, hw⟩
    exact ⟨line, by rwa [show w = x.id from by simpa using hw] at hm⟩
  · rintro ⟨line, hm⟩
    exact ⟨_, hm, by simp⟩

/-- What changes within the parts of accesses without lines of extents, or some others, changes within those of accesses of any kind. -/
theorem Only.access (h : Only ps s t) (hp : ps.all (qs ++ accessBase).contains = true) (x : Work) (v : State) :
    Only (qs ++ accessParts x v) s t := by
  have hbase := (h.mono hp).append_right (if v.hasMark x then homeParts else [])
  rwa [List.append_assoc] at hbase

/-- Where a work has a mark, the parts of a home den belong to its accesses. -/
theorem Only.access_marked (h : Only ps s t) (hv : v.hasMark x = true) (hp : ps.all (accessBase ++ homeParts).contains = true) :
    Only (accessParts x v) s t := by
  rw [accessParts_eq, if_pos hv]
  exact h.mono hp

/-- The accesses of a work have more parts in a state in which the marks it had stand. -/
theorem Only.access_later (h : Only (accessParts x t) s u) (hm : t.hasMark x = true → v.hasMark x = true) : Only (accessParts x v) s u := by
  by_cases ht : t.hasMark x = true
  · rw [accessParts_eq, if_pos ht] at h
    exact h.access_marked (hm ht) rfl
  · rw [accessParts_eq, if_neg ht, List.append_nil] at h
    exact h.access (qs := []) rfl x v

theorem KeepsMarks.marked (h : KeepsMarks x.id s t) (hs : s.unstalled x.id) (hm : s.hasMark x = true) : t.hasMark x = true := by
  obtain ⟨line, hl⟩ := (s.hasMark_iff x).mp hm
  exact (t.hasMark_iff x).mpr ⟨line, h.marks hs line hl⟩

/-- Where a piece of an access ends, when it is let through: it has touched translations and slots alone, or a home den, on a line of which
the work has a mark. -/
theorem State.gatePiece_go {write : Bool} {p : Nat × Nat} (h : s.gatePiece x none write p = .go t) :
    Only (accessParts x t) s t ∧ KeepsMarks x.id s t := by
  have light {u : State} (ho : Only [.atc, .slots, .counters, .waits] s u) : Only (accessParts x u) s u ∧ KeepsMarks x.id s u :=
    ⟨ho.access (qs := []) rfl x u, .of_only ho rfl⟩
  have hl := s.locate_only x.tenancy x.xltRoot p.1 p.2 write
  have pass {u v : State} {ms : List Nat} (hu : Only [.atc] s u) (hv : u.passUnit x.id (accessCell none) x.tenancy ms = .go v) :
      Only [.atc, .slots, .counters, .waits] s v := by
    have hp := u.passUnit_only x.id (accessCell none) x.tenancy ms
    rw [hv] at hp
    exact (hu.mono rfl).trans (hp.mono rfl)
  unfold State.gatePiece at h
  split at h
  · cases h
  · cases h
  · rename_i a u hu
    rw [hu] at hl
    split at h
    · cases h
    · rename_i v hv
      have hlight := pass hl hv
      split at h
      · split at h
        · rename_i z hz
          obtain rfl := Gate.go.inj h
          obtain ⟨hmarks, hin⟩ := State.devLine_ready hz
          have hden := (v.devLine_keeps (if write then .devWr else .devRd) x.id (a % 2 ^ 48 / 64)).only
          rw [hz] at hden
          have hmarked : z.hasMark x = true := (z.hasMark_iff x).mpr ⟨_, hin⟩
          exact ⟨(hlight.access_marked hmarked rfl).trans (Only.access_marked hden hmarked rfl),
            (KeepsMarks.of_only hlight rfl).trans hmarks⟩
        · cases h
      · obtain rfl := Gate.go.inj h
        exact light hlight
  · rename_i a u hu
    rw [hu] at hl
    split at h
    · split at h
      · cases h
      · rename_i v hv
        have hlight := pass hl hv
        split at h
        · cases h
        · split at h
          · obtain rfl := Gate.go.inj h
            exact light hlight
          · split at h
            · obtain rfl := Gate.go.inj h
              exact light hlight
            · split at h
              · cases h
              · cases h
    · obtain rfl := Gate.go.inj h
      exact light (hl.mono rfl)

theorem State.gatePieces_go {l : List (Bool × Nat × Nat)} (hs : s.unstalled x.id) (h : s.gatePieces x none l = .go t) :
    Only (accessParts x t) s t ∧ KeepsMarks x.id s t := by
  induction l generalizing s with
  | nil =>
    obtain rfl := Gate.go.inj h
    exact ⟨Only.refl _ s, .refl _ s⟩
  | cons e rest ih =>
    unfold State.gatePieces at h
    split at h
    · rename_i u hu
      obtain ⟨ho, hk⟩ := State.gatePiece_go hu
      have hu' := State.unstalled_congr hk.works hs
      obtain ⟨ho', hk'⟩ := ih hu' h
      exact ⟨(ho.access_later (hk'.marked hu')).trans ho', hk.trans hk'⟩
    · cases h

/-- Accesses of a running work that are let through change what the state in which they are made shows. -/
theorem State.gate_go {accs : List (Nat × Nat × Bool)} (hs : s.unstalled x.id) (h : letThrough s x accs t) : Only (accessParts x t) s t := by
  unfold letThrough State.gate State.gateBy at h
  split at h
  · cases h
  · dsimp only at h
    split at h
    · cases h
    · exact (State.gatePieces_go hs h).1

theorem startable.unstalled {w op : Nat} (h : startable s w x op) : s.unstalled x.id := by
  obtain ⟨hw, -, -, -, -, hst⟩ := h
  exact ⟨x, List.mem_of_find?_eq_some hw, rfl, hst⟩

/-- The step of a work that reads what is let through and not poisoned. -/
theorem State.withReads_readable {reads : List (Nat × Nat)} (h : readable s x reads t) (f : State → State) :
    s.withReads x reads f = (f t).used x.id := by
  obtain ⟨hgate, hclean⟩ := h
  have hpoison : reads.any (fun r => t.poisonedAt x r.1 r.2) = false := by
    rw [List.any_eq_false]
    intro r hr
    simpa using List.all_eq_true.mp hclean r hr
  unfold State.withReads State.withAccess
  rw [hgate]
  simp [hpoison]

/-- An act behind accesses that are let through changes what it changes by itself, and what the accesses do. -/
theorem State.used_after (hg : Only (accessParts x t) s t) (ho : Only ps t u) (hr : Part.recalled ∉ ps)
    (hp : ps.all (qs ++ accessBase).contains = true) : Only (qs ++ accessParts x t) s (u.used x.id) := by
  have hused := u.used_only x
  rw [accessParts_congr (ho .recalled hr)] at hused
  exact ((hg.append_left qs).trans (ho.access hp x t)).trans (hused.append_left qs)

/-- What neither translations, slots and their like nor a home den touch, accesses of works leave. -/
theorem State.access_keeps {p : Part} (h : Only (accessParts x v) s t) (hp : p ∉ accessBase ++ homeParts) : s.agree t p := by
  refine h p (fun hm => hp ?_)
  rw [accessParts_eq, List.mem_append] at hm
  refine List.mem_append.mpr (hm.imp_right fun hm => ?_)
  split at hm
  · exact hm
  · cases hm

theorem State.access_works (h : Only (accessParts x v) s t) : s.works = t.works := State.access_keeps (p := .works) h (by decide)

theorem State.access_burrows (h : Only (accessParts x v) s t) : s.burrows = t.burrows := State.access_keeps (p := .burrows) h (by decide)

/-- Accesses granted no line of an extent change no byte of device memory. -/
theorem State.access_memOnly (hc : clear x v) (h : Only (accessParts x v) s t) (rs : List (Nat × Nat)) : memOnly s t rs := by
  rw [accessParts_eq, if_neg (by rw [State.hasMark, hc]; decide), List.append_nil] at h
  exact memOnly.of_only h (by decide) (by decide) rs

end

end Sys2Proof.Machine
end

section
/-!
SUPPORT. A burrow's life: what FREEZE, THAW and DROP make of it (Table 4.14).
-/

namespace Sys2Proof.Machine

/-! ### Tables and burrows by number -/

section
variable {α : Type} {m : Tab α} {i : Nat} {x : α} {e : Nat × α}

/-- An entry of a table written is the one written, or stood there before. -/
theorem eq_or_mem_of_mem_tset (h : e ∈ tset m i x) : e = (i, x) ∨ e ∈ m := by
  induction m with
  | nil => exact .inl (List.mem_singleton.mp h)
  | cons d t ih =>
    obtain ⟨k, v⟩ := d
    unfold tset at h
    split at h
    · exact (List.mem_cons.mp h).imp_right (List.mem_cons_of_mem _)
    · split at h
      · exact List.mem_cons.mp h
      · obtain rfl | h := List.mem_cons.mp h
        · exact .inr List.mem_cons_self
        · exact (ih h).imp_right (List.mem_cons_of_mem _)

/-- An entry stays when another is written, unless it was the one found under its number. -/
theorem mem_tset_or (h : e ∈ m) (i : Nat) (x : α) : e ∈ tset m i x ∨ (e.1 = i ∧ tget m i = some e.2) := by
  induction m with
  | nil => cases h
  | cons d t ih =>
    obtain ⟨k, v⟩ := d
    unfold tset tget
    obtain rfl | h := List.mem_cons.mp h
    · split
      · exact .inr ⟨by assumption, rfl⟩
      · split
        · exact .inl (List.mem_cons_of_mem _ List.mem_cons_self)
        · exact .inl List.mem_cons_self
    · split
      · exact .inl (List.mem_cons_of_mem _ h)
      · split
        · exact .inl (List.mem_cons_of_mem _ (List.mem_cons_of_mem _ h))
        · exact (ih h).imp_left (List.mem_cons_of_mem _)

theorem tget_tdel (m : Tab α) (i j : Nat) : tget (tdel m i) j = if j = i then none else tget m j := by
  induction m with
  | nil => simp [tdel, tget]
  | cons d t ih =>
    obtain ⟨k, v⟩ := d
    unfold tdel at *
    rw [List.filter_cons]
    by_cases hk : k = i
    · subst hk
      rw [if_neg (by simp), ih]
      split_ifs with hj
      · rfl
      · exact (if_neg (Ne.symm hj)).symm
    · rw [if_pos (by simpa using hk)]
      simp only [tget, ih]
      split_ifs with h1 h2
      · exact absurd (h1.trans h2) hk
      · rfl
      · rfl
      · rfl

end

section
variable {s t : State}

theorem State.burrow_congr (h : s.burrows = t.burrows) (i : Nat) : t.burrow i = s.burrow i := by
  unfold State.burrow
  rw [h]

theorem State.burrow_setBurrow (s : State) (i j : Nat) (b : Burrow) : (s.setBurrow i b).burrow j = if j = i then b else s.burrow j := by
  unfold State.burrow State.setBurrow
  split_ifs with h
  · rw [h]; exact tgetD_tset_same _ _ _ _
  · exact tgetD_tset_ne _ h _ _

theorem State.burrow_setBurrow_same (s : State) (i : Nat) (b : Burrow) : (s.setBurrow i b).burrow i = b :=
  (s.burrow_setBurrow i i b).trans (if_pos rfl)

theorem State.burrow_setBurrow_ne (s : State) {i j : Nat} (h : j ≠ i) (b : Burrow) : (s.setBurrow i b).burrow j = s.burrow j :=
  (s.burrow_setBurrow i j b).trans (if_neg h)

end

/-! ### FREEZE and THAW (R194, R195) -/

section
variable {s : State} {w : Nat} {x : Work}

/-- A work that replaces its burrow ends with the result. -/
theorem Does.finishes_burrow {c : Instr} {t : State} {op : Nat} {y : Burrow} {r : Result} (hx : startable s w x op)
    (he : exec c s = .next t) (e : t = (s.setBurrow x.burrow y).finish w r) :
    Does c s [.works, .waits, .burrows] (fun t => t.burrow x.burrow = y ∧ (∀ i, i ≠ x.burrow → t.burrow i = s.burrow i) ∧ hasResult t w r) := by
  have hf := (s.setBurrow x.burrow y).finish_only w r
  have hb (i : Nat) : ((s.setBurrow x.burrow y).finish w r).burrow i = (s.setBurrow x.burrow y).burrow i :=
    State.burrow_congr (hf .burrows (by decide)) i
  have hw : (s.setBurrow x.burrow y).work w = some x := (State.work_congr rfl w).trans hx.1
  exact Does.of_eq he e (((s.setBurrow_only _ _).mono rfl).trans (hf.mono rfl))
    ⟨(hb _).trans (s.burrow_setBurrow_same _ _), fun i hi => (hb i).trans (s.burrow_setBurrow_ne hi _), State.hasResult_finish hw r⟩

theorem burrowFreeze_active (hx : startable s w x 0x16) (h : (s.burrow x.burrow).state = 1) :
    Does (.burrowFreeze w) s [.works, .waits, .burrows] (fun t =>
      t.burrow x.burrow = { s.burrow x.burrow with state := 2, merged := (s.burrow x.burrow).chunksUsed == 0 } ∧
      (∀ i, i ≠ x.burrow → t.burrow i = s.burrow i) ∧ hasResult t w (Result.atSnap 0 (s.burrow x.burrow).snapSeq)) :=
  Does.finishes_burrow hx rfl ((State.withWork_startable hx _).trans (if_neg (not_not_intro h)))

theorem burrowFreeze_refused (hx : startable s w x 0x16) (h : (s.burrow x.burrow).state ≠ 1) :
    Does (.burrowFreeze w) s [.works, .waits] (fun t => hasResult t w (Result.err 0x10 32)) :=
  Does.finishes hx rfl ((State.withWork_startable hx _).trans (if_pos h))

theorem burrowThaw_frozen (hx : startable s w x 0x17) (h : (s.burrow x.burrow).state = 2) :
    Does (.burrowThaw w) s [.works, .waits, .burrows] (fun t =>
      t.burrow x.burrow = { s.burrow x.burrow with state := 1, merged := false } ∧
      (∀ i, i ≠ x.burrow → t.burrow i = s.burrow i) ∧ hasResult t w (Result.done 0)) :=
  Does.finishes_burrow hx rfl ((State.withWork_startable hx _).trans (if_neg (not_not_intro h)))

theorem burrowThaw_refused (hx : startable s w x 0x17) (h : (s.burrow x.burrow).state ≠ 2) :
    Does (.burrowThaw w) s [.works, .waits] (fun t => hasResult t w (Result.err 0x10 32)) :=
  Does.finishes hx rfl ((State.withWork_startable hx _).trans (if_pos h))

/-! ### DROP (R196, R197) -/

/-- The zero-fill list's entry for one granule of a range. -/
def fillItem (a n freedBy i : Nat) : FillItem :=
  { region := a / 2 ^ 48, granule := a % 2 ^ 48 / granule + i, freedBy
    blocks := (List.range 512).filter
      (fun k => overlap (a, n) (regionBase (a / 2 ^ 48) + (a % 2 ^ 48 / granule + i) * granule + k * 4096, 4096)) }

theorem fillItems_eq {n : Nat} (h : n ≠ 0) (a t : Nat) :
    fillItems a n t = (List.range (ceilDiv (a % granule + n) granule)).map (fillItem a n t) := if_neg h

theorem FillItem.mem_ranges {f : FillItem} {k : Nat} (h : k ∈ f.blocks) :
    (regionBase f.region + f.granule * Machine.granule + k * 4096, 4096) ∈ f.ranges :=
  List.mem_map_of_mem (f := fun k => (regionBase f.region + f.granule * Machine.granule + k * 4096, 4096)) h

/-- The block in which a range begins stands on the zero-fill list's entry for its first granule. -/
theorem fillItem_first {a n : Nat} (h : n ≠ 0) (t : Nat) : ∃ r ∈ (fillItem a n t 0).ranges, overlap (a, n) r = true := by
  have hover : overlap (a, n) (regionBase (a / 2 ^ 48) + (a % 2 ^ 48 / granule + 0) * granule + a % granule / 4096 * 4096, 4096) = true := by
    refine decide_eq_true ?_
    unfold regionBase granule
    dsimp only
    omega
  have hblock : a % granule / 4096 < 512 := by
    unfold granule
    omega
  have hin : a % granule / 4096 ∈ (fillItem a n t 0).blocks := by
    unfold fillItem
    rw [List.mem_filter]
    exact ⟨List.mem_range.mpr hblock, hover⟩
  refine ⟨_, FillItem.mem_ranges hin, ?_⟩
  simpa only [fillItem] using hover

/-- A range put on the zero-fill list is to be filled. -/
theorem State.filling_of_fillItems {t : State} {n : Nat} {r : Nat × Nat} (hr : r.2 ≠ 0) (h : ∀ f ∈ fillItems r.1 r.2 n, f ∈ t.fill) :
    t.filling n r = true := by
  have hsome : 0 < ceilDiv (r.1 % granule + r.2) granule := by
    unfold ceilDiv granule
    omega
  have hmem : fillItem r.1 r.2 n 0 ∈ fillItems r.1 r.2 n := by
    rw [fillItems_eq hr]
    exact List.mem_map_of_mem (List.mem_range.mpr hsome)
  obtain ⟨q, hq, ho⟩ := fillItem_first hr n
  refine List.any_eq_true.mpr ⟨_, h _ hmem, (Bool.and_eq_true _ _).mpr ⟨beq_self_eq_true n, List.any_eq_true.mpr ⟨q, hq, ho⟩⟩⟩

/-- A context without a pin on a burrow. -/
def Ctx.unpinFrom (c : Ctx) (b : Nat) : Ctx := if c.pinned && c.pinBurrow == b then c.unpin else c

theorem State.ctx_clearPins (s : State) (b c : Nat) : (s.clearPins b).ctx c = (s.ctx c).unpinFrom b := by
  unfold State.ctx tgetD
  refine (congrArg (·.getD Ctx.free) (tget_map (fun _ y => Ctx.unpinFrom y b) s.ctxs c)).trans ?_
  cases tget s.ctxs c with
  | none => rfl
  | some y => rfl

theorem Ctx.unpinFrom_pinned {c : Ctx} {b : Nat} (h : (c.unpinFrom b).pinned = true) : (c.unpinFrom b).pinBurrow ≠ b := by
  unfold Ctx.unpinFrom at *
  split at h
  · cases h
  · next hn =>
    rw [if_neg hn]
    exact fun hb => hn (by simp [h, hb])

/-- Before a burrow is DROPPING: its pins are cleared, later changes of its state are decided, its vector space in flash is given up. -/
def State.dropBegun (s : State) (w bi : Nat) : State :=
  let u := (s.clearPins bi).denyAfter w bi
  if (s.burrow bi).fullStore = 1 then u.trim (s.burrow bi).vecBase (s.burrow bi).spaceBytes else u

theorem State.dropBegun_only (s : State) (w bi : Nat) : Only [.works, .badgers] (s.clearPins bi) (s.dropBegun w bi) := by
  have hdeny : Only [.works] (s.clearPins bi) ((s.clearPins bi).denyAfter w bi) := (s.clearPins bi).works_only _
  exact Only.ite (fun _ => (hdeny.mono rfl).trans ((State.trim_only _ _ _).mono rfl)) (fun _ => hdeny.mono rfl)

/-- A burrow DROPPING, its storage on the zero-fill list. -/
def State.dropping (u : State) (bi : Nat) (b : Burrow) : State :=
  { u.setBurrow bi { b with state := 3, merges := [], hbmRes := 0 } with
    fill := u.fill ++ b.ranges.flatMap (fun r => fillItems r.1 r.2 b.tenancy)
    vcache := u.vcache.filter (fun v => v.1 != bi) }

theorem State.dropping_only (u : State) (bi : Nat) (b : Burrow) : Only [.fill, .burrows, .vcache] u (u.dropping bi b) := by
  have hlists (v : State) (f : List FillItem) (l : List (Nat × Nat × Nat)) : Only [.fill, .burrows, .vcache] v { v with fill := f, vcache := l } := by
    intro p hp; cases p
    case fill | vcache => simp at hp
    all_goals rfl
  exact ((u.setBurrow_only bi _).mono rfl).trans (hlists _ _ _)

theorem State.dropping_burrow (u : State) (bi i : Nat) (b : Burrow) :
    (u.dropping bi b).burrow i = if i = bi then { b with state := 3, merges := [], hbmRes := 0 } else u.burrow i := u.burrow_setBurrow bi i _

theorem State.dropping_filling (u : State) (bi : Nat) {b : Burrow} {r : Nat × Nat} (hr : r ∈ b.ranges) (hne : r.2 ≠ 0) :
    (u.dropping bi b).filling b.tenancy r = true :=
  State.filling_of_fillItems hne (fun _ hf => List.mem_append_right _ (List.mem_flatMap.mpr ⟨r, hr, hf⟩))

theorem burrowDropSt_first (hx : startable s w x 0x18) (h : (s.burrow x.burrow).state = 1 ∨ (s.burrow x.burrow).state = 2) :
    burrowDropSt w s = (s.dropBegun w x.burrow).dropping x.burrow (s.burrow x.burrow) := (State.withWork_startable hx _).trans (if_pos h)

theorem burrowDrop_first (hx : startable s w x 0x18) (h : (s.burrow x.burrow).state = 1 ∨ (s.burrow x.burrow).state = 2) :
    Does (.burrowDrop w) s [.ctxs, .works, .fill, .burrows, .vcache, .badgers] (fun t =>
      (t.burrow x.burrow).state = 3 ∧ (∀ i, i ≠ x.burrow → t.burrow i = s.burrow i) ∧
      (∀ c, (t.ctx c).pinned = true → (t.ctx c).pinBurrow ≠ x.burrow) ∧
      (∀ r ∈ (s.burrow x.burrow).ranges, r.2 ≠ 0 → t.filling (s.burrow x.burrow).tenancy r = true)) := by
  have hbegun := s.dropBegun_only w x.burrow
  have hdrop := (s.dropBegun w x.burrow).dropping_only x.burrow (s.burrow x.burrow)
  refine Does.of_eq rfl (burrowDropSt_first hx h) ((((s.clearPins_only _).mono rfl).trans (hbegun.mono rfl)).trans (hdrop.mono rfl))
    ⟨?_, fun i hi => ?_, fun c hp => ?_, fun r hr => State.dropping_filling _ _ hr⟩
  · rw [State.dropping_burrow, if_pos rfl]
  · rw [State.dropping_burrow, if_neg hi]
    exact State.burrow_congr (hbegun .burrows (by decide)) i
  · have hctx : ((s.dropBegun w x.burrow).dropping x.burrow (s.burrow x.burrow)).ctx c = (s.ctx c).unpinFrom x.burrow :=
      (State.ctx_congr (hdrop .ctxs (by decide)) c).trans ((State.ctx_congr (hbegun .ctxs (by decide)) c).trans (s.ctx_clearPins _ c))
    rw [hctx] at hp ⊢
    exact Ctx.unpinFrom_pinned hp

theorem burrowDrop_second (hx : startable s w x 0x18) (h : (s.burrow x.burrow).state = 3)
    (hfill : (s.burrow x.burrow).ranges.any (s.filling (s.burrow x.burrow).tenancy) = false) :
    Does (.burrowDrop w) s [.works, .waits, .burrows] (fun t => (t.burrow x.burrow).state = 0 ∧
      (∀ i, i ≠ x.burrow → t.burrow i = s.burrow i) ∧ hasResult t w (Result.done 0)) := by
  have e : burrowDropSt w s = ({ s with burrows := tdel s.burrows x.burrow } : State).finish w (Result.done 0) := by
    refine (State.withWork_startable hx _).trans ((if_neg (by omega)).trans ((if_pos h).trans (if_neg ?_)))
    simp [hfill]
  have hdel : Only [.burrows] s { s with burrows := tdel s.burrows x.burrow } := by
    intro p hp; cases p
    case burrows => simp at hp
    all_goals rfl
  have hf := State.finish_only { s with burrows := tdel s.burrows x.burrow } w (Result.done 0)
  have hb (i : Nat) : (({ s with burrows := tdel s.burrows x.burrow } : State).finish w (Result.done 0)).burrow i =
      if i = x.burrow then Burrow.free else s.burrow i := by
    unfold State.burrow tgetD
    refine (congrArg (·.getD Burrow.free) (tget_tdel s.burrows x.burrow i)).trans ?_
    split
    · rfl
    · rfl
  refine Does.of_eq rfl e ((hdel.mono rfl).trans (hf.mono rfl)) ⟨?_, fun i hi => (hb i).trans (if_neg hi), State.hasResult_finish hx.1 _⟩
  rw [hb, if_pos rfl]
  rfl

theorem burrowDrop_free (hx : startable s w x 0x18) (h : (s.burrow x.burrow).state = 0) :
    Does (.burrowDrop w) s [.works, .waits] (fun t => hasResult t w (Result.err 0x10 32)) :=
  Does.finishes hx rfl ((State.withWork_startable hx _).trans ((if_neg (by omega)).trans (if_neg (by omega))))

end

end Sys2Proof.Machine
end

section
/-!
SUPPORT. How BURROW_CREATE builds a burrow, step by step: each step keeps the burrow's parameters and writes within storage that the burrow
then has. At the end the statement O20, put together from the laws of the four commands.
-/

namespace Sys2Proof.Machine

/-! ### What BURROW_CREATE writes fits its place (Tables 4.7 and 4.9) -/

@[simp] theorem toLe_length (n v : Nat) : (toLe n v).length = n := by
  induction n generalizing v with
  | zero => rfl
  | succ n ih => simp [toLe, ih]

theorem padTo_length {n : Nat} (h : 0 < n) (b : Bytes) : (padTo n b).length = roundup b.length n := by
  have := le_roundup b.length h
  simp only [padTo, List.length_append, List.length_replicate]
  omega

theorem slice_length (b : Bytes) (off n : Nat) : (slice b off n).length = n := by
  simp only [slice, List.length_append, List.length_replicate, List.length_take]
  omega

theorem flatten_length_of_forall {α : Type} {l : List (List α)} {k : Nat} (h : ∀ x ∈ l, x.length = k) : l.flatten.length = l.length * k := by
  rw [List.length_flatten, List.sum_eq_card_nsmul _ k (by simpa using h), List.length_map, smul_eq_mul]

theorem tombBitmap_length (items : List BodyItem) : (tombBitmap items).length = 1024 := toLe_length _ _

/-- A leaf without items takes a new leaf's bytes (R173). -/
theorem leafImage_length (b : Burrow) {l : Leaf} (h : l.items = []) : (leafImage b l).length = b.leafBytes 0 := by
  unfold leafImage Burrow.leafBytes
  dsimp only
  rw [h]
  simp only [List.length_append, toLe_length, padTo_length (show 0 < 64 by decide), tombBitmap_length, List.map_nil, List.flatten_nil,
    List.length_nil]
  rw [Nat.mul_zero, Nat.zero_mul]

/-- A node with a centroid of the burrow's dimension and a norm for each child takes a node's bytes (R170). -/
theorem nodeImage_length {b : Burrow} {n : Node} (hc : n.cents.length = n.children.length) (hn : n.norms.length = n.children.length)
    (hd : ∀ c ∈ n.cents, c.length = b.dim) : (nodeImage b n).length = b.nodeBytes n.children.length := by
  have words (k : Nat) (l : List Nat) : (l.map (toLe k)).flatten.length = l.length * k :=
    (flatten_length_of_forall (k := k) (by simp)).trans (by rw [List.length_map])
  have cents : (n.cents.map (fun c => padTo 64 (c.map (toLe 2)).flatten)).flatten.length = n.children.length * b.centBytes := by
    refine (flatten_length_of_forall (k := b.centBytes) fun e he => ?_).trans (by rw [List.length_map, hc])
    obtain ⟨c, hm, rfl⟩ := List.mem_map.mp he
    rw [padTo_length (by decide), words, hd c hm, Nat.mul_comm]
    rfl
  have links : (n.children.map (fun c => toLe 8 (childEntry c))).flatten.length = n.children.length * 8 :=
    (flatten_length_of_forall (k := 8) (List.forall_mem_map.mpr fun _ _ => toLe_length _ _)).trans (by rw [List.length_map])
  simp only [nodeImage, Burrow.nodeBytes, List.length_append, toLe_length, cents, padTo_length (show 0 < 64 by decide), words, links, hn,
    Nat.mul_comm n.children.length]

/-- Pieces of a range are no longer than it together. -/
theorem linesOf_sum (a fuel n : Nat) : ((linesOf a fuel n).map (·.2)).sum ≤ n := by
  induction fuel generalizing a n with
  | zero => simp [linesOf]
  | succ k ih =>
    unfold linesOf
    split
    · simp
    · have := ih (a + min n (64 - a % 64)) (n - min n (64 - a % 64))
      simp only [List.map_cons, List.sum_cons]
      omega

theorem State.readDev_length (s : State) (a n : Nat) : (s.readDev a n).length = n := by
  induction n generalizing a with
  | zero => rfl
  | succ n ih => simp [State.readDev, ih]

theorem State.readPiece_length (s : State) (x : Work) (who : Option (Nat × Nat)) (p : Nat × Nat) : (s.readPiece x who p).length = p.2 := by
  unfold State.readPiece
  split
  · exact s.readDev_length _ _
  · exact slice_length _ _ _
  · exact List.length_replicate

/-- Bytes read are no more than asked for. -/
theorem State.readAt_length (s : State) (x : Work) (a n : Nat) (host : Bytes) : (s.readAt x a n host).length ≤ n := by
  unfold State.readAt State.readBy
  split
  · exact (slice_length _ _ _).le
  · rw [List.length_flatten, List.map_map, show List.length ∘ s.readPiece x none = (·.2) from funext (s.readPiece_length x none)]
    exact linesOf_sum _ _ _

/-- A skeleton's node has a centroid of the dimension for each child. -/
def SkelNode.shaped (dim : Nat) (n : SkelNode) : Prop := n.cents.length = n.children.length ∧ ∀ c ∈ n.cents, c.length = dim

theorem skelNode_shaped (dim fanout : Nat) (b : Bytes) : (skelNode dim fanout b).shaped dim := by
  refine ⟨by simp [skelNode], fun c hc => ?_⟩
  obtain ⟨i, -, rfl⟩ := List.mem_map.mp hc
  simp

theorem skelNodes_shaped {dim fanout fuel : Nat} {b : Bytes} : ∀ n ∈ skelNodes dim fanout fuel b, n.shaped dim := by
  induction fuel generalizing b with
  | zero => simp [skelNodes]
  | succ k ih =>
    unfold skelNodes
    dsimp only
    split
    · exact List.forall_mem_cons.mpr ⟨skelNode_shaped _ _ _, ih⟩
    · exact List.forall_mem_singleton.mpr (skelNode_shaped _ _ _)

theorem skeleton_shaped {dim fanout : Nat} {b : Bytes} {k : Skeleton} (h : skeleton dim fanout b = some k) : ∀ n ∈ k.nodes, n.shaped dim := by
  unfold skeleton at h
  dsimp only at h
  split at h
  · cases h
  · split at h
    · cases h
      exact skelNodes_shaped
    · cases h

theorem State.readSkeleton_shaped {s : State} {x : Work} {skel : Bytes} {k : Skeleton} (h : s.readSkeleton x skel = some k) :
    ∀ n ∈ k.nodes, n.shaped (fld x.desc 34 2) := by
  unfold State.readSkeleton at h
  split at h
  · cases h
  · exact skeleton_shaped h

/-! ### A tree that grows (R186, R188) -/

/-- A burrow with another tree, and otherwise the same. -/
def Burrow.sameButTree (b c : Burrow) : Prop := c = { b with root := c.root, nodes := c.nodes, leaves := c.leaves }

/-- Every leaf of a burrow is empty. -/
def Burrow.bare (b : Burrow) : Prop := ∀ e ∈ b.leaves, e.2.items = [] ∧ e.2.side = []

/-- A node of a number of children stands at an address. -/
def Burrow.hasNode (b : Burrow) (a n : Nat) : Prop := ∃ m, tget b.nodes a = some m ∧ m.children.length = n

/-- Storage of a burrow that does not move: codebook, DDR, and a vector space in DDR. -/
def Burrow.fixedRanges (b : Burrow) : List (Nat × Nat) :=
  (b.codebookAt, b.bookBytes) :: (b.ddrAt, b.ddrRes) :: (if b.fullStore = 2 then [(b.vecBase, b.spaceBytes)] else [])

section
variable {b c : Burrow} {r : Nat × Nat}

/-- Storage of a burrow without items: what does not move, its nodes and its leaves. -/
theorem Burrow.bare.mem_ranges (h : b.bare) : r ∈ b.ranges ↔ r ∈ b.fixedRanges ∨
    (∃ e ∈ b.nodes, r = (e.1, b.nodeBytes e.2.children.length)) ∨ ∃ e ∈ b.leaves, r = (e.1, b.leafBytes 0) := by
  have leaves : r ∈ b.leaves.flatMap (fun l => (l.1, b.leafBytes l.2.items.length) :: l.2.side.map (fun c => (c.addr, 4096))) ↔
      ∃ e ∈ b.leaves, r = (e.1, b.leafBytes 0) := by
    rw [List.mem_flatMap]
    refine exists_congr fun e => and_congr_right fun he => ?_
    obtain ⟨hi, hs⟩ := h e he
    simp [hi, hs]
  have nodes : r ∈ b.nodes.map (fun n => (n.1, b.nodeBytes n.2.children.length)) ↔ ∃ e ∈ b.nodes, r = (e.1, b.nodeBytes e.2.children.length) := by
    simp [eq_comm]
  show r ∈ b.fixedRanges ++ b.nodes.map _ ++ b.leaves.flatMap _ ↔ _
  rw [List.mem_append, List.mem_append, leaves, nodes, or_assoc]

theorem Burrow.sameButTree.refl (b : Burrow) : b.sameButTree b := rfl

theorem Burrow.sameButTree.trans {d : Burrow} (h : b.sameButTree c) (k : c.sameButTree d) : b.sameButTree d := by
  unfold Burrow.sameButTree at *
  rw [k, h]

/-- Storage stays with a burrow whose nodes and leaves stay, with the sizes they have. -/
theorem Burrow.sameButTree.ranges (h : b.sameButTree c) (hb : b.bare) (hc : c.bare)
    (hn : ∀ e ∈ b.nodes, ∃ f ∈ c.nodes, f.1 = e.1 ∧ f.2.children.length = e.2.children.length)
    (hl : ∀ e ∈ b.leaves, ∃ f ∈ c.leaves, f.1 = e.1) : ∀ r ∈ b.ranges, r ∈ c.ranges := by
  have hfixed : c.fixedRanges = b.fixedRanges := by rw [h]; rfl
  have hnode (n : Nat) : c.nodeBytes n = b.nodeBytes n := by rw [h]; rfl
  have hleaf : c.leafBytes 0 = b.leafBytes 0 := by rw [h]; rfl
  intro r hr
  rw [hc.mem_ranges, hfixed]
  rcases hb.mem_ranges.mp hr with hr | ⟨e, he, rfl⟩ | ⟨e, he, rfl⟩
  · exact .inl hr
  · obtain ⟨f, hf, ha, hlen⟩ := hn e he
    exact .inr (.inl ⟨f, hf, by rw [ha, hlen, hnode]⟩)
  · obtain ⟨f, hf, ha⟩ := hl e he
    exact .inr (.inr ⟨f, hf, by rw [ha, hleaf]⟩)

end

/-- A burrow with a leaf, or a node, at an address. -/
def Burrow.withLeaf (b : Burrow) (a : Nat) (l : Leaf) : Burrow := { b with leaves := tset b.leaves a l }
def Burrow.withNode (b : Burrow) (a : Nat) (n : Node) : Burrow := { b with nodes := tset b.nodes a n }

section
variable {b : Burrow} (a : Nat)

theorem Burrow.withLeaf_same (b : Burrow) (a : Nat) (l : Leaf) : b.sameButTree (b.withLeaf a l) := rfl

theorem Burrow.withNode_same (b : Burrow) (a : Nat) (n : Node) : b.sameButTree (b.withNode a n) := rfl

theorem Burrow.bare.withLeaf (h : b.bare) {l : Leaf} (hi : l.items = []) (hl : l.side = []) : (b.withLeaf a l).bare :=
  fun e he => (eq_or_mem_of_mem_tset he).elim (fun hm => hm ▸ ⟨hi, hl⟩) (h e)

theorem Burrow.bare.withNode (h : b.bare) (n : Node) : (b.withNode a n).bare := h

theorem Burrow.hasNode_withNode (b : Burrow) (n : Node) : (b.withNode a n).hasNode a n.children.length := ⟨n, tget_tset_same _ _ _, rfl⟩

theorem Burrow.hasNode_withNode_ne {a' k : Nat} (hne : a' ≠ a) (n : Node) (h : b.hasNode a' k) : (b.withNode a n).hasNode a' k := by
  obtain ⟨m, hm, hk⟩ := h
  exact ⟨m, (tget_tset_ne _ hne _).trans hm, hk⟩

theorem Burrow.hasNode_unique {k n : Nat} (h : b.hasNode a k) (h' : b.hasNode a n) : k = n := by
  obtain ⟨m, hm, hk⟩ := h
  obtain ⟨m', hm', hn⟩ := h'
  obtain rfl := Option.some.inj (hm.symm.trans hm')
  exact hk.symm.trans hn

/-- An empty leaf written leaves the storage of every leaf. -/
theorem Burrow.bare.ranges_withLeaf (h : b.bare) {l : Leaf} (hi : l.items = []) (hl : l.side = []) :
    ∀ r ∈ b.ranges, r ∈ (b.withLeaf a l).ranges := by
  refine (b.withLeaf_same a l).ranges h (h.withLeaf a hi hl) (fun e he => ⟨e, he, rfl, rfl⟩) fun e he => ?_
  obtain hm | ⟨ha, -⟩ := mem_tset_or he a l
  · exact ⟨e, hm, rfl⟩
  · exact ⟨_, mem_tset _ a l, ha.symm⟩

/-- A node written where none stands, or one with as many children, leaves the storage of every node. -/
theorem Burrow.bare.ranges_withNode (h : b.bare) {n : Node} (ha : ∀ k, b.hasNode a k → k = n.children.length) :
    ∀ r ∈ b.ranges, r ∈ (b.withNode a n).ranges := by
  refine (b.withNode_same a n).ranges h (h.withNode a n) (fun e he => ?_) (fun e he => ⟨e, he, rfl⟩)
  obtain hm | ⟨hea, hm⟩ := mem_tset_or he a n
  · exact ⟨e, hm, rfl, rfl⟩
  · exact ⟨_, mem_tset _ a n, hea.symm, (ha _ ⟨_, hm, rfl⟩).symm⟩

end

/-- What the planting of a tree may change. -/
def plantParts : List Part := [.freeCount, .memory, .poison, .fill, .firstTouch, .burrows, .rotation]

/-- From `s` to `t` the tree of one burrow grows: only its root, nodes and leaves change, its nodes keep their sizes and its leaves are empty,
and device memory changes only within the storage that it then has. -/
structure Grows (bi : Nat) (s t : State) : Prop where
  only   : Only plantParts s t
  others : ∀ i, i ≠ bi → t.burrow i = s.burrow i
  same   : (s.burrow bi).sameButTree (t.burrow bi)
  bare   : (t.burrow bi).bare
  nodes  : ∀ a n, (s.burrow bi).hasNode a n → (t.burrow bi).hasNode a n
  ranges : ∀ r ∈ (s.burrow bi).ranges, r ∈ (t.burrow bi).ranges
  memory : memOnly s t (t.burrow bi).ranges

section
variable {s t u : State} {bi : Nat}

theorem Grows.refl (h : (s.burrow bi).bare) : Grows bi s s :=
  ⟨Only.refl _ s, fun _ _ => rfl, .refl _, h, fun _ _ h => h, fun _ h => h, .refl s _⟩

theorem Grows.trans (h : Grows bi s t) (k : Grows bi t u) : Grows bi s u where
  only := h.only.trans k.only
  others := fun i hi => (k.others i hi).trans (h.others i hi)
  same := h.same.trans k.same
  bare := k.bare
  nodes := fun a n hn => k.nodes a n (h.nodes a n hn)
  ranges := fun r hr => k.ranges r (h.ranges r hr)
  memory := (h.memory.mono k.ranges).trans k.memory

/-- Free values drawn, and the rotation, leave burrows and memory. -/
theorem Grows.of_only (hb : (s.burrow bi).bare) (h : Only [.freeCount, .rotation] s t) : Grows bi s t := by
  have hbur (i : Nat) : t.burrow i = s.burrow i := State.burrow_congr (h .burrows (by decide)) i
  refine ⟨h.mono rfl, fun i _ => hbur i, ?_, ?_, ?_, ?_, memOnly.of_only h (by decide) (by decide) _⟩
  all_goals rw [hbur]
  · exact .refl _
  · exact hb
  · exact fun _ _ h => h
  · exact fun _ h => h

/-- A burrow replaced by one with more of a tree. -/
theorem Grows.set {c : Burrow} (hs : (s.burrow bi).sameButTree c) (hc : c.bare) (hn : ∀ a n, (s.burrow bi).hasNode a n → c.hasNode a n)
    (hr : ∀ r ∈ (s.burrow bi).ranges, r ∈ c.ranges) : Grows bi s (s.setBurrow bi c) := by
  have hset := s.setBurrow_only bi c
  refine ⟨hset.mono rfl, fun i hi => s.burrow_setBurrow_ne hi c, ?_, ?_, ?_, ?_, memOnly.of_only hset (by decide) (by decide) _⟩
  all_goals rwa [s.burrow_setBurrow_same]

/-- Bytes stored in the storage of the burrow. -/
theorem Grows.put {a n : Nat} {b : Bytes} (h : Grows bi s t) (hr : (a, n) ∈ (t.burrow bi).ranges) (hb : b.length ≤ n) : Grows bi s (t.put a b) := by
  have hput := t.put_only a b
  have hbur (i : Nat) : (t.put a b).burrow i = t.burrow i := State.burrow_congr (hput .burrows (by decide)) i
  refine ⟨h.only.trans (hput.mono rfl), fun i hi => (hbur i).trans (h.others i hi), ?_, ?_, ?_, ?_, ?_⟩
  all_goals rw [hbur]
  · exact h.same
  · exact h.bare
  · exact h.nodes
  · exact h.ranges
  · exact h.memory.trans (t.put_memOnly hr hb)

/-- The root changed. -/
theorem Grows.root (hb : (s.burrow bi).bare) (a : Nat) : Grows bi s (s.setBurrow bi { s.burrow bi with root := a }) :=
  Grows.set rfl hb (fun _ _ h => h) (fun _ h => h)

/-! ### Leaves and nodes (R165, R186) -/

theorem State.putLeaf_eq (s : State) (bi a : Nat) (l : Leaf) : s.putLeaf bi a l = (chainImages a 0 l.side).foldl (fun s c => s.put c.1 c.2)
    (((s.setBurrow bi ((s.burrow bi).withLeaf a l)).put a (leafImage (s.burrow bi) l)).put l.keys (keyImage l)) := rfl

/-- An empty leaf stored. -/
theorem State.putLeaf_grows (hb : (s.burrow bi).bare) (a : Nat) {l : Leaf} (hi : l.items = []) (hl : l.side = []) :
    Grows bi s (s.putLeaf bi a l) := by
  have hbare := hb.withLeaf a hi hl
  have hset : Grows bi s (s.setBurrow bi ((s.burrow bi).withLeaf a l)) :=
    Grows.set (Burrow.withLeaf_same _ a l) hbare (fun _ _ h => h) (hb.ranges_withLeaf a hi hl)
  have hplace : (a, (s.burrow bi).leafBytes 0) ∈ ((s.burrow bi).withLeaf a l).ranges :=
    hbare.mem_ranges.mpr (.inr (.inr ⟨_, mem_tset _ a l, rfl⟩))
  have e : s.putLeaf bi a l = (s.setBurrow bi ((s.burrow bi).withLeaf a l)).put a (leafImage (s.burrow bi) l) := by
    have hkeys : keyImage l = [] := by rw [keyImage, hi]; rfl
    rw [State.putLeaf_eq, hl, hkeys]
    generalize State.put _ a (leafImage (s.burrow bi) l) = u
    exact u.put_nil l.keys
  rw [e]
  exact hset.put (by rwa [s.burrow_setBurrow_same]) (leafImage_length _ hi).le

theorem State.placeLeaf_only {n l a k : Nat} (h : s.placeLeaf k n = some (l, a, t)) : Only [.freeCount, .rotation] s t := by
  have hrot (u : State) (n : Nat) : Only [.freeCount, .rotation] u { u with rotation := n } := by
    intro p hp; cases p
    case rotation => simp at hp
    all_goals rfl
  unfold State.placeLeaf at h
  dsimp only at h
  split at h
  · cases h
    exact (s.drawn_only.mono rfl).trans (hrot _ _)
  · cases h

theorem State.newLeaves_grows {n : Nat} {as : List Nat} (hb : (s.burrow bi).bare) (h : s.newLeaves bi n = some (as, t)) : Grows bi s t := by
  induction n generalizing s as with
  | zero =>
    cases h
    exact .refl hb
  | succ n ih =>
    obtain ⟨⟨l, a, u⟩, hu, h⟩ := Option.bind_eq_some_iff.mp h
    obtain ⟨⟨rest, v⟩, hv, h⟩ := Option.bind_eq_some_iff.mp h
    cases h
    have hplaced := Grows.of_only hb (State.placeLeaf_only hu)
    have hput := hplaced.trans (State.putLeaf_grows hplaced.bare a
      (l := { Leaf.empty with root := (s.burrow bi).rootLeaf, version := 1, stack := l, keys := (s.burrow bi).ddrAt }) rfl rfl)
    exact hput.trans (ih hput.bare hv)

/-- The nodes of a burrow in use hold their storage. -/
theorem State.node_used {e : Nat × Node} (hs : (s.burrow bi).state = 1) (he : e ∈ (s.burrow bi).nodes) :
    (e.1, (s.burrow bi).nodeBytes e.2.children.length) ∈ s.usedRanges := by
  have hin : (bi, s.burrow bi) ∈ s.burrows := by
    unfold State.burrow tgetD at hs ⊢
    cases hg : tget s.burrows bi with
    | none => simp [hg, Burrow.free] at hs
    | some b => exact mem_of_tget hg
  unfold State.usedRanges State.liveRanges
  simp only [List.mem_append]
  refine .inl (.inl (.inl (.inl (.inr (List.mem_flatMap.mpr ⟨_, hin, ?_⟩)))))
  dsimp only
  rw [if_neg (by omega)]
  refine List.mem_append_left _ (List.mem_cons_of_mem _ (List.mem_cons_of_mem _ (List.mem_cons_of_mem _ ?_)))
  exact List.mem_map_of_mem (f := fun n : Nat × Node => (n.1, (s.burrow bi).nodeBytes n.2.children.length)) he

/-- A place for a node is not that of another node of the burrow. -/
theorem State.pick_newNode {r : Nat × Nat} {n a : Nat} {e : Nat × Node} (hs : (s.burrow bi).state = 1)
    (h : s.pick r ((s.burrow bi).nodeBytes n) 64 = some a) (he : e ∈ (s.burrow bi).nodes) : e.1 ≠ a := by
  have hout := State.pick_free (by decide) h _ (State.node_used hs he)
  have hpos (k : Nat) : 0 < (s.burrow bi).nodeBytes k := by
    unfold Burrow.nodeBytes
    omega
  have := hpos n
  have := hpos e.2.children.length
  omega

/-- Nodes placed: each stands at its address with its children. -/
theorem State.newNodes_grows {ns : List SkelNode} {as : List Nat} (hb : (s.burrow bi).bare) (hs : (s.burrow bi).state = 1)
    (h : s.newNodes bi ns = some (as, t)) :
    Grows bi s t ∧ ∀ p ∈ as.zip ns, (t.burrow bi).hasNode p.1 p.2.children.length := by
  induction ns generalizing s as with
  | nil =>
    cases h
    exact ⟨.refl hb, by simp⟩
  | cons n ns ih =>
    obtain ⟨⟨a, u⟩, hu, h⟩ := Option.bind_eq_some_iff.mp h
    obtain ⟨⟨rest, v⟩, hv, h⟩ := Option.bind_eq_some_iff.mp h
    cases h
    obtain ⟨hpick, rfl⟩ := State.place_eq_some hu
    have hnew {b k : Nat} (hb : (s.burrow bi).hasNode b k) : b ≠ a := by
      obtain ⟨m, hm, -⟩ := hb
      exact State.pick_newNode hs hpick (mem_of_tget hm)
    have hset : Grows bi s (s.drawn.setBurrow bi ((s.burrow bi).withNode a { Node.empty with children := n.children })) :=
      (Grows.of_only hb (s.drawn_only.mono rfl)).trans (Grows.set (s := s.drawn) (Burrow.withNode_same _ a _) hb
        (fun _ _ h => Burrow.hasNode_withNode_ne a (hnew h) _ h) (hb.ranges_withNode a fun _ h => absurd rfl (hnew h)))
    have hburrow : (s.drawn.setBurrow bi ((s.burrow bi).withNode a { Node.empty with children := n.children })).burrow bi = _ :=
      State.burrow_setBurrow_same _ _ _
    obtain ⟨hgrows, hnodes⟩ := ih hset.bare (by rw [hburrow]; exact hs) hv
    refine ⟨hset.trans hgrows, List.forall_mem_cons.mpr ⟨hgrows.nodes _ _ ?_, hnodes⟩⟩
    rw [hburrow]
    exact Burrow.hasNode_withNode a _ { Node.empty with children := n.children }

/-- A node stored where one with as many children stands. -/
theorem State.putNode_grows {a : Nat} {n : Node} (hb : (s.burrow bi).bare) (ha : (s.burrow bi).hasNode a n.children.length)
    (hc : n.cents.length = n.children.length) (hn : n.norms.length = n.children.length) (hd : ∀ c ∈ n.cents, c.length = (s.burrow bi).dim) :
    Grows bi s (s.putNode bi a n) := by
  have hset : Grows bi s (s.setBurrow bi ((s.burrow bi).withNode a n)) := by
    refine Grows.set (Burrow.withNode_same _ a n) hb (fun b k h => ?_) (hb.ranges_withNode a fun _ h => Burrow.hasNode_unique a h ha)
    by_cases hab : b = a
    · subst hab
      rw [Burrow.hasNode_unique b h ha]
      exact Burrow.hasNode_withNode b _ n
    · exact Burrow.hasNode_withNode_ne a hab n h
  have hplace : (a, (s.burrow bi).nodeBytes n.children.length) ∈ ((s.burrow bi).withNode a n).ranges :=
    (hb.withNode a n).mem_ranges.mpr (.inr (.inl ⟨_, mem_tset _ a n, rfl⟩))
  exact hset.put (by rwa [s.burrow_setBurrow_same]) (nodeImage_length hc hn hd).le

/-- A leaf of a burrow without items is empty. -/
theorem Burrow.bare.leaf {b : Burrow} (h : b.bare) (a : Nat) : (b.leaf a).items = [] ∧ (b.leaf a).side = [] := by
  unfold Burrow.leaf tgetD
  cases hg : tget b.leaves a with
  | none => exact ⟨rfl, rfl⟩
  | some l => exact h _ (mem_of_tget hg)

/-- Steps over a list that each let a tree grow, with what the later ones need of it. -/
theorem Grows.foldl {α : Type} {f : State → α → State} {l : List α}
    (hf : ∀ u, Grows bi s u → ∀ p ∈ l, Grows bi u (f u p)) (hst : Grows bi s t) : Grows bi s (l.foldl f t) := by
  induction l generalizing t with
  | nil => exact hst
  | cons p rest ih => exact ih (fun u hu q hq => hf u hu q (List.mem_cons_of_mem _ hq)) (hst.trans (hf t hst p List.mem_cons_self))

/-- The tree of a new burrow grows. -/
theorem State.plantTree_grows {sk : Option Skeleton} (hb : (s.burrow bi).bare) (hs : (s.burrow bi).state = 1)
    (hk : ∀ k, sk = some k → ∀ n ∈ k.nodes, n.shaped (s.burrow bi).dim) (h : s.plantTree bi sk = some t) : Grows bi s t := by
  cases sk with
  | none =>
    obtain ⟨⟨as, u⟩, hu, h⟩ := Option.bind_eq_some_iff.mp h
    cases h
    have hleaves := State.newLeaves_grows hb hu
    exact hleaves.trans (Grows.root hleaves.bare _)
  | some k =>
    obtain ⟨⟨ls, u⟩, hu, h⟩ := Option.bind_eq_some_iff.mp h
    obtain ⟨⟨ns, v⟩, hv, h⟩ := Option.bind_eq_some_iff.mp h
    cases h
    have hleaves := State.newLeaves_grows hb hu
    obtain ⟨hgrown, hnodes⟩ := State.newNodes_grows hleaves.bare (by rw [hleaves.same]; exact hs) hv
    have hroot := hgrown.trans (Grows.root hgrown.bare (ns.headD 0))
    have hplanted := hleaves.trans hroot
    refine Grows.foldl (fun w hw p _ => ?_) (hplanted.trans (Grows.foldl (fun w hw p hp => ?_) (Grows.refl hplanted.bare)))
    · obtain ⟨hi, hl⟩ := hw.bare.leaf p.2
      exact State.putLeaf_grows hw.bare _ hi hl
    · have hp' := (List.of_mem_zip hp).2
      obtain ⟨hc, hd⟩ := hk k rfl p.2.2 (List.of_mem_zip hp').2
      have hdim : (w.burrow bi).dim = (s.burrow bi).dim := by rw [(hplanted.trans hw).same]
      refine State.putNode_grows hw.bare ?_ (by simpa using hc) (by simpa using hc) (fun c hm => (hd c hm).trans hdim.symm)
      simpa using hw.nodes _ _ ((Grows.root hgrown.bare (ns.headD 0)).nodes _ _ (hnodes _ hp'))

end

/-! ### BURROW_CREATE (R150, R185–R191) -/

/-- A burrow with places for what does not move, and otherwise the same. -/
def Burrow.placed (b c : Burrow) : Prop :=
  c = { b with codebookAt := c.codebookAt, ddrAt := c.ddrAt, ddrRes := c.ddrRes, vecBase := c.vecBase, slotBase := c.slotBase }

/-- A burrow with its structures, and otherwise the same. -/
def Burrow.built (b c : Burrow) : Prop :=
  c = { b with codebookAt := c.codebookAt, ddrAt := c.ddrAt, ddrRes := c.ddrRes, vecBase := c.vecBase, slotBase := c.slotBase
               root := c.root, nodes := c.nodes, leaves := c.leaves, codebook := c.codebook, hbmRes := c.hbmRes }

/-- A burrow with its codebook's words and its reservation of HBM. -/
def Burrow.withBook (b : Burrow) (words : List Nat) (n : Nat) : Burrow := { b with codebook := words, hbmRes := n }

/-- From `s` to `t` one burrow is made, with places for what does not move; of the rest only free values are drawn. -/
structure Places (bi : Nat) (b : Burrow) (s t : State) : Prop where
  only   : Only [.freeCount, .burrows] s t
  others : ∀ i, i ≠ bi → t.burrow i = s.burrow i
  placed : b.placed (t.burrow bi)

section
variable {s t u : State} {bi : Nat} {b c : Burrow} {x : Work} {sk : Option Skeleton} {book : Bytes}

theorem Burrow.placed.trans {d : Burrow} (h : b.placed c) (k : c.placed d) : b.placed d := by
  unfold Burrow.placed at *
  rw [k, h]

theorem Burrow.placed.grown {d : Burrow} (h : b.placed c) (k : c.sameButTree d) (words : List Nat) (n : Nat) :
    b.built (d.withBook words n) := by
  unfold Burrow.withBook Burrow.placed Burrow.sameButTree Burrow.built at *
  rw [k, h]

theorem Places.drawn (h : Places bi b s t) : Places bi b s t.drawn :=
  ⟨h.only.trans (t.drawn_only.mono rfl), h.others, h.placed⟩

/-- The burrow written, where no other has changed. -/
theorem Places.set (ho : Only [.freeCount, .burrows] s t) (hi : ∀ i, i ≠ bi → t.burrow i = s.burrow i) (hc : b.placed c) :
    Places bi b s (t.setBurrow bi c) :=
  ⟨ho.trans ((t.setBurrow_only bi c).mono rfl), fun i h => (t.burrow_setBurrow_ne h c).trans (hi i h), by rwa [t.burrow_setBurrow_same]⟩

/-- One more place of the burrow written. -/
theorem Places.more (h : Places bi b s t) (hc : (t.burrow bi).placed c) : Places bi b s (t.setBurrow bi c) :=
  .set h.only h.others (h.placed.trans hc)

theorem State.placeBurrow_places (h : s.placeBurrow bi b = some t) : Places bi b s t := by
  obtain ⟨⟨cb, u⟩, hu, h⟩ := Option.bind_eq_some_iff.mp h
  obtain ⟨⟨dd, v⟩, hv, h⟩ := Option.bind_eq_some_iff.mp h
  obtain ⟨-, rfl⟩ := State.place_eq_some hu
  obtain ⟨-, rfl⟩ := State.place_eq_some hv
  have hbook : Places bi b s (s.drawn.setBurrow bi { b with codebookAt := cb }) := .set (s.drawn_only.mono rfl) (fun _ _ => rfl) rfl
  have hddr := hbook.drawn.more (c := { (s.drawn.setBurrow bi { b with codebookAt := cb }).drawn.burrow bi with
    ddrAt := dd, ddrRes := 48 * b.maxItems }) rfl
  have last {w : State} {vs sb : Nat} (hw : Places bi b s w) :
      Places bi b s (w.drawn.setBurrow bi { w.burrow bi with vecBase := vs, slotBase := sb }) := hw.drawn.more rfl
  dsimp only at h
  split at h
  · obtain ⟨⟨vs, w⟩, hw, h⟩ := Option.bind_eq_some_iff.mp h
    cases hw
    dsimp only at h
    split at h
    · cases h
    · obtain ⟨sb, -, h⟩ := Option.bind_eq_some_iff.mp h
      cases h
      exact last hddr
  · obtain ⟨⟨vs, w⟩, hw, h⟩ := Option.bind_eq_some_iff.mp h
    obtain ⟨-, rfl⟩ := State.place_eq_some hw
    dsimp only at h
    split at h
    · cases h
    · obtain ⟨sb, -, h⟩ := Option.bind_eq_some_iff.mp h
      cases h
      exact last hddr.drawn

/-- A burrow is built of what its descriptor asks for, within its own storage, and no other changes. -/
theorem State.buildBurrow_builds (h : s.buildBurrow x sk book = some t)
    (hk : ∀ k, sk = some k → ∀ n ∈ k.nodes, n.shaped (fld x.desc 34 2)) (hb : book.length ≤ bookLength x.desc) :
    Only plantParts s t ∧ (∀ i, i ≠ x.burrow → t.burrow i = s.burrow i) ∧ (s.burrowFor x sk).built (t.burrow x.burrow) ∧
      memOnly s t (t.burrow x.burrow).ranges := by
  obtain ⟨u, hu, rfl⟩ := Option.map_eq_some_iff.mp h
  obtain ⟨v, hv, hu⟩ := Option.bind_eq_some_iff.mp hu
  obtain ⟨hplace, hothers, hplaced⟩ := State.placeBurrow_places hv
  have hbare : (v.burrow x.burrow).bare := by
    rw [hplaced]
    exact fun _ he => absurd he List.not_mem_nil
  have hgrown := State.plantTree_grows hbare (by rw [hplaced]; rfl) (by rw [hplaced]; exact hk) hu
  generalize hc : (u.burrow x.burrow).withBook ((List.range (bookLength x.desc / 2)).map (fun i => fld book (2 * i) 2))
    (s.burrowFor x sk).hbmNeed = c
  have hbuilt : (s.burrowFor x sk).built c := hc ▸ hplaced.grown hgrown.same _ _
  have hranges : c.ranges = (u.burrow x.burrow).ranges := hc ▸ rfl
  have hbook : book.length ≤ c.bookBytes := by
    rw [hbuilt]
    exact hb
  have hset := u.setBurrow_only x.burrow c
  have hput := (u.setBurrow x.burrow c).put_only ((u.setBurrow x.burrow c).burrow x.burrow).codebookAt book
  have hbur (i : Nat) := (State.burrow_congr (hput .burrows (by decide)) i).trans (u.burrow_setBurrow x.burrow i c)
  have hmem : memOnly s (u.setBurrow x.burrow c) c.ranges :=
    ((memOnly.of_only hplace (by decide) (by decide) _).trans (hranges ▸ hgrown.memory)).trans (memOnly.of_only hset (by decide) (by decide) _)
  unfold Burrow.withBook at hc
  dsimp only
  rw [hc]
  refine ⟨((hplace.mono rfl).trans hgrown.only).trans ((hset.mono rfl).trans (hput.mono rfl)), fun i hi => ?_, ?_, ?_⟩
  · rw [hbur, if_neg hi, hgrown.others i hi, hothers i hi]
  · rwa [hbur, if_pos rfl]
  · rw [hbur, if_pos rfl]
    refine hmem.trans (State.put_memOnly _ (n := c.bookBytes) ?_ hbook)
    rw [u.burrow_setBurrow_same]
    exact List.mem_cons_self

end

section
variable {w : Nat} {x : Work} {skel book : Bytes} {s s' : State}

theorem burrowCreate_taken (hx : startable s w x 0x15) (h : (s.burrow x.burrow).state ≠ 0) :
    Does (.burrowCreate w book skel) s [.works, .waits] (fun t => hasResult t w (Result.err 0x10 32)) :=
  Does.finishes hx rfl ((State.withWork_startable hx _).trans (if_pos h))

/-- A work whose act behind its accesses ends it has its result. -/
theorem hasResult_used {u : State} {r : Result} (hx : s.work w = some x) (hw : s.works = u.works) (i : Nat) :
    hasResult ((u.finish w r).used i) w r :=
  hasResult_congr (State.hasResult_finish ((State.work_congr hw w).trans hx) r) (State.used_works _ _).symm

/-- A skeleton, an allotment or a limit that R187 or R191 refuses. -/
theorem burrowCreate_refused (hx : startable s w x 0x15) (h : (s.burrow x.burrow).state = 0) (hr : readable s x (s.createReads x skel) s')
    {off : Nat} (hf : s'.createFails x (s'.readSkeleton x skel) = some off) :
    Does (.burrowCreate w book skel) s (.works :: accessParts x s') (fun t => hasResult t w (Result.err 0x12 off)) := by
  have e : burrowCreateSt w book skel s = (s'.finish w (Result.err 0x12 off)).used x.id := by
    refine (State.withWork_startable hx _).trans ((if_neg (not_not_intro h)).trans ((State.withReads_readable hr _).trans ?_))
    simp only [hf]
  have hgate := State.gate_go hx.unstalled hr.1
  exact Does.of_eq rfl e (State.used_after (qs := [.works]) hgate (s'.finish_only _ _) (by decide) rfl)
    (hasResult_used hx.1 (State.access_works hgate) _)

/-- A burrow created. -/
theorem burrowCreate_built (hx : startable s w x 0x15) (h : (s.burrow x.burrow).state = 0) (hr : readable s x (s.createReads x skel) s')
    {b : State} (hf : s'.createFails x (s'.readSkeleton x skel) = none)
    (hb : s'.buildBurrow x (s'.readSkeleton x skel) (s'.readAt x (descOp0 x.desc) (bookLength x.desc) book) = some b) :
    Does (.burrowCreate w book skel) s
      (plus [.freeCount, .works, .memory, .poison, .fill, .firstTouch, .burrows, .rotation] (accessParts x s')) (fun t =>
        (s'.burrowFor x (s'.readSkeleton x skel)).built (t.burrow x.burrow) ∧ (∀ i, i ≠ x.burrow → t.burrow i = s.burrow i) ∧
        (clear x s' → memOnly s t (t.burrow x.burrow).ranges) ∧ hasResult t w (Result.done (skelLeaves (s'.readSkeleton x skel)))) := by
  generalize hn : Result.done (skelLeaves (s'.readSkeleton x skel)) = r
  have e : burrowCreateSt w book skel s = (b.finish w r).used x.id := by
    refine (State.withWork_startable hx _).trans ((if_neg (not_not_intro h)).trans ((State.withReads_readable hr _).trans ?_))
    simp only [hf, hb, hn]
  have hgate := State.gate_go hx.unstalled hr.1
  obtain ⟨hbuild, hothers, hbuilt, hmem⟩ := State.buildBurrow_builds hb (fun k hk => State.readSkeleton_shaped hk) (s'.readAt_length x _ _ book)
  have hfin := b.finish_only w r
  have hact : Only (.works :: .waits :: plantParts) s' (b.finish w r) := (hbuild.mono rfl).trans (hfin.mono rfl)
  have hused := (b.finish w r).used_only x
  rw [accessParts_congr (hact .recalled (by decide))] at hused
  have hbur (i : Nat) : ((b.finish w r).used x.id).burrow i = b.burrow i :=
    (State.burrow_congr (State.access_burrows hused) i).trans (State.burrow_congr (hfin .burrows (by decide)) i)
  refine Does.of_eq rfl e (State.used_after hgate hact (by decide) rfl) ⟨?_, fun i hi => ?_, fun hc => ?_, ?_⟩
  · rwa [hbur]
  · exact (hbur i).trans ((hothers i hi).trans (State.burrow_congr (State.access_burrows hgate) i))
  · rw [hbur]
    exact ((State.access_memOnly hc hgate _).trans hmem).trans
      ((memOnly.of_only hfin (by decide) (by decide) _).trans (State.access_memOnly hc hused _))
  · exact hasResult_used hx.1 ((State.access_works hgate).trans (hbuild .works (by decide))) _

end

/-- Settles O20: CREATE by what its reads, its checks and its places allow, FREEZE, THAW and DROP by the burrow's state. -/
theorem burrowsAreCreatedFrozenAndDropped : Obligations.BurrowsAreCreatedFrozenAndDropped := by
  unfold Obligations.BurrowsAreCreatedFrozenAndDropped
  refine ⟨fun w x book skel s s' hx => ⟨burrowCreate_taken hx, fun h hr => ⟨fun off hf => burrowCreate_refused hx h hr hf, fun b hf hb => ?_⟩⟩,
    fun w x s => ⟨burrowFreeze_active, burrowFreeze_refused, burrowThaw_frozen, burrowThaw_refused, burrowDrop_first, burrowDrop_second,
      burrowDrop_free⟩⟩
  obtain ⟨t, he, ho, hbuilt, hothers, hmem, hres⟩ := burrowCreate_built (book := book) hx h hr hf hb
  refine ⟨t, he, ho, ?_⟩
  have hn {α : Type} (f : Burrow → α) : f (t.burrow x.burrow) = f _ := congrArg f hbuilt
  exact ⟨hn Burrow.state, hn Burrow.tenancy, hn Burrow.dim, hn Burrow.vecFmt, hn Burrow.metric, hn Burrow.pqM, hn Burrow.pqBits,
    hn Burrow.maxItems, hn Burrow.items, hn Burrow.nextSeq, hn Burrow.snapSeq, hn Burrow.itemMap, hothers, hmem, hres⟩

end Sys2Proof.Machine
end

section
/-!
SUPPORT. Orders and selection: scores that are not NaN are ordered as the numbers they stand for, a sort leaves nothing behind what comes after
it, and what the scan and the top-k unit keep are the best; the statements of O22 and O24 put together from that.
-/

namespace Sys2Proof.Machine

/-! ### Weak orders and sorting -/

/-- A strict comparison orders what meets `p`: of two elements at most one comes before the other, and to come no later is transitive. -/
structure WeakOrder {α : Type} (lt : α → α → Bool) (p : α → Prop) : Prop where
  asymm : ∀ a b, p a → p b → lt a b = true → lt b a = false
  trans : ∀ a b c, p a → p b → p c → lt b a = false → lt c b = false → lt c a = false

section
variable {α : Type} {lt : α → α → Bool} {p : α → Prop}

theorem WeakOrder.irrefl (h : WeakOrder lt p) {a : α} (ha : p a) : lt a a = false := by
  cases hlt : lt a a
  · rfl
  · exact hlt ▸ h.asymm a a ha ha hlt

/-- A comparison of keys of a linear order. -/
theorem WeakOrder.of_key {β : Type} [LinearOrder β] (key : α → β) (h : ∀ a b, p a → p b → (lt a b = true ↔ key a < key b)) :
    WeakOrder lt p := by
  have hle (a b : α) (ha : p a) (hb : p b) : lt a b = false ↔ key b ≤ key a := by
    rw [← Bool.not_eq_true, h a b ha hb, not_lt]
  refine ⟨fun a b ha hb hlt => ?_, fun a b c ha hb hc hba hcb => ?_⟩
  · exact (hle b a hb ha).mpr ((h a b ha hb).mp hlt).le
  · exact (hle c a hc ha).mpr (((hle b a hb ha).mp hba).trans ((hle c b hc hb).mp hcb))

/-- Elements level in a weak order, ordered by their positions. -/
theorem WeakOrder.byPos (h : WeakOrder lt p) (pos : α → Nat) :
    WeakOrder (fun a b => lt a b || (!lt b a && decide (pos a < pos b))) p := by
  have hnot (a b : α) : (lt a b || (!lt b a && decide (pos a < pos b))) = false ↔ lt a b = false ∧ (lt b a = true ∨ pos b ≤ pos a) := by
    cases lt a b <;> cases lt b a <;> simp
  refine ⟨fun a b ha hb hab => ?_, fun a b c ha hb hc hba hcb => ?_⟩
  · rw [hnot]
    cases hlt : lt a b
    · have hlevel : lt b a = false ∧ pos a < pos b := by simpa [hlt] using hab
      exact ⟨hlevel.1, .inr hlevel.2.le⟩
    · exact ⟨h.asymm a b ha hb hlt, .inl rfl⟩
  · rw [hnot] at hba hcb ⊢
    obtain ⟨hba, hposab⟩ := hba
    obtain ⟨hcb, hposbc⟩ := hcb
    refine ⟨h.trans a b c ha hb hc hba hcb, ?_⟩
    cases hac : lt a c
    · have hab : lt a b = false := h.trans b c a hb hc ha hcb hac
      have hbc : lt b c = false := h.trans c a b hc ha hb hac hba
      simp only [hab, hbc, Bool.false_eq_true, false_or] at hposab hposbc
      exact .inr (hposab.trans hposbc)
    · exact .inl rfl

theorem WeakOrder.pairwise_insertBy (h : WeakOrder lt p) {x : α} {l : List α} (hx : p x) (hl : ∀ a ∈ l, p a)
    (hs : l.Pairwise (fun a b => lt b a = false)) : (insertBy lt x l).Pairwise (fun a b => lt b a = false) := by
  induction l with
  | nil => exact List.pairwise_singleton _ _
  | cons z t ih =>
    obtain ⟨hz, ht⟩ := List.pairwise_cons.mp hs
    obtain ⟨pz, pt⟩ := List.forall_mem_cons.mp hl
    unfold insertBy
    split
    · next hlt =>
      have hzx := h.asymm x z hx pz hlt
      refine List.pairwise_cons.mpr ⟨List.forall_mem_cons.mpr ⟨hzx, fun y hy => ?_⟩, hs⟩
      exact h.trans x z y hx pz (pt y hy) hzx (hz y hy)
    · next hlt =>
      refine List.pairwise_cons.mpr ⟨fun y hy => ?_, ih pt ht⟩
      obtain rfl | hy := mem_insertBy.mp hy
      · exact Bool.not_eq_true _ ▸ hlt
      · exact hz y hy

/-- A sort leaves no element before one that the comparison puts before it. -/
theorem WeakOrder.pairwise_sortBy (h : WeakOrder lt p) {l : List α} (hl : ∀ a ∈ l, p a) :
    (sortBy lt l).Pairwise (fun a b => lt b a = false) := by
  have sorted (acc : List α) (hacc : ∀ a ∈ acc, p a) (hs : acc.Pairwise (fun a b => lt b a = false)) :
      (l.foldl (fun acc x => insertBy lt x acc) acc).Pairwise (fun a b => lt b a = false) := by
    induction l generalizing acc with
    | nil => exact hs
    | cons z t ih =>
      obtain ⟨pz, pt⟩ := List.forall_mem_cons.mp hl
      refine ih pt _ (fun a ha => ?_) (h.pairwise_insertBy pz hacc hs)
      obtain rfl | ha := mem_insertBy.mp ha
      · exact pz
      · exact hacc a ha
  exact sorted [] (by simp) List.Pairwise.nil

theorem length_insertBy (lt : α → α → Bool) (x : α) (l : List α) : (insertBy lt x l).length = l.length + 1 := by
  induction l with
  | nil => rfl
  | cons z t ih =>
    unfold insertBy
    split
    · rfl
    · rw [List.length_cons, ih, List.length_cons]

theorem length_sortBy (lt : α → α → Bool) (l : List α) : (sortBy lt l).length = l.length := by
  have grows (acc : List α) : (l.foldl (fun acc x => insertBy lt x acc) acc).length = acc.length + l.length := by
    induction l generalizing acc with
    | nil => rfl
    | cons z t ih =>
      rw [List.foldl_cons, ih, length_insertBy, List.length_cons]
      omega
  exact (grows []).trans (Nat.zero_add _)

end

/-! ### The order of scores (R229, R230) -/

/-- The number a value stands for, with the infinities around all others. -/
def Fp.number : Fp → WithBot (WithTop ℚ)
  | .nan => ⊥
  | .inf true => ⊥
  | .inf false => ((⊤ : WithTop ℚ) : WithBot (WithTop ℚ))
  | .fin neg m e => (((sgn neg m * 2 ^ e : ℚ) : WithTop ℚ) : WithBot (WithTop ℚ))

/-- A multiple of a power of two, in units of a smaller one. -/
theorem sgn_scale (neg : Bool) (m : Nat) {e lo : Int} (h : lo ≤ e) :
    ((sgn neg (m * 2 ^ (e - lo).toNat) : Int) : ℚ) * 2 ^ lo = (sgn neg m : ℚ) * 2 ^ e := by
  have hpow : ((2 : ℚ) ^ (e - lo).toNat) * 2 ^ lo = 2 ^ e := by
    rw [← zpow_natCast, Int.toNat_of_nonneg (sub_nonneg.mpr h), ← zpow_add₀ two_ne_zero, sub_add_cancel]
  rw [← hpow]
  unfold sgn
  split <;> push_cast <;> ring

/-- Values that are not NaN are ordered as their numbers. -/
theorem Fp.lt_iff {a b : Fp} (ha : a.isNan = false) (hb : b.isNan = false) : a.lt b = true ↔ a.number < b.number := by
  cases a with
  | nan => cases ha
  | inf s =>
    cases b with
    | nan => cases hb
    | inf t => cases s <;> cases t <;> simp [Fp.lt, Fp.number]
    | fin t n k =>
      cases s
      · exact iff_of_false Bool.false_ne_true (WithBot.coe_lt_coe.not.mpr not_top_lt)
      · exact iff_of_true rfl (WithBot.bot_lt_coe _)
  | fin s m e =>
    cases b with
    | nan => cases hb
    | inf t =>
      cases t
      · exact iff_of_true rfl (WithBot.coe_lt_coe.mpr (WithTop.coe_lt_top _))
      · exact iff_of_false Bool.false_ne_true not_lt_bot
    | fin t n k =>
      have hlo : (0 : ℚ) < 2 ^ min e k := zpow_pos two_pos _
      simp only [Fp.lt, Fp.number, decide_eq_true_eq, WithBot.coe_lt_coe, WithTop.coe_lt_coe]
      rw [← sgn_scale s m (min_le_left e k), ← sgn_scale t n (min_le_right e k), mul_lt_mul_iff_left₀ hlo, Int.cast_lt]

/-- Candidates are ordered by score, and level ones by position (R219). -/
theorem weakOrder_candBefore : WeakOrder candBefore (fun c => (f32 c.score).isNan = false) := by
  have score : WeakOrder (fun a b : Cand => scoreBefore a.score b.score) (fun c => (f32 c.score).isNan = false) :=
    .of_key (fun c => OrderDual.toDual (f32 c.score).number) fun _ _ ha hb => Fp.lt_iff hb ha
  exact score.byPos Cand.pos

/-- Entries are ordered by score, in either direction, and level ones by position (R229). -/
theorem weakOrder_entryBefore (asc : Bool) : WeakOrder (entryBefore asc) (fun e => e.val.isNan = false) := by
  cases asc
  · have score : WeakOrder (fun a b : Entry => b.val.lt a.val) (fun e => e.val.isNan = false) :=
      .of_key (fun e => OrderDual.toDual e.val.number) fun _ _ ha hb => Fp.lt_iff hb ha
    exact score.byPos Entry.pos
  · have score : WeakOrder (fun a b : Entry => a.val.lt b.val) (fun e => e.val.isNan = false) :=
      .of_key (fun e => e.val.number) fun _ _ ha hb => Fp.lt_iff ha hb
    exact score.byPos Entry.pos

/-! ### The scan (R215, R216, R219) -/

/-- What a scan accepts is an item of a leaf that is visible and passes, under its leaf's rank, with its code score. -/
theorem Burrow.mem_scan {b : Burrow} {d : Bytes} {sets : List Nat} {q : List Fp} {S : Nat} {leaves : List (Nat × Nat)} {c : Cand}
    (h : c ∈ b.scan d sets q S leaves) :
    (f32 c.score).isNan = false ∧ ∃ p ∈ leaves, ∃ i ∈ (b.leaf p.2).visible b.merged S, passes d sets i.attr = true ∧
      c.key = i.key ∧ c.slot = i.slot ∧ c.pos = p.1 * 65536 + i.j ∧ c.score = b.codeScore q i.code := by
  obtain ⟨p, hp, h⟩ := List.mem_flatMap.mp h
  obtain ⟨i, hi, h⟩ := List.mem_filterMap.mp h
  obtain ⟨hi, hpass⟩ := List.mem_filter.mp hi
  dsimp only at h
  split at h
  · cases h
  · next hnan =>
    obtain rfl := Option.some.inj h
    exact ⟨Bool.not_eq_true _ ▸ hnan, p, hp, i, hi, hpass, rfl, rfl, rfl, rfl⟩

/-- Settles O22: what is kept is the front of what the scan accepts, sorted. -/
theorem aScanKeepsTheBestVisibleItems : Obligations.AScanKeepsTheBestVisibleItems := by
  unfold Obligations.AScanKeepsTheBestVisibleItems
  intro s b x sets q n
  dsimp only [State.walkScan]
  generalize hls : List.filter _ _ = ls
  generalize hfound : b.scan x.desc sets q x.snap ls = found
  refine ⟨?_, ?_, fun c hc => ?_⟩
  · rw [List.length_take, length_sortBy, Nat.min_comm]
  · refine (weakOrder_candBefore.pairwise_sortBy fun c hc => ?_).sublist (List.take_sublist _ _)
    exact (Burrow.mem_scan (hfound ▸ hc)).1
  · have hc := mem_sortBy.mp (List.mem_of_mem_take hc)
    obtain ⟨-, ⟨k, a⟩, hp, i, hi, hitem⟩ := Burrow.mem_scan (hfound ▸ hc)
    have hwalked := (List.of_mem_zip (List.mem_filter.mp (hls ▸ hp)).1).2
    exact ⟨k, a, i, hi, hwalked, hitem⟩

/-! ### The selection of a row (R229–R233) -/

section
variable {seen : List Nat} {l : List Entry}

theorem dedupEntries_sublist (seen : List Nat) (l : List Entry) : (dedupEntries seen l).Sublist l := by
  induction l generalizing seen with
  | nil => exact List.Sublist.refl _
  | cons e t ih =>
    unfold dedupEntries
    split
    · exact (ih seen).cons e
    · exact (ih _).cons_cons e

theorem dedupEntries_unseen {e : Entry} (h : e ∈ dedupEntries seen l) : e.key ∉ seen := by
  induction l generalizing seen with
  | nil => cases h
  | cons z t ih =>
    unfold dedupEntries at h
    split at h
    · exact ih h
    · next hz =>
      obtain rfl | h := List.mem_cons.mp h
      · simpa using hz
      · exact fun hs => ih h (List.mem_cons_of_mem _ hs)

theorem dedupEntries_nodup (seen : List Nat) (l : List Entry) : ((dedupEntries seen l).map (·.key)).Nodup := by
  induction l generalizing seen with
  | nil => exact List.nodup_nil
  | cons z t ih =>
    unfold dedupEntries
    split
    · exact ih seen
    · refine List.nodup_cons.mpr ⟨fun hm => ?_, ih _⟩
      obtain ⟨e, he, hk⟩ := List.mem_map.mp hm
      exact dedupEntries_unseen he (hk ▸ List.mem_cons_self)

/-- Of the copies of an index the first is kept, behind which the others stand. -/
theorem dedupEntries_first {R : Entry → Entry → Prop} (hr : ∀ e ∈ l, R e e) (hs : l.Pairwise R) {e : Entry} (he : e ∈ l)
    (hn : e.key ∉ seen) : ∃ f ∈ dedupEntries seen l, f.key = e.key ∧ R f e := by
  induction l generalizing seen with
  | nil => cases he
  | cons z t ih =>
    obtain ⟨hz, ht⟩ := List.pairwise_cons.mp hs
    obtain ⟨rz, rt⟩ := List.forall_mem_cons.mp hr
    unfold dedupEntries
    split
    · next hseen =>
      obtain rfl | he := List.mem_cons.mp he
      · exact absurd (List.contains_iff_mem.mp hseen) hn
      · exact ih rt ht he hn
    · obtain rfl | he := List.mem_cons.mp he
      · exact ⟨e, List.mem_cons_self, rfl, rz⟩
      · by_cases hk : e.key = z.key
        · exact ⟨z, List.mem_cons_self, hk.symm, hz e he⟩
        · obtain ⟨f, hf, hfe⟩ := ih rt ht he (seen := z.key :: seen) (by simp [hk, hn])
          exact ⟨f, List.mem_cons_of_mem _ hf, hfe⟩

end

/-- Settles O24: the entries kept are the front of those that stand first under their index in the sorted list. -/
theorem selectionKeepsTheBest : Obligations.SelectionKeepsTheBest := by
  unfold Obligations.SelectionKeepsTheBest
  intro asc k es
  dsimp only [topRow]
  generalize hcand : es.filter (fun e => !e.val.isNan && e.key != noItem) = cand
  have hmem (e : Entry) : e ∈ cand ↔ e ∈ es ∧ (!e.val.isNan && e.key != noItem) = true := hcand ▸ List.mem_filter
  have hnum (e : Entry) (he : e ∈ cand) : e.val.isNan = false := by
    have hok := ((hmem e).mp he).2
    simp only [Bool.and_eq_true, Bool.not_eq_true'] at hok
    exact hok.1
  have order := weakOrder_entryBefore asc
  generalize hsorted : sortBy (entryBefore asc) cand = l
  have hl (e : Entry) : e ∈ l ↔ e ∈ cand := hsorted ▸ mem_sortBy
  have hs : l.Pairwise (fun a b => entryBefore asc b a = false) := hsorted ▸ order.pairwise_sortBy hnum
  have hsub := dedupEntries_sublist [] l
  have hnodup := dedupEntries_nodup [] l
  have hfirst {e : Entry} (he : e ∈ cand) : ∃ f ∈ dedupEntries [] l, f.key = e.key ∧ entryBefore asc e f = false :=
    dedupEntries_first (R := fun a b => entryBefore asc b a = false) (fun a ha => order.irrefl (hnum a ((hl a).mp ha))) hs ((hl e).mpr he)
      List.not_mem_nil
  generalize dedupEntries [] l = kept at hsub hnodup hfirst
  have hkept {e : Entry} (he : e ∈ kept) : e ∈ cand := (hl e).mp (hsub.subset he)
  refine ⟨hnodup.sublist ((List.take_sublist k kept).map _), ?_, fun i hi => ?_, fun hshort e he hok => ?_, fun e he hok hout i hi => ?_⟩
  · rw [List.length_map]
    exact List.length_take_le k kept
  · obtain ⟨f, hf, rfl⟩ := List.mem_map.mp hi
    obtain ⟨hes, hok⟩ := (hmem f).mp (hkept (List.mem_of_mem_take hf))
    exact ⟨f, hes, hok, rfl⟩
  · obtain ⟨f, hf, hk, -⟩ := hfirst ((hmem e).mpr ⟨he, hok⟩)
    have hall : kept.length ≤ k := by
      rw [List.length_map, List.length_take] at hshort
      omega
    rw [List.take_of_length_le hall, ← hk]
    exact List.mem_map_of_mem hf
  · have hec := (hmem e).mpr ⟨he, hok⟩
    obtain ⟨g, hg, hk, hge⟩ := hfirst hec
    obtain ⟨f, hf, rfl⟩ := List.mem_map.mp hi
    have hfc := hkept (List.mem_of_mem_take hf)
    obtain ⟨hes, hokf⟩ := (hmem f).mp hfc
    refine ⟨f, hes, hokf, rfl, ?_⟩
    have hdrop : g ∈ kept.drop k := by
      rw [← List.take_append_drop k kept] at hg
      refine (List.mem_append.mp hg).resolve_left fun hin => hout ?_
      exact hk ▸ List.mem_map_of_mem hin
    have hsplit := hs.sublist hsub
    rw [← List.take_append_drop k kept] at hsplit
    have hfg := (List.pairwise_append.mp hsplit).2.2 f hf g hdrop
    exact order.trans f g e (hnum f hfc) (hnum g (hkept hg)) (hnum e hec) hfg hge

end Sys2Proof.Machine
end

section
/-!
SUPPORT. Works of the top-k unit whose operands and results lie in host memory: accesses that are let through have addresses of a class that is
not reserved, and the blocks written leave in order; the statement of O25 put together from that.
-/

namespace Sys2Proof.Machine

/-! ### Addresses of accesses that are let through (R468, R470) -/

section
variable {s t : State} {x : Work}

theorem leNat_lt (b : Bytes) : leNat b < 256 ^ b.length := by
  induction b with
  | nil => exact Nat.one_pos
  | cons c t ih =>
    have hc : c.toNat < 256 := c.isLt
    rw [List.length_cons, pow_succ]
    unfold leNat
    omega

theorem fld_lt (b : Bytes) (off n : Nat) : fld b off n < 256 ^ n :=
  (leNat_lt _).trans_le (Nat.pow_le_pow_right (by decide) (by simp))

/-- A piece of an access that is let through breaks no rule of R470. -/
theorem State.gatePiece_legal {write : Bool} {p : Nat × Nat} (h : s.gatePiece x none write p = .go t) : addrLegal p.1 = true := by
  by_contra hn
  have hl : s.locate x.tenancy x.xltRoot p.1 p.2 write = (.fault .malformed 0, s) := by
    unfold State.locate
    simp [hn]
  unfold State.gatePiece at h
  rw [hl] at h
  cases h

theorem State.gatePieces_legal {l : List (Bool × Nat × Nat)} (h : s.gatePieces x none l = .go t) : ∀ p ∈ l, addrLegal p.2.1 = true := by
  induction l generalizing s with
  | nil => simp
  | cons e rest ih =>
    unfold State.gatePieces at h
    split at h
    · next u hu => exact List.forall_mem_cons.mpr ⟨State.gatePiece_legal hu, ih h⟩
    · cases h

/-- An access of some bytes begins with a piece at its own address. -/
theorem pieces_head {n : Nat} (a : Nat) (h : 0 < n) : ∃ k, (a, k) ∈ pieces a n := by
  unfold pieces linesOf
  rw [if_neg (by omega)]
  exact ⟨_, List.mem_cons_self⟩

theorem pieces_zero (a : Nat) : pieces a 0 = [] := rfl

/-- An access of some bytes that is let through lies in host memory or at a legal device address. -/
theorem State.gate_legal {accs : List (Nat × Nat × Bool)} (h : letThrough s x accs t) {a : Nat × Nat × Bool} (ha : a ∈ accs)
    (hn : 0 < a.2.1) (hc : addrClass a.1 ≠ 0) : addrLegal a.1 = true := by
  unfold letThrough State.gate State.gateBy at h
  split at h
  · cases h
  · dsimp only at h
    split at h
    · cases h
    · obtain ⟨k, hk⟩ := pieces_head a.1 hn
      refine State.gatePieces_legal h (a.2.2, a.1, k) ?_
      exact List.mem_flatMap.mpr ⟨a, List.mem_filter.mpr ⟨ha, by simpa using hc⟩, List.mem_map.mpr ⟨_, hk, rfl⟩⟩

/-- Accesses to host memory that are let through leave the state as it is. -/
theorem State.gate_hosts {accs : List (Nat × Nat × Bool)} (h : letThrough s x accs t) (hc : ∀ a ∈ accs, addrClass a.1 = 0 ∨ a.2.1 = 0) :
    t = s := by
  have hdev : (accs.filter (fun a => addrClass a.1 != 0)).flatMap (fun a => (pieces a.1 a.2.1).map (fun p => (a.2.2, p))) = [] := by
    refine List.flatMap_eq_nil_iff.mpr fun a ha => ?_
    obtain ⟨ha, hne⟩ := List.mem_filter.mp ha
    have hz : a.2.1 = 0 := (hc a ha).resolve_left (by simpa using hne)
    rw [hz, pieces_zero, List.map_nil]
  unfold letThrough State.gate State.gateBy at h
  split at h
  · cases h
  · dsimp only at h
    split at h
    · cases h
    · rw [hdev] at h
      exact (Gate.go.inj h).symm

theorem addrClass_eq_zero {a : Nat} : addrClass a = 0 ↔ a % 2 ^ 64 < 2 ^ 62 := by
  unfold addrClass bits
  omega

theorem addrLegal_class {a : Nat} (h : addrLegal a = true) : addrClass a ≠ 1 := by
  intro h1
  unfold addrLegal at h
  rw [h1] at h
  cases h

/-- An access let through that begins a little behind a host address is one of the host's. -/
theorem State.gate_host_offset {accs : List (Nat × Nat × Bool)} (h : letThrough s x accs t) {b k n : Nat} {wr : Bool}
    (ha : (b + k, n, wr) ∈ accs) (hb : addrClass b = 0) (hlt : b < 2 ^ 64) (hk : k < 2 ^ 62) : addrClass (b + k) = 0 ∨ n = 0 := by
  by_cases hn : n = 0
  · exact .inr hn
  · refine .inl (by_contra fun hc => ?_)
    have hlegal := addrLegal_class (State.gate_legal h ha (Nat.pos_of_ne_zero hn) hc)
    rw [addrClass_eq_zero] at hb hc
    unfold addrClass bits at hlegal
    omega

/-! ### What is read from and written to host memory -/

theorem State.poisonedAt_host {a n : Nat} (h : addrClass a = 0 ∨ n = 0) : s.poisonedAt x a n = false := by
  unfold State.poisonedAt
  obtain h | rfl := h
  · simp [h]
  · simp [pieces_zero]

theorem State.readAt_host {a n : Nat} (h : addrClass a = 0 ∨ n = 0) (host : Bytes) : s.readAt x a n host = slice host 0 n := by
  unfold State.readAt State.readBy
  obtain h | rfl := h
  · exact if_pos h
  · rw [pieces_zero, show slice host 0 0 = [] from List.eq_nil_of_length_eq_zero (slice_length _ _ _)]
    exact ite_self _

/-- Outputs that have left join those before. -/
def State.sending (s : State) (os : List Output) : State := { s with out := s.out ++ os }

theorem State.sending_only (s : State) (os : List Output) : Only [.out] s (s.sending os) := s.out_only _

theorem State.sending_sends {port : Nat} {os : List Output} (hs : sends s port) : sends (s.sending os) port := hs

theorem State.sending_sending (s : State) (os ps : List Output) : (s.sending os).sending ps = s.sending (os ++ ps) := by
  simp [State.sending]

/-- What a work sends that writes bytes into host memory. -/
def hostBlock (x : Work) (a : Nat) (b : Bytes) : List Output := if b = [] then [] else [.dma x.port x.pasid a b]

theorem hostBlock_ne_nil {a : Nat} {b : Bytes} (h : b ≠ []) : hostBlock x a b = [.dma x.port x.pasid a b] := if_neg h

/-- Bytes written into host memory by a work whose port sends. -/
theorem State.writeAt_sent {a : Nat} (hs : sends s x.port) (ha : addrClass a = 0) (b : Bytes) :
    s.writeAt x a b = s.sending (hostBlock x a b) := by
  by_cases hb : b = []
  · rw [hb, hostBlock, if_pos rfl, State.sending, List.append_nil]
    rfl
  · rw [hostBlock_ne_nil hb]
    exact (State.writeAt_host ha hb).trans (s.emit_port rfl hs)

/-- Blocks written into host memory leave in their order. -/
theorem State.writeAts_sent {l : List Nat} {addr : Nat → Nat} {block : Nat → Bytes} (hs : sends s x.port)
    (ha : ∀ r ∈ l, addrClass (addr r) = 0) (hb : ∀ r, block r ≠ []) :
    l.foldl (fun s r => s.writeAt x (addr r) (block r)) s = s.sending (l.map (fun r => .dma x.port x.pasid (addr r) (block r))) := by
  induction l generalizing s with
  | nil => simp [State.sending]
  | cons r rest ih =>
    obtain ⟨hr, hrest⟩ := List.forall_mem_cons.mp ha
    rw [List.foldl_cons, State.writeAt_sent hs hr, hostBlock_ne_nil (hb r), ih (State.sending_sends hs) hrest, State.sending_sending]
    rfl

theorem State.passUnit_go {w cell t : Nat} {ms : List Nat} {u : State} (h : s.passUnit w cell t ms = .go u) :
    Only [.slots, .counters, .waits] s u := by
  have hp := s.passUnit_only w cell t ms
  rwa [h] at hp

/-- The step of a work that sends its results and ends, behind accesses that change what units' service does. -/
theorem Does.sends_finishes {c : Instr} {u : State} {w : Nat} {os : List Output} {r : Result} (hw : s.work w = some x)
    (hgo : Only [.slots, .counters, .waits] s t) (he : exec c s = .next u) (e : u = ((t.sending os).finish w r).used x.id) :
    Does c s (plus [.out, .works] (accessParts x t)) (fun u => (clear x t → u.out = s.out ++ os) ∧ hasResult u w r) := by
  have hact : Only [.out, .works, .waits] t ((t.sending os).finish w r) :=
    ((t.sending_only os).mono rfl).trans ((State.finish_only _ w r).mono rfl)
  have hout : t.out = s.out := (hgo .out (by decide)).symm
  refine Does.of_eq he e (State.used_after (hgo.access (qs := []) rfl x t) hact (by decide) rfl) ⟨fun hc => ?_, ?_⟩
  · have hclear : clear x ((t.sending os).finish w r) := hc
    rw [State.used_out _ hclear, ← hout]
    rfl
  · exact hasResult_used (u := t.sending os) hw (hgo .works (by decide)) _

end

/-! ### TOPK (R235–R238) -/

/-- What a TOPK reads of a row: its scores, and its indices where they are given. -/
def topkRowReads (d : Bytes) (r : Nat) : List (Nat × Nat) :=
  (descOp0 d + r * fld d 44 4, fld d 32 4 * scoreBytes (fld d 40 1)) ::
    (if descOp1 d = 0 then [] else [(descOp1 d + r * 8 * fld d 32 4, 8 * fld d 32 4)])

/-- What a TOPK reads. -/
def topkReads (d : Bytes) : List (Nat × Nat) := (List.range (fld d 38 2)).flatMap (topkRowReads d)

/-- Where the result row of a row stands. -/
def topkAddr (d : Bytes) (r : Nat) : Nat := descRes d + r * roundup (8 + 8 * fld d 36 2) 64

/-- The accesses of a TOPK. -/
def topkAccesses (d : Bytes) : List (Nat × Nat × Bool) :=
  (topkReads d).map (fun a => (a.1, a.2, false)) ++ (List.range (fld d 38 2)).map (fun r => (topkAddr d r, 8 + 8 * fld d 36 2, true))

/-- The selection of a row from the bytes of its scores and indices. -/
def topkRow (d sc ix : Bytes) : List Nat :=
  topRow (fld d 41 1 == 1) (fld d 36 2) ((List.range (fld d 32 4)).map (fun p =>
    { val := scoreValue (fld d 40 1) (fld sc (p * scoreBytes (fld d 40 1)) (scoreBytes (fld d 40 1))), pos := p
      key := if descOp1 d = 0 then (fld d 48 8 + p) % 2 ^ 64 else fld ix (8 * p) 8 }))

/-- The selection of a row of operands in host memory. -/
def topkHostRow (d scores indices : Bytes) (r : Nat) : List Nat :=
  topkRow d (slice (scores.drop (r * fld d 44 4)) 0 (fld d 32 4 * scoreBytes (fld d 40 1)))
    (slice (indices.drop (r * 8 * fld d 32 4)) 0 (8 * fld d 32 4))

/-- The result of a TOPK that has selected rows (R237). -/
def topkResult (d : Bytes) (rs : List (List Nat)) : Result :=
  { Result.done (fld d 38 2) with status := b2n (rs.any (fun r => decide (r.length < fld d 36 2))) }

theorem topkResult_map (d : Bytes) (row : Nat → List Nat) (l : List Nat) :
    topkResult d (l.map row) = { Result.done (fld d 38 2) with status := b2n (l.any (fun r => decide ((row r).length < fld d 36 2))) } := by
  unfold topkResult
  rw [List.any_map]
  rfl

/-- A TOPK that has selected its rows: their blocks written, the work ended. -/
def State.runTopk (s : State) (x : Work) (w : Nat) (rs : List (List Nat)) : State :=
  (((List.range (fld x.desc 38 2)).zip rs).foldl (fun s p => s.writeAt x (topkAddr x.desc p.1) (topBlock (fld x.desc 36 2) p.2)) s).finish w
    (topkResult x.desc rs)

section
variable {s s1 s' : State} {w den : Nat} {x : Work} {scores indices lists : Bytes} {d : Bytes}

/-- TOPK, in its turn and served, with its accesses let through and nothing of what it reads poisoned. -/
theorem topkSt_runs (hx : startable s w x 0x42) (hden : s.topDen x.tenancy x.port = some den)
    (hturn : s.turnOf x (fun y => s.topWork y den) = true) (hpass : s.passUnit w topkCell x.tenancy [denMap den] = .go s1)
    (hlet : letThrough s1 x (topkAccesses x.desc) s') (hclean : ∀ a ∈ topkReads x.desc, s'.poisonedAt x a.1 a.2 = false) :
    topkSt w scores indices s = (s'.runTopk x w ((List.range (fld x.desc 38 2)).map (fun r => topkRow x.desc
      (s'.readAt x (descOp0 x.desc + r * fld x.desc 44 4) (fld x.desc 32 4 * scoreBytes (fld x.desc 40 1)) (scores.drop (r * fld x.desc 44 4)))
      (s'.readAt x (descOp1 x.desc + r * 8 * fld x.desc 32 4) (8 * fld x.desc 32 4) (indices.drop (r * 8 * fld x.desc 32 4)))))).used x.id := by
  have hany : (topkReads x.desc).any (fun a => s'.poisonedAt x a.1 a.2) = false := List.any_eq_false.mpr fun a ha => by simp [hclean a ha]
  unfold topkReads topkRowReads at hany
  unfold letThrough topkAccesses topkReads topkRowReads topkAddr at hlet
  refine (State.withWork_startable hx _).trans ?_
  simp only [hden, hturn, hpass, Bool.not_true, Bool.false_eq_true, if_false, State.withAccess]
  rw [hlet]
  simp only [hany, Bool.false_eq_true, if_false]
  rfl

/-- Every access of a TOPK whose operands and results stand in host memory is one of the host's, or of no byte. -/
theorem topkAccesses_host (hlet : letThrough s x (topkAccesses d) s') (h0 : addrClass (descOp0 d) = 0) (h1 : addrClass (descOp1 d) = 0)
    (hres : addrClass (descRes d) = 0) : ∀ a ∈ topkAccesses d, addrClass a.1 = 0 ∨ a.2.1 = 0 := by
  have hrows := fld_lt d 38 2
  have hlen := fld_lt d 32 4
  have hstride := fld_lt d 44 4
  have hk := fld_lt d 36 2
  have hmul {r m b c : Nat} (hr : r < b) (hm : m < c) : r * m < b * c := Nat.mul_lt_mul'' hr hm
  intro a ha
  have hmem := ha
  rw [topkAccesses, List.mem_append] at hmem
  obtain hmem | hmem := hmem
  · obtain ⟨⟨a, n⟩, hread, rfl⟩ := List.mem_map.mp hmem
    obtain ⟨r, hr, hread⟩ := List.mem_flatMap.mp hread
    have hr' : r < 256 ^ 2 := (List.mem_range.mp hr).trans hrows
    obtain he | hread := List.mem_cons.mp hread
    · obtain ⟨rfl, rfl⟩ := Prod.mk.inj he
      exact State.gate_host_offset hlet ha h0 (fld_lt d 8 8) ((hmul hr' hstride).trans (by decide))
    · split at hread
      · cases hread
      · obtain ⟨rfl, rfl⟩ := Prod.mk.inj (List.mem_singleton.mp hread)
        have hr8 : r * 8 < 256 ^ 2 * 8 := by omega
        exact State.gate_host_offset hlet ha h1 (fld_lt d 16 8) ((hmul hr8 hlen).trans (by decide))
  · obtain ⟨r, hr, rfl⟩ := List.mem_map.mp hmem
    have hr' : r < 256 ^ 2 := (List.mem_range.mp hr).trans hrows
    have hstep : roundup (8 + 8 * fld d 36 2) 64 < 256 ^ 3 := by
      unfold roundup
      omega
    exact State.gate_host_offset hlet ha hres (fld_lt d 24 8) ((hmul hr' hstep).trans (by decide))

/-- The row selected from operands in host memory; without indices none are read. -/
theorem topkRow_host (hreads : ∀ a ∈ topkReads d, addrClass a.1 = 0 ∨ a.2 = 0) {r : Nat} (hr : r < fld d 38 2) :
    topkRow d (s.readAt x (descOp0 d + r * fld d 44 4) (fld d 32 4 * scoreBytes (fld d 40 1)) (scores.drop (r * fld d 44 4)))
      (s.readAt x (descOp1 d + r * 8 * fld d 32 4) (8 * fld d 32 4) (indices.drop (r * 8 * fld d 32 4))) =
    topkHostRow d scores indices r := by
  have hread {a n : Nat} (ha : (a, n) ∈ topkRowReads d r) : addrClass a = 0 ∨ n = 0 :=
    hreads (a, n) (List.mem_flatMap.mpr ⟨r, List.mem_range.mpr hr, ha⟩)
  unfold topkHostRow
  rw [State.readAt_host (hread List.mem_cons_self)]
  by_cases h1 : descOp1 d = 0
  · simp only [topkRow, if_pos h1]
  · rw [State.readAt_host (hread (List.mem_cons_of_mem _ (by rw [if_neg h1]; exact List.mem_singleton_self _)))]

theorem topkAddr_host (hhost : ∀ a ∈ topkAccesses d, addrClass a.1 = 0 ∨ a.2.1 = 0) {r : Nat} (hr : r < fld d 38 2) :
    addrClass (topkAddr d r) = 0 :=
  (hhost _ (List.mem_append_right _ (List.mem_map.mpr ⟨r, List.mem_range.mpr hr, rfl⟩))).resolve_right (by simp)

theorem topBlock_ne_nil (k : Nat) (r : List Nat) : topBlock k r ≠ [] := by
  intro h
  have hlen := congrArg List.length h
  simp [topBlock] at hlen

/-- The blocks of a TOPK leave in the order of its rows. -/
theorem State.runTopk_sent {row : Nat → List Nat} (hs : sends s x.port) (ha : ∀ r < fld x.desc 38 2, addrClass (topkAddr x.desc r) = 0) :
    s.runTopk x w ((List.range (fld x.desc 38 2)).map row) =
      (s.sending ((List.range (fld x.desc 38 2)).map (fun r =>
        .dma x.port x.pasid (topkAddr x.desc r) (topBlock (fld x.desc 36 2) (row r))))).finish w
        (topkResult x.desc ((List.range (fld x.desc 38 2)).map row)) := by
  unfold State.runTopk
  rw [← List.map_prod_left_eq_zip, List.foldl_map,
    State.writeAts_sent hs (fun r hr => ha r (List.mem_range.mp hr)) (fun r => topBlock_ne_nil _ _)]

/-- A work's own unit has served it, and its host operands and results are let through. -/
theorem topk_does (hx : startable s w x 0x42) (hden : s.topDen x.tenancy x.port = some den)
    (hturn : s.turnOf x (fun y => s.topWork y den) = true) (hpass : s.passUnit w topkCell x.tenancy [denMap den] = .go s1)
    (hs : sends s x.port) (h0 : addrClass (descOp0 x.desc) = 0) (h1 : addrClass (descOp1 x.desc) = 0) (hres : addrClass (descRes x.desc) = 0)
    (hlet : letThrough s1 x (topkAccesses x.desc) s') :
    Does (.topk w scores indices) s (plus [.out, .works] (accessParts x s')) (fun t =>
      (clear x s' → t.out = s.out ++ (List.range (fld x.desc 38 2)).map (fun r =>
        Output.dma x.port x.pasid (topkAddr x.desc r) (topBlock (fld x.desc 36 2) (topkHostRow x.desc scores indices r)))) ∧
      hasResult t w { Result.done (fld x.desc 38 2) with
        status := b2n ((List.range (fld x.desc 38 2)).any (fun r => decide ((topkHostRow x.desc scores indices r).length < fld x.desc 36 2))) }) := by
  have hhost := topkAccesses_host hlet h0 h1 hres
  have hreads (a : Nat × Nat) (ha : a ∈ topkReads x.desc) : addrClass a.1 = 0 ∨ a.2 = 0 :=
    hhost _ (List.mem_append_left _ (List.mem_map.mpr ⟨a, ha, rfl⟩))
  obtain rfl := State.gate_hosts hlet hhost
  have hu := State.passUnit_go hpass
  have hgo := State.passUnit_go hpass
  have hsent := hgo.sends rfl hs
  have e := topkSt_runs (scores := scores) (indices := indices) hx hden hturn hpass hlet (fun a ha => State.poisonedAt_host (hreads a ha))
  rw [List.map_congr_left (fun r hr => topkRow_host (scores := scores) (indices := indices) hreads (List.mem_range.mp hr)),
    State.runTopk_sent hsent (fun r hr => topkAddr_host hhost hr), topkResult_map] at e
  exact Does.sends_finishes hx.1 hgo rfl e

/-! ### MERGE_PARTIAL (R284–R286) -/

/-- The lists of a MERGE_PARTIAL in host memory. -/
def mergeInput (d lists : Bytes) : Bytes := slice lists 0 (fld d 32 2 * fld d 36 4)

/-- A list with a bad count or a reserved byte (R285). -/
def mergeBad (d b : Bytes) : Bool :=
  (List.range (fld d 32 2)).any (fun i =>
    decide (min 1024 ((fld d 36 4 - 64) / 16) < fld b (i * fld d 36 4) 2) || !zeroRange b (i * fld d 36 4 + 3) 61)

/-- The merge of the lists. -/
def mergeOf (d b : Bytes) : List Cand :=
  mergeLists (fld d 34 2) ((List.range (fld d 32 2)).map (fun i =>
    (fld b (i * fld d 36 4 + 2) 1, listEntries b (i * fld d 36 4) (fld b (i * fld d 36 4) 2))))

/-- The result of a merge (R286). -/
def mergeResult (d : Bytes) (r : List Cand) : Result := { Result.done r.length with status := b2n (decide (r.length < fld d 34 2)) }

/-- The accesses of a MERGE_PARTIAL. -/
def mergeAccesses (d : Bytes) : List (Nat × Nat × Bool) :=
  [(descOp0 d, fld d 32 2 * fld d 36 4, false), (descRes d, (resultBlock d []).length, true)]

section
variable (hx : startable s w x 0x19) (hden : s.topDen x.tenancy x.port = some den)
  (hturn : s.turnOf x (fun y => s.topWork y den) = true) (hpass : s.passUnit w topkCell x.tenancy [denMap den] = .go s1)
  (h0 : addrClass (descOp0 x.desc) = 0) (hlet : letThrough s1 x (mergeAccesses x.desc) s')
include hx hden hturn hpass h0 hlet

/-- MERGE_PARTIAL, in its turn and served, with its lists in host memory. -/
theorem mergePartialSt_runs : mergePartialSt w lists s =
    (if mergeBad x.desc (mergeInput x.desc lists) then s'.finish w (Result.err 0x12 0)
      else (s'.writeAt x (descRes x.desc) (resultBlock x.desc (mergeOf x.desc (mergeInput x.desc lists)))).finish w
        (mergeResult x.desc (mergeOf x.desc (mergeInput x.desc lists)))).used x.id := by
  unfold letThrough mergeAccesses at hlet
  refine (State.withWork_startable hx _).trans ?_
  simp only [hden, hturn, hpass, Bool.not_true, Bool.false_eq_true, if_false, State.withAccess]
  rw [hlet]
  simp only [State.poisonedAt_host (.inl h0), State.readAt_host (.inl h0), Bool.false_eq_true, if_false]
  rfl

variable (hres : addrClass (descRes x.desc) = 0)
include hres

/-- A list with a bad count or a reserved byte ends the work, and nothing is written. -/
theorem mergePartial_bad (hbad : mergeBad x.desc (mergeInput x.desc lists) = true) :
    Does (.mergePartial w lists) s (.works :: accessParts x s') (fun t => hasResult t w (Result.err 0x12 0)) := by
  have e := mergePartialSt_runs (lists := lists) hx hden hturn hpass h0 hlet
  rw [if_pos hbad] at e
  obtain rfl := State.gate_hosts hlet (by simp [mergeAccesses, h0, hres])
  have hgo := State.passUnit_go hpass
  exact Does.of_eq rfl e (State.used_after (qs := [.works]) (hgo.access (qs := []) rfl x s') (s'.finish_only _ _) (by decide) rfl)
    (hasResult_used hx.1 (hgo .works (by decide)) _)

/-- The merged block leaves, and the work ends with its count. -/
theorem mergePartial_merges (hs : sends s x.port) (hgood : mergeBad x.desc (mergeInput x.desc lists) = false) :
    Does (.mergePartial w lists) s (plus [.out, .works] (accessParts x s')) (fun t =>
      (clear x s' → resultBlock x.desc (mergeOf x.desc (mergeInput x.desc lists)) ≠ [] → t.out = s.out ++
        [Output.dma x.port x.pasid (descRes x.desc) (resultBlock x.desc (mergeOf x.desc (mergeInput x.desc lists)))]) ∧
      hasResult t w (mergeResult x.desc (mergeOf x.desc (mergeInput x.desc lists)))) := by
  have e := mergePartialSt_runs (lists := lists) hx hden hturn hpass h0 hlet
  rw [if_neg (by rw [hgood]; decide)] at e
  obtain rfl := State.gate_hosts hlet (by simp [mergeAccesses, h0, hres])
  have hgo := State.passUnit_go hpass
  rw [State.writeAt_sent (hgo.sends rfl hs) hres] at e
  obtain ⟨t, he, honly, hout, hresult⟩ := Does.sends_finishes (c := .mergePartial w lists) hx.1 hgo rfl e
  exact ⟨t, he, honly, fun hc hne => (hout hc).trans (by rw [hostBlock_ne_nil hne]), hresult⟩

end

end

/-- Settles O25: each clause is the law of its command. -/
theorem topkAndMergePartial : Obligations.TopkAndMergePartial := by
  unfold Obligations.TopkAndMergePartial
  intro w den x scores indices lists s s1 s' hden hturn hpass hs h0 h1 hres
  exact ⟨fun hx hlet => topk_does hx hden hturn hpass hs h0 h1 hres hlet, fun hx hlet =>
    ⟨mergePartial_bad hx hden hturn hpass h0 hlet hres, mergePartial_merges hx hden hturn hpass h0 hlet hres hs⟩⟩

end Sys2Proof.Machine
end

section
/-!
SUPPORT. Searches of one device: a work's accesses to units take nothing from one another, so each query whose units serve it is walked and
scanned whatever the others of its work do; the statement of O21 put together from that.
-/

namespace Sys2Proof.Machine

/-! ### Works replaced -/

theorem lset_eq_set {α : Type} (l : List α) (i : Nat) (x : α) : lset l i x = l.set i x := by
  induction l generalizing i with
  | nil => rfl
  | cons y t ih =>
    cases i with
    | zero => rfl
    | succ n => exact congrArg (y :: ·) (ih n)

section
variable {s : State} {w : Nat} {x y : Work}

theorem State.work_setWork (s : State) (y : Work) (v : Nat) :
    (s.setWork y).work v = (s.work v).map (fun z => if z.id == y.id then y else z) := by
  have hid : (fun z : Work => z.id == v) ∘ (fun z : Work => if z.id == y.id then y else z) = fun z => z.id == v := by
    funext z
    simp only [Function.comp_apply]
    split
    · next h => rw [beq_iff_eq.mp h]
    · rfl
  exact List.find?_map.trans (by rw [hid]; rfl)

/-- A work replaced is found under its number. -/
theorem State.work_setWork_same (h : s.work w = some x) (hy : y.id = w) : (s.setWork y).work w = some y := by
  rw [State.work_setWork, h, Option.map_some, if_pos (by rw [State.work_id s h, hy]; exact beq_self_eq_true w)]

theorem State.work_setWork_ne (s : State) {v : Nat} (h : v ≠ y.id) : (s.setWork y).work v = s.work v := by
  rw [State.work_setWork]
  cases hv : s.work v with
  | none => rfl
  | some z => rw [Option.map_some, if_neg (by rw [State.work_id s hv]; simpa using h)]

/-- A work that may run takes the step of its opcode. -/
theorem State.withWork_running {op : Nat → Bool} (h : running s w x) (hop : op x.opcode = true) (f : Work → State → State) :
    s.withWork w op f = f x s := by
  obtain ⟨hw, hr, hm, hv, hst⟩ := h
  simp [State.withWork, hw, hop, hr, hm, hv, hst]

end

/-! ### WALK_START (R201, R202) -/

theorem walkStart_does {s : State} {w i : Nat} {x : Work} {q : Query} {l p : Walk} (hx : running s w x) (hop : isSearch x.opcode = true)
    (hq : x.queries[i]? = some q) (hwait : q.stage = .waiting) (hfirst : (x.queries.take i).all (fun p => p.stage != .waiting) = true)
    (hbefore : (s.works.takeWhile (fun y => y.id != w)).all
      (fun y => !(y.tenancy == x.tenancy && y.waits && s.mayStart y && y.verdict.isNone)) = true)
    (hst : (s.burrow x.burrow).state = 1 ∨ (s.burrow x.burrow).state = 2)
    (hl : s.pickWalk x.tenancy ((s.burrow x.burrow).homeDen / 4) (s.burrow x.burrow).banks = some l)
    (hp : s.pickWalk x.tenancy (1 - (s.burrow x.burrow).homeDen / 4) (s.burrow x.burrow).banks = some p) :
    Does (.walkStart w i) s [.works] (fun t => t.work w =
      some { x with queries := lset x.queries i { q with stage := .walking, lead := some l, partner := some p } }) := by
  have hid : x.id = w := State.work_id s hx.1
  have hstate : ((s.burrow x.burrow).state == 1 || (s.burrow x.burrow).state == 2 || (s.burrow x.burrow).state == 3) = true := by
    obtain h | h := hst <;> simp [h]
  have e : walkStartSt w i s =
      s.setWork { x with queries := lset x.queries i { q with stage := .walking, lead := some l, partner := some p } } := by
    refine (State.withWork_running hx hop _).trans ?_
    simp only [hq, hbefore, hfirst, hwait, hstate, hl, hp, Bool.true_and, beq_self_eq_true, if_true]
  exact Does.of_eq rfl e (s.setWork_only _) (State.work_setWork_same hx.1 hid)

/-! ### Units that serve several accesses of a work (R64, R67, R128) -/

/-- From `s` to `u` no unit that served a tenancy stops doing so, and nothing more of it is queued before a work. -/
structure KeepsService (w t : Nat) (s u : State) : Prop where
  serves : ∀ m, s.serves m t = true → u.serves m t = true
  queued : ∀ ms, s.queuedBefore w t ms = false → u.queuedBefore w t ms = false

section
variable {w t : Nat} {s u v : State} {x y : Work} {ms : List Nat}

theorem KeepsService.refl (w t : Nat) (s : State) : KeepsService w t s s := ⟨fun _ h => h, fun _ h => h⟩

theorem KeepsService.trans (h : KeepsService w t s u) (k : KeepsService w t u v) : KeepsService w t s v :=
  ⟨fun m hm => k.serves m (h.serves m hm), fun ms hms => k.queued ms (h.queued ms hms)⟩

theorem State.claim_lent (s : State) {m : Nat} (t : Nat) (h : s.lentTo m = none) : ∃ last counts,
    s.claim m t = { s with slots := { s.slots with lent := tset s.slots.lent m (s.period m, t), lastBorrower := last }, counters := counts } := by
  unfold State.claim
  rw [if_neg (by simp [h])]
  dsimp only
  split
  · exact ⟨_, _, rfl⟩
  · exact ⟨_, _, rfl⟩

/-- A period taken for a tenancy takes no unit from it. -/
theorem State.serves_claim {m k : Nat} (h : s.serves k t = true) : (s.claim m t).serves k t = true := by
  cases hm : s.lentTo m with
  | some o =>
    unfold State.claim
    rwa [if_pos (by simp [hm])]
  | none =>
    have hlent := State.lentTo_claim (o := t) hm
    obtain ⟨last, counts, e⟩ := s.claim_lent t hm
    rw [e] at hlent ⊢
    by_cases hk : k = m
    · subst hk
      unfold State.serves at h ⊢
      rw [hlent]
      simp only [Bool.and_eq_true] at h ⊢
      exact ⟨h.1, beq_self_eq_true t⟩
    · have hsame : ({ s with slots := { s.slots with lent := tset s.slots.lent m (s.period m, t), lastBorrower := last }, counters := counts } :
          State).lentTo k = s.lentTo k := by
        unfold State.lentTo
        rw [tget_tset_ne _ hk]
        rfl
      unfold State.serves at h ⊢
      rw [hsame]
      exact h

theorem State.queuedBefore_congr (hw : s.works = u.works) (hq : s.slots.waits = u.slots.waits) :
    u.queuedBefore w t ms = s.queuedBefore w t ms := by
  unfold State.queuedBefore State.work
  rw [hw, hq]

theorem State.claim_keepsService (s : State) (w m t : Nat) : KeepsService w t s (s.claim m t) := by
  have ho := s.claim_only m t
  refine ⟨fun k hk => State.serves_claim hk, fun ms hms => ?_⟩
  rw [State.queuedBefore_congr (ho .works (by decide)) (ho .waits (by decide))]
  exact hms

/-- Accesses of a work itself, marked or unmarked, stand before none of its own. -/
theorem State.waits_keepsService (s : State) (w t : Nat) {l : List UnitWait}
    (hl : ∀ v ∈ l, v ∈ s.slots.waits ∨ v.w = w) : KeepsService w t s { s with slots := { s.slots with waits := l } } := by
  refine ⟨fun m hm => hm, fun ms hms => ?_⟩
  unfold State.queuedBefore at hms ⊢
  change (match s.work w with | none => false | some x => l.any _) = false
  cases hw : s.work w with
  | none => rfl
  | some x =>
    rw [hw] at hms
    refine List.any_eq_false.mpr fun v hv => ?_
    obtain hold | rfl := hl v hv
    · exact List.any_eq_false.mp hms v hold
    · simp

theorem State.leaveUnits_keepsService (s : State) (w cell t : Nat) : KeepsService w t s (s.leaveUnits w cell) :=
  s.waits_keepsService w t fun _ hv => .inl (List.mem_of_mem_filter hv)

/-- A work replaced by one of its class. -/
theorem State.setWork_keepsService (hw : s.work w = some x) (hid : y.id = w) (hcls : y.cls = x.cls) (t : Nat) :
    KeepsService w t s (s.setWork y) := by
  refine ⟨fun m hm => hm, fun ms hms => ?_⟩
  unfold State.queuedBefore at hms ⊢
  rw [State.work_setWork_same hw hid]
  rw [hw] at hms
  refine List.any_eq_false.mpr fun v hv => ?_
  have hv := List.any_eq_false.mp hms v hv
  by_cases hlt : v.w < w
  · rw [State.work_setWork_ne s (by omega), hcls]
    exact hv
  · simp [hlt]

theorem State.passUnit_keepsService (s : State) (w cell t : Nat) (ms : List Nat) : KeepsService w t s (s.passUnit w cell t ms).state := by
  have put (u : State) (hu : KeepsService w t s u) (hq : u.slots.waits = s.slots.waits) (m : Nat) (served : Bool) :
      KeepsService w t s { u with slots := { u.slots with
        waits := s.slots.waits.filter (fun v => !(v.w == w && v.cell == cell && ms.contains v.unit)) ++
          [{ w, cell, tenancy := t, unit := m, served }] } } := by
    refine hu.trans (u.waits_keepsService w t fun v hv => ?_)
    obtain hv | hv := List.mem_append.mp hv
    · exact .inl (hq ▸ List.mem_of_mem_filter hv)
    · exact .inr (by rw [List.mem_singleton.mp hv])
  unfold State.passUnit
  split
  · exact .refl w t s
  · dsimp only
    split
    · next m _ => exact put (s.claim m t) (s.claim_keepsService w m t) ((s.claim_only m t) .waits (by decide)).symm m true
    · exact put s (.refl w t s) rfl _ false

/-- An access that one of its units serves, with nothing queued before it, goes on. -/
theorem State.passUnit_serving (cell : Nat) (hq : s.queuedBefore w t ms = false) (hs : ms.any (fun m => s.serves m t) = true) :
    ∃ u, s.passUnit w cell t ms = .go u := by
  obtain ⟨m, hm⟩ := Option.isSome_iff_exists.mp (List.find?_isSome.mpr (List.any_eq_true.mp hs))
  unfold State.passUnit
  split
  · exact ⟨s, rfl⟩
  · dsimp only
    rw [hq, if_neg Bool.false_ne_true, hm]
    exact ⟨_, rfl⟩

theorem KeepsService.serving (h : KeepsService w t s u) {l : List (List Nat)} (hs : serving s w t l) : serving u w t l := fun ms hms => by
  obtain ⟨hq, hany⟩ := hs ms hms
  obtain ⟨m, hm, hserves⟩ := List.any_eq_true.mp hany
  exact ⟨h.queued ms hq, List.any_eq_true.mpr ⟨m, hm, h.serves m hserves⟩⟩

theorem State.passAll_keepsService (s : State) (w cell t : Nat) (l : List (List Nat)) : KeepsService w t s (s.passAll w cell t l).state := by
  induction l generalizing s with
  | nil => exact .refl w t s
  | cons ms rest ih =>
    have hpass := s.passUnit_keepsService w cell t ms
    unfold State.passAll
    split
    · next u hu =>
      rw [hu] at hpass
      exact hpass.trans (ih u)
    · next u hu =>
      rw [hu] at hpass
      have hrest := hpass.trans (ih u)
      split
      · next v hv => rwa [hv] at hrest
      · next v hv => rwa [hv] at hrest

/-- Accesses to several units, each served by one of its own, all go on. -/
theorem State.passAll_serving (cell : Nat) {l : List (List Nat)} (hs : serving s w t l) : ∃ u, s.passAll w cell t l = .go u := by
  induction l generalizing s with
  | nil => exact ⟨s, rfl⟩
  | cons ms rest ih =>
    obtain ⟨⟨hq, hany⟩, hrest⟩ := List.forall_mem_cons.mp hs
    obtain ⟨u, hu⟩ := State.passUnit_serving cell hq hany
    have hkeep := s.passUnit_keepsService w cell t ms
    rw [hu] at hkeep
    obtain ⟨v, hv⟩ := ih (hkeep.serving hrest)
    exact ⟨v, by rw [State.passAll, hu]; exact hv⟩

theorem State.passAll_go {cell : Nat} {l : List (List Nat)} (h : s.passAll w cell t l = .go u) :
    Only [.slots, .counters, .waits] s u ∧ KeepsService w t s u := by
  have ho := s.passAll_only w cell t l
  have hk := s.passAll_keepsService w cell t l
  rw [h] at ho hk
  exact ⟨ho, hk⟩

theorem State.passAll_hold {cell : Nat} {l : List (List Nat)} (h : s.passAll w cell t l = .hold u) :
    Only [.slots, .counters, .waits] s u ∧ KeepsService w t s u := by
  have ho := s.passAll_only w cell t l
  have hk := s.passAll_keepsService w cell t l
  rw [h] at ho hk
  exact ⟨ho, hk⟩

end

/-! ### One query walked and scanned (R214–R222) -/

section
variable {s u : State} {ps : List Part} {b : Burrow} {x : Work} {sets v : List Nat} {q : Query}

/-- What a scan does to works and units. -/
def scanParts : List Part := [.works, .slots, .waits, .counters]

/-- The units of a walk, and what it finds, depend on no work and no slot. -/
theorem State.unitsOf_congr (h : Only scanParts s u) (a : Nat) : u.unitsOf a = s.unitsOf a := by
  have hmem : s.mem = u.mem := h .mem (by decide)
  have hext : s.extents = u.extents := h .extents (by decide)
  unfold State.unitsOf State.stackMap State.setupStacks State.extent
  rw [hmem, hext]

theorem State.queryUnits_congr (h : Only scanParts s u) : u.queryUnits b x q v = s.queryUnits b x q v := by
  have hmem : s.mem = u.mem := h .mem (by decide)
  unfold State.queryUnits State.physDie State.setupStacks
  rw [hmem, funext (State.unitsOf_congr h)]

theorem State.poisonedIn_congr (h : Only scanParts s u) (a n : Nat) : u.poisonedIn a n = s.poisonedIn a n := by
  have hpoison : s.poison = u.poison := h .poison (by decide)
  have hext : s.extents = u.extents := h .extents (by decide)
  have hcache : s.denCache = u.denCache := h .denCache (by decide)
  unfold State.poisonedIn State.pageAbsent
  rw [hpoison, hext, hcache]

theorem State.walkScan_congr (h : Only scanParts s u) (q : List Fp) (n : Nat) : u.walkScan b x sets q n = s.walkScan b x sets q n := by
  unfold State.walkScan
  simp only [State.poisonedIn_congr h]

theorem State.scanQuery_congr (h : Only scanParts s u) : u.scanQuery b x sets v q = s.scanQuery b x sets v q := by
  unfold State.scanQuery
  simp only [State.walkScan_congr h]

/-- Without WIDEN a query keeps what one walk and scan at NPROBE gives. -/
theorem State.scanQuery_narrow (h : schWiden x.desc = false) :
    (s.scanQuery b x sets v q).cands = (s.walkScan b x sets (v.map f32) (schNprobe x.desc)).2.1 ∧
      (s.scanQuery b x sets v q).passed = min (s.walkScan b x sets (v.map f32) (schNprobe x.desc)).1 (2 ^ 32 - 1) := by
  unfold State.scanQuery
  simp only [h, Bool.false_and, Bool.false_eq_true, if_false, and_self]

/-- With WIDEN a query that found fewer than K is walked once more (R222). -/
theorem State.scanQuery_widened (h : schWiden x.desc = true) (hk : (s.walkScan b x sets (v.map f32) (schNprobe x.desc)).1 < schK x.desc)
    (hn : schNprobe x.desc < b.maxNprobe) :
    (s.scanQuery b x sets v q).widened = true ∧ (s.scanQuery b x sets v q).nprobe = min (2 * schNprobe x.desc) b.maxNprobe ∧
      (s.scanQuery b x sets v q).cands = (s.walkScan b x sets (v.map f32) (s.scanQuery b x sets v q).nprobe).2.1 := by
  unfold State.scanQuery
  simp only [h, hk, hn, decide_true, Bool.and_self, if_true, and_self]

end

/-! ### The queries of a work (R211) -/

/-- A work whose snapshot is settled (R139). -/
def Work.settled (x : Work) (s : State) : Work :=
  { x with snap := if schPin x.desc && x.snapLate then (s.ctx x.ctx).pinSeq else x.snap, snapLate := false }

/-- One query of a work with its vector: walked and scanned, if it has its walks and its units serve it. -/
def State.scanStep (b : Burrow) (x : Work) (sets : List Nat) (s : State) (p : Nat × List Nat) : State :=
  match s.work x.id with
  | none => s
  | some y =>
    match y.queries[p.1]? with
    | some q =>
      if q.stage == .walking then
        s.onUnits x.id (queryCell p.1) x.tenancy (s.queryUnits b x q p.2) fun s =>
          s.setWork { y with queries := lset y.queries p.1 (s.scanQuery b x sets p.2 q) }
      else s
    | none => s

theorem State.scanWork_eq (s : State) (x : Work) (vecs : List (List Nat)) (sets : List Nat) : s.scanWork x vecs sets =
    ((List.range x.queries.length).zip vecs).foldl (State.scanStep (s.burrow x.burrow) (x.settled s) sets) (s.setWork (x.settled s)) := rfl

/-- From `s` to `u` queries of the work `x` have been walked and scanned; `o` is what stands in place `i`. -/
structure Scans (x : Work) (i : Nat) (o : Option Query) (s u : State) : Prop where
  only : Only scanParts s u
  keeps : KeepsService x.id x.tenancy s u
  work : ∃ qs, u.work x.id = some { x with queries := qs } ∧ qs.length = x.queries.length ∧ qs[i]? = o

section
variable {s u : State} {b : Burrow} {x : Work} {sets v : List Nat} {i : Nat} {q : Query} {o : Option Query}

/-- A query replaced by what its walk found, on units that have served it. -/
theorem Scans.scanned (h : Scans x i o s u) {u1 : State} {qs : List Query} {j cell : Nat} {p : Query}
    (hw : u.work x.id = some { x with queries := qs }) (hlen : qs.length = x.queries.length) (hgo : Only [.slots, .counters, .waits] u u1)
    (hk : KeepsService x.id x.tenancy u u1) : Scans x i (lset qs j p)[i]? s
      ((u1.setWork { x with queries := lset qs j p }).leaveUnits x.id cell) := by
  have hw1 : u1.work x.id = some { x with queries := qs } := (State.work_congr (hgo .works (by decide)) _).trans hw
  have hclass := State.setWork_keepsService (y := { x with queries := lset qs j p }) hw1 rfl rfl x.tenancy
  have hset := u1.setWork_only { x with queries := lset qs j p }
  have hleave := (u1.setWork { x with queries := lset qs j p }).leaveUnits_only x.id cell
  refine ⟨h.only.trans ((hgo.mono rfl).trans ((hset.mono rfl).trans (hleave.mono rfl))),
    h.keeps.trans (hk.trans (hclass.trans (State.leaveUnits_keepsService _ _ _ _))), _, ?_, ?_, rfl⟩
  · exact (State.work_congr (hleave .works (by decide)) _).trans (State.work_setWork_same hw1 rfl)
  · rw [lset_eq_set, List.length_set, hlen]

/-- Another query of the work leaves it, whether it is scanned or waits for its units. -/
theorem Scans.step_other (h : Scans x i o s u) {p : Nat × List Nat} (hp : p.1 ≠ i) : Scans x i o s (u.scanStep b x sets p) := by
  obtain ⟨qs, hw, hlen, ho⟩ := id h.work
  unfold State.scanStep
  rw [hw]
  dsimp only
  split
  · next q hq =>
    split
    · unfold State.onUnits
      split
      · next u1 hu1 =>
        obtain ⟨hgo, hk⟩ := State.passAll_go hu1
        have hother : (lset qs p.1 (u1.scanQuery b x sets p.2 q))[i]? = o := by rw [lset_eq_set, List.getElem?_set_ne hp, ho]
        exact hother ▸ h.scanned hw hlen hgo hk
      · next u1 hu1 =>
        obtain ⟨hgo, hk⟩ := State.passAll_hold hu1
        exact ⟨h.only.trans (hgo.mono rfl), h.keeps.trans hk, qs, (State.work_congr (hgo .works (by decide)) _).trans hw, hlen, ho⟩
    · exact h
  · exact h

theorem Scans.foldl_other {l : List (Nat × List Nat)} (h : Scans x i o s u) (hl : ∀ p ∈ l, p.1 ≠ i) :
    Scans x i o s (l.foldl (State.scanStep b x sets) u) := by
  induction l generalizing u with
  | nil => exact h
  | cons p t ih =>
    obtain ⟨hp, ht⟩ := List.forall_mem_cons.mp hl
    exact ih (h.step_other hp) ht

/-- A query whose units served it when the work began is scanned in its turn. -/
theorem Scans.step_walking (h : Scans x i (some q) s u) (hq : q.stage = .walking)
    (hs : serving s x.id x.tenancy (s.queryUnits b x q v)) : Scans x i (some (s.scanQuery b x sets v q)) s (u.scanStep b x sets (i, v)) := by
  obtain ⟨qs, hw, hlen, ho⟩ := id h.work
  have hserving := h.keeps.serving hs
  rw [← State.queryUnits_congr h.only] at hserving
  obtain ⟨u1, hu1⟩ := State.passAll_serving (queryCell i) hserving
  obtain ⟨hgo, hk⟩ := State.passAll_go hu1
  have hscan : u1.scanQuery b x sets v q = s.scanQuery b x sets v q := State.scanQuery_congr (h.only.trans (hgo.mono rfl))
  have hplace : (lset qs i (s.scanQuery b x sets v q))[i]? = some (s.scanQuery b x sets v q) := by
    rw [lset_eq_set, List.getElem?_set_self (List.getElem?_eq_some_iff.mp ho).1]
  unfold State.scanStep
  rw [hw]
  simp only [ho, hq, beq_self_eq_true, if_true, State.onUnits, hu1, hscan]
  exact hplace ▸ h.scanned hw hlen hgo hk

theorem fst_zip_sublist {α β : Type} (l : List α) (m : List β) : ((l.zip m).map Prod.fst).Sublist l := by
  induction l generalizing m with
  | nil => exact List.Sublist.refl _
  | cons a t ih =>
    cases m with
    | nil => exact List.nil_sublist _
    | cons b m => exact (ih m).cons_cons a

/-- The numbers of a work's queries stand once each beside their vectors. -/
theorem nodup_zip_range (n : Nat) (vecs : List (List Nat)) : (((List.range n).zip vecs).map Prod.fst).Nodup :=
  List.nodup_range.sublist (fst_zip_sublist _ vecs)

/-- A query with its walks and its vector, whose units serve it, is scanned by its work's step. -/
theorem State.scanWork_scans {vecs : List (List Nat)} (hw : s.work x.id = some x) (hv : vecs[i]? = some v) (hx : x.queries[i]? = some q)
    (hq : q.stage = .walking) (hs : serving s x.id x.tenancy (s.queryUnits (s.burrow x.burrow) x q v)) :
    Scans (x.settled s) i (some (s.scanQuery (s.burrow x.burrow) (x.settled s) sets v q)) s (s.scanWork x vecs sets) := by
  have hi : i < x.queries.length := (List.getElem?_eq_some_iff.mp hx).1
  have hmem : (i, v) ∈ (List.range x.queries.length).zip vecs :=
    List.mem_of_getElem? (i := i) (by rw [List.getElem?_zip_eq_some]; exact ⟨by simp [hi], hv⟩)
  obtain ⟨before, after, hsplit⟩ := List.append_of_mem hmem
  have hnodup := nodup_zip_range x.queries.length vecs
  rw [hsplit, List.map_append, List.map_cons] at hnodup
  have hbefore (p : Nat × List Nat) (hp : p ∈ before) : p.1 ≠ i := fun he =>
    List.disjoint_of_nodup_append hnodup (List.mem_map_of_mem hp) (he ▸ List.mem_cons_self)
  have hafter (p : Nat × List Nat) (hp : p ∈ after) : p.1 ≠ i := fun he =>
    (List.nodup_cons.mp (List.nodup_append.mp hnodup).2.1).1 (he ▸ (List.mem_map_of_mem hp : p.1 ∈ after.map Prod.fst))
  rw [State.scanWork_eq, hsplit, List.foldl_append, List.foldl_cons]
  have hclass := State.setWork_keepsService (y := x.settled s) hw rfl rfl x.tenancy
  have hbegin : Scans (x.settled s) i (some q) s (s.setWork (x.settled s)) :=
    ⟨(s.setWork_only _).mono rfl, hclass, _, State.work_setWork_same hw rfl, rfl, hx⟩
  exact ((hbegin.foldl_other hbefore).step_walking hq hs).foldl_other hafter

end

/-! ### SEARCH and SEARCH_BATCH (R201–R211, R274) -/

section
variable {s s' : State} {w op i : Nat} {x : Work} {qs sv : Bytes} {q : Query} {r : Result} {v : List Nat}

/-- A SEARCH of a ring without GROUP, or a SEARCH_BATCH. -/
abbrev searchesHere (x : Work) (op : Nat) : Prop := (op = 0x10 ∧ x.origin = none ∧ schGroup x.desc = false) ∨ op = 0x11

/-- The set values of a search as it reads them. -/
abbrev State.setsRead (s : State) (x : Work) (sv : Bytes) : List Nat :=
  setValues x.desc (s.readAt x (descOp1 x.desc) (8 * schSets x.desc) sv)

/-- The command that takes the step of a search on this device. -/
def searchInstr (w op : Nat) (qs sv : Bytes) : Instr := if op = 0x10 then .search w qs sv else .searchBatch w qs sv

/-- A SEARCH without GROUP and a SEARCH_BATCH search this device. -/
theorem exec_searchInstr (hx : startable s w x op) (hop : searchesHere x op) :
    exec (searchInstr w op qs sv) s = .next (s.searchLocal x qs sv) := by
  obtain ⟨rfl, ho, hg⟩ | rfl := hop
  · refine congrArg Host.Outcome.next ((State.withWork_startable hx _).trans ?_)
    simp only [ho, hg, Option.isSome_none, Bool.not_false, Bool.false_eq_true, if_false, if_true]
  · exact congrArg Host.Outcome.next (State.withWork_startable hx _)

/-- A check of R203 and R205 that only a burrow created after admission lets be made. -/
theorem search_late (hx : startable s w x op) (hop : searchesHere x op)
    (hl : s.searchLate (s.burrow x.burrow) x = some r) :
    Does (searchInstr w op qs sv) s [.works, .waits] (fun t => hasResult t w r) := by
  have e : s.searchLocal x qs sv = s.finish w r := by
    unfold State.searchLocal
    simp only [hl, State.work_id s hx.1]
  exact Does.finishes hx (exec_searchInstr hx hop) e

section
variable (hl : s.searchLate (s.burrow x.burrow) x = none) (hr : readable s x ((s.burrow x.burrow).searchReads x.desc) s')
  (hb : s'.burrow x.burrow = s.burrow x.burrow)
include hl hr hb

/-- A search whose operands have been read ends where R206 finds something. -/
theorem State.searchLocal_fails (hf : s'.searchFails (s'.burrow x.burrow) x (s'.searchVecs (s'.burrow x.burrow) x qs)
      (s'.setsRead x sv) = some r) :
    s.searchLocal x qs sv = (s'.finish x.id r).used x.id := by
  rw [hb] at hf
  unfold State.searchLocal
  simp only [hl, State.withReads_readable hr, hf]

/-- A search whose operands have been read, with nothing of R206 in the way, runs its walks. -/
theorem State.searchLocal_scans {vecs : List (List Nat)} (hvecs : s'.searchVecs (s'.burrow x.burrow) x qs = some vecs)
    (hf : s'.searchFails (s'.burrow x.burrow) x (some vecs) (s'.setsRead x sv) = none) :
    s.searchLocal x qs sv =
      (s'.scanWork x vecs (s'.setsRead x sv)).used x.id := by
  rw [hb] at hvecs hf
  unfold State.searchLocal
  simp only [hl, State.withReads_readable hr, hvecs, hf, Option.getD_some]

end

/-- A check of R206 that fails. -/
theorem search_fails (hx : startable s w x op) (hop : searchesHere x op)
    (hl : s.searchLate (s.burrow x.burrow) x = none) (hr : readable s x ((s.burrow x.burrow).searchReads x.desc) s')
    (hf : s'.searchFails (s'.burrow x.burrow) x (s'.searchVecs (s'.burrow x.burrow) x qs)
      (s'.setsRead x sv) = some r) :
    Does (searchInstr w op qs sv) s (.works :: accessParts x s') (fun t => hasResult t w r) := by
  have hgate := State.gate_go hx.unstalled hr.1
  have e := State.searchLocal_fails hl hr (State.burrow_congr (State.access_burrows hgate) _) hf
  rw [State.work_id s hx.1] at e
  have hused := State.used_after (qs := [.works]) hgate (s'.finish_only w r) (by decide) rfl
  rw [State.work_id s hx.1] at hused
  exact Does.of_eq (exec_searchInstr hx hop) e hused (hasResult_used hx.1 (State.access_works hgate) _)

/-- A query with its walks, whose units serve it, is walked and scanned. -/
theorem search_scans (hx : startable s w x op) (hop : searchesHere x op)
    (hl : s.searchLate (s.burrow x.burrow) x = none) (hr : readable s x ((s.burrow x.burrow).searchReads x.desc) s')
    {vecs : List (List Nat)} (hvecs : s'.searchVecs (s'.burrow x.burrow) x qs = some vecs)
    (hf : s'.searchFails (s'.burrow x.burrow) x (some vecs) (s'.setsRead x sv) = none)
    (hv : vecs[i]? = some v) (hq : x.queries[i]? = some q) (hwalk : q.stage = .walking)
    (hs : serving s' w x.tenancy (s'.queryUnits (s'.burrow x.burrow) x q v)) :
    Does (searchInstr w op qs sv) s (plus [.works] (accessParts x s')) (fun t => ∃ y, t.work w = some y ∧
      (∃ l, y = { x.settled s with queries := l }) ∧
      y.queries[i]? = some (s'.scanQuery (s'.burrow x.burrow) y (s'.setsRead x sv) v q)) := by
  have hid := State.work_id s hx.1
  have hgate := State.gate_go hx.unstalled hr.1
  have e := State.searchLocal_scans hl hr (State.burrow_congr (State.access_burrows hgate) _) hvecs hf
  generalize s'.setsRead x sv = sets at e ⊢
  have hw : s'.work x.id = some x := by rw [State.work_congr (State.access_works hgate), hid, hx.1]
  have hscan := State.scanWork_scans (sets := sets) hw hv hq hwalk (by rwa [hid])
  have hsettled : x.settled s' = x.settled s := by
    unfold Work.settled
    rw [State.ctx_congr (State.access_keeps (p := .ctxs) hgate (by decide))]
  rw [hsettled] at hscan
  obtain ⟨l, hwork, -, hplace⟩ := hscan.work
  refine Does.of_eq (exec_searchInstr hx hop) e (State.used_after hgate hscan.only (by decide) rfl) ⟨_, ?_, ⟨l, rfl⟩, hplace⟩
  rw [State.work_congr (State.used_works _ _).symm, ← hid]
  exact hwork

/-- A forwarded query is searched with the operands it carries (R274). -/
theorem search_forwarded {o : Origin} (hx : startable s w x 0x10) (ho : x.origin = some o) (hqs : x.queries = [q]) (hwalk : q.stage = .walking)
    (hs : serving s w x.tenancy (s.queryUnits (s.burrow x.burrow) x q v))
    (hv : (s.burrow x.burrow).query (schFp32 x.desc) (slice (x.desc.drop 64) 0 ((s.burrow x.burrow).queryBytes x.desc)) = some v)
    (hf : s.searchFails (s.burrow x.burrow) x (some [v]) (setValues x.desc (x.desc.drop (64 + (s.burrow x.burrow).queryBytes x.desc))) = none) :
    Does (.search w qs sv) s scanParts (fun t => ∃ y p, t.work w = some y ∧ y.queries = [p] ∧ p.stage = .scanned) := by
  have hid := State.work_id s hx.1
  generalize hsets : setValues x.desc (x.desc.drop (64 + (s.burrow x.burrow).queryBytes x.desc)) = sets at hf
  have e : searchSt w qs sv s = s.scanWork x [v] sets := by
    refine (State.withWork_startable hx _).trans ?_
    simp only [ho, Option.isSome_some, if_true, State.searchForward, hv, Option.map_some, hsets, hf, Option.getD_some]
  have hscan := State.scanWork_scans (i := 0) (vecs := [v]) (sets := sets) (by rw [hid, hx.1]) rfl (by rw [hqs]; rfl) hwalk (by rwa [hid])
  obtain ⟨l, hwork, hlen, hplace⟩ := hscan.work
  rw [show (x.settled s).queries = [q] from hqs] at hlen
  obtain ⟨p, rfl⟩ := List.length_eq_one_iff.mp hlen
  refine Does.of_eq rfl e hscan.only ⟨_, p, hid ▸ hwork, rfl, ?_⟩
  rw [Option.some.inj hplace]
  rfl

end

/-- Settles O21: each clause is the law of its command. -/
theorem queriesWalkAndScan : Obligations.QueriesWalkAndScan := by
  unfold Obligations.QueriesWalkAndScan
  intro w op i x qs sv q s s'
  refine ⟨fun hx hop hq hwait hfirst hbefore hst l p hl hp => walkStart_does hx hop hq hwait hfirst hbefore hst hl hp,
    fun hx hop => ⟨fun r hl => search_late hx hop hl, fun hl hr => ⟨fun r hf => search_fails hx hop hl hr hf, ?_⟩⟩,
    fun o v hx ho hqs hwalk hs hv hf => search_forwarded hx ho hqs hwalk hs hv hf⟩
  intro vecs v hvecs hf hv hq hwalk hs
  obtain ⟨t, he, honly, y, hy, ⟨l, rfl⟩, hplace⟩ := search_scans hx hop hl hr hvecs hf hv hq hwalk hs
  exact ⟨t, he, honly, _, _, hy, hplace, rfl, rfl, fun hn => State.scanQuery_narrow hn, fun hwiden hk hn => State.scanQuery_widened hwiden hk hn⟩

end Sys2Proof.Machine
end

section
/-!
SUPPORT. The refutation of O23: a SEARCH_BATCH lets through the blocks of the queries that its descriptor counts (R211, R212), but the statement
takes any query that its work holds, also one whose block would stand at a reserved address (R470).
-/

namespace Sys2Proof.Machine

/-- The descriptor of a SEARCH_BATCH that counts no query, with K = 1 and its results 256 bytes below the reserved addresses. -/
def countlessBatch : Bytes :=
  toLe 1 0x11 ++ toLe 23 0 ++ toLe 8 (2 ^ 62 - 256) ++ toLe 2 0 ++ toLe 2 1 ++ toLe 28 0

/-- A query that has been scanned. -/
def scannedQuery : Query := { Query.fresh 1 with stage := .scanned }

/-- The work of that batch on PORT0, which holds a query all the same. -/
def countlessWork : Work :=
  { id := 5, desc := countlessBatch, opcode := 0x11, ring := 0, origin := none, ctx := 0, tenancy := 1, port := 0, pasid := 0, xltRoot := 0
    cls := 1, credits := 1, frame := 0, snap := 0, snapLate := false, burrow := 0, verdict := none, unchecked := false, group := []
    queries := [scannedQuery], items := [], routed := false, outcomes := [], firstSeq := 0, lastSeq := 0, codes := none, stalled := false
    result := none }

/-- A device in service whose PORT0 is an H-port in link-up, with that work, which its home den's top-k unit has served. -/
def countlessState : State :=
  { State.reset with
    power := { State.reset.power with devReady := true }
    ports := [(0, { Port.fresh with up := true })]
    regs := [(0x0010020, 1)]
    works := [countlessWork]
    slots := { State.reset.slots with waits := [{ w := 5, cell := topkCell + 1, tenancy := 1, unit := denMap 0, served := true }] } }

theorem countlessState_running : running countlessState 5 countlessWork := by decide +kernel

theorem countlessState_sends : sends countlessState 0 := by decide +kernel

theorem countlessState_served : countlessState.passUnit 5 (topkCell + 1 + 0) 1 [denMap 0] = .go countlessState := by decide +kernel

/-- The batch counts no query, so that only its status records, of no byte, ask for an access. -/
theorem countlessState_letThrough : letThrough countlessState countlessWork (searchWrites countlessBatch) countlessState := by decide +kernel

/-- The status record alone leaves the block. -/
theorem countlessState_out : (topkSelectSt 5 0 countlessState).out =
    [.dma 0 0 (2 ^ 62 - 256) (scannedQuery.select countlessBatch).record] := by decide +kernel

/-- Refutes O23: the statement has the block of every query of a batch leave, but that of a query which the descriptor does not count has not been
let through, and at a reserved address nothing is written. -/
theorem not_rerankAndSelection : ¬ Obligations.RerankAndSelection := by
  unfold Obligations.RerankAndSelection
  intro h
  obtain ⟨-, hselect⟩ := h 5 0 countlessWork scannedQuery [] [] countlessState countlessState countlessState countlessState_running rfl rfl
  obtain ⟨-, hbatch⟩ := hselect rfl (by decide +kernel) (by decide +kernel) (by decide +kernel) countlessState_served countlessState_letThrough
  obtain ⟨t, ht, -, -, hout, -⟩ := hbatch rfl (by decide +kernel) countlessState_sends (by decide +kernel) (by decide +kernel)
  have hsame : (topkSelectSt 5 0 countlessState).out = t.out := congrArg State.out (Host.Outcome.next.inj ht)
  have hlen := congrArg List.length (countlessState_out.symm.trans (hsame.trans hout))
  simp [countlessState, State.reset] at hlen

end Sys2Proof.Machine
end

section
/-!
SUPPORT. O26: what the steps of an update keep and take. Every operation on the way leaves the outcomes of all works and the sequences of all
burrows, but for the changes themselves, each of which takes one sequence of its burrow (R241, R243).
-/

namespace Sys2Proof.Machine

/-! ### Outcomes of works -/

/-- The outcomes of a work, if it is admitted. -/
def State.outcomesOf (s : State) (w : Nat) : Option (List Nat) := (s.work w).map (·.outcomes)

/-- Every work has the outcomes it had. -/
def SameOutcomes (s t : State) : Prop := ∀ w, t.outcomesOf w = s.outcomesOf w

section
variable {s t u : State} {ps : List Part}

theorem SameOutcomes.refl (s : State) : SameOutcomes s s := fun _ => rfl

theorem SameOutcomes.trans (h : SameOutcomes s t) (k : SameOutcomes t u) : SameOutcomes s u := fun w => (k w).trans (h w)

theorem SameOutcomes.of_works (h : s.works = t.works) : SameOutcomes s t := fun w => congrArg _ (State.work_congr h w)

theorem SameOutcomes.of_only (h : Only ps s t) (hp : ps.contains .works = false) : SameOutcomes s t :=
  .of_works (h .works (fun hm => by simp [hm] at hp))

/-- Works replaced under their numbers by works with their outcomes. -/
theorem SameOutcomes.of_map {f : Work → Work} (h : t.works = s.works.map f) (hid : ∀ x, (f x).id = x.id)
    (ho : ∀ x, (f x).outcomes = x.outcomes) : SameOutcomes s t := by
  intro w
  have hkey : (fun x : Work => x.id == w) ∘ f = fun x => x.id == w := funext fun x => congrArg (· == w) (hid x)
  unfold State.outcomesOf State.work
  rw [h, List.find?_map, hkey, Option.map_map]
  exact congrArg (Option.map · _) (funext ho)

theorem SameOutcomes.ite {c : Prop} [Decidable c] (h : c → SameOutcomes s t) (k : ¬ c → SameOutcomes s u) :
    SameOutcomes s (if c then t else u) := by
  split
  · exact h ‹_›
  · exact k ‹_›

theorem SameOutcomes.foldl {α : Type} {f : State → α → State} (h : ∀ s x, SameOutcomes s (f s x)) (l : List α) (s : State) :
    SameOutcomes s (l.foldl f s) := by
  induction l generalizing s with
  | nil => exact .refl s
  | cons x t ih => exact (h s x).trans (ih (f s x))

/-- Some works replaced by works with their numbers and outcomes. -/
theorem SameOutcomes.some {c : Work → Bool} {f : Work → Work} (h : t.works = s.works.map (fun x => if c x then f x else x))
    (hid : ∀ x, (f x).id = x.id) (ho : ∀ x, (f x).outcomes = x.outcomes) : SameOutcomes s t := by
  refine .of_map h (fun x => Work.id_ite (hid x)) (fun x => ?_)
  split
  · exact ho x
  · rfl

end

/-! ### Accesses keep the outcomes -/

section
variable (s : State)

theorem State.finish_outcomes (w : Nat) (r : Result) : SameOutcomes s (s.finish w r) := .some rfl (fun _ => rfl) (fun _ => rfl)

theorem State.endAccess_outcomes (x : Work) (who : Option (Nat × Nat)) (status : Nat) : SameOutcomes s (s.endAccess x who status) := by
  unfold State.endAccess
  exact SameOutcomes.ite (fun _ => s.finish_outcomes _ _) (fun _ => .of_only (s.runs_only _) rfl)

theorem State.raiseFault_outcomes (x : Work) (addr : Nat) (write run : Bool) (cell : Nat) (cause : FaultCause) (level : Nat) :
    SameOutcomes s (s.raiseFault x addr write run cell cause level) := by
  unfold State.raiseFault
  refine SameOutcomes.trans (SameOutcomes.trans ?stalls (SameOutcomes.ite (fun _ => ?counts) (fun _ => .refl _)))
    (.of_only (State.postFault_only _ _) rfl)
  case stalls => exact .some (c := fun y => y.id == x.id) (f := fun y => { y with stalled := true }) rfl (fun _ => rfl) (fun _ => rfl)
  case counts => exact (SameOutcomes.of_only (State.bump_only _ _ _) rfl).trans (.of_only (State.emit_only _ _) rfl)

theorem State.accessFails_outcomes (w : Nat) (who : Option (Nat × Nat)) (status : Nat) : SameOutcomes s (s.accessFails w who status) := by
  unfold State.accessFails
  refine SameOutcomes.ite (fun _ => .of_only (s.runs_only _) rfl) (fun _ => ?_)
  exact .some rfl (fun _ => rfl) (fun _ => rfl)

theorem State.sendRemote_outcomes (r : WlReq) : SameOutcomes s (s.sendRemote r) := by
  have taken (q : WlReq) : SameOutcomes s (s.addRequest q) := .of_only (s.fabric_only _) rfl
  unfold State.sendRemote
  refine SameOutcomes.ite (fun _ => s.accessFails_outcomes _ _ _)
    (fun _ => (taken { r with tag := s.fabric.nextTag, port := bits (s.route r.rank) 3 0 }).trans ?_)
  refine SameOutcomes.ite (fun _ => .of_only (State.packRequest_only _ _) rfl)
    (fun _ => SameOutcomes.ite (fun _ => ?_) (fun _ => .of_only (State.sendStores_only _ _ _) rfl))
  exact (SameOutcomes.of_only (State.markSent_only _ _) rfl).trans (.of_only (State.sendTo_only _ _ _ _) rfl)

theorem State.sendWindow_outcomes (w : Nat) (cell : Option (Nat × Nat)) (ctx kind addr len : Nat) (b : Bytes) :
    SameOutcomes s (s.sendWindow w cell ctx kind addr len b) := by
  unfold State.sendWindow
  split
  · exact .refl s
  · exact s.sendRemote_outcomes _

/-- What follows a unit that is passed, or what is left where the access waits for it. -/
theorem State.passUnit_outcomes (w cell t : Nat) (ms : List Nat) {f : State → Gate}
    (h : ∀ v : State, SameOutcomes v (f v).state) :
    SameOutcomes s (match s.passUnit w cell t ms with | .hold v => Gate.hold v | .go v => f v).state := by
  have hp := SameOutcomes.of_only (s.passUnit_only w cell t ms) rfl
  cases hv : s.passUnit w cell t ms with
  | hold v => rwa [hv] at hp
  | go v =>
    rw [hv] at hp
    exact hp.trans (h v)

theorem State.devLine_outcomes (cls : ReqClass) (w line : Nat) : SameOutcomes s (s.devLine cls w line).state :=
  .of_only (s.devLine_keeps cls w line).only rfl

theorem State.gatePiece_outcomes (x : Work) (who : Option (Nat × Nat)) (write : Bool) (p : Nat × Nat) :
    SameOutcomes s (s.gatePiece x who write p).state := by
  have hl := SameOutcomes.of_only (s.locate_only x.tenancy x.xltRoot p.1 p.2 write) rfl
  unfold State.gatePiece
  split
  · next hu =>
    rw [hu] at hl
    exact hl.trans (State.raiseFault_outcomes _ _ _ _ _ _ _ _)
  · next hu =>
    rw [hu] at hl
    exact hl.trans (State.endAccess_outcomes _ _ _ _)
  · next a u hu =>
    rw [hu] at hl
    refine hl.trans (u.passUnit_outcomes _ _ _ _ fun v => ?_)
    split
    · have hd := v.devLine_outcomes (if write then .devWr else .devRd) x.id (a % 2 ^ 48 / 64)
      split
      · next hz => rwa [hz] at hd
      · next hz => rwa [hz] at hd
    · exact .refl v
  · next a u hu =>
    rw [hu] at hl
    refine hl.trans ?_
    split
    · refine u.passUnit_outcomes _ _ _ _ fun v => ?_
      split
      · exact v.endAccess_outcomes _ _ _
      · split
        · exact .refl v
        · split
          · exact .refl v
          · split
            · exact .refl v
            · exact v.sendWindow_outcomes _ _ _ _ _ _ _
    · exact .refl u

theorem State.gatePieces_outcomes (x : Work) (who : Option (Nat × Nat)) (l : List (Bool × Nat × Nat)) :
    SameOutcomes s (s.gatePieces x who l).state := by
  induction l generalizing s with
  | nil => exact .refl s
  | cons e t ih =>
    obtain ⟨wr, p⟩ := e
    have hp := s.gatePiece_outcomes x who wr p
    unfold State.gatePieces
    split
    · next u hu =>
      rw [hu] at hp
      exact hp.trans (ih u)
    · next u hu => rwa [hu] at hp

theorem State.gate_outcomes (x : Work) (accs : List (Nat × Nat × Bool)) : SameOutcomes s (s.gate x accs).state := by
  unfold State.gate State.gateBy
  dsimp only
  split_ifs
  · exact .refl s
  · exact SameOutcomes.foldl (fun u p => .of_only (u.requestPage_only _ _ _ _ _) rfl) _ s
  · exact s.gatePieces_outcomes _ _ _

theorem State.writeAt_outcomes (x : Work) (a : Nat) (b : Bytes) : SameOutcomes s (s.writeAt x a b) := by
  unfold State.writeAt State.writeBy
  refine SameOutcomes.ite (fun _ => .refl s) (fun _ => SameOutcomes.ite (fun _ => .of_only (s.emit_only _) rfl) (fun _ => ?_))
  refine SameOutcomes.foldl (fun u p => ?_) _ s
  dsimp only
  split
  · exact .of_only (u.put_only _ _) rfl
  · exact u.sendWindow_outcomes _ _ _ _ _ _ _
  · exact .refl u

end

/-! ### Sequences taken (R241, R243) -/

/-- From `s` to `t` a burrow gives a number of sequences, SNAP_SEQ being the last of them, and no other burrow changes. -/
structure Takes (ps : List Part) (bi n : Nat) (s t : State) : Prop where
  only   : Only ps s t
  others : ∀ i, i ≠ bi → t.burrow i = s.burrow i
  next   : (t.burrow bi).nextSeq = (s.burrow bi).nextSeq + n
  snap   : if n = 0 then (t.burrow bi).snapSeq = (s.burrow bi).snapSeq else (t.burrow bi).snapSeq + 1 = (t.burrow bi).nextSeq

section
variable {s t u : State} {ps qs : List Part} {bi m n : Nat}

theorem Takes.refl (ps : List Part) (bi : Nat) (s : State) : Takes ps bi 0 s s := ⟨Only.refl ps s, fun _ _ => rfl, rfl, rfl⟩

theorem Takes.trans (h : Takes ps bi m s t) (k : Takes ps bi n t u) : Takes ps bi (m + n) s u where
  only := h.only.trans k.only
  others := fun i hi => (k.others i hi).trans (h.others i hi)
  next := by rw [k.next, h.next, Nat.add_assoc]
  snap := by
    have hs := h.snap
    have ks := k.snap
    have kn := k.next
    split_ifs at hs ks ⊢ <;> omega

/-- A step that takes nothing, before or after. -/
theorem Takes.after (k : Takes ps bi n t u) (h : Takes ps bi 0 s t) : Takes ps bi n s u := Nat.zero_add n ▸ h.trans k

theorem Takes.mono (h : Takes ps bi n s t) (hs : ps.all qs.contains = true) : Takes qs bi n s t :=
  ⟨h.only.mono hs, h.others, h.next, h.snap⟩

theorem Takes.of_only (h : Only ps s t) (hb : ps.contains .burrows = false) (bi : Nat) : Takes ps bi 0 s t := by
  have hbur (i : Nat) : t.burrow i = s.burrow i := State.burrow_congr (h .burrows (fun hm => by simp [hm] at hb)) i
  exact ⟨h, fun i _ => hbur i, congrArg Burrow.nextSeq (hbur bi), congrArg Burrow.snapSeq (hbur bi)⟩

/-- A burrow replaced by one with its sequences. -/
theorem Takes.set {c : Burrow} (hn : c.nextSeq = (s.burrow bi).nextSeq) (hs : c.snapSeq = (s.burrow bi).snapSeq)
    (hp : [.burrows].all ps.contains = true) : Takes ps bi 0 s (s.setBurrow bi c) := by
  refine ⟨(s.setBurrow_only bi c).mono hp, fun i hi => s.burrow_setBurrow_ne hi c, ?_, ?_⟩
  · rw [s.burrow_setBurrow_same]; exact hn
  · rw [s.burrow_setBurrow_same]; exact hs

theorem Takes.foldl {α : Type} {f : State → α → State} (h : ∀ s x, Takes ps bi 0 s (f s x)) (l : List α) (s : State) :
    Takes ps bi 0 s (l.foldl f s) := by
  induction l generalizing s with
  | nil => exact .refl ps bi s
  | cons x t ih => exact (h s x).trans (ih (f s x))

end

/-! ### The changes of an update (R241–R243, R254) -/

/-- What the changes of an update touch. -/
def changeParts : List Part := [.freeCount, .burrows, .vcache, .memory, .poison, .fill, .firstTouch]

section
variable {s t : State} {bi : Nat}

theorem State.putLeaf_takes (s : State) (bi a : Nat) (l : Leaf) : Takes changeParts bi 0 s (s.putLeaf bi a l) := by
  have stored (u : State) (a : Nat) (b : Bytes) : Takes changeParts bi 0 u (u.put a b) := (Takes.of_only (u.put_only a b) rfl bi).mono rfl
  have hset : Takes changeParts bi 0 s (s.setBurrow bi ((s.burrow bi).withLeaf a l)) := Takes.set rfl rfl rfl
  rw [State.putLeaf_eq]
  exact ((hset.trans (stored _ _ _)).trans (stored _ _ _)).trans (Takes.foldl (fun u c => stored u _ _) _ _)

theorem State.appendEntry_takes {a : Nat} {e : SideEntry} (h : s.appendEntry bi a e = some t) : Takes changeParts bi 0 s t := by
  unfold State.appendEntry at h
  dsimp only at h
  split at h
  · cases h
    exact s.putLeaf_takes _ _ _
  · split at h
    · cases h
    · obtain ⟨c, -, rfl⟩ := Option.map_eq_some_iff.mp h
      exact (State.putLeaf_takes _ _ _ _).after ((Takes.of_only s.drawn_only rfl bi).mono rfl)

/-- The tombstone that a change of an outcome appends. -/
def State.tombed (s : State) (bi : Nat) (i : UpdItem) (o : Nat) : Option State :=
  if o = 1 ∨ o = 2 then s.appendTomb bi i.key (s.burrow bi).nextSeq else some s

/-- The insert that a change of an outcome appends. -/
def State.inserted (s : State) (bi seq : Nat) (i : UpdItem) (o : Nat) : Option State :=
  if takesSlot o then s.appendInsert bi seq i else some s

/-- A burrow behind a change: its sequence taken, its items counted, its item map. -/
def Burrow.changed (b : Burrow) (seq a : Nat) (i : UpdItem) (o : Nat) : Burrow :=
  { b with
    nextSeq := seq + 1, snapSeq := seq, items := if o = 0 then b.items + 1 else if o = 2 then b.items - 1 else b.items
    itemMap := if o = 2 then tdel b.itemMap i.key else tset b.itemMap i.key (i.slot, a) }

/-- A change is its tombstone, its insert, and its record in the burrow. -/
theorem State.applyItem_eq (s : State) (bi : Nat) (i : UpdItem) (o : Nat) : s.applyItem bi i o =
    (s.tombed bi i o).bind fun u => (u.inserted bi (s.burrow bi).nextSeq i o).bind fun v =>
      some (v.setBurrow bi ((v.burrow bi).changed (s.burrow bi).nextSeq ((s.burrow bi).target i) i o)) := by
  unfold State.applyItem State.tombed State.inserted
  by_cases ht : o = 1 ∨ o = 2
  · by_cases hs : takesSlot o = true
    · simp only [ht, hs, if_true]; rfl
    · simp only [ht, hs, if_true, Bool.false_eq_true, if_false]; rfl
  · by_cases hs : takesSlot o = true
    · simp only [ht, hs, if_true, if_false]; rfl
    · simp only [ht, hs, Bool.false_eq_true, if_false]; rfl

theorem State.tombed_takes {i : UpdItem} {o : Nat} (h : s.tombed bi i o = some t) : Takes changeParts bi 0 s t := by
  unfold State.tombed at h
  split at h
  · unfold State.appendTomb at h
    split at h
    · exact State.appendEntry_takes h
    · cases h
  · cases h
    exact .refl _ _ _

theorem State.inserted_takes {seq : Nat} {i : UpdItem} {o : Nat} (h : s.inserted bi seq i o = some t) : Takes changeParts bi 0 s t := by
  unfold State.inserted at h
  split at h
  · exact State.appendEntry_takes h
  · cases h
    exact .refl _ _ _

/-- A change takes one sequence. -/
theorem State.applyItem_takes {i : UpdItem} {o : Nat} (h : s.applyItem bi i o = some t) : Takes changeParts bi 1 s t := by
  rw [State.applyItem_eq] at h
  obtain ⟨u, hu, h⟩ := Option.bind_eq_some_iff.mp h
  obtain ⟨v, hv, h⟩ := Option.bind_eq_some_iff.mp h
  cases h
  have hentries := (State.inserted_takes hv).after (State.tombed_takes hu)
  refine .after ?_ hentries
  refine ⟨(v.setBurrow_only bi _).mono rfl, fun j hj => v.burrow_setBurrow_ne hj _, ?_, ?_⟩
  · rw [v.burrow_setBurrow_same, hentries.next]
    rfl
  · rw [v.burrow_setBurrow_same]
    rfl

theorem State.returnSlot_takes (s : State) (bi : Nat) (i : UpdItem) : Takes changeParts bi 0 s (s.returnSlot bi i) := by
  have hcache (u : State) (l : List (Nat × Nat × Nat)) : Only [.vcache] u { u with vcache := l } := by
    intro p hp; cases p
    case vcache => simp at hp
    all_goals rfl
  unfold State.returnSlot
  split
  · exact .refl _ _ _
  · exact (Takes.set (c := { s.burrow bi with
      slotFree := (s.burrow bi).slotFree ++ [i.slot], vectors := tdel (s.burrow bi).vectors i.slot }) rfl rfl rfl).trans
      ((Takes.of_only (hcache _ _) rfl bi).mono rfl)

/-- Sequences that outcomes take: one for each that is a change (Table 6.4). -/
def sequencesTaken (os : List Nat) : Nat := (os.filter (fun o => decide (o < 3))).length

/-- A work with more of its outcomes. -/
def Work.reached (x : Work) (os : List Nat) (first last : Nat) : Work := { x with outcomes := os, firstSeq := first, lastSeq := last }

/-- A work with the outcome of an item that takes no sequence, and of one that takes a sequence. -/
def Work.skipped (x : Work) (o : Nat) : Work := { x with outcomes := x.outcomes ++ [o] }
def Work.applied (x : Work) (seq o : Nat) : Work :=
  { x with outcomes := x.outcomes ++ [o], lastSeq := seq, firstSeq := if x.outcomes.all (3 ≤ ·) then seq else x.firstSeq }

theorem State.applyItems_skip {x : Work} {i : UpdItem} {o : Nat} {rest : List (UpdItem × Nat)} (h : 3 ≤ o) :
    s.applyItems x ((i, o) :: rest) = (s.returnSlot x.burrow i).applyItems (x.skipped o) rest := if_pos h

theorem State.applyItems_change {x : Work} {i : UpdItem} {o : Nat} {rest : List (UpdItem × Nat)} (h : o < 3)
    (ht : s.applyItem x.burrow i o = some t) :
    s.applyItems x ((i, o) :: rest) = t.applyItems (x.applied (s.burrow x.burrow).nextSeq o) rest := by
  refine (if_neg (by omega)).trans ?_
  rw [ht]
  rfl

theorem State.applyItems_wait {x : Work} {i : UpdItem} {o : Nat} {rest : List (UpdItem × Nat)} (h : o < 3)
    (ht : s.applyItem x.burrow i o = none) : s.applyItems x ((i, o) :: rest) = (x, s) := by
  refine (if_neg (by omega)).trans ?_
  rw [ht]

/-- The items of an update applied: outcomes are added, a sequence taken for each that is a change. -/
theorem State.applyItems_takes (s : State) (x : Work) (l : List (UpdItem × Nat)) : ∃ new first last,
    (s.applyItems x l).1 = x.reached (x.outcomes ++ new) first last ∧
    Takes changeParts x.burrow (sequencesTaken new) s (s.applyItems x l).2 := by
  induction l generalizing s x with
  | nil => exact ⟨[], x.firstSeq, x.lastSeq, by rw [List.append_nil]; rfl, .refl _ _ _⟩
  | cons p rest ih =>
    obtain ⟨i, o⟩ := p
    obtain ho | ho := Nat.lt_or_ge o 3
    · cases hu : s.applyItem x.burrow i o with
      | none =>
        rw [State.applyItems_wait ho hu]
        exact ⟨[], x.firstSeq, x.lastSeq, by rw [List.append_nil]; rfl, .refl _ _ _⟩
      | some u =>
        rw [State.applyItems_change ho hu]
        obtain ⟨new, first, last, hx, ht⟩ := ih u (x.applied (s.burrow x.burrow).nextSeq o)
        have hn : sequencesTaken (o :: new) = 1 + sequencesTaken new := by simp [sequencesTaken, ho, Nat.add_comm]
        refine ⟨o :: new, first, last, ?_, hn ▸ (State.applyItem_takes hu).trans ht⟩
        rw [hx, Work.applied, List.append_assoc]
        rfl
    · rw [State.applyItems_skip ho]
      obtain ⟨new, first, last, hx, ht⟩ := ih (s.returnSlot x.burrow i) (x.skipped o)
      have hn : sequencesTaken (o :: new) = sequencesTaken new := by simp [sequencesTaken, Nat.not_lt.mpr ho]
      refine ⟨o :: new, first, last, ?_, hn ▸ ht.after (s.returnSlot_takes x.burrow i)⟩
      rw [hx, Work.skipped, List.append_assoc]
      rfl

end

/-! ### A step of an update -/

/-- What a step of an update may touch. -/
def updateParts : List Part := plus [.freeCount, .burrows, .vcache, .badgers] waitParts

/-- From `s` to `t` a work on a burrow gets more outcomes, and the burrow gives a sequence for each that is a change. -/
def Advances (w bi : Nat) (s t : State) : Prop :=
  ∃ new, t.outcomesOf w = (s.outcomesOf w).map (· ++ new) ∧ Takes updateParts bi (sequencesTaken new) s t

section
variable {s t u : State} {ps : List Part} {w bi : Nat} {x : Work}

theorem sequencesTaken_append (os qs : List Nat) : sequencesTaken (os ++ qs) = sequencesTaken os + sequencesTaken qs := by
  simp [sequencesTaken]

/-- A step that adds no outcome. -/
theorem Advances.quiet (h : Takes updateParts bi 0 s t) (ho : t.outcomesOf w = s.outcomesOf w) : Advances w bi s t :=
  ⟨[], by simp [ho], h⟩

theorem Advances.refl (w bi : Nat) (s : State) : Advances w bi s s := .quiet (.refl _ _ _) rfl

theorem Advances.trans (h : Advances w bi s t) (k : Advances w bi t u) : Advances w bi s u := by
  obtain ⟨new, ho, ht⟩ := h
  obtain ⟨more, ko, kt⟩ := k
  refine ⟨new ++ more, ?_, sequencesTaken_append new more ▸ ht.trans kt⟩
  rw [ko, ho, Option.map_map]
  exact congrArg (Option.map · _) (funext fun o => List.append_assoc o new more)

theorem Advances.of_only (h : Only ps s t) (ho : SameOutcomes s t) (hp : ps.all (updateParts.erase .burrows).contains = true) :
    Advances w bi s t := by
  have hsub : ps.all updateParts.contains = true :=
    List.all_eq_true.mpr fun p hm => List.contains_iff_mem.mpr (List.mem_of_mem_erase (List.contains_iff_mem.mp (List.all_eq_true.mp hp p hm)))
  have hb : ps.contains .burrows = false := by
    by_contra hc
    have hm := List.contains_iff_mem.mp (Bool.not_eq_false _ ▸ hc)
    exact absurd (List.all_eq_true.mp hp _ hm) (by decide)
  exact .quiet ((Takes.of_only h hb bi).mono hsub) (ho w)

theorem Advances.ite {c : Prop} [Decidable c] (h : c → Advances w bi s t) (k : ¬ c → Advances w bi s u) :
    Advances w bi s (if c then t else u) := by
  split
  · exact h ‹_›
  · exact k ‹_›

theorem State.finish_advances (s : State) (v : Nat) (r : Result) : Advances w bi s (s.finish v r) :=
  .of_only (s.finish_only v r) (s.finish_outcomes v r) rfl

/-- A work in hand: it stands for the work of a number, on a burrow, with the outcomes that this has in the state. -/
structure InHand (w bi : Nat) (s : State) (x : Work) : Prop where
  id       : x.id = w
  burrow   : x.burrow = bi
  outcomes : s.outcomesOf w = some x.outcomes

theorem InHand.congr (h : InHand w bi s x) (ho : t.outcomesOf w = s.outcomesOf w) : InHand w bi t x := ⟨h.id, h.burrow, ho.trans h.outcomes⟩

theorem State.outcomesOf_setWork {os : List Nat} (hid : x.id = w) (ho : s.outcomesOf w = some os) :
    (s.setWork x).outcomesOf w = some x.outcomes := by
  obtain ⟨y, hy, -⟩ := Option.map_eq_some_iff.mp ho
  rw [State.outcomesOf, State.work_setWork_same hy hid]
  rfl

theorem InHand.setWork (h : InHand w bi s x) : InHand w bi (s.setWork x) x := ⟨h.id, h.burrow, State.outcomesOf_setWork h.id h.outcomes⟩

theorem InHand.setWork_advances (h : InHand w bi s x) : Advances w bi s (s.setWork x) :=
  .quiet ((Takes.of_only (s.setWork_only x) rfl bi).mono rfl) (h.setWork.outcomes.trans h.outcomes.symm)

theorem State.withAccess_advances {f : State → State} (accs : List (Nat × Nat × Bool))
    (h : ∀ u, u.outcomesOf w = s.outcomesOf w → Advances w bi u (f u)) : Advances w bi s (s.withAccess x accs f) := by
  have hkeeps := (s.gate_keeps x accs).only
  have hsame := s.gate_outcomes x accs
  unfold State.withAccess
  split
  · next u hu =>
    rw [hu] at hkeeps hsame
    exact .of_only hkeeps hsame rfl
  · next u hu =>
    rw [hu] at hkeeps hsame
    refine ((Advances.of_only hkeeps hsame rfl).trans (h u (hsame w))).trans ?_
    exact .of_only (State.usedBy_keeps _ x.id none).only (.of_works (State.used_works _ _).symm) rfl

theorem State.withReads_advances {f : State → State} (reads : List (Nat × Nat))
    (h : ∀ u, u.outcomesOf w = s.outcomesOf w → Advances w bi u (f u)) : Advances w bi s (s.withReads x reads f) :=
  State.withAccess_advances _ fun u hu => .ite (fun _ => u.finish_advances _ _) (fun _ => h u hu)

theorem State.onUnits_advances {f : State → State} (v cell k : Nat) (ms : List (List Nat))
    (h : ∀ u, u.outcomesOf w = s.outcomesOf w → Advances w bi u (f u)) : Advances w bi s (s.onUnits v cell k ms f) := by
  have hpass := s.passAll_only v cell k ms
  unfold State.onUnits
  split
  · next u hu =>
    rw [hu] at hpass
    have hsame : SameOutcomes s u := .of_only hpass rfl
    refine ((Advances.of_only hpass hsame rfl).trans (h u (hsame w))).trans ?_
    exact .of_only (State.leaveUnits_only _ _ _) (.of_only (State.leaveUnits_only _ _ _) rfl) rfl
  · next u hu =>
    rw [hu] at hpass
    exact .of_only hpass (.of_only hpass rfl) rfl

/-! ### Changes, routing and reading -/

theorem InHand.applyUpdate (h : InHand w bi s x) : Advances w bi s (s.applyUpdate x) := by
  obtain ⟨new, first, last, hy, htakes⟩ := s.applyItems_takes x (s.remaining x)
  obtain ⟨rfl, rfl, ho⟩ := h
  unfold State.applyUpdate
  generalize s.applyItems x (s.remaining x) = r at hy htakes
  obtain ⟨y, u⟩ := r
  dsimp only at hy htakes ⊢
  have hchanged : Advances x.id x.burrow s (u.setWork y) := by
    refine ⟨new, ?_, (htakes.mono rfl).trans ((Takes.of_only (u.setWork_only y) rfl _).mono rfl)⟩
    have hu : u.outcomesOf x.id = some x.outcomes := (SameOutcomes.of_only htakes.only rfl x.id).trans ho
    rw [State.outcomesOf_setWork (by rw [hy]; rfl) hu, ho, hy]
    rfl
  refine hchanged.trans (Advances.ite (fun _ => .refl _ _ _) (fun _ => Advances.ite (fun _ => State.finish_advances _ _ _) (fun _ => ?_)))
  refine State.withAccess_advances _ fun v _ => Advances.trans ?_ (State.finish_advances _ _ _)
  exact .of_only (v.writeAt_only _ _ _) (v.writeAt_outcomes _ _ _) rfl

theorem InHand.changeBurrow (h : InHand w bi s x) : Advances w bi s (s.changeBurrow x) :=
  .ite (fun _ => .refl _ _ _) (fun _ => h.applyUpdate)

/-- What the taking of slots touches. -/
def routeParts : List Part := .badgers :: changeParts

theorem State.cacheVec_only (s : State) (bi slot : Nat) : Only [.vcache] s (s.cacheVec bi slot) := by
  have hcache (l : List (Nat × Nat × Nat)) : Only [.vcache] s { s with vcache := l } := by
    intro p hp; cases p
    case vcache => simp at hp
    all_goals rfl
  unfold State.cacheVec
  exact Only.ite (fun _ => Only.refl _ s) (fun _ => hcache _)

theorem State.flashWrite_only (s : State) (t a : Nat) (data : Bytes) (req : Nat) : Only [.badgers] s (s.flashWrite t a data req) :=
  Only.foldl (fun u _ => u.setBadger_only _ _) _ s

theorem State.writeVector_takes (s : State) (v bi slot : Nat) (vec : Bytes) : Takes routeParts bi 0 s (s.writeVector v bi slot vec) := by
  unfold State.writeVector
  dsimp only
  split
  · exact .refl _ _ _
  · have hset : Takes routeParts bi 0 s (s.setBurrow bi { s.burrow bi with vectors := tset (s.burrow bi).vectors slot vec }) :=
      Takes.set rfl rfl rfl
    have stored (u : State) (a : Nat) : Takes routeParts bi 0 u (u.put a vec) := (Takes.of_only (u.put_only a vec) rfl bi).mono rfl
    have flash (u : State) (k a : Nat) (b : Bytes) (r : Nat) : Takes routeParts bi 0 u (u.flashWrite k a b r) :=
      (Takes.of_only (u.flashWrite_only k a b r) rfl bi).mono rfl
    have cached (u : State) : Takes routeParts bi 0 u (u.cacheVec bi slot) := (Takes.of_only (u.cacheVec_only bi slot) rfl bi).mono rfl
    split
    · exact hset.trans (stored _ _)
    · exact (hset.trans (flash _ _ _ _ _)).trans (cached _)

/-- A slot taken takes no sequence. -/
theorem Burrow.takeSlot_seqs {b c : Burrow} {k : Nat} (h : b.takeSlot = some (k, c)) : c.nextSeq = b.nextSeq ∧ c.snapSeq = b.snapSeq := by
  unfold Burrow.takeSlot at h
  split at h
  · cases h
    exact ⟨rfl, rfl⟩
  · split at h
    · cases h
      exact ⟨rfl, rfl⟩
    · cases h

theorem State.routeItems_takes {v : Nat} {items out : List UpdItem} (h : s.routeItems v bi items = some (out, t)) : Takes routeParts bi 0 s t := by
  induction items generalizing s out with
  | nil =>
    cases h
    exact .refl _ _ _
  | cons i items ih =>
    unfold State.routeItems at h
    split at h
    · obtain ⟨⟨rest, u⟩, hu, h⟩ := Option.bind_eq_some_iff.mp h
      cases h
      exact ih hu
    · obtain ⟨⟨k, b⟩, hk, h⟩ := Option.bind_eq_some_iff.mp h
      obtain ⟨⟨rest, u⟩, hu, h⟩ := Option.bind_eq_some_iff.mp h
      cases h
      obtain ⟨hn, hs⟩ := Burrow.takeSlot_seqs hk
      exact ((Takes.set hn hs rfl).trans (State.writeVector_takes _ _ _ _ _)).trans (ih hu)

theorem InHand.routeUpdate (h : InHand w bi s x) (codes : List Bytes) : Advances w bi s (s.routeUpdate x codes) := by
  unfold State.routeUpdate
  dsimp only
  refine .ite (fun _ => s.finish_advances _ _) (fun _ => .ite (fun _ => ?deletes) (fun _ => .ite (fun _ => .refl _ _ _) (fun _ => ?_)))
  case deletes => exact InHand.applyUpdate ⟨h.id, h.burrow, h.outcomes⟩
  split
  · exact .refl _ _ _
  · refine State.onUnits_advances _ _ _ _ fun u hu => .ite (fun _ => u.finish_advances _ _) (fun _ => ?_)
    split
    · exact .refl _ _ _
    · next items v hv =>
      have htakes := h.burrow ▸ State.routeItems_takes hv
      have hsame : SameOutcomes u v := .of_only htakes.only rfl
      have hhand : InHand w bi v { x with items, routed := true } := ⟨h.id, h.burrow, ((hsame w).trans hu).trans h.outcomes⟩
      refine .ite (fun _ => u.finish_advances _ _) (fun _ => ?_)
      exact ((Advances.quiet (htakes.mono rfl) (hsame w)).trans hhand.setWork_advances).trans hhand.setWork.changeBurrow

theorem InHand.advanceUpdate (h : InHand w bi s x) : Advances w bi s (s.advanceUpdate x) := by
  unfold State.advanceUpdate
  refine .ite (fun _ => .refl _ _ _) (fun _ => .ite (fun _ => h.changeBurrow) (fun _ => ?_))
  split
  · exact .refl _ _ _
  · exact h.routeUpdate _

theorem InHand.readUpdate (h : InHand w bi s x) (records vectors : Bytes) : Advances w bi s (s.readUpdate x records vectors) := by
  unfold State.readUpdate
  dsimp only
  split
  · exact s.finish_advances _ _
  · refine State.withReads_advances _ fun u hu => .ite (fun _ => u.finish_advances _ _) (fun _ =>
      .ite (fun _ => u.finish_advances _ _) (fun _ => .ite (fun _ => u.finish_advances _ _) (fun _ => ?_)))
    have hhand (items : List UpdItem) (codes : Option (List Bytes)) : InHand w bi u { x with items, codes } :=
      ⟨h.id, h.burrow, hu.trans h.outcomes⟩
    refine .ite (fun _ => ?_) (fun _ => ?_)
    · exact (hhand _ _).setWork_advances.trans (hhand _ _).setWork.advanceUpdate
    · exact (hhand _ _).setWork_advances.trans (.of_only (State.runs_only (u.setWork _) _) (.of_works rfl) rfl)

theorem InHand.updateStep (h : InHand w bi s x) (records vectors : Bytes) : Advances w bi s (s.updateStep x records vectors) :=
  .ite (fun _ => h.readUpdate _ _) (fun _ => h.advanceUpdate)

/-- The step of an update of each opcode. -/
theorem update_exec {op : Nat} {c : Instr} {a b : Bytes} (hx : startable s w x op)
    (hc : (op = 0x12 ∧ c = .insert w a b) ∨ (op = 0x13 ∧ c = .delete w a) ∨ (op = 0x14 ∧ c = .upsert w a b)) :
    exec c s = .next (s.updateStep x a (if op = 0x13 then [] else b)) := by
  obtain ⟨rfl, rfl⟩ | ⟨rfl, rfl⟩ | ⟨rfl, rfl⟩ := hc
  · exact congrArg Host.Outcome.next (State.withWork_startable hx _)
  · exact congrArg Host.Outcome.next (State.withWork_startable hx _)
  · exact congrArg Host.Outcome.next (State.withWork_startable hx _)

theorem appendResume_exec (hx : running s w x) (hop : isUpdate x.opcode = true) :
    exec (.appendResume w) s = .next (if x.routed then s.advanceUpdate x else s) :=
  congrArg Host.Outcome.next (State.withWork_running hx hop _)

end

/-- Settles O26: every step of an update advances its work, one sequence for each change. -/
theorem updatesTakeSequencesInOrder : Obligations.UpdatesTakeSequencesInOrder := by
  unfold Obligations.UpdatesTakeSequencesInOrder
  intro w op c x a b s hx hc
  have hwork : s.work w = some x := hx.1
  obtain rfl : x.id = w := State.work_id s hwork
  have hhand : InHand x.id x.burrow s x := ⟨rfl, rfl, congrArg (Option.map _) hwork⟩
  obtain ⟨t, he, new, hnew, htakes⟩ : ∃ t, exec c s = .next t ∧ Advances x.id x.burrow s t := by
    obtain hc | hc | hc | ⟨hop, rfl⟩ := hc
    · exact ⟨_, update_exec hx (.inl hc), hhand.updateStep _ _⟩
    · exact ⟨_, update_exec (b := b) hx (.inr (.inl hc)), hhand.updateStep _ _⟩
    · exact ⟨_, update_exec hx (.inr (.inr hc)), hhand.updateStep _ _⟩
    · obtain ⟨-, hxop, hrun⟩ := hx
      exact ⟨_, appendResume_exec ⟨hwork, hrun⟩ (hxop ▸ hop), .ite (fun _ => hhand.advanceUpdate) (fun _ => .refl _ _ _)⟩
  rw [hhand.outcomes] at hnew
  obtain ⟨y, hy, hyo⟩ := Option.map_eq_some_iff.mp hnew
  refine ⟨t, he, htakes.only, y, new, hy, hyo, htakes.next, fun hne => ?_, htakes.others⟩
  have hpos : sequencesTaken new ≠ 0 := fun h => hne (List.eq_nil_of_length_eq_zero h)
  have hsnap := htakes.snap
  rwa [if_neg hpos] at hsnap

end Sys2Proof.Machine
end

section
/-!
SUPPORT. Room for the changes of an update: where the last chunk of every leaf that it changes holds all its entries, every change finds its
place, so that the outcomes are those planned (R180, R242, R267).
-/

namespace Sys2Proof.Machine

/-! ### What is planned (Table 6.4) -/

/-- An item id is live behind the items of a batch that came before. -/
def seenLive (live : Nat → Bool) (seen : List (Nat × Bool)) (key : Nat) : Bool :=
  match seen.find? (fun e => e.1 == key) with
  | some e => e.2
  | none => live key

/-- The outcome of an item of a kind, whose id is live or not. -/
def planOutcome (kind : Nat) (live : Bool) : Nat :=
  match kind with
  | 0 => if live then 3 else 0
  | 1 => if live then 1 else 0
  | _ => if live then 2 else 4

theorem planItems_cons (live : Nat → Bool) (seen : List (Nat × Bool)) (i : UpdItem) (t : List UpdItem) : planItems live seen (i :: t) =
    planOutcome i.kind (seenLive live seen i.key) :: planItems live
      ((i.key, decide (planOutcome i.kind (seenLive live seen i.key) ≠ 2 ∧ planOutcome i.kind (seenLive live seen i.key) ≠ 4)) :: seen) t := rfl

theorem planItems_length (live : Nat → Bool) (seen : List (Nat × Bool)) (items : List UpdItem) :
    (planItems live seen items).length = items.length := by
  induction items generalizing seen with
  | nil => rfl
  | cons i t ih => rw [planItems_cons, List.length_cons, ih, List.length_cons]

theorem seenLive_cons (live : Nat → Bool) (seen : List (Nat × Bool)) (k key : Nat) (b : Bool) :
    seenLive live ((k, b) :: seen) key = if key = k then b else seenLive live seen key := by
  unfold seenLive
  rw [List.find?_cons]
  by_cases h : key = k
  · simp [h]
  · have hne : (k == key) = false := by simpa using Ne.symm h
    simp [h, hne]

/-- An id that gets a tombstone is live. -/
theorem planOutcome_live {kind : Nat} {live : Bool} (h : planOutcome kind live = 1 ∨ planOutcome kind live = 2) : live = true := by
  cases live with
  | true => rfl
  | false => unfold planOutcome at h; split at h <;> simp at h

/-- An item that is skipped leaves its id live or not, as it was. -/
theorem planOutcome_skip {kind : Nat} {live : Bool} (h : 3 ≤ planOutcome kind live) :
    decide (planOutcome kind live ≠ 2 ∧ planOutcome kind live ≠ 4) = live := by
  unfold planOutcome at h ⊢
  cases live with
  | true => split at h <;> simp_all
  | false => split at h <;> simp_all

/-! ### Room in the last chunks (R180) -/

/-- The last chunk of a leaf holds more bytes. -/
def Burrow.hasRoom (b : Burrow) (n a : Nat) : Prop :=
  (tget b.leaves a).isSome = true ∧ ∃ k, (b.leaf a).side.getLast? = some k ∧ k.used + n ≤ 4032

/-- From one form of a burrow to the next no last chunk gets more than some bytes, and items go where they went. -/
structure Burrow.fills (b c : Burrow) (z : Nat) : Prop where
  target : ∀ i, c.target i = b.target i
  room   : ∀ n a, b.hasRoom (n + z) a → c.hasRoom n a

section
variable {b c d : Burrow} {y z : Nat}

theorem Burrow.hasRoom.mono {n m a : Nat} (h : b.hasRoom n a) (hle : m ≤ n) : b.hasRoom m a := by
  obtain ⟨hs, k, hk, hn⟩ := h
  exact ⟨hs, k, hk, by omega⟩

theorem Burrow.fills.refl (b : Burrow) : b.fills b 0 := ⟨fun _ => rfl, fun _ _ h => h⟩

theorem Burrow.fills.trans (h : b.fills c y) (k : c.fills d z) : b.fills d (y + z) :=
  ⟨fun i => (k.target i).trans (h.target i), fun n a hr => k.room n a (h.room (n + z) a (by rwa [Nat.add_assoc, Nat.add_comm z y]))⟩

theorem Burrow.fills.mono (h : b.fills c y) (hle : y ≤ z) : b.fills c z := ⟨h.target, fun n a hr => h.room n a (hr.mono (by omega))⟩

/-! ### The tree keeps its form -/

theorem Burrow.current_withLeaf (b : Burrow) (a : Nat) (l : Leaf) : (b.withLeaf a l).current = b.current := by
  have reach (fuel : Nat) (cs : List (Bool × Nat)) : (b.withLeaf a l).reach fuel cs = b.reach fuel cs := by
    induction fuel generalizing cs with
    | zero => rfl
    | succ n ih =>
      unfold Burrow.reach
      exact ih _
  exact reach 7 _

theorem Burrow.route_withLeaf {a : Nat} (h : (tget b.leaves a).isSome = true) (l : Leaf) (i : UpdItem) :
    (b.withLeaf a l).route i = b.route i := by
  have leaf (p : Nat) : (tget (b.withLeaf a l).leaves p).isSome = (tget b.leaves p).isSome := by
    unfold Burrow.withLeaf
    rw [tget_tset]
    split
    · next hp => rw [hp, h]; rfl
    · rfl
  have from_ (q : List Fp) (fuel p : Nat) : (b.withLeaf a l).routeFrom q fuel p = b.routeFrom q fuel p := by
    induction fuel generalizing p with
    | zero => rfl
    | succ n ih =>
      unfold Burrow.routeFrom
      rw [leaf]
      split
      · rfl
      · exact ih _
  exact from_ _ 8 _

/-- A leaf of the tree replaced: items go to the leaves they went to. -/
theorem Burrow.target_withLeaf {a : Nat} (h : (tget b.leaves a).isSome = true) (l : Leaf) (i : UpdItem) :
    (b.withLeaf a l).target i = b.target i := by
  unfold Burrow.target
  rw [b.current_withLeaf, Burrow.route_withLeaf h]

theorem Burrow.leaf_withLeaf (b : Burrow) (a p : Nat) (l : Leaf) : (b.withLeaf a l).leaf p = if p = a then l else b.leaf p := by
  unfold Burrow.leaf Burrow.withLeaf
  split
  · next h => rw [h]; exact tgetD_tset_same _ _ _ _
  · next h => exact tgetD_tset_ne _ h _ _

/-- A leaf with an entry at the end of its last chunk. -/
def Leaf.append (l : Leaf) (k : Chunk) (e : SideEntry) : Leaf := { l with side := l.side.dropLast ++ [{ k with entries := k.entries ++ [e] }] }

theorem Burrow.fills_append {a : Nat} {k : Chunk} (h : (tget b.leaves a).isSome = true) (hk : (b.leaf a).side.getLast? = some k)
    (e : SideEntry) : b.fills (b.withLeaf a ((b.leaf a).append k e)) e.bytes := by
  refine ⟨Burrow.target_withLeaf h _, fun n p hp => ?_⟩
  obtain ⟨hs, m, hm, hle⟩ := hp
  refine ⟨?_, ?_⟩
  · unfold Burrow.withLeaf
    rw [tget_tset]
    split
    · rfl
    · exact hs
  · rw [Burrow.leaf_withLeaf]
    split
    · next hpa =>
      subst hpa
      obtain rfl : m = k := Option.some.inj (hm.symm.trans hk)
      refine ⟨_, List.getLast?_concat .., ?_⟩
      unfold Chunk.used at hle ⊢
      rw [List.map_append, List.sum_append]
      simp only [List.map_cons, List.map_nil, List.sum_cons, List.sum_nil]
      omega
    · exact ⟨m, hm, by omega⟩

end

section
variable {s t : State} {bi : Nat}

theorem State.burrow_putLeaf (s : State) (bi a : Nat) (l : Leaf) : (s.putLeaf bi a l).burrow bi = (s.burrow bi).withLeaf a l := by
  have hput (u : State) (a : Nat) (b : Bytes) : (u.put a b).burrow bi = u.burrow bi := State.burrow_congr (u.put_only a b .burrows (by decide)) bi
  have hchunks (cs : List (Nat × Bytes)) (u : State) : (cs.foldl (fun s c => s.put c.1 c.2) u).burrow bi = u.burrow bi := by
    induction cs generalizing u with
    | nil => rfl
    | cons c t ih => exact (ih _).trans (hput _ _ _)
  rw [State.putLeaf_eq, hchunks, hput, hput, s.burrow_setBurrow_same]

/-- An entry for which there is room is appended to the last chunk. -/
theorem State.appendEntry_room {a : Nat} {e : SideEntry} (h : (s.burrow bi).hasRoom e.bytes a) : ∃ t, s.appendEntry bi a e = some t ∧
    (s.burrow bi).fills (t.burrow bi) e.bytes ∧ (t.burrow bi).itemMap = (s.burrow bi).itemMap := by
  obtain ⟨hs, k, hk, hle⟩ := h
  refine ⟨s.putLeaf bi a (((s.burrow bi).leaf a).append k e), ?_, ?_, ?_⟩
  · unfold State.appendEntry
    dsimp only
    rw [hk]
    exact if_pos (decide_eq_true hle)
  · rw [State.burrow_putLeaf]
    exact Burrow.fills_append hs hk e
  · rw [State.burrow_putLeaf]
    rfl

/-- The bytes that the entries of an item take at most: a tombstone and an insert. -/
def UpdItem.cost (i : UpdItem) : Nat := 64 + roundup i.code.length 16

theorem State.tombed_room {i : UpdItem} {o : Nat}
    (h : o = 1 ∨ o = 2 → ∃ p, tget (s.burrow bi).itemMap i.key = some p ∧ (s.burrow bi).hasRoom 32 p.2) : ∃ t, s.tombed bi i o = some t ∧
    (s.burrow bi).fills (t.burrow bi) 32 ∧ (t.burrow bi).itemMap = (s.burrow bi).itemMap := by
  unfold State.tombed
  split
  · next ho =>
    obtain ⟨⟨slot, a⟩, hp, hroom⟩ := h ho
    unfold State.appendTomb
    rw [hp]
    exact State.appendEntry_room hroom
  · exact ⟨s, rfl, (Burrow.fills.refl _).mono (by omega), rfl⟩

theorem State.inserted_room {i : UpdItem} {o : Nat} (seq : Nat)
    (h : takesSlot o = true → (s.burrow bi).hasRoom (32 + roundup i.code.length 16) ((s.burrow bi).target i)) :
    ∃ t, s.inserted bi seq i o = some t ∧ (s.burrow bi).fills (t.burrow bi) (32 + roundup i.code.length 16) ∧
      (t.burrow bi).itemMap = (s.burrow bi).itemMap := by
  unfold State.inserted
  split
  · next ho => exact State.appendEntry_room (e := .insert i.slot seq i.key i.attr i.code) (h ho)
  · exact ⟨s, rfl, (Burrow.fills.refl _).mono (by omega), rfl⟩

/-- A change that has room for its entries is made. -/
theorem State.applyItem_room {i : UpdItem} {o : Nat}
    (htomb : o = 1 ∨ o = 2 → ∃ p, tget (s.burrow bi).itemMap i.key = some p ∧ (s.burrow bi).hasRoom i.cost p.2)
    (hins : takesSlot o = true → (s.burrow bi).hasRoom i.cost ((s.burrow bi).target i)) : ∃ t, s.applyItem bi i o = some t ∧
    (s.burrow bi).fills (t.burrow bi) i.cost ∧ (t.burrow bi).itemMap =
      if o = 2 then tdel (s.burrow bi).itemMap i.key else tset (s.burrow bi).itemMap i.key (i.slot, (s.burrow bi).target i) := by
  have hcost : i.cost = 32 + roundup i.code.length 16 + 32 := by unfold UpdItem.cost; omega
  obtain ⟨u, hu, hfill, hmap⟩ := State.tombed_room (s := s) (bi := bi) (i := i) (o := o) fun ho => by
    obtain ⟨p, hp, hroom⟩ := htomb ho
    exact ⟨p, hp, hroom.mono (by omega)⟩
  obtain ⟨v, hv, kfill, kmap⟩ := State.inserted_room (s := u) (bi := bi) (i := i) (o := o) (s.burrow bi).nextSeq fun ho => by
    rw [hfill.target]
    exact hfill.room _ _ (hcost ▸ hins ho)
  refine ⟨v.setBurrow bi ((v.burrow bi).changed (s.burrow bi).nextSeq ((s.burrow bi).target i) i o), ?_, ?_, ?_⟩
  · rw [State.applyItem_eq, hu, Option.bind_some, hv, Option.bind_some]
  · rw [State.burrow_setBurrow_same]
    have hboth := (hfill.trans kfill).mono (z := i.cost) (by omega)
    exact ⟨hboth.target, hboth.room⟩
  · rw [State.burrow_setBurrow_same]
    unfold Burrow.changed
    dsimp only
    rw [kmap, hmap]

/-! ### All changes made -/

/-- The last chunks of the leaves to which items go and in which the burrow's items stand hold more bytes. -/
structure Burrow.roomFor (b : Burrow) (items : List UpdItem) (n : Nat) : Prop where
  targets : ∀ i ∈ items, b.hasRoom n (b.target i)
  listed  : ∀ e ∈ b.itemMap, b.hasRoom n e.2.2

/-- A burrow with the slot of an item returned. -/
def Burrow.returned (b : Burrow) (i : UpdItem) : Burrow := { b with slotFree := b.slotFree ++ [i.slot], vectors := tdel b.vectors i.slot }

theorem State.burrow_returnSlot (s : State) (bi : Nat) (i : UpdItem) :
    (s.returnSlot bi i).burrow bi = if i.kind = 2 then s.burrow bi else (s.burrow bi).returned i := by
  unfold State.returnSlot
  split
  · rfl
  · exact s.burrow_setBurrow_same bi ((s.burrow bi).returned i)

theorem State.returnSlot_room (s : State) (bi : Nat) (i : UpdItem) : (s.burrow bi).fills ((s.returnSlot bi i).burrow bi) 0 ∧
    ((s.returnSlot bi i).burrow bi).itemMap = (s.burrow bi).itemMap := by
  rw [State.burrow_returnSlot]
  split
  · exact ⟨.refl _, rfl⟩
  · exact ⟨⟨fun _ => rfl, fun _ _ h => h⟩, rfl⟩

theorem tget_mem {α : Type} {m : Tab α} {i : Nat} {x : α} (h : tget m i = some x) : (i, x) ∈ m := by
  induction m with
  | nil => cases h
  | cons d t ih =>
    obtain ⟨k, v⟩ := d
    unfold tget at h
    split at h
    · next hk =>
      cases h
      exact hk ▸ List.mem_cons_self
    · exact List.mem_cons_of_mem _ (ih h)

/-- Room that is left behind an item, in a burrow in whose map only that item's leaf is new. -/
theorem Burrow.roomFor.next {b c : Burrow} {i : UpdItem} {items : List UpdItem} {n : Nat} (h : b.roomFor (i :: items) n) (hn : i.cost ≤ n)
    (hc : b.fills c i.cost) (hmap : ∀ e ∈ c.itemMap, e ∈ b.itemMap ∨ e.2.2 = b.target i) : c.roomFor items (n - i.cost) := by
  obtain ⟨hi, hrest⟩ := List.forall_mem_cons.mp h.targets
  have hleft {a : Nat} (ha : b.hasRoom n a) : c.hasRoom (n - i.cost) a := hc.room _ _ (by rwa [Nat.sub_add_cancel hn])
  refine ⟨fun j hj => ?_, fun e he => ?_⟩
  · rw [hc.target]
    exact hleft (hrest j hj)
  · obtain hold | hnew := hmap e he
    · exact hleft (h.listed e hold)
    · exact hnew ▸ hleft hi

/-- With room for all their entries every item of an update has the outcome that is planned. -/
theorem State.applyItems_room {live : Nat → Bool} {seen : List (Nat × Bool)} {items : List UpdItem} {x : Work} {n : Nat}
    (hroom : (s.burrow x.burrow).roomFor items n) (hn : (items.map UpdItem.cost).sum ≤ n)
    (hlive : ∀ key, seenLive live seen key = (s.burrow x.burrow).isLive key) :
    (s.applyItems x (items.zip (planItems live seen items))).1.outcomes = x.outcomes ++ planItems live seen items := by
  induction items generalizing s seen x n with
  | nil => exact (List.append_nil _).symm
  | cons i items ih =>
    rw [List.map_cons, List.sum_cons] at hn
    rw [planItems_cons, List.zip_cons_cons, hlive i.key]
    have htombed := planOutcome_live (kind := i.kind) (live := (s.burrow x.burrow).isLive i.key)
    have hskipped := planOutcome_skip (kind := i.kind) (live := (s.burrow x.burrow).isLive i.key)
    generalize planOutcome i.kind ((s.burrow x.burrow).isLive i.key) = o at htombed hskipped ⊢
    have hseen {c : Burrow} (hc : ∀ key, c.isLive key = if key = i.key then decide (o ≠ 2 ∧ o ≠ 4) else (s.burrow x.burrow).isLive key)
        (key : Nat) : seenLive live ((i.key, decide (o ≠ 2 ∧ o ≠ 4)) :: seen) key = c.isLive key := by
      rw [seenLive_cons, hc, hlive]
    have hlater {u : State} {y : Work} (hb : y.burrow = x.burrow) (ho : y.outcomes = x.outcomes ++ [o])
        (hfill : (s.burrow x.burrow).fills (u.burrow x.burrow) i.cost)
        (hmap : ∀ e ∈ (u.burrow x.burrow).itemMap, e ∈ (s.burrow x.burrow).itemMap ∨ e.2.2 = (s.burrow x.burrow).target i)
        (hc : ∀ key, (u.burrow x.burrow).isLive key = if key = i.key then decide (o ≠ 2 ∧ o ≠ 4) else (s.burrow x.burrow).isLive key) :
        (u.applyItems y (items.zip (planItems live ((i.key, decide (o ≠ 2 ∧ o ≠ 4)) :: seen) items))).1.outcomes =
          x.outcomes ++ o :: planItems live ((i.key, decide (o ≠ 2 ∧ o ≠ 4)) :: seen) items := by
      refine (ih (n := n - i.cost) ?_ (by omega) ?_).trans (by rw [ho, List.append_assoc]; rfl)
      · rw [hb]
        exact hroom.next (by omega) hfill hmap
      · rw [hb]
        exact hseen hc
    obtain ho | ho := Nat.lt_or_ge o 3
    · have htomb (h : o = 1 ∨ o = 2) : ∃ p, tget (s.burrow x.burrow).itemMap i.key = some p ∧ (s.burrow x.burrow).hasRoom i.cost p.2 := by
        obtain ⟨p, hp⟩ := Option.isSome_iff_exists.mp (htombed h)
        exact ⟨p, hp, (hroom.listed _ (tget_mem hp)).mono (by omega)⟩
      obtain ⟨u, hu, hfill, hmap⟩ := State.applyItem_room htomb (fun _ => (hroom.targets i List.mem_cons_self).mono (by omega))
      rw [State.applyItems_change ho hu]
      refine hlater rfl rfl hfill (fun e he => ?_) (fun key => ?_)
      · rw [hmap] at he
        split at he
        · exact .inl (List.mem_of_mem_filter he)
        · exact (eq_or_mem_of_mem_tset he).symm.imp_right fun h => by rw [h]
      · unfold Burrow.isLive
        rw [hmap]
        split
        · next h2 =>
          rw [tget_tdel]
          split
          · simp [h2]
          · rfl
        · next h2 =>
          rw [tget_tset]
          split
          · exact (decide_eq_true ⟨h2, by omega⟩).symm
          · rfl
    · obtain ⟨hfill, hmap⟩ := s.returnSlot_room x.burrow i
      rw [State.applyItems_skip ho]
      refine hlater rfl rfl (hfill.mono (Nat.zero_le _)) (fun e he => .inl (hmap ▸ he)) (fun key => ?_)
      unfold Burrow.isLive
      rw [hmap]
      split
      · next hkey => rw [hskipped ho, hkey]; rfl
      · rfl

end

end Sys2Proof.Machine
end

section
/-!
SUPPORT. O27: what the step of an update comes to, once its records have been read, once its codes have been computed, and once it is routed
(R249–R255, R267); at the end the statement, put together from these.
-/

namespace Sys2Proof.Machine

/-! ### Reading the records (R250) -/

section
variable {s s' : State} {w op : Nat} {c : Instr} {x : Work} {recs vecs : Bytes}

/-- The check that only a burrow created after admission lets be made. -/
def State.updateLate (s : State) (x : Work) : Option Result :=
  if x.unchecked = true ∧ (s.burrow x.burrow).state ≠ 0 then lowestCheck (updateChecks (s.burrow x.burrow) 0 x.desc) else none

/-- The codes of an update are known without a run: they came with it, or it deletes, or they are parts of its vectors (R255). -/
def Work.codesKnown (x : Work) (b : Burrow) : Bool := updCodes x.desc || descOpcode x.desc == 0x13 || b.metric == 3

/-- An update whose records have been read. -/
def Work.withItems (x : Work) (b : Burrow) (items : List (Bytes × Option UpdItem)) : Work :=
  { x with items := items.filterMap (·.2), codes := if x.codesKnown b then some [] else none }

/-- What an update does with items that the checks of its records let pass, in an ACTIVE burrow. -/
def State.takeItems (s : State) (b : Burrow) (x : Work) (items : List (Bytes × Option UpdItem)) : State :=
  let y := x.withItems b items
  if x.codesKnown b then (s.setWork y).advanceUpdate y else { s.setWork y with runs := s.runs ++ [encodeRun x b.homeDen] }

/-- What an update does with its records once they have been read, given its burrow. -/
def State.takeRecords (s : State) (b : Burrow) (x : Work) (items : List (Bytes × Option UpdItem)) : State :=
  if items.any (fun p => recordBad x.desc p.1) then s.finish x.id (Result.err 0x12 8)
  else if items.any (·.2.isNone) then s.finish x.id (Result.err 0x12 16)
  else if b.state ≠ 1 then s.finish x.id (Result.err 0x10 32)
  else s.takeItems b x items

section
variable {b : Burrow} {items : List (Bytes × Option UpdItem)}

theorem State.takeRecords_bad (h8 : items.any (fun p => recordBad x.desc p.1) = true) :
    s.takeRecords b x items = s.finish x.id (Result.err 0x12 8) := if_pos h8

theorem State.takeRecords_refused (h8 : items.any (fun p => recordBad x.desc p.1) = false) (h16 : items.any (·.2.isNone) = true) :
    s.takeRecords b x items = s.finish x.id (Result.err 0x12 16) :=
  (if_neg (ne_true_of_eq_false h8)).trans (if_pos h16)

theorem State.takeRecords_inactive (h8 : items.any (fun p => recordBad x.desc p.1) = false) (h16 : items.any (·.2.isNone) = false)
    (hb : b.state ≠ 1) : s.takeRecords b x items = s.finish x.id (Result.err 0x10 32) :=
  (if_neg (ne_true_of_eq_false h8)).trans ((if_neg (ne_true_of_eq_false h16)).trans (if_pos hb))

theorem State.takeRecords_encodes (h8 : items.any (fun p => recordBad x.desc p.1) = false) (h16 : items.any (·.2.isNone) = false)
    (hb : b.state = 1) (hk : x.codesKnown b = false) :
    s.takeRecords b x items = { s.setWork (x.withItems b items) with runs := s.runs ++ [encodeRun x b.homeDen] } :=
  (if_neg (ne_true_of_eq_false h8)).trans ((if_neg (ne_true_of_eq_false h16)).trans
    ((if_neg (not_not_intro hb)).trans (if_neg (ne_true_of_eq_false hk))))

end

theorem State.readUpdate_late {r : Result} (h : s.updateLate x = some r) : s.readUpdate x recs vecs = s.finish x.id r := by
  unfold State.updateLate at h
  have hlate : (if x.unchecked && (s.burrow x.burrow).state != 0 then lowestCheck (updateChecks (s.burrow x.burrow) 0 x.desc) else none) =
      some r := by simpa using h
  unfold State.readUpdate
  dsimp only
  rw [hlate]

theorem State.readUpdate_reads (h : s.updateLate x = none) (hr : readable s x ((s.burrow x.burrow).updateReads x.desc) s') :
    s.readUpdate x recs vecs =
      (s'.takeRecords (s.burrow x.burrow) x (s'.readItems (s.burrow x.burrow) x recs vecs)).used x.id := by
  unfold State.updateLate at h
  have hlate : (if x.unchecked && (s.burrow x.burrow).state != 0 then lowestCheck (updateChecks (s.burrow x.burrow) 0 x.desc) else none) =
      none := by simpa using h
  unfold State.readUpdate
  dsimp only
  rw [hlate]
  exact State.withReads_readable hr _

/-- An update whose records end it. -/
theorem Does.reads_ends (hx : startable s w x op) (hgate : Only (accessParts x s') s s') {r : Result} {t : State} (he : exec c s = .next t)
    (e : t = (s'.finish w r).used x.id) : Does c s (.works :: accessParts x s') (fun t => hasResult t w r) :=
  Does.of_eq he e (State.used_after (qs := [.works]) hgate (s'.finish_only _ _) (by decide) rfl)
    (hasResult_used hx.1 (State.access_works hgate) _)

/-- An update whose items still want their codes asks for the run that computes them. -/
theorem Does.reads_encodes (hx : startable s w x op) (hgate : Only (accessParts x s') s s') {items : List (Bytes × Option UpdItem)}
    {t : State} (he : exec c s = .next t) (hk : x.codesKnown (s.burrow x.burrow) = false)
    (e : t = ({ s'.setWork (x.withItems (s.burrow x.burrow) items) with
      runs := s'.runs ++ [encodeRun x (s.burrow x.burrow).homeDen] } : State).used x.id) :
    Does c s (plus [.works, .runs] (accessParts x s')) (fun t => t.runs = s.runs ++ [encodeRun x (s.burrow x.burrow).homeDen] ∧
      ∃ y, t.work w = some y ∧ y.codes = none ∧ y.items = items.filterMap (·.2)) := by
  generalize hy : x.withItems (s.burrow x.burrow) items = y at e
  generalize hu : ({ s'.setWork y with runs := s'.runs ++ [encodeRun x (s.burrow x.burrow).homeDen] } : State) = u at e
  have hact : Only [.works, .runs] s' u := by
    rw [← hu]
    exact ((s'.setWork_only y).mono rfl).trans ((State.runs_only (s'.setWork y) _).mono rfl)
  have hruns : (u.used x.id).runs = u.runs := (State.access_keeps (p := .runs) (u.used_only x) (by decide)).symm
  have hwork : (u.used x.id).work w = some y := by
    have hxid : x.id = w := State.work_id s hx.1
    have hid : y.id = w := by rw [← hy]; exact hxid
    have hw : s'.work w = some x := (State.work_congr (State.access_works hgate) w).trans hx.1
    rw [State.work_congr (State.used_works u x.id).symm, ← hu]
    exact State.work_setWork_same hw hid
  refine Does.of_eq he e (State.used_after (qs := [.works, .runs]) hgate hact (by decide) rfl) ⟨?_, y, hwork, ?_, ?_⟩
  · rw [hruns, ← hu, State.access_keeps (p := .runs) hgate (by decide)]
  · rw [← hy]
    exact if_neg (by simp [hk])
  · rw [← hy]
    rfl

/-! ### The codes computed (R255) -/

theorem State.run_removed (s : State) (w v : Nat) :
    ({ s with runs := s.runs.filter (fun q => q.w != w) } : State).run v = if v = w then none else s.run v := by
  unfold State.run
  dsimp only
  rw [List.find?_filter]
  split
  · next h =>
    refine List.find?_eq_none.mpr fun q _ => ?_
    simp [h]
  · next h =>
    congr 1
    funext q
    by_cases hq : q.w = v
    · simp [hq, h]
    · simp [hq]

/-- An update with the codes of its items. -/
def Work.encoded (x : Work) (b : Burrow) : Work := { x with codes := some (x.items.map (fun i => b.encode i.vec)) }

theorem pqEncodeRun_does {r : Run} (hx : running s w x) (hop : isUpdate x.opcode = true) (hr : s.run w = some r) (hs : r.setts ≠ []) :
    Does (.pqEncodeRun w) s [.runs, .works] (fun t => t.run w = none ∧ (∀ v, v ≠ w → t.run v = s.run v) ∧
      t.work w = some (x.encoded (s.burrow x.burrow))) := by
  generalize hu : ({ s with runs := s.runs.filter (fun q => q.w != w) } : State) = u
  have e : pqEncodeRunSt w s = u.setWork (x.encoded (s.burrow x.burrow)) := by
    refine (State.withWork_running hx hop _).trans ?_
    rw [hr, ← hu]
    exact if_neg hs
  have hrun (v : Nat) : (u.setWork (x.encoded (s.burrow x.burrow))).run v = if v = w then none else s.run v := hu ▸ s.run_removed w v
  have honly : Only [.runs] s u := hu ▸ s.runs_only _
  have hid : x.id = w := State.work_id s hx.1
  refine Does.of_eq rfl e ((honly.mono rfl).trans ((State.setWork_only _ _).mono rfl)) ⟨?_, fun v hv => ?_, ?_⟩
  · rw [hrun, if_pos rfl]
  · rw [hrun, if_neg hv]
  · exact State.work_setWork_same ((State.work_congr (honly .works (by decide)) w).trans hx.1) hid

end

/-! ### The changes made (R242, R249, R252) -/

section
variable {s : State} {w : Nat} {c : Instr} {x : Work}

/-- A routed update in its turn, with its vectors acknowledged, makes its changes. -/
theorem State.advanceUpdate_changes (hr : x.routed = true) (ht : s.turn x = true) (hf : s.flashBusy (vectorReq x.id) = false) :
    s.advanceUpdate x = s.applyUpdate x := by
  unfold State.advanceUpdate State.changeBurrow
  simp [hr, ht, hf]

/-- The state in which every item of an update has its outcome, and its work there. -/
def State.appliedAll (s : State) (x : Work) : State := (s.applyItems x (s.remaining x)).2.setWork (s.applyItems x (s.remaining x)).1

theorem State.applyUpdate_finishes (hlen : ¬(s.applyItems x (s.remaining x)).1.outcomes.length < (s.applyItems x (s.remaining x)).1.items.length)
    (hres : descRes (s.applyItems x (s.remaining x)).1.desc = 0) : s.applyUpdate x =
      (s.appliedAll x).finish (s.applyItems x (s.remaining x)).1.id (updateResult (s.applyItems x (s.remaining x)).1) :=
  (if_neg hlen).trans (if_pos hres)

theorem State.applyUpdate_writes (hlen : ¬(s.applyItems x (s.remaining x)).1.outcomes.length < (s.applyItems x (s.remaining x)).1.items.length)
    (hres : descRes (s.applyItems x (s.remaining x)).1.desc ≠ 0) {y : Work} (hy : (s.applyItems x (s.remaining x)).1 = y) : s.applyUpdate x =
      (s.appliedAll x).withAccess y [(descRes y.desc, y.items.length, true)] fun v =>
        (v.writeAt y (descRes y.desc) (y.outcomes.map (BitVec.ofNat 8))).finish y.id (updateResult y) :=
  hy ▸ (if_neg hlen).trans (if_neg hres)

/-- The changes give the work its outcomes and its first and last sequence. -/
theorem State.appliedAll_spec (hw : s.work w = some x) : ∃ os first last, (s.applyItems x (s.remaining x)).1 = x.reached os first last ∧
    (s.appliedAll x).work w = some (x.reached os first last) ∧ Only (.works :: changeParts) s (s.appliedAll x) := by
  obtain ⟨new, first, last, hy, htakes⟩ := s.applyItems_takes x (s.remaining x)
  have hid : x.id = w := State.work_id s hw
  refine ⟨_, first, last, hy, ?_, (htakes.only.mono rfl).trans ((State.setWork_only _ _).mono rfl)⟩
  unfold State.appliedAll
  rw [hy]
  exact State.work_setWork_same ((State.work_congr (htakes.only .works (by decide)) w).trans hw) hid

/-- With no result address the update ends when every item has its outcome. -/
theorem Does.applies (hw : s.work w = some x) (he : exec c s = .next (s.applyUpdate x)) (hres : descRes x.desc = 0)
    (hlen : x.items.length ≤ (s.applyItems x (s.remaining x)).1.outcomes.length) :
    Does c s [.freeCount, .works, .waits, .memory, .poison, .fill, .firstTouch, .burrows, .vcache] (fun t =>
      t.work w = some { (s.applyItems x (s.remaining x)).1 with result := some (updateResult (s.applyItems x (s.remaining x)).1) }) := by
  obtain ⟨os, first, last, hy, hwork, honly⟩ := State.appliedAll_spec hw
  have hid : x.id = w := State.work_id s hw
  have e := s.applyUpdate_finishes (x := x) (by rw [hy] at hlen ⊢; exact Nat.not_lt.mpr hlen) (by rw [hy]; exact hres)
  rw [hy] at e ⊢
  refine Does.of_eq he e ((honly.mono rfl).trans ((State.finish_only _ _ _).mono rfl)) ?_
  rw [State.work_finish, hwork, Option.map_some]
  exact congrArg some (if_pos (beq_self_eq_true (x.reached os first last).id))

/-- With a result address in host memory the outcome bytes leave first. -/
theorem Does.applies_writes (hw : s.work w = some x) (hst : x.stalled = false) (he : exec c s = .next (s.applyUpdate x))
    (hne : x.items ≠ []) (hlen : (s.applyItems x (s.remaining x)).1.outcomes.length = x.items.length) (hres : descRes x.desc ≠ 0)
    (hhost : addrClass (descRes x.desc) = 0) (hpages : ∀ p ∈ pagesOf (descRes x.desc) x.items.length, s.pageGranted x p true = true)
    (hs : sends s x.port) :
    Does c s (plus [.freeCount, .burrows, .vcache] (storeParts x s)) (fun t =>
      (clear x s → t.out = s.out ++ [Output.dma x.port x.pasid (descRes x.desc)
        ((s.applyItems x (s.remaining x)).1.outcomes.map (BitVec.ofNat 8))]) ∧
      hasResult t w (updateResult (s.applyItems x (s.remaining x)).1)) := by
  obtain ⟨os, first, last, hy, hwork, honly⟩ := State.appliedAll_spec hw
  have hid : x.id = w := State.work_id s hw
  have e := State.applyUpdate_writes (by rw [hy] at hlen ⊢; exact hlen.not_lt) (by rw [hy]; exact hres) hy
  rw [hy] at hlen ⊢
  generalize hu : s.appliedAll x = u at hwork honly e
  generalize hr : updateResult (x.reached os first last) = r at e ⊢
  generalize hbytes : (x.reached os first last).outcomes.map (BitVec.ofNat 8) = bytes at e ⊢
  have hsome : bytes ≠ [] := by
    rw [← hbytes]
    refine fun hnil => hne (List.eq_nil_of_length_eq_zero ?_)
    rw [← hlen, List.map_eq_nil_iff.mp hnil]
    rfl
  have hgate : u.gate (x.reached os first last)
      [(descRes (x.reached os first last).desc, (x.reached os first last).items.length, true)] = .go u := by
    refine State.gate_host hst hhost fun p hp => ?_
    have hsame : u.pageGranted (x.reached os first last) p true = s.pageGranted x p true := by
      unfold State.pageGranted
      rw [← honly .atc (by decide), ← honly .xltWaits (by decide)]
      rfl
    exact hsame.trans (hpages p hp)
  have hwrite : u.writeAt (x.reached os first last) (descRes x.desc) bytes = u.sending [.dma x.port x.pasid (descRes x.desc) bytes] :=
    (State.writeAt_sent (x := x.reached os first last) (honly.sends rfl hs) hhost bytes).trans (by rw [hostBlock_ne_nil hsome]; rfl)
  have e' : s.applyUpdate x = ((u.sending [.dma x.port x.pasid (descRes x.desc) bytes]).finish w r).used x.id := by
    refine e.trans ?_
    unfold State.withAccess
    rw [hgate, ← hwrite, ← hid]
    rfl
  have hact : Only (.out :: .waits :: .works :: changeParts) s ((u.sending [.dma x.port x.pasid (descRes x.desc) bytes]).finish w r) :=
    ((honly.mono rfl).trans ((u.sending_only _).mono rfl)).trans ((State.finish_only _ _ _).mono rfl)
  have hused := State.used_after (qs := [.freeCount, .burrows, .vcache, .out, .works, .memory, .poison, .fill, .firstTouch, .runs])
    (Only.refl (accessParts x s) s) hact (by decide) rfl
  refine Does.of_eq he e' hused ⟨fun hc => ?_, hasResult_used (u := u.sending _) hwork rfl _⟩
  have hclear : clear x ((u.sending [.dma x.port x.pasid (descRes x.desc) bytes]).finish w r) := by
    unfold clear
    rw [← hact .recalled (by decide)]
    exact hc
  rw [State.used_out _ hclear, honly .out (by decide)]
  rfl

/-- With room for all their entries the items left get the outcomes planned for them, one each. -/
theorem State.applyItems_remaining (hroom : (s.burrow x.burrow).roomFor x.items (x.items.map UpdItem.cost).sum) :
    (s.applyItems x (s.remaining x)).1.outcomes = x.outcomes ++ (s.remaining x).map (·.2) ∧
      x.items.length ≤ (s.applyItems x (s.remaining x)).1.outcomes.length := by
  have hleft : (s.burrow x.burrow).roomFor (x.items.drop x.outcomes.length) (x.items.map UpdItem.cost).sum :=
    ⟨fun i hi => hroom.targets i (List.mem_of_mem_drop hi), hroom.listed⟩
  have hsum : ((x.items.drop x.outcomes.length).map UpdItem.cost).sum ≤ (x.items.map UpdItem.cost).sum :=
    ((List.drop_sublist _ _).map _).sum_le_sum (fun _ _ => Nat.zero_le _)
  have hout : (s.applyItems x (s.remaining x)).1.outcomes = x.outcomes ++ (s.burrow x.burrow).plan (x.items.drop x.outcomes.length) :=
    State.applyItems_room (seen := []) hleft hsum (fun _ => rfl)
  have hlen : ((s.burrow x.burrow).plan (x.items.drop x.outcomes.length)).length = (x.items.drop x.outcomes.length).length :=
    planItems_length _ _ _
  have hplan : (s.remaining x).map (·.2) = (s.burrow x.burrow).plan (x.items.drop x.outcomes.length) :=
    List.map_snd_zip hlen.le
  refine ⟨by rw [hplan, hout], ?_⟩
  rw [hout, List.length_append, hlen, List.length_drop]
  omega

end

/-! ### The statement -/

section
variable {s s' : State} {w op : Nat} {c : Instr} {x : Work} {recs vecs : Bytes}

/-- The step of an update without items is to read its records. -/
theorem update_exec_reads (hx : startable s w x op) (hitems : x.items = [])
    (hc : (op = 0x12 ∧ c = .insert w recs vecs) ∨ (op = 0x13 ∧ c = .delete w recs) ∨ (op = 0x14 ∧ c = .upsert w recs vecs)) :
    exec c s = .next (s.readUpdate x recs (if op = 0x13 then [] else vecs)) :=
  (update_exec hx hc).trans (congrArg _ (if_pos hitems))

/-- The step of an update with items that is routed, in its turn and with its vectors acknowledged is to make its changes. -/
theorem update_exec_changes (hx : startable s w x op) (hitems : x.items ≠ []) (hr : x.routed = true) (ht : s.turn x = true)
    (hf : s.flashBusy (vectorReq x.id) = false)
    (hc : (op = 0x12 ∧ c = .insert w recs vecs) ∨ (op = 0x13 ∧ c = .delete w recs) ∨ (op = 0x14 ∧ c = .upsert w recs vecs)) :
    exec c s = .next (s.applyUpdate x) :=
  (update_exec hx hc).trans (congrArg _ ((if_neg hitems).trans (State.advanceUpdate_changes hr ht hf)))

/-- So it is for APPEND_RESUME. -/
theorem appendResume_exec_changes (hx : running s w x) (hop : isUpdate x.opcode = true) (hr : x.routed = true) (ht : s.turn x = true)
    (hf : s.flashBusy (vectorReq x.id) = false) : exec (.appendResume w) s = .next (s.applyUpdate x) :=
  (appendResume_exec hx hop).trans (congrArg _ ((if_pos hr).trans (State.advanceUpdate_changes hr ht hf)))

end

/-- Settles O27: the records read are checked in order and the codes asked for; the codes arrive; the changes are made and the work ends. -/
theorem updatesCheckEncodeAndComplete : Obligations.UpdatesCheckEncodeAndComplete := by
  unfold Obligations.UpdatesCheckEncodeAndComplete
  intro w op c x recs vecs s s' hc b items bad8 bad16 late entries roomy done
  have hdone (c : Instr) (hw : s.work w = some x) (hst : x.stalled = false)
      (he : x.items ≠ [] → x.routed = true → s.turn x = true → s.flashBusy (vectorReq x.id) = false → exec c s = .next (s.applyUpdate x)) :
      done c := by
    intro hitems hr ht hf
    have he := he hitems hr ht (State.work_id s hw ▸ hf)
    refine ⟨fun hlen => ⟨fun hres => ?_, fun hres hhost hpages hs => ?_⟩, fun hres htargets hlisted => ?_⟩
    · obtain ⟨t, ht, honly, hwork⟩ := Does.applies hw he hres hlen.ge
      exact ⟨t, ht, honly, _, hwork, rfl⟩
    · exact Does.applies_writes hw hst he hitems hlen hres hhost hpages hs
    · obtain ⟨hout, hall⟩ := State.applyItems_remaining (s := s) (x := x) ⟨fun i hi => (htargets i hi).2, hlisted⟩
      obtain ⟨t, ht, honly, hwork⟩ := Does.applies hw he hres hall
      exact ⟨t, ht, honly, _, hwork, hout, rfl⟩
  refine ⟨fun hx hitems => ?reads, fun hx => ?starts, fun hx hop => ?resumes, fun r hx hop hr hs => ?encodes⟩
  case reads =>
    have hid : x.id = w := State.work_id s hx.1
    have he := update_exec_reads hx hitems hc
    refine ⟨fun r hlate => Does.finishes hx he (hid ▸ State.readUpdate_late hlate), fun hlate hread => ?_⟩
    have hgate : Only (accessParts x s') s s' := State.gate_go hx.unstalled hread.1
    have e : s.readUpdate x recs (if op = 0x13 then [] else vecs) = (s'.takeRecords b x items).used x.id :=
      State.readUpdate_reads hlate hread
    have ends {r : Result} (h : s'.takeRecords b x items = s'.finish x.id r) :
        Does c s (.works :: accessParts x s') (fun t => hasResult t w r) :=
      Does.reads_ends hx hgate he (by rw [e, h, hid])
    refine ⟨fun h8 => ends (State.takeRecords_bad h8), fun h8 h16 => ends (State.takeRecords_refused h8 h16),
      fun h8 h16 hb => ends (State.takeRecords_inactive h8 h16 hb), fun h8 h16 hb hcodes hdel hmetric => ?_⟩
    have hknown : x.codesKnown b = false := by simp [Work.codesKnown, hcodes, hdel, hmetric]
    exact Does.reads_encodes hx hgate he hknown (by rw [e, State.takeRecords_encodes h8 h16 hb hknown])
  case starts => exact hdone c hx.1 hx.2.2.2.2.2 fun hitems hr ht hf => update_exec_changes hx hitems hr ht hf hc
  case resumes => exact hdone _ hx.1 hx.2.2.2.2 fun _ hr ht hf => appendResume_exec_changes hx hop hr ht hf
  case encodes =>
    obtain ⟨t, ht, honly, hnone, hothers, hwork⟩ := pqEncodeRun_does hx hop hr hs
    exact ⟨t, ht, honly, hnone, hothers, _, hwork, rfl, rfl⟩

end Sys2Proof.Machine
end

section
/-!
SUPPORT. O29: the fold of a leaf holds, in order, what a query sees of it. Where the sequences of a side list ascend, the entries a query
reads are those at or below its snapshot (R245), which are the entries a fold consumes (R260).
-/

namespace Sys2Proof.Machine

/-! ### What tombstones hide, what inserts bring -/

/-- The prefix of an ascending list up to a bound holds every element up to it. -/
theorem takeWhile_eq_filter_of_ascending {α : Type} {key : α → Nat} {l : List α} (h : l.Pairwise (fun a b => key a < key b)) (M : Nat) :
    l.takeWhile (fun a => decide (key a ≤ M)) = l.filter (fun a => decide (key a ≤ M)) := by
  induction l with
  | nil => rfl
  | cons a t ih =>
    obtain ⟨ha, ht⟩ := List.pairwise_cons.mp h
    by_cases hle : key a ≤ M
    · simp [hle, ih ht]
    · have hnone : t.filter (fun b => decide (key b ≤ M)) = [] := by
        refine List.filter_eq_nil_iff.mpr fun b hb => ?_
        have hlt := ha b hb
        simpa using by omega
      simp [hle, hnone]

/-- The places of a target that the tombstones among side-list entries name. -/
def hiddenPlaces (side : List (Nat × SideEntry)) (target : Nat) : List Nat :=
  side.filterMap (fun e => match e.2 with | .tomb t p _ _ => if t = target then some p else none | _ => none)

theorem mem_hiddenPlaces {side : List (Nat × SideEntry)} {target p : Nat} :
    p ∈ hiddenPlaces side target ↔ ∃ e ∈ side, ∃ q k, e.2 = .tomb target p q k := by
  unfold hiddenPlaces
  rw [List.mem_filterMap]
  refine exists_congr fun e => and_congr_right fun _ => ?_
  cases he : e.2 with
  | insert slot q key attr code => simp
  | tomb t r q k => simp [and_comm]

/-- A fold at M drops what the tombstones at or below M name. -/
theorem Leaf.mem_hidden {l : Leaf} {M target p : Nat} :
    (target, p) ∈ l.hidden M ↔ p ∈ hiddenPlaces (l.flat.filter (fun e => decide (e.2.seq ≤ M))) target := by
  unfold Leaf.hidden
  rw [List.mem_filterMap, mem_hiddenPlaces]
  refine exists_congr fun e => ?_
  cases he : e.2 with
  | insert slot q key attr code => simp
  | tomb t r q k => simp [he, SideEntry.seq, and_assoc, and_comm]

/-- The body item that an insert at a place becomes. -/
def foldedInsert : Nat × SideEntry → Option (Spot × BodyItem)
  | (p, .insert slot _ key attr code) => some ((1, p), { key, attr, code, slot, tomb := false })
  | (_, .tomb _ _ _ _) => none

/-- The items of a body with their places. -/
def Leaf.placed (l : Leaf) : List (Nat × BodyItem) := (List.range l.items.length).zip l.items

theorem Leaf.upTo_eq (l : Leaf) (M : Nat) :
    l.upTo M = l.placed.map (fun p => ((0, p.1), p.2)) ++ (l.flat.filter (fun e => decide (e.2.seq ≤ M))).filterMap foldedInsert := by
  unfold Leaf.upTo Leaf.placed
  rw [List.filterMap_filter]
  refine congrArg (_ ++ ·) (List.filterMap_congr fun e _ => ?_)
  obtain ⟨p, e⟩ := e
  cases e with
  | insert slot q key attr code => by_cases h : q ≤ M <;> simp [SideEntry.seq, h, foldedInsert]
  | tomb t r q k => simp [foldedInsert]

/-! ### What a query sees (R245) -/

/-- What a query gets of an item that it sees, and what a body holds of one: id, attributes, code and slot. -/
def Item.seen (i : Item) : Nat × Nat × Bytes × Nat := (i.key, i.attr, i.code, i.slot)
def BodyItem.seen (i : BodyItem) : Nat × Nat × Bytes × Nat := (i.key, i.attr, i.code, i.slot)

/-- A query sees the body items and inserts that no tombstone it reads names. -/
theorem Leaf.visible_eq (l : Leaf) (S : Nat) : l.visible false S =
    (l.placed.filter (fun p => !p.2.tomb && !(hiddenPlaces (l.flat.takeWhile (fun e => decide (e.2.seq ≤ S))) 0).contains p.1)).map
      (fun p => { j := p.1, key := p.2.key, attr := p.2.attr, code := p.2.code, slot := p.2.slot }) ++
    ((numberInserts 0 (l.flat.takeWhile (fun e => decide (e.2.seq ≤ S)))).filter
      (fun p => !(hiddenPlaces (l.flat.takeWhile (fun e => decide (e.2.seq ≤ S))) 1).contains p.1)).map (·.2) := rfl

/-- Inserts as a scan numbers them are those a fold takes up, in their order. -/
theorem numberInserts_seen (keep : Nat → Bool) (n : Nat) (side : List (Nat × SideEntry)) :
    ((numberInserts n side).filter (fun p => keep p.1)).map (fun p => p.2.seen) =
      ((side.filterMap foldedInsert).filter (fun p => keep p.1.2)).map (fun p => p.2.seen) := by
  induction side generalizing n with
  | nil => rfl
  | cons e t ih =>
    obtain ⟨p, e⟩ := e
    cases e with
    | insert slot q key attr code =>
      simp only [numberInserts, List.filterMap_cons, foldedInsert, List.filter_cons]
      split
      · exact congrArg (_ :: ·) (ih (n + 1))
      · exact ih (n + 1)
    | tomb t r q k => exact ih n

/-- The place of an insert taken up is one in the side list, and no tombstone stands in it. -/
theorem foldedInsert_spot {e : Nat × SideEntry} {p : Spot × BodyItem} (h : foldedInsert e = some p) : p.1.1 = 1 ∧ p.2.tomb = false := by
  obtain ⟨_, e⟩ := e
  cases e with
  | insert slot q key attr code => cases h; exact ⟨rfl, rfl⟩
  | tomb t r q k => cases h

/-- Settles O29: the fold at M hides what a query with snapshot M does not see, and takes up the inserts that it reads. -/
theorem foldHoldsTheVisibleItems : Obligations.FoldHoldsTheVisibleItems := by
  unfold Obligations.FoldHoldsTheVisibleItems
  intro l M hasc
  change (l.fold M).body.map (fun p => p.2.seen) = (l.visible false M).map Item.seen
  have hhid (t p : Nat) : (l.hidden M).contains (t, p) =
      (hiddenPlaces (l.flat.filter (fun e => decide (e.2.seq ≤ M))) t).contains p := by
    rw [Bool.eq_iff_iff, List.contains_iff_mem, List.contains_iff_mem, Leaf.mem_hidden]
  rw [Leaf.visible_eq, takeWhile_eq_filter_of_ascending hasc M]
  generalize hside : l.flat.filter (fun e => decide (e.2.seq ≤ M)) = side at hhid
  have hfold : (l.fold M).body = (l.placed.map (fun p => (((0, p.1) : Spot), p.2)) ++ side.filterMap foldedInsert).filter
      (fun p => !(p.2.tomb || (l.hidden M).contains p.1)) := by
    rw [← hside, ← Leaf.upTo_eq]
    rfl
  rw [hfold, List.filter_append, List.map_append, List.map_append]
  refine congrArg₂ (· ++ ·) ?body ?inserts
  case body =>
    rw [List.filter_map, List.map_map, List.map_map]
    refine congrArg (List.map _) (List.filter_congr fun p _ => ?_)
    simp only [Function.comp_apply, hhid, Bool.not_or]
  case inserts =>
    rw [List.map_map]
    refine Eq.trans (congrArg (List.map _) (List.filter_congr fun p hp => ?_))
      (numberInserts_seen (fun p => !(hiddenPlaces side 1).contains p) 0 side).symm
    obtain ⟨e, -, he⟩ := List.mem_filterMap.mp hp
    obtain ⟨htarget, htomb⟩ := foldedInsert_spot he
    have hspot : p.1 = (1, p.1.2) := Prod.ext htarget rfl
    rw [htomb, hspot, hhid, Bool.false_or]

end Sys2Proof.Machine
end

section
/-!
SUPPORT. The refutation of O28. The statement speaks of every state, also of one whose table of rings lists a ring twice: the second entry then
waits for UPDATE credits, while the descriptor admitted is that of the first, and LEAF_SWAP, which hands credits out (R269), thaws another burrow.
-/

namespace Sys2Proof.Machine

/-- BURROW_THAW of burrow 1, by context 0. -/
def thawDesc : Bytes := toLe 1 0x17 ++ toLe 31 0 ++ toLe 2 1

/-- DELETE of one item of the context's default burrow, with its ids at a host address. -/
def deleteDesc : Bytes := toLe 1 0x13 ++ toLe 7 0 ++ toLe 8 8 ++ toLe 16 0 ++ toLe 2 0x8000 ++ toLe 2 1

/-- An ENABLED ring with a descriptor at its head and one completion entry. -/
def headed (d : Bytes) : Ring := { Ring.fresh with state := .enabled, configured := true, cqLog2 := 1, fetched := [d] }

/-- The merge of leaf 0 of burrow 0, begun in the present frame. -/
def freshMerge : Merge := { leaf := 0, point := 0, frame := 0 }

/-- A device in service with a credit of the classes UPDATE and CONTROL, that merge, a FROZEN burrow 1, and ring 0 listed twice. -/
def twiceListed : State :=
  { State.reset with
    power := { Power.reset with devReady := true }
    time := { Time.reset with valid := true }
    live := [(0x0040108, BitVec.ofNat 64 (2 ^ 12 + 2 ^ 48))]
    ctxs := [(0, { Ctx.free with state := 1, keySet := [0x10000000] })]
    burrows := [(0, { Burrow.free with merges := [freshMerge] }), (1, { Burrow.free with state := 2 })]
    rings := [(0, headed thawDesc), (0, headed deleteDesc)] }

/-- The swap finds its merge in the frame of its start, and burrow 1 becomes ACTIVE. -/
theorem twiceListed_thaws : ((leafSwapSt 0 0 twiceListed).burrow 1).state = 1 := by decide +kernel

/-- Refutes O28: LEAF_SWAP in the frame of its merge's start is said to change no burrow, but with `twiceListed` it thaws one. -/
theorem not_beaverMergesAndFrees : ¬ Obligations.BeaverMergesAndFrees := by
  unfold Obligations.BeaverMergesAndFrees
  intro h
  obtain ⟨-, hswap, -⟩ := h 0 0 twiceListed
  obtain ⟨t, ht, honly, -⟩ := (hswap freshMerge (by decide +kernel)).1 (by decide +kernel)
  have hsame : t.burrow 1 = twiceListed.burrow 1 := State.burrow_congr (honly .burrows (by decide)) 1
  have ht' : leafSwapSt 0 0 twiceListed = t := Host.Outcome.next.inj ht
  have hthawed := twiceListed_thaws
  rw [ht', hsame] at hthawed
  exact absurd hthawed (by decide +kernel)

end Sys2Proof.Machine
end

section
/-!
SUPPORT. Runs and cells: what is found of a run once it is replaced, and what the word of a cell that issues comes to.
-/

namespace Sys2Proof.Machine

/-! ### Runs replaced -/

section
variable {s t : State} {run : Nat} {r q : Run}

theorem State.run_w (h : s.run run = some r) : r.w = run := by simpa using List.find?_some h

/-- Runs replaced in place by runs of the same work are found under their numbers as before. -/
theorem State.run_map (s : State) {f : Run → Run} (hf : ∀ p, (f p).w = p.w) (v : Nat) :
    ({ s with runs := s.runs.map f } : State).run v = (s.run v).map f := by
  have hw : (fun p : Run => p.w == v) ∘ f = fun p => p.w == v := by
    funext p
    rw [Function.comp_apply, hf]
  exact List.find?_map.trans (by rw [hw]; rfl)

theorem State.run_setRun (s : State) (q : Run) (v : Nat) :
    (s.setRun q).run v = (s.run v).map (fun p => if p.w = q.w then q else p) :=
  s.run_map (fun p => by split <;> simp [*]) v

/-- A run takes the place of the one of its work. -/
theorem State.setRun_becomes (h : s.run run = some r) (hq : q.w = r.w) : runBecomes s (s.setRun q) run q := by
  have hrun := State.run_w h
  refine ⟨?_, fun v hv => ?_⟩
  · rw [State.run_setRun, h, Option.map_some, if_pos hq.symm]
  · rw [State.run_setRun]
    cases hp : s.run v with
    | none => rfl
    | some p => rw [Option.map_some, if_neg (by rw [State.run_w hp, hq, hrun]; exact hv)]

/-- A command that replaces a run. -/
theorem Does.becomes {i : Instr} (h : s.run run = some r) (he : exec i s = .next t) (e : t = s.setRun q)
    (hq : q.w = r.w) :
    Does i s [.runs] (fun t => runBecomes s t run q) :=
  Does.of_eq he e (s.setRun_only q) (State.setRun_becomes h hq)

end

/-! ### Cells replaced -/

section
variable {r : Run} {sett cell : Nat}

/-- A cell replaced by itself. -/
theorem Run.setCell_self (h : 8 * sett + cell < r.cells.length) :
    r.setCell sett cell (r.cell sett cell) = r := by
  simp only [Run.setCell, Run.cell, lset_eq_set, List.getD_eq_getElem _ _ h, List.set_getElem_self]

end

/-! ### A cell's word -/

section
variable {s : State} {run sett cell op : Nat} {x : Work} {r : Run}

theorem issues.run_eq (h : issues s run sett cell op x r) : s.run run = some r := h.1

/-- A cell that issues makes the operation of its word. -/
theorem cellOp_issues (h : issues s run sett cell op x r) (f : Work → Run → Cell → Nat → State → State) :
    s.cellOp run sett cell op f = f x r (r.cell sett cell) (r.image.word sett cell (r.cell sett cell).pc) s := by
  obtain ⟨hr, hw, hres, hsetts, hst, hend, hxr, -, hsett, hcell, -, hhalt, hop⟩ := h
  simp [State.cellOp, hr, hw, hres, hsetts, hst, hend, hxr, hsett, hcell, hhalt, hop]

/-- A cell whose operation replaces its run. -/
theorem issues.becomes {i : Instr} {t : State} {q : Run} (h : issues s run sett cell op x r)
    (he : exec i s = .next t)
    (e : t = s.setRun q) (hq : q.w = r.w) : Does i s [.runs] (fun t => runBecomes s t run q) :=
  Does.becomes h.run_eq he e hq

end

end Sys2Proof.Machine
end

section
/-!
SUPPORT. O31: the operations of lanes, the dot array and CVT, one law per operation.
-/

namespace Sys2Proof.Machine

/-! ### Flags of a run (R288, R294, R297) -/

/-- A run with sticky flags set, and nothing else changed. -/
def Run.raised (r q : Run) : Prop :=
  q = { r with ovf := q.ovf, invalid := q.invalid, range := q.range } ∧
    (r.ovf = true → q.ovf = true) ∧ (r.invalid = true → q.invalid = true) ∧ (r.range = true → q.range = true)

section
variable {r q p : Run} {os : List LaneOut}

theorem Run.raised_refl (r : Run) : r.raised r := ⟨rfl, id, id, id⟩

theorem Run.raised.trans (h : r.raised q) (k : q.raised p) : r.raised p := by
  obtain ⟨hq, ho, hi, hr⟩ := h
  obtain ⟨hp, ko, ki, kr⟩ := k
  exact ⟨hp.trans (by rw [hq]), ko ∘ ho, ki ∘ hi, kr ∘ hr⟩

theorem Run.raised_flags (r : Run) (os : List LaneOut) : r.raised (r.flags os) :=
  ⟨rfl, fun h => by simp [Run.flags, h], fun h => by simp [Run.flags, h], id⟩

theorem Run.raised_ranged (r : Run) (a n : Nat) :
    r.raised (r.ranged a n) :=
  ⟨rfl, id, id, fun h => by simp [Run.ranged, h]⟩

theorem Run.raised_foldl {α : Type} {f : Run → α → Run} (h : ∀ (r : Run) (a : α), r.raised (f r a))
    (l : List α) (r : Run) : r.raised (l.foldl f r) := by
  induction l generalizing r with
  | nil => exact r.raised_refl
  | cons a t ih => exact (h r a).trans (ih (f r a))

theorem Run.flags_ovf (h : ∀ o ∈ os, o.ovf = false) : (r.flags os).ovf = r.ovf := by
  have hnone : os.any (·.ovf) = false := List.any_eq_false.mpr fun o ho => by simp [h o ho]
  rw [Run.flags, hnone, Bool.or_false]

theorem Run.flags_invalid (h : ∀ o ∈ os, o.invalid = false) : (r.flags os).invalid = r.invalid := by
  have hnone : os.any (·.invalid) = false := List.any_eq_false.mpr fun o ho => by simp [h o ho]
  rw [Run.flags, hnone, Bool.or_false]

end

/-! ### Operations that retire -/

/-- A command retires the word of a cell of a run: the cell goes on from `c`, flags are only set, and the run meets `f`. -/
def retires (i : Instr) (s : State) (run sett cell : Nat) (r : Run) (c : Cell) (f : Run → Prop) : Prop :=
  Does i s [.runs] (fun t => ∃ q, runBecomes s t run q ∧
    q = { withCell r sett cell c.next with ovf := q.ovf, invalid := q.invalid, range := q.range } ∧
    (r.ovf = true → q.ovf = true) ∧ (r.invalid = true → q.invalid = true) ∧ (r.range = true → q.range = true) ∧ f q)

section
variable {s t : State} {run sett cell op : Nat} {x : Work} {r q : Run} {i : Instr}

/-- A word that retires in a run with flags set. -/
theorem issues.retires {g : Work → Run → Cell → Nat → State → State} {c : Cell} {f : Run → Prop}
    (h : issues s run sett cell op x r)
    (he : exec i s = .next (s.cellOp run sett cell op g))
    (e : g x r (r.cell sett cell) (r.image.word sett cell (r.cell sett cell).pc) s = s.retire q sett cell c)
    (hq : r.raised q) (hf : f (q.setCell sett cell c.next)) : retires i s run sett cell r c f := by
  obtain ⟨hflags, ho, hi, hr⟩ := hq
  have hw : q.w = r.w := by rw [hflags]
  obtain ⟨t, ht, honly, hbecomes⟩ := h.becomes (q := q.setCell sett cell c.next) he ((cellOp_issues h g).trans e) hw
  exact ⟨t, ht, honly, _, hbecomes, by rw [hflags]; rfl, ho, hi, hr, hf⟩

/-- Lanes given by an operation with their flags. -/
theorem issues.lanesSet {α : Type} {l : List α} {o : α → LaneOut} {set : List Nat → Cell}
    {g : Work → Run → Cell → Nat → State → State}
    {f : Run → Prop} (h : issues s run sett cell op x r) (he : exec i s = .next (s.cellOp run sett cell op g))
    (e : g x r (r.cell sett cell) (r.image.word sett cell (r.cell sett cell).pc) s =
      s.retire (q.flags (l.map o)) sett cell (set ((l.map o).map (·.val))))
    (hq : r.raised q) (hf : f ((q.flags (l.map o)).setCell sett cell (set ((l.map o).map (·.val))).next)) :
    Machine.retires i s run sett cell r (set (l.map (fun a => (o a).val))) f := by
  have hvals : (l.map o).map (·.val) = l.map (fun a => (o a).val) := List.map_map
  rw [← hvals]
  exact h.retires he e (hq.trans (q.raised_flags _)) hf

/-- An operation on a cell alone. -/
theorem issues.cellOnly {k : Nat → Cell → Cell} {f : Run → Prop} (h : issues s run sett cell op x r)
    (he : exec i s = .next (s.cellOnly run sett cell op k))
    (hf : f (r.setCell sett cell (k (r.image.word sett cell (r.cell sett cell).pc) (r.cell sett cell)).next)) :
    Machine.retires i s run sett cell r (k (r.image.word sett cell (r.cell sett cell).pc) (r.cell sett cell)) f :=
  h.retires he rfl r.raised_refl hf

end

/-! ### Lanes (R293–R297, R303) -/

theorem intLane_val (v : Int) : (intLane false v).val = wrap 32 v := by
  simp only [intLane, Bool.false_eq_true, if_false, apply_ite LaneOut.val, ite_self]

theorem intLane_invalid (sat : Bool) (v : Int) : (intLane sat v).invalid = false := by
  unfold intLane
  dsimp only
  split_ifs <;> rfl

/-- A lane result that raises no flag. -/
def quiet (v : Nat) : LaneOut := { val := v, ovf := false, invalid := false }

theorem quiet_vals (vs : List Nat) : (vs.map quiet).map (·.val) = vs := by simp [quiet, Function.comp_def]

theorem Run.flags_quiet (r : Run) (vs : List Nat) : r.flags (vs.map quiet) = r := by
  have hnone {g : LaneOut → Bool} (hg : ∀ v, g (quiet v) = false) : (vs.map quiet).any g = false := by simp [hg]
  rw [Run.flags, hnone (fun _ => rfl), hnone (fun _ => rfl), Bool.or_false, Bool.or_false]

/-- INT32 ADD without SAT is addition modulo 2^32. -/
theorem arith_add_val (a b : Nat) : (arith 0 false (· + ·) add32 a b).val = (a + b) % 2 ^ 32 := by
  have hsum : (arith 0 false (· + ·) add32 a b).val = wrap 32 (signed 32 a + signed 32 b) := intLane_val _
  rw [hsum]
  unfold wrap signed
  dsimp only
  split_ifs <;> omega

/-- A level of the tree halves the lanes and keeps their sum modulo 2^32. -/
theorem treeLevel_sum {n : Nat} {l : List Nat} (h : l.length = 2 * n) :
    ((treeLevel (arith 0 false (· + ·) add32) l).map (·.val)).length = n ∧
      ((treeLevel (arith 0 false (· + ·) add32) l).map (·.val)).sum % 2 ^ 32 = l.sum % 2 ^ 32 := by
  induction n generalizing l with
  | zero =>
    obtain rfl := List.eq_nil_of_length_eq_zero h
    exact ⟨rfl, rfl⟩
  | succ n ih =>
    match l, h with
    | a :: b :: t, h =>
      obtain ⟨hlen, hsum⟩ := ih (l := t) (by simp only [List.length_cons] at h; omega)
      refine ⟨by simpa [treeLevel] using hlen, ?_⟩
      simp only [treeLevel, List.map_cons, List.sum_cons, arith_add_val]
      omega

/-- The tree of R303 over INT32 lanes without SAT: their sum modulo 2^32. -/
theorem tree_sum {n : Nat} {l : List Nat} (h : l.length = 2 ^ (n + 1)) :
    (tree (arith 0 false (· + ·) add32) (n + 1) l).1 = l.sum % 2 ^ 32 := by
  induction n generalizing l with
  | zero =>
    obtain ⟨a, b, rfl⟩ := List.length_eq_two.mp h
    simp [tree, treeLevel, arith_add_val]
  | succ n ih =>
    obtain ⟨hlen, hsum⟩ := treeLevel_sum (n := 2 ^ (n + 1)) (l := l) (by rw [h, pow_succ' 2 (n + 1)])
    exact (ih hlen).trans hsum

/-- A lane of FMA. -/
def fmaLane (c : Cell) (w i : Nat) : LaneOut :=
  fpLane [f32 (c.lane (wA w) i), f32 (c.lane (wB w) i), f32 (c.lane (wC w) i)]
    (r32 (((f32 (c.lane (wA w) i)).mul (f32 (c.lane (wB w) i))).add (f32 (c.lane (wC w) i))))

section
variable {s t : State} {run sett cell op : Nat} {x : Work} {r : Run} {i : Instr} {c : Cell} {w : Nat} (hc : r.cell sett cell = c)
  (hw : r.image.word sett cell c.pc = w)
include hc hw

/-- A lane-by-lane operation of two registers. -/
theorem issues.lanes {o : Nat → Nat → Nat → LaneOut} (h : issues s run sett cell op x r)
    (he : exec i s = .next (s.laneOp run sett cell op o)) :
    Machine.retires i s run sett cell r
      (c.setReg (wDst w) (List.zipWith (fun a b => (o w a b).val) (c.reg (wA w)) (c.reg (wB w)))) (fun _ => True) := by
  subst hc hw
  rw [← List.map_zipWith]
  exact h.retires he rfl (r.raised_flags _) trivial

/-- A lane-by-lane operation that raises no flag. -/
theorem issues.quietLanes {o : Nat → Nat → Nat → Nat} (h : issues s run sett cell op x r)
    (he : exec i s = .next (s.laneOp run sett cell op (fun w a b => quiet (o w a b)))) :
    Machine.retires i s run sett cell r (c.setReg (wDst w) (List.zipWith (o w) (c.reg (wA w)) (c.reg (wB w))))
      (fun q => q.ovf = r.ovf ∧ q.invalid = r.invalid) := by
  have hos : List.zipWith (fun a b => quiet (o w a b)) (c.reg (wA w)) (c.reg (wB w)) =
      (List.zipWith (o w) (c.reg (wA w)) (c.reg (wB w))).map quiet := List.map_zipWith.symm
  subst hc hw
  refine h.retires he ?_ r.raised_refl ⟨rfl, rfl⟩
  dsimp only
  rw [hos, Run.flags_quiet, quiet_vals]

theorem add_retires (h : issues s run sett cell 0x20 x r) :
    Machine.retires (.add run sett cell) s run sett cell r (c.setReg (wDst w)
      (List.zipWith (fun a b => (arith (wFmt w) (wSat w) (· + ·) add32 a b).val) (c.reg (wA w)) (c.reg (wB w)))) (fun _ => True) :=
  h.lanes (o := fun w => arith (wFmt w) (wSat w) (· + ·) add32) hc hw rfl

theorem sub_retires (h : issues s run sett cell 0x21 x r) :
    Machine.retires (.sub run sett cell) s run sett cell r (c.setReg (wDst w)
      (List.zipWith (fun a b => (arith (wFmt w) (wSat w) (· - ·) sub32 a b).val) (c.reg (wA w)) (c.reg (wB w)))) (fun _ => True) :=
  h.lanes (o := fun w => arith (wFmt w) (wSat w) (· - ·) sub32) hc hw rfl

theorem mul_retires (h : issues s run sett cell 0x22 x r) :
    Machine.retires (.mul run sett cell) s run sett cell r (c.setReg (wDst w)
      (List.zipWith (fun a b => (arith (wFmt w) (wSat w) (· * ·) mul32 a b).val) (c.reg (wA w)) (c.reg (wB w)))) (fun _ => True) :=
  h.lanes (o := fun w => arith (wFmt w) (wSat w) (· * ·) mul32) hc hw rfl

theorem max_retires (h : issues s run sett cell 0x24 x r) :
    Machine.retires (.max run sett cell) s run sett cell r (c.setReg (wDst w) (List.zipWith (extreme (wFmt w) true) (c.reg (wA w)) (c.reg (wB w))))
      (fun q => q.ovf = r.ovf ∧ q.invalid = r.invalid) :=
  h.quietLanes (o := fun w => extreme (wFmt w) true) hc hw rfl

theorem min_retires (h : issues s run sett cell 0x25 x r) :
    Machine.retires (.min run sett cell) s run sett cell r (c.setReg (wDst w) (List.zipWith (extreme (wFmt w) false) (c.reg (wA w)) (c.reg (wB w))))
      (fun q => q.ovf = r.ovf ∧ q.invalid = r.invalid) :=
  h.quietLanes (o := fun w => extreme (wFmt w) false) hc hw rfl

theorem logic_retires (h : issues s run sett cell 0x28 x r) :
    Machine.retires (.logic run sett cell) s run sett cell r (c.setReg (wDst w) (List.zipWith (logicLane (wImm w)) (c.reg (wA w)) (c.reg (wB w))))
      (fun q => q.ovf = r.ovf ∧ q.invalid = r.invalid) :=
  h.quietLanes (o := fun w => logicLane (wImm w)) hc hw rfl

theorem fma_retires (h : issues s run sett cell 0x23 x r) :
    Machine.retires (.fma run sett cell) s run sett cell r (c.setReg (wDst w) ((List.range 16).map (fun i =>
      r32 (((f32 (c.lane (wA w) i)).mul (f32 (c.lane (wB w) i))).add (f32 (c.lane (wC w) i)))))) (fun _ => True) := by
  subst hc hw
  exact h.lanesSet (o := fmaLane _ _) rfl rfl r.raised_refl trivial

theorem addi_retires (h : issues s run sett cell 0x27 x r) :
    Machine.retires (.addi run sett cell) s run sett cell r (c.setReg (wDst w) ((c.reg (wA w)).map (fun a =>
      (intLane (wSat w) (signed 32 a + wImmS w)).val))) (fun q => q.invalid = r.invalid) := by
  subst hc hw
  exact h.lanesSet rfl rfl r.raised_refl (Run.flags_invalid (List.forall_mem_map.mpr fun _ _ => intLane_invalid _ _))

theorem reduce_retires (h : issues s run sett cell 0x29 x r) :
    Machine.retires (.reduce run sett cell) s run sett cell r (c.setReg (wDst w) (lset (c.reg (wDst w)) 0
      (tree (arith (wFmt w) (wSat w) (· + ·) add32) 4 (c.reg (wA w))).1)) (fun _ => True) := by
  subst hc hw
  exact h.retires rfl rfl (r.raised_flags _) trivial

theorem aclr_retires (h : issues s run sett cell 0x12 x r) :
    Machine.retires (.aclr run sett cell) s run sett cell r (c.setAcc (wDst w) zeroLanes) (fun q => q.ovf = r.ovf) := by
  subst hc hw
  exact h.cellOnly (k := fun w c => c.setAcc (wDst w) zeroLanes) rfl rfl

theorem amov_retires (h : issues s run sett cell 0x13 x r) :
    Machine.retires (.amov run sett cell) s run sett cell r (c.setReg (wDst w) (c.accu (wA w))) (fun q => q.ovf = r.ovf) := by
  subst hc hw
  exact h.cellOnly (k := fun w c => c.setReg (wDst w) (c.accu (wA w))) rfl rfl

end

/-! ### DOT and POPC (R298–R300) -/

/-- The scratchpad address of a row of the tile that DOT and POPC read. -/
def rowAt (c : Cell) (w i : Nat) : Nat := (padAddr c w + i * (wC w + 1) * 64) % 2 ^ 32

/-- A lane of DOT. -/
def Run.dotAt (r : Run) (sett : Nat) (c : Cell) (w i : Nat) : LaneOut :=
  dotLane (wFmt w) ((c.accu (wDst w)).getD i 0) (laneBytes (c.reg (wA w))) (r.padRead sett (rowAt c w i) 64)
    (fun k => c.lane 31 0 / 256 ^ k % 256) (fun k => fld (r.padRead sett ((c.lane 31 1 + 4 * i) % 2 ^ 32) 4) k 1)

/-- RANGE after the rows and the scales that DOT reads. -/
def Run.dotRanged (r : Run) (c : Cell) (w : Nat) : Run :=
  (List.range 16).foldl (fun r i =>
    let r := r.ranged (rowAt c w i) 64
    if isMx (wFmt w) then r.ranged ((c.lane 31 1 + 4 * i) % 2 ^ 32) 4 else r) r

/-- A lane of POPC. -/
def Run.popcAt (r : Run) (sett : Nat) (c : Cell) (w i : Nat) : LaneOut :=
  intLane false (signed 32 ((c.accu (wDst w)).getD i 0) + countBits (List.zipWith (fun x y => if wFmt w = 13 then x ^^^ y else x &&& y)
    (laneBytes (c.reg (wA w)) ++ laneBytes (c.reg (wA w + 1))) (r.padRead sett (rowAt c w i) 128)))

/-- RANGE after the rows that POPC reads. -/
def Run.popcRanged (r : Run) (c : Cell) (w : Nat) : Run :=
  (List.range 16).foldl (fun r i => r.ranged (rowAt c w i) 128) r

theorem Run.raised_dotRanged (r : Run) (c : Cell) (w : Nat) : r.raised (r.dotRanged c w) := by
  unfold Run.dotRanged
  refine Run.raised_foldl (fun r i => ?_) _ r
  dsimp only
  split
  · exact (r.raised_ranged _ _).trans (Run.raised_ranged _ _ _)
  · exact r.raised_ranged _ _

theorem Run.raised_popcRanged (r : Run) (c : Cell) (w : Nat) : r.raised (r.popcRanged c w) := by
  unfold Run.popcRanged
  exact Run.raised_foldl (fun r _ => r.raised_ranged _ _) _ r

/-- RANGE alone is set. -/
theorem Run.foldl_invalid {α : Type} {f : Run → α → Run}
    (h : ∀ (r : Run) (a : α), (f r a).invalid = r.invalid) (l : List α) (r : Run) :
    (l.foldl f r).invalid = r.invalid := by
  induction l generalizing r with
  | nil => rfl
  | cons a t ih => exact (ih (f r a)).trans (h r a)

theorem Run.dotRanged_invalid (r : Run) (c : Cell) (w : Nat) : (r.dotRanged c w).invalid = r.invalid := by
  unfold Run.dotRanged
  refine Run.foldl_invalid (fun r i => ?_) _ r
  dsimp only
  split <;> rfl

theorem Run.popcRanged_invalid (r : Run) (c : Cell) (w : Nat) : (r.popcRanged c w).invalid = r.invalid := by
  unfold Run.popcRanged
  exact Run.foldl_invalid (f := fun r i => r.ranged (rowAt c w i) 128) (fun _ _ => rfl) _ r

theorem dotLane_int {fmt : Nat} (hf : isIntFmt fmt = true) (acc : Nat) (a row : Bytes) (sa sb : Nat → Nat) :
    dotLane fmt acc a row sa sb = intLane false (signed 32 acc + ((dotTerms fmt a row).map Fp.toInt).sum) :=
  if_pos hf

section
variable {s t : State} {run sett cell op : Nat} {x : Work} {r : Run} {i : Instr} {c : Cell} {w : Nat} (hc : r.cell sett cell = c)
  (hw : r.image.word sett cell c.pc = w)
include hc hw

theorem dot_retires (h : issues s run sett cell 0x10 x r) :
    Machine.retires (.dot run sett cell) s run sett cell r (c.setAcc (wDst w) ((List.range 16).map (fun i => (r.dotAt sett c w i).val)))
      (fun _ => True) := by
  subst hc hw
  exact h.lanesSet (o := r.dotAt sett _ _) (f := fun _ => True) rfl rfl (r.raised_dotRanged _ _) trivial

/-- DOT of an integer format adds modulo 2^32, and is never INVALID. -/
theorem dot_retires_int (h : issues s run sett cell 0x10 x r) (hf : isIntFmt (wFmt w) = true) :
    Machine.retires (.dot run sett cell) s run sett cell r (c.setAcc (wDst w) ((List.range 16).map (fun i =>
      wrap 32 (signed 32 ((c.accu (wDst w)).getD i 0) +
        ((dotTerms (wFmt w) (laneBytes (c.reg (wA w))) (r.padRead sett (rowAt c w i) 64)).map Fp.toInt).sum)))) (fun q => q.invalid = r.invalid) := by
  have hlane (i : Nat) : r.dotAt sett c w i = intLane false (signed 32 ((c.accu (wDst w)).getD i 0) +
      ((dotTerms (wFmt w) (laneBytes (c.reg (wA w))) (r.padRead sett (rowAt c w i) 64)).map Fp.toInt).sum) := dotLane_int hf _ _ _ _ _
  simp only [← intLane_val, ← hlane]
  have hquiet : ((r.dotRanged c w).flags ((List.range 16).map (r.dotAt sett c w))).invalid = r.invalid :=
    (Run.flags_invalid (List.forall_mem_map.mpr fun i _ => by rw [hlane, intLane_invalid])).trans (r.dotRanged_invalid c w)
  subst hc hw
  exact h.lanesSet (o := r.dotAt sett _ _) rfl rfl (r.raised_dotRanged _ _) hquiet

theorem popc_retires (h : issues s run sett cell 0x11 x r) :
    Machine.retires (.popc run sett cell) s run sett cell r (c.setAcc (wDst w) ((List.range 16).map (fun i =>
      wrap 32 (signed 32 ((c.accu (wDst w)).getD i 0) + countBits (List.zipWith (fun x y => if wFmt w = 13 then x ^^^ y else x &&& y)
        (laneBytes (c.reg (wA w)) ++ laneBytes (c.reg (wA w + 1))) (r.padRead sett (rowAt c w i) 128)))))) (fun q => q.invalid = r.invalid) := by
  have hquiet : ((r.popcRanged c w).flags ((List.range 16).map (r.popcAt sett c w))).invalid = r.invalid :=
    (Run.flags_invalid (List.forall_mem_map.mpr fun _ _ => intLane_invalid _ _)).trans (r.popcRanged_invalid c w)
  simp only [← intLane_val]
  subst hc hw
  exact h.lanesSet (o := r.popcAt sett _ _) rfl rfl (r.raised_popcRanged _ _) hquiet

end

/-! ### CVT (R295, R296) -/

/-- The scale of the elements that CVT unpacks. -/
def cvtScale (w : Nat) (src : List Nat) : Fp :=
  if isMx (wFmt w) then e8m0 (Config.mxScale w src).toNat else unit

/-- The lanes of CVT from packed elements. -/
def unpackLanes (w : Nat) (src : List Nat) : List LaneOut :=
  ((List.range 16).map (fun i => (fmtValue (wFmt w) (elemAt (fmtBits (wFmt w)) (laneBytes src) i)).mul (cvtScale w src))).map (fun v =>
    if bit w 0 then fpLane [v] (fp32.encode (wSat w) v) else { val := wrap 32 (clampInt 0 v), ovf := false, invalid := v.isNan })

theorem unpackLanes_val (w : Nat) (src : List Nat) :
    (unpackLanes w src).map (·.val) = (List.range 16).map (fun i =>
    let v := (fmtValue (wFmt w) (elemAt (fmtBits (wFmt w)) (laneBytes src) i)).mul (cvtScale w src)
    if bit w 0 then fp32.encode (wSat w) v else wrap 32 (clampInt 0 v)) := by
  unfold unpackLanes
  rw [List.map_map, List.map_map]
  refine List.map_congr_left fun i _ => ?_
  dsimp only [Function.comp_apply]
  split <;> rfl

theorem unpackLanes_ovf (w : Nat) (src : List Nat) : ∀ o ∈ unpackLanes w src, o.ovf = false := by
  refine List.forall_mem_map.mpr fun v _ => ?_
  split <;> rfl

/-- The values that CVT packs, and their codes. -/
def packValues (w : Nat) (src : List Nat) :
    List Fp := src.map (fun v => if bit w 0 then f32 v else .ofInt (signed 32 v) 0)

def packCodes (w : Nat) (src : List Nat) : List Nat := (packValues w src).map (fun x =>
  fmtEncode (wFmt w) (wSat w) (if isMx (wFmt w) then unscale (blockScale (wFmt w) (packValues w src)) x else x))

/-- The lanes of CVT to packed elements: as many as sixteen elements fill, and free values above. -/
def packLanes (w : Nat) (src : List Nat) : List Nat :=
  (bytesLanes (packElems (fmtBits (wFmt w)) (packCodes w src))).take (16 * fmtBits (wFmt w) / 32) ++
    (List.range (16 - 16 * fmtBits (wFmt w) / 32)).map (fun i => (Config.cvtLane (16 * fmtBits (wFmt w) / 32 + i) w src).toNat)

theorem bytesLanes_length (b : Bytes) : (bytesLanes b).length = 16 := by simp [bytesLanes]

/-- Sixteen elements fill no more than sixteen lanes. -/
theorem packed_lanes_le (f : Nat) : 16 * fmtBits f / 32 ≤ 16 ∧ 16 * fmtBits f / 32 = fmtBits f / 2 := by
  unfold fmtBits
  split <;> decide

theorem packLanes_length (w : Nat) (src : List Nat) : (packLanes w src).length = 16 := by
  have hle := (packed_lanes_le (wFmt w)).1
  rw [packLanes, List.length_append, List.length_take, bytesLanes_length, List.length_map, List.length_range]
  omega

theorem packLanes_take (w : Nat) (src : List Nat) : (packLanes w src).take (fmtBits (wFmt w) / 2) =
    (bytesLanes (packElems (fmtBits (wFmt w)) (packCodes w src))).take (fmtBits (wFmt w) / 2) := by
  obtain ⟨hle, heq⟩ := packed_lanes_le (wFmt w)
  rw [← heq]
  exact List.take_left' (by rw [List.length_take, bytesLanes_length]; omega)

section
variable {s t : State} {run sett cell op : Nat} {x : Work} {r : Run} {i : Instr} {c : Cell} {w : Nat} (hc : r.cell sett cell = c)
  (hw : r.image.word sett cell c.pc = w)
include hc hw

theorem cvt_unpacks (h : issues s run sett cell 0x26 x r) (hb : bit w 4 = true) :
    Does (.cvt run sett cell) s [.runs] (fun t => ∃ q, runBecomes s t run q ∧
      q = { withCell r sett cell (c.setReg (wDst w) ((unpackLanes w (c.reg (wA w))).map (·.val))).next with ovf := r.ovf, invalid := q.invalid }) := by
  subst hc hw
  have hovf := Run.flags_ovf (r := r) (unpackLanes_ovf (r.image.word sett cell (r.cell sett cell).pc)
    ((r.cell sett cell).reg (wA (r.image.word sett cell (r.cell sett cell).pc))))
  have e : cvtSt run sett cell s = s.retire (r.flags (unpackLanes _ _)) sett cell (Cell.setReg _ _ ((unpackLanes _ _).map (·.val))) :=
    (cellOp_issues h _).trans (if_pos hb)
  obtain ⟨t, ht, honly, hbecomes⟩ := h.becomes (i := .cvt run sett cell) rfl e rfl
  exact ⟨t, ht, honly, _, hbecomes, by rw [← hovf]; rfl⟩

theorem cvt_packs (h : issues s run sett cell 0x26 x r) (hb : bit w 4 = false) :
    Does (.cvt run sett cell) s [.runs] (fun t => ∃ q, runBecomes s t run q ∧
      q = { withCell r sett cell (c.setReg (wDst w) (packLanes w (c.reg (wA w)))).next with ovf := r.ovf, invalid := q.invalid }) := by
  subst hc hw
  have e : cvtSt run sett cell s = s.retire { r with invalid := _ } sett cell (Cell.setReg _ _ (packLanes _ _)) :=
    (cellOp_issues h _).trans (if_neg (Bool.eq_false_iff.mp hb))
  obtain ⟨t, ht, honly, hbecomes⟩ := h.becomes (i := .cvt run sett cell) rfl e rfl
  exact ⟨t, ht, honly, _, hbecomes, rfl⟩

end

/-- Settles O31: each clause is the law of its operation. -/
theorem cellArithmetic : Obligations.CellArithmetic := by
  unfold Obligations.CellArithmetic
  intro run sett cell op x r s h
  refine ⟨?_, ?_, ?_, ?_, ?_, ?_, ?_, ?_, ?_, ?_, ?_, ?_, ?_, ?_, ?_, ?_, fun l hl => tree_sum hl⟩ <;> rintro rfl
  · exact add_retires rfl rfl h
  · exact sub_retires rfl rfl h
  · exact mul_retires rfl rfl h
  · exact fma_retires rfl rfl h
  · exact max_retires rfl rfl h
  · exact min_retires rfl rfl h
  · exact addi_retires rfl rfl h
  · exact logic_retires rfl rfl h
  · exact aclr_retires rfl rfl h
  · exact amov_retires rfl rfl h
  · exact dot_retires_int rfl rfl h
  · exact fun _ => dot_retires rfl rfl h
  · exact popc_retires rfl rfl h
  · intro hb
    obtain ⟨t, ht, honly, q, hbecomes, hq⟩ := cvt_unpacks rfl rfl h hb
    rw [unpackLanes_val] at hq
    exact ⟨t, ht, honly, q, cvtScale _ _, hbecomes, fun hmx => if_neg (by simp [hmx]), hq⟩
  · intro hb _
    obtain ⟨t, ht, honly, q, hbecomes, hq⟩ := cvt_packs rfl rfl h hb
    exact ⟨t, ht, honly, q, _, hbecomes, hq, packLanes_length _ _, packLanes_take _ _⟩
  · exact reduce_retires rfl rfl h

end Sys2Proof.Machine
end

section
/-!
SUPPORT. O32: the control operations, scratchpad and routes, one law per operation.
-/

namespace Sys2Proof.Machine

/-! ### Scratchpad (R325, R326) -/

theorem slice_one {b : Bytes} {k : Nat} (h : k < b.length) : slice b k 1 = [b.getD k 0] := by
  have hone : (b.drop k).take 1 = [b[k]] := by rw [List.drop_eq_getElem_cons h]; rfl
  simp [slice, hone, List.getElem?_eq_getElem h]

theorem laneBytes_length (l : List Nat) : (laneBytes l).length = 4 * l.length := by
  rw [laneBytes, flatten_length_of_forall (k := 4) (List.forall_mem_map.mpr fun _ _ => toLe_length _ _), List.length_map, Nat.mul_comm]

/-- Bytes written one by one into a scratchpad of some size, from an address on. -/
def padPut (size a : Nat) (p : Tab Byte) (b : Bytes) : Tab Byte :=
  ((List.range b.length).zip b).foldl (fun p e => if a + e.1 < size then tset p (a + e.1) e.2 else p) p

theorem padPut_snoc (size a : Nat) (p : Tab Byte) (b : Bytes) (v : Byte) : padPut size a p (b ++ [v]) =
    if a + b.length < size then tset (padPut size a p b) (a + b.length) v else padPut size a p b := by
  have hzip : (List.range (b ++ [v]).length).zip (b ++ [v]) = (List.range b.length).zip b ++ [(b.length, v)] := by
    rw [List.length_append, List.length_singleton, List.range_succ, List.zip_append (by simp)]
    rfl
  rw [padPut, hzip, List.foldl_append]
  rfl

/-- A byte of scratchpad after a write: the byte written there, where the scratchpad reaches. -/
theorem tgetD_padPut (size a : Nat) (p : Tab Byte) (b : Bytes) (k : Nat) : tgetD (padPut size a p b) k 0 =
    if a ≤ k ∧ k < a + b.length ∧ k < size then b.getD (k - a) 0 else tgetD p k 0 := by
  induction b using List.reverseRecOn with
  | nil =>
    rw [if_neg (by rw [List.length_nil]; omega)]
    rfl
  | append_singleton b v ih =>
    rw [padPut_snoc, List.length_append, List.length_singleton]
    by_cases hk : k = a + b.length
    · subst hk
      by_cases hs : a + b.length < size
      · rw [if_pos hs, tgetD_tset_same, if_pos (by omega)]
        simp
      · rw [if_neg hs, ih, if_neg (by omega), if_neg (by omega)]
    · have hkept : tgetD (if a + b.length < size then tset (padPut size a p b) (a + b.length) v else padPut size a p b) k 0 =
          tgetD (padPut size a p b) k 0 := by
        split
        · exact tgetD_tset_ne _ hk _ _
        · rfl
      rw [hkept, ih]
      by_cases hin : a ≤ k ∧ k < a + b.length ∧ k < size
      · rw [if_pos hin, if_pos (by omega), List.getD_append _ _ _ _ (by omega)]
      · rw [if_neg hin, if_neg (by omega)]

section
variable {r : Run} {sett : Nat}

theorem Run.padWrite_pad (b : Bytes) (a : Nat) (h : sett < r.scratch.length) :
    (r.padWrite sett a b).pad sett = padPut r.image.scratch a (r.pad sett) b := by
  show (lset r.scratch sett _).getD sett [] = _
  rw [lset_eq_set, List.getD_eq_getElem _ _ (by simpa using h), List.getElem_set_self]
  rfl

theorem Run.padRead_one (r : Run) (sett k : Nat) :
    r.padRead sett k 1 = [if k < r.image.scratch then tgetD (r.pad sett) k 0 else 0] :=
  rfl

/-- A byte read from a scratchpad after a write to it; bytes at or beyond SCRATCH_BYTES are discarded. -/
theorem Run.padRead_padWrite (b : Bytes) (a k : Nat) (h : sett < r.scratch.length) :
    (r.padWrite sett a b).padRead sett k 1 =
    if a ≤ k ∧ k < a + b.length ∧ k < r.image.scratch then slice b (k - a) 1 else r.padRead sett k 1 := by
  rw [Run.padRead_one, Run.padRead_one, Run.padWrite_pad b a h, tgetD_padPut]
  show [if k < r.image.scratch then _ else _] = _
  by_cases hin : a ≤ k ∧ k < a + b.length ∧ k < r.image.scratch
  · rw [if_pos hin, if_pos hin, if_pos hin.2.2, slice_one (by omega)]
  · rw [if_neg hin, if_neg hin]

/-- The scratchpads of other image setts stay. -/
theorem Run.padRead_padWrite_other (b : Bytes) (a k : Nat) {j : Nat} (h : j ≠ sett) :
    (r.padWrite sett a b).padRead j k 1 = r.padRead j k 1 := by
  have hpad : (r.padWrite sett a b).pad j = r.pad j := by
    show (lset r.scratch sett _).getD j [] = _
    rw [lset_eq_set, List.getD_eq_getElem?_getD, List.getElem?_set_ne h.symm, ← List.getD_eq_getElem?_getD]
    rfl
  rw [Run.padRead_one, Run.padRead_one, hpad]
  rfl

end

/-! ### Control, scratchpad and routes (R289, R311, R323, R326) -/

section
variable {s t : State} {run sett cell op : Nat} {x : Work} {r : Run} {c : Cell} {w : Nat} (hc : r.cell sett cell = c)
  (hw : r.image.word sett cell c.pc = w)
include hc hw

theorem nopOp_becomes (h : issues s run sett cell 0x00 x r) :
    Does (.nopOp run sett cell) s [.runs] (fun t => runBecomes s t run (withCell r sett cell c.next)) := by
  subst hc hw
  exact h.becomes rfl (cellOp_issues h fun _ r c _ s => s.retire r sett cell c) rfl

theorem loop_becomes (h : issues s run sett cell 0x01 x r) :
    Does (.loop run sett cell) s [.runs] (fun t => runBecomes s t run (withCell r sett cell (c.enter w))) := by
  subst hc hw
  exact h.becomes rfl (cellOp_issues h _) rfl

theorem halt_becomes (h : issues s run sett cell 0x03 x r) :
    Does (.halt run sett cell) s [.runs] (fun t => runBecomes s t run
      { withCell r sett cell { c with halted := true } with count := if sett = 0 ∧ cell = 0 then c.lane (wA w) 0 else r.count }) := by
  subst hc hw
  refine h.becomes rfl ((cellOp_issues h _).trans ?_) rfl
  dsimp only
  split <;> rfl

/-- A cell that stands at a SYNC goes on once every cell of the run has reached its count. -/
theorem sync_passes (h : issues s run sett cell 0x02 x r) (hat : c.atSync = true)
    (hall : r.cells.all (fun d => decide (c.syncs ≤ d.syncs)) = true) :
    Does (.sync run sett cell) s [.runs] (fun t => runBecomes s t run (withCell r sett cell { c with atSync := false }.next)) := by
  have hplace : 8 * sett + cell < r.cells.length := by obtain ⟨-, -, -, -, -, -, -, -, -, -, hplace, -⟩ := h; exact hplace
  have hself : r.setCell sett cell c = r := hc ▸ Run.setCell_self hplace
  subst hc hw
  refine h.becomes rfl ((cellOp_issues h _).trans ?_) rfl
  dsimp only
  rw [if_pos hat, hself, if_pos hall]
  rfl

/-- A cell that arrives at a SYNC before another cell of the run waits there. -/
theorem sync_waits (h : issues s run sett cell 0x02 x r) (hat : c.atSync = false)
    (hlate : ∃ j, j ≠ 8 * sett + cell ∧ ∃ d, r.cells[j]? = some d ∧ d.syncs < c.syncs + 1) :
    Does (.sync run sett cell) s [.runs] (fun t => runBecomes s t run (withCell r sett cell { c with syncs := c.syncs + 1, atSync := true })) := by
  obtain ⟨j, hj, d, hd, hlt⟩ := hlate
  have hmem : d ∈ (r.setCell sett cell { c with syncs := c.syncs + 1, atSync := true }).cells := by
    refine List.mem_of_getElem? (i := j) ?_
    show (lset r.cells _ _)[j]? = _
    rw [lset_eq_set, List.getElem?_set_ne hj.symm, hd]
  have hnot : ¬ (r.setCell sett cell { c with syncs := c.syncs + 1, atSync := true }).cells.all (fun d => decide (c.syncs + 1 ≤ d.syncs)) = true := by
    intro hall
    have := of_decide_eq_true (List.all_eq_true.mp hall d hmem)
    omega
  subst hc hw
  refine h.becomes rfl ((cellOp_issues h _).trans ?_) rfl
  dsimp only
  rw [if_neg (Bool.eq_false_iff.mp hat)]
  exact if_neg hnot

theorem lds_becomes (h : issues s run sett cell 0x06 x r) :
    Does (.lds run sett cell) s [.runs] (fun t => runBecomes s t run
      { withCell r sett cell (c.setReg (wDst w) (bytesLanes (r.padRead sett (padAddr c w) 64))).next with
        range := r.range || decide (r.image.scratch < padAddr c w + 64) }) := by
  subst hc hw
  exact h.becomes rfl (cellOp_issues h _) rfl

theorem sts_becomes (h : issues s run sett cell 0x07 x r) :
    Does (.sts run sett cell) s [.runs] (fun t => runBecomes s t run
      (((r.ranged (padAddr c w) 64).padWrite sett (padAddr c w) (laneBytes (c.reg (wA w)))).setCell sett cell c.next)) := by
  subst hc hw
  exact h.becomes rfl (cellOp_issues h _) rfl

theorem send_becomes (h : issues s run sett cell 0x30 x r)
    (hroom : (r.route (bits w 7 0)).length < r.image.depth (bits w 7 0)) :
    Does (.send run sett cell) s [.runs] (fun t => runBecomes s t run
      { withCell r sett cell c.next with routes := lset r.routes (bits w 7 0) (r.route (bits w 7 0) ++ [c.reg (wA w)]) }) := by
  subst hc hw
  exact h.becomes rfl ((cellOp_issues h _).trans (if_pos hroom)) rfl

theorem send_waits (h : issues s run sett cell 0x30 x r)
    (hfull : r.image.depth (bits w 7 0) ≤ (r.route (bits w 7 0)).length) :
    Does (.send run sett cell) s [] (fun _ => True) := by
  subst hc hw
  exact Does.nothing rfl ((cellOp_issues h _).trans (if_neg hfull.not_gt))

theorem recv_becomes (h : issues s run sett cell 0x31 x r) {v : List Nat} {rest : List (List Nat)}
    (hroute : r.route (bits w 7 0) = v :: rest) :
    Does (.recv run sett cell) s [.runs] (fun t => runBecomes s t run
      { withCell r sett cell (c.setReg (wDst w) v).next with routes := lset r.routes (bits w 7 0) rest }) := by
  subst hc hw
  refine h.becomes rfl ((cellOp_issues h _).trans ?_) rfl
  dsimp only
  rw [hroute]
  rfl

theorem recv_waits (h : issues s run sett cell 0x31 x r) (hroute : r.route (bits w 7 0) = []) :
    Does (.recv run sett cell) s [] (fun _ => True) := by
  subst hc hw
  refine Does.nothing rfl ((cellOp_issues h _).trans ?_)
  dsimp only
  rw [hroute]

/-- STS writes the 64 bytes of its register where the scratchpad reaches, and nothing else of any scratchpad. -/
theorem sts_does (h : issues s run sett cell 0x07 x r) (hsett : sett < r.scratch.length)
    (hlen : (c.reg (wA w)).length = 16) :
    Does (.sts run sett cell) s [.runs] (fun t => ∃ q, runBecomes s t run q ∧ q.cells = (withCell r sett cell c.next).cells ∧
      q.range = (r.range || decide (r.image.scratch < padAddr c w + 64)) ∧
      (∀ a, q.padRead sett a 1 = if padAddr c w ≤ a ∧ a < padAddr c w + 64 ∧ a < r.image.scratch
        then slice (laneBytes (c.reg (wA w))) (a - padAddr c w) 1 else r.padRead sett a 1) ∧
      (∀ j a, j ≠ sett → q.padRead j a 1 = r.padRead j a 1)) := by
  obtain ⟨t, ht, honly, hbecomes⟩ := sts_becomes hc hw h
  have hbytes : (laneBytes (c.reg (wA w))).length = 64 := by rw [laneBytes_length, hlen]
  refine ⟨t, ht, honly, _, hbecomes, rfl, rfl, fun a => ?_, fun j a hj => Run.padRead_padWrite_other (r := r.ranged (padAddr c w) 64) _ _ a hj⟩
  rw [← hbytes]
  exact Run.padRead_padWrite (r := r.ranged (padAddr c w) 64) _ _ a hsett

end

/-- Settles O32: each clause is the law of its operation. -/
theorem cellControlAndRoutes : Obligations.CellControlAndRoutes := by
  unfold Obligations.CellControlAndRoutes
  intro run sett cell op x r s h
  refine ⟨?_, ?_, ?_, ?_, ?_, ?_, ?_, ?_, ?_, fun v rest => ?_, ?_⟩ <;> rintro rfl
  · exact nopOp_becomes rfl rfl h
  · exact loop_becomes rfl rfl h
  · exact halt_becomes rfl rfl h
  · exact sync_passes rfl rfl h
  · exact sync_waits rfl rfl h
  · exact lds_becomes rfl rfl h
  · exact sts_does rfl rfl h
  · exact fun hroom _ => send_becomes rfl rfl h hroom
  · exact send_waits rfl rfl h
  · exact recv_becomes rfl rfl h
  · exact recv_waits rfl rfl h

end Sys2Proof.Machine
end

section
/-!
SUPPORT. The refutation of O33. The statement asks that a line of the L1 has its address in HBM or DDR, but not that the line lies there: of a
line that begins less than 64 bytes before extent space, the bytes beyond may belong to a page that is not resident, and a write of them is
discarded (R419).
-/

namespace Sys2Proof.Machine

/-- The first address of extent space (Table 12.2). -/
def extentSpace : Nat := regionBase 2

/-- A line that begins 32 bytes before extent space, its first byte there dirty. -/
def straddlingLine : L1Line :=
  { addr := extentSpace - 32, data := List.replicate 64 1, dirty := List.replicate 32 false ++ true :: List.replicate 31 false }

/-- A work whose run executes. -/
def cellWork : Work := State.reset.newWork 0 Ring.fresh []

/-- A run on one sett, every cell at NOP, with that line in its L1. -/
def straddlingRun : Run := { newRun cellWork residentImage 0 with setts := [0], l1 := [[straddlingLine]] }

/-- A device that executes the run, with extent 0 paged and no page of it resident. -/
def straddled : State :=
  { State.reset with works := [cellWork], runs := [straddlingRun], extents := [(0, { Extent.free with state := 1, tenancy := 1, paged := true })] }

theorem straddled_issues : issues straddled 0 0 0 0 cellWork straddlingRun := by decide +kernel

/-- The write-back leaves the byte in extent space as it was. -/
theorem straddled_writeBack : (l1WriteBackSt 0 0 straddlingLine.addr straddled).byteAt extentSpace = 0 := by decide +kernel

/-- Refutes O33: L1_WRITE_BACK of `straddlingLine` discards its dirty byte 1 in the absent page. -/
theorem not_cellMemoryAccesses : ¬ Obligations.CellMemoryAccesses := by
  unfold Obligations.CellMemoryAccesses
  intro h
  obtain ⟨-, -, hback, -⟩ := h 0 0 0 0 cellWork straddlingRun [] straddled straddled straddled straddled_issues rfl (by decide) (by decide)
  obtain ⟨t, ht, -, -, hbytes⟩ := hback straddlingLine (by decide) (by decide) rfl rfl rfl rfl
  have hwritten : t.byteAt extentSpace = 1 := hbytes extentSpace
  have hnext : l1WriteBackSt 0 0 straddlingLine.addr straddled = t := Host.Outcome.next.inj ht
  have hkept := straddled_writeBack
  rw [hnext, hwritten] at hkept
  exact absurd hkept (by decide)

end Sys2Proof.Machine
end

section
/-!
SUPPORT. O34: images loaded and unloaded, runs that start, iterate and end, and setts that fail, one law per case.
-/

namespace Sys2Proof.Machine

/-! ### Plain updates -/

section
variable (s : State)

theorem State.images_only (m : Tab Image) : Only [.images] s { s with images := m } := by
  intro p hp; cases p
  case images => simp at hp
  all_goals rfl

/-- An image leaves its id, its storage freed; the other ids keep theirs. -/
theorem State.dropImage_only (id : Nat) : Only [.images, .fill] s (s.dropImage id) := by
  unfold State.dropImage
  split
  · exact ((s.images_only _).mono rfl).trans ((State.fill_only _ _).mono rfl)
  · exact Only.refl _ s

theorem State.dropImage_images (id j : Nat) :
    tget (s.dropImage id).images j = if j = id then none else tget s.images j := by
  unfold State.dropImage
  split
  · exact tget_tdel _ _ _
  · next h =>
    split_ifs with hj
    · rw [hj, h]
    · rfl

end

/-! ### KERNEL_LOAD (R313, R315–R317) -/

section
variable {s s' : State} {w n id : Nat} {x : Work} {image b : Bytes} (hn : fld x.desc 36 4 = n)

/-- The state with an image placed at an address, the one of its id dropped. -/
def State.imagePlaced (s : State) (id t : Nat) (b : Bytes) (a : Nat) : State :=
  let u := (s.drawn.dropImage id).put a b
  { u with images := tset u.images id (parseImage b t a) }

theorem State.imagePlaced_images (s : State) (id t : Nat) (b : Bytes) (a : Nat) :
    tget (s.imagePlaced id t b a).images id = some (parseImage b t a) ∧
      ∀ j, j ≠ id → tget (s.imagePlaced id t b a).images j = tget s.images j := by
  have hput : ((s.drawn.dropImage id).put a b).images = (s.drawn.dropImage id).images := (State.put_only _ _ _ .images (by decide)).symm
  refine ⟨tget_tset_same _ _ _, fun j hj => (tget_tset_ne _ hj _).trans ?_⟩
  rw [hput, State.dropImage_images, if_neg hj]
  rfl

theorem State.imagePlaced_only (s : State) (id t : Nat) (b : Bytes) (a : Nat) :
    Only [.freeCount, .images, .memory, .poison, .fill, .firstTouch] s (s.imagePlaced id t b a) :=
  (((s.drawn_only.mono rfl).trans ((State.dropImage_only _ _).mono rfl)).trans ((State.put_only _ _ _).mono rfl)).trans
    ((State.images_only _ _).mono rfl)

/-- The copy of an image changes no byte outside its place. -/
theorem State.imagePlaced_memOnly (s : State) (id t : Nat) (b : Bytes) (a : Nat) :
    memOnly s (s.imagePlaced id t b a) [(a, b.length)] :=
  (((memOnly.of_only s.drawn_only (by decide) (by decide) _).trans (memOnly.of_only (State.dropImage_only _ _) (by decide) (by decide) _)).trans
    (State.put_memOnly _ (List.mem_singleton_self _) le_rfl)).trans (memOnly.of_only (State.images_only _ _) (by decide) (by decide) _)

section
variable (hx : startable s w x 0x40) (hne : descOp0 x.desc ≠ 0 ∨ n ≠ 0) (hr : readable s x [(descOp0 x.desc, max 128 (min n (2 ^ 21)))] s')
  (hb : s'.readAt x (descOp0 x.desc) (max 128 (min n (2 ^ 21))) image = b)
include hn hx hne hr hb

theorem kernelLoad_refused {r : Result} (hf : s'.loadFault b x.tenancy n = some r) :
    Does (.kernelLoad w image) s (plus [.works, .freeCount] (accessParts x s')) (fun t => hasResult t w r) := by
  have e : kernelLoadSt w image s = (s'.drawn.finish w r).used x.id := by
    subst hn
    refine (State.withWork_startable hx _).trans ((if_neg (by tauto)).trans ((State.withReads_readable hr _).trans ?_))
    simp only [hb, hf]
  have hgate := State.gate_go hx.unstalled hr.1
  have hact : Only [.works, .waits, .freeCount] s' (s'.drawn.finish w r) := (s'.drawn_only.mono rfl).trans ((State.finish_only _ w r).mono rfl)
  exact Does.of_eq rfl e (State.used_after hgate hact (by decide) rfl) (hasResult_used hx.1 ((State.access_works hgate).trans (s'.drawn_only .works (by decide))) _)

theorem kernelLoad_loads (hid : fld x.desc 32 2 % 4096 = id) {a : Nat}
    (hf : s'.loadFault b x.tenancy n = none)
    (ha : s'.imagePlace x.tenancy n = some a) :
    Does (.kernelLoad w image) s (plus [.works, .freeCount, .images, .memory, .poison, .fill, .firstTouch] (accessParts x s')) (fun t =>
      tget t.images id = some (parseImage b x.tenancy a) ∧ (∀ j, j ≠ id → tget t.images j = tget s.images j) ∧
      (clear x s' → memOnly s t [(a, b.length)]) ∧ hasResult t w (Result.done n)) := by
  generalize hdone : Result.done n = r
  have e : kernelLoadSt w image s = ((s'.imagePlaced id x.tenancy b a).finish w r).used x.id := by
    subst hn
    refine (State.withWork_startable hx _).trans ((if_neg (by tauto)).trans ((State.withReads_readable hr _).trans ?_))
    simp only [hb, hf, ha, hid, hdone]
    rfl
  have hgate := State.gate_go hx.unstalled hr.1
  have hplace := s'.imagePlaced_only id x.tenancy b a
  obtain ⟨hsame, hother⟩ := s'.imagePlaced_images id x.tenancy b a
  have hmem := s'.imagePlaced_memOnly id x.tenancy b a
  generalize s'.imagePlaced id x.tenancy b a = u at e hplace hsame hother hmem
  have hfin := u.finish_only w r
  have hact : Only [.works, .waits, .freeCount, .images, .memory, .poison, .fill, .firstTouch] s' (u.finish w r) :=
    (hplace.mono rfl).trans (hfin.mono rfl)
  have hused := (u.finish w r).used_only x
  rw [accessParts_congr (hact .recalled (by decide))] at hused
  have himages : ((u.finish w r).used x.id).images = u.images :=
    ((hfin .images (by decide)).trans (State.access_keeps (p := .images) hused (by decide))).symm
  have hbefore : s.images = s'.images := State.access_keeps (p := .images) hgate (by decide)
  refine Does.of_eq rfl e (State.used_after hgate hact (by decide) rfl) ⟨?_, fun j hj => ?_, fun hc => ?_, ?_⟩
  · rw [himages, hsame]
  · rw [himages, hother j hj, hbefore]
  · exact ((State.access_memOnly hc hgate _).trans hmem).trans
      ((memOnly.of_only hfin (by decide) (by decide) _).trans (State.access_memOnly hc hused _))
  · exact hasResult_used hx.1 ((State.access_works hgate).trans (hplace .works (by decide))) _

end

/-! ### Unloading (R317) -/

section
variable (hx : startable s w x 0x40) (h0 : descOp0 x.desc = 0) (hz : fld x.desc 36 4 = 0) (hid : fld x.desc 32 2 % 4096 = id)
include hx h0 hz hid

theorem kernelUnloadSt_unloads : kernelUnloadSt w s =
    if (tget s.images id).isNone then s.finish w (Result.err 0x10 32) else (s.dropImage id).finish w (Result.done 0) := by
  subst hid
  exact (State.withWork_startable hx _).trans (if_neg (by tauto))

theorem kernelUnload_free (hi : tget s.images id = none) :
    Does (.kernelUnload w) s [.works, .waits] (fun t => hasResult t w (Result.err 0x10 32)) :=
  Does.finishes hx rfl ((kernelUnloadSt_unloads hx h0 hz hid).trans (if_pos (by rw [hi]; rfl)))

theorem kernelUnload_unloads {i : Image} (hi : tget s.images id = some i) :
    Does (.kernelUnload w) s [.works, .waits, .images, .fill] (fun t => tget t.images id = none ∧
      (∀ j, j ≠ id → tget t.images j = tget s.images j) ∧ hasResult t w (Result.done 0)) := by
  have e : kernelUnloadSt w s = (s.dropImage id).finish w (Result.done 0) :=
    (kernelUnloadSt_unloads hx h0 hz hid).trans (if_neg (by simp [hi]))
  have hdrop := s.dropImage_only id
  have himages (j : Nat) := s.dropImage_images id j
  refine Does.of_eq rfl e ((hdrop.mono rfl).trans ((State.finish_only _ _ _).mono rfl))
    ⟨(himages _).trans (if_pos rfl), fun j hj => (himages j).trans (if_neg hj), ?_⟩
  exact State.hasResult_finish ((State.work_congr (hdrop .works (by decide)) w).trans hx.1) _

end

/-! ### KERNEL_RUN (R318–R321) -/

section
variable (hx : startable s w x 0x41) (hrun : s.run w = none)
include hx hrun

theorem kernelRun_free (hi : s.runImage x.desc = none) :
    Does (.kernelRun w) s [.works, .waits] (fun t => hasResult t w (Result.err 0x10 32)) := by
  refine Does.finishes hx rfl ((State.withWork_startable hx _).trans ((if_neg (by simp [hrun])).trans ?_))
  simp only [hi]

theorem kernelRun_badIters {i : Image} (hi : s.runImage x.desc = some i)
    (hbad : fld x.desc 36 4 = 0 ∨ i.iterMax < fld x.desc 36 4) :
    Does (.kernelRun w) s [.works, .waits] (fun t => hasResult t w (Result.err 0x12 36)) := by
  refine Does.finishes hx rfl ((State.withWork_startable hx _).trans ((if_neg (by simp [hrun])).trans ?_))
  simp only [hi, if_pos hbad]

/-- A run that waits for setts in its den, every register zero. -/
theorem kernelRun_starts {i : Image} {den : Nat} (hi : s.runImage x.desc = some i)
    (hn : fld x.desc 36 4 ≠ 0) (hmax : fld x.desc 36 4 ≤ i.iterMax)
    (hden : s.runDen x.tenancy x.port (fld x.desc 34 1) i.setts = some den) :
    Does (.kernelRun w) s [.runs] (fun t => t.runs = s.runs ++ [newRun x i den] ∧ (newRun x i den).setts = [] ∧
      (newRun x i den).iterDone = 0 ∧ ∀ c ∈ (newRun x i den).cells, c = Cell.start) := by
  have e : kernelRunSt w s = { s with runs := s.runs ++ [newRun x i den] } := by
    refine (State.withWork_startable hx _).trans ((if_neg (by simp [hrun])).trans ?_)
    simp only [hi, hden, if_neg (not_or.mpr ⟨hn, hmax.not_gt⟩)]
  exact Does.of_eq rfl e (s.runs_only _) ⟨rfl, rfl, rfl, fun c hc => List.eq_of_mem_replicate hc⟩

end

end

/-! ### Iterations and the end of a run (R322–R324, R327) -/

section
variable {s t : State} {w : Nat} {x : Work} {r : Run}

theorem iterationEnd_becomes (hr : s.run w = some r) (hres : r.resident = none) (hend : r.ended = none)
    (hst : r.stalled = false)
    (hsetts : r.setts ≠ []) (hiter : r.iterDone < r.iters) (hhalt : r.cells.all (·.halted) = true) :
    Does (.iterationEnd w) s [.runs] (fun t => runBecomes s t w { r with
      iterDone := r.iterDone + 1, cells := if r.iterDone + 1 < r.iters then r.cells.map Cell.again else r.cells }) := by
  have e : iterationEndSt w s = s.setRun { r with
      iterDone := r.iterDone + 1, cells := if r.iterDone + 1 < r.iters then r.cells.map Cell.again else r.cells } := by
    unfold iterationEndSt
    simp only [hr]
    exact if_pos (by simp [hres, hend, hst, hsetts, hiter, hhalt])
  exact Does.becomes hr rfl e rfl

/-- An image sett without lines in its L1 has nothing to write back. -/
theorem State.flushL1_empty (s : State) (hr : s.run w = some r) {sett : Nat} (hl : r.l1Of sett = [])
    (pick : L1Line → Bool) : s.flushL1 x w sett pick = s := by
  unfold State.flushL1
  simp only [hr, hl]
  rfl

theorem Run.l1Of_clean (hl : r.l1.all (· == []) = true) (sett : Nat) : r.l1Of sett = [] := by
  unfold Run.l1Of
  rw [List.getD_eq_getElem?_getD]
  cases h : r.l1[sett]? with
  | none => rfl
  | some ls => exact beq_iff_eq.mp (List.all_eq_true.mp hl ls (List.mem_of_getElem? h))

theorem State.flushRun_clean (hr : s.run w = some r) (hl : r.l1.all (· == []) = true) : s.flushRun w = s := by
  unfold State.flushRun
  simp only [hr]
  split
  · exact List.foldl_fixed' (fun k => s.flushL1_empty hr (Run.l1Of_clean hl k) _) _
  · rfl

/-- A run without a line in its L1 that ends leaves with its result. -/
theorem State.endRun_clean (hr : s.run w = some r) (hl : r.l1.all (· == []) = true) (res : Result) :
    s.endRun w res =
    ({ s with runs := s.runs.filter (fun q => q.w != w) } : State).finish w (r.result res) := by
  have hnone : r.l1.any (· != []) = false := List.any_eq_false.mpr fun ls hls => by simpa using List.all_eq_true.mp hl ls hls
  unfold State.endRun
  rw [State.flushRun_clean hr hl]
  simp only [hr, hnone, Bool.false_eq_true, if_false]

/-- RUN_COMPLETE of a run whose lines have left the L1. -/
theorem runComplete_ends {d0 d1 : Bytes} {res : Result} (hr : s.run w = some r) (hx : s.work w = some x)
    (hl : r.l1.all (· == []) = true)
    (e : runCompleteSt w d0 d1 s = s.endRun w res) :
    Does (.runComplete w d0 d1) s [.runs, .works, .waits] (fun t => t.run w = none ∧ (∀ v, v ≠ w → t.run v = s.run v) ∧
      hasResult t w (r.result res)) := by
  refine Does.of_eq rfl (e.trans (State.endRun_clean hr hl res)) (((s.runs_only _).mono rfl).trans ((State.finish_only _ _ _).mono rfl))
    ⟨(s.run_removed w w).trans (if_pos rfl), fun v hv => (s.run_removed w v).trans (if_neg hv), ?_⟩
  exact State.hasResult_finish ((State.work_congr rfl w).trans hx) _

section
variable (hr : s.run w = some r) (hx : s.work w = some x) (hxr : x.result = none) (hst : r.stalled = false)
  (hl : r.l1.all (· == []) = true) (d0 d1 : Bytes)
include hr hx hxr hst hl

/-- A run that has made its iterations. -/
theorem runComplete_done (hres : r.resident = none) (hend : r.ended = none) (hiter : r.iters ≤ r.iterDone) :
    Does (.runComplete w d0 d1) s [.runs, .works, .waits] (fun t => t.run w = none ∧ (∀ v, v ≠ w → t.run v = s.run v) ∧
      hasResult t w (r.result (Result.done r.count))) := by
  refine runComplete_ends hr hx hl ?_
  unfold runCompleteSt
  simp only [hr, hx, hxr, hst, hres, hend, if_neg hiter.not_gt]
  rfl

/-- A run that an access has ended. -/
theorem runComplete_failed {st cell : Nat} (hend : r.ended = some (st, cell)) :
    Does (.runComplete w d0 d1) s [.runs, .works, .waits] (fun t => t.run w = none ∧ (∀ v, v ≠ w → t.run v = s.run v) ∧
      hasResult t w (r.result (Result.err st cell))) := by
  refine runComplete_ends hr hx hl ?_
  unfold runCompleteSt
  simp only [hr, hx, hxr, hst, hend]
  rfl

end

end

/-! ### SETT_FAIL (R17, R651) -/

section
variable (s : State) (den phys k : Nat)

/-- A sett in the list of failed setts and in the health record. -/
def State.settListed : State :=
  { s with failedSetts := s.failedSetts ++ [(den, phys)], health := { s.health with setts := s.health.setts ++ [(den, phys)] } }

theorem State.settListed_only : Only [.failedSetts, .health] s (s.settListed den phys) := by
  intro p hp; cases p
  case failedSetts => simp at hp
  case health => simp at hp
  all_goals rfl

/-- A failed sett listed, with its error record. -/
def State.settRecorded : State :=
  ((s.settListed den phys).logError 1 7 1 none (18 * den + phys) 0 0 0 0).reviewSvc

theorem State.settRecorded_after :
    Only [.out, .regs, .counters, .errs, .svcPrev] (s.settListed den phys) (s.settRecorded den phys) :=
  ((State.logError_only _ _ _ _ _ _ _ _ _ _).mono rfl).trans ((State.reviewSvc_only _).mono rfl)

theorem State.settRecorded_only :
    Only [.out, .regs, .counters, .failedSetts, .health, .svcPrev, .errs] s (s.settRecorded den phys) :=
  ((s.settListed_only den phys).mono rfl).trans ((s.settRecorded_after den phys).mono rfl)

theorem State.loseSett_only :
    Only [.freeCount, .runs] s (s.loseSett den k) :=
  (s.drawn_only.mono rfl).trans ((State.runs_only _ _).mono rfl)

/-- A logical sett out of service, to be served by a spare from the next frame boundary on. -/
def State.settOut : State :=
  { s with settMap := tset s.settMap (16 * den + k) 18, settWait := s.settWait ++ [(16 * den + k, phys)] }

theorem State.settOut_only : Only [.settMap, .settWait] s (s.settOut den phys k) := by
  intro p hp; cases p
  case settMap => simp at hp
  case settWait => simp at hp
  all_goals rfl

/-- A sett that carries a logical sett is recorded, the runs there end, and the logical sett goes out of service. -/
theorem settFailSt_carrying (hden : den < 8) (hphys : phys < 18)
    (hnew : s.failedSetts.contains (den, phys) = false)
    (hk : (List.range 16).find? (fun k => tgetD s.settMap (16 * den + k) k == phys) = some k) :
    settFailSt den phys s = ((s.settRecorded den phys).loseSett den k).settOut den phys k := by
  have hmap : s.settMap = (s.settRecorded den phys).settMap := s.settRecorded_only den phys .settMap (by decide)
  rw [hmap] at hk
  unfold settFailSt
  rw [if_neg (by rw [hnew, Bool.false_eq_true, or_false]; omega)]
  show (match (List.range 16).find? (fun k => tgetD (s.settRecorded den phys).settMap (16 * den + k) k == phys) with
    | none => s.settRecorded den phys
    | some k => ((s.settRecorded den phys).loseSett den k).settOut den phys k) = _
  rw [hk]

theorem settFail_does (hden : den < 8) (hphys : phys < 18) (hnew : s.failedSetts.contains (den, phys) = false)
    (hk : (List.range 16).find? (fun k => tgetD s.settMap (16 * den + k) k == phys) = some k) :
    Does (.settFail den phys) s [.out, .freeCount, .regs, .counters, .runs, .settMap, .failedSetts, .settWait, .health, .svcPrev, .errs]
      (fun t => (den, phys) ∈ t.failedSetts ∧ tgetD t.settMap (16 * den + k) k = 18 ∧ (16 * den + k, phys) ∈ t.settWait) := by
  have hrec := (s.settRecorded_after den phys .failedSetts (by decide)).symm
  have honly := ((s.settRecorded_only den phys).comp (State.loseSett_only _ den k)).comp (State.settOut_only _ den phys k)
  refine Does.of_eq rfl (settFailSt_carrying s den phys k hden hphys hnew hk) (honly.mono rfl)
    ⟨?_, tgetD_tset_same _ _ _ _, List.mem_append_right _ (List.mem_singleton_self _)⟩
  show (den, phys) ∈ (s.settRecorded den phys).failedSetts
  rw [hrec]
  exact List.mem_append_right _ (List.mem_singleton_self _)

end

/-- Settles O34: loading and unloading by the image's id, a run by its iterations and its end, a sett by its place in the map. -/
theorem kernelsAndRuns : Obligations.KernelsAndRuns := by
  unfold Obligations.KernelsAndRuns
  intro w x image d0 d1 s s'
  refine ⟨fun hx hne hr => ⟨fun r hf => kernelLoad_refused rfl hx hne hr rfl hf, fun a hf ha => kernelLoad_loads rfl hx hne hr rfl rfl hf ha⟩,
    fun hx h0 hz => ⟨kernelUnload_free hx h0 hz rfl, fun i => kernelUnload_unloads hx h0 hz rfl⟩,
    fun hx hrun => ⟨kernelRun_free hx hrun, fun i => kernelRun_badIters hx hrun, fun i den => kernelRun_starts hx hrun⟩,
    fun r hr hres hend hst => ⟨iterationEnd_becomes hr hres hend hst,
      fun hx hxr hiter hl => runComplete_done hr hx hxr hst hl d0 d1 hres hend hiter⟩,
    fun r st cell hr hx hxr hst hend hl => ?_, settFail_does s⟩
  obtain ⟨t, ht, honly, hgone, -, hres⟩ := runComplete_failed hr hx hxr hst hl d0 d1 hend
  exact ⟨t, ht, honly, hgone, hres⟩

end Sys2Proof.Machine
end

section
/-!
SUPPORT. Embedding tables by number, and folds that only add: what tables hold after an update, and what each step of a fold leaves true.
-/

namespace Sys2Proof.Machine

/-! ### Folds that only add -/

/-- A fold whose steps all go one way goes that way, and what one element brings stands at the end where what goes that way keeps it. -/
theorem foldl_brings {α β : Type} {f : β → α → β} {R : β → β → Prop} (hrefl : ∀ b, R b b)
    (htrans : ∀ {b c d}, R b c → R c d → R b d) (hstep : ∀ b a, R b (f b a)) (l : List α) (b : β) :
    R b (l.foldl f b) ∧ ∀ {P : β → Prop} {a : α}, a ∈ l → (∀ c, R b c → P (f c a)) → (∀ c d, R c d → P c → P d) →
      P (l.foldl f b) := by
  have goes (l : List α) (b : β) : R b (l.foldl f b) := by
    induction l generalizing b with
    | nil => exact hrefl b
    | cons a rest ih => exact htrans (hstep b a) (ih (f b a))
  refine ⟨goes l b, fun {P a} ha hbring hkeep => ?_⟩
  obtain ⟨before, after, rfl⟩ := List.append_of_mem ha
  rw [List.foldl_append, List.foldl_cons]
  exact hkeep _ _ (goes after _) (hbring _ (goes before b))

/-! ### Tables by number -/

section
variable {s t : State}

theorem State.table_congr (h : s.tables = t.tables) (i : Nat) : t.table i = s.table i := by
  unfold State.table
  rw [h]

/-- From `s` to `t` a table is replaced, and no other table changes. -/
def tableBecomes (s t : State) (i : Nat) (y : Table) : Prop := t.table i = some y ∧ ∀ j, j ≠ i → t.table j = s.table j

theorem State.setTable_becomes (s : State) (i : Nat) (y : Table) : tableBecomes s (s.setTable i y) i y :=
  ⟨tget_tset_same _ _ _, fun _ hj => tget_tset_ne _ hj _⟩

/-- A table stays replaced while no table changes. -/
theorem tableBecomes.congr {u v : State} {i : Nat} {y : Table} (h : tableBecomes t u i y) (hb : s.tables = t.tables)
    (ha : u.tables = v.tables) : tableBecomes s v i y := by
  obtain ⟨hsame, hother⟩ := h
  exact ⟨(State.table_congr ha i).trans hsame, fun j hj => ((State.table_congr ha j).trans (hother j hj)).trans (State.table_congr hb j)⟩

/-- A command that replaces a table. -/
theorem Does.setsTable {c : Instr} {i : Nat} {y : Table} (he : exec c s = .next t) (e : t = s.setTable i y) :
    Does c s [.tables] (fun t => tableBecomes s t i y) :=
  Does.of_eq he e (s.setTable_only i y) (s.setTable_becomes i y)

/-- A table without a step that ends has none to go on with. -/
theorem State.advanceStep_idle {i : Nat} {y : Table} (h : s.table i = some y) (hn : y.stepEnd = none) : s.advanceStep i = s := by
  unfold State.advanceStep
  simp only [h, hn]

end

end Sys2Proof.Machine
end

section
/-!
SUPPORT. O36: messages of table groups and hot rows, one law per command, and the statement put together from them.
-/

namespace Sys2Proof.Machine

/-! ### Messages of table groups (R361, R525, R555) -/

section
variable {s : State} {port type i : Nat} {m : Msg} {y : Table}

/-- A message with the key of a table that has a group has its effect on that table. -/
theorem State.embMessage_of (h : accepts s port type m) (hi : m.target / 2 ^ 52 = i) (hy : s.table i = some y) (hk : m.key = s.embKey i)
    (hn : 1 < s.embSize i) (f : Nat → Table → State → State) : s.embMessage port type m f = f i y s := by
  subst hi
  refine (State.message_of h _).trans ?_
  simp only [hy, hk, hn, and_self, if_true]

/-- A message with another key is refused. -/
theorem State.embMessage_refused (h : accepts s port type m) (hi : m.target / 2 ^ 52 = i) (hy : s.table i = some y) (hk : m.key ≠ s.embKey i)
    (f : Nat → Table → State → State) : s.embMessage port type m f = s.refuse y.tenancy := by
  subst hi
  refine (State.message_of h _).trans ?_
  simp only [hy, hk, false_and, if_false]

/-- A message refused is counted, and nothing else changes. -/
theorem Does.refused {c : Instr} {t : State} (he : exec c s = .next t) (e : t = s.refuse y.tenancy) :
    Does c s [.counters] (fun t => counted s t (0x080A000 + 8 * y.tenancy)) :=
  Does.of_eq he e (s.bump_only _ _) (s.counted_bump _)

/-! ### EMB_PEND (R361, R555) -/

/-- What a pending state that EMB_PEND brings does to a table. -/
def State.takePend (s : State) (t size : Nat) (m : Msg) (x : Table) (k : Nat) : Table :=
  let step := fld m.payload 0 8
  let row := fld m.payload (8 + k * size) 4
  if step ≤ x.doneStep ∨ (x.pend step m.src row).isSome ∨ s.rowKnown t x row = false then x
  else { x with pending := x.pending ++ [{
    step, src := m.src, row, mode := fld m.payload (8 + k * size + 4) 1 + 1
    vec := (List.range x.dim).map (fun e => fld m.payload (8 + k * size + 8 + 4 * e) 4) }] }

/-- A table with pending states added, and otherwise the same. -/
def Table.pended (x z : Table) : Prop := ∃ ps, z = { x with pending := x.pending ++ ps }

theorem Table.pended.refl (x : Table) : x.pended x := ⟨[], by simp⟩

theorem Table.pended.trans {x y z : Table} (h : x.pended y) (k : y.pended z) : x.pended z := by
  obtain ⟨ps, rfl⟩ := h
  obtain ⟨qs, rfl⟩ := k
  exact ⟨ps ++ qs, by simp⟩

theorem Table.pended.pend {x z : Table} (h : x.pended z) {step src row : Nat} {p : PendRow} (hp : x.pend step src row = some p) :
    z.pend step src row = some p := by
  obtain ⟨ps, rfl⟩ := h
  unfold Table.pend at *
  rw [List.find?_append, hp]
  rfl

theorem State.takePend_pended (s : State) (t size : Nat) (m : Msg) (x : Table) (k : Nat) : x.pended (s.takePend t size m x k) := by
  unfold State.takePend
  dsimp only
  split_ifs
  · exact .refl x
  · exact ⟨_, rfl⟩

/-- Of a step that has completed nothing is kept. -/
theorem State.takePend_late (s : State) (t size : Nat) {m : Msg} {x : Table} (h : fld m.payload 0 8 ≤ x.doneStep) (k : Nat) :
    s.takePend t size m x k = x := if_pos (.inl h)

/-- The state of a known row is there, whether it has been kept before or is kept now. -/
theorem State.takePend_pend (s : State) {t size : Nat} {m : Msg} {x : Table} {k : Nat} (hstep : x.doneStep < fld m.payload 0 8)
    (hrow : s.rowKnown t x (fld m.payload (8 + k * size) 4) = true) :
    ∃ p, (s.takePend t size m x k).pend (fld m.payload 0 8) m.src (fld m.payload (8 + k * size) 4) = some p := by
  unfold State.takePend
  dsimp only
  by_cases hp : (x.pend (fld m.payload 0 8) m.src (fld m.payload (8 + k * size) 4)).isSome
  · rw [if_pos (.inr (.inl hp))]
    exact Option.isSome_iff_exists.mp hp
  · rw [if_neg (by simp [hstep, hp, hrow])]
    unfold Table.pend at *
    rw [List.find?_append, Option.not_isSome_iff_eq_none.mp hp]
    simp

/-- An element within a list of some bytes is counted. -/
theorem record_lt {n size len : Nat} (h : 8 + (n + 1) * size ≤ len) (hs : 0 < size) : n < (len - 8) / size :=
  (Nat.le_div_iff_mul_le hs).mpr (Nat.le_sub_of_add_le' h)

theorem embPend_keeps (h : accepts s port 0x28 m) (hi : m.target / 2 ^ 52 = i) (hy : s.table i = some y) (hk : m.key = s.embKey i)
    (hn : 1 < s.embSize i) :
    Does (.embPend port m) s [.tables] (fun t => (∀ j, j ≠ i → t.table j = s.table j) ∧ ∃ z, t.table i = some z ∧
      (y.pending <+: z.pending) ∧ z.cur = y.cur ∧
      (∀ n, 8 + (n + 1) * (8 + 4 * y.dim) ≤ m.payload.length → y.doneStep < fld m.payload 0 8 →
        s.rowKnown i y (fld m.payload (8 + n * (8 + 4 * y.dim)) 4) = true →
        ∃ p, z.pend (fld m.payload 0 8) m.src (fld m.payload (8 + n * (8 + 4 * y.dim)) 4) = some p) ∧
      (fld m.payload 0 8 ≤ y.doneStep → z = y)) := by
  have e := State.embMessage_of h hi hy hk hn (fun t x s => s.setTable t ((List.range ((m.payload.length - 8) / (8 + 4 * x.dim))).foldl
    (s.takePend t (8 + 4 * x.dim) m) x))
  obtain ⟨hall, hone⟩ := foldl_brings Table.pended.refl Table.pended.trans (s.takePend_pended i (8 + 4 * y.dim) m)
    (List.range ((m.payload.length - 8) / (8 + 4 * y.dim))) y
  have hlate (hl : fld m.payload 0 8 ≤ y.doneStep) :
      (List.range ((m.payload.length - 8) / (8 + 4 * y.dim))).foldl (s.takePend i (8 + 4 * y.dim) m) y = y :=
    List.foldl_fixed' (s.takePend_late i _ hl) _
  generalize (List.range ((m.payload.length - 8) / (8 + 4 * y.dim))).foldl (s.takePend i (8 + 4 * y.dim) m) y = z at e hall hone hlate
  obtain ⟨hsame, hother⟩ := s.setTable_becomes i z
  obtain ⟨ps, hz⟩ := id hall
  refine Does.of_eq rfl e (s.setTable_only i z) ⟨hother, z, hsame, ?_, ?_, fun n hlen hstep hrow => ?_, hlate⟩
  · rw [hz]
    exact List.prefix_append _ _
  · rw [hz]
  · refine hone (P := fun x => ∃ p, x.pend (fld m.payload 0 8) m.src (fld m.payload (8 + n * (8 + 4 * y.dim)) 4) = some p)
      (List.mem_range.mpr (record_lt hlen (by omega))) (fun c hc => s.takePend_pend ?_ ?_) (fun c d hcd hp => hp.imp fun p => hcd.pend)
    · obtain ⟨qs, rfl⟩ := hc
      exact hstep
    · obtain ⟨qs, rfl⟩ := hc
      exact hrow

/-! ### EMB_MARKER and EMB_COPY (R361) -/

theorem embMarker_records (h : accepts s port 0x29 m) (hi : m.target / 2 ^ 52 = i) (hy : s.table i = some y) (hk : m.key = s.embKey i)
    (hn : 1 < s.embSize i) (hend : y.stepEnd = none) (hstep : y.doneStep < fld m.payload 0 8)
    (hnew : y.markers.contains (fld m.payload 0 8, fld m.payload 8 1, markerOf m) = false) :
    Does (.embMarker port m) s [.tables] (fun t =>
      t.table i = some { y with markers := y.markers ++ [(fld m.payload 0 8, fld m.payload 8 1, markerOf m)] } ∧
        (∀ j, j ≠ i → t.table j = s.table j)) := by
  refine Does.setsTable rfl ((State.embMessage_of h hi hy hk hn _).trans ((if_neg ?_).trans ?_))
  · rw [hnew]
    simpa using hstep
  · exact State.advanceStep_idle (s.setTable_becomes i _).1 hend

/-- A table with copies of rows of other shards taken, none older than before, and otherwise the same. -/
def Table.copied (x z : Table) : Prop :=
  ∃ v, z = { x with cur := v } ∧ v.rows = x.cur.rows ∧ v.tag = x.cur.tag ∧ (x.cur.kept <+: v.kept) ∧
    ∀ row r, tget x.cur.replicas row = some r → ∃ q, tget v.replicas row = some q ∧ r.1 ≤ q.1

theorem Table.copied.refl (x : Table) : x.copied x := ⟨x.cur, rfl, rfl, rfl, List.prefix_refl _, fun _ r hr => ⟨r, hr, le_rfl⟩⟩

theorem Table.copied.trans {x y z : Table} (h : x.copied y) (k : y.copied z) : x.copied z := by
  obtain ⟨u, rfl, hrows, htag, hkept, hrep⟩ := h
  obtain ⟨v, rfl, krows, ktag, kkept, krep⟩ := k
  refine ⟨v, rfl, krows.trans hrows, ktag.trans htag, hkept.trans kkept, fun row r hr => ?_⟩
  obtain ⟨q, hq, hle⟩ := hrep row r hr
  obtain ⟨p, hp, hle'⟩ := krep row q hq
  exact ⟨p, hp, hle.trans hle'⟩

/-- A copy of a row as of a step or a later one is held. -/
def Table.holdsCopy (x : Table) (step row : Nat) : Prop := ∃ r, tget x.cur.replicas row = some r ∧ step ≤ r.1

theorem Table.copied.holdsCopy {x z : Table} (h : x.copied z) {step row : Nat} (hc : x.holdsCopy step row) : z.holdsCopy step row := by
  obtain ⟨v, rfl, -, -, -, hrep⟩ := h
  obtain ⟨r, hr, hle⟩ := hc
  obtain ⟨q, hq, hle'⟩ := hrep row r hr
  exact ⟨q, hq, hle.trans hle'⟩

theorem Table.takeCopy_holdsCopy (x : Table) (step row : Nat) (b : Bytes) : (x.takeCopy step row b).holdsCopy step row := by
  unfold Table.takeCopy
  split
  · next r hr =>
    split_ifs with hle
    · exact ⟨r, hr, hle⟩
    · exact ⟨_, tget_tset_same _ _ _, le_rfl⟩
  · exact ⟨_, tget_tset_same _ _ _, le_rfl⟩

theorem Table.takeCopy_copied (x : Table) (step row : Nat) (b : Bytes) : x.copied (x.takeCopy step row b) := by
  have newer (hnew : ∀ r, tget x.cur.replicas row = some r → r.1 ≤ step) (i : Nat) (r : Nat × Bytes) (hr : tget x.cur.replicas i = some r) :
      ∃ q, tget (tset x.cur.replicas row (step, b)) i = some q ∧ r.1 ≤ q.1 := by
    by_cases hi : i = row
    · rw [hi] at hr ⊢
      exact ⟨_, tget_tset_same _ _ _, hnew r hr⟩
    · exact ⟨r, (tget_tset_ne _ hi _).trans hr, le_rfl⟩
  unfold Table.takeCopy
  split
  · next r hr =>
    split_ifs with hle
    · exact .refl x
    · refine ⟨_, rfl, rfl, rfl, List.prefix_append _ _, newer fun q hq => ?_⟩
      rw [hr] at hq
      obtain rfl := Option.some.inj hq
      omega
  · next hr => exact ⟨_, rfl, rfl, rfl, List.prefix_refl _, newer fun q hq => by rw [hr] at hq; cases hq⟩

theorem embCopy_takes (h : accepts s port 0x2A m) (hi : m.target / 2 ^ 52 = i) (hy : s.table i = some y) (hk : m.key = s.embKey i)
    (hn : 1 < s.embSize i) :
    Does (.embCopy port m) s [.tables] (fun t => (∀ j, j ≠ i → t.table j = s.table j) ∧ ∃ v, t.table i = some { y with cur := v } ∧
      v.rows = y.cur.rows ∧ v.tag = y.cur.tag ∧ (y.cur.kept <+: v.kept) ∧
      (∀ n, 8 + (n + 1) * (8 + rowStride y.fmt y.dim) ≤ m.payload.length →
        ∃ r, tget v.replicas (s.rowGlobal i (m.ctx % 256) (fld m.payload (8 + n * (8 + rowStride y.fmt y.dim)) 4)) = some r ∧
          fld m.payload 0 8 ≤ r.1)) := by
  have e : embCopySt port m s = _ := State.embMessage_of h hi hy hk hn _
  dsimp only at e
  obtain ⟨hall, hone⟩ := foldl_brings Table.copied.refl Table.copied.trans (f := fun x k => x.takeCopy (fld m.payload 0 8)
      (s.rowGlobal i (m.ctx % 256) (fld m.payload (8 + k * (8 + rowStride y.fmt y.dim)) 4))
      (slice m.payload (8 + k * (8 + rowStride y.fmt y.dim) + 8) (rowStride y.fmt y.dim)))
    (fun x k => x.takeCopy_copied _ _ _) (List.range ((m.payload.length - 8) / (8 + rowStride y.fmt y.dim))) y
  generalize List.foldl _ y (List.range _) = z at e hall hone
  obtain ⟨hsame, hother⟩ := s.setTable_becomes i z
  obtain ⟨v, rfl, hrows, htag, hkept, -⟩ := hall
  refine Does.of_eq rfl e (s.setTable_only i _) ⟨hother, v, hsame, hrows, htag, hkept, fun n hlen => ?_⟩
  exact hone (P := fun x => x.holdsCopy (fld m.payload 0 8)
      (s.rowGlobal i (m.ctx % 256) (fld m.payload (8 + n * (8 + rowStride y.fmt y.dim)) 4)))
    (List.mem_range.mpr (record_lt hlen (by omega))) (fun c _ => c.takeCopy_holdsCopy _ _ _) (fun c d hcd => hcd.holdsCopy)

end

/-! ### Reads of rows of other devices (R365) -/

section
variable (s : State)

theorem State.addRequest_only (r : WlReq) : Only [.fabric] s (s.addRequest r) := s.fabric_only _

/-- A request added is among those outstanding, and the others stay. -/
theorem State.rowAsked_addRequest (r : WlReq) (w row : Nat) :
    (s.addRequest r).rowAsked w row = (s.rowAsked w row || (r.w == w && r.kind == 1 && r.addr == rowKey row 0)) := by
  simp [State.rowAsked, State.addRequest]

theorem State.rowAsked_congr {s t : State} (h : s.fabric = t.fabric) (w row : Nat) : t.rowAsked w row = s.rowAsked w row := by
  unfold State.rowAsked
  rw [h]

/-- The first piece of a row begins at its first byte. -/
theorem rowPieces_head {fuel stride : Nat} (at' : Nat) (h : 0 < stride) : ∃ k, (0, k) ∈ rowPieces at' (fuel + 1) 0 stride := by
  unfold rowPieces
  rw [if_neg (by omega)]
  exact ⟨_, List.mem_cons_self⟩

/-- From `s` to `t` messages are sent and requests added, and a row whose read is under way stays so. -/
def asksOn (w row : Nat) (s t : State) : Prop := Only [.out, .fabric] s t ∧ (s.rowAsked w row = true → t.rowAsked w row = true)

/-- The read of a piece of a row sent to the row's home. -/
def State.askPiece (w t row rank frame step : Nat) (replicate : Bool) (at' : Nat) (s : State) (p : Nat × Nat) : State :=
  let req : WlReq :=
    { tag := s.fabric.nextTag, rank, port := bits (s.route rank) 3 0, ctx := noCtx, region := t, kind := 1, born := 0, w, cell := none
      addr := rowKey row p.1, len := p.2, offset := at' + p.1, flag := false, out := [], seg := none, data := none, key := s.embKey t
      sent := true }
  (s.addRequest req).sendTo rank 1 ((s.addRequest req).mkMsg rank 0 s.fabric.nextTag
    (readOrder p.2 step frame (replicate && p.1 == 0)) (t * 2 ^ 52 + at' + p.1) ((s.addRequest req).embKey t)
    (readCtx ((s.addRequest req).rowShard t row) frame) [])

theorem State.askPiece_asks (w t row rank frame step at' : Nat) (replicate : Bool) (p : Nat × Nat) :
    asksOn w row s (State.askPiece w t row rank frame step replicate at' s p) ∧
      (p.1 = 0 → (State.askPiece w t row rank frame step replicate at' s p).rowAsked w row = true) := by
  unfold State.askPiece asksOn
  dsimp only
  rw [State.rowAsked_congr (State.sendTo_only _ _ _ _ .fabric (by decide)), State.rowAsked_addRequest]
  refine ⟨⟨((s.addRequest_only _).mono rfl).trans ((State.sendTo_only _ _ _ _).mono rfl), fun hs => ?_⟩, fun hp => ?_⟩
  · rw [hs, Bool.true_or]
  · simp [hp]

/-- A read of a row leaves as requests to its home, and is under way. -/
theorem State.sendRowRead_asks (w t : Nat) (x : Table) (row rank frame step : Nat) (replicate : Bool) :
    Only [.out, .fabric] s (s.sendRowRead w t x row rank frame step replicate) ∧
      (0 < rowStride x.fmt x.dim → (s.sendRowRead w t x row rank frame step replicate).rowAsked w row = true) := by
  have e : s.sendRowRead w t x row rank frame step replicate =
      (rowPieces (s.rowLocal t row * rowStride x.fmt x.dim) 32 0 (rowStride x.fmt x.dim)).foldl
        (State.askPiece w t row rank frame step replicate (s.rowLocal t row * rowStride x.fmt x.dim)) s := rfl
  obtain ⟨hall, hone⟩ := foldl_brings (R := asksOn w row) (fun u => ⟨Only.refl _ u, id⟩) (fun h k => ⟨h.1.trans k.1, k.2 ∘ h.2⟩)
    (fun u p => (u.askPiece_asks w t row rank frame step _ replicate p).1)
    (rowPieces (s.rowLocal t row * rowStride x.fmt x.dim) 32 0 (rowStride x.fmt x.dim)) s
  rw [e]
  refine ⟨hall.1, fun hs => ?_⟩
  obtain ⟨k, hk⟩ := rowPieces_head (fuel := 31) (s.rowLocal t row * rowStride x.fmt x.dim) hs
  exact hone (P := fun u => u.rowAsked w row = true) hk (fun u _ => (u.askPiece_asks w t row rank frame step _ replicate (0, k)).2 rfl)
    (fun u v h => h.2)

end

/-! ### Hot rows (R365, R366) -/

section
variable {s : State} {tb row : Nat} {y : Table} (hy : s.table tb = some y)
include hy

theorem rowReplicate_asks (hon : s.hotCtl tb 15 0 ≠ 0) (hhot : s.hotCtl tb 15 0 < tgetD y.reads row 0)
    (hroom : (y.cur.replicas.filter (fun r => !s.rowHere tb r.1)).length < s.hotCtl tb 31 16)
    (hknown : s.rowKnown tb y row = true) (haway : s.rowHere tb row = false) (hnone : tget y.cur.replicas row = none)
    (hask : s.rowAsked noWork row = false) {home : Nat} (hhome : s.shardHome tb (s.rowShard tb row) = some home)
    (hroute : (s.routePort home).isSome = true) (hstride : 0 < rowStride y.fmt y.dim) :
    Does (.rowReplicate tb row) s [.out, .fabric] (fun t => t.rowAsked noWork row = true) := by
  have e : rowReplicateSt tb row s = s.sendRowRead noWork tb y row home s.frame y.doneStep true := by
    unfold rowReplicateSt
    simp only [hy]
    rw [if_neg (by simp [hon, hhot, hroom, hknown, haway, hnone, hask])]
    simp only [hhome, Option.isNone_eq_false_iff.mpr hroute, Bool.false_eq_true, if_false]
  obtain ⟨honly, hasked⟩ := s.sendRowRead_asks noWork tb y row home s.frame y.doneStep true
  exact Does.of_eq rfl e honly (hasked hstride)

theorem rowReplicate_cold (h : tgetD y.reads row 0 ≤ s.hotCtl tb 15 0) : Does (.rowReplicate tb row) s [] (fun _ => True) := by
  refine Does.nothing rfl ?_
  unfold rowReplicateSt
  simp only [hy]
  exact if_pos (.inr (.inl h))

theorem rowPromote_begins (htier : y.tier = 1) (hon : s.hotCtl tb 47 32 ≠ 0) (hhot : s.hotCtl tb 47 32 < tgetD y.reads row 0)
    (hroom : y.inHbm.length + y.promoting.length < s.hotCtl tb 63 48) (hhere : s.rowHere tb row = true)
    (hin : y.inHbm.contains row = false) (hnone : tget y.promoting row = none)
    (hbg : s.bgServes (denMap y.homeDen) y.tenancy = true) :
    Does (.rowPromote tb row) s [.tables] (fun t => tableBecomes s t tb
      { y with promoting := tset y.promoting row (s.frame, s.rowHereAt tb y row s.frame y.doneStep) }) := by
  refine Does.setsTable rfl ?_
  unfold rowPromoteSt
  simp only [hy]
  exact if_neg (by rw [hin]; simp [htier, hon, hhot, hroom, hhere, hnone, hbg])

theorem rowPromote_cold (h : tgetD y.reads row 0 ≤ s.hotCtl tb 47 32) : Does (.rowPromote tb row) s [] (fun _ => True) := by
  refine Does.nothing rfl ?_
  unfold rowPromoteSt
  simp only [hy]
  exact if_pos (.inr (.inr (.inl h)))

section
variable {f : Nat} {b : Bytes} (hp : tget y.promoting row = some (f, b))
include hp

theorem rowDirectorySwitch_switches (h : f < s.frame) :
    Does (.rowDirectorySwitch tb row) s [.tables] (fun t => tableBecomes s t tb
      { y with promoting := tdel y.promoting row, inHbm := y.inHbm ++ [row] }) := by
  refine Does.setsTable rfl ?_
  unfold rowDirectorySwitchSt
  simp only [hy, hp]
  exact if_pos h

theorem rowDirectorySwitch_waits (h : s.frame ≤ f) : Does (.rowDirectorySwitch tb row) s [] (fun _ => True) := by
  refine Does.nothing rfl ?_
  unfold rowDirectorySwitchSt
  simp only [hy, hp]
  exact if_neg h.not_gt

end

end

/-- Settles O36: messages by their key, and what EMB_PEND and EMB_COPY bring is held at the end of their lists; hot rows by their thresholds. -/
theorem tableGroupsAndHotRows : Obligations.TableGroupsAndHotRows := by
  unfold Obligations.TableGroupsAndHotRows
  intro port m y tb row s
  exact ⟨fun h hy hk => Does.refused rfl (State.embMessage_refused h rfl hy hk _),
    fun h hy hk => Does.refused rfl (State.embMessage_refused h rfl hy hk _),
    fun h hy hk => Does.refused rfl (State.embMessage_refused h rfl hy hk _),
    fun h hy hk hn => embPend_keeps h rfl hy hk hn, fun h hy hk hn hend hstep hnew => embMarker_records h rfl hy hk hn hend hstep hnew,
    fun h hy hk hn => embCopy_takes h rfl hy hk hn, fun hy => ⟨fun hon hhot hroom hknown haway hnone hask home hhome hroute hstride =>
      rowReplicate_asks hy hon hhot hroom hknown haway hnone hask hhome hroute hstride, rowReplicate_cold hy, rowPromote_begins hy,
      rowPromote_cold hy, fun f b hp => ⟨rowDirectorySwitch_switches hy hp, rowDirectorySwitch_waits hy hp⟩⟩⟩

end Sys2Proof.Machine
end

section
/-!
SUPPORT. Setts that resident functions take: saving the runs whose state lies there touches what `settParts` names, and leaves every work
admitted.
-/

namespace Sys2Proof.Machine

/-! ### Runs saved from a sett (R327, R330) -/

/-- From `s` to `t` nothing changes but what the taking of a sett touches, and every work is still admitted, with its outcomes. -/
structure TakesSett (s t : State) : Prop where
  only     : Only settParts s t
  outcomes : SameOutcomes s t

section
variable {s t u : State} {ps : List Part}

theorem TakesSett.refl (s : State) : TakesSett s s := ⟨Only.refl _ s, .refl s⟩

theorem TakesSett.trans (h : TakesSett s t) (k : TakesSett t u) : TakesSett s u := ⟨h.only.trans k.only, h.outcomes.trans k.outcomes⟩

theorem TakesSett.of_only (h : Only ps s t) (hp : ps.all (fun p => settParts.contains p && p != .works) = true) : TakesSett s t := by
  have hparts : ps.all settParts.contains = true :=
    List.all_eq_true.mpr fun p hm => ((Bool.and_eq_true _ _).mp (List.all_eq_true.mp hp p hm)).1
  have hworks : Part.works ∉ ps := fun hm => by simpa using List.all_eq_true.mp hp _ hm
  exact ⟨h.mono hparts, .of_works (h .works hworks)⟩

theorem TakesSett.foldl {α : Type} {f : State → α → State} (h : ∀ s x, TakesSett s (f s x)) (l : List α) (s : State) :
    TakesSett s (l.foldl f s) := by
  induction l generalizing s with
  | nil => exact .refl s
  | cons x t ih => exact (h s x).trans (ih (f s x))

theorem TakesSett.work (h : TakesSett s t) {w : Nat} {x : Work} (hx : s.work w = some x) : ∃ y, t.work w = some y := by
  have hout : t.outcomesOf w = some x.outcomes := (h.outcomes w).trans (by rw [State.outcomesOf, hx, Option.map_some])
  obtain ⟨y, hy, -⟩ := Option.map_eq_some_iff.mp hout
  exact ⟨y, hy⟩

end

section
variable (s : State)

theorem State.resident_only (m : Tab Nat) : Only [.resident] s { s with resident := m } := by
  intro p hp; cases p
  case resident => simp at hp
  all_goals rfl

theorem State.flushLine_takesSett (x : Work) (l : L1Line) : TakesSett s (s.flushLine x l).2 := by
  have puts (u : State) (rs : List (Nat × Bytes)) : TakesSett u (rs.foldl (fun s r => s.put (l.addr + r.1) r.2) u) :=
    TakesSett.foldl (fun u r => .of_only (u.put_only _ _) rfl) rs u
  have sent (u : State) (r : Nat × Bytes) : TakesSett u (u.sendWindow x.id none x.ctx 3 (l.addr + r.1) r.2.length r.2) :=
    ⟨(u.sendWindow_only _ _ _ _ _ _ _).mono rfl, u.sendWindow_outcomes _ _ _ _ _ _ _⟩
  unfold State.flushLine
  dsimp only
  split_ifs
  · exact .refl s
  · exact TakesSett.foldl (fun u r => .of_only (u.emit_only _) rfl) _ s
  · exact TakesSett.foldl sent _ s
  · have hd : TakesSett s (s.devLine .devWr x.id (l.addr % 2 ^ 48 / 64)).state := .of_only (s.devLine_keeps _ _ _).only rfl
    cases hl : s.devLine .devWr x.id (l.addr % 2 ^ 48 / 64) with
    | ready u =>
      rw [hl] at hd
      exact (hd.trans (puts u _)).trans (.of_only (State.useRecalled_keeps _ _).only rfl)
    | blocked u =>
      rw [hl] at hd
      exact hd
  · exact puts s _

theorem State.flushL1_takesSett (x : Work) (run sett : Nat) (pick : L1Line → Bool) : TakesSett s (s.flushL1 x run sett pick) := by
  have dropped (u : State) (l : L1Line) : TakesSett u (match u.run run with
      | some r => u.setRun (r.setL1 sett ((r.l1Of sett).filter (fun m => m.addr != l.addr)))
      | none => u) := by
    cases u.run run with
    | some r => exact .of_only (u.setRun_only _) rfl
    | none => exact .refl u
  unfold State.flushL1
  split
  · exact .refl s
  · refine TakesSett.foldl (fun u l => ?_) _ s
    have hl := u.flushLine_takesSett x l
    dsimp only
    split_ifs
    · exact .refl u
    · exact hl.trans (dropped _ l)
    · exact hl

theorem State.flushRun_takesSett (w : Nat) : TakesSett s (s.flushRun w) := by
  unfold State.flushRun
  split
  · exact TakesSett.foldl (fun u k => u.flushL1_takesSett _ _ _ _) _ s
  · exact .refl s

theorem State.unissue_takesSett (w : Nat) : TakesSett s (s.unissue w) := by
  unfold State.unissue
  split
  · exact .refl s
  · exact .of_only (s.fabric_only _) rfl

theorem State.saveRun_takesSett (w : Nat) : TakesSett s (s.saveRun w) :=
  ((s.unissue_takesSett w).trans (State.flushRun_takesSett _ w)).trans (.of_only (State.runs_only _ _) rfl)

theorem State.saveThere_takesSett (den w : Nat) (ks : List Nat) : TakesSett s (s.saveThere den w ks) :=
  TakesSett.foldl (f := fun s (q : Run) => s.saveRun q.w) (fun u q => u.saveRun_takesSett q.w) _ s

/-! ### A sett taken (R224, R329) -/

theorem State.takeResident_takesSett (den t k : Nat) : TakesSett s (s.takeResident den t k).state := by
  have saved := s.saveThere_takesSett den (2 ^ 72) [k]
  unfold State.takeResident
  dsimp only
  split_ifs
  · exact .refl s
  · exact saved
  · exact (saved.trans (.of_only (State.claim_only _ _ _) rfl)).trans (.of_only (State.resident_only _ _) rfl)

theorem State.awaitSett_takesSett (w den t : Nat) : TakesSett s (s.awaitSett w den t) := by
  unfold State.awaitSett
  split_ifs
  · exact .refl s
  · exact .of_only (s.waits_only _) rfl

variable {s} {u : State} {w den t : Nat}

theorem hasSett.takes (h : hasSett s w den t u) : TakesSett s u := by
  obtain ⟨k, v, -, hk, rfl⟩ := h
  have htake := s.takeResident_takesSett den t k
  rw [hk] at htake
  exact htake.trans (.of_only (State.leaveUnits_only _ _ _) rfl)

/-- An act on a sett that can be taken. -/
theorem State.onSett_of (h : hasSett s w den t u) (f : State → State) : s.onSett w den t f = f u := by
  obtain ⟨k, v, hsett, hk, rfl⟩ := h
  unfold State.onSett
  simp only [hsett, hk]

/-- An act on a sett is made on the one taken, or the work waits for one: what holds in both cases holds. -/
theorem State.onSett_induct {P : State → Prop} {f : State → State} (hact : ∀ u, TakesSett s u → P (f u))
    (hwait : ∀ u, TakesSett s u → P u) : P (s.onSett w den t f) := by
  cases hsett : s.rerankSett den t with
  | none =>
    unfold State.onSett
    simp only [hsett]
    exact hwait _ (s.awaitSett_takesSett w den t)
  | some k =>
    have htake := s.takeResident_takesSett den t k
    cases hk : s.takeResident den t k with
    | go v =>
      have h : hasSett s w den t (v.leaveUnits w settCell) := ⟨k, v, hsett, hk, rfl⟩
      rw [State.onSett_of h]
      exact hact _ h.takes
    | hold v =>
      rw [hk] at htake
      unfold State.onSett
      simp only [hsett, hk]
      exact hwait _ (htake.trans (v.awaitSett_takesSett w den t))

end

end Sys2Proof.Machine
end

section
/-!
SUPPORT. Embedding tables loaded and switched (R342–R348): one law per case.
-/

namespace Sys2Proof.Machine

/-! ### Works that replace a table and end -/

section
variable {s s' t v : State} {w op i : Nat} {x : Work} {y z : Table} {r : Result} {c : Instr} {ps qs : List Part}

theorem tableBecomes.trans (h : tableBecomes s t i y) (k : tableBecomes t v i z) : tableBecomes s v i z :=
  ⟨k.1, fun j hj => (k.2 j hj).trans (h.2 j hj)⟩

/-- The step of a work that, behind the accesses let through for it, replaces a table and ends. -/
theorem Does.reads_setsTable (hx : startable s w x op) (hgate : Only (accessParts x s') s s') (hact : Only ps s' v)
    (hno : [Part.recalled, .works, .tables].all (fun p => !ps.contains p) = true)
    (hps : (ps ++ [Part.tables, .works, .waits]).all (qs ++ accessBase).contains = true)
    (he : exec c s = .next t) (e : t = ((v.setTable i z).finish w r).used x.id) :
    Does c s (plus qs (accessParts x s')) (fun t => tableBecomes s t i z ∧ hasResult t w r) := by
  have out {p : Part} (hp : p ∈ [Part.recalled, .works, .tables]) : p ∉ ps := fun hm => by
    have := List.all_eq_true.mp hno p hp
    simp [hm] at this
  have honly : Only (ps ++ [Part.tables, .works, .waits]) s' ((v.setTable i z).finish w r) :=
    (hact.append_right _).trans ((((v.setTable_only i z).mono rfl).trans ((State.finish_only _ w r).mono rfl)).append_left ps)
  have hrec : Part.recalled ∉ ps ++ [.tables, .works, .waits] := by simp [out (p := .recalled) (by simp)]
  have hworks : s.works = v.works := (State.access_works hgate).trans (hact .works (out (by simp)))
  have htables : s.tables = v.tables := (State.access_keeps (p := .tables) hgate (by decide)).trans (hact .tables (out (by simp)))
  refine Does.of_eq he e (State.used_after hgate honly hrec hps) ⟨?_, hasResult_used (u := v.setTable i z) hx.1 hworks _⟩
  have hused : ((v.setTable i z).finish w r).tables = _ := State.access_keeps (p := .tables) (State.used_only _ x) (by decide)
  exact (v.setTable_becomes i z).congr htables hused

end

/-! ### TABLE_LOAD (R342–R345) -/

theorem tget_map_self {α : Type} {l : List Nat} {i : Nat} (h : i ∈ l) (g : Nat → α) : tget (l.map (fun k => (k, g k))) i = some (g i) := by
  induction l with
  | nil => cases h
  | cons a t ih =>
    by_cases ha : a = i
    · simp [tget, ha]
    · simpa [tget, ha] using ih (List.mem_of_ne_of_mem (Ne.symm ha) h)

/-- The row of an image that a TABLE_LOAD describes. -/
def loadRow (d b : Bytes) (i : Nat) : Bytes := slice b (i * rowStride (fld d 34 1) (fld d 36 2)) (rowStride (fld d 34 1) (fld d 36 2))

/-- Every row of an image is finite. -/
def loadFinite (d b : Bytes) : Bool := (List.range (fld d 44 4)).all (fun i => rowFinite (fld d 34 1) (fld d 36 2) (loadRow d b i))

/-- The version that a TABLE_LOAD brings. -/
def loadVersion (d b : Bytes) : TabVersion :=
  { tag := fld d 40 4, rows := (List.range (fld d 44 4)).map (fun i => (i, loadRow d b i)), rowStep := [], kept := [], replicas := [] }

theorem loadVersion_row (d b : Bytes) {i : Nat} (h : i < fld d 44 4) : tget (loadVersion d b).rows i = some (loadRow d b i) :=
  tget_map_self (List.mem_range.mpr h) _

theorem loadVersion_any (d b : Bytes) :
    (loadVersion d b).rows.any (fun r => !rowFinite (fld d 34 1) (fld d 36 2) r.2) = !loadFinite d b := by
  unfold loadVersion loadFinite
  rw [List.any_map, List.not_all_eq_any_not]
  rfl

/-- The table that a TABLE_LOAD makes of a FREE id, in the areas it has. -/
def State.loadedTable (s : State) (x : Work) (b : Bytes) (areas : List (Nat × Nat)) (u : State) : Table :=
  { tenancy := x.tenancy, homeDen := s.newTableDen, fmt := fld x.desc 34 1, tier := fld x.desc 35 1, dim := fld x.desc 36 2
    rows := fld x.desc 44 4, pendRows := fld x.desc 48 4, cur := loadVersion x.desc b, staged := none, old := [], switch := none
    doneStep := 0, endStep := u.endsAfterLoad (descTable x.desc), pending := [], stepEnd := none, markers := [], updFirst := []
    holders := [], reads := [], inHbm := [], promoting := [], areas }

/-- A choice of areas draws free values and changes nothing else. -/
theorem State.tableAreas_only {s u : State} {t tier den rows pend stride dim : Nat} {areas : List (Nat × Nat)}
    (h : s.tableAreas t tier den rows pend stride dim = some (areas, u)) : Only [.freeCount] s u := by
  unfold State.tableAreas at h
  dsimp only at h
  split at h
  · cases h
  · split at h
    · cases h
    · split at h
      · obtain ⟨-, rfl⟩ := Prod.mk.inj (Option.some.inj h)
        exact s.drawn_only.trans (State.drawn_only _)
      · cases h

section
variable {s s' : State} {w tb : Nat} {x : Work} {y : Table} {image b : Bytes} (hx : startable s w x 0x33) (htb : descTable x.desc = tb)
  (hr : readable s x [(descOp0 x.desc, fld x.desc 44 4 * rowStride (fld x.desc 34 1) (fld x.desc 36 2))] s')
  (hb : s'.readAt x (descOp0 x.desc) (fld x.desc 44 4 * rowStride (fld x.desc 34 1) (fld x.desc 36 2)) image = b)
include hx htb hr hb

theorem tableLoad_badRow (hn : s.table tb = none) (hbad : loadFinite x.desc b = false) :
    Does (.tableLoad w image) s (.works :: accessParts x s') (fun t => hasResult t w (Result.err 0x12 8)) := by
  subst htb hb
  refine Does.reads_ends hx (State.gate_go hx.unstalled hr.1) rfl ((State.withWork_startable hx _).trans
    ((if_neg ?_).trans ((State.withReads_readable hr _).trans (congrArg (State.used · x.id) (if_pos ?_)))))
  · simp [hn]
  · exact (loadVersion_any _ _).trans (by rw [hbad, Bool.not_false])

theorem tableLoad_stages (hy : s.table tb = some y) (hok : loadFinite x.desc b = true) (hfmt : y.fmt = fld x.desc 34 1)
    (htier : y.tier = fld x.desc 35 1) (hdim : y.dim = fld x.desc 36 2) (hrows : y.rows = fld x.desc 44 4)
    (hpend : y.pendRows = fld x.desc 48 4) :
    Does (.tableLoad w image) s (plus [.works, .tables] (accessParts x s')) (fun t =>
      tableBecomes s t tb { y with staged := some (loadVersion x.desc b) } ∧ hasResult t w (Result.done 0)) := by
  subst htb hb
  have hy' : s'.table (descTable x.desc) = some y := by
    rw [State.table_congr (State.access_keeps (p := .tables) (State.gate_go hx.unstalled hr.1) (by decide)), hy]
  refine Does.reads_setsTable hx (State.gate_go hx.unstalled hr.1) (Only.refl [] s') rfl rfl rfl ((State.withWork_startable hx _).trans
    ((if_neg ?_).trans ((State.withReads_readable hr _).trans (congrArg (State.used · x.id) ((if_neg ?_).trans ?_)))))
  · simp [hy, hfmt, htier, hdim, hrows, hpend]
  · exact Bool.eq_false_iff.mp ((loadVersion_any _ _).trans (by rw [hok, Bool.not_true]))
  · simp only [hy']
    rfl

theorem tableLoad_creates (hn : s.table tb = none) (hok : loadFinite x.desc b = true)
    (hroom : (s'.tableAreas x.tenancy (fld x.desc 35 1) s'.newTableDen (fld x.desc 44 4) (fld x.desc 48 4)
      (rowStride (fld x.desc 34 1) (fld x.desc 36 2)) (fld x.desc 36 2)).isSome = true) :
    Does (.tableLoad w image) s (plus [.works, .tables, .freeCount] (accessParts x s')) (fun t =>
      (∃ areas u, tableBecomes s t tb (s'.loadedTable x b areas u)) ∧ hasResult t w (Result.done 0)) := by
  subst htb hb
  obtain ⟨⟨areas, u⟩, hareas⟩ := Option.isSome_iff_exists.mp hroom
  have hnone : s'.table (descTable x.desc) = none := by
    rw [State.table_congr (State.access_keeps (p := .tables) (State.gate_go hx.unstalled hr.1) (by decide)), hn]
  have e : tableLoadSt w image s = ((u.setTable (descTable x.desc) (s'.loadedTable x (s'.readAt x (descOp0 x.desc)
      (fld x.desc 44 4 * rowStride (fld x.desc 34 1) (fld x.desc 36 2)) image) areas u)).finish w (Result.done 0)).used x.id := by
    refine (State.withWork_startable hx _).trans
      ((if_neg ?_).trans ((State.withReads_readable hr _).trans (congrArg (State.used · x.id) ((if_neg ?_).trans ?_))))
    · simp [hn]
    · exact Bool.eq_false_iff.mp ((loadVersion_any _ _).trans (by rw [hok, Bool.not_true]))
    · simp only [hnone, hareas]
      rfl
  obtain ⟨t, ht, honly, hbecomes, hres⟩ := Does.reads_setsTable (c := .tableLoad w image) (qs := [.works, .tables, .freeCount]) hx
    (State.gate_go hx.unstalled hr.1) (State.tableAreas_only hareas) rfl rfl rfl e
  exact ⟨t, ht, honly, ⟨areas, u, hbecomes⟩, hres⟩

end

/-! ### TABLE_SWITCH (R346–R348) -/

section
variable {s : State} {w tb : Nat} {x : Work} {y : Table} (hx : startable s w x 0x34) (htb : descTable x.desc = tb) (hy : s.table tb = some y)
  (hsw : y.switch = none)
include hx htb hy hsw

theorem tableSwitch_unstaged (h : y.staged.any (fun v => v.tag == fld x.desc 40 4) = false) :
    Does (.tableSwitch w) s [.works, .waits] (fun t => hasResult t w (Result.err 0x10 32)) := by
  subst htb
  refine Does.finishes hx rfl ((State.withWork_startable hx _).trans ?_)
  simp only [hy, hsw, Option.isSome_none, Bool.false_eq_true, if_false]
  exact if_pos (.inl h)

/-- A switch of a staged version waits for its boundary; one that names no frame is late. -/
theorem tableSwitch_waits (h : y.staged.any (fun v => v.tag == fld x.desc 40 4) = true) (hun : s.unapplied tb y x = false)
    (hf : fld x.desc 44 4 = 0) :
    Does (.tableSwitch w) s [.tables] (fun t =>
      tableBecomes s t tb { y with switch := some (w, max (s.frame + 1) (x.frame + 1), true) }) := by
  subst htb
  refine Does.setsTable rfl ((State.withWork_startable hx _).trans ?_)
  simp only [hy, hsw, Option.isSome_none, Bool.false_eq_true, if_false]
  refine (if_neg (by rw [h, hun]; decide)).trans ?_
  simp [hf]

end

/-! ### The switch at its boundary (R347, R348) -/

section
variable {s : State} {w i : Nat} {y : Table}

/-- Of the versions replaced, those that are read no more become free. -/
theorem State.freeVersions_of (hy : s.table i = some y) : ∃ old, s.freeVersions i = s.setTable i { y with old := old } := by
  unfold State.freeVersions
  simp only [hy]
  exact ⟨_, rfl⟩

theorem State.freeVersions_only (s : State) (i : Nat) : Only [.tables] s (s.freeVersions i) := by
  unfold State.freeVersions
  split
  · exact s.setTable_only _ _
  · exact Only.refl _ s

/-- A table whose staged version has become current at the boundary of a frame; what belonged to the version replaced has gone with it. -/
def Table.switchedTo (y : Table) (v : TabVersion) (frame : Nat) : Table :=
  { y with cur := v, staged := none, switch := none, old := y.old ++ [(y.cur, frame)], holders := [], inHbm := [], promoting := [] }

theorem tableSwitchApply_switches {x : Work} {v : TabVersion} {f : Nat} {late : Bool} (hy : s.table i = some y)
    (hsw : y.switch = some (w, f, late)) (hv : y.staged = some v) (hf : f ≤ s.frame) (hx : s.work w = some x) :
    Does (.tableSwitchApply i) s [.works, .waits, .tables] (fun t => (∃ z, tableBecomes s t i z ∧ z.cur = v ∧ z.staged = none ∧
      z.switch = none) ∧ hasResult t w { Result.done 0 with flags := 2 * b2n late }) := by
  have e : tableSwitchApplySt i s =
      ((s.setTable i (y.switchedTo v s.frame)).freeVersions i).finish w { Result.done 0 with flags := 2 * b2n late } := by
    unfold tableSwitchApplySt
    simp only [hy, hsw, hv]
    exact if_pos hf
  have hset := s.setTable_becomes i (y.switchedTo v s.frame)
  obtain ⟨old, hold⟩ := State.freeVersions_of hset.1
  rw [hold] at e
  refine Does.of_eq rfl e ?_ ⟨⟨_, (hset.trans (State.setTable_becomes _ i _)).congr rfl rfl, rfl, rfl, rfl⟩, State.hasResult_finish hx _⟩
  exact (((s.setTable_only _ _).mono rfl).trans ((State.setTable_only _ _ _).mono rfl)).trans ((State.finish_only _ _ _).mono rfl)

end

end Sys2Proof.Machine
end

section
/-!
SUPPORT. Gathers from embedding tables whose operands and results lie in host memory (R349–R353): blocks that follow one another from a host
address on, where they are let through, are all the host's; the rows pooled leave in order.
-/

namespace Sys2Proof.Machine

/-! ### Blocks that follow one another (R468, R470) -/

/-- Every line that begins within a range is a piece of it. -/
theorem linesOf_starts {c : Nat} (hc : c % 64 = 0) {fuel a n : Nat} (hle : a ≤ c) (hlt : c < a + n) (hf : n + a % 64 ≤ 64 * fuel) :
    ∃ k, (c, k) ∈ linesOf a fuel n := by
  induction fuel generalizing a n with
  | zero => omega
  | succ f ih =>
    unfold linesOf
    rw [if_neg (by omega)]
    by_cases he : a = c
    · exact ⟨_, by rw [he]; exact List.mem_cons_self⟩
    · have hk : min n (64 - a % 64) = 64 - a % 64 := by omega
      rw [hk]
      obtain ⟨k, hm⟩ := ih (a := a + (64 - a % 64)) (n := n - (64 - a % 64)) (by omega) (by omega) (by omega)
      exact ⟨k, List.mem_cons_of_mem _ hm⟩

/-- A device address of R470, in the virtual or the logical class. -/
theorem addrLegal_device {a : Nat} (hc : addrClass a ≠ 0) : addrLegal a = true ↔
    addrClass a = 2 ∧ a / 2 ^ 48 % 2 ^ 14 = 0 ∨ addrClass a = 3 ∧ a / 2 ^ 56 % 2 ^ 6 = 0 ∧ a / 2 ^ 48 % 2 ^ 8 ≤ 2 := by
  have hlt : addrClass a < 4 := Nat.mod_lt _ (by decide)
  unfold addrLegal
  split
  · next h => exact absurd h hc
  · next h => simp [h]
  · next h => simp [h, bits]
  · next h0 h1 h2 =>
    have h3 : addrClass a = 3 := by
      have h0 : addrClass a ≠ 0 := h0
      have h1 : addrClass a ≠ 1 := h1
      have h2 : addrClass a ≠ 2 := h2
      omega
    rw [Bool.and_eq_true, beq_iff_eq, decide_eq_true_iff]
    simp [h3, bits]

/-- A device range of 2^58 bytes or more has a line at an address that R470 does not allow. -/
theorem pieces_illegal {a n : Nat} (hc : addrClass a ≠ 0) (hl : addrLegal a = true) (hn : 2 ^ 58 ≤ n) :
    ∃ p ∈ pieces a n, addrLegal p.1 = false := by
  obtain ⟨c, hline⟩ : ∃ c, c = (a / 64 + 2 ^ 51) * 64 := ⟨_, rfl⟩
  obtain ⟨k, hk⟩ := linesOf_starts (c := c) (fuel := n / 64 + 2) (a := a) (n := n) (by omega) (by omega) (by omega) (by omega)
  refine ⟨(c, k), hk, ?_⟩
  have hcls : addrClass c = addrClass a := by
    rw [addrLegal_device hc] at hl
    unfold addrClass bits at *
    omega
  rw [Bool.eq_false_iff, ne_eq, addrLegal_device (hcls ▸ hc), hcls]
  rw [addrLegal_device hc] at hl
  omega

section
variable {s t : State} {x : Work} {a size n : Nat}

/-- Every piece of a device access that is let through is at a legal address. -/
theorem State.gate_pieces_legal {accs : List (Nat × Nat × Bool)} (h : letThrough s x accs t) {wr : Bool} (ha : (a, n, wr) ∈ accs)
    (hc : addrClass a ≠ 0) : ∀ p ∈ pieces a n, addrLegal p.1 = true := by
  unfold letThrough State.gate State.gateBy at h
  split at h
  · cases h
  · dsimp only at h
    split at h
    · cases h
    · intro p hp
      refine State.gatePieces_legal h (wr, p) (List.mem_flatMap.mpr ⟨_, List.mem_filter.mpr ⟨ha, ?_⟩, List.mem_map.mpr ⟨p, hp, rfl⟩⟩)
      simpa using hc

/-- Blocks from a host address on that are let through are all the host's: device addresses lie beyond the reserved class. -/
theorem State.gate_blocks_host (h : letThrough s x ((List.range n).map (fun j => (a + j * roundup size 64, size, true))) t)
    (ha : addrClass a = 0) (hs : 0 < size) {j : Nat} (hj : j < n) : addrClass (a + j * roundup size 64) = 0 := by
  induction j with
  | zero => simpa using ha
  | succ j ih =>
    have hprev := ih (by omega)
    by_contra hc
    have hmem : (a + (j + 1) * roundup size 64, size, true) ∈ (List.range n).map (fun j => (a + j * roundup size 64, size, true)) :=
      List.mem_map.mpr ⟨j + 1, List.mem_range.mpr hj, rfl⟩
    have hlegal := State.gate_legal h hmem hs hc
    by_cases hbig : 2 ^ 58 ≤ size
    · obtain ⟨p, hp, hill⟩ := pieces_illegal hc hlegal hbig
      rw [State.gate_pieces_legal h hmem hc p hp] at hill
      cases hill
    · have h1 := addrLegal_class hlegal
      rw [addrClass_eq_zero] at hprev hc
      have hstep : (j + 1) * roundup size 64 = j * roundup size 64 + roundup size 64 := Nat.succ_mul _ _
      have hround : roundup size 64 < 2 ^ 59 := by
        unfold roundup
        omega
      unfold addrClass bits at h1
      rw [hstep] at hc h1
      omega

end

/-! ### What a gather reads (R349, R350) -/

/-- What a gather reads besides rows. -/
def gatherReads (d : Bytes) : List (Nat × Nat) :=
  (descOp0 d, gatherBytes d) :: (if fld d 34 1 = 0 then [] else [(descOp1 d, 4 * (fld d 36 2 + 1))])

/-- The rows that a gather names. -/
def gatherIdx (d b0 : Bytes) : List Nat := (List.range (fld d 40 4)).map (fun i => fld (slice b0 0 (gatherBytes d)) (4 * i) 4)

/-- Where its bags begin and end. -/
def gatherOffs (d b1 : Bytes) : List Nat := (List.range (fld d 36 2 + 1)).map (fun i => fld (slice b1 0 (4 * (fld d 36 2 + 1))) (4 * i) 4)

/-- Its offsets as it reads them: none where its rows are not pooled. -/
def gatherOffsRead (d b1 : Bytes) : List Nat :=
  (List.range (fld d 36 2 + 1)).map (fun i => fld (if fld d 34 1 = 0 then [] else slice b1 0 (4 * (fld d 36 2 + 1))) (4 * i) 4)

theorem gatherOffsRead_pooled {d : Bytes} (h : fld d 34 1 ≠ 0) (b1 : Bytes) : gatherOffsRead d b1 = gatherOffs d b1 := by
  unfold gatherOffsRead gatherOffs
  rw [if_neg h]

/-- The weight of one of its indices: 1 where it carries none. -/
def gatherWeight (d b0 : Bytes) (i : Nat) : Nat :=
  if bit (descFlags d) 1 then fld (slice b0 0 (gatherBytes d)) (roundup (4 * fld d 40 4) 64 + 4 * i) 4 else 0x3F800000

/-- The weights that a gather carries. -/
def gatherWeights (d b0 : Bytes) : List Nat :=
  if bit (descFlags d) 1 then (List.range (fld d 40 4)).map (fun i => fld (slice b0 0 (gatherBytes d)) (roundup (4 * fld d 40 4) 64 + 4 * i) 4)
  else []

/-- Its bags: one for each index where they are not pooled. -/
def gatherCount (d : Bytes) : Nat := if fld d 34 1 = 0 then fld d 40 4 else fld d 36 2

/-- The bytes of an output row. -/
def gatherSize (d : Bytes) (y : Table) : Nat := y.dim * (if fld d 35 1 = 0 then 4 else 2)

/-- A weighted row of a gather. -/
def State.gatherVal (s : State) (x : Work) (tb : Nat) (y : Table) (b0 : Bytes) (i : Nat) : Nat × List Nat :=
  (gatherWeight x.desc b0 i, rowElems y.fmt y.dim ((s.gatherRow x tb y ((gatherIdx x.desc b0).getD i 0)).getD []))

/-- A bag of a gather. -/
def State.gatherBag (s : State) (x : Work) (tb : Nat) (y : Table) (b0 b1 : Bytes) (j : Nat) : List (Nat × List Nat) :=
  if fld x.desc 34 1 = 0 then [s.gatherVal x tb y b0 j] else
    (List.range ((gatherOffs x.desc b1).getD (j + 1) 0 - (gatherOffs x.desc b1).getD j 0)).map
      (fun i => s.gatherVal x tb y b0 ((gatherOffs x.desc b1).getD j 0 + i))

theorem gatherIdx_length (d b0 : Bytes) : (gatherIdx d b0).length = fld d 40 4 := by simp [gatherIdx]

theorem gatherWeights_getD (d b0 : Bytes) {i : Nat} (h : i < fld d 40 4) : (gatherWeights d b0).getD i 0x3F800000 = gatherWeight d b0 i := by
  unfold gatherWeights gatherWeight
  split_ifs with hw
  · simp [List.getD_eq_getElem?_getD, h]
  · rfl

theorem getD_le {l : List Nat} {n : Nat} (h : l.all (fun o => decide (o ≤ n)) = true) (i : Nat) : l.getD i 0 ≤ n := by
  rw [List.getD_eq_getElem?_getD]
  cases hi : l[i]? with
  | none => exact Nat.zero_le n
  | some o => simpa using List.all_eq_true.mp h o (List.mem_of_getElem? hi)

section
variable {s t u : State} {x : Work} {tb : Nat} {y : Table} {b0 b1 : Bytes}

/-- A gather's own reads in host memory meet no poison. -/
theorem gatherReads_clean (s : State) (x : Work) (h0 : addrClass (descOp0 x.desc) = 0) (h1 : addrClass (descOp1 x.desc) = 0) :
    (gatherReads x.desc).any (fun r => s.poisonedAt x r.1 r.2) = false := by
  unfold gatherReads
  split_ifs <;> simp [State.poisonedAt_host (Or.inl h0), State.poisonedAt_host (Or.inl h1)]

theorem gatherReads_host (h0 : addrClass (descOp0 x.desc) = 0) (h1 : addrClass (descOp1 x.desc) = 0) :
    ∀ a ∈ (gatherReads x.desc).map (fun r => (r.1, r.2, false)), addrClass a.1 = 0 ∨ a.2.1 = 0 := by
  unfold gatherReads
  split_ifs <;> simp [h0, h1]

section
variable (htb : descTable x.desc = tb) (hy : s.table tb = some y) (h0 : addrClass (descOp0 x.desc) = 0) (h1 : addrClass (descOp1 x.desc) = 0)
  (hlet : letThrough s x ((gatherReads x.desc).map (fun r => (r.1, r.2, false))) s)
  (hclean : y.areas.any (fun a => s.poisonedIn a.1 a.2) = false)
include htb hy h0 h1 hlet hclean

/-- An index outside the table ends a gather. -/
theorem State.runGather_unknown (h : (gatherIdx x.desc b0).any (fun r => !s.rowKnown tb y r) = true) :
    s.runGather x b0 b1 = s.finish x.id (Result.err 0x12 8) := by
  have hpoison := gatherReads_clean s x h0 h1
  unfold letThrough gatherReads at hlet
  unfold gatherReads at hpoison
  unfold State.runGather
  simp only [htb, hy, hlet, hpoison, hclean, Bool.false_and, Bool.or_false, Bool.false_eq_true, if_false, State.readAt_host (Or.inl h0)]
  exact if_pos h

/-- A gather of known rows, all at hand, has nothing to ask for. -/
theorem State.runGather_known (h : (gatherIdx x.desc b0).all (fun r => s.rowKnown tb y r) = true)
    (hoffs : fld x.desc 34 1 = 0 ∨ offsetsLegal (gatherOffs x.desc b1) (fld x.desc 40 4) = true)
    (hrows : (gatherIdx x.desc b0).all (fun r => (s.gatherRow x tb y r).isSome) = true) :
    s.runGather x b0 b1 = s.writeGather x tb y (gatherIdx x.desc b0) (gatherOffsRead x.desc b1) (gatherWeights x.desc b0) := by
  have hpoison := gatherReads_clean s x h0 h1
  have hknown : (gatherIdx x.desc b0).any (fun r => !s.rowKnown tb y r) = false := by
    rw [← List.not_all_eq_any_not, h, Bool.not_true]
  have hask : s.askRows x tb y (gatherIdx x.desc b0) = s := by
    unfold State.askRows
    rw [List.filter_eq_nil_iff.mpr]
    · rfl
    · intro r hr
      have hr' : (s.gatherRow x tb y r).isSome = true := List.all_eq_true.mp hrows r (List.mem_eraseDups.mp hr)
      simp [Option.isNone_eq_false_iff.mpr hr']
  unfold letThrough gatherReads at hlet
  unfold gatherReads at hpoison
  unfold State.runGather
  simp only [htb, hy, hlet, hpoison, hclean, Bool.false_and, Bool.or_false, Bool.false_eq_true, if_false, State.readAt_host (Or.inl h0),
    State.readAt_host (Or.inl h1)]
  refine (if_neg (Bool.eq_false_iff.mp hknown)).trans ((if_neg ?_).trans ?_)
  · change ¬ (fld x.desc 34 1 ≠ 0 ∧ offsetsLegal (gatherOffsRead x.desc b1) (fld x.desc 40 4) = false)
    rintro ⟨hp, hbad⟩
    rw [gatherOffsRead_pooled hp, hoffs.resolve_left hp] at hbad
    cases hbad
  · unfold gatherIdx at hask hrows
    rw [hask]
    exact if_pos hrows

end

/-! ### What a gather writes (R351, R352) -/

/-- The output rows of a gather, in order. -/
def State.gatherOut (s : State) (x : Work) (tb : Nat) (y : Table) (b0 b1 : Bytes) : List Output :=
  (List.range (gatherCount x.desc)).map (fun j => .dma x.port x.pasid (descRes x.desc + j * roundup (gatherSize x.desc y) 64)
    (poolRow (fld x.desc 34 1) (fld x.desc 35 1) y.dim (s.gatherBag x tb y b0 b1 j)))

/-- The result of a gather. -/
def gatherResult (x : Work) (y : Table) : Result :=
  { Result.done (gatherCount x.desc) with snap := x.snap, b24 := (y.versionAt x.frame).tag }

/-- The state that a gather leaves behind its accesses: its rows sent, its reads counted, its result known. -/
def State.gathered (s u : State) (x : Work) (tb : Nat) (y : Table) (b0 b1 : Bytes) : State :=
  (((u.sending (s.gatherOut x tb y b0 b1)).setTable tb (y.countReads (gatherIdx x.desc b0))).finish x.id (gatherResult x y)).freeVersions tb

theorem poolRow_ne_nil {dim : Nat} (h : 0 < dim) (pool out : Nat) (bag : List (Nat × List Nat)) : poolRow pool out dim bag ≠ [] := by
  obtain ⟨n, rfl⟩ : ∃ n, dim = n + 1 := ⟨dim - 1, by omega⟩
  intro hnil
  have hlen := congrArg List.length hnil
  unfold poolRow at hlen
  rw [List.range_succ_eq_map, List.map_cons, List.flatten_cons, List.length_append] at hlen
  split_ifs at hlen <;> simp at hlen

/-- The bags are those of the weights and rows that their offsets name. -/
theorem State.gatherBag_eq (s : State) (x : Work) (tb : Nat) (y : Table) (b0 b1 : Bytes) 
    (hle : (gatherOffs x.desc b1).all (fun o => decide (o ≤ fld x.desc 40 4)) = true) {j : Nat} (hj : j < gatherCount x.desc) :
    (if fld x.desc 34 1 = 0 then
      [((gatherWeights x.desc b0).getD j 0x3F800000, rowElems y.fmt y.dim ((s.gatherRow x tb y ((gatherIdx x.desc b0).getD j 0)).getD []))]
    else (List.range ((gatherOffsRead x.desc b1).getD (j + 1) 0 - (gatherOffsRead x.desc b1).getD j 0)).map (fun i =>
      ((gatherWeights x.desc b0).getD ((gatherOffsRead x.desc b1).getD j 0 + i) 0x3F800000, rowElems y.fmt y.dim
        ((s.gatherRow x tb y ((gatherIdx x.desc b0).getD ((gatherOffsRead x.desc b1).getD j 0 + i) 0)).getD [])))) =
      s.gatherBag x tb y b0 b1 j := by
  unfold State.gatherBag State.gatherVal
  unfold gatherCount at hj
  split_ifs at hj ⊢ with hp
  · rw [gatherWeights_getD _ _ hj]
  · rw [gatherOffsRead_pooled hp]
    refine List.map_congr_left fun i hi => ?_
    have hend := getD_le hle (j + 1)
    rw [gatherWeights_getD]
    have := List.mem_range.mp hi
    omega

/-- A gather on the sett it has taken, whose rows all go to host memory. -/
theorem State.writeGather_sent (hs : hasSett s x.id y.homeDen x.tenancy u)
    (hlet : letThrough u x ((List.range (gatherCount x.desc)).map
      (fun j => (descRes x.desc + j * roundup (gatherSize x.desc y) 64, gatherSize x.desc y, true))) u)
    (hhost : ∀ j < gatherCount x.desc, addrClass (descRes x.desc + j * roundup (gatherSize x.desc y) 64) = 0)
    (hsend : sends u x.port) (hdim : 0 < y.dim)
    (hle : (gatherOffs x.desc b1).all (fun o => decide (o ≤ fld x.desc 40 4)) = true) :
    s.writeGather x tb y (gatherIdx x.desc b0) (gatherOffsRead x.desc b1) (gatherWeights x.desc b0) = (s.gathered u x tb y b0 b1).used x.id := by
  unfold State.writeGather
  dsimp only
  rw [gatherIdx_length]
  refine (State.onSett_of hs _).trans ?_
  unfold State.withAccess
  change (match u.gate x ((List.range (gatherCount x.desc)).map
      (fun j => (descRes x.desc + j * roundup (gatherSize x.desc y) 64, gatherSize x.desc y, true))) with | .hold s' => s' | .go s' => _) = _
  rw [hlet]
  dsimp only
  rw [State.writeAts_sent hsend]
  · exact congrArg (fun os => ((((u.sending os).setTable tb (y.countReads (gatherIdx x.desc b0))).finish x.id (gatherResult x y)).freeVersions
      tb).used x.id) (List.map_congr_left fun j hj => congrArg (fun bag => Output.dma _ _ _ (poolRow _ _ _ bag))
        (s.gatherBag_eq x tb y b0 b1 hle (List.mem_range.mp hj)))
  · exact fun j hj => hhost j (List.mem_range.mp hj)
  · exact fun j => poolRow_ne_nil hdim _ _ _

theorem State.gathered_keeps (s u : State) (x : Work) (tb : Nat) (y : Table) (b0 b1 : Bytes) :
    Only [.out, .tables, .works, .waits] u (s.gathered u x tb y b0 b1) ∧
      (s.gathered u x tb y b0 b1).out = u.out ++ s.gatherOut x tb y b0 b1 ∧
      ∀ z, u.work x.id = some z → hasResult (s.gathered u x tb y b0 b1) x.id (gatherResult x y) := by
  have hsend := u.sending_only (s.gatherOut x tb y b0 b1)
  have hset := (u.sending (s.gatherOut x tb y b0 b1)).setTable_only tb (y.countReads (gatherIdx x.desc b0))
  have hfin := ((u.sending (s.gatherOut x tb y b0 b1)).setTable tb (y.countReads (gatherIdx x.desc b0))).finish_only x.id (gatherResult x y)
  have hfree := (((u.sending (s.gatherOut x tb y b0 b1)).setTable tb (y.countReads (gatherIdx x.desc b0))).finish x.id
    (gatherResult x y)).freeVersions_only tb
  refine ⟨(((hsend.mono rfl).trans (hset.mono rfl)).trans (hfin.mono rfl)).trans (hfree.mono rfl), (hfree .out (by decide)).symm, fun z hz => ?_⟩
  exact hasResult_congr (State.hasResult_finish ((State.work_congr rfl x.id).trans hz) _) (hfree .works (by decide))

end

/-! ### EMB_GATHER (R349–R353, R677) -/

/-- The state after an act under the group registers of a work's admission, with the registers of its object as they stood. -/
def State.restored (s : State) (x : Work) (id base : Nat) (u : State) : State :=
  if s.bank id base = x.group then u else u.setBank id base (s.bank id base)

theorem State.underGroup_eq (s : State) (x : Work) (id base : Nat) (f : State → State) :
    s.underGroup x id base f = s.restored x id base (f (s.asAdmitted x id base)) := by
  unfold State.underGroup State.restored State.asAdmitted
  split <;> rfl

theorem State.asAdmitted_only (s : State) (x : Work) (id base : Nat) : Only [.regs] s (s.asAdmitted x id base) :=
  Only.ite (fun _ => Only.refl _ s) (fun _ => s.regs_only _)

theorem State.restored_only (s : State) (x : Work) (id base : Nat) (u : State) : Only [.regs] u (s.restored x id base u) :=
  Only.ite (fun _ => Only.refl _ u) (fun _ => u.regs_only _)

section
variable {s s' u v : State} {w tb : Nat} {x : Work} {y : Table} {b0 b1 : Bytes} (hx : startable s w x 0x30) (htb : descTable x.desc = tb)
  (hy : s.table tb = some y) (h0 : addrClass (descOp0 x.desc) = 0) (h1 : addrClass (descOp1 x.desc) = 0)
  (hlet : letThrough (s.asAdmitted x tb 0x0403000) x ((gatherReads x.desc).map (fun r => (r.1, r.2, false))) s')
  (hclean : y.areas.any (fun a => s'.poisonedIn a.1 a.2) = false)
include hx htb hy h0 h1 hlet hclean

theorem embGather_unknown (h : (gatherIdx x.desc b0).any (fun r => !s'.rowKnown tb y r) = true) :
    Does (.embGather w b0 b1) s [.works, .waits, .regs] (fun t => hasResult t w (Result.err 0x12 8) ∧
      (s.bank tb 0x0403000 = x.group → t.regs = s.regs)) := by
  obtain rfl := State.gate_hosts hlet (gatherReads_host h0 h1)
  have hadm := s.asAdmitted_only x tb 0x0403000
  have hy' : (s.asAdmitted x tb 0x0403000).table tb = some y := (State.table_congr (hadm .tables (by decide)) tb).trans hy
  have e : embGatherSt w b0 b1 s = s.restored x tb 0x0403000 ((s.asAdmitted x tb 0x0403000).finish w (Result.err 0x12 8)) := by
    refine (State.withWork_startable hx _).trans ?_
    rw [htb, State.underGroup_eq, State.runGather_unknown htb hy' h0 h1 hlet hclean h, State.work_id s hx.1]
  have hres := s.restored_only x tb 0x0403000 ((s.asAdmitted x tb 0x0403000).finish w (Result.err 0x12 8))
  refine Does.of_eq rfl e (((hadm.mono rfl).trans ((State.finish_only _ _ _).mono rfl)).trans (hres.mono rfl)) ⟨?_, fun hb => ?_⟩
  · exact hasResult_congr (State.hasResult_finish ((State.work_congr (hadm .works (by decide)) w).trans hx.1) _) (hres .works (by decide))
  · rw [State.restored, if_pos hb, State.asAdmitted, if_pos hb]
    rfl

theorem embGather_gathers (hres : addrClass (descRes x.desc) = 0) (h : (gatherIdx x.desc b0).all (fun r => s'.rowKnown tb y r) = true)
    (hoffs : fld x.desc 34 1 = 0 ∨ offsetsLegal (gatherOffs x.desc b1) (fld x.desc 40 4) = true)
    (hle : (gatherOffs x.desc b1).all (fun o => decide (o ≤ fld x.desc 40 4)) = true)
    (hrows : (gatherIdx x.desc b0).all (fun r => (s'.gatherRow x tb y r).isSome) = true)
    (hsett : hasSett s' w y.homeDen x.tenancy u)
    (hout : letThrough u x ((List.range (gatherCount x.desc)).map
      (fun j => (descRes x.desc + j * roundup (gatherSize x.desc y) 64, gatherSize x.desc y, true))) v)
    (hclear : clear x v) (hsend : sends v x.port) (hsize : 0 < gatherSize x.desc y) :
    Does (.embGather w b0 b1) s (plus [.out, .works, .tables, .regs] (plus settParts (accessParts x v))) (fun t =>
      t.out = v.out ++ s'.gatherOut x tb y b0 b1 ∧ hasResult t w (gatherResult x y)) := by
  obtain rfl := State.gate_hosts hlet (gatherReads_host h0 h1)
  have hhost (j : Nat) (hj : j < gatherCount x.desc) := State.gate_blocks_host hout hres hsize hj
  obtain rfl : v = u := State.gate_hosts hout fun a ha => by
    obtain ⟨j, hj, rfl⟩ := List.mem_map.mp ha
    exact .inl (hhost j (List.mem_range.mp hj))
  obtain rfl : x.id = w := State.work_id s hx.1
  have hdim : 0 < y.dim := Nat.pos_of_mul_pos_right hsize
  have hadm := s.asAdmitted_only x tb 0x0403000
  have hy' : (s.asAdmitted x tb 0x0403000).table tb = some y := (State.table_congr (hadm .tables (by decide)) tb).trans hy
  have e : embGatherSt x.id b0 b1 s = s.restored x tb 0x0403000 (((s.asAdmitted x tb 0x0403000).gathered v x tb y b0 b1).used x.id) := by
    refine (State.withWork_startable hx _).trans ?_
    rw [htb, State.underGroup_eq, State.runGather_known htb hy' h0 h1 hlet hclean h hoffs hrows,
      State.writeGather_sent hsett hout hhost hsend hdim hle]
  obtain ⟨z, hz⟩ := hsett.takes.work ((State.work_congr (hadm .works (by decide)) x.id).trans hx.1)
  obtain ⟨hact, hsent, hdone⟩ := (s.asAdmitted x tb 0x0403000).gathered_keeps v x tb y b0 b1
  generalize (s.asAdmitted x tb 0x0403000).gathered v x tb y b0 b1 = g at e hact hsent hdone
  have hrec : v.recalled = g.recalled := hact .recalled (by decide)
  have hused := g.used_only x
  rw [accessParts_congr hrec] at hused
  have hback := s.restored_only x tb 0x0403000 (g.used x.id)
  have hparts : plus [.out, .works, .tables, .regs] (plus settParts (accessParts x v)) =
      plus [.out, .works, .tables, .regs] settParts ++ accessParts x v := (List.append_assoc _ _ _).symm
  have hthere : Only (plus [.out, .works, .tables, .regs] settParts) s g :=
    ((hadm.mono rfl).trans (hsett.takes.only.append_left _)).trans (hact.mono rfl)
  rw [hparts]
  refine Does.of_eq rfl e (((hthere.append_right _).trans (hused.append_left _)).trans ((hback.mono rfl).append_right _)) ⟨?_, ?_⟩
  · have hout : (s.restored x tb 0x0403000 (g.used x.id)).out = (g.used x.id).out := (hback .out (by decide)).symm
    rw [hout, State.used_out g (by rwa [clear, ← hrec]), hsent]
  · exact hasResult_congr (hasResult_congr (hdone z hz) (State.used_works g x.id).symm) (hback .works (by decide))

end

end Sys2Proof.Machine
end

section
/-!
SUPPORT. Updates of embedding tables and the phases of their steps (R354–R364).
-/

namespace Sys2Proof.Machine

/-! ### EMB_UPDATE (R354–R357) -/

/-- A record of an EMB_UPDATE with its vector: row, mode and elements. -/
def updateRec (dim stride : Nat) (r v : Bytes) (i : Nat) : Nat × Nat × List Nat :=
  (fld r (8 * i) 4, fld r (8 * i + 4) 1, (List.range dim).map (fun e => fld v (i * stride + 4 * e) 4))

/-- A table after updates of a step by a source. -/
def Table.updates (y : Table) (step src : Nat) (recs : List (Nat × Nat × List Nat)) : Table :=
  recs.foldl (fun z e => z.update step src e.1 e.2.1 e.2.2) y

/-- Updates change the pending states alone. -/
theorem Table.updates_eq (y : Table) (step src : Nat) (recs : List (Nat × Nat × List Nat)) :
    y.updates step src recs = { y with pending := (y.updates step src recs).pending } := by
  induction recs generalizing y with
  | nil => rfl
  | cons e rest ih => exact ih (y.update step src e.1 e.2.1 e.2.2)

/-- The first updates of the steps, with one of a step noted. -/
def Table.noted (y : Table) (step w : Nat) : Tab Nat := if (tget y.updFirst step).isSome then y.updFirst else tset y.updFirst step w

theorem Table.updates_noted (y : Table) (step src w : Nat) (recs : List (Nat × Nat × List Nat)) :
    { y.updates step src recs with updFirst := (y.updates step src recs).noted step w } =
      { y with pending := (y.updates step src recs).pending, updFirst := y.noted step w } := by
  have h := y.updates_eq step src recs
  generalize y.updates step src recs = z at h ⊢
  rw [h]
  rfl

section
variable {s s' : State} {w tb n stride : Nat} {x : Work} {y z : Table} {b0 b1 r v : Bytes} {recs : List (Nat × Nat × List Nat)}

theorem embUpdate_takes (hx : startable s w x 0x31) (htb : descTable x.desc = tb) (hy : s.table tb = some y)
    (hturn : (s.works.takeWhile (fun z => z.id != w)).any (fun z => z.opcode == 0x31 && descTable z.desc == tb && z.result.isNone) = false)
    (hn : fld x.desc 34 2 = n) (hstride : roundup (4 * y.dim) 64 = stride)
    (hr : readable s x [(descOp0 x.desc, 8 * n), (descOp1 x.desc, n * stride)] s') (hrecs : s'.readAt x (descOp0 x.desc) (8 * n) b0 = r)
    (hvecs : s'.readAt x (descOp1 x.desc) (n * stride) b1 = v) (hl : (List.range n).map (updateRec y.dim stride r v) = recs)
    (hz : y.updates x.snap s'.myRank recs = z)
    (hrow : (List.range n).all (fun i => s'.rowKnown tb y (fld r (8 * i) 4) && decide (fld r (8 * i + 4) 1 ≤ 1) && zeroRange r (8 * i + 5) 3) = true)
    (hfin : recs.all (fun e => e.2.2.all (fun u => (f32 u).isFinite)) = true)
    (hroom : (z.pending.filter (fun p => p.step == x.snap && p.src == s'.myRank)).length ≤ y.pendRows) :
    Does (.embUpdate w b0 b1) s (plus [.works, .tables] (accessParts x s')) (fun t =>
      tableBecomes s t tb { y with pending := z.pending, updFirst := y.noted x.snap w } ∧ hasResult t w { Result.done n with snap := x.snap }) := by
  have hbad : (List.range n).any (fun i => !s'.rowKnown tb y (fld r (8 * i) 4) || decide (1 < fld r (8 * i + 4) 1) ||
      !zeroRange r (8 * i + 5) 3) = false := by
    rw [List.any_eq_false]
    intro i hi
    have := List.all_eq_true.mp hrow i hi
    simp only [Bool.and_eq_true, decide_eq_true_eq] at this
    simp [this.1.1, this.1.2, this.2]
  have hinf : recs.any (fun e => e.2.2.any (fun z => !(f32 z).isFinite)) = false := by
    rw [List.any_eq_false]
    intro e he
    have := List.all_eq_true.mp hfin e he
    rwa [← List.not_all_eq_any_not, Bool.not_eq_true, Bool.not_eq_false']
  refine Does.reads_setsTable hx (State.gate_go hx.unstalled hr.1) (Only.refl [] s') rfl rfl rfl ((State.withWork_startable hx _).trans ?_)
  subst htb hn hstride hrecs hvecs hl hz
  simp only [hy]
  refine (if_neg (Bool.eq_false_iff.mp hturn)).trans ((State.withReads_readable hr _).trans (congrArg (State.used · x.id) ((if_neg ?_).trans
    ((if_neg ?_).trans ((if_neg ?_).trans ?_)))))
  · exact Bool.eq_false_iff.mp hbad
  · exact Bool.eq_false_iff.mp hinf
  · exact hroom.not_gt
  · rw [State.work_id s hx.1]
    exact congrArg (fun q => (s'.setTable _ q).finish w _) (y.updates_noted x.snap s'.myRank w _)

end

/-! ### Messages of a step (R361) -/

section
variable (s : State)

theorem State.sendEmb_only (t rank shard type : Nat) (payload : Bytes) : Only [.out] s (s.sendEmb t rank shard type payload) :=
  s.sendTo_only _ _ _

theorem State.sendCopies_only (t rank shard step stride : Nat) (rows : List (Nat × Bytes)) :
    Only [.out] s (s.sendCopies t rank shard step stride rows) :=
  Only.foldl (fun u _ => u.sendEmb_only _ _ _ _ _) _ s

theorem State.sendPend_only (t rank step dim : Nat) (ps : List PendRow) : Only [.out] s (s.sendPend t rank step dim ps) :=
  Only.foldl (fun u _ => u.sendEmb_only _ _ _ _ _) _ s

theorem State.sendMarkers_only (t step phase : Nat) : Only [.out] s (s.sendMarkers t step phase) :=
  Only.foldl (fun u _ => u.sendEmb_only _ _ _ _ _) _ s

theorem State.pushCopies_only (t step stride : Nat) (rows : List (Nat × Bytes × List Nat)) : Only [.out] s (s.pushCopies t step stride rows) :=
  Only.foldl (fun u _ => Only.foldl (fun v _ => v.sendCopies_only _ _ _ _ _ _) _ u) _ s

theorem State.createRequest_only (kind w : Nat) : Only [.fabric] s (s.createRequest kind w) := s.fabric_only _

end

/-! ### The phases of a step (R361–R363) -/

/-- A table is in the phase of a step that another shows, its version and its last completed step being the same. -/
def stepOf (t : State) (i : Nat) (y : Table) (e : StepEnd) : Prop :=
  ∃ z f, t.table i = some z ∧ z.stepEnd = some f ∧ f.w = e.w ∧ f.step = e.step ∧ f.phase = e.phase ∧ z.cur = y.cur ∧ z.doneStep = y.doneStep

section
variable {s : State} {i : Nat} {y : Table} {e : StepEnd} (hy : s.table i = some y)

include hy in
/-- What a step can do next. -/
theorem State.advanceStep_cases (he : y.stepEnd = some e) : s.advanceStep i = s ∨ (e.phase = 1 ∧ s.advanceStep i = s.combineStep i y e) ∨
    (e.phase = 2 ∧ s.advanceStep i = s.completeStep i y e) := by
  unfold State.advanceStep
  simp only [hy, he]
  split_ifs with hwait hone htwo
  · exact .inl rfl
  · exact .inr (.inl ⟨hone.1, rfl⟩)
  · exact .inr (.inr ⟨htwo.1, rfl⟩)
  · exact .inl rfl

include hy in
/-- Combining the sources' states leaves a table in its phase, with its version as it was. -/
theorem State.combineStep_keeps (he : y.stepEnd = some e) :
    Only (plus [.tables] settParts) s (s.combineStep i y e) ∧ stepOf (s.combineStep i y e) i y e := by
  refine State.onSett_induct (P := fun t => Only (plus [.tables] settParts) s t ∧ stepOf t i y e) (fun u hu => ?_)
    (fun u hu => ⟨hu.only.append_left _, y, e, ?_, he, rfl, rfl, rfl, rfl, rfl⟩)
  · have hpush (v : State) (step stride : Nat) (rows : List (Nat × Bytes × List Nat)) := v.pushCopies_only i step stride rows
    refine ⟨(hu.only.append_left _).trans (((u.setTable_only i _).mono rfl).trans ((hpush _ _ _ _).mono rfl)), ?_⟩
    exact ⟨_, _, (State.table_congr (hpush _ _ _ _ .tables (by decide)) i).trans (u.setTable_becomes i _).1, rfl, rfl, rfl, rfl, rfl, rfl⟩
  · exact (State.table_congr (hu.only .tables (by decide)) i).trans hy

/-- The end of a step leaves a table's version as it is. -/
theorem State.completeStep_keeps (s : State) (i : Nat) (y : Table) (e : StepEnd) :
    Only [.out, .works, .waits, .tables, .fabric] s (s.completeStep i y e) ∧ ∃ z, (s.completeStep i y e).table i = some z ∧ z.cur = y.cur := by
  have hset (u : State) (z : Table) : Only [.out, .works, .waits, .tables, .fabric] u (u.setTable i z) := (u.setTable_only i z).mono rfl
  have hphase (u : State) (b : Bytes) : Only [.out, .fabric] u (u.endPhase 2 e.w 3 b) := u.endPhase_only 2 e.w 3 b
  have hrequest (u : State) : Only [.out, .fabric] u (if u.partner.isNone then u.endRequest 2 e.w else u) :=
    Only.ite (fun _ => (u.endRequest_only _ _).mono rfl) (fun _ => Only.refl _ u)
  have hfinish (u : State) (r : Result) := u.finish_only e.w r
  have sent (u : State) (b : Bytes) := (hphase u b).trans (hrequest _)
  refine ⟨((hset s _).trans ((sent _ _).mono rfl)).trans ((hfinish _ _).mono rfl), _, (State.table_congr (((sent _ _).mono
    (qs := [.out, .fabric, .works, .waits]) rfl).trans ((hfinish _ _).mono rfl) .tables (by decide)) i).trans (s.setTable_becomes i _).1, rfl⟩

end

/-! ### EMB_STEP_END (R358) -/

section
variable {s : State} {w tb : Nat} {x : Work} {y : Table} (hx : startable s w x 0x32) (htb : descTable x.desc = tb) (hy : s.table tb = some y)
  (hend : y.stepEnd = none)
include hx htb hy hend

theorem embStepEnd_outOfTurn (h : fld x.desc 40 8 ≠ y.doneStep + 1) :
    Does (.embStepEnd w) s [.works, .waits] (fun t => hasResult t w (Result.err 0x10 32)) := by
  subst htb
  refine Does.finishes hx rfl ((State.withWork_startable hx _).trans ?_)
  simp only [hy, hend]
  exact if_pos h

end

/-- A step that begins, in its first phase. -/
def State.firstPhase (s : State) (w i n : Nat) : StepEnd :=
  { w, step := n, phase := 1, combined := none, newRows := [], published := 0, unchanged := 0, unawaited := s.embLost i }

/-- A table whose step begins. -/
def State.stepTable (s : State) (w i n : Nat) (y : Table) : Table :=
  { y with stepEnd := some (s.firstPhase w i n), endStep := max y.endStep n }

/-- What leaves in the first phase of a step: the pending states of rows homed elsewhere, the markers, the copy of the step's state. -/
def State.sendFirst (u : State) (w i n dim : Nat) (away : List PendRow) (image : Bytes) : State :=
  (((u.embOthers i).foldl (fun v r => v.sendPend i r n dim (away.filter (fun p => v.shardHome i (v.rowShard i p.row) == some r))) u).sendMarkers
    i n 1).endPhase 2 w 1 image

theorem State.sendFirst_only (u : State) (w i n dim : Nat) (away : List PendRow) (image : Bytes) :
    Only [.out, .fabric] u (u.sendFirst w i n dim away image) :=
  ((Only.foldl (fun v _ => (v.sendPend_only _ _ _ _ _).mono rfl) _ u).trans ((State.sendMarkers_only _ _ _ _).mono rfl)).trans
    (State.endPhase_only _ _ _ _ _)

/-- The state in which a step begins. -/
def State.stepBegun (s : State) (w i n : Nat) (y : Table) : State :=
  let u := (s.setTable i (s.stepTable w i n y)).createRequest 2 w
  u.sendFirst w i n y.dim (y.pending.filter (fun p => p.step == n && p.src == u.myRank && !u.rowHere i p.row))
    (stepImage i y (s.firstPhase w i n))

theorem State.stepBegun_begins (s : State) (w i n : Nat) (y : Table) :
    Only [.out, .tables, .fabric] s (s.stepBegun w i n y) ∧ (s.stepBegun w i n y).table i = some (s.stepTable w i n y) := by
  have after : Only [.out, .fabric] (s.setTable i (s.stepTable w i n y)) (s.stepBegun w i n y) :=
    ((State.createRequest_only _ 2 w).mono rfl).trans (State.sendFirst_only _ _ _ _ _ _ _)
  exact ⟨((s.setTable_only i _).mono rfl).trans (after.mono rfl),
    (State.table_congr (after .tables (by decide)) i).trans (s.setTable_becomes i _).1⟩

theorem embStepEnd_begins {s : State} {w tb n : Nat} {x : Work} {y : Table} (hx : startable s w x 0x32) (htb : descTable x.desc = tb)
    (hy : s.table tb = some y) (hend : y.stepEnd = none) (hn : fld x.desc 40 8 = n) (h : n = y.doneStep + 1)
    (hfree : s.works.any (fun z => descTable z.desc == tb && z.result.isNone &&
      ((z.opcode == 0x31 && z.snap == n) || (z.opcode == 0x30 && decide (z.snap + 1 < n)))) = false) :
    Does (.embStepEnd w) s (plus [.tables] settParts) (fun t => stepOf t tb y (s.firstPhase w tb n)) := by
  obtain ⟨honly, htable⟩ := s.stepBegun_begins w tb n y
  have e : embStepEndSt w s = (s.stepBegun w tb n y).advanceStep tb := by
    subst htb hn
    refine (State.withWork_startable hx _).trans ?_
    simp only [hy, hend]
    exact (if_neg (not_not_intro h)).trans (if_neg (Bool.eq_false_iff.mp hfree))
  generalize s.stepBegun w tb n y = u at e honly htable
  obtain hstay | ⟨-, hgo⟩ | ⟨htwo, -⟩ := State.advanceStep_cases htable rfl
  · rw [hstay] at e
    exact Does.of_eq rfl e (honly.mono rfl) ⟨_, _, htable, rfl, rfl, rfl, rfl, rfl, rfl⟩
  · rw [hgo] at e
    obtain ⟨hcomb, hstep⟩ := State.combineStep_keeps htable rfl
    exact Does.of_eq rfl e ((honly.mono rfl).trans hcomb) hstep
  · cases htwo

/-! ### EMB_PUBLISH (R361, R364) -/

section
variable {s : State} {i step : Nat} {y : Table}

/-- The new copy of a row of a table without a group becomes current. -/
theorem State.publishRow_alone (h : s.embSize i = 1) (x : Table) (r : Nat × Bytes) :
    (s.publishRow i step x r).cur.rows = tset x.cur.rows r.1 r.2 ∧ (s.publishRow i step x r).cur.rowStep = tset x.cur.rowStep r.1 step := by
  unfold State.publishRow State.rowLocal
  rw [if_pos (.inr h)]
  simp only [h, if_true, and_self]

/-- New copies of different rows become current, and every other row stays. -/
theorem State.publishRows_alone (h : s.embSize i = 1) {rows : Tab Bytes} (hn : (rows.map (·.1)).Nodup) (x : Table) :
    (∀ r ∈ rows, tget (rows.foldl (s.publishRow i step) x).cur.rows r.1 = some r.2 ∧
      tget (rows.foldl (s.publishRow i step) x).cur.rowStep r.1 = some step) ∧
    ∀ r, (∀ n ∈ rows, n.1 ≠ r) → tget (rows.foldl (s.publishRow i step) x).cur.rows r = tget x.cur.rows r ∧
      tget (rows.foldl (s.publishRow i step) x).cur.rowStep r = tget x.cur.rowStep r := by
  induction rows generalizing x with
  | nil => simp
  | cons a rest ih =>
    obtain ⟨hfirst, hrest⟩ := List.nodup_cons.mp hn
    obtain ⟨hin, hout⟩ := ih hrest (s.publishRow i step x a)
    obtain ⟨hrows, hsteps⟩ := State.publishRow_alone (step := step) h x a
    rw [hrows, hsteps] at hout
    rw [List.foldl_cons]
    refine ⟨List.forall_mem_cons.mpr ⟨?_, hin⟩, fun r hr => ?_⟩
    · obtain ⟨h1, h2⟩ := hout a.1 fun n hm he => hfirst (List.mem_map.mpr ⟨n, hm, he⟩)
      exact ⟨h1.trans (tget_tset_same _ _ _), h2.trans (tget_tset_same _ _ _)⟩
    · obtain ⟨hne, hr⟩ := List.forall_mem_cons.mp hr
      obtain ⟨h1, h2⟩ := hout r hr
      exact ⟨h1.trans (tget_tset_ne _ (Ne.symm hne) _), h2.trans (tget_tset_ne _ (Ne.symm hne) _)⟩

/-- A table whose new copies have become current; those kept for readers of the step before the last are gone. -/
def State.publishedTable (s : State) (i : Nat) (y : Table) (e : StepEnd) : Table :=
  e.newRows.foldl (s.publishRow i e.step) { y with cur := { y.cur with kept := y.cur.kept.filter (fun k => decide (e.step ≤ k.1)) } }

/-- A step in its second phase. -/
def StepEnd.second (e : StepEnd) : StepEnd := { e with phase := 2, newRows := [] }

/-- The state in which the new copies of a step are current, and the markers and the copy of its second phase have left. -/
def State.stepPublished (s : State) (i : Nat) (y : Table) (e : StepEnd) : State :=
  ((s.setTable i { s.publishedTable i y e with stepEnd := some e.second }).sendMarkers i e.step 2).endPhase 2 e.w 2
    (stepImage i (s.publishedTable i y e) e.second)

theorem State.stepPublished_publishes (s : State) (i : Nat) (y : Table) (e : StepEnd) :
    Only [.out, .tables, .fabric] s (s.stepPublished i y e) ∧
      (s.stepPublished i y e).table i = some { s.publishedTable i y e with stepEnd := some e.second } := by
  have after : Only [.out, .fabric] (s.setTable i { s.publishedTable i y e with stepEnd := some e.second }) (s.stepPublished i y e) :=
    ((State.sendMarkers_only _ _ _ _).mono rfl).trans (State.endPhase_only _ _ _ _ _)
  exact ⟨((s.setTable_only i _).mono rfl).trans (after.mono rfl),
    (State.table_congr (after .tables (by decide)) i).trans (s.setTable_becomes i _).1⟩

theorem embPublish_publishes {e : StepEnd} {f : Nat} (hy : s.table i = some y) (he : y.stepEnd = some e) (hone : e.phase = 1)
    (hcomb : e.combined = some f) (hf : f < s.frame) (hlast : s.time.lastFrame < s.frame) (hsize : s.embSize i = 1)
    (hn : (e.newRows.map (·.1)).Nodup) :
    Does (.embPublish i) s [.out, .works, .waits, .tables, .fabric] (fun t => ∃ z, t.table i = some z ∧
      (∀ r ∈ e.newRows, tget z.cur.rows r.1 = some r.2 ∧ tget z.cur.rowStep r.1 = some e.step) ∧
      (∀ r, (∀ n ∈ e.newRows, n.1 ≠ r) → tget z.cur.rows r = tget y.cur.rows r)) := by
  obtain ⟨hin, hout⟩ := State.publishRows_alone (step := e.step) hsize hn
    { y with cur := { y.cur with kept := y.cur.kept.filter (fun k => decide (e.step ≤ k.1)) } }
  have hrun : embPublishSt i s = (s.stepPublished i y e).advanceStep i := by
    unfold embPublishSt
    simp only [hy]
    split
    · next p hp =>
      obtain rfl : e = p := Option.some.inj (he.symm.trans hp)
      exact if_neg (by simp [hone, hcomb, hf, hlast])
    · next hp => exact absurd (he.symm.trans hp) (Option.some_ne_none e)
  obtain ⟨honly, htable⟩ := s.stepPublished_publishes i y e
  generalize s.stepPublished i y e = u at hrun honly htable
  obtain hstay | ⟨hfirst, -⟩ | ⟨-, hgo⟩ := State.advanceStep_cases htable rfl
  · rw [hstay] at hrun
    exact Does.of_eq rfl hrun (honly.mono rfl) ⟨_, htable, hin, fun r hr => (hout r hr).1⟩
  · cases hfirst
  · rw [hgo] at hrun
    obtain ⟨hdone, q, hq, hcur⟩ := u.completeStep_keeps i { s.publishedTable i y e with stepEnd := some e.second } e.second
    refine Does.of_eq rfl hrun ((honly.mono rfl).trans hdone) ⟨q, hq, ?_⟩
    rw [hcur]
    exact ⟨hin, fun r hr => (hout r hr).1⟩

end

end Sys2Proof.Machine
end

section
/-!
SUPPORT. The statement of O35, put together from the laws of loads and switches, gathers, updates and steps.
-/

namespace Sys2Proof.Machine

theorem Does.imp {c : Instr} {s : State} {ps : List Part} {P Q : State → Prop} (h : Does c s ps P) (hpq : ∀ t, P t → Q t) : Does c s ps Q := by
  obtain ⟨t, ht, honly, hp⟩ := h
  exact ⟨t, ht, honly, hpq t hp⟩

/-- Settles O35: each clause is the law of its command. -/
theorem embeddingTables : Obligations.EmbeddingTables := by
  unfold Obligations.EmbeddingTables
  intro w x y b0 b1 s s' s1 s''
  refine ⟨fun hx => ?load, fun hx hy hsw => ⟨tableSwitch_unstaged hx rfl hy hsw, tableSwitch_waits hx rfl hy hsw⟩,
    fun i v f late hy hsw hv hf hw => ?switch, fun hx hy h0 h1 hres hlet hclean => ?gather, fun hx hy hturn => ?update,
    fun hx hy hend => ?stepEnd, fun i e f hy he hone hcomb hf hlast hsize hn => embPublish_publishes hy he hone hcomb hf hlast hsize hn⟩
  case load =>
    intro rows stride hr
    refine ⟨fun hn hbad => tableLoad_badRow hx rfl hr rfl hn hbad, fun hy hok hfmt htier hdim hrows hpend => ?_, fun hn hok hroom => ?_⟩
    · exact (tableLoad_stages hx rfl hr rfl hy hok hfmt htier hdim hrows hpend).imp fun t ⟨⟨hsame, hother⟩, hdone⟩ =>
        ⟨⟨_, hsame, rfl, fun i hi => loadVersion_row x.desc _ hi⟩, hother, hdone⟩
    · exact (tableLoad_creates hx rfl hr rfl hn hok hroom).imp fun t ⟨⟨areas, u, hsame, hother⟩, hdone⟩ =>
        ⟨⟨_, hsame, rfl, rfl, rfl, rfl, fun i hi => loadVersion_row x.desc _ hi⟩, hother, hdone⟩
  case switch =>
    exact (tableSwitchApply_switches hy hsw hv hf hw).imp fun t ⟨⟨z, ⟨hsame, hother⟩, hcur, hstaged, hnone⟩, hdone⟩ =>
      ⟨⟨z, hsame, hcur, hstaged, hnone⟩, hother, hdone⟩
  case gather =>
    exact ⟨embGather_unknown hx rfl hy h0 h1 hlet hclean, fun h hoffs hle hrows hsett hout hclear hsend hsize =>
      embGather_gathers hx rfl hy h0 h1 hlet hclean hres h hoffs hle hrows hsett hout hclear hsend hsize⟩
  case update =>
    intro n stride hr r v recs z hrow hfin hroom
    exact (embUpdate_takes hx rfl hy hturn rfl rfl hr rfl rfl rfl rfl hrow hfin hroom).imp fun t ⟨⟨hsame, hother⟩, hdone⟩ => ⟨hsame, hother, hdone⟩
  case stepEnd =>
    exact ⟨embStepEnd_outOfTurn hx rfl hy hend, fun h hfree => embStepEnd_begins hx rfl hy hend rfl h hfree⟩

end Sys2Proof.Machine
end
